-- ==== Sys2Proof/Word.lean ====
section
/-! DEFINITION. The word types of the panel (R2, R191, R253) and the sparse maps that hold
indexed state: plain lists of key and value, keys strictly rising. -/

namespace Sys2Proof

/-- One byte of memory. -/
abbrev Byte := BitVec 8
/-- A 32-bit lane, operation word or sequencer word (R2). -/
abbrev Word := BitVec 32
/-- A 64-bit sequencer register (R253). -/
abbrev Dword := BitVec 64
/-- The 768 payload bits of a token: element `e` of width `w` stands at bits `w*e` (R191, R333). -/
abbrev Payload := BitVec 768
/-- The lane poison mask of a token (R141). -/
abbrev LaneMask := BitVec 24

/-- Sparse indexed data: entries in strictly rising key order. -/
abbrev SMap (α : Type) := List (Nat × α)

/-- Integer value of the bits of `x` (two's complement), for signed readings (R191, R258). -/
def signed {w : Nat} (x : BitVec w) : Int := x.toInt

/-- Narrowing of an exact integer: `v mod 2^w` (R192, R258). -/
def wrap (w : Nat) (v : Int) : BitVec w := BitVec.ofInt w v

end Sys2Proof
end

