-- ==== Sys2Proof/Config.lean ====
section
/-! DEFINITION. What one panel fixes, and the free values: opaque constants without a body, about
which nothing can be proved. Each is named in the assumption log. -/

namespace Sys2Proof.Config

/-- Columns and rows of the die mesh (R7, R11). -/
abbrev dieCols : Nat := 10
abbrev dieRows : Nat := 16
/-- Panel tile grid (R11). -/
abbrev panelCols : Nat := 160
abbrev panelRows : Nat := 256
/-- Fabric cycles of a microsecond at nominal clock (R4). -/
abbrev fcPerUs : Nat := 2500
/-- Fabric cycles of one tick at nominal clock (R90). -/
abbrev fcPerTick : Nat := 64
/-- Periods of the nominal clock between the audit windows of two dies: 62.5 us (R422). -/
abbrev fcPerAudit : Nat := 156250
/-- Park limit in fc (R64). -/
abbrev parkLimit : Nat := 125000
/-- Drain limit in fc: 100 us (R392). -/
abbrev drainLimit : Nat := 250000
/-- Twin limit in fc (R418). -/
abbrev twinLimit : Nat := 50000
/-- Clock rebase shift (R92). -/
abbrev rebaseShift : Nat := 2 ^ 39
/-- Tick at which the horizon is reached, and at which the counters stop (R91). -/
abbrev horizonTick : Nat := 0xF000000000
abbrev stopTick : Nat := 0xFFFFFFFFFF

/-- Free value: a byte of host memory as the host supplies it, by draw number and address (log 3). -/
opaque hostByte : Nat → Nat → Byte
/-- Free value: do the bytes of a 32-byte sector of the host or of a peer arrive poisoned, by draw number and sector (R150, R152;
log 3)? -/
opaque hostPois : Nat → Nat → Bool
/-- Free value: does a request to the host window carry an address that ATS has translated (R56; log 17)? -/
opaque atsUsed : Nat → Bool
/-- Free value: which copy of a full reach-through store gives way (R67, R120; log 7). -/
opaque copyVictim : Nat → Nat
/-- Free value: does a PREF or a run-ahead load of a remote line also bring it into the reach-through store (R343; log 21)? -/
opaque prefCopy : Nat → Bool
/-- Free value: does a fill leave an older copy of its line in place (R120; log 1)? -/
opaque keepCopy : Nat → Bool
/-- Free value: is an access performed ahead of an edge whose scope leaves some agent out (R119; log 28)? -/
opaque early : Nat → Bool
/-- Free value: which of its accesses an engine makes next (R133; log 52). -/
opaque engPick : Nat → Nat
/-- Free value: which way of a full LLC set is evicted (R460 pseudo-LRU; log 7). -/
opaque llcVictim : Nat → Nat
/-- Free value: which entry of a full TLB slice, or of its descriptor store, is replaced (R49 pseudo-LRU; log 9). -/
opaque tlbVictim : Nat → Nat
/-- Free value: the rank of a turn among the turns of its fabric cycle (log 1). -/
opaque turnOrder : Nat → Nat → Nat
/-- Free value: does an enabled event come about in this fabric cycle (log 1)? -/
opaque turnNow : Nat → Nat → Bool
/-- Free value: the dies whose tick counter leads after an advance (R90; log 1). -/
opaque tickLead : Nat → BitVec 160
/-- Free value: may a reach-through copy serve this read (R117, R120; log 1). -/
opaque useCopy : Nat → Bool
/-- Free value: a fetch of a program word that was stored to returns the old word (R254; log 10). -/
opaque staleFetch : Nat → Bool
/-- Free value: a byte of a save-area body, laid out by VERSION and read only by the device (R396; log 11). -/
opaque saveByte : Nat → Nat → Byte
/-- Free value: a byte of an SPDM answer that rests on keys, certificates or digests (R438 to R441; log 12). -/
opaque spdmByte : Nat → Nat → Byte
/-- Free value: the data bits an uncorrectable error leaves (R82, R84; log 13). -/
opaque ueBits : Nat → BitVec 256
/-- Free value: a counter word that has no fixed reset value and no event yet (R5; log 4). -/
opaque undefinedField : Nat → Dword
/-- Free value: the size in 4 KiB units of a fatal-error dump (R402; log 14). -/
opaque dumpUnits : Nat → Nat
/-- Free value: a byte of a fatal-error dump, and whether it is poisoned (R402; log 14). -/
opaque dumpByte : Nat → Nat → Byte
/-- Free value: poison of a dump byte (R402; log 14). -/
opaque dumpPois : Nat → Nat → Bool
/-- Free value: byte `i` of the SHA3-384 digest of what a list of numbers describes (R440; log 12). -/
opaque digest : List Nat → Nat → Byte
/-- Free value: does the host's ATS answer report the page not present (R57; log 17)? -/
opaque atsMiss : Nat → Bool

end Sys2Proof.Config
end

