-- ==== Sys2Proof/Syntax.lean ====
section
/-! DEFINITION. The instructions and steps of the panel: one constructor per row of the table of
operations. Sequencer words (R219 to R227), operation words (R228 to R236), switch words (R237) and
the steps that have no encoding (95_what_each_step_holds). Fields are already told apart here;
register and operand numbers are names, not raw codes. -/

namespace Sys2Proof

/-- Operand type of an operation word (R191). -/
inductive ETy | i32 | f32 | bf16 | f16 | i16 | i8 | i64 | u32
  deriving DecidableEq, Repr

/-- Source operand (R228, R297). -/
inductive Src | v (n : BitVec 4) | i (n : BitVec 3) | k | lane | zero
  deriving DecidableEq, Repr

/-- Destination operand (R228, R298). -/
inductive Dst | v (n : BitVec 4) | o (n : BitVec 2)
  deriving DecidableEq, Repr

/-- Compare condition in OPX (R231). -/
inductive Cond | eq | ne | lt | le | gt | ge | un
  deriving DecidableEq, Repr

/-- Conversion format (R231). -/
inductive CFmt | i32 | f32 | bf16 | f16 | i16 | i8 | u32 | e4m3 | e5m2
  deriving DecidableEq, Repr

/-- Scope of an edge (R118). -/
inductive Scope | tile | lease | die | panel | sys
  deriving DecidableEq, Repr

/-- Access size of LD and ST (R220). -/
inductive MSize | b | h | w | d
  deriving DecidableEq, Repr

/-- Size of an AMO (R224). -/
inductive ASize | w | d
  deriving DecidableEq, Repr

/-- Ordering extension word (R234). `nsrc` is read only with CH = 1. -/
structure Ext where
  ch : Bool
  cls : BitVec 4
  mark : BitVec 2
  scope : Scope
  view : BitVec 3
  nsrc : BitVec 5
  deriving DecidableEq, Repr

/-- BFP memory form of GATH, SCAT, LDM and STM: the mantissa width 2 to 8 (R233). -/
abbrev Bfp := Option (BitVec 4)

/-- Optional mask register of a class-00 word (R231). -/
abbrev Msk := Option (BitVec 2)

/-- PCIe function a host access names (R425, R426). -/
inductive Fn | pf | vf (t : Nat)
  deriving DecidableEq, Repr

/-- Where an uncorrectable error strikes (R82, R430). -/
inductive UeLoc
  | lane (lease tile ctx reg lane : Nat)
  | port (lease tile ctx port slot lane : Nat)
  | seqReg (lease reg : Nat)
  | tileStore (lease tile off : Nat)
  | dieScratch (dpa : Nat)
  | llc (dpa : Nat)
  | hbm (dpa : Nat)
  | pool (dpa version : Nat)
  /-- A register of the replica's sequencer (R423). -/
  | seqRegR (lease reg : Nat)
  /-- A pending version of a line, by its slot of the lease (R82, R102). -/
  | pend (dpa lease slot : Nat)
  /-- Side fields of a token in a port buffer, its tag among them or not (R142). -/
  | side (lease tile ctx port slot : Nat) (tag : Bool)
  /-- The aux, incarnation or ordering fields of a memory request (R142). -/
  | reqSide (id : Nat)
  /-- A word of a configuration plane: 0 program memory, 1 handler table, 2 port bindings, 3 controller words, 4 switch
  words (R143). -/
  | config (lease tile : Nat) (shadow : Bool) (sec idx : Nat)
  deriving DecidableEq, Repr

/-- Completion status of a PCIe request (R56, R265). -/
inductive CplStatus | ok | ca | ur
  deriving DecidableEq, Repr

/-- What a peer panel answers to a request of this panel (R432). -/
inductive PeerReply
  | none
  | data (bytes : List Byte) (pois : List Bool)
  | atomic (code : BitVec 2) (old : Dword)
  | badTenant | badRange
  deriving DecidableEq, Repr

/-- Atomic operations (R264, R346). -/
inductive AOp | add | fadd | and | or | xor | min | max | minu | maxu | xchg | cas
  deriving DecidableEq, Repr

/-- What a peer panel asks of this panel (R432): bytes with one poison flag for each 32-byte sector (R152), or an
atomic of `n` bytes with its operand and comparand. -/
inductive PeerOp
  | read (n : Nat)
  | write (bytes : List Byte) (pois : List Bool)
  | atomic (op : AOp) (n : Nat) (d c : Dword) (dp cp : Bool)
  deriving DecidableEq, Repr

/-- Unit with an unscrubbed bit (R59). -/
inductive UnitLoc | hbm (block : Nat) | scratch (block : Nat) | tileStore (lease tile block : Nat)
  deriving DecidableEq, Repr

/-- What a boot attempt finds (R434, R435, R438): the firmware image in flash verifies; the panel map verifies, with its
MAPVER, DDIS, SDIS and SUBST; training, HBM4 initialisation and RPMB succeed; the boot watchdog runs out. -/
structure BootFind where
  fw : Bool
  map : Bool
  mapver : Nat
  ddis : BitVec 160
  sdis : BitVec 160
  subst : List (Nat × Nat)
  train : Bool
  hbm : Bool
  rpmb : Bool
  watchdog : Bool
  deriving DecidableEq, Repr

/-- One constructor per row of the table of operations. -/
inductive Instr
  /-- ROUTE (R360). -/
  | route (src dst : BitVec 5) (ctx : BitVec 2)
  /-- FORK (R360). -/
  | fork (src dst : BitVec 5) (ctx : BitVec 2)
  /-- MERGE (R360). -/
  | merge (src dst : BitVec 5) (ctx : BitVec 2)
  /-- CUT (R361). -/
  | cut (track : BitVec 4) (cid : BitVec 8)
  /-- HOLD (R361). -/
  | hold (track : BitVec 4)
  /-- DLY (R361): delay - 1. -/
  | dly (track : BitVec 4) (delay : BitVec 8)
  /-- FWL (R362). -/
  | fwl (closed : BitVec 4)
  /-- TRAP (R288). -/
  | trap (code : BitVec 10)
  /-- SRD (R256). -/
  | srd (xd : BitVec 5) (n : BitVec 10)
  /-- SWR (R257). -/
  | swr (xa : BitVec 5) (n : BitVec 10)
  /-- FENCE (R266): kinds RR, RW, WR, WW from bit 3 down. -/
  | fence (kinds : BitVec 4) (scope : Scope)
  /-- PTEST (R287). -/
  | ptest (xd xa : BitVec 5)
  /-- PCLR (R287). -/
  | pclr (xd xa : BitVec 5)
  /-- ADD (R258). -/
  | add (xd xa xb : BitVec 5)
  /-- SUB (R258). -/
  | sub (xd xa xb : BitVec 5)
  /-- MUL (R258). -/
  | mul (xd xa xb : BitVec 5)
  /-- MULH (R258). -/
  | mulh (xd xa xb : BitVec 5)
  /-- MULHU (R258). -/
  | mulhu (xd xa xb : BitVec 5)
  /-- DIV (R258). -/
  | div (xd xa xb : BitVec 5)
  /-- DIVU (R258). -/
  | divu (xd xa xb : BitVec 5)
  /-- REM (R258). -/
  | rem (xd xa xb : BitVec 5)
  /-- REMU (R258). -/
  | remu (xd xa xb : BitVec 5)
  /-- AND (R258). -/
  | and (xd xa xb : BitVec 5)
  /-- OR (R258). -/
  | or (xd xa xb : BitVec 5)
  /-- XOR (R258). -/
  | xor (xd xa xb : BitVec 5)
  /-- SHL (R258). -/
  | shl (xd xa xb : BitVec 5)
  /-- SHR (R258). -/
  | shr (xd xa xb : BitVec 5)
  /-- SHA (R258). -/
  | sha (xd xa xb : BitVec 5)
  /-- SLT (R258). -/
  | slt (xd xa xb : BitVec 5)
  /-- SLTU (R258). -/
  | sltu (xd xa xb : BitVec 5)
  /-- MIN (R258). -/
  | min (xd xa xb : BitVec 5)
  /-- MAX (R258). -/
  | max (xd xa xb : BitVec 5)
  /-- MINU (R258). -/
  | minu (xd xa xb : BitVec 5)
  /-- MAXU (R258). -/
  | maxu (xd xa xb : BitVec 5)
  /-- CLZ (R258). -/
  | clz (xd xa : BitVec 5)
  /-- POPC (R258). -/
  | popc (xd xa : BitVec 5)
  /-- ADDI (R259). -/
  | addi (xd xa : BitVec 5) (imm : BitVec 16)
  /-- ANDI (R259). -/
  | andi (xd xa : BitVec 5) (imm : BitVec 16)
  /-- ORI (R259). -/
  | ori (xd xa : BitVec 5) (imm : BitVec 16)
  /-- XORI (R259). -/
  | xori (xd xa : BitVec 5) (imm : BitVec 16)
  /-- SHLI (R259). -/
  | shli (xd xa : BitVec 5) (sh : BitVec 6)
  /-- SHRI (R259). -/
  | shri (xd xa : BitVec 5) (sh : BitVec 6)
  /-- SHAI (R259). -/
  | shai (xd xa : BitVec 5) (sh : BitVec 6)
  /-- SLTI (R259). -/
  | slti (xd xa : BitVec 5) (imm : BitVec 16)
  /-- SLTIU (R259). -/
  | sltiu (xd xa : BitVec 5) (imm : BitVec 16)
  /-- LIH (R259). -/
  | lih (xd : BitVec 5) (imm : BitVec 16)
  /-- LIK (R259). -/
  | lik (xd : BitVec 5) (p : BitVec 2) (imm : BitVec 16)
  /-- BEQ (R260). -/
  | beq (xa xb : BitVec 5) (off : BitVec 16)
  /-- BNE (R260). -/
  | bne (xa xb : BitVec 5) (off : BitVec 16)
  /-- BLT (R260). -/
  | blt (xa xb : BitVec 5) (off : BitVec 16)
  /-- BGE (R260). -/
  | bge (xa xb : BitVec 5) (off : BitVec 16)
  /-- BLTU (R260). -/
  | bltu (xa xb : BitVec 5) (off : BitVec 16)
  /-- BGEU (R260). -/
  | bgeu (xa xb : BitVec 5) (off : BitVec 16)
  /-- JMP (R261). -/
  | jmp (off : BitVec 26)
  /-- JAL (R261). -/
  | jal (off : BitVec 26)
  /-- JALR (R261). -/
  | jalr (xd xa : BitVec 5) (imm : BitVec 16)
  /-- LD (R262). -/
  | ld (xd xa : BitVec 5) (size : MSize) (sgn ord : Bool) (off : BitVec 12)
  /-- ST (R262). -/
  | st (xd xa : BitVec 5) (size : MSize) (ord : Bool) (off : BitVec 12)
  /-- AMO_ADD (R264). -/
  | amoAdd (xd xa xb : BitVec 5) (size : ASize) (scope : Scope)
  /-- AMO_AND (R264). -/
  | amoAnd (xd xa xb : BitVec 5) (size : ASize) (scope : Scope)
  /-- AMO_OR (R264). -/
  | amoOr (xd xa xb : BitVec 5) (size : ASize) (scope : Scope)
  /-- AMO_XOR (R264). -/
  | amoXor (xd xa xb : BitVec 5) (size : ASize) (scope : Scope)
  /-- AMO_MIN (R264). -/
  | amoMin (xd xa xb : BitVec 5) (size : ASize) (scope : Scope)
  /-- AMO_MAX (R264). -/
  | amoMax (xd xa xb : BitVec 5) (size : ASize) (scope : Scope)
  /-- AMO_MINU (R264). -/
  | amoMinu (xd xa xb : BitVec 5) (size : ASize) (scope : Scope)
  /-- AMO_MAXU (R264). -/
  | amoMaxu (xd xa xb : BitVec 5) (size : ASize) (scope : Scope)
  /-- AMO_XCHG (R264). -/
  | amoXchg (xd xa xb : BitVec 5) (size : ASize) (scope : Scope)
  /-- AMO_CAS (R264). -/
  | amoCas (xd xa xb : BitVec 5) (size : ASize) (scope : Scope)
  /-- SNAP (R267). -/
  | snap (xd : BitVec 5)
  /-- SREL (R267). -/
  | srel (view : BitVec 3)
  /-- TXB (R267). -/
  | txb (xd : BitVec 5)
  /-- TXC (R104). -/
  | txc (xd : BitVec 5) (view : BitVec 3) (clean : Bool)
  /-- TXA (R103). -/
  | txa (view : BitVec 3)
  /-- TXS (R267). -/
  | txs (xd : BitVec 5) (view : BitVec 3)
  /-- PUBL (R108). -/
  | publ (xd : BitVec 5) (shadow : BitVec 2) (clean discard : Bool)
  /-- CFG (R270). -/
  | cfg (xd xa xb : BitVec 5)
  /-- CSWAP (R271). -/
  | cswap (xa : BitVec 5) (final : Bool)
  /-- WAITD (R272). -/
  | waitd (xd : BitVec 5)
  /-- DRAIN (R273). -/
  | drain (xd xa : BitVec 5)
  /-- STRM (R274). -/
  | strm (xa xb : BitVec 5)
  /-- GRPW (R276). -/
  | grpw (xa xb : BitVec 5)
  /-- ECOPY (R277). -/
  | ecopy (xd xa xb : BitVec 5) (sync : Bool) (shadow : BitVec 2)
  /-- EGATH (R277). -/
  | egath (xd xa xb : BitVec 5) (sync : Bool) (shadow : BitVec 2)
  /-- ECOLL (R277). -/
  | ecoll (xd xa xb : BitVec 5) (sync : Bool) (shadow : BitVec 2)
  /-- EWAIT (R284). -/
  | ewait (xd xa xb : BitVec 5)
  /-- LAUNCH (R285). -/
  | launch (xd xa : BitVec 5)
  /-- LAUNCHR (R285). -/
  | launchr (xd xa : BitVec 5)
  /-- JOIN (R286). -/
  | join (xd xa : BitVec 5)
  /-- VADD (R302). -/
  | vadd (ty : ETy) (d : Dst) (a b : Src) (m : Msk) (sat : Bool)
  /-- VSUB (R302). -/
  | vsub (ty : ETy) (d : Dst) (a b : Src) (m : Msk) (sat : Bool)
  /-- VMUL (R302). -/
  | vmul (ty : ETy) (d : Dst) (a b : Src) (m : Msk) (sat : Bool)
  /-- VMULH (R302). -/
  | vmulh (ty : ETy) (d : Dst) (a b : Src) (m : Msk)
  /-- VMAC (R302). -/
  | vmac (ty : ETy) (d : BitVec 4) (a b : Src) (m : Msk)
  /-- VMIN (R302). -/
  | vmin (ty : ETy) (d : Dst) (a b : Src) (m : Msk)
  /-- VMAX (R302). -/
  | vmax (ty : ETy) (d : Dst) (a b : Src) (m : Msk)
  /-- VABS (R302). -/
  | vabs (ty : ETy) (d : Dst) (a : Src) (m : Msk)
  /-- VNEG (R302). -/
  | vneg (ty : ETy) (d : Dst) (a : Src) (m : Msk)
  /-- VAND (R302). -/
  | vand (ty : ETy) (d : Dst) (a b : Src) (m : Msk)
  /-- VOR (R302). -/
  | vor (ty : ETy) (d : Dst) (a b : Src) (m : Msk)
  /-- VXOR (R302). -/
  | vxor (ty : ETy) (d : Dst) (a b : Src) (m : Msk)
  /-- VNOT (R302). -/
  | vnot (ty : ETy) (d : Dst) (a : Src) (m : Msk)
  /-- VSHL (R302). -/
  | vshl (ty : ETy) (d : Dst) (a b : Src) (m : Msk)
  /-- VSHR (R302). -/
  | vshr (ty : ETy) (d : Dst) (a b : Src) (m : Msk)
  /-- VSHA (R302). -/
  | vsha (ty : ETy) (d : Dst) (a b : Src) (m : Msk)
  /-- VPOPC (R302). -/
  | vpopc (ty : ETy) (d : Dst) (a : Src) (m : Msk)
  /-- VCLZ (R302). -/
  | vclz (ty : ETy) (d : Dst) (a : Src) (m : Msk)
  /-- VCMP (R305). -/
  | vcmp (ty : ETy) (d : Dst) (a b : Src) (m : Msk) (c : Cond)
  /-- VSEL (R306). -/
  | vsel (ty : ETy) (d : BitVec 4) (a b : Src) (m : Msk)
  /-- VMOV (R307). -/
  | vmov (d : Dst) (a : Src) (m : Msk)
  /-- VLI (R308). -/
  | vli (ty : ETy) (d : Dst) (imm : BitVec 16)
  /-- FADD (R303). -/
  | fadd (ty : ETy) (d : Dst) (a b : Src) (m : Msk)
  /-- FSUB (R303). -/
  | fsub (ty : ETy) (d : Dst) (a b : Src) (m : Msk)
  /-- FMUL (R303). -/
  | fmul (ty : ETy) (d : Dst) (a b : Src) (m : Msk)
  /-- FFMA (R303). -/
  | ffma (ty : ETy) (d : BitVec 4) (a b : Src) (m : Msk)
  /-- FFMS (R303). -/
  | ffms (ty : ETy) (d : BitVec 4) (a b : Src) (m : Msk)
  /-- FMIN (R303). -/
  | fmin (ty : ETy) (d : Dst) (a b : Src) (m : Msk)
  /-- FMAX (R303). -/
  | fmax (ty : ETy) (d : Dst) (a b : Src) (m : Msk)
  /-- FABS (R303). -/
  | fabs (ty : ETy) (d : Dst) (a : Src) (m : Msk)
  /-- FNEG (R303). -/
  | fneg (ty : ETy) (d : Dst) (a : Src) (m : Msk)
  /-- FDIV (R303). -/
  | fdiv (ty : ETy) (d : Dst) (a b : Src) (m : Msk)
  /-- FSQRT (R303). -/
  | fsqrt (ty : ETy) (d : Dst) (a : Src) (m : Msk)
  /-- FRSQ (R303). -/
  | frsq (ty : ETy) (d : Dst) (a : Src) (m : Msk)
  /-- FEX2 (R303). -/
  | fex2 (ty : ETy) (d : Dst) (a : Src) (m : Msk)
  /-- FLG2 (R303). -/
  | flg2 (ty : ETy) (d : Dst) (a : Src) (m : Msk)
  /-- FCMP (R304). -/
  | fcmp (ty : ETy) (d : Dst) (a b : Src) (m : Msk) (c : Cond)
  /-- FCLS (R304). -/
  | fcls (ty : ETy) (d : Dst) (a : Src) (m : Msk)
  /-- CVT (R309). -/
  | cvt (dst src : CFmt) (d : Dst) (a : Src) (m : Msk)
  /-- SCL (R310). -/
  | scl (ty : ETy) (d : Dst) (a b : Src) (m : Msk)
  /-- BFPK (R311). -/
  | bfpk (d : Dst) (a : Src) (w : BitVec 4) (m : Msk)
  /-- BFUP (R311). -/
  | bfup (d : Dst) (a : Src) (w : BitVec 4) (m : Msk)
  /-- RSUM (R312). -/
  | rsum (ty : ETy) (d : Dst) (a : Src) (m : Msk)
  /-- RMAX (R312). -/
  | rmax (ty : ETy) (d : Dst) (a : Src) (m : Msk)
  /-- RMIN (R312). -/
  | rmin (ty : ETy) (d : Dst) (a : Src) (m : Msk)
  /-- PERM (R313). -/
  | perm (ty : ETy) (d : Dst) (a b : Src) (m : Msk)
  /-- BPERM (R313). -/
  | bperm (ty : ETy) (d : Dst) (a b : Src) (m : Msk)
  /-- LSHF (R313). -/
  | lshf (ty : ETy) (d : Dst) (a b : Src) (m : Msk)
  /-- BCST (R313). -/
  | bcst (ty : ETy) (d : Dst) (a : Src) (l : BitVec 5) (m : Msk)
  /-- SHUF (R313). -/
  | shuf (ty : ETy) (d : Dst) (a b : Src) (m : Msk)
  /-- MMUL (R314). -/
  | mmul (d : Dst) (a b : Src) (m : Msk)
  /-- MADD (R314). -/
  | madd (d : Dst) (a b : Src) (m : Msk)
  /-- MSUB (R314). -/
  | msub (d : Dst) (a b : Src) (m : Msk)
  /-- NTTB (R314). -/
  | nttb (d : BitVec 4) (a b : Src) (m : Msk)
  /-- PTST (R315). -/
  | ptst (ty : ETy) (d : Dst) (a : Src) (m : Msk)
  /-- ELEMENT_PCLR (R315). -/
  | elementPclr (ty : ETy) (d : Dst) (a : Src) (m : Msk)
  /-- PFIL (R315). -/
  | pfil (ty : ETy) (d : Dst) (a b : Src) (m : Msk)
  /-- PSET (R315). -/
  | pset (ty : ETy) (d : Dst) (a b : Src) (m : Msk)
  /-- WAITF (R316). -/
  | waitf (p : BitVec 3) (n : BitVec 6)
  /-- WAITE (R316). -/
  | waite (p : BitVec 2) (n : BitVec 6)
  /-- ADV (R317). -/
  | adv (p : BitVec 3) (n : BitVec 6)
  /-- PUB (R318). -/
  | pub (p : BitVec 2) (n : BitVec 6)
  /-- PEEK (R319). -/
  | peek (d : Dst) (p : BitVec 3) (slot : BitVec 6)
  /-- EMIT (R320). -/
  | emit (p : BitVec 2) (x : Src)
  /-- EOS (R321): none names every bound output. -/
  | eos (p : Option (BitVec 2))
  /-- BR (R322). -/
  | br (off : BitVec 11)
  /-- BZ (R322). -/
  | bz (x : Src) (off : BitVec 11)
  /-- BNZ (R322). -/
  | bnz (x : Src) (off : BitVec 11)
  /-- LOOP (R323). -/
  | loop (d : BitVec 4) (off : BitVec 11)
  /-- GBAR (R324). -/
  | gbar (g : BitVec 8)
  /-- ELEMENT_TRAP (R325). -/
  | elementTrap (code : BitVec 8)
  /-- RDCT (R327). -/
  | rdct (d : Dst) (c : BitVec 11)
  /-- CTRW (R327). -/
  | ctrw (a : Src) (c : BitVec 11)
  /-- TDL (R338). -/
  | tdl (a : Src)
  /-- GEN (R339). -/
  | gen (ty : ETy) (d : Dst) (c : BitVec 4) (x : Option Ext)
  /-- GATH (R342). -/
  | gath (ty : ETy) (d : Dst) (a b : Src) (f : Bfp) (x : Option Ext)
  /-- SCAT (R342). -/
  | scat (d : BitVec 4) (a b : Src) (f : Bfp) (x : Option Ext)
  /-- LDM (R341). -/
  | ldm (ty : ETy) (d : Dst) (a : Src) (f : Bfp) (x : Option Ext)
  /-- STM (R341). -/
  | stm (d : BitVec 4) (a : Src) (f : Bfp) (x : Option Ext)
  /-- PREF (R343). -/
  | pref (a : Src)
  /-- ORD_STEP (R344). -/
  | ordStep (x : Ext)
  /-- ORD_FENCE (R344). -/
  | ordFence (kinds : BitVec 4) (x : Ext)
  /-- LDT (R345). -/
  | ldt (ty : ETy) (d : Dst) (a : Src) (loc : Bool) (x : Option Ext)
  /-- STT (R345). -/
  | stt (d : BitVec 4) (a : Src) (loc : Bool) (x : Option Ext)
  /-- AADD (R346). -/
  | aadd (ty : ETy) (a b : Src) (loc : Bool) (x : Option Ext)
  /-- AFAD (R346). -/
  | afad (ty : ETy) (d : Dst) (a b : Src) (loc : Bool) (x : Option Ext)
  /-- AMIN (R346). -/
  | amin (ty : ETy) (a b : Src) (loc : Bool) (x : Option Ext)
  /-- AMAX (R346). -/
  | amax (ty : ETy) (a b : Src) (loc : Bool) (x : Option Ext)
  /-- AAND (R346). -/
  | aand (ty : ETy) (a b : Src) (loc : Bool) (x : Option Ext)
  /-- AOR (R346). -/
  | aor (ty : ETy) (a b : Src) (loc : Bool) (x : Option Ext)
  /-- AXOR (R346). -/
  | axor (ty : ETy) (a b : Src) (loc : Bool) (x : Option Ext)
  /-- AXCH (R346). -/
  | axch (ty : ETy) (d : Dst) (a b : Src) (loc : Bool) (x : Option Ext)
  /-- ACAS (R346). -/
  | acas (ty : ETy) (d : BitVec 4) (a b : Src) (loc : Bool) (x : Option Ext)
  /-- SYNA (R348, R349). -/
  | syna (a b : Src) (loc grp : Bool) (x : Option Ext)
  /-- SYNW (R350). -/
  | synw (d : Dst) (a b : Src) (loc : Bool) (x : Option Ext)
  /-- WLD (R352). -/
  | wld (a b : Src)
  /-- MMA (R355). -/
  | mma (a b : Src) (w : BitVec 4) (n : BitVec 2)
  /-- MMAI (R356). -/
  | mmai (a b : Src) (w : BitVec 4) (n : BitVec 2)
  /-- ACRD (R357). -/
  | acrd (ty : ETy) (d : Dst) (seg : BitVec 3) (n : BitVec 2)
  /-- ACCL (R357). -/
  | accl (n : BitVec 2)
  /-- ILLEGAL_OP (R244). -/
  | illegalOp (w : Word)
  /-- NON_INSTR (R235). -/
  | nonInstr (w : Word)
  /-- INVALIDATION_COMPLETE (R43). -/
  | invalidationComplete (v : Nat)
  /-- QUEUE_SWITCH_IN_COMPLETE (R381). -/
  | queueSwitchInComplete (g : Nat)
  /-- ADDRESS_TOKEN_AT_SLICE (R48). -/
  | addressTokenAtSlice (id : Nat)
  /-- PAGER_FAULT_TOKEN (R60). -/
  | pagerFaultToken (job : Nat)
  /-- PAGER_B_WAIT_END (R60). -/
  | pagerBWaitEnd (job : Nat)
  /-- PAGER_FRAME_WAIT_END (R62). -/
  | pagerFrameWaitEnd (job : Nat)
  /-- PAGER_REPLY (R60). -/
  | pagerReply (job : Nat)
  /-- PARK_LIMIT_EXPIRY (R64). -/
  | parkLimitExpiry (lease : Nat)
  /-- HBM_REQUEST (R460); `useCopy`: a reach-through copy may serve (R120). -/
  | hbmRequest (id part : Nat) (useCopy : Bool)
  /-- LLC_MISS_FILL (R460). -/
  | llcMissFill (id part : Nat)
  /-- DIE_SCRATCH_REQUEST (R77). -/
  | dieScratchRequest (id part : Nat)
  /-- TILE_STORE_REQUEST (R71). -/
  | tileStoreRequest (id part : Nat)
  /-- MEMORY_REPLY (R48). -/
  | memoryReply (id : Nat) (peer : PeerReply)
  /-- SYNC_ARRIVAL (R80). -/
  | syncArrival (id : Nat)
  /-- SNAPSHOT_READ (R99). -/
  | snapshotRead (id part : Nat)
  /-- LOCK_WAIT_RESUME (R99). -/
  | lockWaitResume (id part : Nat)
  /-- LIVE_WRITE_VERSIONED (R101). -/
  | liveWriteVersioned (id part : Nat)
  /-- PENDING_VERSION_WRITE (R102). -/
  | pendingVersionWrite (id part : Nat)
  /-- VERSION_RECLAIM (R110). -/
  | versionReclaim (stack : Nat)
  /-- CHAIN_READ (R122). -/
  | chainRead (id : Nat)
  /-- CHAIN_ORDERED (R122). -/
  | chainOrdered (id : Nat)
  /-- CHAIN_READ_PERFORMED (R122). -/
  | chainReadPerformed (id : Nat)
  /-- CHAIN_WRITE_ACK (R122). -/
  | chainWriteAck (id : Nat)
  /-- CHAIN_HELD_RETRY (R122). -/
  | chainHeldRetry (id : Nat)
  /-- ATOMIC_AT_HOME (R129). -/
  | atomicAtHome (id part : Nat)
  /-- FIRING_START (R166). -/
  | firingStart (lease tile : Nat)
  /-- TOKEN_ARRIVAL (R170): the token on an outgoing track lands. -/
  | tokenArrival (lease tile track : Nat)
  /-- CREDIT_RETURN (R168): at an output port of a context; with `ctx` from 4 on, `ctx` - 4 permits come over the link of an outgoing
  track where one was due (R422). -/
  | creditReturn (lease tile ctx port : Nat)
  /-- CONTROLLER_GO_RECEIVED (R172). -/
  | controllerGoReceived (lease tile : Nat)
  /-- CONTEXT_GO_RECEIVED (R174). -/
  | contextGoReceived (lease tile ctx : Nat)
  /-- CONTROLLER_DONE_RECEIVED (R172). -/
  | controllerDoneReceived (lease tile child : Nat)
  /-- PERMIT_RECEIVED (R172). -/
  | permitReceived (lease tile child : Nat)
  /-- GROUP_ARRIVAL (R177). -/
  | groupArrival (lease g tile ctx : Nat)
  /-- PHASE_RESET_RECEIVED (R178). -/
  | phaseResetReceived (lease tile : Nat)
  /-- ENTER_ROUND (R180). -/
  | enterRound (lease tile ctx : Nat)
  /-- PLANE_SWAP (R183). -/
  | planeSwap (lease tile : Nat)
  /-- CONTEXT_CLOSE (R185). -/
  | contextClose (lease tile ctx : Nat)
  /-- PHASE_END (R186). -/
  | phaseEnd (lease : Nat)
  /-- TILE_PASS (R187). -/
  | tilePass (lease tile : Nat)
  /-- STREAM_INPUT_TOKEN (R275). -/
  | streamInputToken (lease sid : Nat)
  /-- STREAM_OUTPUT_TOKEN (R275). -/
  | streamOutputToken (lease sid : Nat)
  /-- ENGINE_COMPLETE (R283). -/
  | engineComplete (lease ticket : Nat)
  /-- SYNA_GROUP_RECORD (R349). -/
  | synaGroupRecord (id : Nat)
  /-- QOS_SLICE_EXPIRY (R378). -/
  | qosSliceExpiry (lease : Nat)
  /-- WATCHDOG_EXPIRY (R380). -/
  | watchdogExpiry (lease : Nat)
  /-- CUT_COMPLETE (R393). -/
  | cutComplete (lease : Nat)
  /-- SAVE_COMPLETE (R397). -/
  | saveComplete (lease : Nat)
  /-- RESTORE_COMPLETE (R392). -/
  | restoreComplete (lease : Nat)
  /-- STOP_COMPLETE (R398). -/
  | stopComplete (lease : Nat)
  /-- PAIRED_EXIT_REQUEST (R418). -/
  | pairedExitRequest (id : Nat)
  /-- TICK_ADVANCE (R90): the dies whose counter steps. -/
  | tickAdvance (dies : BitVec 160)
  /-- UNIT_ZEROING_DONE (R59). -/
  | unitZeroingDone (u : UnitLoc)
  /-- DRAIN_TIMEOUT (R392). -/
  | drainTimeout (lease : Nat)
  /-- TWIN_TIMEOUT (R418). -/
  | twinTimeout (id : Nat)
  /-- PAGER_HOST_COPY_DONE (R60). -/
  | pagerHostCopyDone (job : Nat) (ok : Bool)
  /-- REACH_THROUGH_COPY_EXPIRY (R120). -/
  | reachThroughCopyExpiry (die tenant line : Nat)
  /-- RUN_AHEAD_LOAD (R340). -/
  | runAheadLoad (lease tile ctx : Nat)
  /-- DEVICE_RESET (R434): what the boot finds. -/
  | deviceReset (f : BootFind)
  /-- REGISTER_WRITE (R5, R427). -/
  | registerWrite (fn : Fn) (off : Nat) (val : Dword) (ep : Bool)
  /-- INVCTL_GO (R43). -/
  | invctlGo (v : Nat) (val : Dword)
  /-- POOL_WRITE (R62). -/
  | poolWrite (v : Nat) (val : Dword)
  /-- POOLLVL_TAIL_WRITE (R62). -/
  | poollvlTailWrite (v : Nat) (tail : Word)
  /-- PCTL_CLR (R153). -/
  | pctlClr (v : Nat) (epok : Bool)
  /-- QOWN_WRITE (R364). -/
  | qownWrite (g : Nat) (val : Dword)
  /-- QSW_IN_WRITE (R381). -/
  | qswInWrite (g : Nat) (inn : Bool)
  /-- QUEUE_TAIL_WRITE (R372). -/
  | queueTailWrite (v j : Nat) (tail : Word)
  /-- QCTL_EN_WRITE (R365). -/
  | qctlEnWrite (v j : Nat) (en : Bool)
  /-- ERRCLR (R365). -/
  | errclr (v j : Nat)
  /-- SELECT (R391). -/
  | select (lease : Nat)
  /-- END (R391). -/
  | leaseEnd (lease : Nat)
  /-- RETRYSAVE (R391). -/
  | retrysave (lease : Nat)
  /-- PRI_RESPONSE (R57). -/
  | priResponse (id : Nat) (ok : Bool)
  /-- ATS_INVALIDATION_REQUEST (R56). -/
  | atsInvalidationRequest (v page n : Nat)
  /-- HOST_COMPLETION (R56). -/
  | hostCompletion (id part : Nat) (st : CplStatus) (ep : Bool) (data : List Byte)
  /-- UNCORRECTABLE_ERROR (R82). -/
  | uncorrectableError (loc : UeLoc)
  /-- LINK_FLIT_RETRY (R82). -/
  | linkFlitRetry (id : Nat)
  /-- FATAL_ERROR (R401). -/
  | fatalError (cls : BitVec 2)
  /-- COUPLER_LINK_CHANGE (R431). -/
  | couplerLinkChange (k : Nat) (up : Bool) (peerId : Word) (peerK : BitVec 4)
  /-- PEER_REQUEST (R432). -/
  | peerRequest (k tenant off : Nat) (op : PeerOp)
  /-- PEER_PANEL_RESET (R432). -/
  | peerPanelReset (k : Nat)
  /-- COUPLER_STREAM_TOKEN (R433). -/
  | couplerStreamToken (k chan sender : Nat) (data : Payload) (pois : LaneMask) (tag : BitVec 3) (aux : BitVec 8)
  /-- GET_VERSION (R439). -/
  | getVersion (fn : Fn)
  /-- GET_CAPABILITIES (R439). -/
  | getCapabilities (fn : Fn)
  /-- NEGOTIATE_ALGORITHMS (R439). -/
  | negotiateAlgorithms (fn : Fn)
  /-- GET_DIGESTS (R439). -/
  | getDigests (fn : Fn)
  /-- GET_CERTIFICATE (R439). -/
  | getCertificate (fn : Fn)
  /-- CHALLENGE (R441). -/
  | challenge (fn : Fn)
  /-- GET_MEASUREMENTS (R440). -/
  | getMeasurements (fn : Fn) (sign : Bool)
  /-- RECOVERY_IMAGE_WRITE (R437). -/
  | recoveryImageWrite (valid : Bool) (svn : Nat)
  /-- THROTTLE_STEP (R442). -/
  | throttleStep (lease power temp : Nat)
  /-- COMMIT_LOCK_REQUEST (R104). -/
  | commitLockRequest
  /-- COMMIT_INSTALL (R104). -/
  | commitInstall
  /-- COMMIT_WAIT_END (R105). -/
  | commitWaitEnd
  /-- ROOT_DONE_RECEIVED (R272). -/
  | rootDoneReceived
  /-- FAULT_RECORD_WRITE (R387). -/
  | faultRecordWrite
  /-- TRAP_TAKEN (R388). -/
  | trapTaken
  /-- SWITCH_NOP (R360). -/
  | switchNop
  /-- NOP (R287). -/
  | nop
  /-- HALT (R292). -/
  | halt
  /-- ERET (R389). -/
  | eret
  /-- YIELD (R293). -/
  | yieldTurn
  /-- GO (R272). -/
  | go
  /-- ELEMENT_NOP (R230). -/
  | elementNop
  /-- EXIT (R326). -/
  | exit
  /-- WSWP (R353). -/
  | wswp
  /-- TCSET (R55). -/
  | tcset
  /-- TCCLR (R55). -/
  | tcclr
  /-- DSGRANT (R55). -/
  | dsgrant
  /-- DSREVOKE (R55). -/
  | dsrevoke
  /-- SCRUB (R55). -/
  | scrub
  /-- POOLSZ (R55). -/
  | poolsz
  /-- MEMORY_COMMAND_APPLIED (R55). -/
  | memoryCommandApplied
  /-- DIECTL_GO (R414). -/
  | diectlGo
  /-- DIE_EVACUATION_COMPLETE (R415). -/
  | dieEvacuationComplete
  /-- DIE_QUIESCE_COMPLETE (R415). -/
  | dieQuiesceComplete
  /-- DIE_RESTART (R415). -/
  | dieRestart
  /-- CLOCK_HORIZON (R91). -/
  | clockHorizon
  /-- CLOCK_REBASE_COMPLETE (R92). -/
  | clockRebaseComplete
  /-- CLOCK_STOP (R91). -/
  | clockStop
  /-- COLLECTOR_PASS (R109). -/
  | collectorPass
  /-- CHECKPOINT (R420). -/
  | checkpoint
  /-- SHUNTER_ROUND (R373). -/
  | shunterRound
  /-- FABRIC_CYCLE (R178). -/
  | fabricCycle
  /-- CREDIT_AUDIT_WINDOW (R422). -/
  | creditAuditWindow (die : Nat)
  deriving DecidableEq, Repr

end Sys2Proof
end

