-- ==== Sys2Proof/WellFormed.lean ====
section
/-! DEFINITION. Which instructions the encodings admit (R219 to R237, R244, R302 to R331): the
reserved fields, widths, types, conditions and numbers that make a word an undefined encoding. -/

namespace Sys2Proof

/-- Width in bits of one element of a type (R191). -/
def ETy.width : ETy → Nat
  | .i32 | .f32 | .u32 => 32
  | .bf16 | .f16 | .i16 => 16
  | .i8 => 8
  | .i64 => 64

/-- The floating-point types (R303). -/
def ETy.isFloat : ETy → Bool
  | .f32 | .bf16 | .f16 => true
  | _ => false

/-- The integer types (R302). -/
def ETy.isInt (t : ETy) : Bool := !t.isFloat

/-- The integer types of at most 32 bits (R302). -/
def ETy.isInt32 : ETy → Bool
  | .i32 | .i16 | .i8 | .u32 => true
  | _ => false

/-- Types of VABS (R302). -/
def ETy.isAbs : ETy → Bool
  | .i32 | .i16 | .i8 | .i64 => true
  | _ => false

/-- Types of RSUM (R312). -/
def ETy.isSum : ETy → Bool
  | .i32 | .u32 | .f32 | .bf16 | .f16 => true
  | _ => false

/-- Types of RMAX and RMIN (R312). -/
def ETy.isRed : ETy → Bool
  | .i16 => true
  | t => t.isSum

/-- Types of the scratch atomics that add (R331). -/
def ETy.isAtomAdd : ETy → Bool
  | .i32 | .u32 | .f32 => true
  | _ => false

/-- Types of the other scratch atomics (R331). -/
def ETy.isAtom : ETy → Bool
  | .i32 | .u32 => true
  | _ => false

/-- Types of ACRD (R331). -/
def ETy.isAcc : ETy → Bool
  | .i32 | .f32 => true
  | _ => false

/-- Block widths 2 to 8 (R201, R311). -/
def okWidth (w : BitVec 4) : Bool := 2 ≤ w.toNat && w.toNat ≤ 8

/-- COUNT of WAITF, WAITE, ADV, PUB (R232). -/
def okCount (n : BitVec 6) : Bool := 1 ≤ n.toNat && n.toNat ≤ 32

/-- A BFP memory form: width 2 to 8, and then type 0 (R331). -/
def okBfp (ty : ETy) : Bfp → Bool
  | none => true
  | some w => okWidth w && decide (ty = .i32)

/-- The extension word: with CH = 1 NSRC names V0 to V15 or K (R234). -/
def Ext.ok (x : Ext) : Bool := !x.ch || (x.nsrc.toNat < 16 || x.nsrc.toNat == 28)

/-- An optional extension word (R234). -/
def okExt : Option Ext → Bool
  | none => true
  | some x => x.ok

/-- System register numbers of the table of R256. -/
def sysRegAssigned (n : Nat) : Bool :=
  n ≤ 0x004 || n == 0x010 || n == 0x011 || (0x020 ≤ n && n ≤ 0x023) || (0x030 ≤ n && n ≤ 0x036) ||
  (0x041 ≤ n && n ≤ 0x047) || n == 0x050 || (0x060 ≤ n && n ≤ 0x09F) || (0x100 ≤ n && n ≤ 0x104)

/-- Element control register numbers of the table of R328 (on an A tile; other kinds lack 4 to 9). -/
def cregAssigned (n : Nat) : Bool :=
  n ≤ 0x009 || (0x010 ≤ n && n ≤ 0x013) || n == 0x018 || (0x020 ≤ n && n ≤ 0x026) ||
  (0x030 ≤ n && n ≤ 0x03F)

/-- Element control registers that CTRW may name (R328). -/
def cregWritable (n : Nat) : Bool :=
  (0x010 ≤ n && n ≤ 0x013) || n == 0x018 || n == 0x020 || n == 0x021 || (0x030 ≤ n && n ≤ 0x03F)

/-- A switch source: an incoming track or an element output (R237). -/
def okSwSrc (e : BitVec 5) : Bool := e.toNat < 16 || (24 ≤ e.toNat && e.toNat < 28)

/-- A switch destination: an outgoing track or an element input (R237). -/
def okSwDst (e : BitVec 5) : Bool := e.toNat < 24

/-- Endpoints of ROUTE, FORK and MERGE (R237, R238). -/
def okSwPair (s d : BitVec 5) (c : BitVec 2) : Bool :=
  okSwSrc s && okSwDst d && s != d && (c == 0 || 16 ≤ s.toNat || 16 ≤ d.toNat)

/-- Well-formedness of an instruction. Steps without an encoding are bounded by the panel's numbers. -/
def Instr.wf : Instr → Bool
  | .srd _ n | .swr _ n => sysRegAssigned n.toNat
  | .fence k _ => k != 0
  | .ld _ _ sz sg _ _ => !(decide (sz = .d) && sg)
  | .srel v | .txc _ v _ | .txa v | .txs _ v => v != 0
  | .ecopy _ _ xb sy _ | .egath _ _ xb sy _ | .ecoll _ _ xb sy _ => sy || xb == 0
  | .vadd t .. | .vsub t .. | .vmul t .. | .vmin t .. | .vmax t .. | .vneg t .. | .vshl t ..
  | .vshr t .. | .vsha t .. => t.isInt
  | .vmulh t .. | .vmac t .. | .vpopc t .. | .vclz t .. => t.isInt32
  | .vabs t .. => t.isAbs
  | .vcmp t _ _ _ _ c => t.isInt && c != .un
  | .vli t _ imm => !(decide (t = .i8)) || imm.toNat < 256
  | .fadd t .. | .fsub t .. | .fmul t .. | .ffma t .. | .ffms t .. | .fmin t .. | .fmax t ..
  | .fabs t .. | .fneg t .. | .fdiv t .. | .fsqrt t .. | .frsq t .. | .fex2 t .. | .flg2 t ..
  | .fcmp t .. | .fcls t .. | .scl t .. => t.isFloat
  | .bfpk _ _ w _ | .bfup _ _ w _ => okWidth w
  | .rsum t .. => t.isSum
  | .rmax t .. | .rmin t .. => t.isRed
  | .bcst _ _ _ l _ => l.toNat < 24
  | .nttb d .. => d.toNat < 15
  | .waitf _ n | .waite _ n | .adv _ n | .pub _ n => okCount n
  | .peek _ _ sl => sl.toNat < 32
  | .rdct _ c => cregAssigned c.toNat
  | .ctrw _ c => cregWritable c.toNat
  | .gen _ _ c x => c.toNat < 10 && okExt x
  | .gath t _ _ _ f x => okBfp t f && okExt x
  | .ldm t _ _ f x => okBfp t f && okExt x
  | .scat _ _ _ f x | .stm _ _ f x => okBfp .i32 f && okExt x
  | .ordStep x => x.ch && x.ok && x.mark == 0 && x.view == 0
  | .ordFence k x => k != 0 && !x.ch && x.mark == 0 && x.view == 0
  | .ldt _ _ _ _ x | .stt _ _ _ x => okExt x
  | .aadd t _ _ _ x => t.isAtomAdd && okExt x
  | .afad t _ _ _ _ x => t.isAtomAdd && okExt x
  | .amin t _ _ _ x | .amax t _ _ _ x | .aand t _ _ _ x | .aor t _ _ _ x | .axor t _ _ _ x =>
    t.isAtom && okExt x
  | .axch t _ _ _ _ x => t.isAtom && okExt x
  | .acas t _ _ _ _ x => t.isAtom && okExt x
  | .syna _ _ _ _ x => okExt x
  | .synw _ _ _ _ x => okExt x
  | .mma _ _ w _ | .mmai _ _ w _ => okWidth w
  | .acrd t .. => t.isAcc
  | .route s d c | .fork s d c | .merge s d c => okSwPair s d c
  | .invctlGo v _ | .invalidationComplete v | .poolWrite v _ | .poollvlTailWrite v _ | .pctlClr v _ =>
    v < 256
  | .qownWrite g _ | .qswInWrite g _ | .queueSwitchInComplete g => g < 4096
  | .queueTailWrite v j _ | .qctlEnWrite v j _ | .errclr v j => v < 256 && j < 256
  | .select l | .leaseEnd l | .retrysave l => l < 4096
  | .couplerLinkChange k .. | .peerRequest k .. | .peerPanelReset k | .couplerStreamToken k .. => k < 16
  | .versionReclaim n => n < 160
  | _ => true

end Sys2Proof
end

