-- ==== Sys2Proof/Decode.lean ====
section
/-! DEFINITION. The decoder, total on any word, and after it the encoder, both written from the
encoding tables of R219 to R237. A word is rejected by name (R244). -/

namespace Sys2Proof

/-- Why a word is no instruction (R235, R238, R244). -/
inductive Reject
  /-- Reserved or undefined pattern: the word faults ILLEGAL_OP when issued. -/
  | illegalOp
  /-- A class-11 word reached in its own right: it faults NON_INSTR. -/
  | nonInstr
  /-- A switch word with a reserved bit or endpoint: CONFIG_INVALID when the plane is loaded. -/
  | configInvalid
  deriving DecidableEq, Repr

/-- Bits `[lo+n-1:lo]` of a word (R2). -/
def fld (w : Nat) (lo n : Nat) : BitVec n := BitVec.ofNat n (w / 2 ^ lo)

/-- One bit of a word. -/
def bitOf (w : Nat) (lo : Nat) : Bool := w / 2 ^ lo % 2 == 1

/-- A condition as an Option, for decoding step by step. -/
def need (b : Bool) : Option Unit := if b then some () else none

/-- Operand type codes (R191). -/
def decTy (c : BitVec 3) : ETy :=
  match c.toNat with
  | 0 => .i32 | 1 => .f32 | 2 => .bf16 | 3 => .f16 | 4 => .i16 | 5 => .i8 | 6 => .i64 | _ => .u32

/-- Source operand codes 0-23 and 28-30 (R228). -/
def decSrc (c : BitVec 5) : Option Src :=
  let n := c.toNat
  if n < 16 then some (.v (BitVec.ofNat 4 n))
  else if n < 24 then some (.i (BitVec.ofNat 3 (n - 16)))
  else if n == 28 then some .k
  else if n == 29 then some .lane
  else if n == 30 then some .zero
  else none

/-- Destination operand codes 0-15 and 24-27 (R228). -/
def decDst (c : BitVec 5) : Option Dst :=
  let n := c.toNat
  if n < 16 then some (.v (BitVec.ofNat 4 n))
  else if 24 ≤ n && n < 28 then some (.o (BitVec.ofNat 2 (n - 24)))
  else none

/-- An operand field that must name V0-V15 (R298, R331). -/
def decV (c : BitVec 5) : Option (BitVec 4) :=
  if c.toNat < 16 then some (BitVec.ofNat 4 c.toNat) else none

/-- An input port code 16-23 in field a (R232). -/
def decIn (c : BitVec 5) : Option (BitVec 3) :=
  if 16 ≤ c.toNat && c.toNat < 24 then some (BitVec.ofNat 3 (c.toNat - 16)) else none

/-- An output port code 24-27 in field a (R232). -/
def decOut (c : BitVec 5) : Option (BitVec 2) :=
  if 24 ≤ c.toNat && c.toNat < 28 then some (BitVec.ofNat 2 (c.toNat - 24)) else none

/-- MSK and the mask number in m[5:3] (R231). -/
def decMsk (msk : BitVec 1) (n : BitVec 2) : Option Msk :=
  if msk == 1 then some (some n) else if n == 0 then some none else none

/-- Compare conditions (R231). -/
def decCond (c : BitVec 3) : Option Cond :=
  match c.toNat with
  | 0 => some .eq | 1 => some .ne | 2 => some .lt | 3 => some .le | 4 => some .gt | 5 => some .ge
  | 6 => some .un | _ => none

/-- Conversion format codes (R231). -/
def decCFmt (c : Nat) : Option CFmt :=
  match c with
  | 0 => some .i32 | 1 => some .f32 | 2 => some .bf16 | 3 => some .f16 | 4 => some .i16
  | 5 => some .i8 | 7 => some .u32 | 8 => some .e4m3 | 9 => some .e5m2 | _ => none

/-- Scope codes 0-4 (R118). -/
def decScope (c : BitVec 3) : Option Scope :=
  match c.toNat with
  | 0 => some .tile | 1 => some .lease | 2 => some .die | 3 => some .panel | 4 => some .sys | _ => none

/-- LD and ST sizes (R220). -/
def decMSize (c : BitVec 2) : MSize :=
  match c.toNat with
  | 0 => .b | 1 => .h | 2 => .w | _ => .d

/-- AMO sizes 2 and 3 (R224). -/
def decASize (c : BitVec 2) : Option ASize :=
  match c.toNat with
  | 2 => some .w | 3 => some .d | _ => none

/-- The extension word of a class-10 operation (R234). -/
def decExt (w : Nat) : Option Ext := do
  need (fld w 30 2 == 3)
  need (fld w 0 12 == 0)
  let sc ← decScope (fld w 20 3)
  let x : Ext := ⟨bitOf w 29, fld w 25 4, fld w 23 2, sc, fld w 17 3, fld w 12 5⟩
  need x.ok
  some x

/-- EXT and the word that follows: present exactly when m[5] is set (R234, R244). -/
def decOptExt (e : Bool) (next : Option Word) : Option (Option Ext) :=
  if e then
    match next with
    | some x => (decExt x.toNat).map some
    | none => none
  else some none

/-- BFP bit and width of the memory forms, in m[4:1] (R233). -/
def decBfp (f : Bool) (w : BitVec 3) : Option Bfp :=
  if f then (if w == 0 then none else some (some (BitVec.ofNat 4 (w.toNat + 1))))
  else if w == 0 then some none else none

/-- The system group, major 0x00 (R222). -/
def decSys (w : Nat) : Option Instr :=
  let xd := fld w 21 5
  let xa := fld w 16 5
  let k := fld w 6 10
  match w % 64 with
  | 0x00 => do need (xd == 0 && xa == 0 && k == 0); some .nop
  | 0x01 => do need (xd == 0 && xa == 0 && k == 0); some .halt
  | 0x02 => do need (xd == 0 && xa == 0); some (.trap k)
  | 0x03 => do need (xd == 0 && xa == 0 && k == 0); some .eret
  | 0x04 => do need (xa == 0); some (.srd xd k)
  | 0x05 => do need (xd == 0); some (.swr xa k)
  | 0x06 => do
    need (xd == 0 && xa == 0 && fld w 13 3 == 0)
    let sc ← decScope (fld w 10 3)
    some (.fence (fld w 6 4) sc)
  | 0x07 => do need (k == 0); some (.ptest xd xa)
  | 0x08 => do need (k == 0); some (.pclr xd xa)
  | 0x09 => do need (xd == 0 && xa == 0 && k == 0); some .yieldTurn
  | _ => none

/-- The register-register group, major 0x01 (R223). -/
def decAlu (w : Nat) : Option Instr :=
  let xd := fld w 21 5
  let xa := fld w 16 5
  let xb := fld w 11 5
  match w % 2048 with
  | 0 => some (.add xd xa xb)
  | 1 => some (.sub xd xa xb)
  | 2 => some (.mul xd xa xb)
  | 3 => some (.mulh xd xa xb)
  | 4 => some (.mulhu xd xa xb)
  | 5 => some (.div xd xa xb)
  | 6 => some (.divu xd xa xb)
  | 7 => some (.rem xd xa xb)
  | 8 => some (.remu xd xa xb)
  | 9 => some (.and xd xa xb)
  | 10 => some (.or xd xa xb)
  | 11 => some (.xor xd xa xb)
  | 12 => some (.shl xd xa xb)
  | 13 => some (.shr xd xa xb)
  | 14 => some (.sha xd xa xb)
  | 15 => some (.slt xd xa xb)
  | 16 => some (.sltu xd xa xb)
  | 17 => some (.min xd xa xb)
  | 18 => some (.max xd xa xb)
  | 19 => some (.minu xd xa xb)
  | 20 => some (.maxu xd xa xb)
  | 21 => do need (xb == 0); some (.clz xd xa)
  | 22 => do need (xb == 0); some (.popc xd xa)
  | _ => none

/-- AMO, major 0x22 (R224). -/
def decAmo (w : Nat) : Option Instr := do
  let xd := fld w 21 5
  let xa := fld w 16 5
  let xb := fld w 11 5
  need (fld w 9 2 == 0)
  let sz ← decASize (fld w 7 2)
  let sc ← decScope (fld w 4 3)
  match w % 16 with
  | 0 => some (.amoAdd xd xa xb sz sc)
  | 1 => some (.amoAnd xd xa xb sz sc)
  | 2 => some (.amoOr xd xa xb sz sc)
  | 3 => some (.amoXor xd xa xb sz sc)
  | 4 => some (.amoMin xd xa xb sz sc)
  | 5 => some (.amoMax xd xa xb sz sc)
  | 6 => some (.amoMinu xd xa xb sz sc)
  | 7 => some (.amoMaxu xd xa xb sz sc)
  | 8 => some (.amoXchg xd xa xb sz sc)
  | 9 => some (.amoCas xd xa xb sz sc)
  | _ => none

/-- The version group, major 0x28 (R225). -/
def decVer (w : Nat) : Option Instr := do
  let xd := fld w 21 5
  need (fld w 11 10 == 0)
  let n := fld w 8 3
  let o7 := bitOf w 7
  let o6 := bitOf w 6
  match w % 64 with
  | 0x00 => do need (n == 0 && !o7 && !o6); some (.snap xd)
  | 0x01 => do need (xd == 0 && !o7 && !o6); some (.srel n)
  | 0x02 => do need (n == 0 && !o7 && !o6); some (.txb xd)
  | 0x03 => do need (!o7); some (.txc xd n o6)
  | 0x04 => do need (xd == 0 && !o7 && !o6); some (.txa n)
  | 0x05 => do need (!o7 && !o6); some (.txs xd n)
  | 0x06 => do need (!bitOf w 10); some (.publ xd (fld w 8 2) o6 o7)
  | _ => none

/-- The lease group, major 0x30 (R226, R276). -/
def decLease (w : Nat) : Option Instr := do
  let xd := fld w 21 5
  let xa := fld w 16 5
  let xb := fld w 11 5
  need (fld w 7 4 == 0)
  let fin := bitOf w 6
  match w % 64 with
  | 0x00 => do need (!fin); some (.cfg xd xa xb)
  | 0x01 => do need (xd == 0 && xb == 0); some (.cswap xa fin)
  | 0x02 => do need (!fin && xd == 0 && xa == 0 && xb == 0); some .go
  | 0x03 => do need (!fin && xa == 0 && xb == 0); some (.waitd xd)
  | 0x04 => do need (!fin && xb == 0); some (.drain xd xa)
  | 0x05 => do need (!fin && xd == 0); some (.strm xa xb)
  | 0x06 => do need (!fin && xd == 0); some (.grpw xa xb)
  | _ => none

/-- Engine forms, majors 0x34-0x36 (R227). -/
def decEng (w : Nat) (f : BitVec 5 → BitVec 5 → BitVec 5 → Bool → BitVec 2 → Instr) : Option Instr := do
  need (fld w 3 8 == 0)
  some (f (fld w 21 5) (fld w 16 5) (fld w 11 5) (bitOf w 2) (fld w 0 2))

/-- Every sequencer word by its major opcode (R221), before the checks of `Instr.wf`. -/
def decSeqRaw (w : Nat) : Option Instr :=
  let xd := fld w 21 5
  let xa := fld w 16 5
  let xb := fld w 11 5
  let imm := fld w 0 16
  match w / 2 ^ 26 with
  | 0x00 => decSys w
  | 0x01 => decAlu w
  | 2 => some (.addi xd xa imm)
  | 3 => some (.andi xd xa imm)
  | 4 => some (.ori xd xa imm)
  | 5 => some (.xori xd xa imm)
  | 6 => do need (fld w 6 10 == 0); some (.shli xd xa (fld w 0 6))
  | 7 => do need (fld w 6 10 == 0); some (.shri xd xa (fld w 0 6))
  | 8 => do need (fld w 6 10 == 0); some (.shai xd xa (fld w 0 6))
  | 0x09 => some (.slti xd xa imm)
  | 0x0A => some (.sltiu xd xa imm)
  | 0x0B => do need (xa == 0); some (.lih xd imm)
  | 0x0C => do need (fld w 18 3 == 0); some (.lik xd (fld w 16 2) imm)
  | 16 => some (.beq xd xa imm)
  | 17 => some (.bne xd xa imm)
  | 18 => some (.blt xd xa imm)
  | 19 => some (.bge xd xa imm)
  | 20 => some (.bltu xd xa imm)
  | 21 => some (.bgeu xd xa imm)
  | 0x16 => some (.jmp (fld w 0 26))
  | 0x17 => some (.jal (fld w 0 26))
  | 0x18 => some (.jalr xd xa imm)
  | 0x20 => some (.ld xd xa (decMSize (fld w 14 2)) (bitOf w 13) (bitOf w 12) (fld w 0 12))
  | 0x21 => do need (!bitOf w 13); some (.st xd xa (decMSize (fld w 14 2)) (bitOf w 12) (fld w 0 12))
  | 0x22 => decAmo w
  | 0x28 => decVer w
  | 0x30 => decLease w
  | 0x34 => decEng w .ecopy
  | 0x35 => decEng w .egath
  | 0x36 => decEng w .ecoll
  | 0x37 => do need (fld w 0 11 == 0); some (.ewait xd xa xb)
  | 0x38 =>
    match w % 2 ^ 16 with
    | 0 => some (.launch xd xa)
    | 1 => some (.launchr xd xa)
    | _ => none
  | 0x39 => do need (fld w 0 16 == 0); some (.join xd xa)
  | _ => none

/-- A decoded instruction that also meets its reserved-value checks (R244). -/
def checked (r : Option Instr) : Except Reject Instr :=
  match r with
  | some i => if i.wf then .ok i else .error .illegalOp
  | none => .error .illegalOp

/-- The sequencer decoder (R219 to R227). -/
def decodeSeq (w : Word) : Except Reject Instr := checked (decSeqRaw w.toNat)

/-- Fields of a class-00 or class-10 word (R228). -/
structure OpF where
  ty : ETy
  d : BitVec 5
  a : BitVec 5
  b : BitVec 5
  m5 : BitVec 1
  m43 : BitVec 2
  opx : BitVec 3

/-- The fields of an operation word (R228). -/
def opFields (w : Nat) : OpF :=
  ⟨decTy (fld w 21 3), fld w 16 5, fld w 11 5, fld w 6 5, fld w 5 1, fld w 3 2, fld w 0 3⟩

/-- Two sources, OPX zero (R231). -/
def decBin (x : OpF) (f : ETy → Dst → Src → Src → Msk → Instr) : Option Instr := do
  need (x.opx == 0)
  some (f x.ty (← decDst x.d) (← decSrc x.a) (← decSrc x.b) (← decMsk x.m5 x.m43))

/-- One source, b and OPX zero (R231). -/
def decUn (x : OpF) (f : ETy → Dst → Src → Msk → Instr) : Option Instr := do
  need (x.opx == 0 && x.b == 0)
  some (f x.ty (← decDst x.d) (← decSrc x.a) (← decMsk x.m5 x.m43))

/-- d read and written: a V register (R298). -/
def decAcc (x : OpF) (f : ETy → BitVec 4 → Src → Src → Msk → Instr) : Option Instr := do
  need (x.opx == 0)
  some (f x.ty (← decV x.d) (← decSrc x.a) (← decSrc x.b) (← decMsk x.m5 x.m43))

/-- VADD, VSUB, VMUL with the SAT option (R231). -/
def decSat (x : OpF) (f : ETy → Dst → Src → Src → Msk → Bool → Instr) : Option Instr := do
  need (x.opx.toNat < 2)
  some (f x.ty (← decDst x.d) (← decSrc x.a) (← decSrc x.b) (← decMsk x.m5 x.m43) (x.opx == 1))

/-- VCMP and FCMP (R231). -/
def decCmp (x : OpF) (f : ETy → Dst → Src → Src → Msk → Cond → Instr) : Option Instr := do
  some (f x.ty (← decDst x.d) (← decSrc x.a) (← decSrc x.b) (← decMsk x.m5 x.m43) (← decCond x.opx))

/-- Operations of type F32 or I64 only, with an immediate or a second source (R311, R314). -/
def decTyped (x : OpF) (t : ETy) (f : Dst → Src → Src → Msk → Instr) : Option Instr := do
  need (x.opx == 0 && decide (x.ty = t))
  some (f (← decDst x.d) (← decSrc x.a) (← decSrc x.b) (← decMsk x.m5 x.m43))

/-- BFPK and BFUP: the width stands in b (R311). -/
def decBfpOp (x : OpF) (f : Dst → Src → BitVec 4 → Msk → Instr) : Option Instr := do
  need (x.opx == 0 && decide (x.ty = .f32) && x.b.toNat < 16)
  some (f (← decDst x.d) (← decSrc x.a) (BitVec.ofNat 4 x.b.toNat) (← decMsk x.m5 x.m43))

/-- Class-00 operations by their op code (R230, R231). -/
def decClass0 (w op : Nat) : Option Instr :=
  let x := opFields w
  match op with
  | 0x00 => do need (w == 0); some .elementNop
  | 0x01 => decSat x .vadd
  | 0x02 => decSat x .vsub
  | 0x03 => decSat x .vmul
  | 0x04 => decBin x .vmulh
  | 0x05 => decAcc x .vmac
  | 0x06 => decBin x .vmin
  | 0x07 => decBin x .vmax
  | 0x08 => decUn x .vabs
  | 0x09 => decUn x .vneg
  | 0x0A => decBin x .vand
  | 0x0B => decBin x .vor
  | 0x0C => decBin x .vxor
  | 0x0D => decUn x .vnot
  | 0x0E => decBin x .vshl
  | 0x0F => decBin x .vshr
  | 0x10 => decBin x .vsha
  | 0x11 => decUn x .vpopc
  | 0x12 => decUn x .vclz
  | 0x13 => decCmp x .vcmp
  | 0x14 => decAcc x .vsel
  | 0x15 => do need (decide (x.ty = .i32)); decUn x (fun _ d a m => .vmov d a m)
  | 0x16 => do some (.vli x.ty (← decDst x.d) (fld w 0 16))
  | 0x17 => decBin x .fadd
  | 0x18 => decBin x .fsub
  | 0x19 => decBin x .fmul
  | 0x1A => decAcc x .ffma
  | 0x1B => decAcc x .ffms
  | 0x1C => decBin x .fmin
  | 0x1D => decBin x .fmax
  | 0x1E => decUn x .fabs
  | 0x1F => decUn x .fneg
  | 0x20 => decBin x .fdiv
  | 0x21 => decUn x .fsqrt
  | 0x22 => decUn x .frsq
  | 0x23 => decUn x .fex2
  | 0x24 => decUn x .flg2
  | 0x25 => decCmp x .fcmp
  | 0x26 => decUn x .fcls
  | 0x27 => do
    need (x.opx.toNat % 4 == 0 && x.b.toNat < 16)
    some (.cvt (← decCFmt (2 * x.opx.toNat + w / 2 ^ 21 % 8)) (← decCFmt x.b.toNat)
      (← decDst x.d) (← decSrc x.a) (← decMsk x.m5 x.m43))
  | 0x28 => decBin x .scl
  | 0x29 => decBfpOp x .bfpk
  | 0x2A => decBfpOp x .bfup
  | 0x2B => decUn x .rsum
  | 0x2C => decUn x .rmax
  | 0x2D => decUn x .rmin
  | 0x2E => decBin x .perm
  | 0x2F => decBin x .bperm
  | 0x30 => decBin x .lshf
  | 0x31 => do
    need (x.opx == 0)
    some (.bcst x.ty (← decDst x.d) (← decSrc x.a) x.b (← decMsk x.m5 x.m43))
  | 0x32 => decBin x .shuf
  | 0x33 => decTyped x .i64 .mmul
  | 0x34 => decTyped x .i64 .madd
  | 0x35 => decTyped x .i64 .msub
  | 0x36 => do
    need (x.opx == 0 && decide (x.ty = .i64))
    some (.nttb (← decV x.d) (← decSrc x.a) (← decSrc x.b) (← decMsk x.m5 x.m43))
  | 0x37 => decUn x .ptst
  | 0x38 => decUn x .elementPclr
  | 0x39 => decBin x .pfil
  | 0x3A => decBin x .pset
  | _ => none

/-- Class-01 operations (R232). -/
def decClass1 (w op : Nat) : Option Instr := do
  need (fld w 21 3 == 0)
  let d := fld w 16 5
  let a := fld w 11 5
  let low := fld w 0 11
  match op with
  | 0x00 => do need (d == 0 && a == 0 && low == 0); some .exit
  | 0x01 => do need (d == 0 && fld w 6 5 == 0); some (.waitf (← decIn a) (fld w 0 6))
  | 0x02 => do need (d == 0 && fld w 6 5 == 0); some (.waite (← decOut a) (fld w 0 6))
  | 0x03 => do need (d == 0 && fld w 6 5 == 0); some (.adv (← decIn a) (fld w 0 6))
  | 0x04 => do need (d == 0 && fld w 6 5 == 0); some (.pub (← decOut a) (fld w 0 6))
  | 0x05 => do need (fld w 6 5 == 0); some (.peek (← decDst d) (← decIn a) (fld w 0 6))
  | 0x06 => do need (d == 0 && fld w 0 6 == 0); some (.emit (← decOut a) (← decSrc (fld w 6 5)))
  | 0x07 => do
    need (d == 0 && low == 0)
    if a == 30 then some (.eos none) else some (.eos (some (← decOut a)))
  | 0x08 => do need (d == 0 && a == 0); some (.br low)
  | 0x09 => do need (d == 0); some (.bz (← decSrc a) low)
  | 0x0A => do need (d == 0); some (.bnz (← decSrc a) low)
  | 0x0B => do need (a == 0); some (.loop (← decV d) low)
  | 0x0C => do need (d == 0 && a == 0 && fld w 8 3 == 0); some (.gbar (fld w 0 8))
  | 0x0D => do need (d == 0 && a == 0 && fld w 8 3 == 0); some (.elementTrap (fld w 0 8))
  | 0x0E => do need (a == 0); some (.rdct (← decDst d) low)
  | 0x0F => do need (d == 0); some (.ctrw (← decSrc a) low)
  | _ => none

/-- Class-10 operations (R233, R331); `next` is the word after, for EXT. -/
def decClass2 (w op : Nat) (next : Option Word) : Option Instr :=
  let x := opFields w
  let ext := decOptExt (x.m5 == 1) next
  let bfp := decBfp (bitOf w 4) (fld w 1 3)
  let loc := bitOf w 4
  let t0 := decide (x.ty = .i32)
  match op with
  | 0x00 => do need (t0 && x.d == 0 && x.b == 0 && fld w 0 6 == 0); some (.tdl (← decSrc x.a))
  | 0x01 => do
    need (x.a == 0 && x.b == 0 && !loc)
    some (.gen x.ty (← decDst x.d) (fld w 0 4) (← ext))
  | 0x02 => do
    need (!bitOf w 0)
    some (.gath x.ty (← decDst x.d) (← decSrc x.a) (← decSrc x.b) (← bfp) (← ext))
  | 0x03 => do
    need (!bitOf w 0 && t0)
    some (.scat (← decV x.d) (← decSrc x.a) (← decSrc x.b) (← bfp) (← ext))
  | 0x04 => do
    need (!bitOf w 0 && x.b == 0)
    some (.ldm x.ty (← decDst x.d) (← decSrc x.a) (← bfp) (← ext))
  | 0x05 => do
    need (!bitOf w 0 && t0 && x.b == 0)
    some (.stm (← decV x.d) (← decSrc x.a) (← bfp) (← ext))
  | 0x06 => do need (t0 && x.d == 0 && x.b == 0 && fld w 0 6 == 0); some (.pref (← decSrc x.a))
  | 0x07 => do
    need (t0 && x.d == 0 && x.a == 0 && x.b == 0)
    match ← ext with
    | none => none
    | some e => if loc then some (.ordFence (fld w 0 4) e) else do need (fld w 0 4 == 0); some (.ordStep e)
  | 0x10 => do need (fld w 0 4 == 0 && x.b == 0); some (.ldt x.ty (← decDst x.d) (← decSrc x.a) loc (← ext))
  | 0x11 => do
    need (fld w 0 4 == 0 && x.b == 0 && t0)
    some (.stt (← decV x.d) (← decSrc x.a) loc (← ext))
  | 0x12 => do need (fld w 0 4 == 0 && x.d == 0); some (.aadd x.ty (← decSrc x.a) (← decSrc x.b) loc (← ext))
  | 0x13 => do
    need (fld w 0 4 == 0)
    some (.afad x.ty (← decDst x.d) (← decSrc x.a) (← decSrc x.b) loc (← ext))
  | 0x14 => do need (fld w 0 4 == 0 && x.d == 0); some (.amin x.ty (← decSrc x.a) (← decSrc x.b) loc (← ext))
  | 0x15 => do need (fld w 0 4 == 0 && x.d == 0); some (.amax x.ty (← decSrc x.a) (← decSrc x.b) loc (← ext))
  | 0x16 => do need (fld w 0 4 == 0 && x.d == 0); some (.aand x.ty (← decSrc x.a) (← decSrc x.b) loc (← ext))
  | 0x17 => do need (fld w 0 4 == 0 && x.d == 0); some (.aor x.ty (← decSrc x.a) (← decSrc x.b) loc (← ext))
  | 0x18 => do need (fld w 0 4 == 0 && x.d == 0); some (.axor x.ty (← decSrc x.a) (← decSrc x.b) loc (← ext))
  | 0x19 => do
    need (fld w 0 4 == 0)
    some (.axch x.ty (← decDst x.d) (← decSrc x.a) (← decSrc x.b) loc (← ext))
  | 0x1A => do
    need (fld w 0 4 == 0)
    some (.acas x.ty (← decV x.d) (← decSrc x.a) (← decSrc x.b) loc (← ext))
  | 0x1B => do
    need (fld w 0 3 == 0 && x.d == 0 && t0)
    some (.syna (← decSrc x.a) (← decSrc x.b) loc (bitOf w 3) (← ext))
  | 0x1C => do
    need (fld w 0 4 == 0 && t0)
    some (.synw (← decDst x.d) (← decSrc x.a) (← decSrc x.b) loc (← ext))
  | 0x20 => do need (t0 && x.d == 0 && fld w 0 6 == 0); some (.wld (← decSrc x.a) (← decSrc x.b))
  | 0x21 => do need (t0 && x.d == 0 && x.a == 0 && x.b == 0 && fld w 0 6 == 0); some .wswp
  | 0x22 => do
    need (t0 && x.d == 0 && x.m5 == 0)
    some (.mma (← decSrc x.a) (← decSrc x.b) (BitVec.ofNat 4 ((fld w 2 3).toNat + 1)) (fld w 0 2))
  | 0x23 => do
    need (t0 && x.d == 0 && x.m5 == 0)
    some (.mmai (← decSrc x.a) (← decSrc x.b) (BitVec.ofNat 4 ((fld w 2 3).toNat + 1)) (fld w 0 2))
  | 0x24 => do
    need (x.a == 0 && x.b.toNat < 8 && fld w 2 4 == 0)
    some (.acrd x.ty (← decDst x.d) (BitVec.ofNat 3 x.b.toNat) (fld w 0 2))
  | 0x25 => do need (t0 && x.d == 0 && x.a == 0 && x.b == 0 && fld w 2 4 == 0); some (.accl (fld w 0 2))
  | _ => none

/-- The operation-word decoder; `next` is the word at the following program-memory address when it
lies inside the code window (R228 to R236, R244). -/
def decodeOp (w : Word) (next : Option Word) : Except Reject Instr :=
  let n := w.toNat
  let op := n / 2 ^ 24 % 64
  match n / 2 ^ 30 with
  | 0 => checked (decClass0 n op)
  | 1 => checked (decClass1 n op)
  | 2 => checked (decClass2 n op next)
  | _ => .error .nonInstr

/-- Switch words (R237). -/
def decSwRaw (w : Nat) : Option Instr :=
  match w / 2 ^ 13 with
  | 0 => do need (w == 0); some .switchNop
  | 1 => do need (!bitOf w 0); some (.route (fld w 8 5) (fld w 3 5) (fld w 1 2))
  | 2 => do need (!bitOf w 0); some (.fork (fld w 8 5) (fld w 3 5) (fld w 1 2))
  | 3 => do need (!bitOf w 0); some (.merge (fld w 8 5) (fld w 3 5) (fld w 1 2))
  | 4 => do need (!bitOf w 12); some (.cut (fld w 8 4) (fld w 0 8))
  | 5 => do need (!bitOf w 12 && fld w 0 8 == 0); some (.hold (fld w 8 4))
  | 6 => do need (!bitOf w 12); some (.dly (fld w 8 4) (fld w 0 8))
  | 7 => do need (fld w 0 9 == 0); some (.fwl (fld w 9 4))
  | _ => none

/-- The switch-word decoder (R237); what it refuses faults CONFIG_INVALID (R238). -/
def decodeSw (w : BitVec 16) : Except Reject Instr :=
  match decSwRaw w.toNat with
  | some i => if i.wf then .ok i else .error .configInvalid
  | none => .error .configInvalid

/-- The three kinds of word a program holds (R219, R228, R237). -/
inductive WordKind | sequencer | operation | switch
  deriving DecidableEq, Repr

/-- Little-endian reading of bytes (R2). -/
def leNat : List Byte → Nat
  | [] => 0
  | b :: r => b.toNat + 256 * leNat r

/-- The `n` little-endian bytes of a number (R2). -/
def leBytes : Nat → Nat → List Byte
  | 0, _ => []
  | n + 1, v => BitVec.ofNat 8 v :: leBytes n (v / 256)

/-- Decoding from bytes as memory holds them: the instruction and the bytes left over. A word that
is cut short is an undefined encoding. -/
def decodeBytes (k : WordKind) (bs : List Byte) : Except Reject (Instr × List Byte) :=
  match k with
  | .switch =>
    if bs.length < 2 then .error .configInvalid
    else (decodeSw (BitVec.ofNat 16 (leNat (bs.take 2)))).map (fun i => (i, bs.drop 2))
  | .sequencer =>
    if bs.length < 4 then .error .illegalOp
    else (decodeSeq (BitVec.ofNat 32 (leNat (bs.take 4)))).map (fun i => (i, bs.drop 4))
  | .operation =>
    if bs.length < 4 then .error .illegalOp
    else
      let w : Word := BitVec.ofNat 32 (leNat (bs.take 4))
      let next : Option Word := if bs.length < 8 then none else some (BitVec.ofNat 32 (leNat ((bs.drop 4).take 4)))
      let two := w.toNat / 2 ^ 30 == 2 && bitOf w.toNat 5
      (decodeOp w next).map (fun i => (i, bs.drop (if two then 8 else 4)))

/-- The longest instruction in bytes: an operation word with its extension word (R234). -/
def maxInstrBytes : Nat := 8

/-- What the decoder reads from an instruction of the table's `nbits` bits `w` (log 16: a 32-bit
word that is both an operation word and a sequencer word is read as the operation word). -/
def decodeTableWord (nbits w : Nat) : Option Instr :=
  let bs := leBytes maxInstrBytes (w % 2 ^ nbits)
  let get (k : WordKind) : Option Instr :=
    match decodeBytes k bs with
    | .ok (i, _) => some i
    | .error _ => none
  if nbits ≤ 16 then get .switch
  else
    match get .operation with
    | some i => some i
    | none => get .sequencer

/-! The encoder, from the same tables. -/

/-- Type code (R191). -/
def encTy : ETy → Nat
  | .i32 => 0 | .f32 => 1 | .bf16 => 2 | .f16 => 3 | .i16 => 4 | .i8 => 5 | .i64 => 6 | .u32 => 7

/-- Source operand code (R228). -/
def encSrc : Src → Nat
  | .v n => n.toNat
  | .i n => 16 + n.toNat
  | .k => 28
  | .lane => 29
  | .zero => 30

/-- Destination operand code (R228). -/
def encDst : Dst → Nat
  | .v n => n.toNat
  | .o n => 24 + n.toNat

/-- MSK and mask number, as m[5:3] (R231). -/
def encMsk : Msk → Nat
  | none => 0
  | some n => 4 + n.toNat

/-- Condition code (R231). -/
def encCond : Cond → Nat
  | .eq => 0 | .ne => 1 | .lt => 2 | .le => 3 | .gt => 4 | .ge => 5 | .un => 6

/-- Conversion format code (R231). -/
def encCFmt : CFmt → Nat
  | .i32 => 0 | .f32 => 1 | .bf16 => 2 | .f16 => 3 | .i16 => 4 | .i8 => 5 | .u32 => 7 | .e4m3 => 8 | .e5m2 => 9

/-- Scope code (R118). -/
def encScope : Scope → Nat
  | .tile => 0 | .lease => 1 | .die => 2 | .panel => 3 | .sys => 4

/-- Size code of LD and ST (R220). -/
def encMSize : MSize → Nat
  | .b => 0 | .h => 1 | .w => 2 | .d => 3

/-- Size code of AMO (R224). -/
def encASize : ASize → Nat
  | .w => 2 | .d => 3

/-- A Bool as a bit. -/
def b2n (b : Bool) : Nat := if b then 1 else 0

/-- BFP bit and width, as m[4:0] (R233). -/
def encBfp : Bfp → Nat
  | none => 0
  | some w => 16 + 2 * (w.toNat - 1)

/-- The extension word (R234). -/
def encExt (x : Ext) : Nat :=
  3 * 2 ^ 30 + b2n x.ch * 2 ^ 29 + x.cls.toNat * 2 ^ 25 + x.mark.toNat * 2 ^ 23 +
    encScope x.scope * 2 ^ 20 + x.view.toNat * 2 ^ 17 + x.nsrc.toNat * 2 ^ 12

/-- A form A word (R219). -/
def encA (maj xd xa xb fn : Nat) : Nat := maj * 2 ^ 26 + xd * 2 ^ 21 + xa * 2 ^ 16 + xb * 2 ^ 11 + fn

/-- A form I or B word (R219). -/
def encI (maj xd xa imm : Nat) : Nat := maj * 2 ^ 26 + xd * 2 ^ 21 + xa * 2 ^ 16 + imm

/-- An operation word of six fields (R228). -/
def encO (cls op ty d a b m : Nat) : Nat :=
  cls * 2 ^ 30 + op * 2 ^ 24 + ty * 2 ^ 21 + d * 2 ^ 16 + a * 2 ^ 11 + b * 2 ^ 6 + m

/-- An encoded instruction: one word, with the extension word of an operation where it has one. -/
inductive Code
  | seq (w : Word)
  | op (w : Word) (x : Option Word)
  | sw (w : BitVec 16)
  deriving DecidableEq, Repr

/-- A sequencer word. -/
def codeS (n : Nat) : Option Code := some (.seq (BitVec.ofNat 32 n))

/-- An operation word without an extension. -/
def codeO (n : Nat) : Option Code := some (.op (BitVec.ofNat 32 n) none)

/-- A class-10 word, with EXT set exactly when an extension word follows (R234). -/
def codeX (n : Nat) (x : Option Ext) : Option Code :=
  match x with
  | none => some (.op (BitVec.ofNat 32 n) none)
  | some e => some (.op (BitVec.ofNat 32 (n + 32)) (some (BitVec.ofNat 32 (encExt e))))

/-- A switch word. -/
def codeW (kind rest : Nat) : Option Code := some (.sw (BitVec.ofNat 16 (kind * 2 ^ 13 + rest)))

/-- A class-00 word with mask (R231). -/
def enc0 (op ty d a b : Nat) (m : Msk) (opx : Nat) : Option Code :=
  codeO (encO 0 op ty d a b (encMsk m * 8 + opx))

/-- The encoder: the words of an instruction; none for the steps that have no encoding. -/
def encode : Instr → Option Code
  | .nop => codeS 0
  | .halt => codeS 1
  | .trap k => codeS (k.toNat * 64 + 2)
  | .eret => codeS 3
  | .srd d n => codeS (d.toNat * 2 ^ 21 + n.toNat * 64 + 4)
  | .swr a n => codeS (a.toNat * 2 ^ 16 + n.toNat * 64 + 5)
  | .fence k sc => codeS (encScope sc * 2 ^ 10 + k.toNat * 64 + 6)
  | .ptest d a => codeS (encA 0 d.toNat a.toNat 0 7)
  | .pclr d a => codeS (encA 0 d.toNat a.toNat 0 8)
  | .yieldTurn => codeS 9
  | .add d a b => codeS (encA 1 d.toNat a.toNat b.toNat 0)
  | .sub d a b => codeS (encA 1 d.toNat a.toNat b.toNat 1)
  | .mul d a b => codeS (encA 1 d.toNat a.toNat b.toNat 2)
  | .mulh d a b => codeS (encA 1 d.toNat a.toNat b.toNat 3)
  | .mulhu d a b => codeS (encA 1 d.toNat a.toNat b.toNat 4)
  | .div d a b => codeS (encA 1 d.toNat a.toNat b.toNat 5)
  | .divu d a b => codeS (encA 1 d.toNat a.toNat b.toNat 6)
  | .rem d a b => codeS (encA 1 d.toNat a.toNat b.toNat 7)
  | .remu d a b => codeS (encA 1 d.toNat a.toNat b.toNat 8)
  | .and d a b => codeS (encA 1 d.toNat a.toNat b.toNat 9)
  | .or d a b => codeS (encA 1 d.toNat a.toNat b.toNat 10)
  | .xor d a b => codeS (encA 1 d.toNat a.toNat b.toNat 11)
  | .shl d a b => codeS (encA 1 d.toNat a.toNat b.toNat 12)
  | .shr d a b => codeS (encA 1 d.toNat a.toNat b.toNat 13)
  | .sha d a b => codeS (encA 1 d.toNat a.toNat b.toNat 14)
  | .slt d a b => codeS (encA 1 d.toNat a.toNat b.toNat 15)
  | .sltu d a b => codeS (encA 1 d.toNat a.toNat b.toNat 16)
  | .min d a b => codeS (encA 1 d.toNat a.toNat b.toNat 17)
  | .max d a b => codeS (encA 1 d.toNat a.toNat b.toNat 18)
  | .minu d a b => codeS (encA 1 d.toNat a.toNat b.toNat 19)
  | .maxu d a b => codeS (encA 1 d.toNat a.toNat b.toNat 20)
  | .clz d a => codeS (encA 1 d.toNat a.toNat 0 21)
  | .popc d a => codeS (encA 1 d.toNat a.toNat 0 22)
  | .addi d a i => codeS (encI 2 d.toNat a.toNat i.toNat)
  | .andi d a i => codeS (encI 3 d.toNat a.toNat i.toNat)
  | .ori d a i => codeS (encI 4 d.toNat a.toNat i.toNat)
  | .xori d a i => codeS (encI 5 d.toNat a.toNat i.toNat)
  | .shli d a i => codeS (encI 6 d.toNat a.toNat i.toNat)
  | .shri d a i => codeS (encI 7 d.toNat a.toNat i.toNat)
  | .shai d a i => codeS (encI 8 d.toNat a.toNat i.toNat)
  | .slti d a i => codeS (encI 9 d.toNat a.toNat i.toNat)
  | .sltiu d a i => codeS (encI 10 d.toNat a.toNat i.toNat)
  | .lih d i => codeS (encI 0x0B d.toNat 0 i.toNat)
  | .lik d p i => codeS (encI 0x0C d.toNat p.toNat i.toNat)
  | .beq a b o => codeS (encI 16 a.toNat b.toNat o.toNat)
  | .bne a b o => codeS (encI 17 a.toNat b.toNat o.toNat)
  | .blt a b o => codeS (encI 18 a.toNat b.toNat o.toNat)
  | .bge a b o => codeS (encI 19 a.toNat b.toNat o.toNat)
  | .bltu a b o => codeS (encI 20 a.toNat b.toNat o.toNat)
  | .bgeu a b o => codeS (encI 21 a.toNat b.toNat o.toNat)
  | .jmp o => codeS (0x16 * 2 ^ 26 + o.toNat)
  | .jal o => codeS (0x17 * 2 ^ 26 + o.toNat)
  | .jalr d a i => codeS (encI 0x18 d.toNat a.toNat i.toNat)
  | .ld d a z sg o off =>
    codeS (encI 0x20 d.toNat a.toNat (encMSize z * 2 ^ 14 + b2n sg * 2 ^ 13 + b2n o * 2 ^ 12 + off.toNat))
  | .st d a z o off =>
    codeS (encI 0x21 d.toNat a.toNat (encMSize z * 2 ^ 14 + b2n o * 2 ^ 12 + off.toNat))
  | .amoAdd d a b z sc => codeS (encA 0x22 d.toNat a.toNat b.toNat (encASize z * 128 + encScope sc * 16 + 0))
  | .amoAnd d a b z sc => codeS (encA 0x22 d.toNat a.toNat b.toNat (encASize z * 128 + encScope sc * 16 + 1))
  | .amoOr d a b z sc => codeS (encA 0x22 d.toNat a.toNat b.toNat (encASize z * 128 + encScope sc * 16 + 2))
  | .amoXor d a b z sc => codeS (encA 0x22 d.toNat a.toNat b.toNat (encASize z * 128 + encScope sc * 16 + 3))
  | .amoMin d a b z sc => codeS (encA 0x22 d.toNat a.toNat b.toNat (encASize z * 128 + encScope sc * 16 + 4))
  | .amoMax d a b z sc => codeS (encA 0x22 d.toNat a.toNat b.toNat (encASize z * 128 + encScope sc * 16 + 5))
  | .amoMinu d a b z sc => codeS (encA 0x22 d.toNat a.toNat b.toNat (encASize z * 128 + encScope sc * 16 + 6))
  | .amoMaxu d a b z sc => codeS (encA 0x22 d.toNat a.toNat b.toNat (encASize z * 128 + encScope sc * 16 + 7))
  | .amoXchg d a b z sc => codeS (encA 0x22 d.toNat a.toNat b.toNat (encASize z * 128 + encScope sc * 16 + 8))
  | .amoCas d a b z sc => codeS (encA 0x22 d.toNat a.toNat b.toNat (encASize z * 128 + encScope sc * 16 + 9))
  | .snap d => codeS (encA 0x28 d.toNat 0 0 0)
  | .srel n => codeS (encA 0x28 0 0 0 (n.toNat * 256 + 1))
  | .txb d => codeS (encA 0x28 d.toNat 0 0 2)
  | .txc d n c => codeS (encA 0x28 d.toNat 0 0 (n.toNat * 256 + b2n c * 64 + 3))
  | .txa n => codeS (encA 0x28 0 0 0 (n.toNat * 256 + 4))
  | .txs d n => codeS (encA 0x28 d.toNat 0 0 (n.toNat * 256 + 5))
  | .publ d sh c x => codeS (encA 0x28 d.toNat 0 0 (sh.toNat * 256 + b2n x * 128 + b2n c * 64 + 6))
  | .cfg d a b => codeS (encA 0x30 d.toNat a.toNat b.toNat 0)
  | .cswap a f => codeS (encA 0x30 0 a.toNat 0 (b2n f * 64 + 1))
  | .go => codeS (encA 0x30 0 0 0 2)
  | .waitd d => codeS (encA 0x30 d.toNat 0 0 3)
  | .drain d a => codeS (encA 0x30 d.toNat a.toNat 0 4)
  | .strm a b => codeS (encA 0x30 0 a.toNat b.toNat 5)
  | .grpw a b => codeS (encA 0x30 0 a.toNat b.toNat 6)
  | .ecopy d a b y sh => codeS (encA 0x34 d.toNat a.toNat b.toNat (b2n y * 4 + sh.toNat))
  | .egath d a b y sh => codeS (encA 0x35 d.toNat a.toNat b.toNat (b2n y * 4 + sh.toNat))
  | .ecoll d a b y sh => codeS (encA 0x36 d.toNat a.toNat b.toNat (b2n y * 4 + sh.toNat))
  | .ewait d a b => codeS (encA 0x37 d.toNat a.toNat b.toNat 0)
  | .launch d a => codeS (encA 0x38 d.toNat a.toNat 0 0)
  | .launchr d a => codeS (encA 0x38 d.toNat a.toNat 0 1)
  | .join d a => codeS (encA 0x39 d.toNat a.toNat 0 0)
  | .elementNop => codeO 0
  | .vadd t d a b m sat => enc0 0x01 (encTy t) (encDst d) (encSrc a) (encSrc b) m (b2n sat)
  | .vsub t d a b m sat => enc0 0x02 (encTy t) (encDst d) (encSrc a) (encSrc b) m (b2n sat)
  | .vmul t d a b m sat => enc0 0x03 (encTy t) (encDst d) (encSrc a) (encSrc b) m (b2n sat)
  | .vmulh t d a b m => enc0 0x04 (encTy t) (encDst d) (encSrc a) (encSrc b) m 0
  | .vmac t d a b m => enc0 0x05 (encTy t) d.toNat (encSrc a) (encSrc b) m 0
  | .vmin t d a b m => enc0 0x06 (encTy t) (encDst d) (encSrc a) (encSrc b) m 0
  | .vmax t d a b m => enc0 0x07 (encTy t) (encDst d) (encSrc a) (encSrc b) m 0
  | .vabs t d a m => enc0 0x08 (encTy t) (encDst d) (encSrc a) 0 m 0
  | .vneg t d a m => enc0 0x09 (encTy t) (encDst d) (encSrc a) 0 m 0
  | .vand t d a b m => enc0 0x0A (encTy t) (encDst d) (encSrc a) (encSrc b) m 0
  | .vor t d a b m => enc0 0x0B (encTy t) (encDst d) (encSrc a) (encSrc b) m 0
  | .vxor t d a b m => enc0 0x0C (encTy t) (encDst d) (encSrc a) (encSrc b) m 0
  | .vnot t d a m => enc0 0x0D (encTy t) (encDst d) (encSrc a) 0 m 0
  | .vshl t d a b m => enc0 0x0E (encTy t) (encDst d) (encSrc a) (encSrc b) m 0
  | .vshr t d a b m => enc0 0x0F (encTy t) (encDst d) (encSrc a) (encSrc b) m 0
  | .vsha t d a b m => enc0 0x10 (encTy t) (encDst d) (encSrc a) (encSrc b) m 0
  | .vpopc t d a m => enc0 0x11 (encTy t) (encDst d) (encSrc a) 0 m 0
  | .vclz t d a m => enc0 0x12 (encTy t) (encDst d) (encSrc a) 0 m 0
  | .vcmp t d a b m c => enc0 0x13 (encTy t) (encDst d) (encSrc a) (encSrc b) m (encCond c)
  | .vsel t d a b m => enc0 0x14 (encTy t) d.toNat (encSrc a) (encSrc b) m 0
  | .vmov d a m => enc0 0x15 0 (encDst d) (encSrc a) 0 m 0
  | .vli t d i => codeO (encO 0 0x16 (encTy t) (encDst d) 0 0 0 + i.toNat)
  | .fadd t d a b m => enc0 0x17 (encTy t) (encDst d) (encSrc a) (encSrc b) m 0
  | .fsub t d a b m => enc0 0x18 (encTy t) (encDst d) (encSrc a) (encSrc b) m 0
  | .fmul t d a b m => enc0 0x19 (encTy t) (encDst d) (encSrc a) (encSrc b) m 0
  | .ffma t d a b m => enc0 0x1A (encTy t) d.toNat (encSrc a) (encSrc b) m 0
  | .ffms t d a b m => enc0 0x1B (encTy t) d.toNat (encSrc a) (encSrc b) m 0
  | .fmin t d a b m => enc0 0x1C (encTy t) (encDst d) (encSrc a) (encSrc b) m 0
  | .fmax t d a b m => enc0 0x1D (encTy t) (encDst d) (encSrc a) (encSrc b) m 0
  | .fabs t d a m => enc0 0x1E (encTy t) (encDst d) (encSrc a) 0 m 0
  | .fneg t d a m => enc0 0x1F (encTy t) (encDst d) (encSrc a) 0 m 0
  | .fdiv t d a b m => enc0 0x20 (encTy t) (encDst d) (encSrc a) (encSrc b) m 0
  | .fsqrt t d a m => enc0 0x21 (encTy t) (encDst d) (encSrc a) 0 m 0
  | .frsq t d a m => enc0 0x22 (encTy t) (encDst d) (encSrc a) 0 m 0
  | .fex2 t d a m => enc0 0x23 (encTy t) (encDst d) (encSrc a) 0 m 0
  | .flg2 t d a m => enc0 0x24 (encTy t) (encDst d) (encSrc a) 0 m 0
  | .fcmp t d a b m c => enc0 0x25 (encTy t) (encDst d) (encSrc a) (encSrc b) m (encCond c)
  | .fcls t d a m => enc0 0x26 (encTy t) (encDst d) (encSrc a) 0 m 0
  | .cvt df sf d a m => enc0 0x27 (encCFmt df % 8) (encDst d) (encSrc a) (encCFmt sf) m (4 * (encCFmt df / 8))
  | .scl t d a b m => enc0 0x28 (encTy t) (encDst d) (encSrc a) (encSrc b) m 0
  | .bfpk d a w m => enc0 0x29 1 (encDst d) (encSrc a) w.toNat m 0
  | .bfup d a w m => enc0 0x2A 1 (encDst d) (encSrc a) w.toNat m 0
  | .rsum t d a m => enc0 0x2B (encTy t) (encDst d) (encSrc a) 0 m 0
  | .rmax t d a m => enc0 0x2C (encTy t) (encDst d) (encSrc a) 0 m 0
  | .rmin t d a m => enc0 0x2D (encTy t) (encDst d) (encSrc a) 0 m 0
  | .perm t d a b m => enc0 0x2E (encTy t) (encDst d) (encSrc a) (encSrc b) m 0
  | .bperm t d a b m => enc0 0x2F (encTy t) (encDst d) (encSrc a) (encSrc b) m 0
  | .lshf t d a b m => enc0 0x30 (encTy t) (encDst d) (encSrc a) (encSrc b) m 0
  | .bcst t d a l m => enc0 0x31 (encTy t) (encDst d) (encSrc a) l.toNat m 0
  | .shuf t d a b m => enc0 0x32 (encTy t) (encDst d) (encSrc a) (encSrc b) m 0
  | .mmul d a b m => enc0 0x33 6 (encDst d) (encSrc a) (encSrc b) m 0
  | .madd d a b m => enc0 0x34 6 (encDst d) (encSrc a) (encSrc b) m 0
  | .msub d a b m => enc0 0x35 6 (encDst d) (encSrc a) (encSrc b) m 0
  | .nttb d a b m => enc0 0x36 6 d.toNat (encSrc a) (encSrc b) m 0
  | .ptst t d a m => enc0 0x37 (encTy t) (encDst d) (encSrc a) 0 m 0
  | .elementPclr t d a m => enc0 0x38 (encTy t) (encDst d) (encSrc a) 0 m 0
  | .pfil t d a b m => enc0 0x39 (encTy t) (encDst d) (encSrc a) (encSrc b) m 0
  | .pset t d a b m => enc0 0x3A (encTy t) (encDst d) (encSrc a) (encSrc b) m 0
  | .exit => codeO (encO 1 0 0 0 0 0 0)
  | .waitf p n => codeO (encO 1 1 0 0 (16 + p.toNat) 0 n.toNat)
  | .waite p n => codeO (encO 1 2 0 0 (24 + p.toNat) 0 n.toNat)
  | .adv p n => codeO (encO 1 3 0 0 (16 + p.toNat) 0 n.toNat)
  | .pub p n => codeO (encO 1 4 0 0 (24 + p.toNat) 0 n.toNat)
  | .peek d p n => codeO (encO 1 5 0 (encDst d) (16 + p.toNat) 0 n.toNat)
  | .emit p x => codeO (encO 1 6 0 0 (24 + p.toNat) (encSrc x) 0)
  | .eos none => codeO (encO 1 7 0 0 30 0 0)
  | .eos (some p) => codeO (encO 1 7 0 0 (24 + p.toNat) 0 0)
  | .br o => codeO (encO 1 8 0 0 0 0 0 + o.toNat)
  | .bz x o => codeO (encO 1 9 0 0 (encSrc x) 0 0 + o.toNat)
  | .bnz x o => codeO (encO 1 10 0 0 (encSrc x) 0 0 + o.toNat)
  | .loop d o => codeO (encO 1 11 0 d.toNat 0 0 0 + o.toNat)
  | .gbar g => codeO (encO 1 12 0 0 0 0 0 + g.toNat)
  | .elementTrap c => codeO (encO 1 13 0 0 0 0 0 + c.toNat)
  | .rdct d c => codeO (encO 1 14 0 (encDst d) 0 0 0 + c.toNat)
  | .ctrw a c => codeO (encO 1 15 0 0 (encSrc a) 0 0 + c.toNat)
  | .tdl a => codeO (encO 2 0 0 0 (encSrc a) 0 0)
  | .gen t d c x => codeX (encO 2 1 (encTy t) (encDst d) 0 0 c.toNat) x
  | .gath t d a b f x => codeX (encO 2 2 (encTy t) (encDst d) (encSrc a) (encSrc b) (encBfp f)) x
  | .scat d a b f x => codeX (encO 2 3 0 d.toNat (encSrc a) (encSrc b) (encBfp f)) x
  | .ldm t d a f x => codeX (encO 2 4 (encTy t) (encDst d) (encSrc a) 0 (encBfp f)) x
  | .stm d a f x => codeX (encO 2 5 0 d.toNat (encSrc a) 0 (encBfp f)) x
  | .pref a => codeO (encO 2 6 0 0 (encSrc a) 0 0)
  | .ordStep x => codeX (encO 2 7 0 0 0 0 0) (some x)
  | .ordFence k x => codeX (encO 2 7 0 0 0 0 (16 + k.toNat)) (some x)
  | .ldt t d a l x => codeX (encO 2 0x10 (encTy t) (encDst d) (encSrc a) 0 (b2n l * 16)) x
  | .stt d a l x => codeX (encO 2 0x11 0 d.toNat (encSrc a) 0 (b2n l * 16)) x
  | .aadd t a b l x => codeX (encO 2 0x12 (encTy t) 0 (encSrc a) (encSrc b) (b2n l * 16)) x
  | .afad t d a b l x => codeX (encO 2 0x13 (encTy t) (encDst d) (encSrc a) (encSrc b) (b2n l * 16)) x
  | .amin t a b l x => codeX (encO 2 0x14 (encTy t) 0 (encSrc a) (encSrc b) (b2n l * 16)) x
  | .amax t a b l x => codeX (encO 2 0x15 (encTy t) 0 (encSrc a) (encSrc b) (b2n l * 16)) x
  | .aand t a b l x => codeX (encO 2 0x16 (encTy t) 0 (encSrc a) (encSrc b) (b2n l * 16)) x
  | .aor t a b l x => codeX (encO 2 0x17 (encTy t) 0 (encSrc a) (encSrc b) (b2n l * 16)) x
  | .axor t a b l x => codeX (encO 2 0x18 (encTy t) 0 (encSrc a) (encSrc b) (b2n l * 16)) x
  | .axch t d a b l x => codeX (encO 2 0x19 (encTy t) (encDst d) (encSrc a) (encSrc b) (b2n l * 16)) x
  | .acas t d a b l x => codeX (encO 2 0x1A (encTy t) d.toNat (encSrc a) (encSrc b) (b2n l * 16)) x
  | .syna a b l g x => codeX (encO 2 0x1B 0 0 (encSrc a) (encSrc b) (b2n l * 16 + b2n g * 8)) x
  | .synw d a b l x => codeX (encO 2 0x1C 0 (encDst d) (encSrc a) (encSrc b) (b2n l * 16)) x
  | .wld a b => codeO (encO 2 0x20 0 0 (encSrc a) (encSrc b) 0)
  | .wswp => codeO (encO 2 0x21 0 0 0 0 0)
  | .mma a b w n => codeO (encO 2 0x22 0 0 (encSrc a) (encSrc b) ((w.toNat - 1) * 4 + n.toNat))
  | .mmai a b w n => codeO (encO 2 0x23 0 0 (encSrc a) (encSrc b) ((w.toNat - 1) * 4 + n.toNat))
  | .acrd t d sg n => codeO (encO 2 0x24 (encTy t) (encDst d) 0 sg.toNat n.toNat)
  | .accl n => codeO (encO 2 0x25 0 0 0 0 n.toNat)
  | .route a d c => codeW 1 (a.toNat * 256 + d.toNat * 8 + c.toNat * 2)
  | .fork a d c => codeW 2 (a.toNat * 256 + d.toNat * 8 + c.toNat * 2)
  | .merge a d c => codeW 3 (a.toNat * 256 + d.toNat * 8 + c.toNat * 2)
  | .switchNop => codeW 0 0
  | .cut t i => codeW 4 (t.toNat * 256 + i.toNat)
  | .hold t => codeW 5 (t.toNat * 256)
  | .dly t d => codeW 6 (t.toNat * 256 + d.toNat)
  | .fwl c => codeW 7 (c.toNat * 512)
  | _ => none

/-- Decoding of an encoded instruction by the decoder of its kind. -/
def Code.decode : Code → Except Reject Instr
  | .seq w => decodeSeq w
  | .op w x => decodeOp w x
  | .sw w => decodeSw w

end Sys2Proof
end

