-- ==== Sys2Proof/Machine/State.lean ====
section
/-! DEFINITION. The state of the panel as plain data, its reasons to stop, and the state after
reset. Every indexed collection is a list of key and value pairs with strictly rising keys; a key
that is not listed holds the value zero or no entry. -/

namespace Sys2Proof.Machine

/-- A set of numbers, strictly rising. -/
abbrev NSet := List Nat

/-! ### Tokens, ports, elements -/

/-- A token with its side fields (R141, R170, R413); also a lane register with tag and aux (R296). -/
structure Tok where
  data : Payload
  pois : LaneMask
  tag : BitVec 3
  aux : BitVec 8
  inc : BitVec 8
  deriving DecidableEq, Repr

/-- The zero token: what a lane register holds at grant (R163). -/
def Tok.zero : Tok := ⟨0, 0, 0, 0, 0⟩

/-- An input port (R168, R169): tokens from the head on, and the advances already taken from a
sticky head. -/
structure InPort where
  q : List Tok
  used : Nat
  deriving DecidableEq, Repr

/-- An output port (R168): published tokens that have not left, slots whose credit has not come
back, and the tokens written to tail slots but not yet published (by distance from the tail). -/
structure OutPort where
  pub : List Tok
  due : Nat
  tail : List (Nat × Tok)
  deriving DecidableEq, Repr

/-- What a firing in progress waits for (R167, R324, R336, R350). -/
inductive Wait
  /-- Nothing: the next word issues at the context's turn. -/
  | none
  /-- The firing started in this fc: its first word issues in the turn that started it (R164, R167). -/
  | start
  /-- Its word has issued and is stalled: it goes on once its condition holds, and takes no turn before (R164, R300). -/
  | stall
  /-- A memory request, by id; at its reply the firing continues. -/
  | mem (id : Nat)
  /-- GBAR: group and the generation it arrived in. -/
  | gbar (g gen : Nat)
  deriving DecidableEq, Repr

/-- A firing in progress (R167): handler, program-memory index of the next word, slots advanced
and published so far, ordinal since the checkpoint (R418), rate check dropped by SKIP (R389). -/
structure Firing where
  /-- Handler (R167). -/
  h : Nat
  /-- Program-memory index of the next word (R167). -/
  pc : Nat
  /-- Slots advanced so far, by port (R171). -/
  adv : List (Nat × Nat)
  /-- Slots published so far, by port (R171). -/
  pub : List (Nat × Nat)
  /-- Ordinal since the checkpoint (R418). -/
  ord : Nat
  /-- What it waits for: nothing, its first turn, its stalled word, a request, a group (R164, R167, R324, R336, R350). -/
  wait : Wait
  /-- The rate check is dropped by SKIP (R389). -/
  noRate : Bool
  deriving DecidableEq, Repr

/-- Why a context is frozen (R384). -/
inductive Frozen
  | firing | close
  /-- At a damaged word of its handler table or port block, outside a firing's words (R143). -/
  | config
  /-- Before a marker round, by a poisoned marker (R148). -/
  | round
  | late (id : Nat)
  deriving DecidableEq, Repr

/-- A context of an element (R163, R328, R338). -/
structure Ctx where
  /-- V0 to V15, each a Tok: 768 bits, 24 poison bits, tag 3, aux 8 (R163, R296). -/
  v : List (Nat × Tok)
  /-- M0 to M3 (R163). -/
  m : List (Nat × LaneMask)
  /-- ESTAT (R163, R198). -/
  estat : BitVec 32
  /-- HMASK (R163). -/
  hmask : BitVec 16
  /-- SKIP (R163). -/
  skip : Nat
  /-- MISS of each handler (R163). -/
  miss : List (Nat × Nat)
  /-- GS (R207, R208). -/
  gs : BitVec 32
  /-- HALF (R207, R208). -/
  half : Bool
  /-- PKST (R328). -/
  pkst : BitVec 2
  /-- ADESC (R338). -/
  adesc : Payload
  /-- I0 to I7 (R168, R169). -/
  ins : List (Nat × InPort)
  /-- O0 to O3 (R168, R298). -/
  outs : List (Nat × OutPort)
  /-- Firing in progress (R167). -/
  fire : Option Firing
  /-- Frozen by a fault: in a firing, at a damaged word, before a round, at its close, or for a late access (R148, R384). -/
  frozen : Option (Frozen × Nat)
  /-- A go is open (R174). -/
  goOpen : Bool
  /-- Firings since the go (R174). -/
  goCnt : Nat
  /-- Firings that the go asks for (R174). -/
  goLeft : Nat
  /-- Handler that fired last at each PRIO (R166). -/
  lastFired : List (Nat × Nat)
  /-- The context has closed (R185). -/
  closed : Bool
  /-- Outputs on which EOS has been published (R185, R321). -/
  eosSent : NSet
  /-- Round that it has entered (R180). -/
  entered : Option Nat
  /-- It is held by a HOLD round (R182). -/
  hold : Bool
  /-- Round whose marker the control network has brought (R180). -/
  mark : Option Nat
  /-- Ordinal of its next access in the pair's comparison (R418). -/
  ord : Nat
  deriving DecidableEq, Repr

/-- A context as a grant leaves it (R163). -/
def Ctx.zero : Ctx :=
  { v := [], m := [], estat := 0, hmask := 0, skip := 0, miss := [], gs := 0, half := true, pkst := 0,
    adesc := 0, ins := [], outs := [], fire := .none, frozen := .none, goOpen := false, goCnt := 0,
    goLeft := 0, lastFired := [], closed := false, eosSent := [], entered := .none,
    hold := false, mark := .none, ord := 0 }

/-- A configuration plane (R160): words by their index within each section (R239 to R242, R246), the descriptors of edge
buffers (R247) as offset, slots, endpoints, and the words that an error has damaged, by 65,536·section + index (R143). -/
structure Plane where
  /-- Program memory (R160, R239). -/
  prog : List (Nat × Word)
  /-- Handler table (R239, R246). -/
  ht : List (Nat × Word)
  /-- Port block (R240, R246). -/
  pb : List (Nat × Word)
  /-- Element block (R241, R246). -/
  eb : List (Nat × Word)
  /-- Controller block (R242, R246). -/
  cb : List (Nat × Word)
  /-- Switch words (R237, R246). -/
  sw : List (Nat × BitVec 16)
  /-- Edge-buffer descriptors (R247). -/
  ebd : List (Nat × Nat × Nat)
  /-- Words that an error has damaged, by 65,536 x section + index (R143). -/
  bad : NSet
  deriving DecidableEq, Repr

/-- The zero plane (R187, R270). -/
def Plane.zero : Plane := ⟨[], [], [], [], [], [], [], []⟩

/-- A live edge buffer (R73, R75): descriptor, head slot, tokens held, and the sectors that an error has struck since their slot
was written, by 4·slot + sector (R82, R142). -/
structure EdgeBuf where
  off : Nat
  slots : Nat
  endp : Nat
  head : Nat
  count : Nat
  bad : NSet := []
  deriving DecidableEq, Repr

/-- A group-arrival record of an S tile (R349): word, group, members that came, sum, poison. -/
structure GRec where
  off : Nat
  g : Nat
  members : List (Nat × Nat)
  sum : Nat
  pois : Bool
  deriving DecidableEq, Repr

/-- A weight macro of an M tile (R351): weights by 192·row + column, exponents by 192·k + column,
poison per K-block, columns written clean by 192·k + column. -/
structure Macro where
  w : List (Nat × Byte)
  e : List (Nat × Byte)
  pois : BitVec 16
  clean : NSet
  deriving DecidableEq, Repr

/-- Matrix state (R351): accumulator entries by 192·bank + entry, and the poisoned ones. -/
structure MState where
  act : Macro
  ld : Macro
  acc : List (Nat × Word)
  accPois : NSet
  deriving DecidableEq, Repr

/-- The macro at grant (R351). -/
def Macro.zero : Macro := ⟨[], [], 0, []⟩

/-- The matrix state at grant (R351). -/
def MState.zero : MState := ⟨.zero, .zero, [], []⟩

/-- A controller at run time (R172, R173): open go, chain exhausted, iterations started and done by
each child, permits received, the child a sequential controller waits for. -/
structure Ctl where
  /-- A go is open (R172). -/
  open_ : Bool
  /-- The chain is exhausted (R172, R173). -/
  exhausted : Bool
  /-- Iterations that each child has started (R172). -/
  started : List (Nat × Nat)
  /-- Iterations that each child has ended (R172). -/
  done : List (Nat × Nat)
  /-- Permits received from each child (R172). -/
  perm : List (Nat × Nat)
  /-- Child that a sequential controller waits for (R172). -/
  cur : Nat
  deriving DecidableEq, Repr

/-- Edges from earlier requests: the request, and the code of the edge's scope (R118, R119). -/
abbrev Edges := List (Nat × Nat)

/-- Outstanding accesses, fences and floors of one agent in issue order (R115, R126 to R128): what following reads and
writes must follow, the latest ticks at which a read and a write were performed, and the host ports that carried its writes
since the latest flush (R135). -/
structure OrdSt where
  /-- Reads outstanding (R126, R127). -/
  outR : NSet
  /-- Writes outstanding (R126, R127). -/
  outW : NSet
  /-- Requests that every later read must follow, with the scope of the edge (R119, R126, R127). -/
  preR : Edges
  /-- Requests that every later write must follow, with the scope of the edge (R119, R126, R127). -/
  preW : Edges
  /-- Tick floor (R120). -/
  floor : Nat
  /-- Latest tick at which one of its reads was performed (R120, R126). -/
  lastR : Nat
  /-- Latest tick at which one of its writes was performed (R120, R126). -/
  lastW : Nat
  /-- Host ports that carried writes since the latest flush (R135). -/
  ports : NSet
  deriving DecidableEq, Repr

/-- No outstanding access. -/
def OrdSt.zero : OrdSt := ⟨[], [], [], [], 0, 0, 0, []⟩

/-- What an A tile remembers of a context's latest completed relaxed GEN (R340): its word and counter, and the base addresses of the
positions after it whose loads have been issued. -/
structure RunAhead where
  pc : Nat
  ctr : Nat
  loads : List Nat
  deriving DecidableEq, Repr

/-- A tile of a lease (R160 to R164, R172, R359). `inl` holds tokens in the fc between arrival and
visibility (R67), by 8·context + port; `kept` what freed edge buffers still held, with its outgoing track (R88); `cred` by how
much the credit count of a link differs from its receiver's free slots, by outgoing track, and by 16 + incoming track (R422). -/
structure Tile where
  /-- Active plane (R160). -/
  act : Plane
  /-- Shadow plane (R160). -/
  shd : Plane
  /-- Contexts 0 to 3 (R163). -/
  ctx : List (Nat × Ctx)
  /-- Counters C0 to C9 (R173, R328). -/
  ctr : List (Nat × Word)
  /-- Controller at run time (R172, R173). -/
  ctl : Ctl
  /-- CCTR (R164, R328). -/
  cctr : Nat
  /-- PHASE (R178, R328). -/
  phase : Nat
  /-- PHASE runs (R178). -/
  phaseOn : Bool
  /-- HOLD tracks are open (R361). -/
  holdOpen : Bool
  /-- Incoming track tokens (R359). -/
  tin : List (Nat × Tok)
  /-- Outgoing track tokens (R359). -/
  tout : List (Nat × Tok)
  /-- Delays left of DLY tracks (R361). -/
  dly : List (Nat × Nat)
  /-- Tokens between arrival and visibility (R67, R168). -/
  inl : List (Nat × Tok)
  /-- Sources of a MERGE that have ended or delivered a marker (R360). -/
  eosSeen : NSet
  /-- Closed edges (R237, R362). -/
  fwl : BitVec 4
  /-- Tile store (R67). -/
  store : List Host.Cell
  /-- Poisoned sectors of the tile store (R83). -/
  spois : NSet
  /-- 2 KiB blocks whose unscrubbed bit is clear (R59). -/
  scrubbed : NSet
  /-- Blocks whose zeroing is under way (R59). -/
  zeroing : NSet
  /-- Live edge buffers (R73, R75). -/
  ebs : List EdgeBuf
  /-- Tokens that a freed edge buffer still held, with their outgoing track (R88). -/
  kept : List (Nat × Tok)
  /-- Difference of a link's credit count from its receiver's free slots, by outgoing track and by 16 + incoming track (R422). -/
  cred : List (Nat × Int)
  /-- Group-arrival records (R349). -/
  grecs : List GRec
  /-- Matrix state (R351). -/
  mat : MState
  /-- Per context: the latest relaxed GEN and the run-ahead loads issued after it (R65, R340). -/
  ra : List (Nat × RunAhead)
  /-- The tile has passed (R187). -/
  passed : Bool
  /-- A poisoned store since the latest SYNA (R348). -/
  poisStore : Bool
  /-- Order of its accesses (R126, R127). -/
  ord : OrdSt
  deriving DecidableEq, Repr

/-- A tile as a grant leaves it: zero planes and registers, unscrubbed store (R59, R163, R351). -/
def Tile.zero : Tile :=
  { act := .zero, shd := .zero, ctx := [], ctr := [], ctl := ⟨false, false, [], [], [], 0⟩, cctr := 0,
    phase := 0, phaseOn := false, holdOpen := false, tin := [], tout := [], dly := [], inl := [], eosSeen := [], fwl := 0,
    store := [], spois := [], scrubbed := [], zeroing := [], ebs := [], kept := [], cred := [], grecs := [], mat := .zero,
    ra := [], passed := false, poisStore := false, ord := .zero }

/-- Messages of the control network (R175). -/
inductive CKind
  /-- Go to the controller of a tile, or to one of its contexts with its trip count. -/
  | go | ctxGo
  /-- Done of child `sub` of a controller; a permit from child `sub`. -/
  | done | permit
  /-- Done of the root to the sequencer; the PHASE reset of a tile. -/
  | rootDone | phase
  /-- Arrival of a context at group `val`. -/
  | arrival
  deriving DecidableEq, Repr

/-- A message under way: to tile `tile`, context or child `sub`. -/
structure Msg where
  kind : CKind
  tile : Nat
  sub : Nat
  val : Nat
  deriving DecidableEq, Repr

/-! ### Sequencers and leases -/

/-- Fields of a launch record that are kept once it has been read (R285, R367), the cause with which it failed then, or 0 (R368), and
for each SYNC dependence that has been examined and not found passed, by its index, the number of its waiter (R81, R370). -/
structure Rec where
  /-- IMAGE (R367). -/
  image : Nat
  /-- W (R367). -/
  w : Nat
  /-- H (R367). -/
  h : Nat
  /-- PRIO (R367). -/
  prio : Nat
  /-- PIN (R367). -/
  pin : Bool
  /-- COMPACT (R367). -/
  compact : Bool
  /-- RESERVE (R367, R377). -/
  reserve : Nat
  /-- QOS (R367, R378). -/
  qos : Nat
  /-- TLIMIT (R367, R380). -/
  tlimit : Nat
  /-- Bound segments: die and segment (R78, R367). -/
  segs : List (Nat × Nat)
  /-- Dependences used (R367, R370). -/
  deps : List Dword
  /-- Arguments (R253, R367). -/
  args : List Dword
  /-- Cause with which it failed when it was read, or 0 (R368). -/
  bad : Nat
  /-- Waiter of each SYNC dependence that has been examined (R81, R370). -/
  depw : List (Nat × Nat) := []
  deriving DecidableEq, Repr

/-- A tensor descriptor (R278): space, base, extents and strides from dimension 0 on. -/
structure TD where
  space : Nat
  base : Nat
  dims : List (Nat × Int)
  deriving DecidableEq, Repr

/-- What an engine operation does (R279 to R281). -/
inductive EngKind
  | copy (total : Nat) (src dst : TD)
  | gath (j isize : Nat) (idx tab dst : TD)
  | coll (cid root rank npart ty op count : Nat) (members : List (Nat × Option Nat)) (src dst : TD)
  deriving DecidableEq, Repr

/-- An instruction of the sequencer that takes more than one step (R255, R290, R294). -/
inductive SeqOp
  | none
  /-- LD, ST or AMO whose address token has not passed its slice. -/
  | addr (id : Nat)
  /-- AMO sent, awaiting its reply. -/
  | amo (id : Nat)
  /-- A fence or an edge that waits for the host or peers (R135). -/
  | fence (ids : NSet)
  /-- CSWAP: tiles still to swap, names every used tile, FINAL, groups whose wrong COUNT it has reported (R176). -/
  | cswap (left : NSet) (all fin : Bool) (grps : NSet := [])
  /-- DRAIN in STEP or HOLD mode: its round. -/
  | drain (n : Nat)
  /-- TXC or PUBL: see `Lease.commit`. -/
  | commit
  /-- A synchronous read that waits for a pager job. -/
  | page (job : Nat)
  /-- EWAIT in sync mode: its request. -/
  | ewait (id : Nat)
  /-- LAUNCHR: the record has been read and waits for room in the reserve. -/
  | launch (r : Rec)
  /-- An engine operation whose descriptor has been read and that waits for one of 64 places (R277). -/
  | engine (k : EngKind)
  deriving DecidableEq, Repr

/-- A sequencer (R253, R256). -/
structure Seq where
  /-- X0 to X31 (R253). -/
  x : List (Nat × Dword)
  /-- Poison of X1 to X31 (R141, R253). -/
  xp : NSet
  /-- PC (R253). -/
  pc : Nat
  /-- SVIEW (R256). -/
  sview : Nat
  /-- ATOMST (R256). -/
  atomst : BitVec 2
  /-- DONECNT (R256). -/
  donecnt : Nat
  /-- TVEC (R256). -/
  tvec : Nat
  /-- EPC (R256). -/
  epc : Nat
  /-- ECAUSE (R256). -/
  ecause : BitVec 26
  /-- EADDR (R256). -/
  eaddr : Dword
  /-- INTRAP (R256). -/
  intrap : Bool
  /-- TSCR (R256). -/
  tscr : Dword
  /-- CYCLE (R256). -/
  cycle : Nat
  /-- Stopped by an unhandled trap (R291). -/
  stopped : Bool
  /-- Instruction that takes more than one step (R255, R290, R294). -/
  op : SeqOp
  /-- CSWAP or DRAIN that a trap interrupted, with its PC (R290). -/
  saved : Option (Nat × SeqOp)
  /-- Registers that a load under way will write (R255). -/
  pend : List (Nat × Nat)
  /-- Instruction cache (R254). -/
  icache : List (Nat × Word)
  /-- Outstanding accesses, fences, floor (R126, R127). -/
  ord : OrdSt
  /-- Requests whose bytes a later access may overlap (R128). -/
  hist : List (Nat × Nat × Nat)
  /-- Instructions completed, by which a pair stays in step (R418). -/
  instr : Nat
  /-- The word that it runs, 0 while none has been read: OPWORD of its records (R385). -/
  word : Word
  deriving DecidableEq, Repr

/-- A sequencer with every register zero and clean (R253). -/
def Seq.zero : Seq :=
  { x := [], xp := [], pc := 0, sview := 0, atomst := 0, donecnt := 0, tvec := 0, epc := 0, ecause := 0,
    eaddr := 0, intrap := false, tscr := 0, cycle := 0, stopped := false, op := .none, saved := .none, pend := [],
    icache := [], ord := .zero, hist := [], instr := 0, word := 0 }

/-- A view-table entry (R96): kind 0 empty, 1 snapshot, 2 transaction; lines written, and the number that the next request had
when the view was opened, by which a request of an earlier view of the entry is known (R97, R102). -/
structure View where
  /-- STS (R96). -/
  sts : Nat
  /-- KIND: 0 empty, 1 snapshot, 2 transaction (R96). -/
  kind : Nat
  /-- DOOM (R96). -/
  doom : Nat
  /-- Lines written (R97, R102). -/
  writes : Nat
  /-- Number that the next request had when the view was opened; the MODEL's own mark of a view (R97, R102). -/
  born : Nat
  deriving DecidableEq, Repr

/-- An empty entry (R96). -/
def View.zero : View := ⟨0, 0, 0, 0, 0⟩

/-- A shadow (R107). -/
structure Shadow where
  doomed : Bool
  pending : Bool
  deriving DecidableEq, Repr

/-- A chain tracker (R122). `busy`: the ordered request in service. -/
structure Tracker where
  next : Nat
  acc : Nat
  done : Nat
  shut : Bool
  floor : Nat
  busy : Option Nat
  deriving DecidableEq, Repr

/-- A tracker at reset (R122). -/
def Tracker.zero : Tracker := ⟨1, 0, 0, false, 0, .none⟩

/-- A group-table entry (R176). -/
structure Group where
  count : Nat
  arr : Nat
  gen : Nat
  deriving DecidableEq, Repr

/-- A stream of the lease (R274, R275). `acks` is the store-acknowledge count of its port (R186), and `born` the number that the
next request had at its STRM, by which a write of an earlier binding is known. -/
structure Stream where
  /-- A binding exists (R274). -/
  bound : Bool
  /-- GO has started it (R272, R275). -/
  started : Bool
  /-- Stopped by a fault (R275). -/
  stopped : Bool
  /-- KIND (R274). -/
  kind : Nat
  /-- Memory base or peer endpoint (R274). -/
  base : Nat
  /-- LEN (R274). -/
  len : Nat
  /-- TAG (R274). -/
  tag : BitVec 3
  /-- VIEW (R274). -/
  view : Nat
  /-- Tokens asked for or stored (R275). -/
  k : Nat
  /-- SCNT (R256, R274). -/
  scnt : Nat
  /-- Store-acknowledge count (R186). -/
  acks : Nat
  /-- EOS delivered or seen (R186, R275). -/
  eos : Bool
  /-- Read under way (R275). -/
  req : Option Nat
  /-- Token read and not yet delivered (R275). -/
  buf : Option Tok
  /-- Marker of a round not yet delivered (R180). -/
  mark : Option Tok
  /-- Number that the next request had at its STRM; the MODEL's own mark of a binding (R275). -/
  born : Nat
  deriving DecidableEq, Repr

/-- An unbound stream. -/
def Stream.zero : Stream :=
  ⟨false, false, false, 0, 0, 0, 0, 0, 0, 0, 0, false, .none, .none, .none, 0⟩

/-- An entry of the stream list of the image (R247). -/
structure StrmEnt where
  id : Nat
  col : Nat
  row : Nat
  port : Nat
  ctx : Nat
  deriving DecidableEq, Repr

/-- A line that an engine works on: its number, runs still to be read (first key, count), the outside read that it waits for, and
what has been read, by key. -/
structure EngCur where
  line : Nat
  rd : List (Nat × Nat)
  wait : Option Nat
  got : List (Nat × Byte × Bool)
  deriving DecidableEq, Repr

/-- An outstanding engine operation (R133, R277, R283): ticket, shadow, sync word, requests it must follow and the floor that they
leave, and how far it has come: lines not begun, lines in work, indices read, the source and the result of a collective, writes to
peers and flushes of host ports that are not acknowledged, host ports that carried its writes, arrivals made and those with a
poisoned byte, the lowest withheld address, poison delivered and its address, a page that the pager brings in, a page that it could
not bring in. -/
structure EngOp where
  /-- Ticket (R277). -/
  ticket : Nat
  /-- SHADOW (R277). -/
  shadow : Nat
  /-- Sync word of SYNC (R283). -/
  sync : Option Nat
  /-- Requests that it must follow (R133, R277). -/
  after : NSet
  /-- What it does: copy, gather or collective with its tensor descriptors (R278 to R281). -/
  kind : EngKind
  /-- Lines not begun (R133). -/
  left : Option (List Nat) := .none
  /-- Lines in work (R133). -/
  cur : List EngCur := []
  /-- Indices that a gather has read (R280). -/
  rows : List (Nat × Nat) := []
  /-- The source of a collective member, as read (R281). -/
  src : List (Nat × Byte × Bool) := []
  /-- The result of a collective (R281). -/
  res : Option (List (Byte × Bool)) := .none
  /-- Tick floor of its reads (R133). -/
  floor : Nat := 0
  /-- Writes to peers and flushes of host ports that are not acknowledged (R134, R135). -/
  out : NSet := []
  /-- Host ports that carried its writes (R135). -/
  ports : NSet := []
  /-- Arrivals made on its sync word (R283). -/
  arrived : NSet := []
  /-- Arrivals that carry a poisoned byte (R147, R283). -/
  apois : NSet := []
  /-- Lowest address withheld for poison (R151). -/
  withheld : Option Nat := .none
  /-- Poison has been delivered (R154). -/
  pois : Bool := false
  /-- Address of the first delivery (R153). -/
  pva : Option Nat := .none
  /-- Page that the pager brings in for it (R60). -/
  job : Option Nat := .none
  /-- Page that it could not bring in: cause and address (R61). -/
  fail : Option (Nat × Nat) := .none
  deriving DecidableEq, Repr

/-- Fields of a fault record that the detecting unit supplies (R385). -/
structure FRec where
  /-- SOURCE (R385, R386). -/
  source : Nat
  /-- CAUSE (R383). -/
  cause : Nat
  /-- CODE (R385). -/
  code : Nat
  /-- AUX (R385). -/
  aux : Nat
  /-- LATE (R385). -/
  late : Bool
  /-- STRADDLE (R385). -/
  straddle : Bool
  /-- OPIDX (R385). -/
  opidx : Nat
  /-- CTX (R385). -/
  ctx : Nat
  /-- HANDLER (R385). -/
  handler : Nat
  /-- Tile: TY, TX, DY, DX, ROW, COL follow (R385). -/
  tile : Option Nat
  /-- CFGID (R385). -/
  cfgid : Nat
  /-- OPWORD (R385). -/
  opword : Word
  /-- FADDR (R385). -/
  faddr : Nat
  /-- PORT (R385). -/
  port : Nat
  /-- CNTA (R385). -/
  cnta : Nat
  /-- CNTB (R385). -/
  cntb : Nat
  /-- PORT0 to PORT11 (R385). -/
  ports : Nat
  /-- PC of a source-0 record (R386). -/
  pc : Nat
  /-- CHV, CLASS, NUMBER (R385). -/
  chain : Option (Nat × Nat)
  /-- TIME (R385). -/
  time : Nat
  /-- The record's context is frozen (R384). -/
  freezes : Bool
  deriving DecidableEq, Repr

/-- A child launched and not yet joined (R285, R286). -/
structure Child where
  /-- Its lease (R285). -/
  lease : Option Nat
  /-- Its end status (R286). -/
  ended : Option Nat
  /-- Launched by LAUNCHR (R285). -/
  fromReserve : Bool
  /-- Its tiles (R377). -/
  tiles : Nat
  deriving DecidableEq, Repr

/-- An open marker round (R180, R273): number, HOLD, opened by the Shunter, complete; marker mode of the sequencer
that stood beneath it, with the HOLD that it goes back to (R393). -/
structure Round where
  /-- Number (R180). -/
  n : Nat
  /-- HOLD (R273). -/
  isHold : Bool
  /-- Opened by the Shunter (R393). -/
  shunter : Bool
  /-- Complete (R182). -/
  complete : Bool
  /-- Marker mode of the sequencer that stood beneath it, and its HOLD (R393). -/
  under : Option Bool
  deriving DecidableEq, Repr

/-- A TXC or PUBL in progress (R104, R108). -/
structure Commit where
  /-- It is a publication (R108). -/
  shadow : Bool
  /-- View or shadow (R104, R108). -/
  slot : Nat
  /-- CLEAN (R104). -/
  clean : Bool
  /-- Destination register (R268). -/
  xd : BitVec 5
  /-- Tick of its ticket (R104). -/
  tick : Nat
  /-- Lines locked (R104). -/
  locked : NSet
  /-- 0 lock phase, 1 write phase (R104, R105). -/
  phase : Nat
  /-- Commit timestamp C (R104). -/
  c : Nat
  deriving DecidableEq, Repr

/-- A cached translation (R49): leaf type and attributes, the guest and the device physical base of the page, the stage-2
permissions, whether D is set, the GPA of the radix entry; for a page of a TILE leaf, the entry of the slice's descriptor
store. -/
structure TlbEnt where
  ty : Nat
  attr : BitVec 7
  gbase : Nat
  dbase : Nat
  s2r : Bool
  s2w : Bool
  dirty : Bool
  entry : Nat
  desc : Nat
  deriving DecidableEq, Repr

/-- An entry of a slice's descriptor store (R49): VBASE, extents and strides of a TILE leaf, its TARGET and the device physical
place of it. -/
structure TileDesc where
  vbase : Nat
  ext : List Nat
  str : List Nat
  gbase : Nat
  dbase : Nat
  deriving DecidableEq, Repr

/-- Lease states (R392). -/
inductive LState | run | drain | save | away | restore | held | stop
  deriving DecidableEq, Repr

/-- Purposes of a drain or save (R392, R396). -/
inductive Purpose | none | slice | park | move | watchdog | checkpoint
  deriving DecidableEq, Repr

/-- A reply logged at an exit of a paired lease (R419). -/
structure LogEnt where
  exit : Nat
  key : List Nat
  data : List Byte
  pois : List Bool
  performed : Bool
  deriving DecidableEq, Repr

/-- Fields of the image header that the lease keeps (R245, R247). -/
structure Img where
  /-- W, granules (R245). -/
  w : Nat
  /-- H, granules (R245). -/
  h : Nat
  /-- DIEALIGN (R245). -/
  diealign : Bool
  /-- II (R178, R245). -/
  ii : Nat
  /-- SSPLIT (R71, R245). -/
  ssplit : Nat
  /-- SAVESZ (R245, R394). -/
  savesz : Nat
  /-- CHSCOPE (R123, R245). -/
  chscope : BitVec 64
  /-- SEQ (R245). -/
  seq : Nat
  /-- SEQLEN (R245). -/
  seqlen : Nat
  /-- Used tiles (R245, R247). -/
  roles : NSet
  /-- Cut list (R247, R407). -/
  cuts : List (Nat × Nat × Nat × Nat)
  /-- Stream list (R247). -/
  strms : List StrmEnt
  /-- Group list: group and COUNT (R176, R247). -/
  grps : List (Nat × Nat)
  /-- SAVEREQ (R394). -/
  saveReq : Nat
  /-- IMGEND (R245). -/
  imgEnd : Nat
  deriving DecidableEq, Repr

/-- A lease (R159). Tiles are keyed by row · 2W + column of L(c,r), the replica's by 65,536 more. -/
structure Lease where
  /-- Tenant (R159). -/
  tenant : Nat
  /-- Queue (R371). -/
  queue : Nat
  /-- Task number (R371). -/
  task : Nat
  /-- Save slot (R366, R371). -/
  slot : Nat
  /-- Parent lease and child number (R285). -/
  parent : Option (Nat × Nat)
  /-- A child of the reserve (R285). -/
  fromReserve : Bool
  /-- Panel column of the origin (R9, R21). -/
  col : Nat
  /-- Panel row of the origin (R9, R21). -/
  row : Nat
  /-- Panel column of the replica (R416). -/
  rcol : Nat
  /-- Panel row of the replica (R416). -/
  rrow : Nat
  /-- The lease is a pair (R416). -/
  paired : Bool
  /-- Sequencer of the anchor die (R22, R253). -/
  seqNo : Nat
  /-- Sequencer of the replica's anchor die (R416). -/
  rseqNo : Nat
  /-- The image header fields that the lease keeps (R245, R247). -/
  img : Img
  /-- The launch record (R367). -/
  lrec : Rec
  /-- RUN, DRAIN, SAVE, AWAY, RESTORE, HELD, STOP (R392). -/
  state : LState
  /-- Purpose of the drain or save (R392, R396). -/
  purpose : Purpose
  /-- The lease holds tiles (R392). -/
  placed : Bool
  /-- Saves completed (R396). -/
  saves : Nat
  /-- End status (R398). -/
  endc : Nat
  /-- Watchdog count (R380). -/
  wdog : Nat
  /-- Slice count (R378). -/
  slice : Nat
  /-- Claim on its tiles (R378). -/
  claim : Bool
  /-- Moment of the last move (R404). -/
  lastMove : Nat
  /-- Moment at which the drain or save began (R392). -/
  drainAt : Nat
  /-- Timestamp of its latest cut (R396). -/
  cutAt : Nat
  /-- View table entries 1 to 7 (R96, R97). -/
  views : List (Nat × View)
  /-- Shadows 0 to 3 (R107). -/
  shadows : List (Nat × Shadow)
  /-- Chain trackers 0 to 15 (16 more for the replica) (R122). -/
  trackers : List (Nat × Tracker)
  /-- Group table (R176). -/
  groups : List (Nat × Group)
  /-- Streams 0 to 63 (R274, R275). -/
  streams : List (Nat × Stream)
  /-- Latest ticket (R277). -/
  ticket : Nat
  /-- Statuses of the 256 latest tickets (R284, R294). -/
  tstat : List (Nat × Nat)
  /-- Outstanding engine operations (R277 to R283). -/
  engines : List EngOp
  /-- Children table (R285, R286). -/
  children : List (Nat × Child)
  /-- Open marker round (R180, R273, R393). -/
  round : Option Round
  /-- MROUND (R256, R273). -/
  mround : Nat
  /-- The sequencer is in marker mode (R182, R273). -/
  markerMode : Bool
  /-- GO has started a phase since the latest CSWAP (R186, R272). -/
  phStarted : Bool
  /-- The phase has ended (R186). -/
  phEnded : Bool
  /-- The next GO starts the final phase (R271). -/
  finNext : Bool
  /-- The phase is final (R187, R271). -/
  finalPh : Bool
  /-- Control tokens under way (R175). -/
  msgs : List Msg
  /-- Accesses that the phase must follow (R272). -/
  goAfter : NSet
  /-- Tick floor of GO (R272). -/
  goFloor : Nat
  /-- A root go is under way or open (R272). -/
  rootGo : Bool
  /-- The root has sent its last done (R172, R185). -/
  rootFin : Bool
  /-- Roots that GO started (R272). -/
  roots : Nat
  /-- Every cycle of the switch carries a CUT word (R406). -/
  cuttable : Bool
  /-- TXC or PUBL in progress (R104, R108). -/
  commit : Option Commit
  /-- Entries of its TLB slices, by page (R47, R49). -/
  tlb : List (Nat × TlbEnt)
  /-- The descriptor stores of its TLB slices (R49). -/
  tdesc : List (Nat × TileDesc)
  /-- Fabric cycles of the lease since its grant (R4, R418). -/
  fcs : Nat
  /-- Mailbox PUT (R387). -/
  mput : Nat
  /-- Mailbox DONE (R387). -/
  mdone : Nat
  /-- Records that wait at their source (R384, R387). -/
  recs : List FRec
  /-- Records written and not yet finished (R387). -/
  posted : List (Nat × FRec)
  /-- An unhandled trap has occurred (R291, R390). -/
  unhandled : Bool
  /-- Address of the mailbox (R387). -/
  mbox : Nat
  /-- Address of its save slot (R371, R395). -/
  saveBase : Nat
  /-- Save map: page and device physical page (R395). -/
  smap : List (Nat × Nat)
  /-- Pages of the save map to walk again (R395). -/
  smark : NSet
  /-- Its sequencer (R253). -/
  seq : Seq
  /-- The replica's sequencer (R416). -/
  seqR : Seq
  /-- Its tiles (R160). -/
  tiles : List (Nat × Tile)
  /-- Replay logs of the exits of a pair (R419). -/
  log : List LogEnt
  /-- Mismatches since the latest checkpoint (R421). -/
  mismatches : Nat
  /-- A checkpoint is requested (R419, R420). -/
  ckWanted : Bool
  /-- Discarded pending versions counted in the stop report (R399). -/
  ndisc : Nat
  /-- Addresses of the first 64 of them (R399). -/
  disc : List Nat
  /-- Number of the draw under which the image was read, for its measurement (R440). -/
  meas : Nat
  deriving DecidableEq, Repr

/-! ### Memory requests, versions, paging -/

/-- What a request does. -/
inductive MOp
  | read | write
  | atomic (op : AOp)
  | arrive (n : Nat)
  | grp (g n : Nat)
  | swait (gen : Nat)
  | step
  | pref
  deriving DecidableEq, Repr

/-- Where a part is served (R30, R48, R71). -/
inductive Loc
  | none
  | mem (dpa : Nat)
  | tile (t off : Nat)
  | host (off : Nat)
  | peer (k off : Nat)
  deriving DecidableEq, Repr

/-- Progress of a part. -/
inductive PSt | new | missed | home | waiting | done
  deriving DecidableEq, Repr

/-- A part of a request: lane, tenant virtual address or offset, length, whether its access straddles, serving place, data to
write or data read with poison per byte, the comparand, the atomic outcome (R86, R130). -/
structure Part where
  /-- Lane, or byte offset in the access (R86). -/
  lane : Nat
  /-- Tenant virtual address or offset (R86). -/
  va : Nat
  /-- Length (R86). -/
  len : Nat
  /-- The access straddles (R86, R385). -/
  strad : Bool
  /-- Place where it is served (R30, R48, R71). -/
  loc : Loc
  /-- How far it has come (R86). -/
  st : PSt
  /-- Data to write, or read (R86, R130). -/
  data : List Byte
  /-- Poison of each byte (R141). -/
  pois : List Bool
  /-- Comparand (R130). -/
  cmp : List Byte
  /-- The comparand is poisoned (R130, R145). -/
  cmpPois : Bool
  /-- Its range is versioned (R89). -/
  versioned : Bool
  /-- Outcome of the atomic (R130). -/
  code : BitVec 2
  deriving DecidableEq, Repr

/-- Who issued a request (R115). -/
inductive Issuer
  | seq (lease : Nat) (rep : Bool)
  | elem (lease tile ctx : Nat)
  | stream (lease sid : Nat)
  | engine (lease ticket : Nat)
  | peer (k tenant : Nat)
  deriving DecidableEq, Repr

/-- What the reply writes (R262, R341, R346, R350). -/
inductive RDst
  | none
  /-- Sequencer register, bytes, sign extension. -/
  | x (xd : BitVec 5) (n : Nat) (sign : Bool)
  /-- Element destination, type of the tag, token to merge into, BFP width. -/
  | tok (d : Dst) (tag : BitVec 3) (base : Tok) (bfp : Bfp)
  | strm
  deriving DecidableEq, Repr

/-- Stage of a request. -/
inductive RSt
  /-- At the exit of a paired lease, waiting for its twin (R418). -/
  | exit
  /-- At its chain tracker (R122). -/
  | chain
  /-- Held at its tracker until NEXT reaches it. -/
  | held
  /-- Address token under way to its slice (R48). -/
  | issued
  /-- Withheld for a pager job or a PRI request (R57, R60). -/
  | withheld (job : Nat)
  /-- Under way to its serving points. -/
  | sent
  /-- Every part performed; the reply is under way. -/
  | performed
  /-- Faulted after issue, not yet reported. -/
  | faulted (cause : Nat) (addr : Nat) (strad : Bool)
  deriving DecidableEq, Repr

/-- Chain attributes of a request (R121). -/
structure Chain where
  cls : Nat
  number : Nat
  rcnt : Nat
  gap : Nat
  deriving DecidableEq, Repr

/-- A memory request in flight. `left` is the tick at which it left its issuer's die (R120), `bornFc` the fc of its lease at its
issue (R4, R418). -/
structure Req where
  /-- Issuer: sequencer, context, stream, engine, peer (R115). -/
  iss : Issuer
  /-- Read, write, atomic, arrival, group arrival, wait, chain step, prefetch (R115, R346). -/
  op : MOp
  /-- View of the access (R98). -/
  view : Nat
  /-- Tick floor (R120). -/
  floor : Nat
  /-- Requests that it must follow, each with the scope of the edge (R119, R126). -/
  after : Edges
  /-- Acquire (R126). -/
  acq : Bool
  /-- Release (R126). -/
  rel : Bool
  /-- Scope (R118). -/
  scope : Scope
  /-- Posted (R336). -/
  posted : Bool
  /-- Where it stands (R48, R122, R418). -/
  stage : RSt
  /-- Its parts: lane, address, length, place, progress, data, poison, comparand, versioned, outcome (R86, R130). -/
  parts : List Part
  /-- Destination of its reply (R262, R341). -/
  dst : RDst
  /-- Alias class, number, read count, gap (R121). -/
  chain : Option Chain
  /-- PC or program-memory index of its word (R384). -/
  pc : Nat
  /-- Its operation word (R385). -/
  word : Word
  /-- Moment of its issue (R64, R415). -/
  born : Nat
  /-- Identity that the exits of a pair compare (R418). -/
  key : List Nat
  /-- Handler of the firing that issued it (R384, R385). -/
  handler : Nat := 0
  /-- A SYS release whose flush of host and peer writes is still due (R135). -/
  flush : Bool := false
  /-- Tick at which it left the die of its issuer (R120). -/
  left : Nat := 0
  /-- Fc of its lease at its issue (R4, R418). -/
  bornFc : Nat := 0
  deriving DecidableEq, Repr

/-- A retained version of a line (R93): timestamp, data, sector poison, charged tenant. -/
structure Version where
  ts : Nat
  data : BitVec 1024
  pois : BitVec 4
  tenant : Nat
  deriving DecidableEq, Repr

/-- A pending version (R102, R107): lease, slot (view, or 8 + shadow), data, poison, lowest address
written. -/
structure Pend where
  tenant : Nat
  lease : Nat
  slot : Nat
  data : BitVec 1024
  pois : BitVec 4
  va : Nat
  deriving DecidableEq, Repr

/-- The holder of a line lock (R104): lease, ticket (tick, die, sequencer), publication. -/
structure Lock where
  lease : Nat
  tick : Nat
  die : Nat
  seq : Nat
  publ : Bool
  deriving DecidableEq, Repr

/-- Version state of a line (R89, R93, R104, R111). -/
structure Line where
  ts : Nat
  old : List Version
  pend : List Pend
  lock : Option Lock
  trunc : Nat
  deriving DecidableEq, Repr

/-- A line without history (R89). -/
def Line.zero : Line := ⟨0, [], [], .none, 0⟩

/-- A reach-through copy (R120). -/
structure Copy where
  die : Nat
  tenant : Nat
  line : Nat
  stamp : Nat
  data : BitVec 1024
  pois : BitVec 4
  deriving DecidableEq, Repr

/-- A registered waiter of a sync word (R81): place of the word, generation, request that waits; for a launch dependence,
lease 0xFFF and a number of its own (R370). -/
structure Waiter where
  loc : Loc
  lease : Nat
  gen : Nat
  req : Nat
  deriving DecidableEq, Repr

/-- What a pager job waits for (R60, R62). -/
inductive JSt
  | token | waitB | waitFrame | copying | priWait
  | answered (ok : Bool)
  deriving DecidableEq, Repr

/-- What an access asks of its page (R52). -/
inductive Acc | rd | wr | rw
  deriving DecidableEq, Repr

/-- A page-fault resolution (R60): die of the pager, access kind, entry's GPA, level 3, a leaf with PIN, arrival time, and
whether a drain to park the lease for it has begun (R392). -/
structure Job where
  /-- Tenant (R60). -/
  tenant : Nat
  /-- Lease whose access faulted (R60). -/
  lease : Nat
  /-- Die of the pager (R60). -/
  die : Nat
  /-- Virtual address (R60). -/
  va : Nat
  /-- Access kind of the fault token (R52, R60). -/
  acc : Acc
  /-- GPA of the radix entry (R60). -/
  entry : Nat
  /-- The entry is a leaf entry (R60). -/
  leaf : Bool
  /-- The leaf has PIN (R39). -/
  pin : Bool
  /-- The pager has set B (R60). -/
  claimed : Bool
  /-- Frame taken (R60, R62). -/
  frame : Option Nat
  /-- What it waits for: B, a frame, a host copy, PRI, or answered (R57, R58, R60, R61). -/
  st : JSt
  /-- Moment of its arrival (R61, R64). -/
  since : Nat
  /-- A drain to park the lease for it has begun (R392). -/
  parked : Bool
  deriving DecidableEq, Repr

/-- A table frame of a pager (R62): frame GPA and tables handed out. -/
structure TabFrame where
  gpa : Nat
  used : Nat
  deriving DecidableEq, Repr

/-- Translation block and quota registers of a virtual function (R46, R95, R153, R379, R429). -/
structure Vf where
  /-- ROOT (R46). -/
  root : Dword
  /-- S2BASE (R46). -/
  s2base : Dword
  /-- HOSTCTL (R46). -/
  hostctl : Dword
  /-- INVBASE (R46). -/
  invbase : Dword
  /-- INVCTL (R46). -/
  invctl : Dword
  /-- Requests that the open invalidation awaits (R43). -/
  invPend : NSet
  /-- An ATS invalidation is open (R57). -/
  atsOpen : Bool
  /-- Requests that it awaits (R57). -/
  atsPend : NSet
  /-- POOL: EN, LIST, LOGN (R46, R62). -/
  pool : Dword
  /-- POOLLVL.TAIL (R46, R62). -/
  ptail : Nat
  /-- POOLHEAD (R46, R62). -/
  phead : Nat
  /-- Version quota USED (R95). -/
  vused : Nat
  /-- Version quota LIMIT (R95). -/
  vlimit : Nat
  /-- Poison COUNT (R153). -/
  consumed : Nat
  /-- POISON_COMMIT faults (R153). -/
  pfCommit : Nat
  /-- POISON_EGRESS faults (R153). -/
  pfEgress : Nat
  /-- POISON_CONTROL faults (R153). -/
  pfControl : Nat
  /-- POISON_ADDRESS faults (R153). -/
  pfAddress : Nat
  /-- LASTVA (R153). -/
  lastva : Nat
  /-- PCTL.EPOK (R153). -/
  epok : Bool
  /-- TQUOTA (R379). -/
  tquota : Nat
  /-- TUSED (R377, R379). -/
  tused : Nat
  /-- TCCNT (R429). -/
  tccnt : Nat
  deriving DecidableEq, Repr

/-- The block at reset (R46, R95, R153, R379). -/
def Vf.zero : Vf :=
  ⟨0, 0, 0, 0, 0, [], false, [], 0, 0, 0, 0, 0, 0, 0, 0, 0, 0, 0, false, 0, 0, 0⟩

/-- Where a queue stands in switching (R381). -/
inductive QSt | out | switchingIn | inn | switchingOut
  deriving DecidableEq, Repr

/-- The parsed queue record (R366). -/
structure QRec where
  /-- RING (R366). -/
  ring : Nat
  /-- CPL (R366). -/
  cpl : Nat
  /-- SAVE (R366). -/
  save : Nat
  /-- MBX (R366). -/
  mbx : Nat
  /-- SLOTSZ (R366). -/
  slotsz : Nat
  /-- NSLOT (R366). -/
  nslot : Nat
  /-- LOGRS (R366). -/
  logrs : Nat
  deriving DecidableEq, Repr

/-- What the device has done about the queue record since EN last became 1 (R365, R366): it is still to be read, it has been read, it
could not be read, so that it is read again once ERROR is cleared. -/
inductive QRd | due | done | failed
  deriving DecidableEq, Repr

/-- A global queue (R364, R365, R371, R374, R375, R416). -/
structure Queue where
  /-- QOWN.V (R364). -/
  v : Bool
  /-- QOWN.VF (R364). -/
  vf : Nat
  /-- QOWN local number (R364). -/
  loc : Nat
  /-- QOWN.WEIGHT (R364, R374). -/
  weight : Nat
  /-- QSW.IN (R364). -/
  inn : Bool
  /-- QSW.BUSY (R364). -/
  busy : Bool
  /-- Where the queue stands in switching (R381). -/
  st : QSt
  /-- QREC (R365). -/
  qrec : Nat
  /-- TAIL (R365). -/
  tail : Nat
  /-- TAIL written while the queue is switched out (R381). -/
  heldTail : Option Nat
  /-- SAVEDTAIL (R366, R381). -/
  stail : Nat
  /-- SAVEDPROG (R366, R381). -/
  sprog : Nat
  /-- PROGRESS (R365, R371). -/
  progress : Nat
  /-- Number of the head task (R371). -/
  head : Nat
  /-- Tasks retired ahead of PROGRESS (R371). -/
  retired : NSet
  /-- Tasks running (R371, R381). -/
  run : Nat
  /-- Save slots in use (R371). -/
  slots : NSet
  /-- STATUS.CAUSE (R365, R369). -/
  errc : Nat
  /-- STATUS.ERR (R365, R369). -/
  error : Bool
  /-- QCTL.EN (R365). -/
  en : Bool
  /-- STATUS bits that tell why the head waits (R365). -/
  why : BitVec 4
  /-- The head has reached AGEMAX (R375). -/
  aged : Bool
  /-- AGE of the head (R375). -/
  age : Nat
  /-- CRED (R374). -/
  cred : Nat
  /-- The parsed queue record (ring, completion ring, save area, mailboxes, slot size, slots, LOGRS) (R366). -/
  parsed : Option QRec
  /-- Whether it is still to be read for the latest EN (R365). -/
  rd : QRd
  /-- The head's launch record as read (R368). -/
  headRec : Option Rec
  /-- The head's dependences have held (R370). -/
  depsOk : Bool
  /-- PAIRCTL.EN (R416). -/
  pairEn : Bool
  /-- PAIRCTL log base (R416). -/
  logBase : Nat
  /-- PAIRSZ LOGSZ (R416). -/
  logSz : Nat
  deriving DecidableEq, Repr

/-- A queue at reset (R364, R365, R416). -/
def Queue.zero : Queue :=
  { v := false, vf := 0, loc := 0, weight := 0, inn := false, busy := false, st := .out, qrec := 0,
    tail := 0, heldTail := .none, stail := 0, sprog := 0, progress := 0, head := 0, retired := [],
    run := 0, slots := [], errc := 0, error := false, en := false, why := 0, aged := false, age := 0,
    cred := 0, parsed := .none, rd := .due, headRec := .none, depsOk := false, pairEn := false, logBase := 0,
    logSz := 0 }

/-- A child queued for placement (R377): its parent while that exists, the parent's queue and tenant, child
number, record. -/
structure ChildCand where
  /-- Its parent while that exists (R286, R377). -/
  parent : Option Nat
  /-- Queue of the parent (R377). -/
  queue : Nat
  /-- Tenant (R377). -/
  tenant : Nat
  /-- Child number (R285). -/
  no : Nat
  /-- The record as read (R285, R367). -/
  rec_ : Rec
  /-- Launched by LAUNCHR (R285). -/
  fromReserve : Bool
  /-- Its parent is a pair, and so is it (R416). -/
  paired : Bool
  deriving DecidableEq, Repr

/-- A range table entry of tenant checks or die-scratch grants (R53 to R55). -/
structure Grant where
  base : Nat
  len : Nat
  tenant : Nat
  deriving DecidableEq, Repr

/-- A coupler (R431, R433). -/
structure Coupler where
  /-- CSTAT.UP (R431). -/
  up : Bool
  /-- CSTAT.PEERID (R431). -/
  peerId : Word
  /-- CSTAT.PEERK (R431). -/
  peerK : BitVec 4
  /-- CEXPB (R431). -/
  expBase : Nat
  /-- CEXPL (R431). -/
  expLen : Nat
  /-- TMAP: 256 entries of V and LOCAL (R431, R432). -/
  tmap : List (Nat × BitVec 16)
  /-- Tokens that have come in per channel (R433). -/
  chans : List (Nat × List (Nat × Tok))
  deriving DecidableEq, Repr

/-- A coupler at reset (R431). -/
def Coupler.zero : Coupler := ⟨false, 0, 0, 0, 0, [], []⟩

/-- Boot state, and what flash, RPMB and eMMC keep (R434 to R438, R441). `up`: the latest boot attempt was completed. -/
structure Boot where
  /-- The latest boot attempt has completed (R434). -/
  up : Bool
  /-- RPMB can be written (R441). -/
  rpmbOk : Bool
  /-- BOOT_STATUS.MODE (R436, R437). -/
  mode : BitVec 2
  /-- BOOT_STATUS.REASON (R437). -/
  reason : BitVec 8
  /-- BOOT_STATUS.FAILS (R437). -/
  fails : Nat
  /-- MAPVER of the map in force (R435, R437). -/
  mapver : Nat
  /-- Disabled dies (R435). -/
  ddis : BitVec 160
  /-- Disabled stacks (R435). -/
  sdis : BitVec 160
  /-- Die that serves a stack whose home die is disabled (R27, R435). -/
  subst : List (Nat × Nat)
  /-- The firmware image in flash verifies (R438). -/
  fwOk : Bool
  /-- Security version of that image (R438). -/
  fwSvn : Nat
  /-- Boot-failure count in RPMB (R434). -/
  count : Nat
  /-- MAPFLOOR in RPMB (R435). -/
  mapFloor : Nat
  /-- SVNFLOOR in RPMB (R438). -/
  svnFloor : Nat
  /-- Start of the next run of one-time indices in RPMB (R441). -/
  otsNext : Nat
  /-- Indices of the present run that are left (R441). -/
  otsRun : Nat
  /-- MSTAT.POOL, the pool code in force (R55, R93). -/
  poolCode : Nat
  /-- MSTAT.NEXTPOOL, the code recorded in the eMMC (R55, R93). -/
  nextPool : Nat
  deriving DecidableEq, Repr

/-- Fatal-error dump registers (R402). -/
structure Dump where
  addr : Dword
  len : Dword
  ctl : Dword
  stat : Dword
  deriving DecidableEq, Repr

/-- How a request to the host window leaves: port, PASID, an address translated by ATS (R48, R56). -/
structure HostTag where
  port : Nat
  pasid : Option Nat
  translated : Bool
  deriving DecidableEq, Repr

/-- A PCIe request that awaits a completion (R56, R265): a read, or an AtomicOp with its operands. -/
inductive HostOp
  | read
  | fetchAdd (v : Nat)
  | swap (v : Nat)
  | cas (cmp v : Nat)
  deriving DecidableEq, Repr

/-- What the device sends out: to the host, to peers (R428 to R433, R439), and the guest address of a refused stage-2 access with
its tenant (R45). -/
inductive Out
  | hostWrite (tag : HostTag) (addr : Nat) (data : List Byte) (ep : Bool)
  | hostReq (tag : HostTag) (id part : Nat) (addr len : Nat) (op : HostOp) (ep : Bool)
  | stage2 (tenant gpa : Nat)
  | hostFlush (port : Nat)
  | msix (fn : Fn) (vec : Nat)
  | aer (fatal : Bool)
  | event (rec_ : List Dword)
  | pri (id va : Nat)
  | atsDone (v : Nat)
  | toPeer (k : Nat) (chan tenant : Nat) (t : Tok)
  | peerReq (k id part : Nat)
  | peerWrite (k addr : Nat) (data : List Byte) (pois : List Bool)
  | peerReply (k : Nat) (r : PeerReply)
  | spdm (fn : Fn) (code : Nat) (data : List Byte)
  deriving DecidableEq, Repr

/-- A request part that waits for the zeroing of its unit: unit, request, part (R59). -/
structure ZWait where
  unit : Loc
  lease : Nat
  req : Nat
  part : Nat
  deriving DecidableEq, Repr

/-- A line of request `by_`, which passed ahead of an edge of narrow scope from request `until_`: until that one is performed, the
other agents of the scope wait before they touch the line (R119). -/
structure Hold where
  line : Loc
  by_ : Nat
  iss : Issuer
  scope : Nat
  until_ : Nat
  deriving DecidableEq, Repr

/-- On whose behalf a step runs. -/
inductive Agent
  | none
  | seq (lease : Nat) (rep : Bool)
  | elem (lease tile ctx : Nat)
  | sw (lease tile : Nat)
  deriving DecidableEq, Repr

/-- A turn of the agenda: an event, the audit window of a die, a step of the sequencer of a lease that is no word, or the next word of
a sequencer, a context or a switch. -/
inductive Turn
  | event (i : Instr)
  | audit (die : Nat)
  | own (lease : Nat) (i : Instr)
  | seq (lease : Nat) (rep : Bool)
  | elem (lease tile ctx : Nat)
  | sw (lease tile idx : Nat)
  deriving DecidableEq, Repr

/-- Why the machine stops. -/
inductive Fault
  /-- Raised by `exec` for a word of a sequencer, element or switch when `cur` names no such agent of
  a lease: no state of the panel issues a word without its agent. Safe. -/
  | noAgent
  deriving DecidableEq, Repr

/-- Why the model gives no meaning. -/
inductive Refusal
  /-- Raised only by an arm of `exec` for an instruction without a meaning yet. Safe. -/
  | notModelled (mnemonic : String)
  deriving DecidableEq, Repr

/-- The state of the panel. -/
structure State where
  /-- Turns still to be taken; the MODEL's own field (R117, R119). -/
  agenda : List Turn
  /-- Agent on whose behalf the step runs; the MODEL's own field (R117). -/
  cur : Agent
  /-- Number of the next free value; the MODEL's own field (R5). -/
  nonce : Nat
  /-- Number of the next request; the MODEL's own field (R48). -/
  nextId : Nat
  /-- What the device has sent to host and peers, oldest first (R428, R429, R432). -/
  out : List Out
  /-- Fabric cycles since reset; the MODEL's own count (R4). -/
  fc : Nat
  /-- Periods of the nominal clock since reset; the MODEL's own count (R4, R442). -/
  wall : Nat
  /-- Reference tick counter (R90). -/
  tick : Nat
  /-- Dies whose own counter has already made the step of the present period (R90). -/
  lead : BitVec 160
  /-- Counters stopped at the last tick (R91). -/
  clockStopped : Bool
  /-- Horizon reached, rebase under way (R91, R92). -/
  rebasing : Bool
  /-- Clock rebases completed (R92, R396). -/
  rebases : Nat
  /-- Low watermark W sent to the homes (R109). -/
  wmark : Nat
  /-- Boot state (R434 to R437). -/
  boot : Boot
  /-- Stopped by a fatal error (R401). -/
  fatal : Bool
  /-- Bytes of the HBM and die-scratch windows by device physical address (R30, R59). -/
  mem : List Host.Cell
  /-- Poisoned 32-byte sectors of the two windows (R83). -/
  mpois : NSet
  /-- Units whose unscrubbed bit is clear: 4 KiB blocks of HBM, 2 KiB blocks of die scratch (R59). -/
  scrubbed : NSet
  /-- Units whose zeroing is under way (R59). -/
  zeroing : NSet
  /-- Die that holds each relocated die-scratch segment (R77). -/
  segMap : List (Nat × Nat)
  /-- Version state per line (R89, R93). -/
  lines : List (Nat × Line)
  /-- Pool slots used per stack, in eighths (R93, R111). -/
  poolUsed : List (Nat × Nat)
  /-- Lines present per LLC set, with dirty bits (R460). -/
  llc : List (Nat × List (Nat × Bool))
  /-- Data bits that an error has left in an HBM sector that a slice still holds clean or dirty, by sector (R82, R83). -/
  hbmBad : List (Nat × BitVec 256)
  /-- Parts of requests that wait for the zeroing of their unit, in their order of arrival (R59, R66). -/
  zq : List ZWait
  /-- Lines that an access passed ahead of an edge of narrow scope; the MODEL's own field (R119). -/
  holds : List Hold
  /-- Crossings set at each memory site: the pairs of dies joined there (R15, R434). -/
  crossings : List (Nat × List (Nat × Nat))
  /-- Reach-through copies (R69, R120). -/
  copies : List Copy
  /-- Registered waiters of sync words (R81). -/
  waiters : List Waiter
  /-- Memory requests in flight (R48, R115). -/
  reqs : List (Nat × Req)
  /-- Incarnation of each die (R413, R434). -/
  incarn : List (Nat × BitVec 8)
  /-- Register blocks of the 256 virtual functions (R46, R95, R153, R379). -/
  vfs : List (Nat × Vf)
  /-- MCMD: GO, STATUS, OP (R55). -/
  mcmd : Dword
  /-- MARG0 BASE (R55). -/
  marg0 : Dword
  /-- MARG1 LEN (R55). -/
  marg1 : Dword
  /-- MARG2 TENANT (R55). -/
  marg2 : Dword
  /-- Tenant-check entries, the same on every channel (at most 512) (R53, R55). -/
  tenantChecks : List Grant
  /-- Die-scratch grants (at most 64 per die) (R54, R55). -/
  scratchGrants : List Grant
  /-- The 4,096 global queues (R364, R365). -/
  queues : List (Nat × Queue)
  /-- SCHEDG.AGEMAX (R379). -/
  ageMax : Nat
  /-- SCHEDG.CTHRESH (R379). -/
  cthresh : Nat
  /-- Place of the Shunter's circle per class (R374). -/
  circle : List (Nat × Nat)
  /-- Children queued for placement (R377). -/
  cands : List ChildCand
  /-- LCMD.LEASE last named (R391). -/
  lsel : Nat
  /-- Fatal-error dump registers (R402). -/
  dump : Dump
  /-- DIECTL.GO (R414). -/
  dieGo : Bool
  /-- DIECTL.STATE (R414). -/
  dieState : Nat
  /-- DIECTL.DIE (R414). -/
  dieNo : Nat
  /-- Moment at which the quiesce began (R415). -/
  dieSince : Nat
  /-- The die has restarted, and what was issued again is applied before new requests (R415). -/
  dieBack : Bool
  /-- EVBASE: ADDR, LOGN (R429). -/
  evbase : Dword
  /-- EVPUT.PUT (R429). -/
  evput : Nat
  /-- EVGET.GET (R429). -/
  evget : Nat
  /-- EVOVF.LOST (R429). -/
  evovf : Nat
  /-- PWRCTL.STEP (R442). -/
  pwrStep : Nat
  /-- PWRCTL.LIMIT (R442). -/
  pwrLimit : Nat
  /-- PWRCTL.TTHR (R442). -/
  pwrTthr : Nat
  /-- Throttle step of each lease (R442). -/
  throttle : List (Nat × Nat)
  /-- The 16 couplers (R431). -/
  couplers : List (Nat × Coupler)
  /-- Page-fault resolutions (R60). -/
  jobs : List (Nat × Job)
  /-- Table frame of each die and tenant (R62). -/
  tabFrames : List (Nat × TabFrame)
  /-- The leases (R159). -/
  leases : List (Nat × Lease)
  /-- Checkpointed contents of each pair (R420, R421). -/
  awaitSave : List (Nat × Lease)
  deriving DecidableEq, Repr

/-- The boot state after reset: a full boot of a valid image and map, counters in RPMB zero, default
pool size (R93, R434 to R437; DESIGN CHOICE, log 6). -/
def Boot.reset : Boot :=
  { up := true, rpmbOk := true, mode := 0, reason := 0, fails := 0, mapver := 0, ddis := 0, sdis := 0, subst := [], fwOk := true,
    fwSvn := 0, count := 0, mapFloor := 0, svnFloor := 0, otsNext := 0, otsRun := 0,
    poolCode := 1, nextPool := 1 }

/-- The crossings that firmware sets at boot, by memory site (R15): the dies of an east-west link cross at the site between them,
those of a north-south link at the site directly south of the northern one. -/
def bootCrossings : List (Nat × List (Nat × Nat)) :=
  (List.range 160).filterMap fun st =>
    let js := ((List.range 160).map fun n =>
      let dx := n % 10
      let dy := n / 10
      (if dx < 9 && 10 * dy + dx + dy % 2 == st then [(n, n + 1)] else []) ++
        (if dy < 15 && 10 * (dy + 1) + dx == st then [(n, n + 10)] else [])).flatten
    if js.isEmpty then none else some (st, js)

/-- The panel right after reset: every unit unscrubbed (R59), ticks 1 (R90), no lease, registers at
the reset values of their tables (R46, R55, R95, R153, R365, R379, R391, R402, R414, R429, R431,
R442); PWRCTL.LIMIT is 30,000 and TTHR 105, AGEMAX 64, CTHRESH 256. -/
def State.reset : State :=
  { agenda := [], cur := .none, nonce := 0, nextId := 1, out := [], fc := 0, wall := 0, tick := 1,
    lead := 0, clockStopped := false, rebasing := false, rebases := 0, wmark := 0, boot := .reset,
    fatal := false, mem := [], mpois := [], scrubbed := [], zeroing := [], segMap := [], lines := [],
    poolUsed := [], llc := [], hbmBad := [], zq := [], holds := [], crossings := bootCrossings, copies := [],
    waiters := [], reqs := [], incarn := [], vfs := [],
    mcmd := 0, marg0 := 0, marg1 := 0, marg2 := 0, tenantChecks := [], scratchGrants := [],
    queues := [], ageMax := 64, cthresh := 256, circle := [], cands := [], lsel := 0,
    dump := ⟨0, 0, 0, 0⟩, dieGo := false, dieState := 0, dieNo := 0, dieSince := 0, dieBack := false,
    evbase := 0, evput := 0, evget := 0, evovf := 0, pwrStep := 0, pwrLimit := 30000, pwrTthr := 105,
    throttle := [], couplers := [], jobs := [], tabFrames := [], leases := [], awaitSave := [] }

end Sys2Proof.Machine
end

