-- ==== Sys2Proof/Machine/Store.lean ====
section
/-! DEFINITION. Indexed collections and byte stores: lists of key and value with strictly rising
keys, and byte banks with sector poison and unscrubbed bits (R2, R59, R83, R84, R147). -/

namespace Sys2Proof.Machine

/-- The entry of key `k`. -/
def mfind {α : Type} : List (Nat × α) → Nat → Option α
  | [], _ => none
  | (j, v) :: r, k => if j = k then some v else mfind r k

/-- Entries without key `k`. -/
def mdel {α : Type} : List (Nat × α) → Nat → List (Nat × α)
  | [], _ => []
  | (j, v) :: r, k => if j = k then mdel r k else (j, v) :: mdel r k

/-- Insertion at the place of a key that is not listed. -/
def mins {α : Type} : List (Nat × α) → Nat → α → List (Nat × α)
  | [], k, v => [(k, v)]
  | (j, w) :: r, k, v => if k < j then (k, v) :: (j, w) :: r else (j, w) :: mins r k v

/-- The entry of key `k` becomes `v`. -/
def mput {α : Type} (m : List (Nat × α)) (k : Nat) (v : α) : List (Nat × α) := mins (mdel m k) k v

/-- The value at `k`, `d` where nothing is listed. -/
def mget {α : Type} (d : α) (m : List (Nat × α)) (k : Nat) : α := (mfind m k).getD d

/-- The value at `k` becomes `v`; the default `d` is not listed. -/
def mset {α : Type} [DecidableEq α] (d : α) (m : List (Nat × α)) (k : Nat) (v : α) : List (Nat × α) :=
  if v = d then mdel m k else mput m k v

/-- Change of the entry of key `k`, where there is one. -/
def mmod {α : Type} (m : List (Nat × α)) (k : Nat) (f : α → α) : List (Nat × α) :=
  match mfind m k with
  | some v => mput m k (f v)
  | none => m

/-- Change of every entry. -/
def mmap {α : Type} (m : List (Nat × α)) (f : Nat → α → α) : List (Nat × α) :=
  m.map fun e => (e.1, f e.1 e.2)

/-- Keys strictly rising: the canonical form of an indexed collection. -/
def mwf {α : Type} : List (Nat × α) → Bool
  | [] => true
  | [_] => true
  | (j, _) :: (k, w) :: r => decide (j < k) && mwf ((k, w) :: r)

/-- The canonical form with default `d`: no entry equals what an unlisted key reads as. -/
def mwfd {α : Type} [DecidableEq α] (d : α) (m : List (Nat × α)) : Bool :=
  mwf m && m.all fun e => decide (e.2 ≠ d)

/-- Membership in a set of numbers. -/
def nhas (s : NSet) (k : Nat) : Bool := s.any (· == k)

/-- Removal from a set. -/
def ndel : NSet → Nat → NSet
  | [], _ => []
  | j :: r, k => if j = k then ndel r k else j :: ndel r k

/-- Insertion into a set. -/
def nadd : NSet → Nat → NSet
  | [], k => [k]
  | j :: r, k => if k < j then k :: j :: r else if k = j then j :: r else j :: nadd r k

/-- Addition or removal. -/
def nput (s : NSet) (k : Nat) (b : Bool) : NSet := if b then nadd s k else ndel s k

/-- The form of memory: rising addresses, no listed zero byte (an unlisted byte reads 0, R59). -/
def Memory.wf (m : List Host.Cell) : Bool := mwfd (0 : Byte) m

/-- A byte of memory; a byte that nothing has written reads 0, because its unit is unscrubbed (R59). -/
def rdByte (m : List Host.Cell) (a : Nat) : Byte := mget 0 m a

/-- A byte of memory becomes `b`. -/
def wrByte (m : List Host.Cell) (a : Nat) (b : Byte) : List Host.Cell := mset 0 m a b

/-- Bytes become `bs` from `a` on. -/
def wrBytes (m : List Host.Cell) (a : Nat) : List Byte → List Host.Cell
  | [] => m
  | b :: r => wrBytes (wrByte m a b) (a + 1) r

/-- The bytes from `a` on. -/
def rdBytes (m : List Host.Cell) (a n : Nat) : List Byte := (List.range n).map fun i => rdByte m (a + i)

/-- Entries outside `[lo, hi)`. -/
def dropRange {α : Type} (m : List (Nat × α)) (lo hi : Nat) : List (Nat × α) :=
  m.filter fun e => !(lo ≤ e.1 && e.1 < hi)

/-- A byte store: bytes, poisoned 32-byte sectors by number, scrubbed units by number. -/
structure Bank where
  mem : List Host.Cell
  pois : NSet
  scr : NSet
  deriving DecidableEq, Repr

/-- Read of `n` bytes at `a` with the poison of their sectors; units of `u` bytes whose unscrubbed bit
is set read as clean zeros (R59, R84). -/
def bankRd (u : Nat) (b : Bank) (a n : Nat) : List Byte × List Bool :=
  let ok (x : Nat) : Bool := nhas b.scr (x / u)
  ((List.range n).map fun i => if ok (a + i) then rdByte b.mem (a + i) else 0,
   (List.range n).map fun i => ok (a + i) && nhas b.pois ((a + i) / 32))

/-- Zeroing of unit number `n` of `u` bytes: bytes zero, poison clear, bit cleared (R59). -/
def bankZero (u : Nat) (b : Bank) (n : Nat) : Bank :=
  { mem := dropRange b.mem (n * u) (n * u + u)
    pois := b.pois.filter fun k => !(n * u / 32 ≤ k && k < (n * u + u) / 32)
    scr := nadd b.scr n }

/-- The units of `u` bytes that `[a, a+n)` touches. -/
def unitsOf (u a n : Nat) : List Nat :=
  if n = 0 then [] else (List.range ((a + n - 1) / u - a / u + 1)).map (a / u + ·)

/-- Poison bits after bytes with marks `ps` are written at `a`: a sector that a poisoned byte reaches
is set, one written whole and clean is cleared, any other keeps its bit (R83, R147). -/
def poisAfter (pois : NSet) (a : Nat) (ps : List Bool) : NSet :=
  (unitsOf 32 a ps.length).foldl (init := pois) fun acc k =>
    let inS := (ps.zipIdx).filter fun e => (a + e.2) / 32 == k
    if inS.any (·.1) then nadd acc k
    else if inS.length == 32 then ndel acc k else acc

/-- Write of bytes with poison marks; a unit whose unscrubbed bit is set is zeroed first (R59). -/
def bankWr (u : Nat) (b : Bank) (a : Nat) (bs : List Byte) (ps : List Bool) : Bank :=
  let b1 := ((unitsOf u a bs.length).filter fun k => !nhas b.scr k).foldl (bankZero u) b
  { b1 with mem := wrBytes b1.mem a bs, pois := poisAfter b1.pois a ps }

/-- Sectors of `[a, a+n)` poisoned or cleared. -/
def markSectors (pois : NSet) (a n : Nat) (v : Bool) : NSet :=
  (unitsOf 32 a n).foldl (fun acc k => nput acc k v) pois

/-- First element that satisfies `p`, with its index. -/
def findIdx {α : Type} (p : α → Bool) (l : List α) : Option (Nat × α) :=
  ((l.zipIdx).find? fun e => p e.1).map fun e => (e.2, e.1)

/-- Replacement of element `i`. -/
def lset {α : Type} (l : List α) (i : Nat) (v : α) : List α := l.set i v

end Sys2Proof.Machine
end

