-- ==== Sys2Proof/Machine/Geom.lean ====
section
/-! DEFINITION. The panel's geometry: tile kinds and positions (R7 to R9), dies, stacks and their
homes (R13 to R17, R27, R31), the windows of device physical space (R30) and their interleave (R32),
TLB slices (R47), lease scratch (R71), segments (R77). -/

namespace Sys2Proof.Machine

/-- Tile kinds as codes: 0 M, 1 V, 2 S, 3 A (R8, R246). -/
def tileKind (c r : Nat) : Nat := if r % 2 = 0 then (if c % 2 = 0 then 0 else 1) else (if c % 2 = 0 then 2 else 3)

/-- Keys from here on name tiles of the replica rectangle (R417). -/
def replicaBase : Nat := 65536

/-- L(c,r) of a tile key. -/
def keyCol (ls : Lease) (t : Nat) : Nat := t % replicaBase % (2 * ls.img.w)
/-- Row of a tile key. -/
def keyRow (ls : Lease) (t : Nat) : Nat := t % replicaBase / (2 * ls.img.w)
/-- Key of L(c,r). -/
def tileKey (ls : Lease) (c r : Nat) : Nat := r * (2 * ls.img.w) + c
/-- Kind of the tile of a key (R9). -/
def kindOf (ls : Lease) (t : Nat) : Nat := tileKind (keyCol ls t) (keyRow ls t)
/-- Panel column and row of a tile key (R9). -/
def panelPos (ls : Lease) (t : Nat) : Nat × Nat :=
  if t < replicaBase then (ls.col + keyCol ls t, ls.row + keyRow ls t)
  else (ls.rcol + keyCol ls t, ls.rrow + keyRow ls t)
/-- Die number of a panel position (R7, R31). -/
def dieAt (pc pr : Nat) : Nat := 10 * (pr / 16) + pc / 16
/-- Die of a tile of a lease. -/
def tileDie (ls : Lease) (t : Nat) : Nat := dieAt (panelPos ls t).1 (panelPos ls t).2
/-- Anchor die (R22). -/
def anchorDie (ls : Lease) : Nat := dieAt ls.col ls.row
/-- Every tile key of the lease's primary rectangle. -/
def rectKeys (ls : Lease) : List Nat := List.range (4 * ls.img.w * ls.img.h)
/-- Used tiles named by a role bitmap, replica included for a paired lease. -/
def usedTiles (ls : Lease) : List Nat :=
  if ls.paired then ls.img.roles ++ ls.img.roles.map (· + replicaBase) else ls.img.roles

/-- A die is live (R27, R436). -/
def dieLive (b : Boot) (n : Nat) : Bool :=
  n < 160 && (if b.mode == 2 then n == 0 else !b.ddis.getLsbD n)
/-! ### The site grid and the die mesh -/

/-- Site of die `n`: D(dx,dy) stands at (2·dx + dy mod 2, dy) (R13, R31). -/
def dieSite (n : Nat) : Nat × Nat := (2 * (n % 10) + n / 10 % 2, n / 10)
/-- The compute die of a site, none at a memory site or beyond the 20 × 16 grid (R13). -/
def siteDie (sx sy : Nat) : Option Nat :=
  if sx < 20 && sy < 16 && (sx + sy) % 2 == 0 then some (10 * sy + sx / 2) else none
/-- Site of stack `st`: the memory site of its pair of columns (R13, R31). -/
def stackSite (st : Nat) : Nat × Nat := (2 * (st % 10) + (if st / 10 % 2 = 0 then 1 else 0), st / 10)
/-- The compute neighbours of a memory site: north, south, west, east (R13, R14). -/
def siteNeighbours (st : Nat) : List Nat :=
  let (x, y) := stackSite st
  ((if 1 ≤ y then [siteDie x (y - 1)] else []) ++ [siteDie x (y + 1)] ++ (if 1 ≤ x then [siteDie (x - 1) y] else []) ++
    [siteDie (x + 1) y]).filterMap id
/-- The memory site at which the link between two neighbouring dies crosses (R15): between them for an east-west link, directly
south of the northern die for the other. -/
def linkSite (a b : Nat) : Nat :=
  let n := min a b
  if a / 10 = b / 10 then 10 * (n / 10) + n % 10 + n / 10 % 2 else 10 * (n / 10 + 1) + n % 10
/-- Does the crossing switch of the link's site join the two dies (R15)? -/
def crossed (s : State) (a b : Nat) : Bool := (mget [] s.crossings (linkSite a b)).contains (min a b, max a b)

/-- Die at mesh position (x, y). -/
def meshDie (p : Nat × Nat) : Nat := 10 * p.2 + p.1
/-- One step east or south, or west or north. -/
def ahead (fwd : Bool) (x : Nat) : Nat := if fwd then x + 1 else x - 1
/-- Row to which a packet at `p` sidesteps before a disabled die on its east or west leg (R27): one south; one north in row 15 or
where the die to the south is disabled. A step that would leave the mesh does not exist (log 101). -/
def sideRow (b : Boot) (p : Nat × Nat) : Option Nat :=
  if p.2 != 15 && dieLive b (meshDie (p.1, p.2 + 1)) then some (p.2 + 1) else if 1 ≤ p.2 then some (p.2 - 1) else none
/-- Column to which a packet at `p` sidesteps on its north or south leg (R27): one east; one west in column 9 or where the die to
the east is disabled (log 101). -/
def sideCol (b : Boot) (p : Nat × Nat) : Option Nat :=
  if p.1 != 9 && dieLive b (meshDie (p.1 + 1, p.2)) then some (p.1 + 1) else if 1 ≤ p.1 then some (p.1 - 1) else none
/-- The dies of a detour around the disabled die ahead of `p` (R27): the sidestep, along the leg's direction to the column or row
of that die, and past it unless the destination lies in that column or row. None where one of them is disabled. -/
def detour (b : Boot) (row fwd : Bool) (p : Nat × Nat) (past : Bool) : Option (List (Nat × Nat)) :=
  let along (x : Nat) : List Nat := [x, ahead fwd x] ++ (if past then [ahead fwd (ahead fwd x)] else [])
  let ds := if row then (sideRow b p).map fun y => (along p.1).map fun x => (x, y)
    else (sideCol b p).map fun x => (along p.2).map fun y => (x, y)
  ds.bind fun l => if l.all fun q => dieLive b (meshDie q) then some l else none

/-- The way of a packet over the die mesh (R16, R27): the dies after `p` in dimension order, first east or west to the
destination column, then north or south, around disabled dies. None where no way exists. -/
def meshPath (b : Boot) (dst : Nat × Nat) : Nat → Nat × Nat → Option (List (Nat × Nat))
  | 0, _ => none
  | fuel + 1, p =>
    if p = dst then some []
    else
      let row := decide (p.1 ≠ dst.1)
      let fwd := if row then decide (p.1 < dst.1) else decide (p.2 < dst.2)
      let q := if row then (ahead fwd p.1, p.2) else (p.1, ahead fwd p.2)
      let hop := if dieLive b (meshDie q) then some [q] else detour b row fwd p (if row then decide (q.1 ≠ dst.1) else true)
      hop.bind fun l => (meshPath b dst fuel (l.getLastD p)).map (l ++ ·)
/-- The dies that a packet from die `a` to die `c` enters, and the seams it crosses, one for each (R15, R16, R27). -/
def pathOf (b : Boot) (a c : Nat) : Option (List Nat) :=
  (meshPath b (c % 10, c / 10) 64 (a % 10, a / 10)).map fun l => l.map meshDie

/-- Every detour around the disabled die (x, y) that a packet can take is free of disabled dies (R27). -/
def detoursOk (b : Boot) (x y : Nat) : Bool :=
  let live (p : Nat × Nat) : Bool := dieLive b (meshDie p)
  let inCol (c lo hi : Nat) : Bool := (List.range 16).any fun r => lo ≤ r && r < hi && live (c, r)
  [true, false].all fun fwd =>
    let row :=
      if (if fwd then 1 ≤ x else x < 9) && live (ahead (!fwd) x, y) then
        (!inCol x 0 16 || (detour b true fwd (ahead (!fwd) x, y) false).isSome) &&
          (!(if fwd then x < 9 && (List.range 10).any fun c => x < c && inCol c 0 16
             else (List.range x).any fun c => inCol c 0 16) || (detour b true fwd (ahead (!fwd) x, y) true).isSome)
      else true
    let col :=
      if (if fwd then 1 ≤ y else y < 15) && live (x, ahead (!fwd) y) && (if fwd then inCol x (y + 1) 16 else inCol x 0 y) then
        (detour b false fwd (x, ahead (!fwd) y) true).isSome
      else true
    row && col

/-- The die that serves a stack: its home die, or the live compute neighbour that the panel map names (R17, R27); in minimal mode
D(0,0) beside it (R436). -/
def stackDie (b : Boot) (st : Nat) : Option Nat :=
  if b.mode == 2 then (if (siteNeighbours st).contains 0 then some 0 else none)
  else if b.sdis.getLsbD st then none
  else if dieLive b st then some st
  else match mfind b.subst st with
    | some d => if dieLive b d && (siteNeighbours st).contains d then some d else none
    | none => none
/-- The stacks of the site wheel in ascending order (R32). -/
def liveStacks (b : Boot) : List Nat := (List.range 160).filter fun st => (stackDie b st).isSome
/-- Addressable bytes of a stack by pool code (R93). -/
def stackCap (code : Nat) : Nat :=
  match code with
  | 0 => 46 * 2 ^ 30 + 2 ^ 29
  | 1 => 45 * 2 ^ 30
  | 2 => 42 * 2 ^ 30
  | _ => 36 * 2 ^ 30
/-- Pool slots of a stack by pool code (R93). -/
def poolSlots (code : Nat) : Nat :=
  match code with
  | 0 => 11010048
  | 1 => 22020096
  | 2 => 44040192
  | _ => 88080384
/-- End of the HBM window (R30). -/
def hbmEnd (b : Boot) : Nat := (liveStacks b).length * stackCap b.poolCode
/-- Stack of an HBM address (R32). -/
def stackOf (b : Boot) (pa : Nat) : Nat :=
  let l := liveStacks b
  l.getD (pa / 4096 % l.length) 0
/-- Stack-local byte address (R32). -/
def stackLocal (b : Boot) (pa : Nat) : Nat :=
  pa / 4096 / (liveStacks b).length * 4096 + pa % 4096
/-- Channel of a line (R33). -/
def channelOf (b : Boot) (pa : Nat) : Nat :=
  (pa / 128 % 32 + pa / 4096 / (liveStacks b).length % 32) % 32
/-- Home die of an HBM address (R17). -/
def homeDie (b : Boot) (pa : Nat) : Nat := (stackDie b (stackOf b pa)).getD 0

/-- Window bases (R30). -/
def scratchBase : Nat := 0x080000000000
def hostBase : Nat := 0x800000000000
def peerBase : Nat := 0xC00000000000
/-- Bytes of a die's scratch. -/
def scratchSize : Nat := 0x2000000

/-- Is the address in the die-scratch window of a live die (R30, R31)? -/
def inScratch (b : Boot) (pa : Nat) : Bool :=
  scratchBase ≤ pa && pa < scratchBase + 160 * scratchSize && dieLive b ((pa - scratchBase) / scratchSize)
/-- Is the address in the host window? -/
def inHost (pa : Nat) : Bool := hostBase ≤ pa && pa < peerBase
/-- Is the address in the peer window? -/
def inPeer (pa : Nat) : Bool := peerBase ≤ pa && pa < 2 ^ 48
/-- Dies of the couplers: N0-N7 on D(1,0) to D(8,0), S0-S7 on D(1,15) to D(8,15) (R20). -/
def couplerDie (k : Nat) : Nat := if k < 8 then k + 1 else 150 + (k - 8) + 1
/-- The coupler is present (R27, R436). -/
def couplerLive (b : Boot) (k : Nat) : Bool := k < 16 && b.mode != 2 && dieLive b (couplerDie k)

/-- Where a device physical address is served, none when unpopulated (R27, R30). -/
def locOf (b : Boot) (pa : Nat) : Option Loc :=
  if pa < hbmEnd b then some (.mem pa)
  else if inScratch b pa then some (.mem pa)
  else if inHost pa then some (.host (pa - hostBase))
  else if inPeer pa then
    let k := (pa - peerBase) / 2 ^ 42
    if couplerLive b k then some (.peer k ((pa - peerBase) % 2 ^ 42)) else none
  else none

/-- Unit size for the unscrubbed bits of an address (R59). -/
def unitSize (pa : Nat) : Nat := if pa < scratchBase then 4096 else 2048

/-- Holder of a die-scratch segment: entry `16·die + segment` of the segment maps (R77). -/
def segHolder (s : State) (pa : Nat) : Nat :=
  let o := pa - scratchBase
  let key := o / scratchSize * 16 + o % scratchSize / 0x200000
  mget key s.segMap key

/-- Die that serves a device memory address. -/
def servDie (s : State) (pa : Nat) : Nat :=
  if pa < scratchBase then homeDie s.boot pa else segHolder s pa / 16

/-- TLB slice of an address (R47). -/
def sliceOf (va g : Nat) : Nat :=
  let x := va / 65536 % 2 ^ 40
  let y := (x % 2 ^ 20) ^^^ (x / 2 ^ 20)
  let y := y ^^^ (y / 128)
  y % g

/-- Number of granules of the lease (R47, R71). -/
def granules (ls : Lease) : Nat := ls.img.w * ls.img.h
/-- Tile of slice `k` (R47). -/
def sliceTile (ls : Lease) (k : Nat) : Nat := tileKey ls (2 * (k % ls.img.w) + 1) (2 * (k / ls.img.w) + 1)
/-- S tile `k` of the lease (R71). -/
def sTile (ls : Lease) (k : Nat) : Nat := tileKey ls (2 * (k % ls.img.w)) (2 * (k / ls.img.w) + 1)

/-- Lease-scratch map of R71: S tile and local offset, none beyond G·SSPLIT. -/
def scratchMap (o g ssplit : Nat) : Option (Nat × Nat) :=
  if g * ssplit ≤ o then none
  else
    let q := o / 2048
    some (q % g, q / g * 2048 + o % 2048)

/-- The tick of a die: the panel reference plus the lead bit of the die (R90). -/
def tickOf (s : State) (die : Nat) : Nat := s.tick + (if s.lead.getLsbD die then 1 else 0)

/-- Timestamp (tick, die) as a number (R89). -/
def stamp (tick die : Nat) : Nat := tick * 256 + die

/-- Host port of a die's requests: n mod 4, or the next live port (R27, R48). -/
def hostPort (b : Boot) (n : Nat) : Nat :=
  let live (p : Nat) : Bool := dieLive b (p * 40)
  let p := n % 4
  if live p then p else if live ((p + 1) % 4) then (p + 1) % 4
  else if live ((p + 2) % 4) then (p + 2) % 4 else (p + 3) % 4

end Sys2Proof.Machine
end

