-- ==== Sys2Proof/Machine/Base.lean ====
section
/-! DEFINITION. The named operations over the state on which every meaning rests: leases, tiles, contexts and sequencers, byte
stores, registers of virtual functions and queues, PF events. -/

namespace Sys2Proof.Machine

/-- The outcome of a step of this machine. -/
abbrev Res := Host.Outcome State Fault Refusal

/-! ### Access to leases, tiles, contexts, sequencers -/

/-- Lease `l`. -/
def leaseOf (s : State) (l : Nat) : Option Lease := mfind s.leases l
/-- Change of lease `l`. -/
def updLease (s : State) (l : Nat) (f : Lease → Lease) : State := { s with leases := mmod s.leases l f }
/-- The sequencer of a lease, or of its replica (R417). -/
def seqOf (ls : Lease) (rep : Bool) : Seq := if rep then ls.seqR else ls.seq
/-- Change of a lease's sequencer. -/
def setSeq (ls : Lease) (rep : Bool) (q : Seq) : Lease := if rep then { ls with seqR := q } else { ls with seq := q }
/-- Change of a sequencer in the state. -/
def updSeq (s : State) (l : Nat) (rep : Bool) (f : Seq → Seq) : State :=
  updLease s l fun ls => setSeq ls rep (f (seqOf ls rep))
/-- Tile `t` of a lease. -/
def tileOf (ls : Lease) (t : Nat) : Option Tile := mfind ls.tiles t
/-- Change of a tile. -/
def updTile (s : State) (l t : Nat) (f : Tile → Tile) : State :=
  updLease s l fun ls => { ls with tiles := mmod ls.tiles t f }
/-- Context `k` of a tile. -/
def ctxOf (x : Tile) (k : Nat) : Ctx := mget Ctx.zero x.ctx k
/-- Context `k` of a tile becomes `c`. -/
def setCtx (x : Tile) (k : Nat) (c : Ctx) : Tile := { x with ctx := mput x.ctx k c }
/-- Change of a context. -/
def updCtx (s : State) (l t k : Nat) (f : Ctx → Ctx) : State :=
  updTile s l t fun x => setCtx x k (f (ctxOf x k))

/-- Content of a sequencer register; X0 reads as zero (R253). -/
def xget (q : Seq) (n : BitVec 5) : Dword := if n = 0 then 0 else mget 0 q.x n.toNat
/-- Poison of a sequencer register; X0 is never poisoned (R141). -/
def xpois (q : Seq) (n : BitVec 5) : Bool := n != 0 && nhas q.xp n.toNat
/-- Write of a sequencer register with its poison; a write to X0 is discarded (R146). -/
def xset (q : Seq) (n : BitVec 5) (v : Dword) (p : Bool) : Seq :=
  if n = 0 then q else { q with x := mset 0 q.x n.toNat v, xp := nput q.xp n.toNat p }
/-- The PC moves to the next instruction (R255). -/
def seqNext (q : Seq) : Seq :=
  { q with
    pc := q.pc + 4
    op := .none
    saved := if q.saved.map (·.1) = some q.pc then .none else q.saved
    instr := q.instr + 1 }

/-- Does a load of this register still run (R255)? -/
def xbusy (q : Seq) (n : BitVec 5) : Bool := (mfind q.pend n.toNat).isSome

/-- A sequencer word runs on behalf of the current sequencer; it waits while a load of one of the
registers it names is under way (R255). -/
def onSeq (s : State) (rs : List (BitVec 5)) (f : Nat → Bool → Lease → Seq → State) : Res :=
  match s.cur with
  | .seq l rep =>
    match leaseOf s l with
    | some ls =>
      let q := seqOf ls rep
      if rs.any (xbusy q) then .next s else .next (f l rep ls q)
    | none => .fault .noAgent
  | _ => .fault .noAgent

/-- A step that the current sequencer, or its lease on its behalf, takes. -/
def onLease (s : State) (f : Nat → Res) : Res :=
  match s.cur with
  | .seq l _ => f l
  | _ => .fault .noAgent

/-- An operation word runs in the firing in progress of the current context. -/
def onElem (s : State) (f : Nat → Nat → Nat → Lease → Tile → Ctx → Firing → State) : Res :=
  match s.cur with
  | .elem l t k =>
    match leaseOf s l with
    | some ls =>
      match tileOf ls t with
      | some x =>
        let c := ctxOf x k
        match c.fire with
        | some fi => .next (f l t k ls x c fi)
        | none => .fault .noAgent
      | none => .fault .noAgent
    | none => .fault .noAgent
  | _ => .fault .noAgent

/-! ### Device memory -/

/-- Device memory as a byte store. -/
def memBank (s : State) : Bank := ⟨s.mem, s.mpois, s.scrubbed⟩
/-- Device memory replaced. -/
def setBank (s : State) (b : Bank) : State := { s with mem := b.mem, mpois := b.pois, scrubbed := b.scr }
/-- Read of device memory at a device physical address (R59, R84). Unit numbers of die scratch are
kept apart from those of HBM by their own size. -/
def memRd (s : State) (pa n : Nat) : List Byte × List Bool := bankRd (unitSize pa) (memBank s) pa n
/-- Write of device memory (R59, R83, R147). -/
def memWr (s : State) (pa : Nat) (bs : List Byte) (ps : List Bool) : State :=
  setBank s (bankWr (unitSize pa) (memBank s) pa bs ps)
/-- The store of a tile as a byte store. -/
def tileBank (x : Tile) : Bank := ⟨x.store, x.spois, x.scrubbed⟩
/-- The store of a tile replaced. -/
def setTileBank (x : Tile) (b : Bank) : Tile := { x with store := b.mem, spois := b.pois, scrubbed := b.scr }
/-- Read of a tile store. -/
def tileRd (x : Tile) (o n : Nat) : List Byte × List Bool := bankRd 2048 (tileBank x) o n
/-- Write of a tile store. -/
def tileWr (x : Tile) (o : Nat) (bs : List Byte) (ps : List Bool) : Tile :=
  setTileBank x (bankWr 2048 (tileBank x) o bs ps)

/-- Tiles have been freed: the Shunter considers its candidates at once (R373). -/
def wakeShunter (s : State) : State := { s with agenda := s.agenda ++ [.event .shunterRound] }

/-- Does the fc of lease `l` turn over in this cycle of the nominal clock? Each throttle step lengthens it by 1/16 (R4,
R442). -/
def fcTurns (s : State) (l : Nat) : Bool :=
  let k := 16 + mget 0 s.throttle l
  s.wall * 16 / k != (s.wall + 1) * 16 / k

/-- The next free value is drawn. -/
def bump (s : State) : State := { s with nonce := s.nonce + 1 }

/-! ### Registers of virtual functions, events, interrupts -/

/-- Register block of function `v`. -/
def vfOf (s : State) (v : Nat) : Vf := mget Vf.zero s.vfs v
/-- Change of a register block. -/
def updVf (s : State) (v : Nat) (f : Vf → Vf) : State := { s with vfs := mset Vf.zero s.vfs v (f (vfOf s v)) }
/-- Global queue `g`. -/
def queueOf (s : State) (g : Nat) : Queue := mget Queue.zero s.queues g
/-- Change of a queue. -/
def updQueue (s : State) (g : Nat) (f : Queue → Queue) : State :=
  { s with queues := mset Queue.zero s.queues g (f (queueOf s g)) }
/-- Coupler `k`. -/
def couplerOf (s : State) (k : Nat) : Coupler := mget Coupler.zero s.couplers k
/-- Change of a coupler. -/
def updCoupler (s : State) (k : Nat) (f : Coupler → Coupler) : State :=
  { s with couplers := mset Coupler.zero s.couplers k (f (couplerOf s k)) }

/-- Something leaves the device. -/
def emit (s : State) (o : Out) : State := { s with out := s.out ++ [o] }

/-- A PF event (R429, R430): written to the ring and signalled, or counted as lost. -/
def pfEvent (s : State) (code tenant lease die sub a1 a2 : Nat) : State :=
  let ring := 2 ^ (s.evbase.toNat % 16 + 6)
  if s.evbase = 0 || (s.evput + 2 ^ 32 - s.evget) % 2 ^ 32 == ring then
    { s with evovf := (s.evovf + 1) % 2 ^ 32 }
  else
    let d0 := s.evput % 2 ^ 16 * 2 ^ 48 + tenant % 4096 * 2 ^ 36 + lease % 4096 * 2 ^ 24 +
      die % 256 * 2 ^ 16 + sub % 256 * 2 ^ 8 + code
    let tm := stamp (tickOf s (if die < 160 then die else 0)) (if die < 160 then die else 0)
    { s with
      evput := (s.evput + 1) % 2 ^ 32
      out := s.out ++ [.event [BitVec.ofNat 64 d0, BitVec.ofNat 64 a1, BitVec.ofNat 64 a2, BitVec.ofNat 64 tm],
        .msix .pf 0] }

/-- Saturating count. -/
def satInc (n bits : Nat) : Nat := if n + 1 < 2 ^ bits then n + 1 else 2 ^ bits - 1

end Sys2Proof.Machine
end

