-- ==== Sys2Proof/Machine/Llc.lean ====
section
/-! DEFINITION. The LLC slices (R460), with what lies beneath a clean line (R82, R83, R85). -/

namespace Sys2Proof.Machine

/-- LLC set of a line in its slice (R460): key and line. -/
def llcKey (s : State) (pa : Nat) : Nat :=
  homeDie s.boot pa * 32768 + ((stackLocal s.boot pa / 128 % 32768) ^^^ stackOf s.boot pa)
/-- Is the line present? -/
def llcHit (s : State) (pa : Nat) : Bool := (mget [] s.llc (llcKey s pa)).any fun e => e.1 == pa / 128
/-- A sector that an error struck in HBM4 beneath a clean line shows once the line is fetched again (R83, R85). -/
def showSector (s : State) (k : Nat) : State :=
  match mfind s.hbmBad k with
  | some b => { s with mem := wrBytes s.mem (32 * k) (leBytes 32 b.toNat), mpois := nadd s.mpois k, hbmBad := mdel s.hbmBad k }
  | none => s
/-- The four sectors of a line. -/
def lineSectors (n : Nat) : List Nat := (List.range 4).map (4 * n + ·)
/-- A clean line leaves its slice: what HBM4 holds is what is read from now on. -/
def showHbm (s : State) (n : Nat) : State := (lineSectors n).foldl showSector s
/-- The line is installed; a full set of 16 gives up a free victim, a dirty one is written back (R460, log 7). -/
def llcInstall (s : State) (pa : Nat) : State :=
  if llcHit s pa then s
  else
    let set := mget [] s.llc (llcKey s pa)
    if set.length < 16 then { s with llc := mput s.llc (llcKey s pa) (set ++ [(pa / 128, false)]) }
    else
      let i := Config.llcVictim s.nonce % set.length
      let s1 := { bump s with llc := mput s.llc (llcKey s pa) (set.eraseIdx i ++ [(pa / 128, false)]) }
      match set[i]? with
      | some (n, false) => showHbm s1 n
      | _ => s1
/-- A written line is dirty: its write-back replaces what HBM4 holds. -/
def llcDirty (s : State) (pa : Nat) : State :=
  { s with
    llc := mmod s.llc (llcKey s pa) fun set => set.map fun e => if e.1 == pa / 128 then (e.1, true) else e
    hbmBad := s.hbmBad.filter fun e => !(lineSectors (pa / 128)).contains e.1 }
/-- An access to one line looks up the slice of its home (R460); die scratch has none. -/
def llcUse (wr : Bool) (s : State) (n : Nat) : State :=
  if hbmEnd s.boot ≤ n * 128 then s
  else
    let s1 := llcInstall s (n * 128)
    if wr then llcDirty s1 (n * 128) else s1

end Sys2Proof.Machine
end

