-- ==== Sys2Proof/Machine/Versions.lean ====
section
/-! DEFINITION. Versioned lines: pool slots, the low watermark, reclaiming and revocation (R93, R95,
R109 to R111), snapshot reads (R99), live writes (R101), pending versions (R102, R107), and the
zeroing of a unit with its versions (R59). -/

namespace Sys2Proof.Machine

/-- Version state of line number `n` (address / 128). -/
def lineOf (s : State) (n : Nat) : Line := mget Line.zero s.lines n

/-- Pool use of a line in eighths of a slot (R93). -/
def poolEighths (x : Line) : Nat :=
  let k := x.old.length + x.pend.length
  8 * k + (if k = 0 then 0 else 1)

/-- Slots that the line's versions charge to a tenant (R95). -/
def chargedTo (x : Line) (t : Nat) : Nat :=
  (x.old.filter (·.tenant == t)).length + (x.pend.filter (·.tenant == t)).length

/-- A line's version state is replaced; pool use and quota counts follow (R93, R95). -/
def setLine (s : State) (n : Nat) (y : Line) : State :=
  let x := lineOf s n
  let st := stackOf s.boot (n * 128)
  let ts := ((x.old.map (·.tenant)) ++ (x.pend.map (·.tenant)) ++ (y.old.map (·.tenant)) ++ (y.pend.map (·.tenant))).eraseDups
  let s1 := ts.foldl (init := s) fun s t =>
    if t < 256 then updVf s t fun v => { v with vused := v.vused + chargedTo y t - chargedTo x t } else s
  { s1 with
    lines := mset Line.zero s1.lines n y
    poolUsed := mset 0 s1.poolUsed st (mget 0 s1.poolUsed st + poolEighths y - poolEighths x) }

/-- Data and sector poison of a line in place. -/
def lineData (s : State) (n : Nat) : BitVec 1024 × BitVec 4 :=
  let (bs, ps) := memRd s (n * 128) 128
  (BitVec.ofNat 1024 (leNat bs),
   BitVec.ofNat 4 (((List.range 4).map fun k => if ps.getD (32 * k) false then 2 ^ k else 0).foldl (· + ·) 0))

/-- A version is installed in place, through the slice of its home (R104, R460). -/
def installData (s : State) (n : Nat) (d : BitVec 1024) (p : BitVec 4) : State :=
  memWr (llcUse true s n) (n * 128) (leBytes 128 d.toNat) ((List.range 128).map fun i => p.getLsbD (i / 32))

/-- Bytes `[o, o+k)` of version data with their poison. -/
def verBytes (d : BitVec 1024) (p : BitVec 4) (o k : Nat) : List Byte × List Bool :=
  (((leBytes 128 d.toNat).drop o).take k, (List.range k).map fun i => p.getLsbD ((o + i) / 32))

/-- Merge of written bytes into version data (R83, R102, R147). -/
def verMerge (d : BitVec 1024) (p : BitVec 4) (o : Nat) (bs : List Byte) (ps : List Bool) : BitVec 1024 × BitVec 4 :=
  let old := leBytes 128 d.toNat
  let new := old.take o ++ bs ++ old.drop (o + bs.length)
  let ks := (List.range 4).filter (fun k => p.getLsbD k)
  let ks' := poisAfter ks o ps
  (BitVec.ofNat 1024 (leNat new), BitVec.ofNat 4 ((ks'.map fun k => 2 ^ k).foldl (· + ·) 0))

/-- A non-empty view of a lease, or of the checkpoint that its save area holds (R109, R419). -/
structure ViewRef where
  lease : Nat
  tenant : Nat
  num : Nat
  view : View
  saved : Bool

/-- The views of a set of leases. -/
def viewsOf (saved : Bool) (ls : List (Nat × Lease)) : List ViewRef :=
  (ls.map fun e => (e.2.views.filter fun w => w.2.kind != 0).map fun w => ViewRef.mk e.1 e.2.tenant w.1 w.2 saved).flatten

/-- Every non-empty view of every lease, those of save areas among them (R109). -/
def allViews (s : State) : List ViewRef := viewsOf false s.leases ++ viewsOf true s.awaitSave

/-- The low watermark (R109); the collector's tick is that of D(0,0). A revoked view reads nothing any more and pins
nothing (R92, R111). -/
def watermark (s : State) : Nat :=
  match ((allViews s).filter fun e => e.view.doom != 4).map (fun e => e.view.sts) with
  | [] => stamp (tickOf s 0 - 4) 0
  | a :: r => r.foldl min a

/-- Retained versions that a newer version at or below `w` makes unreachable go (R110). -/
def reclaimLine (w : Nat) (x : Line) : Line :=
  let rec go (newer : Nat) : List Version → List Version
    | [] => []
    | v :: r => if newer ≤ w then [] else v :: go v.ts r
  { x with old := go x.ts x.old }

/-- Reclaiming of every line under `w`. -/
def reclaimAll (s : State) (w : Nat) (p : Nat → Bool) : State :=
  s.lines.foldl (init := s) fun s e => if p e.1 then setLine s e.1 (reclaimLine w e.2) else s

/-- Pending versions of a lease's view or shadow are discarded (R102, R103, R113). -/
def discardPend (s : State) (l slot : Nat) : State :=
  s.lines.foldl (init := s) fun s e =>
    if e.2.pend.any (fun p => p.lease == l && p.slot == slot) then
      setLine s e.1 { lineOf s e.1 with pend := (lineOf s e.1).pend.filter fun p => !(p.lease == l && p.slot == slot) }
    else s

/-- A view becomes doomed, its pending versions are discarded (R102, R111). -/
def doomView (s : State) (l n code : Nat) : State :=
  discardPend (updLease s l fun ls => { ls with views := mmod ls.views n fun v => { v with doom := code } }) l n

/-- A shadow becomes doomed with CAPACITY (R107). -/
def doomShadow (s : State) (l n : Nat) : State :=
  discardPend (updLease s l fun ls => { ls with shadows := mput ls.shadows n ⟨true, false⟩ }) l (8 + n)

/-- Is the transaction of a view past the lock phase of its commit (R105)? It completes, and is not revoked. -/
def writing (s : State) (l n : Nat) : Bool :=
  match leaseOf s l with
  | some ls => (match ls.commit with
    | some c => c.phase != 0 && !c.shadow && c.slot == n
    | none => false)
  | none => false

/-- A view is revoked wherever it stands, in the lease and in the checkpoint of its save area (R92, R111). -/
def revokeView (s : State) (e : ViewRef) : State :=
  let same (v : View) : Bool := v.sts == e.view.sts && v.kind == e.view.kind
  let s1 := match (leaseOf s e.lease).bind fun ls => mfind ls.views e.num with
    | some v => if same v && !writing s e.lease e.num then doomView s e.lease e.num 4 else s
    | none => s
  { s1 with awaitSave := mmod s1.awaitSave e.lease fun ls =>
      { ls with views := mmod ls.views e.num fun v => if same v then { v with doom := 4 } else v } }

/-- Revocation of one view (R111): the oldest of the tenant at its limit, or of the tenants that hold
slots on the full stack; ties by lease number, then view number. -/
def revokeOne (s : State) (tenant st : Nat) : Option State :=
  let v := vfOf s tenant
  let atLimit := tenant < 256 && v.vlimit ≤ v.vused
  let holders := (s.lines.filter fun e => stackOf s.boot (e.1 * 128) == st).map fun e =>
    (e.2.old.map (·.tenant)) ++ (e.2.pend.map (·.tenant))
  let cand := (allViews s).filter fun e =>
    e.view.doom != 4 && (e.saved || !writing s e.lease e.num) &&
      (if atLimit then e.tenant == tenant else holders.any fun h => h.contains e.tenant)
  match cand with
  | [] => none
  | a :: r =>
    some (revokeView s (r.foldl (fun b e =>
      if e.view.sts < b.view.sts || (e.view.sts == b.view.sts && (e.lease < b.lease || (e.lease == b.lease && e.num < b.num)))
      then e else b) a))

/-- Is there a slot for a tenant on the stack of line `n` (R111 step 1)? A line without history needs an eighth more for its
head record (R93). -/
def slotFree (s : State) (tenant n : Nat) : Bool :=
  let v := vfOf s tenant
  let need := if poolEighths (lineOf s n) = 0 then 9 else 8
  (256 ≤ tenant || v.vused < v.vlimit) && mget 0 s.poolUsed (stackOf s.boot (n * 128)) + need ≤ 8 * poolSlots s.boot.poolCode

/-- A slot for a version of line `n` under R111: reclaim, then revoke, oldest view first. -/
def takeSlot (s : State) (tenant n : Nat) : Nat → Bool × State
  | 0 => (slotFree s tenant n, s)
  | fuel + 1 =>
    if slotFree s tenant n then (true, s)
    else
      let w := watermark s
      let s1 := { reclaimAll s w (fun _ => true) with wmark := w }
      if slotFree s1 tenant n then (true, s1)
      else match revokeOne s1 tenant (stackOf s.boot (n * 128)) with
        | some s2 => takeSlot s2 tenant n fuel
        | none => (false, s1)

/-- Views that exist bound the revocations. -/
def getSlot (s : State) (tenant n : Nat) : Bool × State := takeSlot s tenant n ((allViews s).length + 1)

/-- The timestamp of a live write at home die `h` (R101). -/
def liveStamp (s : State) (h ts : Nat) : Nat :=
  let t := tickOf s h
  if ts < stamp t h then stamp t h
  else if ts < stamp (ts / 256) h then stamp (ts / 256) h else stamp (ts / 256 + 1) h

/-- A version becomes older: it is retained in the pool, or dropped with the line truncated (R101,
R111). `ts` is the new version's timestamp. -/
def retain (s : State) (n tenant ts : Nat) : State :=
  let (ok, s1) := getSlot s tenant n
  let x := lineOf s1 n
  let (d, p) := lineData s1 n
  if ok then setLine s1 n { x with old := ⟨x.ts, d, p, tenant⟩ :: x.old, ts := ts }
  else setLine s1 n { x with ts := ts, trunc := ts }

/-- A live write of bytes to a versioned line (R101); while the clock is stopped it makes no version
(R91). -/
def liveWrite (s : State) (pa tenant : Nat) (bs : List Byte) (ps : List Bool) : State :=
  if s.clockStopped then memWr s pa bs ps
  else
    let n := pa / 128
    memWr (retain s n tenant (liveStamp s (homeDie s.boot pa) (lineOf s n).ts)) pa bs ps

/-- A snapshot read of line `n` at `sts` (R99): none when no version is old enough. -/
def snapRead (s : State) (n sts : Nat) : Option (BitVec 1024 × BitVec 4) :=
  let x := lineOf s n
  if x.ts ≤ sts then some (lineData s n)
  else
    match x.old.find? (fun v => v.ts ≤ sts) with
    | some v => if x.trunc ≤ sts || v.ts ≥ x.trunc then some (v.data, v.pois) else none
    | none => none

/-- The pending version of a lease's view or shadow on a line. -/
def findPend (x : Line) (l slot : Nat) : Option Pend := x.pend.find? fun p => p.lease == l && p.slot == slot

/-- A pending version is created or updated with bytes written at `pa`, tenant address `va` (R102,
R107). `base` is the data it starts from. -/
def pendWrite (s : State) (l slot tenant pa va : Nat) (base : BitVec 1024 × BitVec 4) (bs : List Byte)
    (ps : List Bool) : Option State :=
  let n := pa / 128
  match findPend (lineOf s n) l slot with
  | some p =>
    let (d, q) := verMerge p.data p.pois (pa % 128) bs ps
    let p' := { p with data := d, pois := q, va := min p.va va }
    some (setLine s n { lineOf s n with pend := (lineOf s n).pend.map fun e =>
      if e.lease == l && e.slot == slot then p' else e })
  | none =>
    let (ok, s1) := getSlot s tenant n
    if ok then
      let (d, q) := verMerge base.1 base.2 (pa % 128) bs ps
      some (setLine s1 n { lineOf s1 n with pend := ⟨tenant, l, slot, d, q, va⟩ :: (lineOf s1 n).pend })
    else none

/-- Zeroing of a unit of device memory with the versions of its lines (R59). -/
def zeroUnit (s : State) (pa : Nat) : State :=
  let u := unitSize pa
  let n := pa / u
  let s1 := setBank { s with hbmBad := s.hbmBad.filter fun e => !(n * u ≤ e.1 * 32 && e.1 * 32 < n * u + u) } (bankZero u (memBank s) n)
  if pa < scratchBase then
    (s1.lines.filter fun e => n * u ≤ e.1 * 128 && e.1 * 128 < n * u + u).foldl (init := s1) fun s e =>
      let s2 := e.2.pend.foldl (init := s) fun s p =>
        if p.slot < 8 then doomView s p.lease p.slot 1 else doomShadow s p.lease (p.slot - 8)
      let ts := liveStamp s2 (homeDie s2.boot (e.1 * 128)) e.2.ts
      setLine s2 e.1 { (lineOf s2 e.1) with old := [], pend := [], ts := ts, trunc := ts }
  else s1

end Sys2Proof.Machine
end

