-- ==== Sys2Proof/Machine/Device.lean ====
section
/-! DEFINITION. What every unit of the device reads and writes: the
zeroing that an access meets (R59), the host window (R56, R150) and the peer window (R152). -/

namespace Sys2Proof.Machine

/-! ### Units that are being zeroed -/

/-- The zeroing of a unit finishes (R59). -/
def zeroNow (u : Nat) (s : State) (k : Nat) : State := { zeroUnit s (k * u) with zeroing := ndel s.zeroing k }
/-- What stands in the way of an access to `[pa, pa+n)`: units in zeroing are finished first; for a write, unscrubbed ones are
zeroed first (R59). -/
def unitsReady (wr : Bool) (s : State) (pa n : Nat) : State :=
  let u := unitSize pa
  ((unitsOf u pa n).filter fun k => nhas s.zeroing k || (wr && !nhas s.scrubbed k)).foldl (zeroNow u) s
/-- A read starts the zeroing of the unscrubbed units that it meets (R59). -/
def startZeroing (s : State) (pa n : Nat) : State :=
  ((unitsOf (unitSize pa) pa n).filter fun k => !nhas s.scrubbed k).foldl (fun s k => { s with zeroing := nadd s.zeroing k }) s

/-- A read of device memory by a unit: zeros from unscrubbed units, after any zeroing under way (R59, R84, R460). -/
def memGet (s : State) (pa n : Nat) : List Byte × List Bool × State :=
  let s1 := (unitsOf 128 pa n).foldl (llcUse false) (unitsReady false s pa n)
  let (b, q) := memRd s1 pa n
  (b, q, startZeroing s1 pa n)
/-- A write of device memory by a unit (R59, R83, R147, R460). -/
def memPut (s : State) (pa : Nat) (bs : List Byte) (ps : List Bool) : State :=
  memWr ((unitsOf 128 pa bs.length).foldl (llcUse true) (unitsReady true s pa bs.length)) pa bs ps

/-! ### The host and the peers -/

/-- Bytes from outside: the host's memory by its offset, a peer panel's by its coupler and offset. They are no part of the machine
(log 3); each call draws anew. -/
def outByte (s : State) (base n : Nat) : List Byte := (List.range n).map fun i => Config.hostByte s.nonce (base + i)
/-- The poison with which they arrive: of every sector that a poisoned completion or reply touches (R150, R152). -/
def outPois (s : State) (base n : Nat) : List Bool := (List.range n).map fun i => Config.hostPois s.nonce ((base + i) / 32)
/-- Where the bytes of a peer stand among those from outside. -/
def peerAt (k o : Nat) : Nat := 2 ^ 50 + k * 2 ^ 43 + o

/-- Synchronous read by a unit of the device at a populated address: the bytes and their poison. -/
def devRd (s : State) (loc : Loc) (n : Nat) : List Byte × List Bool :=
  match loc with
  | .mem pa => memRd s pa n
  | .host o => (outByte s o n, outPois s o n)
  | .peer k o => (outByte s (peerAt k o) n, outPois s (peerAt k o) n)
  | _ => (List.replicate n 0, List.replicate n false)
/-- The same with what it does: the LLC lookup, the zeroing that it starts, and the AER log of a poisoned completion (R59, R150,
R460). -/
def devGet (s : State) (loc : Loc) (n : Nat) : List Byte × List Bool × State :=
  match loc with
  | .mem pa => memGet s pa n
  | .host _ =>
    let (b, q) := devRd s loc n
    (b, q, bump (if q.any id then emit s (.aer false) else s))
  | _ =>
    let (b, q) := devRd s loc n
    (b, q, bump s)

/-- How a request of a tenant leaves for the host from a die: its port, the PASID while PASIDEN is 1, and whether its address is
one that ATS has translated (R27, R48, R56). -/
def hostTag (s : State) (tenant die : Nat) : HostTag :=
  let c := (vfOf s tenant).hostctl
  { port := hostPort s.boot die
    pasid := if tenant < 256 && c.getLsbD 63 then some (c.toNat % 2 ^ 20) else none
    translated := Config.atsUsed s.nonce }
/-- A request of firmware: host port 0, no PASID. -/
def fwTag : HostTag := ⟨0, none, false⟩

/-- Write to the host window: broken at 32-byte boundaries, each TLP with the EP of its bytes (R150). -/
def hostWr (s : State) (tag : HostTag) (off : Nat) (bs : List Byte) (ps : List Bool) : State :=
  let tl := (unitsOf 32 off bs.length).map fun k =>
    let lo := max off (k * 32)
    let hi := min (off + bs.length) (k * 32 + 32)
    Out.hostWrite tag lo ((bs.drop (lo - off)).take (hi - lo)) (((ps.drop (lo - off)).take (hi - lo)).any id)
  { s with out := s.out ++ tl }

/-- Synchronous write by a unit of the device. -/
def devWr (s : State) (tag : HostTag) (loc : Loc) (bs : List Byte) (ps : List Bool) : State :=
  match loc with
  | .mem pa => memPut s pa bs ps
  | .host o => hostWr s tag o bs ps
  | .peer k o => emit s (.peerWrite k o bs ps)
  | _ => s

end Sys2Proof.Machine
end

