-- ==== Sys2Proof/Machine/Ops.lean ====
section
/-! DEFINITION. Fault records, and the one operation by which a sequencer takes a trap with the return from it (R290, R291,
R385 to R391). -/

namespace Sys2Proof.Machine

/-! ### Fault records -/

/-- Cause codes (R383). -/
def cILLEGAL : Nat := 0x01
def cNONINSTR : Nat := 0x02
def cUNSUPPORTED : Nat := 0x03
def cBRANCH : Nat := 0x04
def cRATE : Nat := 0x05
def cOVERFLOW : Nat := 0x06
def cFORMAT : Nat := 0x07
def cSLOT : Nat := 0x08
def cROUTE : Nat := 0x09
def cSTRAY : Nat := 0x0A
def cCUT : Nat := 0x0B
def cCONFIG : Nat := 0x0C
def cTRANS : Nat := 0x10
def cPERM : Nat := 0x11
def cTENANT : Nat := 0x12
def cSTAGE2 : Nat := 0x13
def cALIGN : Nat := 0x15
def cPADDR : Nat := 0x18
def cPCTL : Nat := 0x19
def cPEGR : Nat := 0x1A
def cPCOM : Nat := 0x1B
def cSNAP : Nat := 0x21
def cATOM : Nat := 0x28
def cWATCH : Nat := 0x30
def cDRAIN : Nat := 0x31
def cSAVE : Nat := 0x32
def cCMP : Nat := 0x33
def cAUDIT : Nat := 0x34
def cJOIN : Nat := 0x38
def cTRAP : Nat := 0x3F

/-- A record with every field that may not apply at zero (R385). -/
def FRec.zero : FRec :=
  { source := 0, cause := 0, code := 0, aux := 0, late := false, straddle := false, opidx := 0, ctx := 0,
    handler := 0, tile := .none, cfgid := 0, opword := 0, faddr := 0, port := 0, cnta := 0, cntb := 0,
    ports := 0, pc := 0, chain := .none, time := 0, freezes := false }

/-- Poison faults are counted for the tenant (R153, R154). -/
def countPoison (s : State) (tenant cause : Nat) : State :=
  if tenant < 256 then
    updVf s tenant fun v =>
      if cause = cPADDR then { v with pfAddress := satInc v.pfAddress 16 }
      else if cause = cPCTL then { v with pfControl := satInc v.pfControl 16 }
      else if cause = cPEGR then { v with pfEgress := satInc v.pfEgress 16 }
      else if cause = cPCOM then { v with pfCommit := satInc v.pfCommit 16 }
      else v
  else s

/-- The eight dwords of record `n` (R385, R386). -/
def recDwords (l n : Nat) (ls : Lease) (r : FRec) : List Nat :=
  let a := anchorDie ls
  let pos : Nat × Nat := match r.tile with
    | some t => panelPos ls t
    | none => (a % 10 * 16, a / 10 * 16)
  let rc : Nat := match r.tile with
    | some t => keyRow ls t * 256 + keyCol ls t
    | none => 0xFFFF
  [ n % 2 ^ 16 * 2 ^ 48 + r.aux % 2 ^ 16 * 2 ^ 32 + (if r.late then 2 ^ 27 else 0) +
      (if r.straddle then 2 ^ 26 else 0) + r.code % 1024 * 2 ^ 16 + r.source * 256 + r.cause,
    l % 4096 * 2 ^ 48 + r.opidx % 1024 * 2 ^ 38 + r.ctx % 4 * 2 ^ 36 + r.handler % 16 * 2 ^ 32 +
      pos.2 % 16 * 2 ^ 28 + pos.1 % 16 * 2 ^ 24 + pos.2 / 16 * 2 ^ 20 + pos.1 / 16 * 2 ^ 16 + rc,
    r.cfgid % 2 ^ 32 * 2 ^ 32 + r.opword.toNat,
    r.faddr % 2 ^ 64,
    r.port % 16 * 2 ^ 60 + min r.cnta 63 * 2 ^ 54 + min r.cntb 63 * 2 ^ 48 + r.time % 2 ^ 48,
    r.ports % 2 ^ 63,
    if r.source = 0 then r.pc % 2 ^ 56 else r.ports / 2 ^ 63 % 2 ^ 45,
    match r.chain with
    | some (c, n) => 2 ^ 20 + n % 2 ^ 16 * 16 + c % 16
    | none => 0 ]

/-- The location word of a tile in an event: [7:4] ty, [3:0] tx, [63:8] the register, slot or offset (R430). -/
def ueWhere (ls : Lease) (t x : Nat) : Nat := x * 256 + (panelPos ls t).2 % 16 * 16 + (panelPos ls t).1 % 16

/-- Device physical place of an address of the save area or mailbox, from the save map, which holds it line by line (R395). -/
def smapLoc (ls : Lease) (va : Nat) : Option Nat := (mfind ls.smap (va / 128)).map (· + va % 128)

/-- Write at a tenant address through the save map. -/
def smapWr (s : State) (ls : Lease) (va : Nat) (bs : List Byte) : State :=
  match smapLoc ls va with
  | some pa => match locOf s.boot pa with
    | some lc => devWr s (hostTag s ls.tenant (anchorDie ls)) lc bs (List.replicate bs.length false)
    | none => s
  | none => s

/-- A record enters the mailbox (R387): the bytes, then PUT. -/
def postRec (s : State) (l : Nat) (r : FRec) : State :=
  match leaseOf s l with
  | none => s
  | some ls =>
    let n := ls.mput
    let bs := ((recDwords l n ls r).map (leBytes 8)).flatten
    let s1 := smapWr s ls (ls.mbox + 64 * (1 + n % 63)) bs
    let s2 := smapWr s1 ls ls.mbox (leBytes 4 ((n + 1) % 2 ^ 32))
    updLease s2 l fun ls => { ls with mput := n + 1, posted := mput ls.posted n r }

/-- A fault is reported: the record waits at its source until FAULT_RECORD_WRITE (R384, R387). The replica of a
pair repeats its primary and writes no record of its own (R418). -/
def raise (s : State) (l : Nat) (r : FRec) : State :=
  match leaseOf s l with
  | none => s
  | some ls =>
    if (match r.tile with
        | some t => decide (replicaBase ≤ t)
        | none => false) then s
    else
    let d := match r.tile with
      | some t => tileDie ls t
      | none => anchorDie ls
    let r := { r with time := stamp (tickOf s d) d }
    updLease (countPoison s ls.tenant r.cause) l fun ls => { ls with recs := ls.recs ++ [r] }

/-- Number of occupied entries of the ports for a record (R385): head tag and fill of each port. -/
def portFill (c : Ctx) : Nat :=
  let ins := (List.range 8).map fun p =>
    match mfind c.ins p with
    | some i => (match i.q with
      | t :: _ => t.tag.toNat * 64 + min i.q.length 63
      | [] => 0) * 2 ^ (9 * p)
    | none => 0
  let outs := (List.range 4).map fun j =>
    match mfind c.outs j with
    | some o => (match o.pub with
      | t :: _ => t.tag.toNat * 64
      | [] => 0) + min (o.pub.length + o.due) 63
    | none => 0
  ins.foldl (· + ·) 0 + ((outs.zipIdx.map fun e => e.1 * 2 ^ (9 * (e.2 + 8))).foldl (· + ·) 0)

/-- A fault of a word of a firing: the context is frozen at the word (R384). -/
def elemFault (s : State) (l t k : Nat) (ls : Lease) (c : Ctx) (fi : Firing) (w : Word)
    (cause faddr : Nat) (g : FRec → FRec := id) : State :=
  let r := g { FRec.zero with
    source := 1, cause := cause, opidx := fi.pc, ctx := k, handler := fi.h, tile := some t, opword := w,
    cfgid := 7 * 2 ^ 28 + keyRow ls t * 2 ^ 20 + keyCol ls t * 2 ^ 12 + fi.pc,
    faddr := faddr, ports := portFill c, freezes := true }
  raise (updCtx s l t k fun c => { c with frozen := some (.firing, 0) }) l r

/-- A fault that stops nothing: a token that is discarded, a check of CSWAP (R384). -/
def noteFault (s : State) (l : Nat) (t k : Nat) (cause : Nat) (g : FRec → FRec := id) : State :=
  raise s l (g { FRec.zero with source := 1, cause := cause, tile := some t, ctx := k })

/-- A context is frozen outside a word of a firing: before a close or a round, or at a word of its configuration that is damaged
(R143, R148, R384). -/
def freezeAt (s : State) (l t k : Nat) (c : Ctx) (cause : Nat) (f : Frozen) (g : FRec → FRec := id) : State :=
  raise (updCtx s l t k fun c => { c with frozen := some (f, 0) }) l (g { FRec.zero with
    source := 1, cause := cause, ctx := k, tile := some t, ports := portFill c, freezes := true })

/-! ### Traps -/

/-- Is an address in the program region of the lease (R254)? -/
def inRegion (ls : Lease) (a : Nat) : Bool :=
  ls.lrec.image + ls.img.seq ≤ a && a < ls.lrec.image + ls.img.seq + ls.img.seqlen

/-- An unhandled trap (R291, R390): the sequencer stops, MSI-X and UNHANDLED_TRAP are raised. -/
def unhandled (s : State) (l : Nat) (rep : Bool) (cause : Nat) : State :=
  match leaseOf s l with
  | none => s
  | some ls =>
    let s1 := updLease (updSeq s l rep fun q => { q with stopped := true }) l fun ls => { ls with unhandled := true }
    pfEvent (emit s1 (.msix (.vf ls.tenant) 0)) 0x06 ls.tenant l (anchorDie ls) cause 0 0

/-- What a trap keeps of an interrupted instruction: CSWAP and DRAIN resume (R290). -/
def keepOp (q : Seq) : Option (Nat × SeqOp) :=
  match q.op with
  | .cswap .. => some (q.pc, q.op)
  | .drain _ => some (q.pc, q.op)
  | _ => q.saved

/-- TAKING A TRAP (R290, R388): EPC receives the return address, ECAUSE and EADDR the source, cause,
code and fault address of the record, INTRAP becomes 1 and the PC goes to TVEC. A TVEC outside the
program region makes the trap unhandled. -/
def takeTrap (s : State) (l : Nat) (rep : Bool) (epc : Nat) (r : FRec) : State :=
  match leaseOf s l with
  | none => s
  | some ls =>
    let q := seqOf ls rep
    if q.tvec = 0 || q.intrap || !inRegion ls q.tvec then unhandled s l rep r.cause
    else
      updSeq s l rep fun q =>
        { q with
          epc := epc
          ecause := BitVec.ofNat 26 (r.code * 2 ^ 16 + r.source * 256 + r.cause)
          eaddr := BitVec.ofNat 64 r.faddr
          intrap := true
          saved := keepOp q
          op := .none
          pc := q.tvec }

/-- RETURN FROM A TRAP (R289): the PC goes to EPC and INTRAP becomes 0; what an interrupted CSWAP or DRAIN
at EPC had done is kept (R290). -/
def trapReturn (q : Seq) : Seq :=
  { q with
    pc := q.epc
    intrap := false
    op := .none
    saved := if q.saved.map (·.1) = some q.epc then q.saved else .none
    instr := q.instr + 1 }

/-- A fault of a sequencer instruction (R290): its record enters the mailbox and the trap is taken
with EPC at the instruction. The record taken is the oldest one that waits (R388). -/
def seqFaultG (s : State) (l : Nat) (rep : Bool) (cause faddr : Nat) (g : FRec → FRec) : State :=
  match leaseOf s l with
  | none => s
  | some ls =>
    let q := seqOf ls rep
    let a := anchorDie ls
    let r := g { FRec.zero with
      source := 0, cause := cause, faddr := faddr, pc := q.pc, opword := q.word, time := stamp (tickOf s a) a }
    let s0 := if rep then s else countPoison s ls.tenant cause
    let s1 :=
      if rep then s0
      else if ls.mput - ls.mdone < 63 && ls.recs.isEmpty then postRec s0 l r
      else updLease s0 l fun ls => { ls with recs := ls.recs ++ [r] }
    if q.intrap then unhandled s1 l rep cause
    else
      let r' := match leaseOf s1 l with
        | some ls1 => mget r ls1.posted ls1.mdone
        | none => r
      takeTrap s1 l rep q.pc r'

/-- A fault of a sequencer instruction with a cause and a fault address. -/
def seqFault (s : State) (l : Nat) (rep : Bool) (cause faddr : Nat) : State := seqFaultG s l rep cause faddr id

end Sys2Proof.Machine
end

