-- ==== Sys2Proof/Machine/Flags.lean ====
section
/-! DEFINITION. The flags of ESTAT (R197, R198) and the way an operation raises them. -/

namespace Sys2Proof.Machine

/-- A set of flags as ESTAT [4:0] holds it: NV, DZ, OF, UF, NX from bit 4 down (R197). -/
abbrev Flg := BitVec 5

/-- Invalid operation. -/
def fNV : Flg := 16
/-- Division by zero or a pole. -/
def fDZ : Flg := 8
/-- Overflow: OF with NX (R198). -/
def fOF : Flg := 5
/-- The OF bit alone, for a saturating accumulator (R215). -/
def fOFonly : Flg := 4
/-- Tiny and inexact: UF with NX. -/
def fUF : Flg := 3
/-- Inexact. -/
def fNX : Flg := 1

/-- A flag where a condition holds. -/
def flagIf (b : Bool) (f : Flg) : Flg := if b then f else 0

/-- The OR of a list of flags (R198). -/
def orFlags (l : List Flg) : Flg := l.foldl (· ||| ·) 0

/-- Flags are added to ESTAT; they are sticky (R197, R198). -/
def addFlags (c : Ctx) (f : Flg) : Ctx := { c with estat := c.estat ||| f.zeroExtend 32 }

end Sys2Proof.Machine
end

