-- ==== Sys2Proof/Machine/Translate.lean ====
section
/-! DEFINITION. Translation of tenant virtual addresses: the range tree (R35 to R41), radix tables
(R40), the host range table (R44, R45), attribute checks (R39, R52), tenant checks (R53, R54) and the
entries of the TLB slices with their descriptor stores (R49). -/

namespace Sys2Proof.Machine

/-- An access that writes. -/
def Acc.writes : Acc → Bool
  | .rd => false
  | _ => true
/-- An access that reads. -/
def Acc.reads : Acc → Bool
  | .wr => false
  | _ => true

/-- Bits `[lo+n-1:lo]` as a number. -/
def bits (w lo n : Nat) : Nat := w / 2 ^ lo % 2 ^ n

/-- Bits of the leaf attributes, ATTR from bit 0: R, W, VERSIONED, SCRATCH, HOST, MIGRATE, PIN (R37). -/
def aR (a : BitVec 7) : Bool := a.getLsbD 0
def aW (a : BitVec 7) : Bool := a.getLsbD 1
def aVER (a : BitVec 7) : Bool := a.getLsbD 2
def aSCR (a : BitVec 7) : Bool := a.getLsbD 3
def aHOST (a : BitVec 7) : Bool := a.getLsbD 4
def aMIG (a : BitVec 7) : Bool := a.getLsbD 5
def aPIN (a : BitVec 7) : Bool := a.getLsbD 6

/-- The outcome of a translation. -/
inductive Tr
  /-- Serving place, versioned page. -/
  | ok (loc : Loc) (ver : Bool)
  /-- Cause; GPA of a malformed node, or of the refused stage-2 access. -/
  | fault (cause : Nat) (node : Option Nat) (gpa : Option Nat)
  /-- A not-present radix entry at a GPA; level 3; in a leaf with PIN (R40, R60). -/
  | absent (entry : Nat) (leaf pin : Bool)
  deriving DecidableEq, Repr

/-- Place `o` bytes further on. -/
def locAdd : Loc → Nat → Loc
  | .mem p, o => .mem (p + o)
  | .host p, o => .host (p + o)
  | .peer k p, o => .peer k (p + o)
  | .tile t p, o => .tile t (p + o)
  | .none, _ => .none

/-- A dword that a unit of the device reads. -/
def devDword (s : State) (loc : Loc) (o : Nat) : Nat := leNat (devRd s (locAdd loc o) 8).1

/-- Do the tenant checks or grants cover an address for a tenant (R53, R54)? -/
def tenantOk (s : State) (tenant pa : Nat) : Bool :=
  256 ≤ tenant ||
    (if pa < scratchBase then s.tenantChecks else s.scratchGrants).any fun g =>
      g.tenant == tenant && g.base ≤ pa && pa < g.base + g.len

/-- A host range table entry (R44): valid, write, read, GBASE, GLEN, DBASE. -/
structure S2Ent where
  w : Bool
  r : Bool
  gbase : Nat
  glen : Nat
  dbase : Nat

/-- Entry `i` of the host range table. -/
def s2Ent (s : State) (v : Vf) (i : Nat) : Option S2Ent :=
  match locOf s.boot (bits v.s2base.toNat 12 36 * 4096 + 32 * i) with
  | none => none
  | some lc =>
    let d0 := devDword s lc 0
    let e : S2Ent := ⟨d0.testBit 62, d0.testBit 61, bits d0 16 32 * 65536, bits (devDword s lc 8) 0 48,
      bits (devDword s lc 16) 16 32 * 65536⟩
    if d0.testBit 63 then some e else none

/-- The valid entry that covers a GPA (R45). -/
def s2Find (s : State) (v : Vf) (g : Nat) : Option S2Ent :=
  let n := bits v.s2base.toNat 48 11
  if v.s2base.getLsbD 63 && 1 ≤ n && n ≤ 1024 then
    (List.range n).findSome? fun i => match s2Ent s v i with
      | some e => if e.gbase ≤ g && g < e.gbase + e.glen then some e else none
      | none => none
  else none

/-- Stage 2 of one GPA (R45): the device physical address, or none for STAGE2. -/
def stage2 (s : State) (v : Vf) (g : Nat) (a : Acc) : Option Nat :=
  match s2Find s v g with
  | none => none
  | some e =>
    if (a.reads && !e.r) || (a.writes && !e.w) then none
    else
      let d := e.dbase + (g - e.gbase)
      if (locOf s.boot d).isSome then some d else none

/-- Stage 2 for `n` bytes that a walker reads or writes, with the tenant check of every block that they touch (R45, R51, R53,
R54). -/
def walkLoc (s : State) (tenant : Nat) (v : Vf) (g n : Nat) (a : Acc) : Except Tr Loc :=
  match stage2 s v g a with
  | none => .error (.fault cSTAGE2 none (some g))
  | some d =>
    match locOf s.boot d with
    | some (.mem p) =>
      if (unitsOf 2048 p n).all fun k => tenantOk s tenant (max p (k * 2048)) then .ok (.mem p) else .error (.fault cTENANT none none)
    | some lc => .ok lc
    | none => .error (.fault cSTAGE2 none (some g))

/-- What a read of `n` bytes does beside its value. -/
def devTouch (s : State) (lc : Loc) (n : Nat) : State := (devGet s lc n).2.2

/-- A walker's read at a GPA passes through the LLC with the entry of the host range table that covers it (R48, R460). -/
def walkTouch (s : State) (v : Vf) (g n : Nat) (lc : Loc) : State :=
  let tab := bits v.s2base.toNat 12 36 * 4096
  let hit (i : Nat) : Bool := match s2Ent s v i with
    | some e => e.gbase ≤ g && g < e.gbase + e.glen
    | none => false
  let s1 := match ((List.range (bits v.s2base.toNat 48 11)).find? hit).bind fun i => locOf s.boot (tab + 32 * i) with
    | some t => devTouch s t 32
    | none => s
  devTouch s1 lc n

/-- A leaf record (R37). -/
structure Leaf where
  ty : Nat
  vbase : Nat
  attr : BitVec 7
  len : Nat
  target : Nat
  ext : List Nat
  str : List Nat

/-- Attribute combinations that R39 allows. -/
def attrOk (ty : Nat) (a : BitVec 7) : Bool :=
  (!aW a || aR a) && (!aVER a || (!aHOST a && !aSCR a)) && (!aSCR a || ty == 1) &&
  (!aHOST a || ty == 1) && (!aMIG a || ty == 3) && (!aPIN a || ty == 3)

/-- Limits of a leaf record (R38, R41). DESIGN CHOICE: a TYPE of 4 to 255, which R37 does not name, is malformed (log 102). -/
def leafOk (l : Leaf) : Bool :=
  l.vbase % 65536 == 0 && l.len % 65536 == 0 && l.len != 0 && attrOk l.ty l.attr &&
  (match l.ty with
   | 1 => l.target % 65536 == 0
   | 2 => l.ext.all (1 ≤ ·) && l.ext.getD 0 0 % 128 == 0 && l.str.all (· % 128 == 0) &&
          l.target % 128 == 0 && l.ext.foldl (· * ·) 1 == l.len
   | 3 => l.len ≤ 2 ^ 43 && l.target % 4096 == 0
   | _ => false)

/-- The record in slot `i` of a leaf node; none when a reserved field is set. -/
def rdLeaf (s : State) (nd : Loc) (i : Nat) : Option Leaf :=
  let d (j : Nat) : Nat := devDword s nd (64 * i + 8 * j)
  let ty := bits (d 0) 56 8
  let tile := ty == 2
  let okRes := !(d 1).testBit 63 && bits (d 2) 48 16 == 0 &&
    (if tile then bits (d 5) 48 16 == 0 && bits (d 6) 48 16 == 0 && bits (d 7) 48 16 == 0
     else d 3 == 0 && d 4 == 0 && d 5 == 0 && d 6 == 0 && d 7 == 0)
  if okRes then
    some ⟨ty, bits (d 0) 0 56, BitVec.ofNat 7 (bits (d 1) 56 7), bits (d 1) 0 56, bits (d 2) 0 48,
      if tile then [bits (d 3) 0 32, bits (d 3) 32 32, bits (d 4) 0 32, bits (d 4) 32 32] else [],
      if tile then [d 5, d 6, d 7] else []⟩
  else none

/-- Rising keys. -/
def rising : List Nat → Bool
  | [] => true
  | [_] => true
  | a :: b :: r => decide (a < b) && rising (b :: r)

/-- Descent of the range tree from a node (R35 to R37, R41). DEDUCED: an access meets an overlap of records when the
record that it selects is one of them. -/
def walkTree (tenant : Nat) (v : Vf) (va : Nat) : Nat → Nat → Option Nat → State → Except Tr Leaf × State
  | 0, node, _, s => (.error (.fault cTRANS (some node) none), s)
  | fuel + 1, node, level, s =>
    match walkLoc s tenant v node 4096 .rd with
    | .error e => (.error e, s)
    | .ok nd =>
      let s' := walkTouch s v node 4096 nd
      let h := devDword s nd 0
      let lv := bits h 40 8
      let n := bits h 8 8
      let c0 := devDword s nd 8
      let lo := devDword s nd 16
      let hi := devDword s nd 24
      let bad : Except Tr Leaf := .error (.fault cTRANS (some node) none)
      let hole : Except Tr Leaf := .error (.fault cTRANS none none)
      let hdr := bits h 48 16 == 0xB7E3 && bits h 16 24 == 0 && n ≤ 63 && lo % 65536 == 0 && hi % 65536 == 0 &&
        (List.range 4).all (fun j => devDword s nd (32 + 8 * j) == 0) &&
        (match level with
         | none => lv ≤ 7
         | some l => lv == l) &&
        (if lv == 0 then bits h 0 8 == 2 && c0 == 0 else bits h 0 8 == 1 && bits c0 0 12 == 0 && bits c0 48 16 == 0)
      if !hdr then (bad, s')
      else if lv == 0 then
        let vb := (List.range n).map fun i => bits (devDword s nd (64 * (i + 1))) 0 56
        let ends := (List.range n).map fun i =>
          bits (devDword s nd (64 * (i + 1))) 0 56 + bits (devDword s nd (64 * (i + 1) + 8)) 0 56
        let apart (i : Nat) : Bool := n ≤ i + 1 || decide (ends.getD i 0 ≤ vb.getD (i + 1) 0)
        if !rising vb then (bad, s')
        else
          match (vb.filter (· ≤ va)).length with
          | 0 => (hole, s')
          | i + 1 =>
            if !(apart i && (i == 0 || apart (i - 1))) then (bad, s')
            else match rdLeaf s nd (i + 1) with
            | none => (bad, s')
            | some lf =>
              if lf.ty == 0 then (hole, s')
              else if !leafOk lf then (bad, s')
              else if va < lf.vbase + lf.len then (.ok lf, s')
              else (hole, s')
      else
        let keys := (List.range n).map fun i => devDword s nd (64 * (i + 1))
        let res := (List.range n).all fun i =>
          let c := devDword s nd (64 * (i + 1) + 8)
          bits c 0 12 == 0 && bits c 48 16 == 0 &&
            (List.range 6).all fun j => devDword s nd (64 * (i + 1) + 16 + 8 * j) == 0
        if !(rising keys && keys.all (· % 65536 == 0) && res) then (bad, s')
        else
          match (keys.filter (· ≤ va)).length with
          | 0 => walkTree tenant v va fuel c0 (some (lv - 1)) s'
          | i + 1 => walkTree tenant v va fuel (devDword s nd (64 * (i + 1) + 8)) (some (lv - 1)) s'

/-- A radix entry's fields are well formed (R40, R41). DESIGN CHOICE: H or D in an entry of level 1 or 2, where R40 gives them no
meaning, is malformed (log 103). -/
def radixOk (lvl e : Nat) : Bool :=
  bits e 48 12 == 0 && bits e 0 12 == 0 &&
  (if lvl == 3 then e.testBit 62 || bits e 12 4 == 0 else !e.testBit 62 && !e.testBit 61)

/-- The radix walk of R40 from a table at a level: the frame's GPA and the entry's GPA. -/
def walkRadix (tenant : Nat) (v : Vf) (page : Nat) (pin : Bool) :
    Nat → Nat → Nat → State → Except Tr (Nat × Nat) × State
  | 0, tbl, _, s => (.error (.fault cTRANS (some tbl) none), s)
  | fuel + 1, tbl, lvl, s =>
    let ea := tbl + 8 * (page / 512 ^ (3 - lvl) % 512)
    match walkLoc s tenant v ea 8 .rd with
    | .error e => (.error e, s)
    | .ok lc =>
      let e := devDword s lc 0
      let s' := walkTouch s v ea 8 lc
      if !radixOk lvl e then (.error (.fault cTRANS (some tbl) none), s')
      else if !e.testBit 63 || (lvl == 3 && e.testBit 62) then (.error (.absent ea (lvl == 3) pin), s')
      else if lvl == 3 then (.ok (bits e 12 36 * 4096, ea), s')
      else walkRadix tenant v page pin fuel (bits e 12 36 * 4096) (lvl + 1) s'

/-- The GPA at offset `o` of a tensor of extents and strides at `base` (R38). -/
def tileGpa (base : Nat) (ext str : List Nat) (o : Nat) : Nat :=
  let e (j : Nat) : Nat := ext.getD j 1
  let q1 := o / e 0
  let q2 := q1 / e 1
  base + o % e 0 + q1 % e 1 * str.getD 0 0 + q2 % e 2 * str.getD 1 0 + q2 / e 2 * str.getD 2 0
/-- GPA of a covered address in a RANGE or TILE leaf (R38). -/
def leafGpa (lf : Leaf) (va : Nat) : Nat :=
  if lf.ty == 2 then tileGpa lf.target lf.ext lf.str (va - lf.vbase) else lf.target + (va - lf.vbase)
/-- The last GPA of a TILE leaf (R38). -/
def leafLast (lf : Leaf) : Nat :=
  let e (j : Nat) : Nat := lf.ext.getD j 1 - 1
  lf.target + e 0 + e 1 * lf.str.getD 0 0 + e 2 * lf.str.getD 1 0 + e 3 * lf.str.getD 2 0

/-- Attribute check of an access (R52). -/
def permOk (a : BitVec 7) (x : Acc) : Bool := (!x.reads || aR a) && (!x.writes || (aW a && (x != .rw || aR a)))

/-- The place of a device physical address for a leaf, under the window rules of SCRATCH and HOST (R45). -/
def landing (s : State) (attr : BitVec 7) (g d : Nat) : Tr :=
  match locOf s.boot d with
  | none => .fault cSTAGE2 none (some g)
  | some lc =>
    if (aSCR attr && !inScratch s.boot d) || (aHOST attr && !inHost d) then .fault cSTAGE2 none (some g) else .ok lc (aVER attr)

/-- Stage 2 of the data access (R45). -/
def finish (s : State) (v : Vf) (attr : BitVec 7) (g : Nat) (x : Acc) : Tr :=
  match stage2 s v g x with
  | none => .fault cSTAGE2 none (some g)
  | some d => landing s attr g d

/-- The D bit of a radix entry is set by the first write through it, once the write has passed both stages; a store of the bit that
is refused refuses the write (R40, R51; log 104). -/
def setDirty (s : State) (tenant die : Nat) (v : Vf) (ea : Nat) : Except Tr State :=
  match walkLoc s tenant v ea 8 .rw with
  | .error e => .error e
  | .ok lc =>
    let e := devDword s lc 0
    if e.testBit 61 then .ok s else .ok (devWr s (hostTag s tenant die) lc (leBytes 8 (e + 2 ^ 61)) (List.replicate 8 false))

/-- Is `t` a place? -/
def Tr.isOk : Tr → Bool
  | .ok .. => true
  | _ => false

/-- The offset between device and guest addresses of stage 2 over `[g, hi]`, with its permissions, where one contiguous range
answers for all of it (R49). -/
def s2Span (s : State) (v : Vf) (hi : Nat) (e0 : S2Ent) : Nat → Nat → Bool
  | 0, _ => false
  | fuel + 1, g =>
    match s2Find s v g with
    | none => false
    | some e =>
      e.r == e0.r && e.w == e0.w && decide (e.dbase + e0.gbase = e0.dbase + e.gbase) &&
        (decide (hi < e.gbase + e.glen) || s2Span s v hi e0 fuel (e.gbase + e.glen))

/-- What a slice may keep of a walk: the entry of a page, and the descriptor of a TILE leaf. -/
abbrev Keep := Option (TlbEnt × Option TileDesc)

/-- The entry of a page whose bytes stand at `g` in guest physical space. -/
def keepPage (s : State) (v : Vf) (ty : Nat) (attr : BitVec 7) (g ea : Nat) (dirty : Bool) : Keep :=
  match s2Find s v g with
  | some e => some (⟨ty, attr, g, e.dbase + (g - e.gbase), e.r, e.w, dirty, ea, 0⟩, none)
  | none => none
/-- The entry of a page of a TILE leaf, where its stage-2 image is one contiguous range (R49). -/
def keepTile (s : State) (v : Vf) (lf : Leaf) : Keep :=
  match s2Find s v lf.target with
  | some e =>
    if s2Span s v (leafLast lf) e 1024 lf.target then
      some (⟨2, lf.attr, 0, 0, e.r, e.w, true, 0, 0⟩, some ⟨lf.vbase, lf.ext, lf.str, lf.target, e.dbase + (lf.target - e.gbase)⟩)
    else none
  | none => none

/-- The end of a translation: for a write through a radix entry without D, the D bit (R40). -/
def withDirty (s : State) (tenant die : Nat) (v : Vf) (ea : Nat) (t : Tr) : Tr × State :=
  if t.isOk then (match setDirty s tenant die v ea with
    | .ok s1 => (t, s1)
    | .error e => (e, s))
  else (t, s)

/-- A full walk of one address (R34): the result, the state after it, and what the slice may keep; `die` is that of the walker. `setD` is false while the parts
of an access are checked, for run-ahead loads and for PREF (R52, R65, R343). -/
def walk (s : State) (tenant die va : Nat) (x : Acc) (setD : Bool) : Tr × State × Keep :=
  let v := vfOf s tenant
  match walkTree tenant v va 8 (bits v.root.toNat 12 36 * 4096) none s with
  | (.error e, s1) => (e, s1, none)
  | (.ok lf, s1) =>
    if !permOk lf.attr x then (.fault cPERM none none, s1, none)
    else if lf.ty == 3 then
      match walkRadix tenant v ((va - lf.vbase) / 65536) (aPIN lf.attr) 3 lf.target 1 s1 with
      | (.error e, s2) => (e, s2, none)
      | (.ok (fr, ea), s2) =>
        let t := finish s2 v lf.attr (fr + va % 65536) x
        let (t', s3) := if setD && x.writes then withDirty s2 tenant die v ea t else (t, s2)
        (t', s3, keepPage s3 v 3 lf.attr fr ea (setD && x.writes && t'.isOk))
    else
      let t := finish s1 v lf.attr (leafGpa lf va) x
      (t, s1, if lf.ty == 2 then keepTile s1 v lf else keepPage s1 v 1 lf.attr (leafGpa lf (va / 65536 * 65536)) 0 true)

/-- Guest and device physical address of `va` under a cached entry of slice `k` (R49). -/
def tlbPlace (ls : Lease) (k : Nat) (e : TlbEnt) (va : Nat) : Nat × Nat :=
  if e.ty == 2 then
    match mfind ls.tdesc (k * 16 + e.desc) with
    | some d =>
      let g := tileGpa d.gbase d.ext d.str (va - d.vbase)
      (g, d.dbase + (g - d.gbase))
    | none => (0, 0)
  else (e.gbase + va % 65536, e.dbase + va % 65536)

/-- The answer of a cached entry (R49). -/
def tlbAnswer (s : State) (ls : Lease) (k : Nat) (e : TlbEnt) (va : Nat) (x : Acc) : Tr :=
  let (g, d) := tlbPlace ls k e va
  if !permOk e.attr x then .fault cPERM none none
  else if (x.reads && !e.s2r) || (x.writes && !e.s2w) then .fault cSTAGE2 none (some g)
  else landing s e.attr g d

/-- Slice of an address of a lease (R47). -/
def sliceAt (ls : Lease) (va : Nat) : Nat := sliceOf va (granules ls)

/-- Die of that slice. -/
def sliceDie (ls : Lease) (va : Nat) : Nat := tileDie ls (sliceTile ls (sliceAt ls va))

/-- A descriptor enters the store of slice `k`: its place, beside a like one, in a free place or over a free victim, whose entries
go (R49, log 9). -/
def descFill (ls : Lease) (nonce k : Nat) (d : TileDesc) : Nat × Lease :=
  let at_ (i : Nat) : Option TileDesc := mfind ls.tdesc (k * 16 + i)
  match (List.range 16).find? fun i => at_ i == some d with
  | some i => (i, ls)
  | none =>
    match (List.range 16).find? fun i => (at_ i).isNone with
    | some i => (i, { ls with tdesc := mput ls.tdesc (k * 16 + i) d })
    | none =>
      let i := Config.tlbVictim nonce % 16
      (i, { ls with
        tdesc := mput ls.tdesc (k * 16 + i) d
        tlb := ls.tlb.filter fun e => !(sliceAt ls (e.1 * 65536) == k && e.2.ty == 2 && e.2.desc == i) })

/-- A slice takes an entry, replacing one of its 256 when full (R49; the victim is free, log 9). -/
def tlbFill (ls : Lease) (nonce page : Nat) (e : TlbEnt) (d : Option TileDesc) : Lease :=
  let k := sliceAt ls (page * 65536)
  let (i, ls1) := match d with
    | some d => descFill ls nonce k d
    | none => (0, ls)
  let mine := ls1.tlb.filter fun p => sliceAt ls (p.1 * 65536) == k
  let tlb := if mine.length < 256 || (mfind ls1.tlb page).isSome then ls1.tlb
    else mdel ls1.tlb (mine.getD (Config.tlbVictim nonce % mine.length) (0, e)).1
  { ls1 with tlb := mput tlb page { e with desc := i } }

/-- Is stage 2 of a function enabled, with a table (R46)? -/
def s2On (v : Vf) : Bool := v.s2base.getLsbD 63 && 1 ≤ bits v.s2base.toNat 48 11 && bits v.s2base.toNat 48 11 ≤ 1024

/-- Translation of one address for lease `l`: the slice's entry, or a walk that fills it (R48, R49). Cached entries serve only while
both stages are enabled (R46). -/
def translate (s : State) (l va : Nat) (x : Acc) (setD : Bool) : Tr × State :=
  match leaseOf s l with
  | none => (.fault cTRANS none none, s)
  | some ls =>
    let v := vfOf s ls.tenant
    if 2 ^ 56 ≤ va || !v.root.getLsbD 63 then (.fault cTRANS none none, s)
    else
      match (if s2On v then mfind ls.tlb (va / 65536) else none) with
      | some e =>
        let t := tlbAnswer s ls (sliceAt ls va) e va x
        if x.writes && !e.dirty && setD then
          let (t', s1) := withDirty s ls.tenant (sliceDie ls va) v e.entry t
          (t', if t'.isOk then updLease s1 l fun ls => { ls with tlb := mmod ls.tlb (va / 65536) fun e => { e with dirty := true } } else s1)
        else (t, s)
      | none =>
        let (t, s1, k) := walk s ls.tenant (sliceDie ls va) va x setD
        match k with
        | some (e, d) => (t, bump (updLease s1 l fun ls => tlbFill ls s.nonce (va / 65536) e d))
        | none => (t, s1)

/-- A refusal by the tenant checks is counted for the function (R53, R429). -/
def countRefusal (s : State) (tenant : Nat) : State :=
  if tenant < 256 then updVf s tenant fun v => { v with tccnt := satInc v.tccnt 32 } else s

/-- What a failed translation leaves beside the fault: TREE_MALFORMED (R41), the GPA of a refused stage-2 access for the PF (R45), the
count of a walker's refusal by the tenant checks (R53). -/
def transEvents (s : State) (tenant l : Nat) (t : Tr) : State :=
  match t with
  | .fault c node g =>
    let s1 := match node with
      | some n => pfEvent s 0x02 tenant l 0xFF 0 n 0
      | none => s
    let s2 := match g with
      | some g => emit s1 (.stage2 tenant g)
      | none => s1
    if c = cTENANT then countRefusal s2 tenant else s2
  | _ => s

/-- A fault token reaches the pager of the slice's die (R60): a new job, by its number. -/
def newJob (s : State) (l va : Nat) (x : Acc) (entry : Nat) (leaf pin : Bool) (st : JSt) : State × Nat :=
  match leaseOf s l with
  | none => (s, 0)
  | some ls =>
    let j : Job :=
      { tenant := ls.tenant, lease := l, die := sliceDie ls va, va := va, acc := x, entry := entry,
        leaf := leaf, pin := pin, claimed := false, frame := none, st := st, since := s.wall, parked := false }
    ({ s with jobs := mput s.jobs s.nextId j, nextId := s.nextId + 1 }, s.nextId)

/-- An ATS miss on a page of the host: the Page Request leaves, and the access waits for its answer (R57). -/
def pageRequest (s : State) (l va : Nat) (x : Acc) : State × Nat :=
  let (s1, j) := newJob (bump s) l va x 0 false false .priWait
  (emit s1 (.pri j va), j)
/-- Does an access to the host window meet an ATS miss (R56, R57)? -/
def atsMissed (s : State) (tenant : Nat) (lc : Loc) : Bool :=
  match lc with
  | .host _ => (vfOf s tenant).hostctl.getLsbD 63 && Config.atsMiss s.nonce
  | _ => false

/-- Bytes of an address range line by line: start and length. -/
def lineRuns (va n : Nat) : List (Nat × Nat) :=
  (unitsOf 128 va n).map fun k =>
    let lo := max va (k * 128)
    (lo, min (va + n) (k * 128 + 128) - lo)

end Sys2Proof.Machine
end

