-- ==== Sys2Proof/Machine/Num.lean ====
section
/-! DEFINITION. Number formats (R191, R193, R194): exact values, the one rounding of every result (R195,
R206, R209), the functions of R196 and R213, conversions (R210), the stochastic generator (R207), modular
arithmetic (R216) and block floating point (R201 to R204). -/

namespace Sys2Proof.Machine

/-! ### Formats and exact values -/

/-- A floating-point format (R193): exponent bits, fraction bits, bias; `fin8`: E4M3 without infinities. -/
structure FFmt where
  ebits : Nat
  p : Nat
  bias : Nat
  fin8 : Bool
  deriving DecidableEq, Repr

/-- The formats of R193. -/
def f32 : FFmt := ⟨8, 23, 127, false⟩
def bf16 : FFmt := ⟨8, 7, 127, false⟩
def f16 : FFmt := ⟨5, 10, 15, false⟩
def e5m2 : FFmt := ⟨5, 2, 15, false⟩
def e4m3 : FFmt := ⟨4, 3, 7, true⟩

/-- Bits of the format. -/
def FFmt.width (f : FFmt) : Nat := 1 + f.ebits + f.p
/-- Canonical NaN (R193, R194). -/
def FFmt.nan (f : FFmt) : Nat := if f.fin8 then 0x7F else (2 ^ f.ebits - 1) * 2 ^ f.p + 2 ^ (f.p - 1)
/-- Pattern of +∞; E4M3 has none and gives NaN. -/
def FFmt.inf (f : FFmt) : Nat := if f.fin8 then 0x7F else (2 ^ f.ebits - 1) * 2 ^ f.p
/-- Pattern of the largest finite value (R193). -/
def FFmt.maxBits (f : FFmt) : Nat := if f.fin8 then 0x7E else (2 ^ f.ebits - 1) * 2 ^ f.p - 1
/-- Largest finite value as significand and exponent. -/
def FFmt.maxVal (f : FFmt) : Nat × Int :=
  if f.fin8 then (14, 5) else (2 ^ (f.p + 1) - 1, (2 ^ f.ebits - 2 : Nat) - (f.bias : Int) - f.p)
/-- Exponent of the least subnormal bit. -/
def FFmt.qmin (f : FFmt) : Int := 1 - (f.bias : Int) - f.p

/-- A value: NaN (signalling), infinity, or (−1)^neg · m · 2^e. -/
inductive FV
  | nan (sig : Bool)
  | inf (neg : Bool)
  | fin (neg : Bool) (m : Nat) (e : Int)
  deriving DecidableEq, Repr

/-- The sign bit. -/
def signOf (f : FFmt) (x : Nat) : Bool := x.testBit (f.ebits + f.p)

/-- The value of a pattern (R193). -/
def decF (f : FFmt) (x : Nat) : FV :=
  let neg := signOf f x
  let ex := bits x f.p f.ebits
  let fr := bits x 0 f.p
  if f.fin8 then
    if ex = 15 && fr = 7 then .nan false
    else if ex = 0 then .fin neg fr f.qmin
    else .fin neg (2 ^ f.p + fr) ((ex : Int) - f.bias - f.p)
  else if ex = 2 ^ f.ebits - 1 then
    if fr = 0 then .inf neg else .nan (!fr.testBit (f.p - 1))
  else if ex = 0 then .fin neg fr f.qmin
  else .fin neg (2 ^ f.p + fr) ((ex : Int) - f.bias - f.p)

/-- Sign bit put over a pattern. -/
def withSign (f : FFmt) (neg : Bool) (x : Nat) : Nat := if neg then x + 2 ^ (f.ebits + f.p) else x

/-- Number of bits of a natural number. -/
def bitLen (n : Nat) : Nat := if n = 0 then 0 else Nat.log2 n + 1

/-! ### Rounding -/

/-- Rounding modes of R206. -/
inductive RMode | rne | rtz | rdn | rup | rna | sr
  deriving DecidableEq, Repr

/-- The mode of a CRND code (R205). -/
def rmodeOf (n : Nat) : RMode :=
  match n with
  | 1 => .rtz | 2 => .rdn | 3 => .rup | 4 => .rna | 5 => .sr | _ => .rne

/-- An exact value m · 2^e, or with `st` one strictly between m and m + 1 units, cut at exponent `q`: the
integer part, and whether the mode takes the larger magnitude; `inex`: something was cut (R206, R207). -/
def cut (mode : RMode) (neg : Bool) (m : Nat) (e : Int) (st : Bool) (q : Int) (draw : Nat) : Nat × Bool × Bool :=
  if q ≤ e then (m * 2 ^ (e - q).toNat, st, st && mode == .rup && !neg || st && mode == .rdn && neg)
  else
    let s := (q - e).toNat
    let n := m / 2 ^ s
    let r := m % 2 ^ s
    let inex := r != 0 || st
    let up := match mode with
      | .rne => decide (2 ^ s < 2 * r) || (decide (2 * r = 2 ^ s) && (st || n % 2 == 1))
      | .rtz => false
      | .rdn => neg && inex
      | .rup => !neg && inex
      | .rna => decide (2 ^ s ≤ 2 * r)
      | .sr => decide (2 ^ 16 ≤ r * 2 ^ 16 / 2 ^ s + draw)
    (n, inex, up)

/-- Comparison a · 2^x > b · 2^y. -/
def dyGt (a : Nat) (x : Int) (b : Nat) (y : Int) : Bool :=
  if y ≤ x then decide (b < a * 2 ^ (x - y).toNat) else decide (b * 2 ^ (y - x).toNat < a)

/-- The result of an overflow (R209). -/
def overflowBits (f : FFmt) (mode : RMode) (sat neg : Bool) : Nat :=
  if sat then withSign f neg f.maxBits
  else if f.fin8 then f.nan
  else match mode with
    | .rtz => withSign f neg f.maxBits
    | .rdn => if neg then withSign f neg f.inf else f.maxBits
    | .rup => if neg then withSign f neg f.maxBits else f.inf
    | _ => withSign f neg f.inf

/-- THE rounding of an exact value to a format, with its flags (R195, R206, R209). -/
def roundF (f : FFmt) (mode : RMode) (sat : Bool) (draw : Nat) (neg : Bool) (m : Nat) (e : Int) (st : Bool) : Nat × Flg :=
  if m = 0 && !st then (withSign f neg 0, 0)
  else
    let top : Int := (bitLen m : Int) + e
    let qn := top - 1 - f.p
    let q := max qn f.qmin
    let (n, inex, up) := cut mode neg m e st q draw
    let n' := n + (if up then 1 else 0)
    if dyGt n' q f.maxVal.1 f.maxVal.2 then (overflowBits f mode sat neg, fOF)
    else
      let (t, _, tup) := cut mode neg m e st qn draw
      let tiny := !dyGt ((t + (if tup then 1 else 0)) * 2 + 1) (qn - 1) 1 (1 - (f.bias : Int))
      let b := ((q + f.p + f.bias - 1).toNat) * 2 ^ f.p + n'
      (withSign f neg b, if tiny && inex then fUF else flagIf inex fNX)

/-- Rounding of an arithmetic result: to nearest even (R195). -/
def rne (f : FFmt) (neg : Bool) (m : Nat) (e : Int) (st : Bool) : Nat × Flg := roundF f .rne false 0 neg m e st

/-- NV of a signalling NaN (R194). -/
def sigFlag (l : List FV) : Flg := flagIf (l.any fun v => v == .nan true) fNV
/-- Any NaN? -/
def anyNan (l : List FV) : Bool := l.any fun v => match v with
  | .nan _ => true
  | _ => false

/-! ### Arithmetic -/

/-- Exact sum of two finite values (R195: a zero sum is −0 only when both are). -/
def addFin (n1 : Bool) (m1 : Nat) (e1 : Int) (n2 : Bool) (m2 : Nat) (e2 : Int) : Bool × Nat × Int :=
  let e := min e1 e2
  let sg (n : Bool) (v : Nat) : Int := if n then -(v : Int) else v
  let v := sg n1 (m1 * 2 ^ (e1 - e).toNat) + sg n2 (m2 * 2 ^ (e2 - e).toNat)
  (if v = 0 then n1 && n2 else decide (v < 0), v.natAbs, e)

/-- Sum of values, rounded (R195). -/
def addV (f : FFmt) (a b : FV) : Nat × Flg :=
  match a, b with
  | .nan _, _ | _, .nan _ => (f.nan, sigFlag [a, b])
  | .inf x, .inf y => if x = y then (withSign f x f.inf, 0) else (f.nan, fNV)
  | .inf x, .fin .. => (withSign f x f.inf, 0)
  | .fin .., .inf y => (withSign f y f.inf, 0)
  | .fin n1 m1 e1, .fin n2 m2 e2 =>
    let (n, m, e) := addFin n1 m1 e1 n2 m2 e2
    rne f n m e false

/-- Negation of a value. -/
def negV : FV → FV
  | .nan s => .nan s
  | .inf n => .inf (!n)
  | .fin n m e => .fin (!n) m e

/-- FADD and FSUB. -/
def fAdd (f : FFmt) (a b : Nat) : Nat × Flg := addV f (decF f a) (decF f b)
def fSub (f : FFmt) (a b : Nat) : Nat × Flg := addV f (decF f a) (negV (decF f b))

/-- FMUL. -/
def fMul (f : FFmt) (a b : Nat) : Nat × Flg :=
  match decF f a, decF f b with
  | .nan s, y => (f.nan, sigFlag [.nan s, y])
  | x, .nan s => (f.nan, sigFlag [x, .nan s])
  | .inf x, .inf y => (withSign f (x != y) f.inf, 0)
  | .inf x, .fin y m _ => if m = 0 then (f.nan, fNV) else (withSign f (x != y) f.inf, 0)
  | .fin x m _, .inf y => if m = 0 then (f.nan, fNV) else (withSign f (x != y) f.inf, 0)
  | .fin x m e, .fin y k g => rne f (x != y) (m * k) (e + g) false

/-- a × b + c exactly, rounded once (R213). -/
def fmaV (f : FFmt) (a b c : FV) : Nat × Flg :=
  let infZero := match a, b with
    | .inf _, .fin _ 0 _ | .fin _ 0 _, .inf _ => true
    | _, _ => false
  if infZero then (f.nan, fNV)
  else if anyNan [a, b, c] then (f.nan, sigFlag [a, b, c])
  else
    let sg (v : FV) : Bool := match v with
      | .inf n => n
      | .fin n _ _ => n
      | .nan _ => false
    let isInf (v : FV) : Bool := match v with
      | .inf _ => true
      | _ => false
    if isInf a || isInf b then
      let n := sg a != sg b
      if isInf c && sg c != n then (f.nan, fNV) else (withSign f n f.inf, 0)
    else if isInf c then (withSign f (sg c) f.inf, 0)
    else match a, b, c with
      | .fin x m e, .fin y k g, .fin z r h =>
        let (n, v, q) := addFin (x != y) (m * k) (e + g) z r h
        rne f n v q false
      | _, _, _ => (f.nan, 0)

/-- FFMA and FFMS. -/
def fFma (f : FFmt) (a b d : Nat) : Nat × Flg := fmaV f (decF f a) (decF f b) (decF f d)
def fFms (f : FFmt) (a b d : Nat) : Nat × Flg := fmaV f (decF f a) (decF f b) (negV (decF f d))

/-- FDIV (R196). -/
def fDiv (f : FFmt) (a b : Nat) : Nat × Flg :=
  match decF f a, decF f b with
  | .nan s, y => (f.nan, sigFlag [.nan s, y])
  | x, .nan s => (f.nan, sigFlag [x, .nan s])
  | .inf _, .inf _ => (f.nan, fNV)
  | .inf x, .fin y _ _ => (withSign f (x != y) f.inf, 0)
  | .fin x _ _, .inf y => (withSign f (x != y) 0, 0)
  | .fin x m e, .fin y k g =>
    if k = 0 then (if m = 0 then (f.nan, fNV) else (withSign f (x != y) f.inf, fDZ))
    else
      let sh := bitLen k + f.p + 4
      let n := m * 2 ^ sh
      rne f (x != y) (n / k) (e - g - sh) (n % k != 0)

/-- Integer square root by bits from `i` down. -/
def isqrtGo (n : Nat) : Nat → Nat → Nat
  | 0, r => r
  | i + 1, r => isqrtGo n i (if (r + 2 ^ i) * (r + 2 ^ i) ≤ n then r + 2 ^ i else r)
/-- Integer square root. -/
def isqrt (n : Nat) : Nat := isqrtGo n (bitLen n / 2 + 1) 0

/-- Square root of m · 2^e, m > 0, with `2·k` more bits: significand, exponent, remainder. -/
def sqrtParts (m : Nat) (e : Int) (k : Nat) : Nat × Int × Bool :=
  let (m, e) : Nat × Int := if e % 2 = 0 then (m, e) else (2 * m, e - 1)
  let n := m * 4 ^ k
  let r := isqrt n
  (r, e / 2 - k, r * r != n)

/-- FSQRT (R196). -/
def fSqrt (f : FFmt) (a : Nat) : Nat × Flg :=
  match decF f a with
  | .nan s => (f.nan, flagIf s fNV)
  | .inf n => if n then (f.nan, fNV) else (f.inf, 0)
  | .fin n m e =>
    if m = 0 then (withSign f n 0, 0)
    else if n then (f.nan, fNV)
    else
      let (r, q, st) := sqrtParts m e (f.p + 4)
      rne f false r q st

/-- FRSQ (R196): 1/√x from the integer root of a scaled reciprocal. -/
def fRsq (f : FFmt) (a : Nat) : Nat × Flg :=
  match decF f a with
  | .nan s => (f.nan, flagIf s fNV)
  | .inf n => if n then (f.nan, fNV) else (0, 0)
  | .fin n m e =>
    if m = 0 then (withSign f n f.inf, fDZ)
    else if n then (f.nan, fNV)
    else
      let (m, e) : Nat × Int := if e % 2 = 0 then (m, e) else (2 * m, e - 1)
      let k := bitLen m + f.p + 4
      let r := isqrt (4 ^ k / m)
      rne f false r (-(e / 2) - k) (r * r * m != 4 ^ k)

/-- Fixed-point precision of FEX2 (log 18). -/
def exPrec : Nat := 256

/-- The product over the fraction bits `i`, `i+1`, … of 2^(2^-i), from the fixed-point root `c` of that
step (fraction `fr` of `n` bits still to use). -/
def ex2Go (fr : Nat) : Nat → Nat → Nat → Nat
  | 0, _, acc => acc
  | i + 1, c, acc =>
    let c' := isqrt (c * 2 ^ exPrec)
    ex2Go fr i c' (if fr.testBit i then acc * c' / 2 ^ exPrec else acc)

/-- FEX2 (R196): 2^x = 2^⌊x⌋ · 2^frac; the fractional power is irrational unless it is 1. -/
def fEx2 (f : FFmt) (a : Nat) : Nat × Flg :=
  match decF f a with
  | .nan s => (f.nan, flagIf s fNV)
  | .inf n => (if n then 0 else f.inf, 0)
  | .fin n m e =>
    if m = 0 then rne f false 1 0 false
    else if dyGt m e 2048 0 then
      (if n then rne f false 1 (-4096) true else rne f false 1 4096 false)
    else if 0 ≤ e then
      let k : Int := (m * 2 ^ e.toNat : Nat)
      rne f false 1 (if n then -k else k) false
    else
      let d := (-e).toNat
      let v : Int := if n then -(m : Int) else m
      let k := Int.fdiv v (2 ^ d)
      let fr := (v - k * 2 ^ d).toNat
      if fr = 0 then rne f false 1 k false
      else rne f false (ex2Go fr d (2 * 2 ^ exPrec) (2 ^ exPrec)) (k - exPrec) true

/-- Bits of log2 of a fixed-point value in [1, 2), by repeated squaring. -/
def lg2Go : Nat → Nat → Nat → Nat
  | 0, _, acc => acc
  | n + 1, v, acc =>
    let s := v * v / 2 ^ 512
    if 2 * 2 ^ 512 ≤ s then lg2Go n (s / 2) (2 * acc + 1) else lg2Go n s (2 * acc)

/-- FLG2 (R196). -/
def fLg2 (f : FFmt) (a : Nat) : Nat × Flg :=
  match decF f a with
  | .nan s => (f.nan, flagIf s fNV)
  | .inf n => if n then (f.nan, fNV) else (f.inf, 0)
  | .fin n m e =>
    if m = 0 then (withSign f true f.inf, fDZ)
    else if n then (f.nan, fNV)
    else
      let b := bitLen m
      let k : Int := (b : Int) - 1 + e
      if m = 2 ^ (b - 1) then rne f (decide (k < 0)) k.natAbs 0 false
      else
        let fr := lg2Go 200 (m * 2 ^ (512 + 1 - b)) 0
        let v : Int := k * 2 ^ 200 + fr
        if v < 0 then rne f true (v.natAbs - 1) (-200) true else rne f false v.natAbs (-200) true

/-- Order key of a non-NaN pattern: −∞ < … < −0 < +0 < … < +∞ (R196, R212). -/
def ordKey (f : FFmt) (x : Nat) : Int :=
  let m := bits x 0 (f.ebits + f.p)
  if signOf f x then -(m : Int) - 1 else m

/-- FMIN and FMAX (R196); `big` for FMAX. -/
def fMinMax (f : FFmt) (big : Bool) (a b : Nat) : Nat × Flg :=
  let va := decF f a
  let vb := decF f b
  let fl := sigFlag [va, vb]
  if anyNan [va] && anyNan [vb] then (f.nan, fl)
  else if anyNan [va] then (b, fl)
  else if anyNan [vb] then (a, fl)
  else (if (if big then decide (ordKey f a < ordKey f b) else decide (ordKey f b < ordKey f a)) then b else a, fl)

/-- FABS and FNEG: a NaN gives the canonical NaN (R303). -/
def fAbs (f : FFmt) (a : Nat) : Nat × Flg :=
  match decF f a with
  | .nan s => (f.nan, flagIf s fNV)
  | _ => (bits a 0 (f.ebits + f.p), 0)
def fNeg (f : FFmt) (a : Nat) : Nat × Flg :=
  match decF f a with
  | .nan s => (f.nan, flagIf s fNV)
  | _ => (withSign f (!signOf f a) (bits a 0 (f.ebits + f.p)), 0)

/-- FCMP (R304). -/
def fCmp (f : FFmt) (c : Cond) (a b : Nat) : Bool × Flg :=
  let va := decF f a
  let vb := decF f b
  let un := anyNan [va, vb]
  let key (x : Nat) : Int := if bits x 0 (f.ebits + f.p) = 0 then 0 else if signOf f x then -(bits x 0 (f.ebits + f.p) : Int) else bits x 0 (f.ebits + f.p)
  let sig := sigFlag [va, vb]
  match c with
  | .eq => (!un && decide (key a = key b), sig)
  | .ne => (un || decide (key a ≠ key b), sig)
  | .un => (un, sig)
  | .lt => (!un && decide (key a < key b), flagIf un fNV)
  | .le => (!un && decide (key a ≤ key b), flagIf un fNV)
  | .gt => (!un && decide (key b < key a), flagIf un fNV)
  | .ge => (!un && decide (key b ≤ key a), flagIf un fNV)

/-- FCLS (R304). -/
def fCls (f : FFmt) (a : Nat) : Nat :=
  match decF f a with
  | .nan s => if s then 2 ^ 8 else 2 ^ 9
  | .inf n => if n then 1 else 2 ^ 7
  | .fin n m _ =>
    let sub := bits a f.p f.ebits = 0
    if m = 0 then (if n then 2 ^ 3 else 2 ^ 4)
    else if sub then (if n then 2 ^ 2 else 2 ^ 5)
    else (if n then 2 else 2 ^ 6)

/-! ### Conversions -/

/-- The stochastic generator (R207): state, half, draw. -/
def draw16 (gs : BitVec 32) (half : Bool) : Nat × BitVec 32 × Bool :=
  if half then ((gs >>> 16).toNat, gs, false)
  else
    let a := gs ^^^ (gs <<< 13)
    let b := a ^^^ (a >>> 17)
    let c := b ^^^ (b <<< 5)
    (c.toNat % 2 ^ 16, c, true)

/-- An integer type of a conversion: width and signedness. -/
structure IFmt where
  w : Nat
  sgn : Bool
  deriving DecidableEq, Repr

/-- Kinds of conversion formats (R231). -/
def cfKind : CFmt → FFmt ⊕ IFmt
  | .i32 => .inr ⟨32, true⟩ | .f32 => .inl f32 | .bf16 => .inl bf16 | .f16 => .inl f16
  | .i16 => .inr ⟨16, true⟩ | .i8 => .inr ⟨8, true⟩ | .u32 => .inr ⟨32, false⟩
  | .e4m3 => .inl e4m3 | .e5m2 => .inl e5m2
/-- Element width of a conversion format. -/
def cfWidth (c : CFmt) : Nat :=
  match cfKind c with
  | .inl f => f.width
  | .inr i => i.w
/-- Tag of a conversion format (R199). -/
def cfTag : CFmt → BitVec 3
  | .f32 => 1 | .bf16 => 2 | .f16 => 3 | .e4m3 => 4 | .e5m2 => 5 | _ => 0

/-- Integer value of a pattern. -/
def intOf (i : IFmt) (x : Nat) : Int := if i.sgn then (BitVec.ofNat i.w x).toInt else (x : Int)
/-- Range of an integer type (R192). -/
def intMin (i : IFmt) : Int := if i.sgn then -(2 ^ (i.w - 1)) else 0
def intMax (i : IFmt) : Int := if i.sgn then 2 ^ (i.w - 1) - 1 else 2 ^ i.w - 1
/-- Pattern of an integer, wrapped. -/
def intBits (i : IFmt) (v : Int) : Nat := (BitVec.ofInt i.w v).toNat
/-- Saturation (R192). -/
def satInt (i : IFmt) (v : Int) : Int := max (intMin i) (min (intMax i) v)

/-- Rounding of a finite value to an integer (R206): value and inexactness. -/
def roundInt (mode : RMode) (draw : Nat) (neg : Bool) (m : Nat) (e : Int) : Int × Bool :=
  let (n, inex, up) := cut mode neg m e false 0 draw
  let v : Int := n + (if up then 1 else 0)
  (if neg then -v else v, inex)

/-- Convert of R309 with R206 to R210 for one element. -/
def convert (src dst : CFmt) (mode : RMode) (sat : Bool) (draw : Nat) (x : Nat) : Nat × Flg :=
  match cfKind src, cfKind dst with
  | .inr i, .inr j =>
    let v := intOf i x
    (intBits j (if sat then satInt j v else v), 0)
  | .inr i, .inl f => roundF f mode sat draw (decide (intOf i x < 0)) (intOf i x).natAbs 0 false
  | .inl f, .inr j =>
    match decF f x with
    | .nan _ => (0, fNV)
    | .inf n => (intBits j (if n then intMin j else intMax j), fNV)
    | .fin n m e =>
      let (v, inex) := roundInt mode draw n m e
      if v < intMin j || intMax j < v then (intBits j (satInt j v), fNV) else (intBits j v, flagIf inex fNX)
  | .inl f, .inl g =>
    match decF f x with
    | .nan s => (g.nan, flagIf s fNV)
    | .inf n =>
      if g.fin8 then (if sat then withSign g n g.maxBits else g.nan, 0)
      else if g = e5m2 && sat then (withSign g n g.maxBits, 0)
      else (withSign g n g.inf, 0)
    | .fin n m e => roundF g mode sat draw n m e false

/-- SCL of R310 for one element: a × 2^k. -/
def scale (f : FFmt) (mode : RMode) (sat : Bool) (draw : Nat) (x : Nat) (k : Int) : Nat × Flg :=
  match decF f x with
  | .nan s => (f.nan, flagIf s fNV)
  | .inf n => (withSign f n f.inf, 0)
  | .fin n m e =>
    if m = 0 then (withSign f n 0, 0)
    else
      let k' := max (-8192) (min 8192 k)
      roundF f mode sat draw n m (e + k') false

/-! ### Block floating point -/

/-- Exponent E of a block from its largest magnitude (R204). -/
def bfpExp (m : Nat) (e : Int) : Nat := (max 0 (min 0xFE ((bitLen m : Int) - 1 + e + 128))).toNat

/-- One mantissa of BfpPack (R204) and whether the element's value changes. -/
def bfpMant (w E : Nat) (mode : RMode) (draw : Nat) (neg : Bool) (m : Nat) (e : Int) : Int × Bool :=
  let q : Int := (E : Int) - 127 - (w - 1 : Nat)
  let (n, inex, up) := cut mode neg m e false q draw
  let v : Int := n + (if up then 1 else 0)
  let y := if neg then -v else v
  let c := max (-(2 ^ (w - 1) : Int)) (min (2 ^ (w - 1) - 1) y)
  (c, inex || c != y)

/-- BFUP of one mantissa (R204): exact in F32. -/
def bfpUp (w E : Nat) (x : Nat) : Nat :=
  if E = 0xFF then f32.nan
  else
    let v := (BitVec.ofNat w x).toInt
    (rne f32 (decide (v < 0)) v.natAbs ((E : Int) - 127 - (w - 1 : Nat)) false).1

/-! ### Modular arithmetic (R216) -/

/-- MMul with its two conditional subtractions, exact, mod 2^64. -/
def mMul (q mu a b : Nat) : Nat :=
  let k := bitLen q
  let x := a * b
  let t := (x / 2 ^ (k - 1)) * mu / 2 ^ (k + 1)
  let z : Int := (x : Int) - t * q
  let z := if (q : Int) ≤ z then z - q else z
  let z := if (q : Int) ≤ z then z - q else z
  (BitVec.ofInt 64 z).toNat
/-- MAdd and MSub. -/
def mAdd (q a b : Nat) : Nat := (if q ≤ a + b then a + b - q else a + b) % 2 ^ 64
def mSub (q a b : Nat) : Nat := if b ≤ a then a - b else (BitVec.ofInt 64 ((a : Int) - b + q)).toNat
/-- The range of q. -/
def mOk (q : Nat) : Bool := 2 ≤ q && q < 2 ^ 62

/-- F32 addition of atomics and collectives (R195, R282). -/
def addF32 (a b : Nat) : Nat := (fAdd f32 a b).1

end Sys2Proof.Machine
end

