-- ==== Sys2Proof/Machine/Access.lean ====
section
/-! DEFINITION. Memory requests: their creation with the edges of the consistency model (R115 to
R137), the checks on views (R98), the performing of their parts at the homes (R83, R86, R87, R99 to
R102, R116, R120, R129, R130), the release of waiters (R80, R81) and the late faults (R384). -/

namespace Sys2Proof.Machine

/-- Lease of an issuer. -/
def issLease : Issuer → Nat
  | .seq l _ => l
  | .elem l _ _ => l
  | .stream l _ => l
  | .engine l _ => l
  | .peer _ _ => 0xFFF

/-- Tenant on whose behalf a request runs (R51). -/
def issTenant (s : State) : Issuer → Nat
  | .peer _ t => t
  | i => match leaseOf s (issLease i) with
    | some ls => ls.tenant
    | none => 0xFFF

/-- Die of an issuer (R118). -/
def issDie (s : State) : Issuer → Nat
  | .elem l t _ => match leaseOf s l with
    | some ls => tileDie ls t
    | none => 0
  | .peer k _ => couplerDie k
  | i => match leaseOf s (issLease i) with
    | some ls => anchorDie ls
    | none => 0

/-- Does the access read? An atomic counts as both (R126). -/
def MOp.isRead : MOp → Bool
  | .read | .atomic _ | .swait _ => true
  | _ => false
/-- Does the access write (R121, R332)? -/
def MOp.isWrite : MOp → Bool
  | .write | .atomic _ | .arrive _ | .grp _ _ | .step => true
  | _ => false
/-- What the access asks of its page (R52). -/
def MOp.acc : MOp → Acc
  | .write => .wr
  | .atomic _ | .arrive _ | .grp _ _ => .rw
  | _ => .rd

/-- Ordering state of an issuer's agent (R115). -/
def ordOf (s : State) : Issuer → OrdSt
  | .seq l r => match leaseOf s l with
    | some ls => (seqOf ls r).ord
    | none => .zero
  | .elem l t _ => match (leaseOf s l).bind (tileOf · t) with
    | some x => x.ord
    | none => .zero
  | _ => .zero

/-- Change of the ordering state of an agent. -/
def updOrd (s : State) (i : Issuer) (f : OrdSt → OrdSt) : State :=
  match i with
  | .seq l r => updSeq s l r fun q => { q with ord := f q.ord }
  | .elem l t _ => updTile s l t fun x => { x with ord := f x.ord }
  | _ => s

/-- Union of sets. -/
def nunion (a b : NSet) : NSet := b.foldl nadd a

/-! ### Edges -/

/-- Edges from requests, of one scope, join a set; of two from one request the wider stays. -/
def eAdd (e : Edges) (ids : NSet) (c : Nat) : Edges := ids.foldl (fun e i => mput e i (max c (mget 0 e i))) e
/-- Union of edges. -/
def eUnion (a b : Edges) : Edges := b.foldl (fun e x => eAdd e [x.1] x.2) a
/-- Edges of PANEL scope (R118). -/
def wide (ids : NSet) : Edges := eAdd [] ids 3

/-- Is an agent one of the observers that a scope of another agent binds (R118)? -/
def inScope (s : State) (c : Nat) (i j : Issuer) : Bool :=
  match c with
  | 0 => (match i, j with
    | .seq l r, .seq l' r' => l == l' && r == r'
    | .elem l t _, .elem l' t' _ => l == l' && t == t'
    | _, _ => false)
  | 1 => issLease i == issLease j && (match j with
    | .peer .. => false
    | _ => true)
  | 2 => issDie s i == issDie s j
  | _ => true

/-- What the accesses of elements and streams must follow in the phase that GO started, with their
floor (R272). -/
def phaseEdge (s : State) : Issuer → NSet × Nat
  | .elem l _ _ | .stream l _ => match leaseOf s l with
    | some ls => (ls.goAfter, ls.goFloor)
    | none => ([], 0)
  | _ => ([], 0)

/-- A request enters the machine: its edges from the agent's fences, acquires and marks, of the scope that each names (R119, R126,
R127), its floor, and its place in the agent's issue order. A release at SYS scope has a flush before it (R135). -/
def addReq (s : State) (r : Req) : State × Nat :=
  let id := s.nextId
  let o := ordOf s r.iss
  let (ga, gf) := phaseEdge s r.iss
  let c := encScope r.scope
  let rel := r.rel && r.op.isWrite
  let after := eUnion (eUnion (eAdd r.after ga 3) (if r.op.isRead then o.preR else []))
    (eUnion (if r.op.isWrite then o.preW else []) (if rel then eAdd (eAdd [] o.outR c) o.outW c else []))
  let fc := match leaseOf s (issLease r.iss) with
    | some ls => ls.fcs
    | none => 0
  let r := { r with
    after := after, floor := max (max r.floor gf) o.floor, born := s.wall, bornFc := fc, flush := rel && r.scope == .sys
    left := tickOf s (issDie s r.iss) }
  let acq := r.acq && r.op.isRead
  let o' := { o with
    outR := if r.op.isRead then nadd o.outR id else o.outR
    outW := if r.op.isWrite then nadd o.outW id else o.outW
    preR := if acq then eAdd o.preR [id] c else o.preR
    preW := if acq then eAdd o.preW [id] c else o.preW }
  (updOrd { s with reqs := mput s.reqs id r, nextId := id + 1 } r.iss fun _ => o', id)

/-- A fence of kinds RR, RW, WR, WW at a scope over an agent's accesses (R126): those outstanding give edges; of those performed,
the latest tick is the floor of the reads that follow. -/
def fenceOrd (kinds : BitVec 4) (sc : Scope) (o : OrdSt) : OrdSt :=
  let f (b : Nat) (a : NSet) : Edges := if kinds.getLsbD b then eAdd [] a (encScope sc) else []
  let t (b n : Nat) : Nat := if kinds.getLsbD b then n else 0
  { o with
    preR := eUnion o.preR (eUnion (f 3 o.outR) (f 1 o.outW))
    preW := eUnion o.preW (eUnion (f 2 o.outR) (f 0 o.outW))
    floor := max o.floor (max (t 3 o.lastR) (t 1 o.lastW)) }

/-- A request has been performed at tick `t`, or dropped at tick 0: the edges from it are met, and the floor of the reads that had to
follow it is raised (R119, R120, R126 to R128). -/
def dropOrd (id t : Nat) (o : OrdSt) : OrdSt :=
  { o with
    outR := ndel o.outR id
    outW := ndel o.outW id
    preR := mdel o.preR id
    preW := mdel o.preW id
    floor := if (mfind o.preR id).isSome then max o.floor t else o.floor
    lastR := if nhas o.outR id then max o.lastR t else o.lastR
    lastW := if nhas o.outW id then max o.lastW t else o.lastW }

/-- The same for one request that had to follow it. -/
def dropAfter (id t : Nat) (r : Req) : Req :=
  if (mfind r.after id).isSome then { r with after := mdel r.after id, floor := max r.floor t } else r

/-- Every edge from request `id` is met at tick `t`; it waits for nothing any more. -/
def settle (s : State) (id t : Nat) : State :=
  { s with
    zq := s.zq.filter fun z => z.req != id
    holds := s.holds.filter fun h => h.until_ != id
    reqs := mmap s.reqs fun _ r => dropAfter id t r
    leases := mmap s.leases fun _ ls =>
      { ls with
        seq := { ls.seq with ord := dropOrd id t ls.seq.ord }
        seqR := { ls.seqR with ord := dropOrd id t ls.seqR.ord }
        goFloor := if nhas ls.goAfter id then max ls.goFloor t else ls.goFloor
        goAfter := ndel ls.goAfter id
        engines := ls.engines.map fun e =>
          if nhas e.after id then { e with after := ndel e.after id, floor := max e.floor t } else e
        tiles := mmap ls.tiles fun _ x => { x with ord := dropOrd id t x.ord } } }

/-- Request `id`. -/
def reqOf (s : State) (id : Nat) : Option Req := mfind s.reqs id
/-- Change of a request. -/
def updReq (s : State) (id : Nat) (f : Req → Req) : State := { s with reqs := mmod s.reqs id f }
/-- Part `i` of a request becomes `p`. -/
def setPart (s : State) (id i : Nat) (p : Part) : State := updReq s id fun r => { r with parts := lset r.parts i p }

/-- Do two byte ranges overlap? -/
def overlaps (a n b m : Nat) : Bool := a < b + m && b < a + n

/-- Device physical address of a place. -/
def dpaOf : Loc → Option Nat
  | .mem p => some p
  | .host o => some (hostBase + o)
  | .peer k o => some (peerBase + k * 2 ^ 42 + o)
  | _ => none

/-- Is the request still to be performed? -/
def RSt.open_ : RSt → Bool
  | .performed | .faulted .. => false
  | _ => true

/-- Does a part touch any of `n` bytes at a tenant virtual address, or at a place once it is translated (R128)? -/
def Part.touches (p : Part) (va n : Nat) (pa : Option Nat) : Bool :=
  overlaps p.va p.len va n || (match dpaOf p.loc, pa with
    | some a, some b => overlaps a p.len b n
    | _, _ => false)

/-- What a sequencer access to `n` bytes must follow: earlier accesses to any of them that are outstanding, and the latest tick of
those performed (R128). -/
def seqOverlap (s : State) (l : Nat) (rep : Bool) (va n : Nat) (pa : Option Nat) : NSet × Nat :=
  let out := (s.reqs.filter fun e => e.2.iss == .seq l rep && e.2.stage.open_ && e.2.parts.any fun p => p.touches va n pa).map (·.1)
  let h := match leaseOf s l with
    | some ls => (seqOf ls rep).hist
    | none => []
  let key (e : Nat × Nat × Nat) : Bool := overlaps e.1 e.2.1 va n || (match pa with
    | some b => overlaps e.1 e.2.1 (2 ^ 56 + b) n
    | none => false)
  (out, ((h.filter key).map (·.2.2)).foldl max 0)

/-- A performed access to `n` bytes joins the history of its sequencer: its tenant virtual address, and from 2^56 on its device
physical one (R128). -/
def histAdd (t va n : Nat) (pa : Option Nat) (h : List (Nat × Nat × Nat)) : List (Nat × Nat × Nat) :=
  (va, n, t) :: (match pa with
    | some p => (2 ^ 56 + p, n, t) :: h
    | none => h)

/-- A part with nothing known yet. -/
def mkPart (lane va len : Nat) : Part :=
  ⟨lane, va, len, false, .none, .new, [], [], [], false, false, 0⟩

/-- A part as its request is issued again (R64, R389): one of lease scratch or a tile store keeps its place, another
is translated anew. -/
def partAnew (p : Part) : Part :=
  match p.loc with
  | .tile .. => { p with st := .new }
  | _ => { p with loc := .none, st := .new, versioned := false }
/-- The stage from which parts are issued again. -/
def stageAnew (ps : List Part) : RSt := if ps != [] && ps.all (fun p => p.loc != .none) then .sent else .issued

/-- Parts of an access to `[va, va+n)`: one per 128-byte line (R86, R87), `lane` the byte offset. -/
def lineParts (lane va n : Nat) : List Part :=
  let rs := lineRuns va n
  rs.map fun e => { mkPart (lane + (e.1 - va)) e.1 e.2 with strad := decide (1 < rs.length) }

/-- Parts of a write of bytes. -/
def writeParts (lane va : Nat) (bs : List Byte) (ps : List Bool) : List Part :=
  (lineParts lane va bs.length).map fun p =>
    { p with data := (bs.drop (p.va - va)).take p.len, pois := (ps.drop (p.va - va)).take p.len }

/-- View of a lease; entry 0 is the live view (R96). -/
def viewOf (ls : Lease) (n : Nat) : View := mget View.zero ls.views n

/-- The refusals of R98 that need no page: an empty view, or a write that names a snapshot. -/
def viewCheck (ls : Lease) (n : Nat) (x : Acc) : Option Nat :=
  if n = 0 then none
  else
    let v := viewOf ls n
    if v.kind = 0 then some cSNAP else if v.kind = 1 && x.writes then some cPERM else none

/-- The refusals of R98 that depend on the page, and of revoked views (R99). -/
def pageCheck (ls : Lease) (n : Nat) (x : Acc) (ver : Bool) : Option Nat :=
  if n = 0 then none
  else
    let v := viewOf ls n
    if v.kind = 0 then some cSNAP
    else if !ver && x.writes then some cPERM
    else if v.doom = 4 && ver && !x.writes then some cSNAP
    else none

/-- Every part of the request is done. -/
def allDone (r : Req) : Bool := r.parts.all fun p => decide (p.st = .done)

/-- A performed access of a sequencer joins its history (R128). -/
def addHist (s : State) (r : Req) (t : Nat) : State :=
  match r.iss with
  | .seq l rep => updSeq s l rep fun q =>
    { q with hist := r.parts.foldl (fun h p => histAdd t p.va p.len (dpaOf p.loc) h) q.hist }
  | _ => s

/-- Did a performed store write a poisoned byte? One into a doomed view wrote nothing (R102, R348). -/
def wrotePoison (r : Req) : Bool := r.op == .write && r.parts.any fun p => p.code != 2 && p.pois.any id

/-- Poisoned data that an access of an element has written marks the SYNA that follows it, or the element until its next one
(R348). -/
def notePoison (s : State) (id : Nat) (r : Req) (w : Bool) : State :=
  match r.iss with
  | .elem l t _ =>
    if !w then s
    else
      let mine (q : Req) : Bool := (mfind q.after id).isSome && (match q.op, q.iss with
        | .arrive _, .elem l' t' _ => l' == l && t' == t
        | .grp _ _, .elem l' t' _ => l' == l && t' == t
        | _, _ => false)
      match s.reqs.find? fun e => mine e.2 with
      | some e => updReq s e.1 fun q => { q with parts := q.parts.map fun p => { p with pois := [true] } }
      | none => if nhas (ordOf s r.iss).outW id then updTile s l t fun x => { x with poisStore := true } else s
  | _ => s

/-- A request is performed at tick `t`: its edges are met, its poison is noted, its bytes enter the history (R119, R128, R348). -/
def perform (s : State) (id t : Nat) : State :=
  match reqOf s id with
  | some r => addHist (settle (updReq (notePoison s id r (wrotePoison r)) id fun r => { r with stage := .performed }) id t) r t
  | none => s

/-- The last part done makes the request performed, at the serving die's tick. -/
def checkDone (s : State) (id : Nat) (die : Nat) : State :=
  match reqOf s id with
  | some r => if allDone r && r.stage == .sent then perform s id (tickOf s die) else s
  | none => s

/-- A late or in-flight fault of a request (R384): nothing is delivered. -/
def reqFault (s : State) (id cause addr : Nat) (strad : Bool) : State :=
  settle (updReq s id fun r => { r with stage := .faulted cause addr strad }) id 0

/-- A fault of one part: its address, and whether its access straddles (R86). -/
def partFault (s : State) (id cause : Nat) (p : Part) : State := reqFault s id cause p.va p.strad

/-- A fault at an address that one of the parts names. -/
def vaFault (s : State) (id cause va : Nat) : State :=
  reqFault s id cause va (match reqOf s id with
    | some r => r.parts.any fun p => p.va == va && p.strad
    | none => false)

/-! ### Units that carry an unscrubbed bit (R59) -/

/-- The unit of a place. -/
def unitLoc : Loc → Loc
  | .mem p => .mem (p / unitSize p * unitSize p)
  | .tile t o => .tile t (o / 2048 * 2048)
  | _ => .none
/-- Is the unit of a place scrubbed? -/
def unitScrubbed (s : State) (l : Nat) : Loc → Bool
  | .mem p => nhas s.scrubbed (p / unitSize p)
  | .tile t o => ((leaseOf s l).bind (tileOf · t)).any fun x => nhas x.scrubbed (o / 2048)
  | _ => true
/-- Is it being zeroed? -/
def unitZeroing (s : State) (l : Nat) : Loc → Bool
  | .mem p => nhas s.zeroing (p / unitSize p)
  | .tile t o => ((leaseOf s l).bind (tileOf · t)).any fun x => nhas x.zeroing (o / 2048)
  | _ => false
/-- Its zeroing begins. -/
def unitStart (s : State) (l : Nat) : Loc → State
  | .mem p => { s with zeroing := nadd s.zeroing (p / unitSize p) }
  | .tile t o => updTile s l t fun x => { x with zeroing := nadd x.zeroing (o / 2048) }
  | _ => s
/-- Does a part wait at a unit? -/
def ZWait.isAt (z : ZWait) (l : Nat) (u : Loc) : Bool :=
  z.unit == u && (match u with
    | .tile .. => z.lease == l
    | _ => true)
/-- Nothing of a unit stands in the way of an access. -/
def unitOpen (s : State) (l : Nat) (lc : Loc) : Bool := unitScrubbed s l lc && !unitZeroing s l lc
/-- The same, and nothing waits at it. -/
def unitClear (s : State) (l : Nat) (lc : Loc) : Bool := unitOpen s l lc && !(s.zq.any fun z => z.isAt l (unitLoc lc))

/-! ### Accesses that pass ahead of a narrow edge -/

/-- The line of a place. -/
def lineLoc : Loc → Loc
  | .mem p => .mem (p / 128 * 128)
  | .tile t o => .tile t (o / 128 * 128)
  | _ => .none

/-- Must an agent other than request `id` wait before it touches a line (R119)? -/
def heldLine (s : State) (id : Nat) (i : Issuer) (lc : Loc) : Bool :=
  s.holds.any fun h => h.by_ != id && h.line == lineLoc lc && (match lc with
    | .tile .. => issLease h.iss == issLease i
    | _ => true) && inScope s h.scope h.iss i

/-- A plain access or an atomic, whose parts all stand before homes of this panel. -/
def Req.atGate (r : Req) : Bool :=
  r.stage == .sent && (match r.op with
    | .read | .write | .atomic _ => true
    | _ => false) && r.parts.all fun p => p.st == .new && !p.versioned && lineLoc p.loc != .none

/-- May request `id` pass ahead of its edges (R119)? Every edge is of TILE, LEASE or DIE scope and comes from an access that waits for
nothing but its homes, on other lines. -/
def mayPass (s : State) (id : Nat) (r : Req) : Bool :=
  r.atGate && r.after != [] && !r.flush && r.parts.all (fun p => !heldLine s id r.iss p.loc) && r.after.all fun e =>
    decide (e.2 ≤ 2) && match reqOf s e.1 with
      | some a => a.atGate && a.after == [] && !a.flush && a.parts.all fun p =>
          !heldLine s e.1 a.iss p.loc && unitClear s (issLease a.iss) p.loc && !(r.parts.any fun q => lineLoc q.loc == lineLoc p.loc)
      | none => false

/-- Request `id` passes ahead of its edges: agents outside their scopes may see it do so, and the lines that it touches are held for
the others until the accesses before it are performed. What had to follow it follows those accesses. It is served at its homes
(R119, R120). -/
def passAhead (s : State) (id : Nat) (r : Req) : State :=
  let hs := (r.parts.map fun p => r.after.map fun e => Hold.mk (lineLoc p.loc) id r.iss e.2 e.1).flatten
  let ext (es : Edges) : Edges := match mfind es id with
    | some c => r.after.foldl (fun es e => eAdd es [e.1] (min c e.2)) es
    | none => es
  let s1 := { s with holds := s.holds ++ hs, reqs := mmap s.reqs fun _ q => { q with after := ext q.after } }
  updReq (updOrd s1 r.iss fun o => { o with preR := ext o.preR, preW := ext o.preW }) id fun r =>
    { r with after := [], floor := 2 ^ 60 }

/-- Zero-length reads on the host ports that carried an agent's writes (R135): the requests. -/
def sysFlush (s : State) (i : Issuer) : State × NSet :=
  let o := ordOf s i
  let read : Req :=
    { iss := i, op := .read, view := 0, floor := 0, after := [], acq := false, rel := false, scope := .sys, posted := true,
      stage := .sent, parts := [{ mkPart 0 0 0 with loc := .host 0 }], dst := .none, chain := none, pc := 0, word := 0,
      born := s.wall, key := [] }
  let go (a : State × NSet) (port : Nat) : State × NSet :=
    let id := a.1.nextId
    (emit { a.1 with reqs := mput a.1.reqs id read, nextId := id + 1 } (.hostFlush port), nadd a.2 id)
  let (s1, ids) := o.ports.foldl go (s, [])
  (updOrd s1 i fun o => { o with ports := [] }, ids)

/-- What a request does before it may be served: the flush of a SYS release once everything before it has been performed, or a free
pass ahead of narrow edges (R119, R135). -/
def beforeHome (s : State) (id : Nat) (r : Req) : State :=
  if r.after = [] then
    if r.flush then
      let (s1, ids) := sysFlush s r.iss
      updReq s1 id fun r => { r with flush := false, after := wide ids }
    else s
  else if mayPass s id r then (if Config.early s.nonce then passAhead (bump s) id r else bump s)
  else s

/-- A request may be served at a home: it has left its slice, and nothing must come before it (R119, R135). -/
def servable (s : State) (id : Nat) (r : Req) (p : Part) (st : PSt) : Bool :=
  r.stage == .sent && r.after == [] && !r.flush && p.st == st && !heldLine s id r.iss p.loc

/-! ### Sync words and waiters -/

/-- Generation `g` has passed at a word whose GEN is `gen` (R81). -/
def passed (gen g : Nat) : Bool :=
  let d := (gen + 65536 - g % 65536) % 65536
  1 ≤ d && d ≤ 32767

/-- The 128 bits of a sync word at its home (R79). -/
def syncWord (s : State) (l : Nat) (lc : Loc) : Nat × Bool :=
  match lc with
  | .mem p => let (b, q) := memRd s p 16; (leNat b, q.any id)
  | .tile t o => match (leaseOf s l).bind (tileOf · t) with
    | some x => let (b, q) := tileRd x o 16; (leNat b, q.any id)
    | none => (0, false)
  | _ => (0, false)

/-- A waiter is released with P (R81): its request is performed with that bit. -/
def releaseReq (s : State) (id : Nat) (p : Bool) : State :=
  let s1 := updReq s id fun r =>
    { r with parts := r.parts.map fun x => { x with st := .done, data := leBytes 4 (b2n p), pois := List.replicate 4 false } }
  match reqOf s id with
  | some r => checkDone s1 id (issDie s r.iss)
  | none => s1

/-- Waiters at a place that `pick` selects are released, the others stay (R81). -/
def releaseAt (s : State) (l : Nat) (lc : Loc) (pick : Waiter → Option Bool) : State :=
  let here (w : Waiter) : Bool := w.loc == lc && (match lc with
    | .tile .. => w.lease == l
    | _ => true)
  let go := s.waiters.filter fun w => here w && (pick w).isSome
  let s1 := { s with waiters := s.waiters.filter fun w => !(here w && (pick w).isSome) }
  go.foldl (fun s w => releaseReq s w.req ((pick w).getD false)) s1

/-- Is the word armed? A disarmed one releases no SYNW and no EWAIT (R284, R350). -/
def armed (w : Nat) : Bool := bits w 0 48 != 0
/-- Does a word release a waiter on its generation? A launch dependence asks only that the generation has passed (R370). -/
def Waiter.freed (x : Waiter) (w : Nat) : Bool := (x.lease == 0xFFF || armed w) && passed (bits w 96 16) x.gen

/-- After a plain write that may cover sync words: waiters whose generation now passes are released
with the P that the write leaves (R81). -/
def recheck (s : State) (l : Nat) (lc : Loc) (n : Nat) : State :=
  let covers (w : Waiter) : Bool := match lc, w.loc with
    | .mem p, .mem q => p / 16 ≤ q / 16 && q / 16 ≤ (p + n - 1) / 16
    | .tile t o, .tile t' o' => t == t' && w.lease == l && o / 16 ≤ o' / 16 && o' / 16 ≤ (o + n - 1) / 16
    | _, _ => false
  ((s.waiters.filter covers).map (·.loc)).eraseDups.foldl (init := s) fun s wl =>
    let w := (syncWord s l wl).1
    releaseAt s l wl fun x => if x.freed w then some (w.testBit 127) else none

/-- Fields of a sync word. -/
structure SyncW where
  p : Bool
  ovr : Bool
  gen : Nat
  count : Nat
  target : Nat
  deriving DecidableEq, Repr

/-- The loop of an arrival (R80): generations released with their P. -/
def arriveLoop : Nat → SyncW → List (Nat × Bool) → SyncW × List (Nat × Bool)
  | 0, w, rel => (w, rel)
  | fuel + 1, w, rel =>
    if w.target ≤ w.count then
      arriveLoop fuel { w with count := w.count - w.target, gen := (w.gen + 1) % 65536, p := false } (rel ++ [(w.gen, w.p)])
    else (w, rel)

/-- An arrival of `n` bytes at a word (R80). -/
def arriveWord (w0 : SyncW) (n : Nat) (pois : Bool) : SyncW × List (Nat × Bool) :=
  let w := { w0 with p := w0.p || pois, count := w0.count + n }
  if w.target = 0 then ({ w with count := w.count % 2 ^ 48 }, [])
  else arriveLoop (w.count / w.target) { w with ovr := w.ovr || decide (w.target < w.count) } []

/-- Sync word from and to its bits (R79); reserved bits keep their value. -/
def syncOf (v : Nat) : SyncW := ⟨v.testBit 127, v.testBit 126, bits v 96 16, bits v 48 48, bits v 0 48⟩
/-- The bits of a sync word, with the reserved field of `old`. -/
def syncBits (w : SyncW) (old : Nat) : Nat :=
  b2n w.p * 2 ^ 127 + b2n w.ovr * 2 ^ 126 + bits old 112 14 * 2 ^ 112 + w.gen % 2 ^ 16 * 2 ^ 96 +
    w.count % 2 ^ 48 * 2 ^ 48 + w.target % 2 ^ 48

/-! ### Performing -/

/-- Copies of a line on a die go when an agent of that die issues a write or an atomic to the line (R120). -/
def dropCopies (s : State) (die pa : Nat) : State :=
  { s with copies := s.copies.filter fun c => !(c.die == die && c.line == pa / 128) }

/-- A write of bytes at a place on behalf of a lease; waiters are tested again (R81, R147). -/
def putBytes (s : State) (l : Nat) (lc : Loc) (bs : List Byte) (ps : List Bool) : State :=
  match lc with
  | .mem p => recheck (memWr s p bs ps) l lc bs.length
  | .tile t o => recheck (updTile s l t fun x => tileWr x o bs ps) l lc bs.length
  | _ => s

/-- A read of bytes at a place. -/
def getBytes (s : State) (l : Nat) (lc : Loc) (n : Nat) : List Byte × List Bool :=
  match lc with
  | .mem p => memRd s p n
  | .tile t o => match (leaseOf s l).bind (tileOf · t) with
    | some x => tileRd x o n
    | none => (List.replicate n 0, List.replicate n false)
  | _ => (List.replicate n 0, List.replicate n false)

/-- Words of the program region that a store of the lease overwrites: each keeps its old word as one that a
fetch may still return (R254). Keys of such words are raised by 2^60. -/
def markStale (s : State) (l : Nat) (lc : Loc) (va n : Nat) : State :=
  match leaseOf s l with
  | none => s
  | some ls =>
    let hit := (unitsOf 4 va n).filter fun k => inRegion ls (4 * k)
    if hit = [] then s
    else hit.foldl (init := s) fun s k =>
      let old := BitVec.ofNat 32 (leNat (getBytes s l (match lc with
        | .mem p => .mem (p / 4 * 4 + 4 * k - va / 4 * 4)
        | x => x) 4).1)
      updSeq s l false fun q =>
        { q with icache := mput (mdel q.icache (4 * k)) (4 * k + 2 ^ 60) (mget old q.icache (4 * k)) }

/-- The new value of an atomic on `n` bytes: none when nothing is written (R264, R346). F32 addition
is supplied by the caller. -/
def atomNew (op : AOp) (n : Nat) (old d c : Nat) (fadd : Nat → Nat → Nat) : Option Nat :=
  let m := 2 ^ (8 * n)
  let sg (v : Nat) : Int := if v < m / 2 then (v : Int) else (v : Int) - (m : Int)
  match op with
  | .add => some ((old + d) % m)
  | .fadd => some (fadd old d)
  | .and => some (Nat.land old d)
  | .or => some (Nat.lor old d)
  | .xor => some (Nat.xor old d)
  | .min => some (if sg d < sg old then d else old)
  | .max => some (if sg old < sg d then d else old)
  | .minu => some (min old d)
  | .maxu => some (max old d)
  | .xchg => some d
  | .cas => if old = c then some d else none

/-- An atomic settled on old bytes (R130, R145, R347): bytes to write with poison, outcome code. The
old value and its poison are returned by the caller. -/
def atomStep (op : AOp) (fadd : Nat → Nat → Nat) (p : Part) (old : List Byte) (oldP : Bool) :
    Option (List Byte × Bool) × BitVec 2 :=
  let n := p.len
  let dP := p.pois.any id
  if op = .cas && (oldP || p.cmpPois) then (none, 2)
  else
    let nw := atomNew op n (leNat old) (leNat p.data) (leNat p.cmp) fadd
    let np := if op = .xchg || op = .cas then dP else dP || oldP
    (nw.map fun v => (leBytes n v, np), if oldP then 1 else 0)

/-- A reply's counted delivery of poison (R154). -/
def countDelivery (s : State) (tenant : Nat) (p : Bool) (va : Option Nat) : State :=
  if p && tenant < 256 then
    updVf s tenant fun v => { v with consumed := satInc v.consumed 32, lastva := va.getD v.lastva }
  else s

end Sys2Proof.Machine
end

