-- ==== Sys2Proof/Machine/Reads.lean ====
section
/-! DEFINITION. Reads that a sequencer or the Shunter makes of tenant memory at once: their places, the checks of R34, R53, R57 and
R60, and the order that R119 and R128 ask of them. -/

namespace Sys2Proof.Machine

/-- The outcome of an access that a unit makes at once: data, a fault with its address, a page that the pager or the host must bring
in, or an earlier access of the sequencer that must be performed first. -/
inductive Sync
  | ok (bs : List Byte) (ps : List Bool) (s : State)
  | fault (cause addr : Nat) (s : State)
  | wait (job : Nat) (s : State)
  | busy (s : State)

/-- One piece of such an access, within a line: its place, after both stages, the tenant check and ATS. -/
inductive Place
  | ok (lc : Loc) (ver : Bool) (s : State)
  | fault (cause : Nat) (s : State)
  | wait (job : Nat) (s : State)

/-- Translation and checks of one piece for a unit that acts for lease `l` (R34, R53, R57, R60). -/
def placeOf (s : State) (l va : Nat) (x : Acc) : Place :=
  match leaseOf s l with
  | none => .fault cTRANS s
  | some ls =>
    match translate s l va x true with
    | (.ok lc ver, s1) =>
      if (match lc with
          | .mem p => !tenantOk s1 ls.tenant p
          | _ => false) then .fault cTENANT (countRefusal s1 ls.tenant)
      else if atsMissed s1 ls.tenant lc then
        let (s2, j) := pageRequest s1 l va x
        .wait j s2
      else .ok lc ver s1
    | (.fault c nd g, s1) => .fault c (transEvents s1 ls.tenant l (.fault c nd g))
    | (.absent e lf pin, s1) =>
      let (s2, j) := newJob s1 l va x e lf pin .token
      .wait j s2

/-- Synchronous live read of a lease's tenant virtual memory, line by line, by its sequencer or the Shunter: image, descriptors,
records (R34, R263, R270, R277, R285). `own` names the sequencer whose access it is: it follows the sequencer's earlier accesses to
the bytes and joins its history (R128). -/
def vread (l : Nat) (own : Option Bool) : List (Nat × Nat) → List Byte → List Bool → State → Sync
  | [], bs, ps, s => .ok bs ps s
  | (va, n) :: r, bs, ps, s =>
    match placeOf s l va .rd with
    | .fault c s1 => .fault c va s1
    | .wait j s1 => .wait j s1
    | .ok lc _ s1 =>
      let late := match own with
        | some rep => (seqOverlap s1 l rep va n (dpaOf lc)).1 != [] || heldLine s1 0 (.seq l rep) lc
        | none => false
      if late then .busy s1
      else
        let (b, p, s2) := devGet s1 lc n
        let t := tickOf s2 (match leaseOf s2 l with
          | some ls => anchorDie ls
          | none => 0)
        let s3 := match own with
          | some rep => updSeq s2 l rep fun q => { q with hist := histAdd t va n (dpaOf lc) q.hist }
          | none => s2
        vread l own r (bs ++ b) (ps ++ p) s3

end Sys2Proof.Machine
end

