-- ==== Sys2Proof/Machine/Image.lean ====
section
/-! DEFINITION. The consist image: header, role bitmap, tile records, cut, stream and group lists, with
the checks of placement and CFG (R68, R74, R158, R245 to R248, R394). -/

namespace Sys2Proof.Machine

/-- The header's fields (R245). -/
structure Hdr where
  w : Nat
  h : Nat
  flags : Nat
  ii : Nat
  ssplit : Nat
  savesz : Nat
  chscope : Nat
  ntile : Nat
  ncut : Nat
  nstrm : Nat
  ngrp : Nat
  roles : Nat
  tiles : Nat
  cuts : Nat
  strms : Nat
  grps : Nat
  seq : Nat
  seqlen : Nat
  data : Nat
  datalen : Nat
  deriving DecidableEq, Repr

/-- A little-endian field of a byte list. -/
def fieldAt (bs : List Byte) (o n : Nat) : Nat := leNat ((bs.drop o).take n)

/-- The header from its 128 bytes. -/
def hdrOf (b : List Byte) : Hdr :=
  ⟨fieldAt b 8 2, fieldAt b 0xA 2, fieldAt b 6 2, fieldAt b 0xC 2, fieldAt b 0x10 4, fieldAt b 0x14 4, fieldAt b 0x18 8,
   fieldAt b 0x20 4, fieldAt b 0x24 2, fieldAt b 0x26 2, fieldAt b 0x28 2, fieldAt b 0x2C 4, fieldAt b 0x30 4, fieldAt b 0x34 4,
   fieldAt b 0x38 4, fieldAt b 0x3C 4, fieldAt b 0x40 4, fieldAt b 0x44 4, fieldAt b 0x48 4, fieldAt b 0x4C 4⟩

/-- A configuration-word identifier (R243). -/
def cfgId (sect row col word : Nat) : Nat :=
  sect % 16 * 2 ^ 28 + row % 256 * 2 ^ 20 + col % 256 * 2 ^ 12 + word % 4096

/-- Byte offset of the first failing condition, as an identifier in the header (R243, R248). -/
def firstBad (l : List (Bool × Nat)) : Option Nat := (l.find? fun e => !e.1).map (·.2)

/-- Sections named by the header: offset and size (R245). -/
def hdrSections (x : Hdr) : List (Nat × Nat) :=
  [(x.roles, (4 * x.w * x.h + 7) / 8), (x.tiles, 24 * x.ntile), (x.cuts, 8 * x.ncut), (x.strms, 8 * x.nstrm),
   (x.grps, 4 * x.ngrp), (x.seq, x.seqlen), (x.data, x.datalen)]

/-- A section that occupies bytes stands on a multiple of 8, behind the header and below 2^32 (R245, R248). -/
def sectionOk (a : Nat × Nat) : Bool := a.2 == 0 || (a.1 % 8 == 0 && 128 ≤ a.1 && a.1 + a.2 ≤ 2 ^ 32)

/-- Two sections do not overlap; a section of size 0 occupies no bytes. -/
def apart (a b : Nat × Nat) : Bool := a.2 == 0 || b.2 == 0 || a.1 + a.2 ≤ b.1 || b.1 + b.2 ≤ a.1

/-- No two sections overlap. -/
def allApart : List (Nat × Nat) → Bool
  | [] => true
  | a :: r => r.all (apart a) && allApart r

/-- The words that name sections, each with its section: the first that names one which overlaps an earlier one (R243, R248). -/
def firstOverlap : List ((Nat × Nat) × Nat) → List (Nat × Nat) → Option Nat
  | [], _ => none
  | (a, w) :: r, seen => if seen.all (apart a) then firstOverlap r (seen ++ [a]) else some w

/-- Offsets of the header words that name those sections. -/
def hdrWords : List Nat := [0x2C, 0x30, 0x34, 0x38, 0x3C, 0x40, 0x48]

/-- Checks by the word that each names, in rising order of the words. -/
def byWord (l : List (Nat × Bool)) : List (Bool × Nat) :=
  (l.foldl (fun m e => mput m e.1 (mget true m e.1 && e.2)) []).map fun e => (e.2, e.1)

/-- The header checks of R158 and R248: the identifier of the first offending word. -/
def hdrBad (b : List Byte) : Option Nat :=
  let x := hdrOf b
  let id (o : Nat) : Nat := cfgId 0 0 0 (o / 4)
  let secs := (hdrSections x).zip (hdrWords.map id)
  firstBad
    ([(fieldAt b 0 4 == 0xC0A50160, id 0), (fieldAt b 4 2 == 1 && x.flags < 2, id 4),
     (1 ≤ x.w && x.w ≤ 80 && 1 ≤ x.h && x.h ≤ 128 && (x.flags == 0 || (x.w % 8 == 0 && x.h % 8 == 0)), id 8),
     (1 ≤ x.ii && x.ii ≤ 256 && fieldAt b 0xE 2 == 0, id 0xC),
     (x.ssplit % 2048 == 0 && x.ssplit ≤ 2 ^ 20, id 0x10),
     (1 ≤ x.savesz && x.savesz ≤ 262144, id 0x14),
     ((List.range 11).all fun c => bits x.chscope (3 * c) 3 ≤ 4, id 0x18),
     ((List.range 16).all (fun c => bits x.chscope (3 * c) 3 ≤ 4) && x.chscope < 2 ^ 48, id 0x1C),
     (x.ncut ≤ 256 && x.nstrm ≤ 64, id 0x24), (x.ngrp ≤ 256 && fieldAt b 0x2A 2 == 0, id 0x28)] ++
     byWord ((id 0x44, x.seqlen % 4 == 0) :: secs.map (fun e => (e.2, sectionOk e.1)) ++
       (match firstOverlap secs [] with
        | some w => [(w, false)]
        | none => [])) ++
     (List.range 12).map (fun i => (fieldAt b (0x50 + 4 * i) 4 == 0, id (0x50 + 4 * i))))

/-- A tile record (R246). -/
structure TRec where
  col : Nat
  row : Nat
  kind : Nat
  flags : Nat
  nprog : Nat
  nsw : Nat
  progoff : Nat
  cfgoff : Nat
  neb : Nat
  eboff : Nat
  res : Nat
  deriving DecidableEq, Repr

/-- Tile record `i` of the record section. -/
def trecOf (b : List Byte) (i : Nat) : TRec :=
  let f (o n : Nat) : Nat := fieldAt b (24 * i + o) n
  ⟨f 0 1, f 1 1, f 2 1, f 3 1, f 4 2, f 6 2, f 8 4, f 12 4, f 16 2, f 20 4, f 18 2⟩

/-- Words of a configuration body (R246). -/
def bodyWords (t : TRec) : Nat := 48 + 98 + 9 + (if t.flags % 2 == 1 then 40 else 0) + (t.nsw + 1) / 2

/-- Sections that a tile record names (R245). -/
def trecSections (t : TRec) : List (Nat × Nat) :=
  [(t.progoff, 4 * t.nprog), (t.cfgoff, 4 * bodyWords t), (t.eboff, 8 * t.neb)]

/-- The words of a tile record that name its sections. -/
def trecWords (t : TRec) : List Nat := [2, 3, 5].map (cfgId 1 t.row t.col)

/-- Checks of the tile records against roles and kinds, word by word (R243, R246, R248); `secs` are the header's sections. -/
def trecsBad (x : Hdr) (roles : NSet) (ts : List TRec) : Option Nat :=
  let id (t : TRec) (w : Nat) : Nat := cfgId 1 t.row t.col w
  let secs := (hdrSections x).zip (hdrWords.map fun o => cfgId 0 0 0 (o / 4)) ++
    (ts.map fun t => (trecSections t).zip (trecWords t)).flatten
  let clash := firstOverlap secs []
  firstBad (((ts.zipIdx).map fun e =>
    let t := e.1
    let key := t.row * (2 * x.w) + t.col
    let sec (k : Nat) : Bool := ((trecSections t)[k]?).all sectionOk && clash != some (id t ([2, 3, 5].getD k 0))
    [(t.col < 2 * x.w && t.row < 2 * x.h && nhas roles key && t.kind == tileKind t.col t.row && t.flags < 2 &&
        ((ts.take e.2).all fun u => !(u.col == t.col && u.row == t.row)), id t 0),
     (t.nprog ≤ 1024 && t.nsw ≤ 32, id t 1), (sec 0, id t 2), (sec 1, id t 3),
     ((t.neb == 0 || t.kind == 2) && t.res == 0, id t 4), (sec 2, id t 5)]).flatten)

/-- Stream entries (R247). -/
def strmOf (b : List Byte) (i : Nat) : StrmEnt :=
  let f (o : Nat) : Nat := fieldAt b (8 * i + o) 1
  ⟨f 0, f 1, f 2, f 3, f 4⟩

/-- Cut entries (R247): column, row, track, id. -/
def cutOf (b : List Byte) (i : Nat) : Nat × Nat × Nat × Nat :=
  let f (o : Nat) : Nat := fieldAt b (8 * i + o) 1
  (f 0, f 1, f 2, f 3)

/-- Checks of the cut, stream and group lists, word by word (R243, R247, R248). -/
def listsBad (x : Hdr) (cb sb gb : List Byte) : Option Nat :=
  firstBad (
    ((List.range x.ncut).map fun i =>
      let c := cutOf cb i
      [(c.2.2.1 < 16 && (List.range i).all (fun j => (cutOf cb j).2.2.2 != c.2.2.2), cfgId 8 0 0 (2 * i)),
       (fieldAt cb (8 * i + 4) 4 == 0, cfgId 8 0 0 (2 * i + 1))]).flatten ++
    ((List.range x.nstrm).map fun i =>
      let e := strmOf sb i
      [(e.id < 64 && 16 ≤ e.port && e.port ≤ 27 && (List.range i).all (fun j => (strmOf sb j).id != e.id), cfgId 9 0 0 (2 * i)),
       (e.ctx < 4 && fieldAt sb (8 * i + 5) 3 == 0, cfgId 9 0 0 (2 * i + 1))]).flatten ++
    (List.range x.ngrp).map (fun i => (fieldAt gb (4 * i + 1) 1 == 0, cfgId 10 0 0 i)))

/-- What reading an image answers. -/
inductive ImgRes
  | ok (x : Hdr) (im : Img) (ts : List TRec) (s : State)
  /-- Cause, fault address, identifier. -/
  | bad (cause addr cfgid : Nat) (s : State)
  | wait (job : Nat) (s : State)
  | busy (s : State)

/-- A synchronous read that continues; a poisoned byte is POISON_CONTROL (R143, R270). `own`: see `vread`. -/
def rdThen (s : State) (l : Nat) (own : Option Bool) (va n : Nat) (k : List Byte → State → ImgRes) : ImgRes :=
  match vread l own (lineRuns va n) [] [] s with
  | .ok b p s1 => if p.any id then .bad cPCTL (va + ((p.findIdx? (· == true)).getD 0)) 0 s1 else k b s1
  | .fault c a s1 => .bad c a 0 s1
  | .wait j s1 => .wait j s1
  | .busy s1 => .busy s1

/-- Roles from the bitmap: keys of used tiles (R245). -/
def rolesOf (b : List Byte) (n : Nat) : NSet :=
  (List.range n).filter fun i => (b.getD (i / 8) 0).getLsbD (i % 8)

/-- SAVEREQ of R394 from each tile's kind, mode and bound port depths. -/
def saveReq (ts : List (Nat × Bool × List Nat)) (kinds : List Nat) : Nat :=
  let per := ts.map fun t => 12288 + (if t.2.1 then 4 else 1) * 2048 + 128 * t.2.2.foldl (· + ·) 0
  let stores := (kinds.map fun k => if k = 2 then 2 ^ 20 else if k = 0 then 152 * 1024 else 0).foldl (· + ·) 0
  (8192 + per.foldl (· + ·) 0 + stores + 4095) / 4096 * 4096

/-- Mode and bound depths of a body: MCTX and, per context that runs, the depth sum (R240, R241). -/
def bodyPorts (b : List Byte) : Bool × List Nat :=
  let wd (i : Nat) : Nat := fieldAt b (4 * i) 4
  let m := (wd (48 + 98)).testBit 0
  (m, (List.range (if m then 4 else 1)).map fun k =>
    ((List.range 12).map fun p => let a := wd (48 + 24 * k + 2 * p); if a.testBit 31 then bits a 26 5 + 1 else 0).foldl (· + ·) 0)

/-- Bodies read for SAVEREQ; one that cannot be read counts no ports. -/
def readPorts (s : State) (l va : Nat) (ts : List TRec) : List (Nat × Bool × List Nat) :=
  ts.map fun t => match vread l none (lineRuns (va + t.cfgoff) (4 * bodyWords t)) [] [] s with
    | .ok b _ _ => let p := bodyPorts b; (t.kind, p.1, p.2)
    | _ => (t.kind, false, [])

/-- The image at `va` is read and checked as placement does (R248). -/
def readImage (s : State) (l : Nat) (own : Option Bool) (va : Nat) : ImgRes :=
  rdThen s l own va 128 fun hb s1 =>
    match hdrBad hb with
    | some id => .bad cCONFIG 0 id s1
    | none =>
      let x := hdrOf hb
      let n := 4 * x.w * x.h
      rdThen s1 l own (va + x.roles) ((n + 7) / 8) fun rb s2 =>
      rdThen s2 l own (va + x.tiles) (24 * x.ntile) fun tb s3 =>
      rdThen s3 l own (va + x.cuts) (8 * x.ncut) fun cb s4 =>
      rdThen s4 l own (va + x.strms) (8 * x.nstrm) fun sb s5 =>
      rdThen s5 l own (va + x.grps) (4 * x.ngrp) fun gb s6 =>
        let roles := rolesOf rb n
        let ts := (List.range x.ntile).map (trecOf tb)
        let secs := hdrSections x ++ (ts.map trecSections).flatten
        match trecsBad x roles ts with
        | some id => .bad cCONFIG 0 id s6
        | none =>
          match listsBad x cb sb gb with
            | some id => .bad cCONFIG 0 id s6
            | none =>
              let im : Img :=
                { w := x.w, h := x.h, diealign := x.flags == 1, ii := x.ii, ssplit := x.ssplit, savesz := x.savesz,
                  chscope := BitVec.ofNat 64 x.chscope, seq := x.seq, seqlen := x.seqlen, roles := roles,
                  cuts := (List.range x.ncut).map (cutOf cb), strms := (List.range x.nstrm).map (strmOf sb),
                  grps := (List.range x.ngrp).map (fun i => (fieldAt gb (4 * i) 1, fieldAt gb (4 * i + 2) 2)),
                  saveReq := saveReq (readPorts s6 l va ts) (roles.map fun k => tileKind (k % (2 * x.w)) (k / (2 * x.w))),
                  imgEnd := (secs.map fun e => if e.2 = 0 then 0 else e.1 + e.2).foldl max 128 }
              .ok x im ts s6

/-- Words of a byte list as an indexed collection, zero words unlisted. -/
def wordsOf (b : List Byte) (o n : Nat) : List (Nat × Word) :=
  (List.range n).foldl (fun m i => mset 0 m i (BitVec.ofNat 32 (fieldAt b (o + 4 * i) 4))) []

/-- A plane from a tile's program words, body and descriptors (R246, R247). -/
def planeOf (t : TRec) (pb bb eb : List Byte) : Plane :=
  let c := if t.flags % 2 == 1 then 40 else 0
  { prog := wordsOf pb 0 t.nprog, ht := wordsOf bb 0 48, pb := wordsOf bb 192 98, eb := wordsOf bb 584 9,
    cb := wordsOf bb 620 c,
    sw := (List.range t.nsw).foldl (fun m i => mset 0 m i (BitVec.ofNat 16 (fieldAt bb (620 + 4 * c + 2 * i) 2))) [],
    ebd := (List.range t.neb).map fun i => (fieldAt eb (8 * i) 4, fieldAt eb (8 * i + 4) 2, fieldAt eb (8 * i + 6) 2), bad := [] }

end Sys2Proof.Machine
end

