-- ==== Sys2Proof/Machine/SeqAlu.lean ====
section
/-! DEFINITION. Sequencer words of the register, immediate and branch groups (R258 to R261), and the
words NOP, PTEST, PCLR (R156, R287). -/

namespace Sys2Proof.Machine

/-- A register result: written with its poison, the PC moves on (R146, R255). -/
def aluDone (s : State) (l : Nat) (rep : Bool) (xd : BitVec 5) (v : Dword) (p : Bool) : State :=
  updSeq s l rep fun q => seqNext (xset q xd v p)

/-- A two-source ALU word (R258): poisoned when either source is (R146). -/
def alu2 (f : Dword → Dword → Dword) (xd xa xb : BitVec 5) (s : State) : Res :=
  onSeq s [xd, xa, xb] fun l rep _ q => aluDone s l rep xd (f (xget q xa) (xget q xb)) (xpois q xa || xpois q xb)

/-- A one-source ALU word. -/
def alu1 (f : Dword → Dword) (xd xa : BitVec 5) (s : State) : Res :=
  onSeq s [xd, xa] fun l rep _ q => aluDone s l rep xd (f (xget q xa)) (xpois q xa)

/-- Signed quotient of R258: −1 for a zero divisor, else truncated. -/
def divS (a b : Dword) : Int := if b = 0 then -1 else Int.tdiv (signed a) (signed b)
/-- Unsigned quotient of R258. -/
def divU (a b : Dword) : Nat := if b = 0 then 2 ^ 64 - 1 else a.toNat / b.toNat
/-- Number of leading zero bits (R258). -/
def clz64 (a : Dword) : Nat :=
  ((List.range 64).find? fun i => a.getLsbD (63 - i)).getD 64
/-- Number of one bits (R258). -/
def popc64 (a : Dword) : Nat := ((List.range 64).filter fun i => a.getLsbD i).length

/-- The results of R258, exact and then mod 2^64. -/
def vMul (a b : Dword) : Dword := BitVec.ofNat 64 (a.toNat * b.toNat)
def vMulh (a b : Dword) : Dword := wrap 64 (Int.fdiv (signed a * signed b) (2 ^ 64))
def vMulhu (a b : Dword) : Dword := BitVec.ofNat 64 (a.toNat * b.toNat / 2 ^ 64)
def vDiv (a b : Dword) : Dword := wrap 64 (divS a b)
def vDivu (a b : Dword) : Dword := BitVec.ofNat 64 (divU a b)
def vRem (a b : Dword) : Dword := wrap 64 (signed a - divS a b * signed b)
def vRemu (a b : Dword) : Dword := wrap 64 ((a.toNat : Int) - (divU a b : Int) * (b.toNat : Int))
def vShl (a b : Dword) : Dword := BitVec.ofNat 64 (a.toNat * 2 ^ (b.toNat % 64))
def vShr (a b : Dword) : Dword := BitVec.ofNat 64 (a.toNat / 2 ^ (b.toNat % 64))
def vSha (a b : Dword) : Dword := wrap 64 (Int.fdiv (signed a) (2 ^ (b.toNat % 64)))
def vSlt (a b : Dword) : Dword := if signed a < signed b then 1 else 0
def vSltu (a b : Dword) : Dword := if a.toNat < b.toNat then 1 else 0
def vMin (a b : Dword) : Dword := if signed a ≤ signed b then a else b
def vMax (a b : Dword) : Dword := if signed a ≤ signed b then b else a
def vMinu (a b : Dword) : Dword := if a.toNat ≤ b.toNat then a else b
def vMaxu (a b : Dword) : Dword := if a.toNat ≤ b.toNat then b else a

def execAdd (xd xa xb : BitVec 5) (s : State) : Res := alu2 (fun a b => a + b) xd xa xb s
def execSub (xd xa xb : BitVec 5) (s : State) : Res := alu2 (fun a b => a - b) xd xa xb s
def execMul (xd xa xb : BitVec 5) (s : State) : Res := alu2 vMul xd xa xb s
def execMulh (xd xa xb : BitVec 5) (s : State) : Res := alu2 vMulh xd xa xb s
def execMulhu (xd xa xb : BitVec 5) (s : State) : Res := alu2 vMulhu xd xa xb s
def execDiv (xd xa xb : BitVec 5) (s : State) : Res := alu2 vDiv xd xa xb s
def execDivu (xd xa xb : BitVec 5) (s : State) : Res := alu2 vDivu xd xa xb s
def execRem (xd xa xb : BitVec 5) (s : State) : Res := alu2 vRem xd xa xb s
def execRemu (xd xa xb : BitVec 5) (s : State) : Res := alu2 vRemu xd xa xb s
def execAnd (xd xa xb : BitVec 5) (s : State) : Res := alu2 (fun a b => a &&& b) xd xa xb s
def execOr (xd xa xb : BitVec 5) (s : State) : Res := alu2 (fun a b => a ||| b) xd xa xb s
def execXor (xd xa xb : BitVec 5) (s : State) : Res := alu2 (fun a b => a ^^^ b) xd xa xb s
def execShl (xd xa xb : BitVec 5) (s : State) : Res := alu2 vShl xd xa xb s
def execShr (xd xa xb : BitVec 5) (s : State) : Res := alu2 vShr xd xa xb s
def execSha (xd xa xb : BitVec 5) (s : State) : Res := alu2 vSha xd xa xb s
def execSlt (xd xa xb : BitVec 5) (s : State) : Res := alu2 vSlt xd xa xb s
def execSltu (xd xa xb : BitVec 5) (s : State) : Res := alu2 vSltu xd xa xb s
def execMin (xd xa xb : BitVec 5) (s : State) : Res := alu2 vMin xd xa xb s
def execMax (xd xa xb : BitVec 5) (s : State) : Res := alu2 vMax xd xa xb s
def execMinu (xd xa xb : BitVec 5) (s : State) : Res := alu2 vMinu xd xa xb s
def execMaxu (xd xa xb : BitVec 5) (s : State) : Res := alu2 vMaxu xd xa xb s
def execClz (xd xa : BitVec 5) (s : State) : Res := alu1 (fun a => BitVec.ofNat 64 (clz64 a)) xd xa s
def execPopc (xd xa : BitVec 5) (s : State) : Res := alu1 (fun a => BitVec.ofNat 64 (popc64 a)) xd xa s

/-- Immediates of R221 and R259: sign-extended or zero-extended to 64 bits. -/
def simm (i : BitVec 16) : Dword := i.signExtend 64
/-- Zero-extended immediate. -/
def zimm {n : Nat} (i : BitVec n) : Dword := i.setWidth 64

/-- An immediate form computes as its register counterpart (R259). -/
def aluI (f : Dword → Dword → Dword) (b : Dword) (xd xa : BitVec 5) (s : State) : Res :=
  onSeq s [xd, xa] fun l rep _ q => aluDone s l rep xd (f (xget q xa) b) (xpois q xa)

def execAddi (xd xa : BitVec 5) (i : BitVec 16) (s : State) : Res := aluI (fun a b => a + b) (simm i) xd xa s
def execAndi (xd xa : BitVec 5) (i : BitVec 16) (s : State) : Res := aluI (fun a b => a &&& b) (zimm i) xd xa s
def execOri (xd xa : BitVec 5) (i : BitVec 16) (s : State) : Res := aluI (fun a b => a ||| b) (zimm i) xd xa s
def execXori (xd xa : BitVec 5) (i : BitVec 16) (s : State) : Res := aluI (fun a b => a ^^^ b) (zimm i) xd xa s
def execShli (xd xa : BitVec 5) (i : BitVec 6) (s : State) : Res := aluI vShl (zimm i) xd xa s
def execShri (xd xa : BitVec 5) (i : BitVec 6) (s : State) : Res := aluI vShr (zimm i) xd xa s
def execShai (xd xa : BitVec 5) (i : BitVec 6) (s : State) : Res := aluI vSha (zimm i) xd xa s
def execSlti (xd xa : BitVec 5) (i : BitVec 16) (s : State) : Res := aluI vSlt (simm i) xd xa s
def execSltiu (xd xa : BitVec 5) (i : BitVec 16) (s : State) : Res := aluI vSltu (simm i) xd xa s

/-- LIH (R221, R259): always clean. -/
def execLih (xd : BitVec 5) (i : BitVec 16) (s : State) : Res :=
  onSeq s [xd] fun l rep _ _ => aluDone s l rep xd (simm i <<< 16) false

/-- LIK (R221, R259): bits [16p+15:16p] of xd, the others and the poison kept. -/
def execLik (xd : BitVec 5) (p : BitVec 2) (i : BitVec 16) (s : State) : Res :=
  onSeq s [xd] fun l rep _ q =>
    let sh := 16 * p.toNat
    let m : Dword := BitVec.ofNat 64 (0xFFFF * 2 ^ sh)
    aluDone s l rep xd ((xget q xd &&& ~~~m) ||| (zimm i <<< sh)) (xpois q xd)

/-- Target of a branch or jump: PC + 4·offset in 56 bits (R221, R253, R260). -/
def brTarget (q : Seq) (off : Int) : Nat := ((q.pc : Int) + 4 * off).toNat

/-- Control goes to an address inside the program region (R254, R260). -/
def goto (s : State) (l : Nat) (rep : Bool) (ls : Lease) (target : Nat) (link : Seq → Seq) : State :=
  if inRegion ls target then updSeq s l rep fun q => { seqNext (link q) with pc := target }
  else seqFault s l rep cBRANCH target

/-- A conditional branch (R260): poison faults whether taken or not, an untaken one checks nothing. -/
def branch (c : Dword → Dword → Bool) (xa xb : BitVec 5) (off : BitVec 16) (s : State) : Res :=
  onSeq s [xa, xb] fun l rep ls q =>
    if xpois q xa || xpois q xb then seqFault s l rep cPCTL 0
    else if c (xget q xa) (xget q xb) then goto s l rep ls (brTarget q (signed off)) id
    else updSeq s l rep seqNext

def execBeq (xa xb : BitVec 5) (off : BitVec 16) (s : State) : Res := branch (fun a b => a == b) xa xb off s
def execBne (xa xb : BitVec 5) (off : BitVec 16) (s : State) : Res := branch (fun a b => a != b) xa xb off s
def execBlt (xa xb : BitVec 5) (off : BitVec 16) (s : State) : Res :=
  branch (fun a b => decide (signed a < signed b)) xa xb off s
def execBge (xa xb : BitVec 5) (off : BitVec 16) (s : State) : Res :=
  branch (fun a b => decide (signed b ≤ signed a)) xa xb off s
def execBltu (xa xb : BitVec 5) (off : BitVec 16) (s : State) : Res :=
  branch (fun a b => decide (a.toNat < b.toNat)) xa xb off s
def execBgeu (xa xb : BitVec 5) (off : BitVec 16) (s : State) : Res :=
  branch (fun a b => decide (b.toNat ≤ a.toNat)) xa xb off s

/-- JMP (R261). -/
def execJmp (off : BitVec 26) (s : State) : Res :=
  onSeq s [] fun l rep ls q => goto s l rep ls (brTarget q (signed off)) id

/-- JAL (R261): the link goes to X31; a faulting JAL writes none. -/
def execJal (off : BitVec 26) (s : State) : Res :=
  onSeq s [31] fun l rep ls q =>
    goto s l rep ls (brTarget q (signed off)) fun q => xset q 31 (BitVec.ofNat 64 (q.pc + 4)) false

/-- JALR (R261): the target is computed before the link is written. -/
def execJalr (xd xa : BitVec 5) (i : BitVec 16) (s : State) : Res :=
  onSeq s [xd, xa] fun l rep ls q =>
    let t := (xget q xa + simm i).toNat
    if xpois q xa then seqFault s l rep cPCTL 0
    else if t % 4 ≠ 0 then seqFault s l rep cBRANCH t
    else goto s l rep ls t fun q => xset q xd (BitVec.ofNat 64 (q.pc + 4)) false

/-- NOP (R287). -/
def execNop (s : State) : Res := onSeq s [] fun l rep _ _ => updSeq s l rep seqNext

/-- PTEST (R156, R287). -/
def execPtest (xd xa : BitVec 5) (s : State) : Res :=
  onSeq s [xd, xa] fun l rep _ q => aluDone s l rep xd (if xpois q xa then 1 else 0) false

/-- PCLR (R156, R287). -/
def execPclr (xd xa : BitVec 5) (s : State) : Res :=
  onSeq s [xd, xa] fun l rep _ q => aluDone s l rep xd (xget q xa) false

end Sys2Proof.Machine
end

