-- ==== Sys2Proof/Machine/SeqMem.lean ====
section
/-! DEFINITION. Sequencer loads, stores, atomics and fences (R262 to R266), system registers (R256,
R257), SWR and TRAP (R288). -/

namespace Sys2Proof.Machine

/-- Bytes of an access size (R262). -/
def MSize.bytes : MSize → Nat
  | .b => 1 | .h => 2 | .w => 4 | .d => 8
/-- Bytes of an atomic size (R264). -/
def ASize.bytes : ASize → Nat
  | .w => 4 | .d => 8

/-- The checks of R263 that need no translation: the cause of the first that fails. -/
def seqCheck (ls : Lease) (q : Seq) (xaP : Bool) (ea n : Nat) (x : Acc) : Option Nat :=
  if xaP then some cPADDR
  else if ea % n ≠ 0 then some cALIGN
  else if 2 ^ 56 ≤ ea then some cTRANS
  else viewCheck ls q.sview x

/-- A sequencer access is issued as an address token (R48, R128, R263, R418). -/
def seqIssue (s : State) (l : Nat) (rep : Bool) (ls : Lease) (q : Seq) (op : MOp) (scope : Scope) (acq rel : Bool)
    (p : Part) (dst : RDst) : State :=
  let (aft, fl) := seqOverlap s l rep p.va p.len none
  let r : Req :=
    { iss := .seq l rep, op := op, view := q.sview, floor := fl, after := wide aft, acq := acq, rel := rel, scope := scope,
      posted := false, stage := if ls.paired then .exit else .issued, parts := [p], dst := dst, chain := none, pc := q.pc,
      word := q.word, born := 0, key := if ls.paired then [0, q.instr] else [] }
  let (s1, id) := addReq s r
  updSeq s1 l rep fun q => { q with op := .addr id }

/-- LD, ST and AMO share their checks and their issue (R262 to R264). A word whose address token is
under way waits. -/
def seqAccess (s : State) (l : Nat) (rep : Bool) (ls : Lease) (q : Seq) (xaP : Bool) (ea n : Nat) (op : MOp)
    (scope : Scope) (acq rel : Bool) (p : Part) (dst : RDst) : State :=
  if q.op ≠ .none then s
  else match seqCheck ls q xaP ea n op.acc with
    | some c => seqFault s l rep c ea
    | none => seqIssue s l rep ls q op scope acq rel p dst

/-- Effective address of LD and ST (R262). -/
def effAddr (a : Dword) (off : BitVec 12) : Nat := (a + off.signExtend 64).toNat

/-- LD (R262, R263): ord is an acquire at PANEL scope (R128). -/
def execLd (xd xa : BitVec 5) (size : MSize) (sgn ord : Bool) (off : BitVec 12) (s : State) : Res :=
  onSeq s [xd, xa] fun l rep ls q =>
    let n := MSize.bytes size
    let ea := effAddr (xget q xa) off
    seqAccess s l rep ls q (xpois q xa) ea n .read .panel ord false (mkPart 0 ea n) (.x xd n sgn)

/-- ST (R262, R263): ord is a release at PANEL scope (R128). -/
def execSt (xd xa : BitVec 5) (size : MSize) (ord : Bool) (off : BitVec 12) (s : State) : Res :=
  onSeq s [xd, xa] fun l rep ls q =>
    let n := MSize.bytes size
    let ea := effAddr (xget q xa) off
    seqAccess s l rep ls q (xpois q xa) ea n .write .panel false ord
      { mkPart 0 ea n with data := leBytes n (xget q xd).toNat, pois := List.replicate n (xpois q xd) } .none

/-- AMO (R264): acquire and release at its scope; MIN and MAX sign-extend the old value. -/
def amo (op : AOp) (xd xa xb : BitVec 5) (size : ASize) (scope : Scope) (s : State) : Res :=
  onSeq s [xd, xa, xb] fun l rep ls q =>
    let n := ASize.bytes size
    let ea := (xget q xa).toNat
    seqAccess s l rep ls q (xpois q xa) ea n (.atomic op) scope true true
      { mkPart 0 ea n with
        data := leBytes n (xget q xb).toNat, pois := List.replicate n (xpois q xb)
        cmp := leBytes n (xget q xd).toNat, cmpPois := xpois q xd }
      (.x xd n (op == .min || op == .max))

def execAmoAdd (xd xa xb : BitVec 5) (sz : ASize) (sc : Scope) (s : State) : Res := amo .add xd xa xb sz sc s
def execAmoAnd (xd xa xb : BitVec 5) (sz : ASize) (sc : Scope) (s : State) : Res := amo .and xd xa xb sz sc s
def execAmoOr (xd xa xb : BitVec 5) (sz : ASize) (sc : Scope) (s : State) : Res := amo .or xd xa xb sz sc s
def execAmoXor (xd xa xb : BitVec 5) (sz : ASize) (sc : Scope) (s : State) : Res := amo .xor xd xa xb sz sc s
def execAmoMin (xd xa xb : BitVec 5) (sz : ASize) (sc : Scope) (s : State) : Res := amo .min xd xa xb sz sc s
def execAmoMax (xd xa xb : BitVec 5) (sz : ASize) (sc : Scope) (s : State) : Res := amo .max xd xa xb sz sc s
def execAmoMinu (xd xa xb : BitVec 5) (sz : ASize) (sc : Scope) (s : State) : Res := amo .minu xd xa xb sz sc s
def execAmoMaxu (xd xa xb : BitVec 5) (sz : ASize) (sc : Scope) (s : State) : Res := amo .maxu xd xa xb sz sc s
def execAmoXchg (xd xa xb : BitVec 5) (sz : ASize) (sc : Scope) (s : State) : Res := amo .xchg xd xa xb sz sc s
def execAmoCas (xd xa xb : BitVec 5) (sz : ASize) (sc : Scope) (s : State) : Res := amo .cas xd xa xb sz sc s

/-- Those of a set of requests that are still to be performed. -/
def stillOpen (s : State) (ids : NSet) : NSet := ids.filter fun id => match reqOf s id with
  | some r => r.stage.open_
  | none => false

/-- A SYS fence waits for every earlier write of the sequencer, then for the flush of the host ports that carried one (R135). What is
left to wait for: `none` when nothing is. -/
def sysWait (s : State) (i : Issuer) (ids : NSet) : State × Option NSet :=
  let left := stillOpen s ids
  if left != [] then (s, some left)
  else if (ordOf s i).ports != [] then
    let (s1, fl) := sysFlush s i
    (s1, some fl)
  else (s, none)

/-- FENCE (R126, R266): the named pairs of the sequencer's accesses; SYS waits as R135 states. -/
def execFence (kinds : BitVec 4) (sc : Scope) (s : State) : Res :=
  onSeq s [] fun l rep _ q =>
    let i := Issuer.seq l rep
    let (s1, w) := if sc = .sys then sysWait s i (match q.op with
      | .fence ids => ids
      | _ => q.ord.outW) else (s, none)
    match w with
    | some ids => updSeq s1 l rep fun q => { q with op := .fence ids }
    | none => updSeq s1 l rep fun q => seqNext { q with ord := fenceOrd kinds sc q.ord }

/-- A view-state word (R96). -/
def viewWord (v : View) : Nat := v.sts * 2 ^ 16 + v.kind * 2 ^ 12 + v.doom

/-- Tiles of the child reserve that no child holds (R256, R377). -/
def reserveLeft (ls : Lease) : Nat :=
  ls.lrec.reserve - ((ls.children.filter fun c => c.2.fromReserve && c.2.ended.isNone).map (·.2.tiles)).foldl (· + ·) 0

/-- Bits of LLSX or LLSY: a seam between granules g and g+1, from an origin in tiles (R256). -/
def seamBits (org n lo : Nat) : Nat :=
  (((List.range 64).filter fun i => i + lo + 1 < n && (org + 2 * (i + lo + 1)) % 16 == 0).map fun i => 2 ^ i).foldl (· + ·) 0

/-- The value of a system register (R256). -/
def sysReg (s : State) (l : Nat) (ls : Lease) (q : Seq) (n : Nat) : Nat :=
  match n with
  | 0x000 => l % 4096 * 4096 + ls.tenant % 4096
  | 0x001 => anchorDie ls * 2 ^ 24 + ls.seqNo % 16 * 2 ^ 16 + ls.row / 2 * 2 ^ 8 + ls.col / 2
  | 0x002 => ls.img.h * 256 + ls.img.w
  | 0x003 => ls.lrec.image
  | 0x004 => reserveLeft ls
  | 0x010 => tickOf s (anchorDie ls) % 2 ^ 40
  | 0x011 => q.cycle
  | 0x020 => q.sview
  | 0x021 => q.atomst.toNat
  | 0x022 => ls.mround
  | 0x023 => q.donecnt % 65536
  | 0x030 => q.tvec
  | 0x031 => q.epc
  | 0x032 => q.ecause.toNat
  | 0x033 => q.eaddr.toNat
  | 0x034 => (ls.mput - ls.mdone - b2n q.intrap) % 256 * 256 + b2n q.intrap
  | 0x035 => ls.mbox
  | 0x036 => q.tscr.toNat
  | 0x050 => ((List.range 4).map fun k =>
      let x := mget ⟨false, false⟩ ls.shadows k
      (b2n x.doomed * 2 + b2n x.pending) * 2 ^ (4 * k)).foldl (· + ·) 0
  | 0x100 => 420 * 2 ^ 32 + 24 * 2 ^ 16 + 1
  | 0x101 => seamBits ls.col ls.img.w 0
  | 0x102 => seamBits ls.col ls.img.w 64
  | 0x103 => seamBits ls.row ls.img.h 0
  | 0x104 => seamBits ls.row ls.img.h 64
  | n => if 0x041 ≤ n && n ≤ 0x047 then viewWord (viewOf ls (n - 0x040))
    else if 0x060 ≤ n && n ≤ 0x09F then (mget Stream.zero ls.streams (n - 0x060)).scnt else 0

/-- A write of a system register; RO registers and reserved bits ignore it (R257). -/
def sysRegWr (q : Seq) (n : Nat) (v : Dword) : Seq :=
  match n with
  | 0x020 => { q with sview := v.toNat % 8 }
  | 0x030 => { q with tvec := v.toNat % 2 ^ 56 / 4 * 4 }
  | 0x031 => { q with epc := v.toNat % 2 ^ 56 / 4 * 4 }
  | 0x036 => { q with tscr := v }
  | _ => q

/-- SWR (R257): a poisoned source faults and the register keeps its value. -/
def execSwr (xa : BitVec 5) (n : BitVec 10) (s : State) : Res :=
  onSeq s [xa] fun l rep _ q =>
    if !sysRegAssigned n.toNat then seqFault s l rep cILLEGAL 0
    else if xpois q xa then seqFault s l rep cPCTL 0
    else updSeq s l rep fun q => seqNext (sysRegWr q n.toNat (xget q xa))

/-- TRAP (R288): cause TRAP with its code, EADDR 0, EPC at the TRAP. -/
def execTrap (code : BitVec 10) (s : State) : Res :=
  onSeq s [] fun l rep _ _ => seqFaultG s l rep cTRAP 0 fun r => { r with code := code.toNat }

end Sys2Proof.Machine
end

