-- ==== Sys2Proof/Machine/Tensor.lean ====
section
/-! DEFINITION. Byte sequences of tensor descriptors (R278), and the line by line view that an engine takes of them. -/

namespace Sys2Proof.Machine

/-- Size of a byte sequence (R278). -/
def tdSize (t : TD) : Nat := (t.dims.map (·.1)).foldl (· * ·) 1

/-- Address of byte `q` of the sequence, modulo 2^64: one outside its space faults at the access (R278). -/
def tdAddr (t : TD) (q : Nat) : Nat :=
  let step (a : Nat × Int) (e : Nat × Int) : Nat × Int := (a.1 / e.1, a.2 + ((a.1 % e.1 : Nat) : Int) * e.2)
  (BitVec.ofInt 64 (t.dims.foldl step (q, (t.base : Int))).2).toNat

/-- Lines that the bytes of a sequence lie in. -/
def tdLines (t : TD) : List Nat := ((List.range (tdSize t)).map fun q => tdAddr t q / 128).eraseDups
/-- Positions of the bytes of a line. -/
def tdIn (t : TD) (line : Nat) : List Nat := (List.range (tdSize t)).filter fun q => tdAddr t q / 128 == line

/-- Rows of a sequence: address and bytes of each. -/
def tdRows (t : TD) : List (Nat × Nat) :=
  let e := (t.dims.headD (1, 0)).1
  (List.range (tdSize t / e)).map fun i => (tdAddr t (i * e), e)

/-- Keys in runs whose bytes stand side by side in one line: first key and count. -/
def keyRuns (f : Nat → Nat) : List Nat → List (Nat × Nat)
  | [] => []
  | q :: r =>
    match keyRuns f r with
    | (p, n) :: u => if q + 1 = p && f q + 1 = f p && f q / 128 = f p / 128 then (q, n + 1) :: u else (q, 1) :: (p, n) :: u
    | [] => [(q, 1)]

/-- Destination of an operation (R279 to R281). -/
def EngKind.dst : EngKind → TD
  | .copy _ _ d => d
  | .gath _ _ _ _ d => d
  | .coll _ _ _ _ _ _ _ _ _ d => d

/-- The accesses of an operation (DESIGN CHOICE: one per row of a sequence, and one per index; log 52), by address and bytes. -/
def EngKind.rows : EngKind → List (Nat × Nat)
  | .copy _ s d => tdRows s ++ tdRows d
  | .gath j n i t d => (List.range j).map (fun r => (tdAddr i (r * n), n)) ++ tdRows t ++ tdRows d
  | .coll _ _ _ _ _ _ _ _ s d => tdRows s ++ tdRows d
/-- Does the access that an address belongs to straddle (R85, R86)? -/
def EngKind.strad (k : EngKind) (a : Nat) : Bool :=
  k.rows.any fun r => r.1 ≤ a && a < r.1 + r.2 && r.1 / 128 != (r.1 + r.2 - 1) / 128

/-- May the operation still write pending versions of its shadow (R107)? A line on a page that cannot be written, or is
unversioned, gives none; of one on a page that is not present nothing is known yet. -/
def EngOp.pending (s : State) (l : Nat) (e : EngOp) : Bool :=
  let t := e.kind.dst
  let open_ (line : Nat) : Bool := match e.left with
    | some ls => ls.contains line || !e.cur.isEmpty
    | none => true
  t.space == 0 && (tdLines t).any fun n => open_ n && (match (translate s l (((tdIn t n).map (tdAddr t)).headD 0) .wr false).1 with
    | .ok _ ver => ver
    | .absent .. => true
    | .fault .. => false)

end Sys2Proof.Machine
end

