-- ==== Sys2Proof/Machine/SeqVer.lean ====
section
/-! DEFINITION. Words of the version group (R97, R103, R108, R267, R268), the steps of commits and
publications (R104 to R106, R108), and the lockstep of a paired lease's sequencers with its rollback
(R418, R419, R421). -/

namespace Sys2Proof.Machine

/-- A lease is stopped by force with an end cause (R392, R398); STOP_COMPLETE finishes. -/
def forceStop (s : State) (l cause : Nat) : State :=
  updLease s l fun ls => if ls.state = .stop then ls else { ls with state := .stop, endc := cause }

/-- A commit or publication of the lease has passed its lock phase (R105). -/
def inWritePhase (ls : Lease) : Bool :=
  match ls.commit with
  | some c => c.phase != 0
  | none => false

/-- Lines locked under a commit of lease `l` are unlocked (R104). -/
def unlockAll (s : State) (l : Nat) : State :=
  s.lines.foldl (init := s) fun s e =>
    if (e.2.lock.map (·.lease)) == some l then setLine s e.1 { lineOf s e.1 with lock := none } else s

/-- A mismatch of a pair (R421): both rectangles stop issuing, and RESTORE_COMPLETE brings the checkpoint back; the
second one before a checkpoint stops the pair. -/
def rollback (s : State) (l : Nat) : State :=
  match leaseOf s l with
  | none => s
  | some ls =>
    if ls.mismatches ≠ 0 || (mfind s.awaitSave l).isNone then forceStop s l cCMP
    else updLease s l fun ls => { ls with state := .restore, purpose := .checkpoint }

/-- Registers of the primary copied to the replica after a step that both take once (R418). -/
def mirror (s : State) (l : Nat) : State :=
  updLease s l fun ls =>
    if ls.paired then
      let q := ls.seq
      let r : Seq :=
        { ls.seqR with
          x := q.x
          xp := q.xp
          pc := q.pc
          op := SeqOp.none
          saved := q.saved
          instr := q.instr
          epc := q.epc
          ecause := q.ecause
          eaddr := q.eaddr
          intrap := q.intrap
          donecnt := q.donecnt }
      { ls with seqR := r }
    else ls

/-- The reply of a shared step enters the log of the sequencer's exit (R419): the register file, with its poison. -/
def logSeq (s : State) (l instr : Nat) : State :=
  updLease s l fun ls =>
    if ls.paired && ls.seq.instr == instr + 1 then
      { ls with log := ls.log ++ [⟨0xFFFF, [0, instr],
        ((List.range 32).map fun i => leBytes 8 (xget ls.seq (BitVec.ofNat 5 i)).toNat).flatten,
        (List.range 32).map fun i => xpois ls.seq (BitVec.ofNat 5 i), true⟩] }
    else ls

/-- The logged register file of an instruction, during a replay (R421). -/
def loggedEnt (ls : Lease) (instr : Nat) : Option LogEnt :=
  ls.log.find? fun e => e.exit == 0xFFFF && e.key == [0, instr] && e.performed

/-- A word that a pair runs once: the primary waits for its twin, the two are compared, and both take the result
(R418). With `replay` the word's effect lies outside the two rectangles: its result is logged, and a replay answers from
the log and does no more than `replay` (R419, R421). -/
def onPair (replay : Option (State → Nat → State)) (s : State) (rs : List (BitVec 5)) (f : Nat → Lease → Seq → State) : Res :=
  onSeq s rs fun l rep ls q =>
    if !ls.paired then f l ls q
    else if rep || ls.seqR.instr < q.instr || ls.seqR.pend != [] || q.pend != [] then s
    else if ls.seqR.x != q.x || ls.seqR.xp != q.xp || ls.seqR.pc != q.pc then rollback s l
    else match replay with
      | none => mirror (f l ls q) l
      | some g => match loggedEnt ls q.instr with
        | some e => mirror (updSeq (g s l) l false fun q =>
            seqNext { q with
              x := (List.range 32).foldl (fun m i => mset 0 m i (BitVec.ofNat 64 (leNat ((e.data.drop (8 * i)).take 8)))) []
              xp := (List.range 32).filter fun i => e.pois.getD i false }) l
        | none => logSeq (mirror (f l ls q) l) l q.instr

/-- A word that acts within the rectangles of a pair. -/
def onTwins (s : State) (rs : List (BitVec 5)) (f : Nat → Lease → Seq → State) : Res := onPair none s rs f
/-- A word that acts outside them. -/
def onShared (s : State) (rs : List (BitVec 5)) (f : Nat → Lease → Seq → State) : Res := onPair (some fun s _ => s) s rs f

/-- A result of a shared word. -/
def sharedDone (s : State) (l : Nat) (xd : BitVec 5) (v : Nat) : State :=
  aluDone s l false xd (BitVec.ofNat 64 v) false

/-- What follows on the sequencers of a lease carries the tick of now as its floor (R132, R273, R284). -/
def floorNow (s : State) (l : Nat) (when : Bool) : State :=
  updLease s l fun ls =>
    let f (q : Seq) : Seq := if when then { q with ord := { q.ord with floor := max q.ord.floor (tickOf s (anchorDie ls)) } } else q
    { ls with seq := f ls.seq, seqR := f ls.seqR }

/-- SRD (R256, R257): of a pair, the primary reads for both (log 23). -/
def execSrd (xd : BitVec 5) (n : BitVec 10) (s : State) : Res :=
  onTwins s [xd] fun l ls q =>
    if sysRegAssigned n.toNat then aluDone s l false xd (BitVec.ofNat 64 (sysReg s l ls q n.toNat)) false
    else seqFault s l false cILLEGAL 0

/-! ### Views -/

/-- The lowest empty entry of the view table (R97). -/
def freeView (ls : Lease) : Option Nat := ((List.range 7).map (· + 1)).find? fun n => (viewOf ls n).kind == 0

/-- Opening of a view (R97): STS = (T − 2, 0xFF); 0 when no entry is empty or the clock is stopped. -/
def openView (kind : Nat) (xd : BitVec 5) (s : State) : Res :=
  onTwins s [xd] fun l ls _ =>
    match (if s.clockStopped then none else freeView ls) with
    | some n =>
      let v : View := ⟨stamp (tickOf s (anchorDie ls) - 2) 0xFF, kind, 0, 0, s.nextId⟩
      sharedDone (updLease s l fun ls => { ls with views := mput ls.views n v }) l xd n
    | none => sharedDone s l xd 0

/-- SNAP (R97, R267). -/
def execSnap (xd : BitVec 5) (s : State) : Res := openView 1 xd s
/-- TXB (R97, R267). -/
def execTxb (xd : BitVec 5) (s : State) : Res := openView 2 xd s

/-- An entry of the view table becomes empty (R97). -/
def emptyView (s : State) (l n : Nat) : State := updLease s l fun ls => { ls with views := mdel ls.views n }

/-- SREL (R97): a healthy transaction is aborted first. -/
def execSrel (n : BitVec 3) (s : State) : Res :=
  onTwins s [] fun l _ _ => updSeq (emptyView (discardPend s l n.toNat) l n.toNat) l false seqNext

/-- TXA (R103, R267). -/
def execTxa (n : BitVec 3) (s : State) : Res :=
  onTwins s [] fun l ls _ =>
    let v := viewOf ls n.toNat
    if v.kind = 0 then seqFault s l false cSNAP n.toNat
    else if v.kind = 1 then seqFault s l false cPERM n.toNat
    else updSeq (if v.doom = 0 then doomView s l n.toNat 5 else s) l false seqNext

/-- TXS (R96, R267). -/
def execTxs (xd : BitVec 5) (n : BitVec 3) (s : State) : Res :=
  onTwins s [xd] fun l ls _ => sharedDone s l xd (viewWord (viewOf ls n.toNat))

/-! ### Commits -/

/-- Lines of a write set in ascending order (R104). -/
def writeSet (s : State) (l slot : Nat) : List Nat := (s.lines.filter fun e => (findPend e.2 l slot).isSome).map (·.1)

/-- Does the issuing sequencer have accesses that the fences of R132 and R268 wait for? -/
def seqQuiet (q : Seq) : Bool := q.ord.outR == [] && q.ord.outW == []

/-- A commit or publication begins: its ticket is (tick, die, sequencer) (R104, R108). -/
def startCommit (s : State) (l : Nat) (ls : Lease) (shadow : Bool) (slot : Nat) (clean : Bool) (xd : BitVec 5) : State :=
  updSeq (updLease s l fun ls =>
    { ls with commit := some ⟨shadow, slot, clean, xd, tickOf s (anchorDie ls), [], 0, 0⟩ }) l false
    fun q => { q with op := if ls.paired && slot == 11 then q.op else .commit }

/-- The end of a TXC or PUBL (R132, R268): it stands as a fence of all four kinds at PANEL scope, and what follows one that returned
COMMITTED carries the tick of its return as its floor. -/
def fencedDone (s : State) (l : Nat) (xd : BitVec 5) (st : Nat) : State :=
  let f (q : Seq) : Seq := { q with ord := fenceOrd 15 .panel q.ord }
  sharedDone (floorNow (updLease s l fun ls => { ls with seq := f ls.seq, seqR := f ls.seqR }) l (st = 0)) l xd st

/-- TXC (R104, R106, R267, R268). While the clock is stopped, one that has nothing to commit still returns 0 or its DOOM code
(log 105). -/
def execTxc (xd : BitVec 5) (n : BitVec 3) (clean : Bool) (s : State) : Res :=
  onPair (some fun s l => emptyView s l n.toNat) s [xd] fun l ls q =>
    let v := viewOf ls n.toNat
    if q.op = .commit then s
    else if v.kind = 0 then seqFault s l false cSNAP n.toNat
    else if v.kind = 1 then seqFault s l false cPERM n.toNat
    else if !seqQuiet q then s
    else if v.doom ≠ 0 then fencedDone (emptyView s l n.toNat) l xd v.doom
    else if writeSet s l n.toNat = [] then fencedDone (emptyView s l n.toNat) l xd 0
    else if s.clockStopped then fencedDone (emptyView (discardPend s l n.toNat) l n.toNat) l xd 2
    else startCommit s l ls false n.toNat clean xd

/-- PUBL (R108, R267): DISCARD discards; shadow 3 of a paired lease is refused (R417). -/
def execPubl (xd : BitVec 5) (k : BitVec 2) (clean discard : Bool) (s : State) : Res :=
  onShared s [xd] fun l ls q =>
    let slot := 8 + k.toNat
    let sh := mget ⟨false, false⟩ ls.shadows k.toNat
    let clear (s : State) : State := updLease (discardPend s l slot) l fun ls => { ls with shadows := mdel ls.shadows k.toNat }
    if q.op = .commit then s
    else if ls.paired && k == 3 then seqFault s l false cCONFIG 0
    else if !seqQuiet q || ls.engines.any (fun e => e.shadow == k.toNat && e.pending s l) then s
    else if discard then fencedDone (clear s) l xd 0
    else if sh.doomed then fencedDone (clear s) l xd 2
    else if writeSet s l slot = [] then fencedDone s l xd 0
    else if s.clockStopped then fencedDone (clear s) l xd 2
    else startCommit s l ls true slot clean xd

/-- The end of a commit or publication with a status (R104, R106, R108, R268): the record of a POISON
status follows the completed instruction. -/
def endCommit (s : State) (l : Nat) (cm : Commit) (st : Nat) : State :=
  match leaseOf s l with
  | none => s
  | some ls =>
    let bad := (s.lines.filterMap fun e => findPend e.2 l cm.slot).filter fun p => p.pois != 0
    let va := match bad.map (·.va) with
      | [] => 0
      | a :: r => r.foldl min a
    let s1 := unlockAll s l
    let s2 :=
      if cm.shadow then
        if st = 3 then s1
        else updLease (discardPend s1 l cm.slot) l fun ls => { ls with shadows := mdel ls.shadows (cm.slot - 8) }
      else emptyView (discardPend s1 l cm.slot) l cm.slot
    let s3 := updLease s2 l fun ls => { ls with commit := none }
    let own := cm.shadow && cm.slot == 11 && ls.paired
    let s4 := if own then (if st = 2 then forceStop s3 l cSAVE else s3) else mirror (fencedDone s3 l cm.xd st) l
    if st = 3 then
      raise s4 l { FRec.zero with source := 4, cause := cPCOM, aux := cm.slot, faddr := va }
    else s4

/-- Ticket order (R104): older first. -/
def older (t1 d1 q1 t2 d2 q2 : Nat) : Bool := t1 < t2 || (t1 == t2 && (d1 < d2 || (d1 == d2 && q1 < q2)))

/-- What a commit finds on a line (R104, R108). -/
inductive LockRes | free | mine | wait | conflict | restart
  deriving DecidableEq, Repr

/-- Lock test of one line for lease `l` under ticket (t, d, q). -/
def lockTest (x : Line) (l t d q : Nat) (publ : Bool) : LockRes :=
  match x.lock with
  | none => .free
  | some h =>
    if h.lease = l then .mine
    else if !publ then
      if !h.publ && older t d q h.tick h.die h.seq then .wait else .conflict
    else if !h.publ then .wait
    else if older h.tick h.die h.seq t d q then .wait else .restart

/-- COMMIT_LOCK_REQUEST (R104, R108): the homes lock the write set in ascending order and then validate it line by line. -/
def commitLockRequestAt (l : Nat) (s : State) : Res :=
  match leaseOf s l with
  | none => .next s
  | some ls =>
    match ls.commit with
    | none => .next s
    | some cm =>
      if cm.phase ≠ 0 then .next s
      else
        let v := viewOf ls cm.slot
        let sh := mget ⟨false, false⟩ ls.shadows (cm.slot - 8)
        if !cm.shadow && v.doom ≠ 0 then .next (endCommit s l cm v.doom)
        else if cm.shadow && sh.doomed then .next (endCommit s l cm 2)
        else if s.clockStopped then .next (endCommit s l cm 2)
        else
          let d := anchorDie ls
          let ws := writeSet s l cm.slot
          let rec lockAll : List Nat → State → State × LockRes
            | [], s => (s, .mine)
            | n :: r, s =>
              match lockTest (lineOf s n) l cm.tick d ls.seqNo cm.shadow with
              | .free => lockAll r (setLine s n { lineOf s n with lock := some ⟨l, cm.tick, d, ls.seqNo, cm.shadow⟩ })
              | .mine => lockAll r s
              | o => (s, o)
          match lockAll ws s with
          | (s1, .wait) => .next s1
          | (s1, .restart) => .next (unlockAll s1 l)
          | (s1, .conflict) => .next (endCommit s1 l cm 1)
          | (s1, _) =>
            match ws.findSome? fun n =>
                if !cm.shadow && v.sts < (lineOf s1 n).ts then some 1
                else if cm.clean && ((findPend (lineOf s1 n) l cm.slot).map (·.pois)).getD 0 != 0 then some 3 else none with
            | some st => .next (endCommit s1 l cm st)
            | none => .next (updLease s1 l fun ls => { ls with commit := some { cm with locked := ws, phase := 1, c := stamp (tickOf s1 d) d } })

/-- COMMIT_LOCK_REQUEST (R104). -/
def execCommitLockRequest (s : State) : Res := onLease s fun l => commitLockRequestAt l s

/-- COMMIT_INSTALL (R104, R105, R111): old versions go to the pool, pending versions are installed at C,
the lines are unlocked. -/
def commitInstallAt (l : Nat) (s : State) : Res :=
  match leaseOf s l with
  | none => .next s
  | some ls =>
    match ls.commit with
    | none => .next s
    | some cm =>
      if cm.phase ≠ 1 then .next s
      else
        let s1 := cm.locked.foldl (init := s) fun s n =>
          match findPend (lineOf s n) l cm.slot with
          | none => if (lineOf s n).lock.map (·.lease) == some l then setLine s n { lineOf s n with lock := none } else s
          | some p =>
            let s2 := retain s n p.tenant cm.c
            let s3 := installData s2 n p.data p.pois
            let x := lineOf s3 n
            recheck (setLine s3 n { x with lock := none, pend := x.pend.filter fun q => !(q.lease == l && q.slot == cm.slot) })
              l (.mem (n * 128)) 128
        .next (updLease s1 l fun ls => { ls with commit := some { cm with phase := 2 } })

/-- COMMIT_INSTALL (R104, R105). -/
def execCommitInstall (s : State) : Res := onLease s fun l => commitInstallAt l s

/-- COMMIT_WAIT_END (R105): three ticks after C the instruction returns COMMITTED. -/
def commitWaitEndAt (l : Nat) (s : State) : Res :=
  match leaseOf s l with
  | none => .next s
  | some ls =>
    match ls.commit with
    | none => .next s
    | some cm =>
      if cm.phase = 2 && cm.c / 256 + 3 ≤ tickOf s (anchorDie ls) then .next (endCommit s l cm 0) else .next s

/-- COMMIT_WAIT_END (R105). -/
def execCommitWaitEnd (s : State) : Res := onLease s fun l => commitWaitEndAt l s

end Sys2Proof.Machine
end

