-- ==== Sys2Proof/Machine/SeqLease.lean ====
section
/-! DEFINITION. Sequencer words of the lease group (R269 to R276): CFG, CSWAP, GO, WAITD, DRAIN, STRM and
GRPW, with the injection and the completion of marker rounds (R180, R182). -/

namespace Sys2Proof.Machine

/-! ### Reading the words of a plane (R239 to R242) -/

/-- Word `i` of an indexed section as a number. -/
def wd (m : List (Nat × Word)) (i : Nat) : Nat := (mget 0 m i).toNat
/-- HT0, HT1, HT2 of handler `h` (R239). -/
def ht0 (p : Plane) (h : Nat) : Nat := wd p.ht (3 * h)
def ht1 (p : Plane) (h : Nat) : Nat := wd p.ht (3 * h + 1)
def ht2 (p : Plane) (h : Nat) : Nat := wd p.ht (3 * h + 2)
/-- Fields of a handler (R161, R239). -/
def hEn (p : Plane) (h : Nat) : Bool := (ht2 p h).testBit 31
def hCtx (p : Plane) (h : Nat) : Nat := bits (ht0 p h) 30 2
def hKbase (p : Plane) (h : Nat) : Nat := bits (ht0 p h) 20 10
def hWend (p : Plane) (h : Nat) : Nat := bits (ht0 p h) 10 10
def hEntry (p : Plane) (h : Nat) : Nat := bits (ht0 p h) 0 10
def hCR (p : Plane) (h i : Nat) : Nat := bits (ht1 p h) (4 * i) 4
def hPrio (p : Plane) (h : Nat) : Nat := bits (ht2 p h) 28 3
def hSlot (p : Plane) (h : Nat) : Nat := bits (ht2 p h) 20 8
def hPR (p : Plane) (h j : Nat) : Nat := bits (ht2 p h) (4 * j) 4
/-- PBA and PBB of port `p` of context `k`; ports 8 to 11 are outputs (R240). -/
def pba (x : Plane) (k p : Nat) : Nat := wd x.pb (24 * k + 2 * p)
def pbb (x : Plane) (k p : Nat) : Nat := wd x.pb (24 * k + 2 * p + 1)
/-- Is the port bound? -/
def bound (x : Plane) (k p : Nat) : Bool := (pba x k p).testBit 31
/-- DEPTH of a port (R168). -/
def depth (x : Plane) (k p : Nat) : Nat := bits (pba x k p) 26 5 + 1
/-- Multi-context mode (R241). -/
def mctx (x : Plane) : Bool := (wd x.eb 0).testBit 0
/-- Contexts that run (R163). -/
def ctxs (x : Plane) : List Nat := if mctx x then [0, 1, 2, 3] else [0]
/-- ECA and ECB of context `k` (R241). -/
def eca (x : Plane) (k : Nat) : Nat := wd x.eb (1 + 2 * k)
def ecb (x : Plane) (k : Nat) : Nat := wd x.eb (2 + 2 * k)
/-- GATED, DONEH and DCNT. -/
def gated (x : Plane) (k : Nat) : Bool := (eca x k).testBit 31
def doneH (x : Plane) (k : Nat) : Nat := bits (eca x k) 27 4
def dcnt (x : Plane) (k : Nat) : Nat := bits (eca x k) 0 16
/-- Groups that a context names (R176). -/
def ctxGroups (x : Plane) (k : Nat) : List Nat :=
  ((List.range 4).filter fun i => (eca x k).testBit (23 + i)).map fun i => bits (ecb x k) (8 * i) 8
/-- Bound inputs and outputs of a context. -/
def boundIn (x : Plane) (k : Nat) : List Nat := (List.range 8).filter (bound x k)
def boundOut (x : Plane) (k : Nat) : List Nat := (List.range 4).filter fun j => bound x k (8 + j)
/-- CTH fields: KIND, permit depth, counters, children (R242). -/
def cKind (x : Plane) : Nat := bits (wd x.cb 0) 30 2
def cPermit (x : Plane) : Nat := bits (wd x.cb 0) 27 3 + 1
def cNctr (x : Plane) : Nat := bits (wd x.cb 0) 23 4
def cNch (x : Plane) : Nat := bits (wd x.cb 0) 20 3 + 1
/-- CTP and the child words. -/
def ctp (x : Plane) : Nat := wd x.cb 1
def ctc (x : Plane) (i : Nat) : Nat := wd x.cb (2 + i)
/-- The controller of a plane is a root (R172). -/
def isRoot (x : Plane) : Bool := cKind x != 0 && (ctp x).testBit 31
/-- START, STOP, STRIDE of counter `j`. -/
def cStart (x : Plane) (j : Nat) : Int := signed (mget (0 : Word) x.cb (10 + 3 * j))
def cStop (x : Plane) (j : Nat) : Int := signed (mget (0 : Word) x.cb (11 + 3 * j))
def cStride (x : Plane) (j : Nat) : Int := signed (mget (0 : Word) x.cb (12 + 3 * j))

/-- Key of a group-table entry for a tile: the replica of a pair keeps entries of its own (R417). -/
def grpKey (t g : Nat) : Nat := if t < replicaBase then g else g + 256

/-! ### Tile rectangles -/

/-- Does the rectangle value name the tile (R269)? -/
def inRect (ls : Lease) (v t : Nat) : Bool :=
  bits v 0 8 ≤ keyCol ls t && keyCol ls t ≤ bits v 16 8 && bits v 8 8 ≤ keyRow ls t && keyRow ls t ≤ bits v 24 8
/-- Used tiles that a rectangle names, in row-major order (R269). -/
def rectTiles (ls : Lease) (v : Nat) : List Nat := ls.img.roles.filter (inRect ls v)
/-- The same tiles of both rectangles of a paired lease (R418). -/
def bothTiles (ls : Lease) (ts : List Nat) : List Nat := if ls.paired then ts ++ ts.map (· + replicaBase) else ts

/-! ### CFG -/

/-- Reserved fields of a configuration body, FWL and undefined switch words, and the edge-buffer
descriptors: the identifier of the first offending word (R74, R246 to R248). -/
def bodyBad (ssplit : Nat) (t : TRec) (bb eb : List Byte) : Option Nat :=
  let w (i : Nat) : Nat := fieldAt bb (4 * i) 4
  let id (sect i : Nat) : Nat := cfgId sect t.row t.col i
  let c := if t.flags % 2 == 1 then 40 else 0
  let ebd (i : Nat) : Nat × Nat × Nat := (fieldAt eb (8 * i) 4, fieldAt eb (8 * i + 4) 2, fieldAt eb (8 * i + 6) 2)
  firstBad (
    (List.range 16).map (fun h => (bits (w (3 * h + 2)) 16 4 == 0, id 2 (3 * h + 2))) ++
    (List.range 96).map (fun i => (bits (w (48 + i)) 0 (if i % 2 = 0 then 10 else 27) == 0, id 3 i)) ++
    [(decide (w (48 + 96) < 16), id 3 96), (decide (w 146 < 2), id 4 0)] ++
    (List.range 4).map (fun k => (bits (w (147 + 2 * k)) 16 7 == 0, id 4 (1 + 2 * k))) ++
    (if c == 0 then [] else (bits (w 155) 0 20 == 0, id 5 0) ::
      (List.range 9).map (fun i => (bits (w (156 + i)) 16 13 == 0, id 5 (1 + i)))) ++
    (List.range t.nsw).map (fun i => ((match decodeSw (BitVec.ofNat 16 (fieldAt bb (620 + 4 * c + 2 * i) 2)) with
      | .ok (.fwl _) => false
      | .ok _ => true
      | .error _ => false), id 6 i)) ++
    ((List.range t.neb).map fun i =>
      let d := ebd i
      let size := 128 * max 2 d.2.1
      [(d.1 % 2048 == 0 && ssplit ≤ d.1 && d.1 + 256 ≤ 2 ^ 20 &&
          (List.range i).all (fun j => let e := ebd j; d.1 + size ≤ e.1 || e.1 + 128 * max 2 e.2.1 ≤ d.1), id 11 (2 * i)),
       (2 ≤ d.2.1 && d.2.1 ≤ 8192 && d.1 + size ≤ 2 ^ 20 && d.2.2 < 1024, id 11 (2 * i + 1))]).flatten)

/-- The shadow planes of the named tiles are written in turn (R270); those written before a fault keep
their new contents. -/
def cfgTiles (l va : Nat) (x : Hdr) (im : Img) (ts : List TRec) : List Nat → State → ImgRes
  | [], s => .ok x im ts s
  | k :: r, s =>
    let put (p : Plane) (s : State) : ImgRes :=
      cfgTiles l va x im ts r (updTile (updTile s l k fun t => { t with shd := p }) l (k + replicaBase) fun t => { t with shd := p })
    match ts.find? (fun t => t.row * (2 * x.w) + t.col == k) with
    | none => put .zero s
    | some t =>
      rdThen s l (some false) (va + t.progoff) (4 * t.nprog) fun pb s1 =>
      rdThen s1 l (some false) (va + t.cfgoff) (4 * bodyWords t) fun bb s2 =>
      rdThen s2 l (some false) (va + t.eboff) (8 * t.neb) fun eb s3 =>
        match bodyBad (match leaseOf s3 l with
          | some ls => ls.img.ssplit
          | none => 0) t bb eb with
        | some id => .bad cCONFIG 0 id s3
        | none => put (planeOf t pb bb eb) s3

/-- CFG (R270): checks in their order, shadow planes, the number of tiles written. -/
def execCfg (xd xa xb : BitVec 5) (s : State) : Res :=
  onTwins s [xd, xa, xb] fun l ls q =>
    let va := (xget q xa).toNat
    let waits := match q.op with
      | .page _ => true
      | _ => false
    if waits then s
    else if xpois q xa then seqFault s l false cPADDR va
    else if va % 64 ≠ 0 then seqFault s l false cALIGN va
    else if xpois q xb then seqFault s l false cPCTL va
    else
      let named := rectTiles ls (xget q xb).toNat
      let fail (c a id : Nat) (s : State) : State := seqFaultG s l false c a fun r => { r with cfgid := id }
      match readImage s l (some false) va with
      | .bad c a id s1 => fail c a id s1
      | .wait j s1 => updSeq s1 l false fun q => { q with op := .page j }
      | .busy s1 => s1
      | .ok x im ts s1 =>
        if x.w ≠ ls.img.w || x.h ≠ ls.img.h then fail cCONFIG 0 (cfgId 0 0 0 2) s1
        else if ls.img.saveReq ≤ 4096 * ls.img.savesz && 4096 * ls.img.savesz < im.saveReq then
          fail cCONFIG 0 (cfgId 0 0 0 5) s1
        else match ts.find? (fun t => !nhas ls.img.roles (t.row * (2 * x.w) + t.col)) with
          | some t => fail cCONFIG 0 (cfgId 1 t.row t.col 0) s1
          | none =>
            match cfgTiles l va x im ts named s1 with
            | .bad c a id s2 => fail c a id s2
            | .wait j s2 => updSeq s2 l false fun q => { q with op := .page j }
            | .busy s2 => s2
            | .ok _ _ _ s2 => sharedDone s2 l xd named.length

/-! ### CSWAP -/

/-- Root controllers of the active planes, by tile (R172). -/
def rootTiles (ls : Lease) : List Nat :=
  ls.img.roles.filter fun t => match tileOf ls t with
    | some x => isRoot x.act
    | none => false

/-- What an interrupted CSWAP or DRAIN at this PC goes on with (R290). -/
def resumed (q : Seq) : Option SeqOp :=
  match q.saved with
  | some (pc, op) => if pc = q.pc && !q.intrap then some op else none
  | none => none

/-! ### GO and WAITD -/

/-- What the accesses before GO leave for the phase (R272). -/
def goEdge (s : State) (l : Nat) (q : Seq) : State :=
  updLease s l fun ls =>
    { ls with
      goAfter := nunion (nunion ls.goAfter q.ord.outR) q.ord.outW
      goFloor := max (max ls.goFloor q.ord.floor) (tickOf s (anchorDie ls)) }

/-- Is the stream of the entry an input stream (R247)? -/
def strmIn (e : StrmEnt) : Bool := e.port < 24

/-- GO (R272): go to the root, the PHASE reset to every tile, the start of the bound input streams. -/
def execGo (s : State) : Res :=
  onTwins s [] fun l ls q =>
    if ls.rootGo then s
    else if 1 < (rootTiles ls).length then seqFault s l false cCONFIG 0
    else
      let gos := (bothTiles ls (rootTiles ls)).map fun t => (⟨.go, t, 0, 0⟩ : Msg)
      let phs := (usedTiles ls).map fun t => (⟨.phase, t, 0, 0⟩ : Msg)
      let s1 := updLease (goEdge s l q) l fun ls =>
        { ls with
          msgs := ls.msgs ++ gos ++ phs
          rootGo := !gos.isEmpty
          rootFin := false
          phStarted := true
          phEnded := false
          finalPh := ls.finNext
          finNext := false
          streams := ls.img.strms.foldl (fun m e =>
            if strmIn e then mmod m e.id fun x => if x.bound then { x with started := true } else x else m) ls.streams }
      updSeq (if ls.finNext then wakeShunter s1 else s1) l false seqNext

/-- WAITD (R272). -/
def execWaitd (xd : BitVec 5) (s : State) : Res :=
  onTwins s [xd] fun l ls q =>
    if 0 < q.donecnt then sharedDone (updSeq s l false fun q => { q with donecnt := q.donecnt - 1 }) l xd 1
    else if ls.rootGo then s
    else sharedDone s l xd 0

/-! ### Marker rounds -/

/-- The MARKER token of round `n` (R180). -/
def markerTok (n : Nat) (hold : Bool) : Tok :=
  { data := BitVec.ofNat 768 (n % 2 ^ 16 + if hold then 2 ^ 16 else 0), pois := 0, tag := 7, aux := 1, inc := 0 }

/-- Marker `n` is injected (R180): over the control network at the contexts that bind no input, and at
the stream ports that feed the lease, behind the last request issued. -/
def injectRound (s : State) (l n : Nat) (hold shunter : Bool) : State :=
  updLease s l fun ls =>
    { ls with
      markerMode := true
      round := some ⟨n, hold, shunter, false,
        if shunter && ls.markerMode then some (match ls.round with
          | some r => r.isHold
          | none => false) else none⟩
      tiles := mmap ls.tiles fun _ x =>
        { x with
          eosSeen := x.eosSeen.filter (· < 3 * 16384)
          ctx := (ctxs x.act).foldl (fun m k =>
            let c := mget Ctx.zero m k
            mput m k { c with mark := if boundIn x.act k = [] then some n else c.mark }) x.ctx }
      streams := ls.img.strms.foldl (fun m e =>
        if strmIn e then mput m e.id { mget Stream.zero m e.id with mark := some (markerTok n hold) } else m) ls.streams }

/-- Every running context has entered round `n` or has closed (R180, R273). -/
def roundDone (ls : Lease) (n : Nat) : Bool :=
  (usedTiles ls).all fun t => match tileOf ls t with
    | some x => x.passed || (ctxs x.act).all fun k =>
        let c := ctxOf x k
        c.closed || c.entered == some n
    | none => true

/-- A HOLD round is released, or marker mode is left (R182): the contexts fire again. -/
def releaseRound (s : State) (l : Nat) : State :=
  updLease s l fun ls =>
    { ls with
      markerMode := false
      round := none
      tiles := mmap ls.tiles fun _ x =>
        { x with ctx := mmap x.ctx fun _ c => { c with hold := false, mark := none } } }

/-- DRAIN (R273): PHASE, STEP, HOLD and RELEASE. -/
def execDrain (xd xa : BitVec 5) (s : State) : Res :=
  onTwins s [xd, xa] fun l ls q =>
    let fin (n : Nat) : State :=
      if roundDone ls n then
        sharedDone (updLease s l fun ls =>
          { ls with
            mround := n
            round := match ls.round with
              | some r => if r.isHold then some { r with complete := true } else none
              | none => none }) l xd n
      else s
    match q.op with
    | .drain n => fin n
    | _ =>
      match resumed q with
      | some (.drain n) => updSeq s l false fun q => { q with op := .drain n, saved := none }
      | _ =>
        if xpois q xa then seqFault s l false cPCTL 0
        else
          match bits (xget q xa).toNat 0 2 with
          | 0 =>
            if !ls.phStarted || ls.phEnded then
              sharedDone (floorNow s l true) l xd 0
            else s
          | 3 =>
            match ls.round with
            | some r => if r.isHold && !r.shunter && ls.markerMode then sharedDone (releaseRound s l) l xd 0 else sharedDone s l xd 0
            | none => if ls.markerMode then sharedDone (releaseRound s l) l xd 0 else sharedDone s l xd 0
          | m =>
            if (match ls.round with
                | some r => r.shunter || !r.complete
                | none => false) then s
            else
              let n := (ls.mround + 1) % 2 ^ 16
              updSeq (injectRound s l n (m == 2) false) l false fun q => { q with op := .drain n }

/-! ### STRM and GRPW -/

/-- The tiles that a stream port stands on: one, or two for a paired lease (R418). -/
def portTiles (ls : Lease) (e : StrmEnt) : List Nat :=
  let t := tileKey ls e.col e.row
  if ls.paired then [t, t + replicaBase] else [t]

/-- The tokens that the stream of an ended binding has not taken go (R275): those that an input stream has read or that wait in its
channel, and those on the output port, whose slots become free. -/
def dropUntaken (s : State) (l : Nat) (ls : Lease) (e : StrmEnt) (x : Stream) : State :=
  if strmIn e then
    if x.kind = 2 then updCoupler s (x.base % 16) fun c => { c with chans := mdel c.chans (x.base / 16 % 65536) } else s
  else
    (portTiles ls e).foldl (fun s t => updCtx s l t e.ctx fun c =>
      { c with outs := mmod c.outs (e.port - 24) fun o => { o with pub := [], due := o.due + o.pub.length } }) s

/-- The request that a stream waits for is gone. -/
def dropStrmReq (s : State) (x : Stream) : State :=
  match x.req with
  | some r => settle { s with reqs := mdel s.reqs r } r 0
  | none => s

/-- The binding that a control word makes of a stream port (R274): its SCNT is 0, and writes of earlier bindings stay in the
store-acknowledge count of the port (R186). -/
def newStrm (s : State) (a w : Nat) (old : Stream) : Stream :=
  let gone := match old.req.bind (reqOf s) with
    | some r => if r.op == .write then 1 else 0
    | none => 0
  let x : Stream := { Stream.zero with mark := old.mark, acks := old.acks - gone, born := s.nextId }
  if bits w 6 2 = 0 then x
  else { x with
    bound := true
    kind := bits w 6 2
    base := a
    len := bits w 16 32
    tag := BitVec.ofNat 3 (bits w 48 3)
    view := bits w 56 3 }

/-- STRM (R274, R275): a new binding, or with KIND 0 the end of one; a coupler that is absent is refused (R27). -/
def execStrm (xa xb : BitVec 5) (s : State) : Res :=
  onTwins s [xa, xb] fun l ls q =>
    let w := (xget q xb).toNat
    let a := (xget q xa).toNat
    let id := bits w 0 6
    let kind := bits w 6 2
    let old := mget Stream.zero ls.streams id
    if xpois q xa then seqFault s l false cPADDR a
    else if xpois q xb then seqFault s l false cPCTL 0
    else match ls.img.strms.find? fun e => e.id == id with
      | none => seqFault s l false cCONFIG 0
      | some e =>
        if kind = 3 || bits w 8 8 ≠ 0 || bits w 51 5 ≠ 0 || bits w 59 5 ≠ 0 || (kind ≠ 0 && old.bound) ||
            (kind = 2 && !couplerLive s.boot (a % 16)) then seqFault s l false cCONFIG 0
        else if kind = 1 && a % 32 ≠ 0 then seqFault s l false cALIGN a
        else
          let s1 := dropStrmReq (if old.bound then dropUntaken s l ls e old else s) old
          updSeq (updLease s1 l fun ls => { ls with streams := mput ls.streams id (newStrm s a w old) }) l false seqNext

/-- GRPW (R276). -/
def execGrpw (xa xb : BitVec 5) (s : State) : Res :=
  onTwins s [xa, xb] fun l ls q =>
    let g := bits (xget q xa).toNat 0 8
    let e := mget ⟨0, 0, 0⟩ ls.groups g
    if xpois q xa || xpois q xb then seqFault s l false cPCTL 0
    else if e.arr ≠ 0 then seqFault s l false cCONFIG 0
    else updSeq (updLease s l fun ls =>
      let e' : Group := { e with count := bits (xget q xb).toNat 0 16, arr := 0 }
      let m := mset ⟨0, 0, 0⟩ ls.groups g e'
      { ls with groups := if ls.paired then mset ⟨0, 0, 0⟩ m (g + 256) e' else m }) l false seqNext

end Sys2Proof.Machine
end

