-- ==== Sys2Proof/Machine/Operands.lean ====
section
/-! DEFINITION. Operands of operation words: element types and tokens (R191, R199, R200), masks (R231),
source operands (R297), destinations (R298), the errors at issue (R299), and the shape that every lane
operation shares (R144, R145, R198, R300). -/

namespace Sys2Proof.Machine

/-! ### Types and elements -/

/-- Width of an element (R191). -/
def tyW : ETy → Nat
  | .i32 => 32 | .f32 => 32 | .bf16 => 16 | .f16 => 16 | .i16 => 16 | .i8 => 8 | .i64 => 64 | .u32 => 32
/-- Tag of a type's results (R199). -/
def tyTag : ETy → BitVec 3
  | .f32 => 1 | .bf16 => 2 | .f16 => 3 | _ => 0
/-- Floating-point format of a type. -/
def tyF : ETy → Option FFmt
  | .f32 => some Sys2Proof.Machine.f32 | .bf16 => some Sys2Proof.Machine.bf16 | .f16 => some Sys2Proof.Machine.f16 | _ => none
/-- Integer reading of a type (R302). -/
def tyI (t : ETy) : IFmt := ⟨tyW t, t != .u32⟩
/-- Elements of a token. -/
def tyN (t : ETy) : Nat := 768 / tyW t

/-- Element `e` of width `w`. -/
def elemAt (w : Nat) (x : Payload) (e : Nat) : Nat := bits x.toNat (w * e) w
/-- A payload from its elements. -/
def ofElems (w : Nat) (l : List Nat) : Payload := BitVec.ofNat 768 (l.foldr (fun v a => a * 2 ^ w + v % 2 ^ w) 0)
/-- Lane `i`. -/
def laneAt (x : Payload) (i : Nat) : Nat := elemAt 32 x i
/-- The lanes of element `e` of width `w`. -/
def elemLanes (w e : Nat) : List Nat := if w = 64 then [2 * e, 2 * e + 1] else [w * e / 32]
/-- Is the element active under a lane mask (R191)? -/
def elemOn (w : Nat) (m : LaneMask) (e : Nat) : Bool := (elemLanes w e).all fun i => m.getLsbD i
/-- Is the element poisoned in any of its lanes? -/
def elemPois (w : Nat) (p : LaneMask) (e : Nat) : Bool := (elemLanes w e).any fun i => p.getLsbD i
/-- A lane mask from a predicate. -/
def maskOf (f : Nat → Bool) : LaneMask :=
  BitVec.ofNat 24 (((List.range 24).map fun i => if f i then 2 ^ i else 0).foldl (· + ·) 0)
/-- The lane mask with every lane. -/
def allLanes : LaneMask := BitVec.ofNat 24 (2 ^ 24 - 1)
/-- A lane whose element of width `w` satisfies a predicate (pairs act as one, R191). -/
def laneElem (w i : Nat) : Nat := if w = 64 then i / 2 else 32 * i / w

/-- The active lanes of a word (R231). -/
def activeOf (c : Ctx) (m : Msk) : LaneMask :=
  match m with
  | none => allLanes
  | some n => mget 0 c.m n.toNat

/-! ### Sources -/

/-- Is a word damaged (R143)? Sections: 0 program memory, 1 handler table, 2 port block, 3 controller block, 4 switch words; 5 a
switch or controller word of section 4 or 3 whose fault has been reported, by 64·section + index. -/
def wordBad (x : Plane) (sec i : Nat) : Bool := nhas x.bad (65536 * sec + i)

/-- Word `i` of program memory. -/
def progWord (x : Plane) (i : Nat) : Word := mget 0 x.prog (i % 1024)
/-- The constant K of a handler (R229). -/
def kTok (x : Plane) (h : Nat) : Tok :=
  { Tok.zero with data := ofElems 32 ((List.range 24).map fun i => (progWord x (hKbase x h + i)).toNat) }
/-- Element number `e` in a type, exactly (R297). -/
def laneNum (t : ETy) (e : Nat) : Nat :=
  match tyF t with
  | some f => (rne f false e 0 false).1
  | none => e
/-- The LANE operand (R297). -/
def laneTok (t : ETy) : Tok := { Tok.zero with data := ofElems (tyW t) ((List.range (tyN t)).map (laneNum t)) }

/-- Is the token a data token (R170)? EOS and MARKER are not. -/
def isData (t : Tok) : Bool := !(t.tag == 7 && (t.aux.toNat % 8 == 0 || t.aux.toNat % 8 == 1))
/-- EOS and MARKER tokens. -/
def isEos (t : Tok) : Bool := t.tag == 7 && t.aux.toNat % 8 == 0
def isMark (t : Tok) : Bool := t.tag == 7 && t.aux.toNat % 8 == 1
/-- The EOS token. -/
def eosTok : Tok := { Tok.zero with tag := 7 }

/-- The input port `p` of a context; a port never touched is empty. -/
def inPort (c : Ctx) (p : Nat) : InPort := mget ⟨[], 0⟩ c.ins p
/-- The output port `j` of a context. -/
def outPort (c : Ctx) (j : Nat) : OutPort := mget ⟨[], 0, []⟩ c.outs j
/-- Free slots of an output port (R168). -/
def outFree (x : Plane) (c : Ctx) (k j : Nat) : Nat := depth x k (8 + j) - (outPort c j).pub.length - (outPort c j).due
/-- Visible tokens at and after the read point: the port's buffer (R297). -/
def dataAhead (q : List Tok) : Nat := (q.takeWhile isData).length

/-- Why an operand is refused at issue (R299). -/
inductive OpErr
  | unbound
  /-- A word of K is damaged (R143). -/
  | damaged
  | empty (p want have_ : Nat)
  deriving DecidableEq, Repr

/-- A source operand (R297). -/
def srcTok (x : Tile) (k : Nat) (c : Ctx) (fi : Firing) (t : ETy) : Src → Except OpErr Tok
  | .v n => .ok (mget Tok.zero c.v n.toNat)
  | .i p =>
    if !bound x.act k p.toNat then .error .unbound
    else match (inPort c p.toNat).q with
      | h :: _ => if isData h then .ok h else .error (.empty p.toNat 1 0)
      | [] => .error (.empty p.toNat 1 0)
  | .k => if (List.range 24).any fun i => wordBad x.act 0 ((hKbase x.act fi.h + i) % 1024) then .error .damaged else .ok (kTok x.act fi.h)
  | .lane => .ok (laneTok t)
  | .zero => .ok Tok.zero

/-- Several sources: an unbound port is found before an empty one (R299). -/
def srcToks (x : Tile) (k : Nat) (c : Ctx) (fi : Firing) (t : ETy) (l : List Src) : Except OpErr (List Tok) :=
  let rs := l.map (srcTok x k c fi t)
  match rs.find? (fun r => match r with
      | .error .unbound => true
      | _ => false) with
  | some _ => .error .unbound
  | none => rs.foldr (fun r a => match r, a with
      | .ok v, .ok l => .ok (v :: l)
      | .error e, _ => .error e
      | _, .error e => .error e) (.ok [])

/-! ### Destinations -/

/-- Is the destination's port bound (R299)? -/
def dstBound (x : Tile) (k : Nat) : Dst → Bool
  | .v _ => true
  | .o j => bound x.act k (8 + j.toNat)
/-- Does the destination stall the firing (R298)? -/
def dstFull (x : Tile) (c : Ctx) (k : Nat) : Dst → Bool
  | .v _ => false
  | .o j => outFree x.act c k j.toNat == 0
/-- What stands in the destination: the register, or the tail slot (R298). -/
def dstOld (c : Ctx) : Dst → Tok
  | .v n => mget Tok.zero c.v n.toNat
  | .o j => mget Tok.zero (outPort c j.toNat).tail 0
/-- The destination becomes `t` (R298). -/
def dstPut (c : Ctx) (d : Dst) (t : Tok) : Ctx :=
  match d with
  | .v n => { c with v := mset Tok.zero c.v n.toNat t }
  | .o j => { c with outs := mput c.outs j.toNat { outPort c j.toNat with tail := mput (outPort c j.toNat).tail 0 t } }

/-- New data and poison in the active lanes, the old ones elsewhere. -/
def mergeLanes (m : LaneMask) (old : Tok) (data : Payload) (pois : LaneMask) (tag : BitVec 3) (aux : BitVec 8) : Tok :=
  { data := ofElems 32 ((List.range 24).map fun i => if m.getLsbD i then laneAt data i else laneAt old.data i)
    pois := (pois &&& m) ||| (old.pois &&& ~~~m)
    tag := tag
    aux := aux
    inc := 0 }

/-! ### The shape of an operation -/

/-- The word that a firing issues. -/
def curWord (x : Tile) (fi : Firing) : Word := progWord x.act fi.pc

/-- The firing goes on at a program-memory address (R167). -/
def fireAt (s : State) (l t k pc : Nat) : State :=
  updCtx s l t k fun c => { c with fire := c.fire.map fun fi => { fi with pc := pc, wait := .none, ord := fi.ord + 1 } }

/-- A fault of the word being issued. -/
def wordFault (s : State) (l t k : Nat) (ls : Lease) (x : Tile) (c : Ctx) (fi : Firing) (cause faddr : Nat)
    (g : FRec → FRec := id) : State := elemFault s l t k ls c fi (curWord x fi) cause faddr g

/-- The fault of an operand (R299). -/
def operandFault (s : State) (l t k : Nat) (ls : Lease) (x : Tile) (c : Ctx) (fi : Firing) (e : OpErr) : State :=
  match e with
  | .unbound => wordFault s l t k ls x c fi cCONFIG 0
  | .damaged => wordFault s l t k ls x c fi cPCTL 0
  | .empty p w h => wordFault s l t k ls x c fi cOVERFLOW 0 fun r => { r with port := p, cnta := w, cntb := h }

/-- What a lane operation computes: new lanes with poison, tag, aux and flags. -/
structure EOut where
  data : Payload
  pois : LaneMask
  tag : BitVec 3
  aux : BitVec 8
  fl : Flg
  deriving DecidableEq, Repr

/-- A word that reads sources and writes one destination (R298 to R300): the errors at issue, the stall on a
full output, or a fault that the operation finds; `f` gets the context, the active lanes, the old
destination and the sources. `whole` writes every lane. -/
def laneOp (ty : ETy) (d : Dst) (srcs : List Src) (m : Msk) (whole : Bool)
    (f : Tile → Ctx → Firing → LaneMask → Tok → List Tok → Except Nat (EOut × (Ctx → Ctx))) (s : State) : Res :=
  onElem s fun l t k ls x c fi =>
    if !dstBound x k d then wordFault s l t k ls x c fi cCONFIG 0
    else match srcToks x k c fi ty srcs with
      | .error e => operandFault s l t k ls x c fi e
      | .ok ts =>
        if dstFull x c k d then s
        else
          let act := activeOf c m
          match f x c fi act (dstOld c d) ts with
          | .error cause => wordFault s l t k ls x c fi cause 0
          | .ok (o, g) =>
            let tok := mergeLanes (if whole then allLanes else act) (dstOld c d) o.data o.pois o.tag o.aux
            fireAt (updCtx s l t k fun c => addFlags (dstPut (g c) d tok) o.fl) l t k (fi.pc + 1)

/-- Elementwise computation over the sources (R144, R145, R191): active elements get `g`, a result lane is
poisoned when any lane of a source element is, and poisoned elements raise no flag. -/
def elementwise (w : Nat) (act : LaneMask) (old : Tok) (ts : List Tok) (g : List Nat → Nat × Flg) : Payload × LaneMask × LaneMask × Flg :=
  let n := 768 / w
  let rs := (List.range n).map fun e =>
    if elemOn w act e then
      let (v, fl) := g (ts.map fun t => elemAt w t.data e)
      (v % 2 ^ w, if ts.any (fun t => elemPois w t.pois e) then 0 else fl)
    else (elemAt w old.data e, 0)
  (ofElems w (rs.map (·.1)),
   maskOf fun i => ts.any fun t => elemPois w t.pois (laneElem w i),
   maskOf fun i => elemOn w act (laneElem w i),
   orFlags (rs.map (·.2)))

/-- A lane operation given elementwise; inactive pairs keep their lanes (R191). -/
def elemOp (ty : ETy) (tag : BitVec 3) (d : Dst) (srcs : List Src) (m : Msk) (g : List Nat → Nat × Flg) (s : State) : Res :=
  laneOp ty d srcs m true (fun _ _ _ act old ts =>
    let (data, pois, on, fl) := elementwise (tyW ty) act old ts g
    .ok (⟨data, (pois &&& on) ||| (old.pois &&& ~~~on), tag, 0, fl⟩, id)) s

end Sys2Proof.Machine
end

