-- ==== Sys2Proof/Machine/ElemMem.lean ====
section
/-! DEFINITION. Class-10 operation words of A and S tiles (R331 to R336, R338 to R350): checks at issue and
requests. Their replies are delivered by MEMORY_REPLY. -/

namespace Sys2Proof.Machine

/-! ### Shared -/

/-- Words of the operation, with its extension (R234). -/
def opLen (x : Option Ext) : Nat := if x.isSome then 2 else 1

/-- The NSRC operand of an extension with CH = 1, by its code (R234). -/
def nsrcTok (x : Tile) (c : Ctx) (fi : Firing) (e : Ext) : Tok :=
  if e.nsrc.toNat < 16 then mget Tok.zero c.v e.nsrc.toNat
  else if e.nsrc = 28 then kTok x.act fi.h else Tok.zero

/-- Chain attributes of an access (R121, R234): none when free. -/
def chainOf (x : Tile) (c : Ctx) (fi : Firing) : Option Ext → Option Chain
  | some e =>
    if e.ch then
      let w := laneAt (nsrcTok x c fi e).data 0
      some ⟨e.cls.toNat, bits w 0 16, bits w 16 8, bits w 24 8⟩
    else none
  | none => none

/-- A poisoned NSRC lane of a chained access (R234). -/
def nsrcPois (x : Tile) (c : Ctx) (fi : Firing) : Option Ext → Bool
  | some e => e.ch && (nsrcTok x c fi e).pois.getLsbD 0
  | none => false

/-- Is the word of K that serves as NSRC damaged (R143)? -/
def nsrcBad (x : Tile) (fi : Firing) : Option Ext → Bool
  | some e => e.ch && e.nsrc == 28 && wordBad x.act 0 (hKbase x.act fi.h % 1024)
  | none => false

/-- View of an access (R234). -/
def extView : Option Ext → Nat
  | some e => e.view.toNat
  | none => 0

/-- A fault of an access at a word: it may straddle, and names its chain (R86, R385). -/
def accFault (s : State) (l t k : Nat) (ls : Lease) (x : Tile) (c : Ctx) (fi : Firing) (e : Option Ext) (f : Nat × Nat × Bool) : State :=
  wordFault s l t k ls x c fi f.1 f.2.1 fun r =>
    { r with straddle := f.2.2, chain := (chainOf x c fi e).map fun h => (h.cls, h.number) }

/-- A zero-length read that flushes a host port (R135). -/
def Req.isFlush (r : Req) : Bool := r.posted && r.op == .read

/-- Posted requests of a tile that are outstanding (R336). -/
def postedOf (s : State) (l t : Nat) : Nat :=
  (s.reqs.filter fun e => e.2.posted && e.2.op != .pref && !e.2.isFlush && (match e.2.iss with
    | .elem l' t' _ => l' == l && t' == t
    | _ => false)).length

/-- SYNW is an acquire at PANEL scope whatever its extension says (R134, R350). -/
def isWaitOp : MOp → Bool
  | .swait _ => true
  | _ => false

/-- An element access is issued (R115, R121, R127, R336): a posted one lets the firing go on, another stalls
it until its reply; the 65th posted one stalls. In a pair, what leaves the rectangle goes to the exit, and what stays in
it is counted by trackers of its own (R417, R418). -/
def elemIssue (s : State) (l t k : Nat) (ls : Lease) (x : Tile) (c : Ctx) (fi : Firing) (op : MOp) (parts : List Part)
    (dst : RDst) (e : Option Ext) (posted : Bool) (after : Edges) : State :=
  if nsrcBad x fi e then wordFault s l t k ls x c fi cPCTL 0
  else if posted && 64 ≤ postedOf s l t then s
  else
    let ch := chainOf x c fi e
    let here := parts != [] && parts.all fun p => p.loc != .none
    let r : Req :=
      { iss := .elem l t k
        op := op
        view := extView e
        floor := 0
        after := after
        acq := isWaitOp op || (match e with
          | some y => y.mark.getLsbD 0
          | none => false)
        rel := match e with
          | some y => y.mark.getLsbD 1
          | none => false
        scope := match e with
          | some y => if isWaitOp op then .panel else y.scope
          | none => .panel
        posted := posted
        stage := if ls.paired && !here then .exit else if ch.isSome then .chain else if here then .sent else .issued
        parts := parts
        dst := dst
        chain := if here && decide (replicaBase ≤ t) then ch.map fun c => { c with cls := c.cls + 16 } else ch
        pc := fi.pc
        word := curWord x fi
        born := 0
        handler := fi.h
        key := if ls.paired && !here then [1, t % replicaBase, k, fi.h, fi.ord, fi.pc] else [] }
    let (s1, id) := addReq s r
    if posted then fireAt s1 l t k (fi.pc + opLen e)
    else updCtx s1 l t k fun c => { c with fire := c.fire.map fun f => { f with wait := .mem id } }

/-- A firing that waits for its reply issues nothing (R167). -/
def waiting (fi : Firing) : Bool :=
  match fi.wait with
  | .mem _ => true
  | _ => false

/-- Poison of the 96 bytes of a token (R147, R333). -/
def tokBytes (t : Tok) : List Byte × List Bool :=
  (leBytes 96 t.data.toNat, (List.range 96).map fun j => t.pois.getLsbD (j / 4))

/-- A 64-bit address operand: pair 0 (R333). -/
def pair0 (t : Tok) : Nat := elemAt 64 t.data 0
/-- Poison of pair 0. -/
def pair0P (t : Tok) : Bool := elemPois 64 t.pois 0
/-- Poison of lane `i`. -/
def lanePois (t : Tok) (i : Nat) : Bool := t.pois.getLsbD i

/-- The first lane or part that fails a test, with the address to report. -/
def firstFail (l : List (Nat × Nat)) (f : Nat → Nat → Bool) : Option Nat := (l.find? fun e => f e.1 e.2).map (·.2)

/-- An address that may lie below zero, as the record shows it. -/
def addrNat (a : Int) : Nat := (BitVec.ofInt 64 a).toNat

/-- Do `n` bytes from an address lie in two lines (R85)? -/
def strad (n : Nat) (a : Int) : Bool := decide (1 ≤ n) && a / 128 != (a + n - 1) / 128

/-- The checks 2 to 4 of R334 over the addresses of an access's parts: cause, fault address, and whether the part straddles.
`al`: 4-aligned; `st` tells what straddles. -/
def aChecks (ls : Lease) (v : Nat) (acc : Acc) (al : Bool) (as : List Int) (len : Nat) (st : Int → Bool) : Option (Nat × Nat × Bool) :=
  match as.find? (fun a => al && a % 4 != 0) with
  | some a => some (cALIGN, addrNat a, st a)
  | none =>
    match as.find? (fun a => a < 0 || (2 ^ 56 : Int) ≤ a || (2 ^ 56 : Int) < a + len) with
    | some a => some (cTRANS, if a < 0 || (2 ^ 56 : Int) ≤ a then addrNat a else 2 ^ 56, st a)
    | none => match as with
      | [] => none
      | a :: _ => (viewCheck ls v acc).map fun c => (c, addrNat a, st a)

/-! ### Address tiles -/

/-- TDL (R338). -/
def execTdl (a : Src) (s : State) : Res :=
  onElem s fun l t k ls x c fi =>
    match srcTok x k c fi .i32 a with
    | .error e => operandFault s l t k ls x c fi e
    | .ok v =>
      if v.pois ≠ 0 then wordFault s l t k ls x c fi cPADDR 0
      else if bits (laneAt v.data 1) 24 8 ≠ 0 || bits (laneAt v.data 23) 10 22 ≠ 0 then wordFault s l t k ls x c fi cCONFIG 0
      else fireAt (updTile (updCtx s l t k fun c => { c with adesc := v.data }) l t fun x =>
        { x with ra := mdel x.ra k }) l t k (fi.pc + 1)

/-- Fields of ADESC (R338). -/
def adBase (d : Payload) : Nat := laneAt d 0 + bits (laneAt d 1) 0 24 * 2 ^ 32
def adS (d : Payload) (j : Nat) : Int := (BitVec.ofNat 32 (laneAt d (2 + j))).toInt
def adHi (d : Payload) (j : Nat) : Int := (BitVec.ofNat 16 (bits (laneAt d (12 + j)) 16 16)).toInt
def adLo (d : Payload) (j : Nat) : Int := (BitVec.ofNat 16 (bits (laneAt d (12 + j)) 0 16)).toInt
def adPaden (d : Payload) (j : Nat) : Bool := (laneAt d 23).testBit j

/-- Value of counter `j` of the tile's chain as an integer; 0 beyond NCTR (R328, R339). -/
def ctrVal (x : Tile) (j : Nat) : Int :=
  if cKind x.act != 0 && j < cNctr x.act then signed (mget (0 : Word) x.ctr j) else 0

/-- The base address of GEN at a position (R339). -/
def genBase (d : Payload) (v : Nat → Int) : Int := (adBase d : Int) + (((List.range 10).map fun j => v j * adS d j).foldl (· + ·) 0)

/-- The lanes of GEN (R339): per lane the address, or none when padded. -/
def genLanes (d : Payload) (v : Nat → Int) (c : Nat) : List (Option Int) :=
  let base := genBase d v
  let outside (j : Nat) (x : Int) : Bool := adPaden d j && (x < adLo d j || adHi d j < x)
  let whole := (List.range 10).any fun j => j != c && outside j (v j)
  (List.range 24).map fun (i : Nat) =>
    if whole || outside c (v c + (i : Int)) then none else some (base + (i : Int) * adS d c)

/-- GEN (R339): one access over the unpadded lanes; contiguous with a stride of 4. -/
def execGen (ty : ETy) (d : Dst) (cn : BitVec 4) (e : Option Ext) (s : State) : Res :=
  onElem s fun l t k ls x c fi =>
    if waiting fi then s
    else if !dstBound x k d then wordFault s l t k ls x c fi cCONFIG 0
    else
      let g := genLanes c.adesc (ctrVal x) cn.toNat
      let lanes := (g.zipIdx).filterMap fun p => p.1.map fun a => (p.2, a)
      let one := adS c.adesc cn.toNat == 4
      let as := lanes.map (·.2)
      let st (a : Int) : Bool := one && strad (4 * lanes.length) (as.headD a)
      if nsrcPois x c fi e then accFault s l t k ls x c fi e (cPADDR, addrNat (as.headD 0), st 0)
      else match aChecks ls (extView e) .rd true as 4 st with
        | some f => accFault s l t k ls x c fi e f
        | none =>
          if dstFull x c k d then s
          else
            let pad := laneAt c.adesc 22
            let base : Tok := { Tok.zero with data := ofElems 32 (List.replicate 24 pad) }
            let parts := if one then
                (match lanes with
                 | p :: _ => lineParts (4 * p.1) p.2.toNat (4 * lanes.length)
                 | [] => [])
              else lanes.map fun p => mkPart (4 * p.1) p.2.toNat 4
            elemIssue s l t k ls x c fi .read parts (.tok d (tyTag ty) base none) e false []

/-- Bytes of a BFP block (R203). -/
def bfpBytes (w : Nat) : Nat := 1 + 3 * w

/-- The memory form of a block with its poison (R147, R203). -/
def bfpOut (t : Tok) (w : Nat) : List Byte × List Bool :=
  let m := ((List.range 24).map fun i => laneAt t.data i % 2 ^ w * 2 ^ (w * i)).foldl (· + ·) 0
  (leBytes (bfpBytes w) (t.aux.toNat + 256 * m),
   false :: (List.range (3 * w)).map fun j => (List.range 8).any fun b => t.pois.getLsbD ((8 * j + b) / w))

/-- A block read from memory as a tag-6 token (R84, R202, R341). -/
def bfpIn (bs : List Byte) (ps : List Bool) (w : Nat) : Tok :=
  let m := leNat (bs.drop 1)
  { Tok.zero with
    data := ofElems 32 ((List.range 24).map fun i => ((BitVec.ofNat w (bits m (w * i) w)).signExtend 32).toNat)
    pois := maskOf fun i => ps.getD 0 false || (List.range w).any fun b => ps.getD (1 + (w * i + b) / 8) false
    tag := 6
    aux := bs.getD 0 0 }

/-- LDM and LDM.Bm (R341). -/
def execLdm (ty : ETy) (d : Dst) (a : Src) (f : Bfp) (e : Option Ext) (s : State) : Res :=
  onElem s fun l t k ls x c fi =>
    if waiting fi then s
    else if !dstBound x k d then wordFault s l t k ls x c fi cCONFIG 0
    else match srcTok x k c fi ty a with
      | .error er => operandFault s l t k ls x c fi er
      | .ok av =>
        let ea := pair0 av
        let n := match f with
          | some w => bfpBytes w.toNat
          | none => 96
        if pair0P av || nsrcPois x c fi e then accFault s l t k ls x c fi e (cPADDR, ea, strad n ea)
        else match aChecks ls (extView e) .rd f.isNone [(ea : Int)] n (strad n) with
          | some f => accFault s l t k ls x c fi e f
          | none =>
            if dstFull x c k d then s
            else elemIssue s l t k ls x c fi .read (lineParts 0 ea n)
              (.tok d (if f.isSome then 6 else tyTag ty) Tok.zero f) e false []

/-- The issue of a posted store of an element: nothing happens while 64 are outstanding (R336). -/
def elemStore (s : State) (l t k : Nat) (ls : Lease) (x : Tile) (c : Ctx) (fi : Firing) (op : MOp) (parts : List Part)
    (e : Option Ext) : State :=
  elemIssue s l t k ls x c fi op parts .none e true []

/-- STM and STM.Bm (R341). -/
def execStm (d : BitVec 4) (a : Src) (f : Bfp) (e : Option Ext) (s : State) : Res :=
  onElem s fun l t k ls x c fi =>
    match srcTok x k c fi .i32 a with
    | .error er => operandFault s l t k ls x c fi er
    | .ok av =>
      let ea := pair0 av
      let v := mget Tok.zero c.v d.toNat
      let (bs, ps) := match f with
        | some w => bfpOut v w.toNat
        | none => tokBytes v
      if pair0P av || nsrcPois x c fi e then accFault s l t k ls x c fi e (cPADDR, ea, strad bs.length ea)
      else match aChecks ls (extView e) .wr f.isNone [(ea : Int)] bs.length (strad bs.length) with
        | some f => accFault s l t k ls x c fi e f
        | none => elemStore s l t k ls x c fi .write (writeParts 0 ea bs ps) e

/-- Index of lane `i` (R342). -/
def idxAt (t : Tok) (i : Nat) : Int := (BitVec.ofNat 32 (laneAt t.data i)).toInt
/-- Lanes of a gather or scatter that are not skipped, with their addresses (R342); a block form uses
lane 0 only. -/
def gathLanes (iv : Tok) (b : Nat) (f : Bfp) : List (Nat × Int) :=
  match f with
  | some w => if idxAt iv 0 < 0 then [] else [(0, (b : Int) + idxAt iv 0 * (bfpBytes w.toNat : Nat))]
  | none => (List.range 24).filterMap fun i => if idxAt iv i < 0 then none else some (i, (b : Int) + 4 * idxAt iv i)

/-- Bytes of one part of a gather or scatter. -/
def gathLen : Bfp → Nat
  | some w => bfpBytes w.toNat
  | none => 4

/-- The address of the first lane of a gather or scatter that is not skipped and whose index is poisoned (R149, R342): a skipped
lane is not checked. -/
def gathPois (iv : Tok) (b : Nat) (f : Bfp) : Option Int :=
  ((gathLanes iv b f).find? fun p => lanePois iv p.1).map (·.2)

/-- The checks of GATH and SCAT (R334, R342): poison of the base, with which every lane fails, and of indices, then the
base must be 4-aligned. -/
def gathChecks (ls : Lease) (x : Tile) (c : Ctx) (fi : Firing) (e : Option Ext) (acc : Acc) (iv bv : Tok) (f : Bfp) :
    Option (Nat × Nat × Bool) :=
  let lanes := (gathLanes iv (pair0 bv) f).map (·.2)
  let st := strad (gathLen f)
  if pair0P bv && lanes != [] then some (cPADDR, addrNat (lanes.headD 0), st (lanes.headD 0))
  else match gathPois iv (pair0 bv) f with
  | some a => some (cPADDR, addrNat a, st a)
  | none =>
    if nsrcPois x c fi e then some (cPADDR, addrNat (lanes.headD 0), st (lanes.headD 0))
    else aChecks ls (extView e) acc f.isNone lanes (gathLen f) st

/-- GATH and GATH.Bm (R342). -/
def execGath (ty : ETy) (d : Dst) (a b : Src) (f : Bfp) (e : Option Ext) (s : State) : Res :=
  onElem s fun l t k ls x c fi =>
    if waiting fi then s
    else if !dstBound x k d then wordFault s l t k ls x c fi cCONFIG 0
    else match srcToks x k c fi ty [a, b] with
      | .error er => operandFault s l t k ls x c fi er
      | .ok ts =>
        let iv := ts.getD 0 Tok.zero
        let bv := ts.getD 1 Tok.zero
        let lanes := gathLanes iv (pair0 bv) f
        match gathChecks ls x c fi e .rd iv bv f with
        | some f => accFault s l t k ls x c fi e f
        | none =>
          if dstFull x c k d then s
          else match f with
            | some w => elemIssue s l t k ls x c fi .read
                ((lanes.map fun p => lineParts 0 p.2.toNat (bfpBytes w.toNat)).flatten)
                (.tok d 6 Tok.zero (if lanes = [] then none else f)) e false []
            | none => elemIssue s l t k ls x c fi .read (lanes.map fun p => mkPart (4 * p.1) p.2.toNat 4)
                (.tok d (tyTag ty) Tok.zero none) e false []

/-- SCAT and SCAT.Bm (R342): parts in ascending lane order. -/
def execScat (d : BitVec 4) (a b : Src) (f : Bfp) (e : Option Ext) (s : State) : Res :=
  onElem s fun l t k ls x c fi =>
    match srcToks x k c fi .i32 [a, b] with
    | .error er => operandFault s l t k ls x c fi er
    | .ok ts =>
      let iv := ts.getD 0 Tok.zero
      let bv := ts.getD 1 Tok.zero
      let lanes := gathLanes iv (pair0 bv) f
      let v := mget Tok.zero c.v d.toNat
      match gathChecks ls x c fi e .wr iv bv f with
      | some f => accFault s l t k ls x c fi e f
      | none =>
        let parts := match f with
          | some w =>
            let o := bfpOut v w.toNat
            (lanes.map fun p => writeParts 0 p.2.toNat o.1 o.2).flatten
          | none => lanes.map fun p =>
            { mkPart (4 * p.1) p.2.toNat 4 with
              data := leBytes 4 (laneAt v.data p.1), pois := List.replicate 4 (lanePois v p.1) }
        elemStore s l t k ls x c fi .write parts e

/-- The request that brings the line of an address nearer (R65, R343). -/
def prefReq (l t k pc : Nat) (w : Word) (ea : Nat) : Req :=
  { iss := .elem l t k, op := .pref, view := 0, floor := 0, after := [], acq := false, rel := false, scope := .panel,
    posted := true, stage := .issued, parts := [mkPart 0 (ea / 128 * 128) 128], dst := .none, chain := none,
    pc := pc, word := w, born := 0, key := [] }

/-- PREF (R343): dropped whole when its address is poisoned or outside; it changes only what is cached. -/
def execPref (a : Src) (s : State) : Res :=
  onElem s fun l t k ls x c fi =>
    match srcTok x k c fi .i32 a with
    | .error er => operandFault s l t k ls x c fi er
    | .ok av =>
      let ea := pair0 av
      if pair0P av || 2 ^ 56 ≤ ea then fireAt s l t k (fi.pc + 1)
      else fireAt (if ls.paired then s else (addReq s (prefReq l t k fi.pc (curWord x fi) ea)).1) l t k (fi.pc + 1)

/-- ORD step (R121, R344): takes its chain number and accesses nothing. -/
def execOrdStep (e : Ext) (s : State) : Res :=
  onElem s fun l t k ls x c fi =>
    if nsrcPois x c fi (some e) then
      accFault s l t k ls x c fi (some e) (cPADDR, bits (laneAt (nsrcTok x c fi e).data 0) 0 16, false)
    else elemIssue s l t k ls x c fi .step [] .none (some e) true []

/-- ORD fence (R126, R344): the firing stalls until every earlier access of a named kind has been performed. At SYS scope it also
waits for the element's writes to the host and peer windows, with a flush of each host port that carried one (R135). -/
def execOrdFence (kinds : BitVec 4) (e : Ext) (s : State) : Res :=
  onElem s fun l t k _ x _ fi =>
    let o := x.ord
    let i := Issuer.elem l t k
    let sys := e.scope == .sys
    let rd := kinds.getLsbD 3 || kinds.getLsbD 2
    let wr := sys || kinds.getLsbD 1 || kinds.getLsbD 0
    if (rd && o.outR != []) || (wr && o.outW != []) then s
    else if sys && o.ports != [] then sysFlush s i |>.1
    else if sys && s.reqs.any (fun q => q.2.isFlush && q.2.stage.open_ && (match q.2.iss with
      | .elem l' t' _ => l' == l && t' == t
      | _ => false)) then s
    else fireAt (updOrd s i (fenceOrd kinds e.scope)) l t k (fi.pc + 2)

/-! ### Storage tiles -/

/-- Places of the bytes `[o, o+n)` of an S-tile access (R71, R87, R335): one part per line, or the offset at which they leave
the space. -/
def sParts (ls : Lease) (t lane o n : Nat) (loc : Bool) : Except Nat (List Part) :=
  let lim := if loc then 2 ^ 20 else granules ls * ls.img.ssplit
  let ps := lineParts lane o n
  match ps.find? (fun p => lim < p.va + p.len) with
  | some p => .error p.va
  | none => .ok (ps.map fun p =>
    { p with
      loc := if loc then .tile t p.va else match scratchMap p.va (granules ls) ls.img.ssplit with
        | some (g, lo) => .tile (sTile ls g + (if t < replicaBase then 0 else replicaBase)) lo
        | none => .none })

/-- Do bytes of the tile's store overlap a live edge buffer (R76)? -/
def hitsEb (x : Tile) (o n : Nat) : Bool := x.ebs.any fun b => o < b.off + 128 * b.slots && b.off < o + n

/-- The checks 3 to 6 of R335 over lanes (lane, offset): parts, or a fault with its address and whether its access straddles. -/
def sChecks (ls : Lease) (x : Tile) (t : Nat) (e : Option Ext) (acc : Acc) (al n : Nat) (loc : Bool) (lanes : List (Nat × Nat)) :
    Except (Nat × Nat × Bool) (List Part) :=
  match lanes.find? (fun p => p.2 % al != 0) with
  | some p => .error (cALIGN, p.2, strad n p.2)
  | none =>
    let rs := lanes.map fun p => (p.2, sParts ls t (4 * p.1) p.2 n loc)
    match rs.findSome? (fun r => match r.2 with
        | .error o => some (o, r.1)
        | .ok _ => none) with
    | some (o, lo) => .error (cTRANS, o, strad n lo)
    | none =>
      let ps := (rs.filterMap fun r => match r.2 with
        | .ok p => some p
        | .error _ => none).flatten
      match ps.find? (fun p => loc && hitsEb x p.va p.len) with
      | some p => .error (cPERM, p.va, p.strad)
      | none =>
        match lanes with
        | [] => .ok []
        | q :: _ =>
          match (match viewCheck ls (extView e) acc with
            | some c => some c
            | none => pageCheck ls (extView e) acc false) with
          | some c => .error (c, q.2, strad n q.2)
          | none => .ok ps

/-- LDT (R345). -/
def execLdt (ty : ETy) (d : Dst) (a : Src) (loc : Bool) (e : Option Ext) (s : State) : Res :=
  onElem s fun l t k ls x c fi =>
    if waiting fi then s
    else if !dstBound x k d then wordFault s l t k ls x c fi cCONFIG 0
    else match srcTok x k c fi ty a with
      | .error er => operandFault s l t k ls x c fi er
      | .ok av =>
        let o := laneAt av.data 0
        if lanePois av 0 || nsrcPois x c fi e then accFault s l t k ls x c fi e (cPADDR, o, strad 96 o)
        else match sChecks ls x t e .rd 4 96 loc [(0, o)] with
          | .error f => accFault s l t k ls x c fi e f
          | .ok ps =>
            if dstFull x c k d then s else elemIssue s l t k ls x c fi .read ps (.tok d (tyTag ty) Tok.zero none) e false []

/-- STT (R345). -/
def execStt (d : BitVec 4) (a : Src) (loc : Bool) (e : Option Ext) (s : State) : Res :=
  onElem s fun l t k ls x c fi =>
    match srcTok x k c fi .i32 a with
    | .error er => operandFault s l t k ls x c fi er
    | .ok av =>
      let o := laneAt av.data 0
      if lanePois av 0 || nsrcPois x c fi e then accFault s l t k ls x c fi e (cPADDR, o, strad 96 o)
      else match sChecks ls x t e .wr 4 96 loc [(0, o)] with
        | .error f => accFault s l t k ls x c fi e f
        | .ok ps =>
          let (bs, pz) := tokBytes (mget Tok.zero c.v d.toNat)
          elemStore s l t k ls x c fi .write
            (ps.map fun p => { p with data := (bs.drop p.lane).take p.len, pois := (pz.drop p.lane).take p.len }) e

/-- The atomics of an S tile (R346): lanes with an offset of all ones are skipped. -/
def sAtomic (op : AOp) (ty : ETy) (d : Option Dst) (cmp : Option (BitVec 4)) (a b : Src) (loc : Bool) (e : Option Ext) (s : State) : Res :=
  onElem s fun l t k ls x c fi =>
    if waiting fi then s
    else if !((d.map (dstBound x k)).getD true) then wordFault s l t k ls x c fi cCONFIG 0
    else match srcToks x k c fi ty [a, b] with
      | .error er => operandFault s l t k ls x c fi er
      | .ok ts =>
        let av := ts.getD 0 Tok.zero
        let bv := ts.getD 1 Tok.zero
        let cv := match cmp with
          | some n => mget Tok.zero c.v n.toNat
          | none => Tok.zero
        let lanes := (List.range 24).filterMap fun i =>
          if laneAt av.data i = 0xFFFFFFFF then none else some (i, laneAt av.data i)
        match lanes.find? fun p => lanePois av p.1 with
        | some p => accFault s l t k ls x c fi e (cPADDR, p.2, false)
        | none =>
          if nsrcPois x c fi e then accFault s l t k ls x c fi e (cPADDR, (lanes.map (·.2)).headD 0, false)
          else match sChecks ls x t e .rw 4 4 loc lanes with
            | .error f => accFault s l t k ls x c fi e f
            | .ok ps =>
              let parts := ps.map fun p =>
                let i := p.lane / 4
                { p with
                  data := leBytes 4 (laneAt bv.data i)
                  pois := List.replicate 4 (lanePois bv i)
                  cmp := leBytes 4 (laneAt cv.data i)
                  cmpPois := lanePois cv i }
              match d with
              | none => elemStore s l t k ls x c fi (.atomic op) parts e
              | some d =>
                if dstFull x c k d then s
                else elemIssue s l t k ls x c fi (.atomic op) parts (.tok d (tyTag ty) (dstOld c d) none) e false []

/-- The minimum and maximum of a type (R346). -/
def minOp (ty : ETy) : AOp := if ty = .u32 then .minu else .min
def maxOp (ty : ETy) : AOp := if ty = .u32 then .maxu else .max
/-- The addition of a type (R346). -/
def addOp (ty : ETy) : AOp := if ty = .f32 then .fadd else .add

/-- AADD (R346). -/
def execAadd (ty : ETy) (a b : Src) (loc : Bool) (e : Option Ext) (s : State) : Res := sAtomic (addOp ty) ty none none a b loc e s
/-- AFAD (R346). -/
def execAfad (ty : ETy) (d : Dst) (a b : Src) (loc : Bool) (e : Option Ext) (s : State) : Res :=
  sAtomic (addOp ty) ty (some d) none a b loc e s
/-- AMIN (R346). -/
def execAmin (ty : ETy) (a b : Src) (loc : Bool) (e : Option Ext) (s : State) : Res := sAtomic (minOp ty) ty none none a b loc e s
/-- AMAX (R346). -/
def execAmax (ty : ETy) (a b : Src) (loc : Bool) (e : Option Ext) (s : State) : Res := sAtomic (maxOp ty) ty none none a b loc e s
/-- AAND (R346). -/
def execAand (ty : ETy) (a b : Src) (loc : Bool) (e : Option Ext) (s : State) : Res := sAtomic .and ty none none a b loc e s
/-- AOR (R346). -/
def execAor (ty : ETy) (a b : Src) (loc : Bool) (e : Option Ext) (s : State) : Res := sAtomic .or ty none none a b loc e s
/-- AXOR (R346). -/
def execAxor (ty : ETy) (a b : Src) (loc : Bool) (e : Option Ext) (s : State) : Res := sAtomic .xor ty none none a b loc e s
/-- AXCH (R346). -/
def execAxch (ty : ETy) (d : Dst) (a b : Src) (loc : Bool) (e : Option Ext) (s : State) : Res :=
  sAtomic .xchg ty (some d) none a b loc e s
/-- ACAS (R346): d holds the comparand and receives the old value. -/
def execAcas (ty : ETy) (d : BitVec 4) (a b : Src) (loc : Bool) (e : Option Ext) (s : State) : Res :=
  sAtomic .cas ty (some (.v d)) (some d) a b loc e s

/-! ### Sync words -/

/-- Everything the element issued before (R348). -/
def elemBefore (x : Tile) : NSet := nunion x.ord.outR x.ord.outW

/-- Does the context wait for an open group record, or the tile for a free one (R349)? -/
def grpBusy (s : State) (l t k g : Nat) (lc : Loc) : Bool :=
  match lc with
  | .tile h o =>
    let recs := match (leaseOf s l).bind (tileOf · h) with
      | some x => x.grecs
      | none => []
    let open_ := recs.find? fun r => r.off == o && r.g == g
    let flying := s.reqs.any fun e => (match e.2.op, e.2.iss with
      | .grp g' _, .elem l' t' k' => l' == l && t' == t && k' == k && g' == g && (e.2.parts.any fun p => p.loc == lc)
      | _, _ => false)
    flying || (match open_ with
      | some r => r.members.any fun m => m == (t, k)
      | none => decide (8 ≤ recs.length))
  | _ => false

/-- SYNA and SYNA.GROUP (R335, R348, R349). -/
def execSyna (a b : Src) (loc grp : Bool) (e : Option Ext) (s : State) : Res :=
  onElem s fun l t k ls x c fi =>
    match srcToks x k c fi .i32 [a, b] with
    | .error er => operandFault s l t k ls x c fi er
    | .ok ts =>
      let av := ts.getD 0 Tok.zero
      let bv := ts.getD 1 Tok.zero
      let o := laneAt av.data 0
      let n := laneAt bv.data 0
      let g := laneAt bv.data 1 % 256
      if lanePois av 0 || lanePois bv 0 || nsrcPois x c fi e then accFault s l t k ls x c fi e (cPADDR, o, false)
      else if grp && lanePois bv 1 then accFault s l t k ls x c fi e (cPCTL, o, false)
      else match sChecks ls x t e .rw 16 16 loc [(0, o)] with
        | .error f => accFault s l t k ls x c fi e f
        | .ok ps =>
          if grp && (!(ctxGroups x.act k).contains g || (mget ⟨0, 0, 0⟩ ls.groups (grpKey t g)).count == 0) then
            wordFault s l t k ls x c fi cCONFIG 0
          else if 64 ≤ postedOf s l t || (grp && ps.any fun p => grpBusy s l t k g p.loc) then s
          else
            let parts := ps.map fun p => { p with pois := [x.poisStore] }
            let s1 := elemIssue s l t k ls x c fi (if grp then .grp g n else .arrive n) parts .none e true (wide (elemBefore x))
            if nsrcBad x fi e then s1 else updTile s1 l t fun x => { x with poisStore := false }

/-- SYNW (R350). -/
def execSynw (d : Dst) (a b : Src) (loc : Bool) (e : Option Ext) (s : State) : Res :=
  onElem s fun l t k ls x c fi =>
    if waiting fi then s
    else if !dstBound x k d then wordFault s l t k ls x c fi cCONFIG 0
    else match srcToks x k c fi .i32 [a, b] with
      | .error er => operandFault s l t k ls x c fi er
      | .ok ts =>
        let av := ts.getD 0 Tok.zero
        let bv := ts.getD 1 Tok.zero
        let o := laneAt av.data 0
        if lanePois av 0 || nsrcPois x c fi e then accFault s l t k ls x c fi e (cPADDR, o, false)
        else if lanePois bv 0 then accFault s l t k ls x c fi e (cPCTL, o, false)
        else match sChecks ls x t e .rd 16 16 loc [(0, o)] with
          | .error f => accFault s l t k ls x c fi e f
          | .ok ps =>
            if dstFull x c k d then s
            else elemIssue s l t k ls x c fi (.swait (laneAt bv.data 0 % 2 ^ 16)) ps (.tok d 0 Tok.zero none) e false []

end Sys2Proof.Machine
end

