-- ==== Sys2Proof/Machine/Flow.lean ====
section
/-! DEFINITION. Class-01 operation words: ports, branches, barriers, traps, exit and control registers (R167 to
R171, R316 to R328), with the end of a firing and the messages it sends (R174), and the words that are no
operation (R244). -/

namespace Sys2Proof.Machine

/-! ### Ports -/

/-- STICKY of an input port (R240). -/
def sticky (x : Plane) (k p : Nat) : Nat := bits (pba x k p) 10 8
/-- Residue of the head (R169): an EOS or marker has residue 1. -/
def residue (x : Plane) (k p : Nat) (i : InPort) : Nat :=
  match i.q with
  | h :: _ => if isData h then max (sticky x k p) 1 - i.used else 1
  | [] => 0
/-- Avail of R165: data tokens ahead of the first EOS or marker, the head counted as its residue. -/
def avail (x : Plane) (c : Ctx) (k p : Nat) : Nat :=
  let i := inPort c p
  match i.q with
  | h :: r => if isData h then residue x k p i + dataAhead r else 0
  | [] => 0

/-- One advance of a port (R169): the residue falls, or the slot is freed. -/
def advOne (x : Plane) (k p : Nat) (i : InPort) : InPort :=
  if 1 < residue x k p i then { i with used := i.used + 1 } else ⟨i.q.drop 1, 0⟩
/-- Repeated advances. -/
def advMany (x : Plane) (k p : Nat) : Nat → InPort → InPort
  | 0, i => i
  | n + 1, i => advMany x k p n (advOne x k p i)

/-- A count of the firing's advances or publishes grows. -/
def countUp (m : List (Nat × Nat)) (p n : Nat) : List (Nat × Nat) := mset 0 m p (mget 0 m p + n)

/-- `n` slots of an output leave from the tail on (R318): each with its contents, the sender's incarnation
written into it (R413). -/
def publish (c : Ctx) (j n : Nat) (inc : BitVec 8) : Ctx :=
  let o := outPort c j
  let ts := (List.range n).map fun i => { mget Tok.zero o.tail i with inc := inc }
  let tail := (o.tail.filter fun e => n ≤ e.1).map fun e => (e.1 - n, e.2)
  { c with outs := mput c.outs j { o with pub := o.pub ++ ts, tail := tail } }
/-- One given token is published; a written tail slot is discarded (R321). -/
def publishTok (c : Ctx) (j : Nat) (t : Tok) (inc : BitVec 8) : Ctx :=
  let o := outPort c j
  { c with outs := mput c.outs j { o with pub := o.pub ++ [{ t with inc := inc }], tail := [] } }

/-- The incarnation of a tile's die (R413). -/
def incOf (s : State) (ls : Lease) (t : Nat) : BitVec 8 := mget 0 s.incarn (tileDie ls t)

/-- PORT_OVERFLOW with its port and counts (R171, R386). -/
def overflowFault (s : State) (l t k : Nat) (ls : Lease) (x : Tile) (c : Ctx) (fi : Firing) (port a b : Nat) : State :=
  wordFault s l t k ls x c fi cOVERFLOW 0 fun r => { r with port := port, cnta := a, cntb := b }

/-- WAITF (R316). -/
def execWaitf (p : BitVec 3) (n : BitVec 6) (s : State) : Res :=
  onElem s fun l t k ls x c fi =>
    let p := p.toNat
    let q := (inPort c p).q.take n.toNat
    if !bound x.act k p then wordFault s l t k ls x c fi cCONFIG 0
    else if depth x.act k p < n.toNat then overflowFault s l t k ls x c fi p n.toNat (dataAhead (inPort c p).q)
    else if q.length = n.toNat || q.any (fun t => !isData t) then fireAt s l t k (fi.pc + 1)
    else s

/-- WAITE (R316). -/
def execWaite (p : BitVec 2) (n : BitVec 6) (s : State) : Res :=
  onElem s fun l t k ls x c fi =>
    let j := p.toNat
    if !bound x.act k (8 + j) then wordFault s l t k ls x c fi cCONFIG 0
    else if depth x.act k (8 + j) < n.toNat then overflowFault s l t k ls x c fi (8 + j) n.toNat (outFree x.act c k j)
    else if n.toNat ≤ outFree x.act c k j then fireAt s l t k (fi.pc + 1)
    else s

/-- ADV (R169, R171, R317): the first `n` slots must hold data tokens, however often a sticky head has yet to be taken. -/
def execAdv (p : BitVec 3) (n : BitVec 6) (s : State) : Res :=
  onElem s fun l t k ls x c fi =>
    let p := p.toNat
    if !bound x.act k p then wordFault s l t k ls x c fi cCONFIG 0
    else if dataAhead (inPort c p).q < n.toNat then overflowFault s l t k ls x c fi p n.toNat (dataAhead (inPort c p).q)
    else fireAt (updCtx s l t k fun c =>
      { c with
        ins := mput c.ins p (advMany x.act k p n.toNat (inPort c p))
        fire := c.fire.map fun f => { f with adv := countUp f.adv p n.toNat } }) l t k (fi.pc + 1)

/-- PUB (R318, R321). -/
def execPub (p : BitVec 2) (n : BitVec 6) (s : State) : Res :=
  onElem s fun l t k ls x c fi =>
    let j := p.toNat
    if !bound x.act k (8 + j) then wordFault s l t k ls x c fi cCONFIG 0
    else if nhas c.eosSent j then wordFault s l t k ls x c fi cSTRAY 0 fun r => { r with port := 8 + j }
    else if outFree x.act c k j < n.toNat then overflowFault s l t k ls x c fi (8 + j) n.toNat (outFree x.act c k j)
    else fireAt (updCtx s l t k fun c =>
      let c1 := publish c j n.toNat (incOf s ls t)
      { c1 with fire := c1.fire.map fun f => { f with pub := countUp f.pub j n.toNat } }) l t k (fi.pc + 1)

/-- PEEK (R319). -/
def execPeek (d : Dst) (p : BitVec 3) (slot : BitVec 6) (s : State) : Res :=
  onElem s fun l t k ls x c fi =>
    let p := p.toNat
    let q := (inPort c p).q
    if !bound x.act k p || !dstBound x k d then wordFault s l t k ls x c fi cCONFIG 0
    else
      let put (v : Tok) (st : BitVec 2) : State :=
        if dstFull x c k d then s
        else fireAt (updCtx s l t k fun c => { dstPut c d v with pkst := st }) l t k (fi.pc + 1)
      match (q.take (slot.toNat + 1)).find? (fun t => !isData t) with
      | some e => put { Tok.zero with tag := 7, aux := BitVec.ofNat 8 (e.aux.toNat % 8) } (if isEos e then 1 else 2)
      | none =>
        match q[slot.toNat]? with
        | some v => put { v with inc := 0 } 0
        | none => overflowFault s l t k ls x c fi p (slot.toNat + 1) q.length

/-- EMIT (R320, R321). -/
def execEmit (p : BitVec 2) (a : Src) (s : State) : Res :=
  onElem s fun l t k ls x c fi =>
    let j := p.toNat
    if !bound x.act k (8 + j) then wordFault s l t k ls x c fi cCONFIG 0
    else match srcTok x k c fi .i32 a with
      | .error e => operandFault s l t k ls x c fi e
      | .ok v =>
        if nhas c.eosSent j then wordFault s l t k ls x c fi cSTRAY 0 fun r => { r with port := 8 + j }
        else if outFree x.act c k j = 0 then s
        else fireAt (updCtx s l t k fun c =>
          let c1 := publish (dstPut c (.o p) { v with inc := 0 }) j 1 (incOf s ls t)
          { c1 with fire := c1.fire.map fun f => { f with pub := countUp f.pub j 1 } }) l t k (fi.pc + 1)

/-! ### Messages of the control tree -/

/-- Tile named by a CTP or CTC word, in the same rectangle as tile `t` (R242). -/
def ctlTile (ls : Lease) (t w : Nat) : Nat := tileKey ls (bits w 0 8) (bits w 8 8) + (if t < replicaBase then 0 else replicaBase)

/-- The controller and the index under which it holds a child: context `k` of `t`, or the controller of
`t` (R172). -/
def parentOf (ls : Lease) (t k : Nat) (ctrl : Bool) : Option (Nat × Nat) :=
  (usedTiles ls).findSome? fun p =>
    match tileOf ls p with
    | none => none
    | some x =>
      if cKind x.act = 0 || decide (p < replicaBase) != decide (t < replicaBase) then none
      else ((List.range (cNch x.act)).find? fun i =>
        let w := ctc x.act i
        w.testBit 31 == ctrl && ctlTile ls p w == t && (ctrl || bits w 29 2 == k)).map fun i => (p, i)

/-- A message enters the control network. -/
def send (s : State) (l : Nat) (m : Msg) : State := updLease s l fun ls => { ls with msgs := ls.msgs ++ [m] }

/-- A context's done goes to its parent (R174). -/
def sendDone (s : State) (l t k : Nat) : State :=
  match leaseOf s l with
  | none => s
  | some ls => match parentOf ls t k false with
    | some (p, i) => send s l ⟨.done, p, i, 0⟩
    | none => s

/-- The open go of a context ends with its done. -/
def finishGo (s : State) (l t k : Nat) : State :=
  sendDone (updCtx s l t k fun c => { c with goOpen := false, goCnt := 0 }) l t k

/-! ### Edge buffers that end (R75) -/

/-- Neighbour of a tile over an edge 0 N, 1 E, 2 S, 3 W within the rectangle. -/
def neighbour (ls : Lease) (t edge : Nat) : Option Nat :=
  let c := keyCol ls t
  let r := keyRow ls t
  let b := if t < replicaBase then 0 else replicaBase
  match edge with
  | 0 => if r = 0 then none else some (b + tileKey ls c (r - 1))
  | 1 => if c + 1 < 2 * ls.img.w then some (b + tileKey ls (c + 1) r) else none
  | 2 => if r + 1 < 2 * ls.img.h then some (b + tileKey ls c (r + 1)) else none
  | _ => if c = 0 then none else some (b + tileKey ls (c - 1) r)
/-- The incoming track that an outgoing track feeds (R359). -/
def landTrack (tr : Nat) : Nat := (tr / 4 + 2) % 4 * 4 + tr % 4

/-- Switch words of a plane, decoded (R237). -/
def swWords (x : Plane) : List Instr :=
  (List.range 32).filterMap fun i => match decodeSw (mget 0 x.sw i) with
    | .ok w => some w
    | .error _ => none
/-- Destinations of a source endpoint: endpoint and context (R360). A track has no context of its own. -/
def destsOf (x : Plane) (src : Nat) (k : Nat) : List (Nat × Nat) :=
  (swWords x).filterMap fun w => match w with
    | .route a d c => if a.toNat == src && (src < 16 || c.toNat == k) then some (d.toNat, c.toNat) else none
    | .fork a d c => if a.toNat == src && (src < 16 || c.toNat == k) then some (d.toNat, c.toNat) else none
    | .merge a d c => if a.toNat == src && (src < 16 || c.toNat == k) then some (d.toNat, c.toNat) else none
    | _ => none

/-- The switch word of a kind on an outgoing track. -/
def trackWord (x : Plane) (p : Instr → Bool) : Bool := (swWords x).any p
/-- A CUT word stands on the track (R361). -/
def cutOn (x : Plane) (tr : Nat) : Bool := trackWord x fun w => match w with
  | .cut a _ => a.toNat == tr
  | _ => false

/-- Every way of an outgoing track passes a CUT word (R407). -/
def leadsToCut (ls : Lease) : Nat → Nat → Nat → Bool
  | 0, _, _ => false
  | fuel + 1, t, tr =>
    match tileOf ls t with
    | none => false
    | some x => cutOn x.act tr || (match neighbour ls t (tr / 4) with
      | none => false
      | some u => match tileOf ls u with
        | none => false
        | some y =>
          let ds := destsOf y.act (landTrack tr) 0
          !ds.isEmpty && ds.all fun d => decide (d.1 < 16) && leadsToCut ls fuel u d.1)
/-- A bound on the hops of a route. -/
def hopFuel (ls : Lease) : Nat := 64 * (ls.img.w * ls.img.h)
/-- The route of output `j` leads into a CUT track (R407). -/
def outToCut (ls : Lease) (x : Plane) (t k j : Nat) : Bool :=
  let ds := destsOf x (24 + j) k
  !ds.isEmpty && ds.all fun d => decide (d.1 < 16) && leadsToCut ls (hopFuel ls) t d.1

/-- The live edge buffer fed by an incoming track (R247, R363). -/
def bufferAt (x : Tile) (it : Nat) : Option EdgeBuf := x.ebs.find? fun b => bits b.endp 0 5 == it

/-- The contexts that an outgoing track reaches through the switches and through further edge buffers, following at most `fuel`
hops (R75, R363). -/
def reaches (ls : Lease) : Nat → Nat → Nat → List (Nat × Nat)
  | 0, _, _ => []
  | fuel + 1, t, tr =>
    match neighbour ls t (tr / 4) with
    | none => []
    | some u =>
      match tileOf ls u with
      | none => []
      | some x => match bufferAt x (landTrack tr) with
        | some b => reaches ls fuel u (bits b.endp 5 5)
        | none => ((destsOf x.act (landTrack tr) 0).map fun e =>
            if e.1 < 16 then reaches ls fuel u e.1 else [(u, e.2)]).flatten

/-- The 104 bytes of a slot (R73). -/
def slotBytes (t : Tok) : List Byte :=
  leBytes 96 t.data.toNat ++
    leBytes 8 (t.tag.toNat + t.aux.toNat * 2 ^ 3 + t.pois.toNat * 2 ^ 11 + t.inc.toNat * 2 ^ 35)
/-- The token of a slot (R73). -/
def slotTok (b : List Byte) : Tok :=
  let f := leNat ((b.drop 96).take 8)
  { data := BitVec.ofNat 768 (leNat (b.take 96)), tag := BitVec.ofNat 3 f, aux := BitVec.ofNat 8 (f / 2 ^ 3),
    pois := BitVec.ofNat 24 (f / 2 ^ 11), inc := BitVec.ofNat 8 (f / 2 ^ 35) }
/-- The token in slot `i` of a buffer: as it was written, with the lanes of a sector that an error has struck since poisoned, and
all of them, with tag 0, where it struck the side fields (R73, R84, R141, R142). -/
def slotRead (x : Tile) (b : EdgeBuf) (i : Nat) : Tok :=
  let t := slotTok (tileRd x (b.off + 128 * i) 104).1
  if nhas b.bad (4 * i + 3) then { t with pois := allLanes, tag := 0 }
  else { t with pois := t.pois ||| maskOf fun j => nhas b.bad (4 * i + j / 8) }

/-- A live edge buffer is freed (R75): whole blocks become unscrubbed, the rest of the region is zeroed. The tokens that it held by then
are kept (R88). -/
def freeEb (x : Tile) (b : EdgeBuf) : Tile :=
  let lo := b.off
  let hi := b.off + 128 * b.slots
  let full := (unitsOf 2048 lo (hi - lo)).filter fun q => lo ≤ q * 2048 && q * 2048 + 2048 ≤ hi
  let cut := hi / 2048 * 2048
  let x1 := if cut < hi then tileWr x (max lo cut) (List.replicate (hi - max lo cut) 0) (List.replicate (hi - max lo cut) false) else x
  { x1 with
    store := full.foldl (fun m q => dropRange m (q * 2048) (q * 2048 + 2048)) x1.store
    spois := full.foldl (fun m q => m.filter fun k => !(q * 64 ≤ k && k < q * 64 + 64)) x1.spois
    scrubbed := x1.scrubbed.filter fun q => !full.contains q
    ebs := x1.ebs.filter fun e => e.off != b.off
    kept := x1.kept ++ (List.range b.count).map fun i => (bits b.endp 5 5, slotRead x b ((b.head + i) % b.slots)) }

/-- Edge buffers whose consumer (t, k) has emitted EOS are freed (R75). DESIGN CHOICE: one whose track forks to several consumers is
freed by the first of them (log 111). -/
def freeEdges (s : State) (l t k : Nat) : State :=
  updLease s l fun ls =>
    { ls with tiles := mmap ls.tiles fun u x =>
        (x.ebs.filter fun b => (reaches ls (hopFuel ls) u (bits b.endp 5 5)).contains (t, k)).foldl freeEb x }

/-! ### Closing and the end of a firing -/

/-- A context is closed (R185, R174): an outstanding done is sent. -/
def closeCtx (s : State) (l t k : Nat) : State :=
  let open_ := match (leaseOf s l).bind (tileOf · t) with
    | some x => (ctxOf x k).goOpen
    | none => false
  let s1 := updCtx s l t k fun c => { c with closed := true }
  if open_ then finishGo s1 l t k else s1

/-- EOS (R321): one EOS on each named port, waiting for room; a second one faults STRAY_TOKEN. -/
def execEos (p : Option (BitVec 2)) (s : State) : Res :=
  onElem s fun l t k ls x c fi =>
    let ports := match p with
      | some j => [j.toNat]
      | none => boundOut x.act k
    match ports.find? (fun j => !bound x.act k (8 + j)) with
    | some _ => wordFault s l t k ls x c fi cCONFIG 0
    | none =>
      match ports.find? (fun j => nhas c.eosSent j) with
      | some j => wordFault s l t k ls x c fi cSTRAY 0 fun r => { r with port := 8 + j }
      | none =>
        if ports.any fun j => outFree x.act c k j == 0 then s
        else
          let sent := ports.foldl nadd c.eosSent
          let s1 := updCtx s l t k fun c =>
            { ports.foldl (fun c j => publishTok c j eosTok (incOf s ls t)) c with eosSent := sent }
          let s2 := if ports = [] then s1 else freeEdges s1 l t k
          let s3 := if boundIn x.act k = [] && (boundOut x.act k).all (fun j => nhas sent j) then closeCtx s2 l t k else s2
          fireAt s3 l t k (fi.pc + 1)

/-- The end of a firing (R166, R174, R326): the last handler of its priority, the count of DONEH. -/
def endFiring (s : State) (l t k : Nat) (x : Tile) (fi : Firing) : State :=
  let s1 := updCtx s l t k fun c =>
    { c with fire := .none, lastFired := mput c.lastFired (hPrio x.act fi.h) fi.h }
  let c := ctxOf x k
  if gated x.act k && c.goOpen && fi.h = doneH x.act k then
    if c.goLeft ≤ c.goCnt + 1 then finishGo s1 l t k
    else updCtx s1 l t k fun c => { c with goCnt := c.goCnt + 1 }
  else s1

/-- The first port whose count differs from its rate (R167): port, count, rate. -/
def rateBad (x : Plane) (fi : Firing) : Option (Nat × Nat × Nat) :=
  ((List.range 8).map (fun i => (i, mget 0 fi.adv i, hCR x fi.h i)) ++
    (List.range 4).map (fun j => (8 + j, mget 0 fi.pub j, hPR x fi.h j))).find? fun e => e.2.1 != e.2.2

/-- EXIT (R167, R326). -/
def execExit (s : State) : Res :=
  onElem s fun l t k ls x c fi =>
    match (if fi.noRate then none else rateBad x.act fi) with
    | some (p, a, b) => wordFault s l t k ls x c fi cRATE 0 fun r => { r with port := p, cnta := a, cntb := b }
    | none => endFiring s l t k x fi

/-! ### Branches and loops -/

/-- A taken branch to program-memory address `pc` (R322). -/
def branchTo (s : State) (l t k : Nat) (ls : Lease) (x : Tile) (c : Ctx) (fi : Firing) (off : BitVec 11) : State :=
  let tg : Int := fi.pc + off.toInt
  if tg < hEntry x.act fi.h || (hWend x.act fi.h : Int) < tg then wordFault s l t k ls x c fi cBRANCH 0
  else fireAt s l t k tg.toNat

/-- BR (R322). -/
def execBr (off : BitVec 11) (s : State) : Res :=
  onElem s fun l t k ls x c fi => branchTo s l t k ls x c fi off

/-- BZ and BNZ (R322): a poisoned predicate faults, taken or not. -/
def branchIf (z : Bool) (a : Src) (off : BitVec 11) (s : State) : Res :=
  onElem s fun l t k ls x c fi =>
    match srcTok x k c fi .i32 a with
    | .error e => operandFault s l t k ls x c fi e
    | .ok v =>
      if v.pois.getLsbD 0 then wordFault s l t k ls x c fi cPCTL 0
      else if (laneAt v.data 0 == 0) == z then branchTo s l t k ls x c fi off
      else fireAt s l t k (fi.pc + 1)
/-- BZ (R322). -/
def execBz (a : Src) (off : BitVec 11) (s : State) : Res := branchIf true a off s
/-- BNZ (R322). -/
def execBnz (a : Src) (off : BitVec 11) (s : State) : Res := branchIf false a off s

/-- Lane 0 of a register becomes `v`; the other lanes and the tag stay (R323). -/
def setLane0 (c : Ctx) (d : BitVec 4) (v : BitVec 32) : Ctx :=
  let t := mget Tok.zero c.v d.toNat
  dstPut c (.v d) { t with data := (t.data >>> 32 <<< 32) ||| v.zeroExtend 768 }

/-- LOOP (R323): a branch out of the window faults before the count changes. -/
def execLoop (d : BitVec 4) (off : BitVec 11) (s : State) : Res :=
  onElem s fun l t k ls x c fi =>
    let tk := mget Tok.zero c.v d.toNat
    let v := (BitVec.ofNat 32 (laneAt tk.data 0)).toInt
    let tg : Int := fi.pc + off.toInt
    if tk.pois.getLsbD 0 then wordFault s l t k ls x c fi cPCTL 0
    else if 1 < v then
      if tg < hEntry x.act fi.h || (hWend x.act fi.h : Int) < tg then wordFault s l t k ls x c fi cBRANCH 0
      else fireAt (updCtx s l t k fun c => setLane0 c d (BitVec.ofInt 32 (v - 1))) l t k tg.toNat
    else fireAt (updCtx s l t k fun c => setLane0 c d 0) l t k (fi.pc + 1)

/-! ### Barriers, traps, no operation -/

/-- GBAR (R177, R324): the arrival is sent and the firing stalls until the generation has advanced. -/
def execGbar (g : BitVec 8) (s : State) : Res :=
  onElem s fun l t k ls x c fi =>
    let g := g.toNat
    let e := mget ⟨0, 0, 0⟩ ls.groups (grpKey t g)
    match fi.wait with
    | .gbar _ gen =>
      if ls.msgs.contains ⟨.arrival, t, k, g⟩ then s
      else if e.gen = gen then s
      else fireAt s l t k (fi.pc + 1)
    | _ =>
      if e.count = 0 || !(ctxGroups x.act k).contains g then wordFault s l t k ls x c fi cCONFIG 0
      else updCtx (send s l ⟨.arrival, t, k, g⟩) l t k fun c =>
        { c with fire := c.fire.map fun f => { f with wait := .gbar g e.gen } }

/-- TRAP of an element (R325). -/
def execElementTrap (code : BitVec 8) (s : State) : Res :=
  onElem s fun l t k ls x c fi => wordFault s l t k ls x c fi cTRAP 0 fun r => { r with code := code.toNat }

/-- NOP of an element (R230). -/
def execElementNop (s : State) : Res := onElem s fun l t k _ _ _ fi => fireAt s l t k (fi.pc + 1)

/-- NON_INSTR (R235): a class-11 word reached in its own right. -/
def execNonInstr (_w : Word) (s : State) : Res :=
  onElem s fun l t k ls x c fi => wordFault s l t k ls x c fi cNONINSTR 0

/-- ILLEGAL_OP (R244): an undefined sequencer or operation word; the record of a sequencer word names it. -/
def execIllegalOp (w : Word) (s : State) : Res :=
  match s.cur with
  | .seq .. => onSeq s [] fun l rep _ _ => seqFaultG s l rep cILLEGAL 0 fun r => { r with opword := w }
  | _ => onElem s fun l t k ls x c fi => wordFault s l t k ls x c fi cILLEGAL 0

/-! ### Control registers -/

/-- The value of a control register (R328). -/
def creg (ls : Lease) (x : Tile) (t k : Nat) (c : Ctx) (n : Nat) : Nat :=
  if n < 10 then (if cKind x.act = 0 then 0 else (mget (0 : Word) x.ctr n).toNat)
  else if 0x10 ≤ n && n ≤ 0x13 then (mget (0 : LaneMask) c.m (n - 0x10)).toNat
  else if 0x30 ≤ n && n ≤ 0x3F then (if hCtx x.act (n - 0x30) = k then mget 0 c.miss (n - 0x30) else 0)
  else match n with
    | 0x18 => c.estat.toNat
    | 0x20 => c.hmask.toNat
    | 0x21 => c.skip
    | 0x22 => x.cctr
    | 0x23 => c.pkst.toNat
    | 0x24 => x.phase % 256
    | 0x25 => k
    | 0x26 => keyRow ls t * 256 + keyCol ls t
    | _ => 0

/-- A write of a control register (R327, R328). -/
def cregWr (x : Tile) (k : Nat) (c : Ctx) (n v : Nat) : Ctx :=
  if 0x10 ≤ n && n ≤ 0x13 then { c with m := mset 0 c.m (n - 0x10) (BitVec.ofNat 24 v) }
  else if 0x30 ≤ n && n ≤ 0x3F then
    (if hCtx x.act (n - 0x30) = k then { c with miss := mset 0 c.miss (n - 0x30) (v % 2 ^ 16) } else c)
  else match n with
    | 0x18 => { c with estat := BitVec.ofNat 32 (v % 32) }
    | 0x20 => { c with hmask := BitVec.ofNat 16 v }
    | 0x21 => { c with skip := v % 2 ^ 32 }
    | _ => c

/-- A tile of four counters has no C4 to C9 (R328). -/
def cregAbsent (ls : Lease) (t n : Nat) : Bool := 4 ≤ n && n ≤ 9 && kindOf ls t != 3

/-- RDCT (R327). -/
def execRdct (d : Dst) (n : BitVec 11) (s : State) : Res :=
  onElem s fun l t k ls x c fi =>
    if cregAbsent ls t n.toNat then wordFault s l t k ls x c fi cILLEGAL 0
    else if !dstBound x k d then wordFault s l t k ls x c fi cCONFIG 0
    else if dstFull x c k d then s
    else fireAt (updCtx s l t k fun c =>
      dstPut c d { Tok.zero with data := BitVec.ofNat 768 (creg ls x t k c n.toNat % 2 ^ 32) }) l t k (fi.pc + 1)

/-- CTRW (R327): a poisoned lane 0 faults and the register keeps its value. -/
def execCtrw (a : Src) (n : BitVec 11) (s : State) : Res :=
  onElem s fun l t k ls x c fi =>
    match srcTok x k c fi .i32 a with
    | .error e => operandFault s l t k ls x c fi e
    | .ok v =>
      if v.pois.getLsbD 0 then wordFault s l t k ls x c fi cPCTL 0
      else fireAt (updCtx s l t k fun c => cregWr x k c n.toNat (laneAt v.data 0)) l t k (fi.pc + 1)

end Sys2Proof.Machine
end

