-- ==== Sys2Proof/Machine/MemPath.lean ====
section
/-! DEFINITION. The memory path: the address token at its slice (R48, R86), requests at the homes
(R53, R54, R59, R77, R82 to R87, R116, R120, R460), versioned lines (R99 to R102), atomics (R129,
R130, R347), sync words (R80, R81), host completions (R56, R57, R150, R265), and the marks of
invalidations (R43, R56). -/

namespace Sys2Proof.Machine

/-- The twin of a paired lease's request that waits at the exit (R418). -/
def twinsOf (s : State) (id : Nat) (r : Req) : List Nat :=
  (s.reqs.filter fun e => e.1 != id && e.2.stage == .exit && e.2.key == r.key && r.key != [] &&
    issLease e.2.iss == issLease r.iss).map (·.1)

/-- The address token has passed its checks: a load or store releases the sequencer, which issues on;
an atomic holds it until the reply (R255, R263). -/
def seqPassed (s : State) (id : Nat) (r : Req) : State :=
  match r.iss with
  | .seq l rep =>
    match r.op with
    | .atomic _ => updSeq s l rep fun q => { q with op := .amo id }
    | .swait _ => s
    | _ => updSeq s l rep fun q =>
      let q1 := match r.dst with
        | .x xd _ _ => if xd = 0 then q else { q with pend := mput q.pend xd.toNat id }
        | _ => q
      if q1.op == .addr id then seqNext q1 else q1
  | _ => s

/-- Translation of every part in turn (R34, R86): each with its outcome and, where it has one, its place. -/
def translateParts (l : Nat) (x : Acc) (setD : Bool) : List Part → State → State × List (Part × Tr)
  | [], s => (s, [])
  | p :: r, s =>
    let (t, s1) := translate s l p.va x setD
    let (s2, ps) := translateParts l x setD r s1
    (s2, (match t with
      | .ok lc v => { p with loc := lc, versioned := v }
      | _ => p, t) :: ps)

/-- A part is served outside the panel. -/
def Part.outside (p : Part) : Bool :=
  match p.loc with
  | .host _ | .peer _ _ => true
  | _ => false
/-- A part is bound for the host window. -/
def Part.toHost (p : Part) : Bool :=
  match p.loc with
  | .host _ => true
  | _ => false

/-- May an operation go to the host window (R265)? AtomicOps are those that PCIe has; a sync word is served by a home of this panel
(log 106). -/
def hostTakes : MOp → Bool
  | .atomic .add | .atomic .xchg | .atomic .cas => true
  | .atomic _ | .arrive _ | .grp _ _ | .swait _ => false
  | _ => true
/-- May it go to a peer? -/
def peerTakes : MOp → Bool
  | .arrive _ | .grp _ _ | .swait _ => false
  | _ => true
/-- Does the place of a part outside the panel take the operation? -/
def takes (op : MOp) : Loc → Bool
  | .host _ => hostTakes op
  | .peer _ _ => peerTakes op
  | _ => true

/-- The first of the checks of a part at its slice that fails (R34, R98, R265), the tenant check apart. -/
def partCheck (ls : Lease) (r : Req) (e : Part × Tr) : Option Nat :=
  match e.2 with
  | .fault c _ _ => some c
  | .absent .. => none
  | .ok .. =>
    match pageCheck ls r.view r.op.acc e.1.versioned with
    | some c => some c
    | none => if takes r.op e.1.loc then none else some cPERM
/-- Do the tenant checks or grants refuse a part (R53, R54)? -/
def partRefused (s : State) (t : Nat) (p : Part) : Bool :=
  match p.loc with
  | .mem pa => !tenantOk s t pa
  | _ => false
/-- The part that a fault at the slice names: of those that a check refuses the first in order (R86, R334). Refusals by the tenant
checks are left to the homes unless the access cannot be sent, or part of it leaves the panel. -/
def sliceFault (s : State) (ls : Lease) (r : Req) (es : List (Part × Tr)) : Option (Nat × Part × Tr) :=
  let all := es.any (fun e => (partCheck ls r e).isSome) || es.any fun e => e.1.outside
  es.findSome? fun e => match partCheck ls r e with
    | some c => some (c, e)
    | none => if all && partRefused s ls.tenant e.1 then some (cTENANT, e) else none
/-- A compare-and-swap with a poisoned comparand is not applied, and not sent to the host (R130, R145). -/
def casPois (r : Req) (p : Part) : Bool := r.op == .atomic .cas && p.cmpPois
/-- The part that would carry poison to the host while EPOK is 0 (R151). -/
def egressPart (s : State) (ls : Lease) (r : Req) (es : List (Part × Tr)) : Option Part :=
  if r.op.acc.writes && !(vfOf s ls.tenant).epok then
    (es.map (·.1)).find? fun p => p.toHost && (p.pois.any fun b => b) && !casPois r p
  else none

/-- The AtomicOp of a part (R265). -/
def hostOp (r : Req) (p : Part) : HostOp :=
  match r.op with
  | .atomic .add => .fetchAdd (leNat p.data)
  | .atomic .xchg => .swap (leNat p.data)
  | .atomic .cas => .cas (leNat p.cmp) (leNat p.data)
  | _ => .read

/-- A part bound for the host or peer window leaves the device, through the host port of its slice's die (R48, R56, R130, R265,
R432). -/
def sendOut (s : State) (id : Nat) (ls : Lease) (r : Req) (i : Nat) (p : Part) : State :=
  match p.loc with
  | .host o =>
    let tag := hostTag s ls.tenant (sliceDie ls p.va)
    if r.op == .write then
      updOrd (setPart (hostWr s tag o p.data p.pois) id i { p with st := .done }) r.iss fun q =>
        { q with ports := nadd q.ports tag.port }
    else if casPois r p then
      setPart s id i { p with st := .done, data := p.cmp, pois := List.replicate p.len true, code := 2 }
    else emit s (.hostReq tag id i o p.len (hostOp r p) (p.pois.any fun b => b))
  | .peer k _ => emit s (.peerReq k id i)
  | _ => s

/-- Every outgoing part of a request. -/
def sendAll (s : State) (id : Nat) (ls : Lease) (r : Req) : State :=
  (r.parts.zipIdx).foldl (init := s) fun s e => sendOut s id ls r e.2 e.1

/-- Earlier accesses of the sequencer to the places that an access reaches (R128). -/
def placeEdges (s : State) (id : Nat) (r : Req) (ps : List Part) : Edges :=
  match r.iss with
  | .seq l rep => wide ((ps.map fun p => (seqOverlap s l rep p.va p.len (dpaOf p.loc)).1.filter fun k => k < id).flatten)
  | _ => []

/-- A checked request leaves its slice (R48): copies that its issuer's die holds of lines it writes go, parts bound for the host and
the peers leave the device, and the issuer goes on. -/
def leaveSlice (s : State) (id : Nat) (ls : Lease) (r : Req) (ps : List Part) : State :=
  let d := issDie s r.iss
  let r' := { r with parts := ps, stage := .sent, left := tickOf s d }
  let s1 := if r.op.isWrite then ps.foldl (fun s p => match p.loc with
      | .mem pa => dropCopies s d pa
      | _ => s) s else s
  sendAll (updReq (bump s1) id fun _ => r') id ls r'

/-- A PREF that fails a check is gone (R343). -/
def dropPref (s : State) (id : Nat) : State := settle { s with reqs := mdel s.reqs id } id 0

/-- May address tokens of the lease be translated? -/
def slicesOn (ls : Lease) : Bool := ls.state == .run || ls.state == .drain || (ls.state == .stop && ls.endc == 0)

/-- ADDRESS_TOKEN_AT_SLICE (R48): translation in two stages, the attribute and view checks of every part, the page-fault path, and
the physical request. D bits are set once every part has passed (R52). A PREF that fails a check is dropped (R343). -/
def execAddressTokenAtSlice (id : Nat) (s : State) : Res :=
  match reqOf s id with
  | none => .next s
  | some r =>
    match r.stage, leaseOf s (issLease r.iss) with
    | .issued, some ls =>
      let l := issLease r.iss
      if !slicesOn ls then .next s
      else
      let x := r.op.acc
      let (s1, es1) := translateParts l x false r.parts s
      let pass := es1.all fun e => e.2.isOk
      let (s2, es) := if pass && x.writes && (sliceFault s1 ls r es1).isNone then translateParts l x true r.parts s1 else (s1, es1)
      let ps := es.map (·.1)
      if r.op == .pref then
        if (sliceFault s2 ls r es).isSome || !pass || ps.any fun p => p.outside || partRefused s2 ls.tenant p then .next (dropPref s2 id)
        else .next (updReq s2 id fun r => { r with parts := ps, stage := .sent })
      else
        match sliceFault s2 ls r es with
        | some (c, p, t) => .next (partFault (transEvents s2 ls.tenant l (match t with
            | .fault .. => t
            | _ => .fault c none none)) id c p)
        | none =>
          match es.find? fun e => !e.2.isOk with
          | some (p, .absent e lf pin) =>
            let (s3, j) := newJob s2 l p.va x e lf pin .token
            .next (updReq s3 id fun r => { r with stage := .withheld j })
          | _ =>
            match egressPart s2 ls r es with
            | some p => .next (partFault s2 id cPEGR p)
            | none =>
              let r := { r with after := eUnion r.after (placeEdges s2 id r ps) }
              if ps.any Part.outside && (r.after != [] || r.flush) then .next (if r.after = [] then beforeHome s2 id r else s2)
              else match ps.find? fun p => atsMissed s2 ls.tenant p.loc with
                | some p =>
                  let (s3, j) := pageRequest s2 l p.va x
                  .next (updReq s3 id fun r => { r with stage := .withheld j })
                | none =>
                  let s3 := leaveSlice s2 id ls r ps
                  let s4 := if ps.any (partRefused s3 ls.tenant) then s3 else
                    (twinsOf s id r).foldl (fun s t => match reqOf s t with
                      | some q => seqPassed s t q
                      | none => s) (seqPassed s3 id r)
                  .next (checkDone s4 id (issDie s r.iss))
    | _, _ => .next s

/-- The first part that the tenant checks or grants refuse, as the access is checked: before any of its parts has been served (R53,
R54, R86, R87). -/
def tenantRefusal (s : State) (r : Req) : Option Part :=
  if r.parts.all fun p => p.st == .new then r.parts.find? (partRefused s (issTenant s r.iss)) else none

/-- A refused request: the PF counter of the offending function, and the fault (R53, R429); a PREF is dropped (R343). -/
def refuseTenant (s : State) (id : Nat) (r : Req) (p : Part) : State :=
  let s1 := countRefusal s (issTenant s r.iss)
  match r.op, r.iss with
  | .pref, _ => dropPref s id
  | _, .peer k _ => { emit s1 (.peerReply k .badTenant) with reqs := mdel s1.reqs id }
  | _, _ => partFault s1 id cTENANT p

/-- A copy that may serve a relaxed live read of an agent with a floor (R120). -/
def copyAt (s : State) (i : Issuer) (floor pa : Nat) : Option Copy :=
  s.copies.find? fun c => c.die == issDie s i && c.tenant == issTenant s i && c.line == pa / 128 &&
    (floor == 0 || floor + 2 ≤ c.stamp) && tickOf s c.die ≤ c.stamp + 1024
/-- Copies of the issuer's die that may serve a request (R117, R120). -/
def copyFor (s : State) (r : Req) (pa : Nat) : Option Copy :=
  if r.op == .read && r.view == 0 && !r.acq then copyAt s r.iss r.floor pa else none

/-- A copy enters the reach-through store of a die: over an older copy of its line, or beside it where it is left, and over a free
victim of a full store of 8,192 lines (R67, R120). -/
def putCopy (s : State) (c : Copy) : State :=
  let same (x : Copy) : Bool := x.die == c.die && x.tenant == c.tenant && x.line == c.line
  if s.copies.any same && Config.keepCopy s.nonce then bump s
  else
    let rest := s.copies.filter fun x => !same x
    let mine := (rest.zipIdx.filter fun e => e.1.die == c.die).map (·.2)
    let rest := if mine.length < 8192 then rest else rest.eraseIdx (mine.getD (Config.copyVictim s.nonce % mine.length) 0)
    { bump s with copies := c :: rest }

/-- A live read served at a remote home fills the reader's reach-through store; its stamp is the tick at which it left (R120). -/
def fillAt (s : State) (i : Issuer) (pa stamp : Nat) : State :=
  let d := issDie s i
  if pa < scratchBase && homeDie s.boot pa != d then
    let (x, q) := lineData s (pa / 128)
    putCopy s ⟨d, issTenant s i, pa / 128, stamp, x, q⟩
  else s
/-- The same for a request. -/
def fillCopy (s : State) (r : Req) (pa : Nat) : State :=
  if r.op == .read && r.view == 0 then fillAt s r.iss pa r.left else s

/-- Is a live access of the lease redirected to the checkpoint shadow (R417)? -/
def isPaired (s : State) (r : Req) : Bool :=
  match leaseOf s (issLease r.iss) with
  | some ls => ls.paired
  | none => false

/-- A wait on a sync word at its home: done when the generation has passed, else registered (R81). -/
def registerWait (s : State) (id i : Nat) (r : Req) (p : Part) (g : Nat) : State :=
  let (w, pz) := syncWord s (issLease r.iss) p.loc
  if pz then partFault s id cPADDR p
  else if armed w && passed (bits w 96 16) g then releaseReq s id (w.testBit 127)
  else { setPart s id i { p with st := .waiting } with waiters := s.waiters ++ [⟨p.loc, issLease r.iss, g, id⟩] }

/-- A part stands at its home (R116): plain accesses of unversioned data are performed, the others go on
by their own step. -/
def atHome (s : State) (id i : Nat) (r : Req) (p : Part) (die : Nat) : State :=
  let l := issLease r.iss
  let p := { p with st := .home }
  let wait := setPart s id i p
  match r.op with
  | .read =>
    if r.view == 0 && p.versioned && isPaired s r then
      match p.loc with
      | .mem pa =>
        let (b, q) := match (if unitScrubbed s l p.loc then findPend (lineOf s (pa / 128)) l 11 else none) with
          | some v => verBytes v.data v.pois (pa % 128) p.len
          | none => memRd s pa p.len
        checkDone (setPart s id i { p with st := .done, data := b, pois := q }) id die
      | _ => wait
    else if r.view == 0 || !p.versioned then
      let (b, q) := getBytes s l p.loc p.len
      let s1 := setPart s id i { p with st := .done, data := b, pois := q }
      let s2 := match p.loc with
        | .mem pa => fillCopy s1 r pa
        | _ => s1
      checkDone s2 id die
    else wait
  | .write =>
    if p.versioned then wait
    else checkDone (setPart (putBytes (markStale s l p.loc p.va p.len) l p.loc p.data p.pois) id i
      { p with st := .done }) id die
  | .swait g => registerWait s id i r p g
  | .pref =>
    let s1 := setPart s id i { p with st := .done }
    let s2 := match p.loc with
      | .mem pa => if Config.prefCopy s.nonce then fillAt s1 r.iss pa r.left else s1
      | _ => s1
    checkDone s2 id die
  | _ => wait

/-- Are two parts of a request served at one instant? Lines are; the lanes of an atomic that reach one tile are too (R116, R342,
R347). -/
def sameUnit (op : MOp) (p q : Part) : Bool :=
  match p.loc, q.loc with
  | .mem a, .mem b => a / 128 == b / 128
  | .tile a o, .tile b o' => a == b && ((match op with
    | .atomic _ => true
    | _ => false) || o / 128 == o' / 128)
  | _, _ => false

/-- The parts of a request that are served with part `i`, in ascending order (R116, R342, R347). -/
def unitParts (r : Req) (i : Nat) : List Nat :=
  match r.parts[i]? with
  | none => []
  | some p => ((r.parts.zipIdx).filter fun e => e.1.st == p.st && sameUnit r.op e.1 p).map (·.2)

/-- A part that has passed a unit which is unscrubbed again arrives there anew (R59). -/
def backToGate (s : State) (id i : Nat) : Option State :=
  (reqOf s id).bind fun r => (r.parts[i]?).bind fun p =>
    if (p.st == .missed || p.st == .home) && !unitOpen s (issLease r.iss) p.loc then some (setPart s id i { p with st := .new }) else none

/-- One step of every part of a unit. -/
def perUnit (id i : Nat) (f : Nat → State → State) (s : State) : Res :=
  match reqOf s id, backToGate s id i with
  | _, some s1 => .next s1
  | some r, none => .next ((unitParts r i).foldl (fun s j => f j s) s)
  | none, none => .next s

/-- Has a part that waits at its unit yet to be served there? -/
def zPending (s : State) (z : ZWait) : Bool :=
  match (reqOf s z.req).bind fun r => (r.parts[z.part]?).map fun p => (r, p) with
  | some (r, p) => r.stage == .sent && (p.st == .new || p.st == .missed || (p.st == .home && (match r.op with
    | .arrive _ | .grp _ _ | .swait _ => false
    | _ => true)))
  | none => false

/-- What a part meets at its unit (R59). -/
inductive Gate
  /-- It is served. -/
  | pass
  /-- It is the first to touch the unit, and reads zeros. -/
  | zeros (s : State)
  | wait (s : State)

/-- The unscrubbed bit at a part's arrival (R59, R66): the first read takes zeros and starts the zeroing, a first write starts it and
waits, and what arrives meanwhile is served in the order of arrival. -/
def unitGate (s : State) (id i : Nat) (r : Req) (p : Part) : Gate :=
  let l := issLease r.iss
  let me : ZWait := ⟨unitLoc p.loc, l, id, i⟩
  let first := ((s.zq.takeWhile fun z => z != me).filter fun z => z.isAt l me.unit && z.req != id).all fun z => !zPending s z
  let join (s : State) : State := if s.zq.contains me then s else { s with zq := s.zq ++ [me] }
  if unitZeroing s l p.loc then .wait (join s)
  else if !unitScrubbed s l p.loc then
    if first && (r.op == .pref || (r.op == .read && (r.view == 0 || !p.versioned))) then .zeros (unitStart s l p.loc)
    else .wait (unitStart (join s) l p.loc)
  else if first then .pass else .wait (join s)

/-- A die that is reset takes no new request for its home stack or its scratch (R415): none that was issued after the
quiesce began, and none at all while it resets; what was issued again after the restart goes first. -/
def dieHeld (s : State) (r : Req) (pa : Nat) : Bool :=
  s.dieGo && s.dieNo == servDie s pa &&
    ((s.dieState == 3 && !s.dieBack) || ((s.dieState == 2 || s.dieState == 3) && decide (s.dieSince ≤ r.born)))

/-- A part reaches the unit that serves it: what must come before it, the tenant checks, the unscrubbed bit; then `serve` takes it,
`true` where the unit reads as zeros. -/
def arrivePart (id i : Nat) (held : Bool) (serve : Bool → Req → Part → State → State) (s : State) (r : Req) (p : Part) : State :=
  if !servable s id r p .new then (if r.stage == .sent && p.st == .new then beforeHome s id r else s)
  else if held then s
  else match tenantRefusal s r with
    | some q => refuseTenant s id r q
    | none =>
      match unitGate s id i r p with
      | .pass => serve false r p s
      | .zeros s1 => serve true r p s1
      | .wait s1 => s1

/-- A part at the slice of its home (R460): a written line is dirty. -/
def atSlice (s : State) (id i : Nat) (r : Req) (p : Part) (pa : Nat) : State :=
  atHome (llcUse r.op.isWrite s (pa / 128)) id i r p (homeDie s.boot pa)

/-- Part `i` of a request. -/
def partOf (s : State) (id i : Nat) : Option (Req × Part) := (reqOf s id).bind fun r => (r.parts[i]?).map fun p => (r, p)

/-- One part of HBM_REQUEST. -/
def hbmPart (useCopy : Bool) (id i : Nat) (s : State) : State :=
  match partOf s id i with
  | none => s
  | some (r, p) =>
    match p.loc with
    | .mem pa =>
      if scratchBase ≤ pa then s
      else match (if useCopy && servable s id r p .new then copyFor s r pa else none) with
        | some c =>
          let (b, q) := verBytes c.data c.pois (pa % 128) p.len
          checkDone (setPart s id i { p with st := .done, data := b, pois := q }) id (issDie s r.iss)
        | none =>
          arrivePart id i (dieHeld s r pa) (fun zeros r p s =>
            if zeros || llcHit s pa then atSlice s id i r p pa else setPart s id i { p with st := .missed }) s r p
    | _ => s

/-- HBM_REQUEST (R460): tenant check, reach-through copy, unscrubbed unit, LLC lookup, service. -/
def execHbmRequest (id i : Nat) (useCopy : Bool) (s : State) : Res := perUnit id i (hbmPart useCopy id) s

/-- One part of LLC_MISS_FILL. -/
def fillPart (id i : Nat) (s : State) : State :=
  match partOf s id i with
  | none => s
  | some (r, p) =>
    match p.loc with
    | .mem pa => if servable s id r p .missed then atSlice s id i r p pa else s
    | _ => s

/-- LLC_MISS_FILL (R460): the line is installed and the request goes on at its home. -/
def execLlcMissFill (id i : Nat) (s : State) : Res := perUnit id i (fillPart id) s

/-- One part of DIE_SCRATCH_REQUEST. -/
def scratchPart (id i : Nat) (s : State) : State :=
  match partOf s id i with
  | none => s
  | some (r, p) =>
    match p.loc with
    | .mem pa =>
      if pa < scratchBase then s
      else arrivePart id i (dieHeld s r pa) (fun _ r p s => atHome s id i r p (servDie s pa)) s r p
    | _ => s

/-- DIE_SCRATCH_REQUEST (R77): grant check, unscrubbed block, service at the segment's holder. -/
def execDieScratchRequest (id i : Nat) (s : State) : Res := perUnit id i (scratchPart id) s

/-- One part of TILE_STORE_REQUEST. -/
def tilePart (id i : Nat) (s : State) : State :=
  match partOf s id i with
  | none => s
  | some (r, p) =>
    match p.loc, leaseOf s (issLease r.iss) with
    | .tile t _, some ls =>
      if (tileOf ls t).isNone then s else arrivePart id i false (fun _ r p s => atHome s id i r p (tileDie ls t)) s r p
    | _, _ => s

/-- TILE_STORE_REQUEST (R71): service in the pipeline of the S tile. -/
def execTileStoreRequest (id i : Nat) (s : State) : Res := perUnit id i (tilePart id) s

/-- UNIT_ZEROING_DONE (R59): the unit is zero, its poison and versions are gone, its bit clears. -/
def execUnitZeroingDone (u : UnitLoc) (s : State) : Res :=
  match u with
  | .hbm b => if nhas s.zeroing b then .next { zeroUnit s (b * 4096) with zeroing := ndel s.zeroing b } else .next s
  | .scratch b => if nhas s.zeroing b then .next { zeroUnit s (b * 2048) with zeroing := ndel s.zeroing b } else .next s
  | .tileStore l t b =>
    .next (updTile s l t fun x =>
      if nhas x.zeroing b then { setTileBank x (bankZero 2048 (tileBank x) b) with zeroing := ndel x.zeroing b } else x)

/-- REACH_THROUGH_COPY_EXPIRY (R120): the copy goes; at 1,024 ticks after its stamp at the latest. -/
def execReachThroughCopyExpiry (die tenant line : Nat) (s : State) : Res :=
  .next { s with copies := s.copies.filter fun c => !(c.die == die && c.tenant == tenant && c.line == line) }

/-- The state of the requester's view (R99, R102). -/
def reqView (s : State) (r : Req) : View :=
  match leaseOf s (issLease r.iss) with
  | some ls => viewOf ls r.view
  | none => View.zero

/-- Is the line locked (R99, R101, R104)? -/
def locked (s : State) (pa : Nat) : Bool := (lineOf s (pa / 128)).lock.isSome

/-- Is the entry that a request names still the view under which it was issued (R97, R98)? -/
def sameView (id : Nat) (v : View) : Bool := v.kind != 0 && v.born ≤ id

/-- The read of a versioned line under a view (R99, R102): own pending version first, then the
snapshot; nothing once the entry has been emptied (R98). -/
def viewRead (s : State) (id : Nat) (r : Req) (pa : Nat) : Option (BitVec 1024 × BitVec 4) :=
  let v := reqView s r
  match (if v.kind == 2 && v.doom == 0 && sameView id v then findPend (lineOf s (pa / 128)) (issLease r.iss) r.view else none) with
  | some p => some (p.data, p.pois)
  | none => if v.doom == 4 || !sameView id v then none else snapRead s (pa / 128) v.sts

/-- One part of SNAPSHOT_READ. -/
def snapPart (id i : Nat) (s : State) : State :=
  match reqOf s id with
  | none => s
  | some r =>
    match r.parts[i]? with
    | none => s
    | some p =>
      match p.loc with
      | .mem pa =>
        if !servable s id r p .home || r.op != .read || r.view == 0 || !p.versioned then s
        else if locked s pa then (setPart s id i { p with st := .waiting })
        else match viewRead s id r pa with
          | some (d, q) =>
            let (b, z) := verBytes d q (pa % 128) p.len
            (checkDone (setPart s id i { p with st := .done, data := b, pois := z }) id (homeDie s.boot pa))
          | none => (partFault s id cSNAP p)
      | _ => s

/-- SNAPSHOT_READ (R99): the newest version at or below the STS, or SNAP_LOST; a locked line waits. -/
def execSnapshotRead (id i : Nat) (s : State) : Res := perUnit id i (snapPart id) s

/-- LOCK_WAIT_RESUME (R99, R101): a request that waited on a lock is taken again once the line is
unlocked. -/
def execLockWaitResume (id i : Nat) (s : State) : Res :=
  match reqOf s id with
  | none => .next s
  | some r =>
    match r.parts[i]? with
    | none => .next s
    | some p =>
      match p.loc with
      | .mem pa =>
        if servable s id r p .waiting && !locked s pa && (match r.op with
            | .swait _ => false
            | _ => true)
        then .next (setPart s id i { p with st := .home }) else .next s
      | _ => .next s

/-- The bytes that a write or atomic puts over old bytes, with the outcome (R130, R264). -/
def writeEffect (fadd : Nat → Nat → Nat) (op : MOp) (p : Part) (old : List Byte) (oldP : Bool) :
    Option (List Byte × List Bool) × Part :=
  match op with
  | .atomic a =>
    let (w, code) := atomStep a fadd p old oldP
    (w.map fun e => (e.1, List.replicate p.len e.2),
     { p with st := .done, data := if code = 2 then p.cmp else old, pois := List.replicate p.len (oldP || code == 2), code := code })
  | _ => (some (p.data, p.pois), { p with st := .done, code := 0 })

/-- The bytes of one part of a live write or atomic go to a versioned line: the first of a unit stamps the
line and retains its old version, the others join it (R101, R116). -/
def livePart (fadd : Nat → Nat → Nat) (id : Nat) (a : State × Bool) (i : Nat) : State × Bool :=
  match reqOf a.1 id with
  | none => a
  | some r =>
    match r.parts[i]? with
    | none => a
    | some p =>
      match p.loc with
      | .mem pa =>
        let (old, oq) := memRd a.1 pa p.len
        let (w, p') := writeEffect fadd r.op p old (oq.any fun b => b)
        match w with
        | some (b, q) =>
          let s0 := markStale a.1 (issLease r.iss) p.loc p.va p.len
          let s1 := if a.2 then memWr s0 pa b q else liveWrite s0 pa (issTenant s0 r.iss) b q
          (setPart (recheck s1 (issLease r.iss) p.loc b.length) id i p', true)
        | none => (setPart a.1 id i p', a.2)
      | _ => a

/-- LIVE_WRITE_VERSIONED (R101): the write waits for a lock, then stamps, retains the old version and
applies, in one step for the parts of one line. -/
def liveWriteVersioned (fadd : Nat → Nat → Nat) (id i : Nat) (s : State) : Res :=
  match reqOf s id with
  | none => .next s
  | some r =>
    match r.parts[i]? with
    | none => .next s
    | some p =>
      match p.loc with
      | .mem pa =>
        if !servable s id r p .home || !r.op.isWrite || r.view != 0 || !p.versioned || isPaired s r then .next s
        else if locked s pa then .next (setPart s id i { p with st := .waiting })
        else .next (checkDone ((unitParts r i).foldl (livePart fadd id) (s, false)).1 id (homeDie s.boot pa))
      | _ => .next s

/-- One part of PENDING_VERSION_WRITE. An atomic is a read followed by a write: one that does not change the value leaves a pending
version too, one that is NOT_APPLIED leaves none (R102, R130). -/
def pendPart (fadd : Nat → Nat → Nat) (id i : Nat) (s : State) : State :=
  match reqOf s id with
  | none => s
  | some r =>
    match r.parts[i]? with
    | none => s
    | some p =>
      match p.loc with
      | .mem pa =>
        let l := issLease r.iss
        let shadow := r.view == 0
        if !servable s id r p .home || !r.op.isWrite || !p.versioned || (shadow && !isPaired s r) then s
        else
          let h := homeDie s.boot pa
          let slot := if shadow then 11 else r.view
          let v := reqView s r
          let doomed := if shadow then (match leaseOf s l with
              | some ls => (mget ⟨false, false⟩ ls.shadows 3).doomed
              | none => true)
            else v.doom != 0
          if !shadow && !(sameView id v && v.kind == 2) then partFault s id cSNAP p
          else if doomed then
            (checkDone (setPart s id i { p with st := .done, code := 2 }) id h)
          else
            let base := match findPend (lineOf s (pa / 128)) l slot with
              | some q => some (q.data, q.pois)
              | none => if shadow then some (lineData s (pa / 128)) else
                  if locked s pa then none else snapRead s (pa / 128) v.sts
            match base with
            | none =>
              if locked s pa then (setPart s id i { p with st := .waiting })
              else (partFault s id cSNAP p)
            | some b =>
              let (old, oq) := verBytes b.1 b.2 (pa % 128) p.len
              let (w, p') := writeEffect fadd r.op p old (oq.any fun b => b)
              match (if p'.code = 2 then none else some (w.getD (old, oq))) with
              | none => (checkDone (setPart s id i p') id h)
              | some (nb, nq) =>
                let fresh := (findPend (lineOf s (pa / 128)) l slot).isNone
                let full := !shadow && fresh && 16385 ≤ v.writes + 1
                let s0 := if shadow then updLease s l fun ls => { ls with shadows := mput ls.shadows 3 ⟨false, true⟩ } else s
                match (if full then none else pendWrite s0 l slot (issTenant s r.iss) pa p.va b nb nq) with
                | some s1 =>
                  let s2 := if fresh && !shadow then updLease s1 l fun ls =>
                      { ls with views := mmod ls.views r.view fun v => { v with writes := v.writes + 1 } } else s1
                  (checkDone (setPart s2 id i p') id h)
                | none =>
                  let s1 := if shadow then doomShadow s l 3 else doomView s l r.view 2
                  (checkDone (setPart s1 id i { p with st := .done, code := 2 }) id h)
      | _ => s

/-- PENDING_VERSION_WRITE (R102, R107, R417): the pending version of the view, or of shadow 3 of a
paired lease; a doomed transaction's write is discarded, an atomic is then NOT_APPLIED (R130). -/
def pendingVersionWrite (fadd : Nat → Nat → Nat) (id i : Nat) (s : State) : Res := perUnit id i (pendPart fadd id) s

/-- One part of an atomic at its home. -/
def atomPart (fadd : Nat → Nat → Nat) (id : Nat) (s : State) (i : Nat) : State :=
  match reqOf s id with
  | none => s
  | some r =>
    match r.parts[i]? with
    | none => s
    | some p =>
      let l := issLease r.iss
      let (old, oq) := getBytes s l p.loc p.len
      let (w, p') := writeEffect fadd r.op p old (oq.any fun b => b)
      let s1 := match w with
        | some (b, q) => notePoison (putBytes (markStale s l p.loc p.va p.len) l p.loc b q) id r (q.any fun b => b)
        | none => s
      setPart s1 id i p'

/-- ATOMIC_AT_HOME (R129, R347): applied once at its home; the lanes that reach one unit are applied
together, in ascending lane order. -/
def atomicAtHome (fadd : Nat → Nat → Nat) (id i : Nat) (s : State) : Res :=
  match reqOf s id with
  | none => .next s
  | some r =>
    match r.op, r.parts[i]? with
    | .atomic _, some p =>
      if !servable s id r p .home || p.versioned || r.parts.any (fun q => sameUnit r.op q p && q.st == .new) then .next s
      else .next (checkDone ((unitParts r i).foldl (atomPart fadd id) s) id (match p.loc with
        | .mem pa => servDie s pa
        | _ => issDie s r.iss))
    | _, _ => .next s

/-- An arrival of `n` bytes at the home of a sync word (R80): the word counts, its waiters are released; none where
its sector is poisoned. -/
def arriveAt (s : State) (l : Nat) (lc : Loc) (n : Nat) (pois : Bool) : Option State :=
  let (w, pz) := syncWord s l lc
  if pz then none
  else if n = 0 then some s
  else
    let (w', rel) := arriveWord (syncOf w) n pois
    let s1 := match lc with
      | .mem pa => memWr s pa (leBytes 16 (syncBits w' w)) (List.replicate 16 false)
      | .tile t o => updTile s l t fun x => tileWr x o (leBytes 16 (syncBits w' w)) (List.replicate 16 false)
      | _ => s
    let s2 := rel.foldl (fun s e => releaseAt s l lc fun x => if x.gen == e.1 then some e.2 else none) s1
    some (recheck s2 l lc 16)

/-- SYNC_ARRIVAL (R80): the arrival is applied at the home of its word and releases waiters, or faults
POISON_ADDRESS. -/
def execSyncArrival (id : Nat) (s : State) : Res :=
  match reqOf s id with
  | none => .next s
  | some r =>
    match r.op, r.parts[0]? with
    | .arrive n, some p =>
      if !servable s id r p .home then .next s
      else match arriveAt s (issLease r.iss) p.loc n (p.pois.any fun b => b) with
        | none => .next (partFault s id cPADDR p)
        | some s1 => .next (checkDone (setPart s1 id 0 { p with st := .done }) id (issDie s r.iss))
    | _, _ => .next s

/-- Does an invalidation of `n` pages from `page` on, or of all, name a page? -/
def invHit (page n : Nat) (all : Bool) (k : Nat) : Bool := all || (page ≤ k && k < page + n)

/-- The requests of a function translated through entries that an invalidation removes (R43). -/
def invWaits (s : State) (v page n : Nat) (all : Bool) : NSet :=
  (s.reqs.filter fun e => issTenant s e.2.iss == v && e.2.stage == .sent &&
    e.2.parts.any fun p => invHit page n all (p.va / 65536)).map (·.1)

/-- Removal of cached translations of a function (R43); save-map pages in the range are marked for a new
walk (R395). -/
def invDrop (s : State) (v page n : Nat) (all : Bool) : State :=
  { s with leases := mmap s.leases fun _ ls =>
    if ls.tenant == v then
      { ls with
        tlb := ls.tlb.filter fun e => !invHit page n all e.1
        smark := (ls.smap.filter fun e => invHit page n all (e.1 / 512)).foldl (fun a e => nadd a (e.1 / 32)) ls.smark }
    else ls }

/-- ATS_INVALIDATION_REQUEST (R56): as R43; it is completed when the affected requests are performed. -/
def execAtsInvalidationRequest (v page n : Nat) (s : State) : Res :=
  .next (updVf (invDrop s v page n false) v fun x =>
    { x with atsPend := nunion x.atsPend (invWaits s v page n false), atsOpen := true })

/-- INVCTL_GO (R43, R46): ALL and PAGES take the value; a write that sets GO removes the entries of the range, also while an earlier
invalidation is under way, and GO reads 1 until the requests of both are performed. -/
def execInvctlGo (v : Nat) (val : Dword) (s : State) : Res :=
  let x := vfOf s v
  let keep := val &&& BitVec.ofNat 64 (2 ^ 62 + (2 ^ 40 - 1))
  let go := BitVec.ofNat 64 (2 ^ 63)
  let page := bits x.invbase.toNat 16 40
  let n := bits val.toNat 0 40
  let all := val.getLsbD 62
  if val.getLsbD 63 then
    .next (updVf (invDrop s v page n all) v fun x =>
      { x with invctl := keep ||| go, invPend := nunion x.invPend (invWaits s v page n all) })
  else .next (updVf s v fun x => { x with invctl := keep ||| (x.invctl &&& go) })

/-- Those of the awaited requests that are still under way. -/
def stillSent (s : State) (ids : NSet) : NSet :=
  ids.filter fun id => match reqOf s id with
    | some r => r.stage == .sent
    | none => false

/-- INVALIDATION_COMPLETE (R43, R56): GO clears, and an ATS invalidation is completed, once every awaited
request is performed or discarded. -/
def execInvalidationComplete (v : Nat) (s : State) : Res :=
  let x := vfOf s v
  let s1 :=
    if x.invctl.getLsbD 63 && (stillSent s x.invPend).isEmpty then
      updVf s v fun x => { x with invctl := x.invctl &&& BitVec.ofNat 64 (2 ^ 63 - 1), invPend := [] }
    else s
  if x.atsOpen && (stillSent s x.atsPend).isEmpty then
    .next (emit (updVf s1 v fun x => { x with atsOpen := false, atsPend := [] }) (.atsDone v))
  else .next s1

/-- HOST_COMPLETION (R56, R130, R150, R265): the data of a host read, poisoned when EP is set; a
completer abort or unsupported request makes an atomic NOT_APPLIED. -/
def execHostCompletion (id i : Nat) (st : CplStatus) (ep : Bool) (data : List Byte) (s : State) : Res :=
  match reqOf s id with
  | none => .next s
  | some r =>
    match r.parts[i]? with
    | none => .next s
    | some p =>
      match p.loc with
      | .host _ =>
        if !servable s id r p .new then .next s
        else
          let s0 := if ep then emit s (.aer false) else s
          let d := (List.range p.len).map fun k => data.getD k 0
          let p' : Part := match r.op, st with
            | .atomic _, .ok => { p with st := .done, data := d, pois := List.replicate p.len ep, code := if ep then 1 else 0 }
            | .atomic _, _ => { p with st := .done, code := 2 }
            | _, _ => { p with st := .done, data := d, pois := List.replicate p.len ep }
          .next (checkDone (setPart s0 id i p') id (issDie s r.iss))
      | _ => .next s

/-- LINK_FLIT_RETRY (R82, R131, R413): a resent flit carries its request's tag; a copy whose request
has been applied, or whose sender's incarnation is past, is discarded, so nothing is applied twice. -/
def execLinkFlitRetry (_id : Nat) (s : State) : Res := .next s

end Sys2Proof.Machine
end

