-- ==== Sys2Proof/Machine/Reply.lean ====
section
/-! DEFINITION. What comes back from the serving points: MEMORY_REPLY (R48, R84, R154, R262, R265, R336, R341,
R347, R350, R384, R432), and the F32 forms of writes and atomics at their homes. -/

namespace Sys2Proof.Machine

/-! ### Writes and atomics with F32 addition -/

/-- LIVE_WRITE_VERSIONED (R101). -/
def execLiveWriteVersioned (id i : Nat) (s : State) : Res := liveWriteVersioned addF32 id i s
/-- PENDING_VERSION_WRITE (R102, R107, R417). -/
def execPendingVersionWrite (id i : Nat) (s : State) : Res := pendingVersionWrite addF32 id i s
/-- ATOMIC_AT_HOME (R129, R347). -/
def execAtomicAtHome (id i : Nat) (s : State) : Res := atomicAtHome addF32 id i s

/-! ### What a reply holds -/

/-- The bytes of a reply in order. -/
def repBytes (r : Req) : List Byte := (r.parts.map fun p => p.data).flatten
/-- Is any byte of a reply poisoned? -/
def repPois (r : Req) : Bool := r.parts.any fun p => p.pois.any id
/-- Does a part deliver a poisoned byte (R130, R154)? An atomic returns one only as DONE_POISONED, and a posted
one returns nothing. -/
def partDelivers (r : Req) (p : Part) : Bool :=
  match r.op with
  | .read => p.pois.any id
  | .atomic _ => decide (r.dst ≠ .none) && p.code == 1
  | _ => false
/-- The address that a counted delivery names: the first poisoned part of a tenant virtual access (R153). -/
def repVa (r : Req) : Option Nat := (r.parts.find? fun p => partDelivers r p && (match p.loc with
  | .tile .. => false
  | _ => true)).map (·.va)

/-- A register value of `n` bytes, extended (R262, R264). -/
def extendTo (n : Nat) (sign : Bool) (v : Nat) : Dword :=
  if sign then (BitVec.ofNat (8 * n) v).signExtend 64 else BitVec.ofNat 64 (v % 2 ^ (8 * n))

/-- Bytes and poison of a part enter a token at the part's offset (R84, R333). -/
def mergePart (t : Tok) (p : Part) : Tok :=
  let old := leBytes 96 t.data.toNat
  { t with
    data := BitVec.ofNat 768 (leNat ((old.take p.lane ++ p.data ++ old.drop (p.lane + p.data.length)).take 96))
    pois := (maskOf fun i => (p.pois.zipIdx).any fun e => e.1 && (p.lane + e.2) / 4 == i) |||
      (t.pois &&& ~~~(maskOf fun i => p.lane ≤ 4 * i && 4 * i + 4 ≤ p.lane + p.data.length)) }

/-- The token that a reply delivers (R341, R342, R347, R350). -/
def repTok (r : Req) (tag : BitVec 3) (base : Tok) (f : Bfp) : Tok :=
  match f with
  | some w => bfpIn (repBytes r) ((r.parts.map fun p => p.pois).flatten) w.toNat
  | none => { (r.parts.foldl mergePart base) with tag := tag, aux := 0, inc := 0 }

/-! ### Delivery -/

/-- The words of an operation, from its encoding (R234). -/
def wordLen (w : Word) : Nat := if bits w.toNat 30 2 = 2 && w.getLsbD 5 then 2 else 1

/-- A reply to a sequencer (R255, R262, R265, R284). -/
def deliverSeq (s : State) (id l : Nat) (rep : Bool) (r : Req) : State :=
  match r.dst with
  | .x xd n sign =>
    let v := extendTo n sign (leNat (repBytes r))
    let code := match r.parts with
      | p :: _ => p.code
      | [] => 0
    updSeq s l rep fun q =>
      match r.op with
      | .atomic _ =>
        if q.op == .amo id then
          let q1 := { (if code = 2 then q else xset q xd v (repPois r)) with atomst := code }
          seqNext q1
        else q
      | .swait _ => if q.op == .ewait id then seqNext (xset q xd v false) else q
      | _ =>
        if mfind q.pend xd.toNat = some id then xset { q with pend := mdel q.pend xd.toNat } xd v (repPois r) else q
  | _ => s

/-- Is the request one of GEN with MARK 0, and for which counter (R340)? -/
def genOf (r : Req) : Option Nat :=
  let w := r.word.toNat
  if bits w 30 2 = 2 && bits w 24 6 = 1 && !r.acq && !r.rel then some (bits w 0 4) else none

/-- A relaxed GEN has completed: positions loaded ahead count from here (R340). -/
def genDone (s : State) (l t k : Nat) (r : Req) : State :=
  match genOf r with
  | none => s
  | some c => updTile s l t fun x =>
    let b := addrNat (genBase (ctxOf x k).adesc (ctrVal x))
    let old := ((mfind x.ra k).filter fun g => g.pc == r.pc && g.ctr == c).map (·.loads)
    { x with ra := mput x.ra k ⟨r.pc, c, (old.getD []).filter (· != b)⟩ }

/-- A reply to an element: the destination is written and the firing goes on (R336). -/
def deliverElem (s : State) (id l t k : Nat) (r : Req) : State :=
  match r.dst with
  | .tok d tag base f =>
    updCtx (genDone s l t k r) l t k fun c =>
      match c.fire with
      | some fi =>
        if fi.wait = .mem id then
          { dstPut c d (repTok r tag base f) with
            fire := some { fi with pc := fi.pc + wordLen r.word, wait := .none, ord := fi.ord + 1 } }
        else c
      | none => c
  | _ => s

/-- A reply to a stream: the next token, or a store acknowledged (R275). -/
def deliverStream (s : State) (id l sid : Nat) (r : Req) : State :=
  updLease s l fun ls =>
    { ls with streams := mmod ls.streams sid fun x =>
        if r.op == .read then
          (if x.req = some id then
            { x with req := none, buf := some { repTok r x.tag Tok.zero none with tag := x.tag } }
          else x)
        else
          let y := { x with
            acks := x.acks - 1
            scnt := if x.born ≤ id then x.scnt + 1 else x.scnt
            req := if x.req = some id then none else x.req }
          { y with bound := y.bound && !(y.eos && y.acks == 0) } }

/-- Change of an engine operation, by its ticket. -/
def updEng (s : State) (l t : Nat) (f : EngOp → EngOp) : State :=
  updLease s l fun ls => { ls with engines := ls.engines.map fun e => if e.ticket == t then f e else e }

/-- A reply to an engine (R133, R150, R152): the bytes that a line waits for, at the positions of the byte sequence that the parts'
lanes name, or the acknowledgement of a write. -/
def deliverEngine (s : State) (id l t : Nat) (r : Req) : State :=
  let got := (r.parts.map fun p => (p.data.zipIdx).map fun e => (p.lane + e.2, e.1, p.pois.getD e.2 false)).flatten
  updEng s l t fun o => { o with
    out := ndel o.out id
    cur := o.cur.map fun c => if c.wait == some id then { c with wait := none, got := c.got ++ got } else c }

/-- Delivery of a performed request to its issuer. -/
def deliver (s : State) (id : Nat) (r : Req) : State :=
  match r.iss with
  | .seq l rep => deliverSeq s id l rep r
  | .elem l t k => deliverElem s id l t k r
  | .stream l sid => deliverStream s id l sid r
  | .engine l t => deliverEngine s id l t r
  | .peer k _ => emit s (.peerReply k (match r.op, r.parts with
    | .atomic _, p :: _ => .atomic p.code (BitVec.ofNat 64 (leNat p.data))
    | _, _ => .data (repBytes r) ((r.parts.map fun p => p.pois).flatten)))

/-- What the exit of a pair logs of a reply: per part its outcome code and its bytes (R419). -/
def logOf (ls : Lease) (r : Req) : LogEnt :=
  ⟨match r.iss with
    | .elem _ t _ => sliceOf t (granules ls)
    | .stream _ sid => 0x10000 + sid
    | _ => 0xFFFF, r.key,
   (r.parts.map fun p => BitVec.ofNat 8 p.code.toNat :: p.data).flatten,
   (r.parts.map fun p => false :: (p.pois.take p.data.length ++ List.replicate (p.data.length - p.pois.length) false)).flatten, true⟩

/-- A request is gone. -/
def dropReq (s : State) (id : Nat) : State := { s with reqs := mdel s.reqs id }

/-- A performed request is delivered, to its twin in the replica as well, and logged; an answer from the log is neither
counted nor logged again (R418, R419, R423). What a peer reads is not counted here, and an engine counts its operation (R154). -/
def deliverAll (s : State) (id : Nat) (r : Req) : State :=
  let again := r.key != [] && (match leaseOf s (issLease r.iss) with
    | some ls => ls.log.any fun e => e.key == r.key
    | none => false)
  let own := match r.iss with
    | .peer .. | .engine .. => false
    | _ => true
  let s0 := countDelivery s (issTenant s r.iss) (own && !again && r.parts.any (partDelivers r)) (repVa r)
  let s1 := dropReq (deliver s0 id r) id
  if r.key = [] then s1
  else
    let s2 := if again then s1 else updLease s1 (issLease r.iss) fun ls => { ls with log := ls.log ++ [logOf ls r] }
    (twinsOf s id r).foldl (fun s t => match reqOf s t with
      | some q => dropReq (settle (deliver (notePoison s t q (wrotePoison r)) t { q with parts := r.parts }) t 0) t
      | none => s) s2

/-! ### Late faults -/

/-- A chained access that faulted after its tracker had counted it leaves the count, so that it can be taken
again (R122; log 19). -/
def unchain (s : State) (r : Req) (cause : Nat) : State :=
  match r.chain with
  | some ch =>
    if cause = cSTRAY then s
    else updLease s (issLease r.iss) fun ls =>
      { ls with trackers := mmod ls.trackers ch.cls fun t =>
          if r.op.isWrite then { t with shut := false, busy := none } else { t with acc := t.acc - 1 } }
  | none => s

/-- The record fields of an access (R86, R124, R385). -/
def accessRec (r : Req) (strad : Bool) (x : FRec) : FRec :=
  { x with straddle := strad, chain := r.chain.map fun c => (c.cls, c.number) }

/-- A sequencer's access faulted (R263, R265): at the instruction while it holds the sequencer, by a record
alone once the sequencer has gone on. -/
def faultSeq (s : State) (id l : Nat) (rep : Bool) (r : Req) (cause addr : Nat) (strad : Bool) : State :=
  match leaseOf s l with
  | none => dropReq s id
  | some ls =>
    let q := seqOf ls rep
    let s1 := dropReq s id
    if q.op = .addr id || q.op = .amo id || q.op = .ewait id then
      let s2 := updSeq s1 l rep fun q => { q with op := .none, atomst := if cause = cATOM then 3 else q.atomst }
      seqFaultG s2 l rep cause addr (accessRec r strad)
    else
      let s2 := updSeq s1 l rep fun q => { q with pend := q.pend.filter fun e => e.2 != id }
      if rep then s2
      else raise s2 l (accessRec r strad { FRec.zero with source := 0, cause := cause, faddr := addr, pc := r.pc, opword := r.word })

/-- An element's access faulted (R384): one that its word waits for freezes the firing at the word, a posted
one freezes the context with LATE set. A frozen context reports nothing more. -/
def faultElem (s : State) (id l t k : Nat) (r : Req) (cause addr : Nat) (strad : Bool) : State :=
  match leaseOf s l with
  | none => dropReq s id
  | some ls =>
    match tileOf ls t with
    | none => dropReq s id
    | some x =>
      let c := ctxOf x k
      if c.frozen.isSome then s
      else if r.posted then
        raise (updCtx (unchain s r cause) l t k fun c => { c with frozen := some (.late id, 0) }) l
          (accessRec r strad { FRec.zero with
            source := 1, cause := cause, late := true, opidx := r.pc, ctx := k, handler := r.handler, tile := some t,
            opword := r.word, cfgid := 7 * 2 ^ 28 + keyRow ls t * 2 ^ 20 + keyCol ls t * 2 ^ 12 + r.pc,
            faddr := addr, ports := portFill c, freezes := true })
      else match c.fire with
        | some fi =>
          let s1 := updCtx (dropReq (unchain s r cause) id) l t k fun c =>
            { c with fire := c.fire.map fun f => { f with wait := .none } }
          elemFault s1 l t k ls c fi r.word cause addr (accessRec r strad)
        | none => dropReq s id

/-- A stream's access faulted (R275, R386): the stream stops. -/
def faultStream (s : State) (id l sid : Nat) (r : Req) (cause addr : Nat) (strad : Bool) : State :=
  match leaseOf s l with
  | none => dropReq s id
  | some ls =>
    let s1 := updLease (dropReq s id) l fun ls =>
      { ls with streams := mmod ls.streams sid fun x =>
        { x with stopped := x.stopped || decide (x.born ≤ id), req := if x.req = some id then none else x.req,
                 acks := if r.op == .write then x.acks - 1 else x.acks } }
    match ls.img.strms.find? fun e => e.id == sid with
    | some e => raise s1 l (accessRec r strad { FRec.zero with
        source := 3, cause := cause, aux := sid, faddr := addr, tile := some (tileKey ls e.col e.row), ctx := e.ctx, port := e.port - 16 })
    | none => s1

/-- A request that faulted after its issue is reported by its issuer. -/
def reportFault (s : State) (id : Nat) (r : Req) (cause addr : Nat) (strad : Bool) : State :=
  match r.iss with
  | .seq l rep => faultSeq s id l rep r cause addr strad
  | .elem l t k => faultElem s id l t k r cause addr strad
  | .stream l sid => faultStream s id l sid r cause addr strad
  | .engine l t => updEng (dropReq s id) l t fun o => { o with fail := o.fail <|> some (cause, addr) }
  | .peer k _ => emit (dropReq s id) (.peerReply k (if cause = cATOM then .atomic 3 0 else .badTenant))

/-- The same with the twin of a paired lease (R418). -/
def reportAll (s : State) (id : Nat) (r : Req) (cause addr : Nat) (strad : Bool) : State :=
  (twinsOf s id r).foldl (fun s t => match reqOf s t with
    | some q => reportFault (settle s t 0) t { q with chain := none } cause addr strad
    | none => s) (reportFault s id r cause addr strad)

/-! ### Replies of a peer -/

/-- What a peer panel answers enters the first part that waits for it (R432); while the coupler is down nothing
arrives. -/
def peerAnswer (s : State) (id : Nat) (r : Req) (a : PeerReply) : State :=
  match findIdx (fun p : Part => (match p.loc with
      | .peer k _ => (couplerOf s k).up
      | _ => false) && p.st == .new) r.parts with
  | none => s
  | some (i, p) =>
    if !servable s id r p .new then s
    else
      let d := issDie s r.iss
      match a with
      | .none => s
      | .badTenant => partFault s id cTENANT p
      | .badRange => partFault s id cSTAGE2 p
      | .data b q =>
        checkDone (setPart s id i { p with
          st := .done
          data := if r.op == .write then p.data else (List.range p.len).map fun j => b.getD j 0
          pois := if r.op == .write then p.pois else (List.range p.len).map fun j => q.getD j false }) id d
      | .atomic code old =>
        if code = 3 then partFault s id cATOM p
        else checkDone (setPart s id i { p with
          st := .done
          code := code
          data := leBytes p.len old.toNat
          pois := List.replicate p.len (code == 1) }) id d

/-- Does the issuer take replies? A lease that is saved or away takes none before it runs again (R64, R393). -/
def takesReplies (s : State) : Issuer → Bool
  | .peer _ _ => true
  | i => match leaseOf s (issLease i) with
    | some ls => ls.state == .run || ls.state == .drain || ls.state == .save || (ls.state == .restore && ls.purpose == .checkpoint)
    | none => true

/-- MEMORY_REPLY (R48, R384, R432): a performed request is delivered, a faulted one is reported, and an answer of
a peer panel enters its part. A chained access first leaves its tracker (R122). -/
def execMemoryReply (id : Nat) (a : PeerReply) (s : State) : Res :=
  match reqOf s id with
  | none => .next s
  | some r =>
    if !takesReplies s r.iss then .next s
    else match r.stage with
    | .sent => .next (peerAnswer s id r a)
    | .performed => if r.chain.isSome then .next s else .next (deliverAll s id r)
    | .faulted c ad st => .next (reportAll s id r c ad st)
    | _ => .next s

end Sys2Proof.Machine
end

