-- ==== Sys2Proof/Machine/Chain.lean ====
section
/-! DEFINITION. Chain trackers (R121 to R124) and the group records of S tiles (R349). -/

namespace Sys2Proof.Machine

/-- Tracker of a class. -/
def trk (ls : Lease) (c : Nat) : Tracker := mget Tracker.zero ls.trackers c
/-- Change of a tracker. -/
def updTrk (s : State) (l c : Nat) (f : Tracker → Tracker) : State :=
  updLease s l fun ls => { ls with trackers := mput ls.trackers c (f (trk ls c)) }
/-- Tick of the die of a tracker (R122). -/
def trkTick (s : State) (ls : Lease) (c : Nat) : Nat := tickOf s (tileDie ls (sliceTile ls (c % 16 % granules ls)))

/-- Address that a tracker's fault names: of a step its number (R122). -/
def chainAddr (r : Req) (ch : Chain) : Nat :=
  match r.op with
  | .step => ch.number
  | _ => match r.parts with
    | p :: _ => p.va
    | [] => 0

/-- Distance of a read's group, and of an ordered request's number, from NEXT (R122). -/
def chainDist (r : Req) (ch : Chain) (t : Tracker) : Nat :=
  if r.op.isWrite then (ch.number + 65536 - t.next) % 65536 else (ch.number + 1 + 65536 - t.next) % 65536

/-- A request goes on to its serving point with the tracker's floor; one that a replay has answered is performed (R421). -/
def chainServe (s : State) (id : Nat) (fl : Nat) : State :=
  let s1 := updReq s id fun r =>
    { r with
      floor := max r.floor fl
      stage := if r.parts != [] && r.parts.all (fun p => p.loc != .none) then .sent else .issued }
  match reqOf s1 id with
  | some r => if r.parts != [] && allDone r then perform s1 id (tickOf s1 (issDie s1 r.iss)) else s1
  | none => s1

/-- The request, its chain, lease and tracker, when it stands at the tracker in a stage. -/
def atTracker (s : State) (id : Nat) (st : RSt) : Option (Req × Chain × Lease × Tracker) :=
  match reqOf s id with
  | some r => if r.stage != st then none else
    match r.chain, leaseOf s (issLease r.iss) with
    | some ch, some ls => some (r, ch, ls, trk ls ch.cls)
    | _, _ => none
  | none => none

/-- CHAIN_READ (R122): counted and served, held, or STRAY_TOKEN. -/
def execChainRead (id : Nat) (s : State) : Res :=
  match atTracker s id .chain with
  | none => .next s
  | some (r, ch, _, t) =>
    if r.op.isWrite then .next s
    else
      let d := chainDist r ch t
      if d = 0 && !t.shut && t.acc < 255 then
        .next (chainServe (updTrk s (issLease r.iss) ch.cls fun t => { t with acc := t.acc + 1 }) id t.floor)
      else if 1 ≤ d && d ≤ 32767 then .next (updReq s id fun r => { r with stage := .held })
      else .next (reqFault s id cSTRAY (chainAddr r ch) false)

/-- NEXT moves past an ordered request (R122). -/
def chainAdvance (s : State) (l : Nat) (ch : Chain) (tick : Nat) : State :=
  updTrk s l ch.cls fun _ =>
    { next := (ch.number + 1 + ch.gap) % 65536, acc := 0, done := 0, shut := false, floor := tick, busy := none }

/-- CHAIN_ORDERED (R122): one ordered request at a time; a step is finished here. -/
def execChainOrdered (id : Nat) (s : State) : Res :=
  match atTracker s id .chain with
  | none => .next s
  | some (r, ch, ls, t) =>
    let l := issLease r.iss
    if !r.op.isWrite || (t.busy.isSome && t.busy != some id) then .next s
    else
      let d := chainDist r ch t
      let free (s : State) : State := updTrk s l ch.cls fun t => { t with busy := none }
      if 1 ≤ d && d ≤ 32767 then .next (updReq s id fun r => { r with stage := .held })
      else if d ≠ 0 || ch.rcnt < t.acc then .next (free (reqFault s id cSTRAY (chainAddr r ch) false))
      else if t.acc < ch.rcnt then .next (updTrk s l ch.cls fun t => { t with busy := some id })
      else if t.done ≠ t.acc then .next (updTrk s l ch.cls fun t => { t with busy := some id, shut := true })
      else match r.op with
        | .step =>
          let k := trkTick s ls ch.cls
          let s1 := settle (updReq s id fun r => { r with stage := .performed, chain := none }) id k
          .next (chainAdvance s1 l ch k)
        | _ => .next (chainServe (updTrk s l ch.cls fun t => { t with busy := some id, shut := true }) id t.floor)

/-- CHAIN_READ_PERFORMED (R122). -/
def execChainReadPerformed (id : Nat) (s : State) : Res :=
  match atTracker s id .performed with
  | none => .next s
  | some (r, ch, _, _) =>
    if r.op.isWrite then .next s
    else .next (updReq (updTrk s (issLease r.iss) ch.cls fun t => { t with done := t.done + 1 }) id fun r => { r with chain := none })

/-- CHAIN_WRITE_ACK (R122). -/
def execChainWriteAck (id : Nat) (s : State) : Res :=
  match atTracker s id .performed with
  | none => .next s
  | some (r, ch, ls, _) =>
    if !r.op.isWrite then .next s
    else .next (updReq (chainAdvance s (issLease r.iss) ch (trkTick s ls ch.cls)) id fun r => { r with chain := none })

/-- CHAIN_HELD_RETRY (R122): taken again once NEXT has reached, or passed, its group or number. -/
def execChainHeldRetry (id : Nat) (s : State) : Res :=
  match atTracker s id .held with
  | none => .next s
  | some (r, ch, _, t) =>
    let d := chainDist r ch t
    if 1 ≤ d && d ≤ 32767 then .next s else .next (updReq s id fun r => { r with stage := .chain })

/-! ### Group records -/

/-- SYNA_GROUP_RECORD (R80, R349): the member's operation joins its record; the last one makes one arrival of
the sum. A ninth record of a tile waits. -/
def execSynaGroupRecord (id : Nat) (s : State) : Res :=
  match reqOf s id with
  | none => .next s
  | some r =>
    match r.op, r.iss, r.parts[0]? with
    | .grp g n, .elem l t k, some p =>
      match p.loc, leaseOf s l with
      | .tile h o, some ls =>
        match tileOf ls h with
        | none => .next s
        | some x =>
          if !servable s id r p .home then .next s
          else
            let cnt := (mget ⟨0, 0, 0⟩ ls.groups g).count
            let rest := x.grecs.filter fun e => !(e.off == o && e.g == g)
            let cur : GRec := (x.grecs.find? fun e => e.off == o && e.g == g).getD ⟨o, g, [], 0, false⟩
            if 8 ≤ rest.length || cur.members.contains (t, k) then .next s
            else
              let new : GRec := ⟨o, g, cur.members ++ [(t, k)], cur.sum + n, cur.pois || p.pois.any fun b => b⟩
              let fin (s : State) : State := checkDone (setPart s id 0 { p with st := .done }) id (tileDie ls h)
              if new.members.length < cnt then
                .next (fin (updTile s l h fun x => { x with grecs := rest ++ [new] }))
              else
                let s1 := updTile s l h fun x => { x with grecs := rest }
                match arriveAt s1 l p.loc new.sum new.pois with
                | none => .next (partFault s1 id cPADDR p)
                | some s2 => .next (fin s2)
      | _, _ => .next s
    | _, _, _ => .next s

end Sys2Proof.Machine
end

