-- ==== Sys2Proof/Machine/Pager.lean ====
section
/-! DEFINITION. The siding pagers (R58, R60 to R63): claims of radix entries, frames and tables, copies from the
host, and replies to the slices. -/

namespace Sys2Proof.Machine

/-- Change of a job. -/
def updJob (s : State) (j : Nat) (f : Job → Job) : State := { s with jobs := mmod s.jobs j f }

/-- The pager answers (R60, R61). -/
def pagerAnswer (s : State) (j : Nat) (ok : Bool) : State :=
  updJob s j fun x => { x with st := .answered ok, claimed := false }

/-- The radix entry of a job, with its place. -/
def jobEntry (s : State) (x : Job) : Option (Nat × Loc) :=
  match walkLoc s x.tenant (vfOf s x.tenant) x.entry 8 .rw with
  | .ok lc => some (devDword s lc 0, lc)
  | .error _ => none

/-- How the pager of a job writes to the host window (R56). -/
def jobTag (s : State) (x : Job) : HostTag := hostTag s x.tenant x.die

/-- The entry of a job is written in one store (R60). -/
def putEntry (s : State) (x : Job) (lc : Loc) (v : Nat) : State := devWr s (jobTag s x) lc (leBytes 8 v) (List.replicate 8 false)

/-- The entry's bits but for B. -/
def noB (e : Nat) : Nat := if e.testBit 60 then e - 2 ^ 60 else e

/-- What taking a frame answers. -/
inductive FrameRes
  | ok (gpa : Nat) (s : State)
  | none
  | bad (s : State)

/-- The next frame of a tenant's ring (R62): none while the ring is empty or disabled; an entry with reserved
bits is consumed and refused. -/
def takeFrame (s : State) (tenant : Nat) : FrameRes :=
  let v := vfOf s tenant
  let n := bits v.pool.toNat 0 5
  if !v.pool.getLsbD 63 || n = 0 || 20 < n || v.ptail = v.phead then .none
  else match walkLoc s tenant v (bits v.pool.toNat 12 36 * 4096 + 8 * (v.phead % 2 ^ n)) 8 .rd with
    | .error _ => .bad s
    | .ok lc =>
      let e := devDword s lc 0
      let s1 := updVf (bump (devTouch s lc 8)) tenant fun v => { v with phead := (v.phead + 1) % 2 ^ 32 }
      if e < 2 ^ 48 && e % 65536 = 0 then .ok e s1 else .bad s1

/-- A frame becomes unscrubbed, whatever its stage-2 entry allows (R59, R60). -/
def unscrub (s : State) (tenant gpa : Nat) : State :=
  match (s2Find s (vfOf s tenant) gpa).map fun e => e.dbase + (gpa - e.gbase) with
  | some d =>
    if d < hostBase then
      let u := unitSize d
      { s with scrubbed := s.scrubbed.filter fun k => !(d / u ≤ k && k < (d + 65536) / u && decide (d < scratchBase) == decide (k * u < scratchBase)) }
    else s
  | none => s

/-- No frame can be had: POOL_EMPTY, and the fault stays open (R61). -/
def poolEmpty (s : State) (j : Nat) (x : Job) : State :=
  pfEvent (updJob s j fun x => { x with st := .waitFrame }) 0x03 x.tenant x.lease x.die 0 x.va 0

/-- The failure of a claimed job: nothing stays claimed (R61). -/
def pagerFail (s : State) (j : Nat) (x : Job) : State :=
  match jobEntry s x with
  | some (e, lc) => pagerAnswer (if x.claimed then putEntry s x lc (noB e) else s) j false
  | none => pagerAnswer s j false

/-- The claimed entry is written present (R60 step 5). -/
def pagerFinish (s : State) (j : Nat) (x : Job) (addr : Nat) : State :=
  match jobEntry s x with
  | some (e, lc) => pagerAnswer (putEntry s x lc (2 ^ 63 + (if e.testBit 61 then 2 ^ 61 else 0) + addr)) j true
  | none => pagerAnswer s j false

/-- Does a fault of the tenant that reached its pager earlier wait for a frame (R62)? -/
def frameAhead (s : State) (j : Nat) (x : Job) : Bool :=
  s.jobs.any fun e => e.2.tenant == x.tenant && e.2.st == .waitFrame && (e.2.since < x.since || (e.2.since == x.since && e.1 < j))

/-- A frame for a job, which `use` takes: the faults of a tenant have them in the order in which they reached their pagers. DESIGN
CHOICE: one that comes while others wait waits behind them, with no POOL_EMPTY where the ring has frames (R61, R62; log 107). -/
def withFrame (s : State) (j : Nat) (x : Job) (use : State → Nat → State) : State :=
  match takeFrame s x.tenant with
  | .none => poolEmpty s j x
  | .bad s1 => if frameAhead s j x then updJob s j fun x => { x with st := .waitFrame } else pagerFail s1 j x
  | .ok g s1 => if frameAhead s j x then updJob s j fun x => { x with st := .waitFrame } else use (unscrub s1 x.tenant g) g

/-- Steps 2 to 4 of R60 for a claimed entry. DESIGN CHOICE: a page of a leaf with PIN is not migrated: the pager answers with a failure
(R39, R58; log 108). -/
def pagerAlloc (s : State) (j : Nat) (x : Job) : State :=
  match jobEntry s x with
  | none => pagerAnswer s j false
  | some (e, _) =>
    if x.leaf then
      if e.testBit 62 && x.pin then pagerFail s j x
      else withFrame s j x fun s g =>
        if e.testBit 62 then updJob s j fun x => { x with st := .copying, frame := some g } else pagerFinish s j x g
    else
      let key := x.die * 4096 + x.tenant
      let give (s : State) (g used : Nat) : State :=
        let t := g + 4096 * used
        let s1 := { s with tabFrames := mput s.tabFrames key ⟨g, used + 1⟩ }
        match walkLoc s1 x.tenant (vfOf s1 x.tenant) t 4096 .wr with
        | .ok lc => pagerFinish (devWr s1 (jobTag s1 x) lc (List.replicate 4096 0) (List.replicate 4096 false)) j x t
        | .error _ => pagerFail s1 j x
      match mfind s.tabFrames key with
      | some f => if f.used < 16 then give s f.gpa f.used else withFrame s j x fun s g => give s g 0
      | none => withFrame s j x fun s g => give s g 0

/-- Step 1 of R60: the claim of the entry, the wait on B, or an answer when the entry is present already
(R63). A malformed entry raises TREE_MALFORMED with its table (R41). -/
def pagerClaim (s : State) (j : Nat) (x : Job) : State :=
  match jobEntry s x with
  | none => pagerAnswer s j false
  | some (e, lc) =>
    let s := devTouch s lc 8
    if e.testBit 60 then updJob s j fun x => { x with st := .waitB }
    else if !radixOk (if x.leaf then 3 else 1) e then
      pagerAnswer (pfEvent s 0x02 x.tenant x.lease 0xFF 0 (x.entry / 4096 * 4096) 0) j false
    else if e.testBit 63 && !(x.leaf && e.testBit 62) then pagerAnswer s j true
    else
      let x' := { x with claimed := true }
      pagerAlloc (updJob (putEntry s x lc (e + 2 ^ 60)) j fun _ => x') j x'

/-- PAGER_FAULT_TOKEN (R60). -/
def execPagerFaultToken (j : Nat) (s : State) : Res :=
  match mfind s.jobs j with
  | some x => if x.st = .token then .next (pagerClaim s j x) else .next s
  | none => .next s

/-- PAGER_B_WAIT_END (R60, R63). -/
def execPagerBWaitEnd (j : Nat) (s : State) : Res :=
  match mfind s.jobs j with
  | some x => if x.st = .waitB then .next (pagerClaim s j x) else .next s
  | none => .next s

/-- PAGER_FRAME_WAIT_END (R62): faults of a tenant proceed in the order of their arrival. -/
def execPagerFrameWaitEnd (j : Nat) (s : State) : Res :=
  match mfind s.jobs j with
  | some x =>
    let v := vfOf s x.tenant
    if x.st = .waitFrame && v.pool.getLsbD 63 && v.ptail ≠ v.phead && !frameAhead s j x then .next (pagerAlloc s j x) else .next s
  | none => .next s

/-- PAGER_HOST_COPY_DONE (R58, R60, R61): the 64 KiB of the page arrive in the frame, poisoned where a completion was (R150), and
the entry is written, or the copy failed. -/
def execPagerHostCopyDone (j : Nat) (ok : Bool) (s : State) : Res :=
  match mfind s.jobs j with
  | some x =>
    match x.st, x.frame, jobEntry s x with
    | .copying, some g, some (e, _) =>
      if !ok then .next (pagerFail s j x)
      else match walkLoc s x.tenant (vfOf s x.tenant) g 65536 .wr with
        | .error _ => .next (pagerFail s j x)
        | .ok lc =>
          let (d, p, s1) := devGet s (.host (bits e 12 36 * 4096)) 65536
          .next (pagerFinish (devWr s1 (jobTag s1 x) lc d p) j x g)
    | .copying, _, _ => .next (pagerAnswer s j false)
    | _, _, _ => .next s
  | none => .next s

/-- What an answered resolution releases (R60, R61): withheld requests are translated again or fault, and a
sequencer word or an engine operation that waited goes on or faults. -/
def jobRelease (s : State) (j va : Nat) (ok : Bool) : State :=
  let s1 := { s with
    jobs := mdel s.jobs j
    leases := mmap s.leases fun _ ls => { ls with
      engines := ls.engines.map fun o => if o.job = some j then
        { o with job := none, fail := if ok then o.fail else o.fail <|> some (cTRANS, va) } else o } }
  let s2 := (s.reqs.filter fun e => e.2.stage == .withheld j).foldl (init := s1) fun s e =>
    if ok then updReq s e.1 fun r => { r with stage := .issued } else vaFault s e.1 cTRANS va
  let waits (q : Seq) : Bool := q.op == .page j
  s.leases.foldl (init := s2) fun s e =>
    [false, true].foldl (init := s) fun s rep =>
      if waits (seqOf e.2 rep) then
        let s' := updSeq s e.1 rep fun q => { q with op := .none }
        if ok then s' else seqFault s' e.1 rep cTRANS va
      else s

/-- A sequencer waits for the resolution with its lease at rest: the reply is kept until the lease runs again (R64). -/
def waitsAtRest (s : State) (j : Nat) : Bool :=
  s.leases.any fun e => e.2.state != .run && e.2.state != .drain && e.2.state != .stop &&
    (e.2.seq.op == .page j || e.2.seqR.op == .page j)

/-- PAGER_REPLY (R60, R61). A failure that the Shunter waits for is kept until it takes the access again. -/
def execPagerReply (j : Nat) (s : State) : Res :=
  match mfind s.jobs j with
  | some x => match x.st with
    | .answered ok => if waitsAtRest s j || (x.lease == 0xFFF && !ok) then .next s else .next (jobRelease s j x.va ok)
    | _ => .next s
  | none => .next s

/-- PRI_RESPONSE (R57): Success retries the translation, any other answer faults TRANSLATION. -/
def execPriResponse (j : Nat) (ok : Bool) (s : State) : Res :=
  match mfind s.jobs j with
  | some x =>
    if x.st != .priWait then .next s
    else if waitsAtRest s j || (x.lease == 0xFFF && !ok) then .next (pagerAnswer s j ok)
    else .next (jobRelease s j x.va ok)
  | none => .next s

end Sys2Proof.Machine
end

