-- ==== Sys2Proof/Machine/Firing.lean ====
section
/-! DEFINITION. Which firing starts (R164 to R166), PHASE, MISS and SKIP (R163, R178), controllers and counter chains
(R172 to R175), group arrivals (R177), run-ahead loads (R65, R340), marker rounds (R180, R182, R393) and the closing
of contexts (R185). -/

namespace Sys2Proof.Machine

/-! ### Running contexts -/

/-- Does the lease fire (R392, R401)? -/
def leaseLive (s : State) (ls : Lease) : Bool := !s.fatal && (ls.state == .run || ls.state == .drain)

/-- Handler `h` of context `k` is runnable (R165, R174, R182). A closed or frozen context starts nothing, nor does
one that holds a marker over the control network (R180, R384; log 20). -/
def runnable (x : Tile) (k h : Nat) : Bool :=
  let c := ctxOf x k
  hEn x.act h && c.hmask.getLsbD h && hCtx x.act h == k && (!gated x.act k || c.goOpen) && !c.hold && !c.closed &&
    c.frozen.isNone && c.mark.isNone &&
    (List.range 8).all (fun i => hCR x.act h i ≤ avail x.act c k i) &&
    (List.range 4).all (fun j => hPR x.act h j ≤ outFree x.act c k j)

/-- The runnable handlers of a context. -/
def runnables (x : Tile) (k : Nat) : List Nat := (List.range 16).filter (runnable x k)

/-- Has the context a firing in progress that is able to issue a word (R164, R167)? One that is stalled is not. -/
def canIssue (c : Ctx) : Bool :=
  c.frozen.isNone && !c.hold && (match c.fire with
    | some f => f.wait == .none || f.wait == .start
    | none => false)

/-- Is the word of its firing issued, and waits for a condition of the tile (R300)? It is tried in every fc. -/
def stalledWord (c : Ctx) : Bool :=
  c.frozen.isNone && !c.hold && (match c.fire with
    | some f => (match f.wait with
      | .stall => true
      | .gbar _ _ => true
      | _ => false)
    | none => false)

/-- Contexts in the order in which they are tried (R164). -/
def turnOrder (x : Tile) : List Nat := if mctx x.act then (List.range 4).map fun i => (x.cctr + i) % 4 else [0]

/-- Does context `k` hold something for the turn (R164)? -/
def wantsTurn (x : Tile) (k : Nat) : Bool :=
  let c := ctxOf x k
  if c.fire.isSome then canIssue c else !(runnables x k).isEmpty

/-- The context that takes the turn. -/
def turnOf (x : Tile) : Option Nat := (turnOrder x).find? (wantsTurn x)

/-- Context `k` takes the turn: those passed over without a firing count a skip, CCTR points behind `k` (R164). -/
def takeTurn (x : Tile) (k : Nat) : Tile :=
  if mctx x.act then
    let passedOver := ((turnOrder x).takeWhile (· != k)).filter fun j => (ctxOf x j).fire.isNone
    let x1 := passedOver.foldl (init := x) fun x j =>
      let c := ctxOf x j
      setCtx x j { c with skip := satInc c.skip 32 }
    { x1 with cctr := (k + 1) % 4 }
  else x

/-- The due handler of a context at the tile's PHASE (R166, R182). -/
def dueOf (ls : Lease) (x : Tile) (k : Nat) : Option Nat :=
  if ls.markerMode then none
  else (List.range 16).find? fun h => hEn x.act h && hCtx x.act h == k && hSlot x.act h == x.phase && hSlot x.act h < ls.img.ii

/-- The handler of a free firing: highest PRIO, then the first after the one that fired last at that PRIO (R166). -/
def freeChoice (x : Tile) (k : Nat) : Option Nat :=
  let rs := runnables x k
  let top := (rs.map (hPrio x.act)).foldl max 0
  let last := mget 15 (ctxOf x k).lastFired top
  ((List.range 16).map fun i => (last + 1 + i) % 16).find? fun h => rs.contains h && hPrio x.act h == top

/-- The handler that context `k` starts (R166). -/
def chooseHandler (ls : Lease) (x : Tile) (k : Nat) : Option Nat :=
  match dueOf ls x k with
  | some h => if runnable x k h then some h else freeChoice x k
  | none => freeChoice x k

/-- A firing starts at ENTRY (R167). Ordinals leave room for the words of a firing (R418). -/
def startFiring (x : Tile) (k h : Nat) : Tile :=
  let c := ctxOf x k
  setCtx x k { c with fire := some ⟨h, hEntry x.act h, [], [], c.ord, .start, false⟩, ord := c.ord + 2 ^ 32 }

/-- The damaged word that a firing of handler `h` of context `k` uses, by its section code and index: one of its handler entry, or of
the ports that R165 looks at (R143, R243). -/
def firingBad (x : Plane) (k h : Nat) : Option (Nat × Nat) :=
  (((List.range 3).find? fun i => wordBad x 1 (3 * h + i)).map fun i => (2, 3 * h + i)) <|>
    (((List.range 24).find? fun i => wordBad x 2 (24 * k + i)).map fun i => (3, 24 * k + i))

/-- FIRING_START (R164, R166): the context that takes the turn starts one firing, unless it has one, and issues its first word in the
same fc; a damaged word that it would use faults instead (R143). -/
def execFiringStart (l t : Nat) (s : State) : Res :=
  match leaseOf s l with
  | none => .next s
  | some ls =>
    match tileOf ls t with
    | none => .next s
    | some x =>
      if !leaseLive s ls || x.passed then .next s
      else match turnOf x with
        | none => .next s
        | some k =>
          if (ctxOf x k).fire.isSome then .next s
          else match chooseHandler ls x k with
            | some h =>
              match firingBad x.act k h with
              | some w => .next (freezeAt s l t k (ctxOf x k) cPCTL .config fun r =>
                  { r with handler := h, cfgid := cfgId w.1 (keyRow ls t) (keyCol ls t) w.2 })
              | none =>
                let s1 := updTile s l t fun x => startFiring (takeTurn x k) k h
                .next { s1 with agenda := .elem l t k :: s1.agenda }
            | none => .next s

/-! ### Counter chains -/

/-- Has the counter gone beyond its STOP (R173)? -/
def beyond (x : Plane) (j : Nat) (v : Int) : Bool :=
  (0 < cStride x j && cStop x j ≤ v) || (cStride x j < 0 && v ≤ cStop x j)

/-- Reset of a chain (R173): counters and Exhausted. -/
def ctrReset (x : Plane) : List (Nat × Word) × Bool :=
  ((List.range (cNctr x)).foldl (fun m j => mset 0 m j (BitVec.ofInt 32 (cStart x j))) [],
   (List.range (cNctr x)).any fun j => beyond x j (cStart x j))

/-- Advance of a chain from counter `j` on (R173). -/
def ctrAdvance (x : Plane) : Nat → Nat → List (Nat × Word) → List (Nat × Word) × Bool
  | 0, _, m => (m, true)
  | fuel + 1, j, m =>
    let v := (mget (0 : Word) m j).toInt + cStride x j
    if !beyond x j v then (mset 0 m j (BitVec.ofInt 32 v), false)
    else ctrAdvance x fuel (j + 1) (mset 0 m j (BitVec.ofInt 32 (cStart x j)))

/-- Positions of one counter. -/
def tripsOf (x : Plane) (j : Nat) : Nat :=
  let d := cStride x j
  if beyond x j (cStart x j) then 0
  else if 0 < d then ((cStop x j - cStart x j + d - 1) / d).toNat
  else ((cStart x j - cStop x j - d - 1) / (-d)).toNat

/-- The trip count of a chain (R172). -/
def tripCount (x : Plane) : Nat := ((List.range (cNctr x)).map (tripsOf x)).foldl (· * ·) 1

/-! ### Controllers -/

/-- A go to child `i` of the controller of tile `t` (R172, R174): a context that counts nothing of its own gets
`trips` firings. -/
def goChild (s : State) (l t : Nat) (ls : Lease) (x : Plane) (i trips : Nat) : State :=
  let w := ctc x i
  let u := ctlTile ls t w
  if w.testBit 31 then send s l ⟨.go, u, 0, 0⟩ else send s l ⟨.ctxGo, u, bits w 29 2, trips⟩

/-- The done of the controller of tile `t`: to its parent, or from the root to the sequencer (R172, R272). -/
def ctlDone (s : State) (l t : Nat) (ls : Lease) (x : Plane) : State :=
  let s1 := updTile s l t fun x => { x with ctl := { x.ctl with open_ := false }, ra := [] }
  if isRoot x then updLease (send s1 l ⟨.rootDone, t, 0, 0⟩) l fun ls => { ls with rootFin := true }
  else match parentOf ls t 0 true with
    | some (p, i) => send s1 l ⟨.done, p, i, 0⟩
    | none => s1

/-- Children of a pipelined controller that may start an iteration do so (R172): child `k` its iteration `i` after
its own `i − 1`, after child `k − 1` did `i`, and with a permit of child `k + 1` for `i − P`. Child 0 advances the
chain as it starts an iteration after the first. -/
def pipeStart (l t : Nat) (ls : Lease) (x : Plane) : List Nat → State → State
  | [], s => s
  | k :: r, s =>
    match (leaseOf s l).bind (tileOf · t) with
    | none => s
    | some tl =>
      let c := tl.ctl
      let i := mget 0 c.started k
      let ready := mget 0 c.done k == i && (k == 0 || i < mget 0 c.done (k - 1)) &&
        (k + 1 == cNch x || i + 1 ≤ mget 0 c.perm k + cPermit x)
      if !ready || (k == 0 && c.exhausted) then pipeStart l t ls x r s
      else
        let adv := if k = 0 && 0 < i then ctrAdvance x (cNctr x) 0 tl.ctr else (tl.ctr, false)
        if adv.2 then
          pipeStart l t ls x r (updTile s l t fun tl => { tl with ctr := adv.1, ctl := { tl.ctl with exhausted := true } })
        else
          let s1 := updTile s l t fun tl =>
            { tl with ctr := adv.1, ctl := { tl.ctl with started := mput tl.ctl.started k (i + 1) } }
          pipeStart l t ls x r (goChild s1 l t ls x k 1)

/-- A pipelined controller is done when its chain is exhausted and every child has done what child 0 started. -/
def pipeFinish (s : State) (l t : Nat) (ls : Lease) (x : Plane) : State :=
  match (leaseOf s l).bind (tileOf · t) with
  | none => s
  | some tl =>
    let n := mget 0 tl.ctl.started 0
    if tl.ctl.open_ && tl.ctl.exhausted && (List.range (cNch x)).all fun k => mget 0 tl.ctl.done k == n then ctlDone s l t ls x else s

/-- A message of a kind for a tile, with its child, context or any. -/
def findMsg (ls : Lease) (p : Msg → Bool) : Option Msg := ls.msgs.find? p

/-- The message has been received. -/
def dropMsg (s : State) (l : Nat) (m : Msg) : State := updLease s l fun ls => { ls with msgs := ls.msgs.erase m }

/-- A message that reaches a passed tile, which every edge closes, is discarded with STRAY_TOKEN (R188, R362). -/
def lostMsg (s : State) (l : Nat) (m : Msg) : State := noteFault (dropMsg s l m) l m.tile 0 cSTRAY

/-- A controller takes a message, unless its tile has passed or a word of its block is damaged: then it faults and withholds what would
follow (R143). -/
def ctlTakes (s : State) (l : Nat) (ls : Lease) (x : Tile) (m : Msg) (f : State → Res) : Res :=
  if x.passed then .next (lostMsg s l m)
  else match (List.range 40).find? (wordBad x.act 3) with
  | some i => .next (noteFault (dropMsg s l m) l m.tile 0 cPCTL fun r => { r with cfgid := cfgId 5 (keyRow ls m.tile) (keyCol ls m.tile) i })
  | none => f (dropMsg s l m)

/-- CONTROLLER_GO_RECEIVED (R172, R173): the chain is reset and the children run by kind; zero trips are done at
once. -/
def execControllerGoReceived (l t : Nat) (s : State) : Res :=
  match leaseOf s l with
  | none => .next s
  | some ls =>
    match findMsg ls fun m => m.kind == .go && m.tile == t, tileOf ls t with
    | some m, some x =>
      if !leaseLive s ls || x.ctl.open_ then .next s
      else ctlTakes s l ls x m fun s =>
        let (ctr, ex) := ctrReset x.act
        let s1 := updTile s l t fun x =>
          { x with ctr := ctr, ctl := ⟨true, ex, [], [], [], 0⟩, ra := [] }
        if ex then .next (ctlDone s1 l t ls x.act)
        else match cKind x.act with
          | 1 => .next (goChild s1 l t ls x.act 0 1)
          | 2 => .next (pipeStart l t ls x.act (List.range (cNch x.act)) s1)
          | 3 => .next ((List.range (cNch x.act)).foldl (fun s i => goChild s l t ls x.act i (tripCount x.act)) s1)
          | _ => .next (ctlDone s1 l t ls x.act)
    | _, _ => .next s

/-- CONTROLLER_DONE_RECEIVED (R172). -/
def execControllerDoneReceived (l t i : Nat) (s : State) : Res :=
  match leaseOf s l with
  | none => .next s
  | some ls =>
    match findMsg ls fun m => m.kind == .done && m.tile == t && m.sub == i, tileOf ls t with
    | some m, some x =>
      if !leaseLive s ls then .next s
      else ctlTakes s l ls x m fun s =>
        let s1 := updTile s l t fun x =>
          { x with ctl := { x.ctl with done := mput x.ctl.done i (mget 0 x.ctl.done i + 1) } }
        let n := cNch x.act
        match cKind x.act with
        | 1 =>
          if i + 1 < n then .next (goChild (updTile s1 l t fun x => { x with ctl := { x.ctl with cur := i + 1 } }) l t ls x.act (i + 1) 1)
          else
            let (ctr, ex) := ctrAdvance x.act (cNctr x.act) 0 x.ctr
            let s2 := updTile s1 l t fun x => { x with ctr := ctr, ctl := { x.ctl with cur := 0, exhausted := ex } }
            if ex then .next (ctlDone s2 l t ls x.act) else .next (goChild s2 l t ls x.act 0 1)
        | 2 =>
          let s2 := if 0 < i then send s1 l ⟨.permit, t, i - 1, 0⟩ else s1
          .next (pipeFinish (pipeStart l t ls x.act (List.range n) s2) l t ls x.act)
        | _ =>
          let x1 := match (leaseOf s1 l).bind (tileOf · t) with
            | some y => y
            | none => x
          if (List.range n).all fun k => 1 ≤ mget 0 x1.ctl.done k then .next (ctlDone s1 l t ls x.act) else .next s1
    | _, _ => .next s

/-- PERMIT_RECEIVED (R172). -/
def execPermitReceived (l t i : Nat) (s : State) : Res :=
  match leaseOf s l with
  | none => .next s
  | some ls =>
    match findMsg ls fun m => m.kind == .permit && m.tile == t && m.sub == i, tileOf ls t with
    | some m, some x =>
      if !leaseLive s ls then .next s
      else ctlTakes s l ls x m fun s =>
        let s1 := updTile s l t fun x =>
          { x with ctl := { x.ctl with perm := mput x.ctl.perm i (mget 0 x.ctl.perm i + 1) } }
        .next (pipeFinish (pipeStart l t ls x.act (List.range (cNch x.act)) s1) l t ls x.act)
    | _, _ => .next s

/-- CONTEXT_GO_RECEIVED (R174): an open go; a context that has closed answers at once (R174; log 20). -/
def execContextGoReceived (l t k : Nat) (s : State) : Res :=
  match leaseOf s l with
  | none => .next s
  | some ls =>
    match findMsg ls fun m => m.kind == .ctxGo && m.tile == t && m.sub == k, tileOf ls t with
    | some m, some x =>
      let c := ctxOf x k
      if !leaseLive s ls || c.goOpen then .next s
      else if x.passed then .next (lostMsg s l m)
      else
        let n := if dcnt x.act k = 0 then m.val else dcnt x.act k
        let s1 := updCtx (dropMsg s l m) l t k fun c => { c with goOpen := true, goCnt := 0, goLeft := n }
        if c.closed then .next (finishGo s1 l t k) else .next s1
    | _, _ => .next s

/-- ROOT_DONE_RECEIVED (R272): DONECNT grows; the root of the replica of a pair repeats its primary (R418). -/
def rootDoneReceivedAt (l : Nat) (s : State) : Res :=
  match leaseOf s l with
  | none => .next s
  | some ls =>
    match findMsg ls fun m => m.kind == .rootDone with
    | some m =>
      if !leaseLive s ls then .next s
      else if replicaBase ≤ m.tile then .next (dropMsg s l m)
      else
        let up (q : Seq) : Seq := { q with donecnt := (q.donecnt + 1) % 65536 }
        .next (updLease (dropMsg s l m) l fun ls =>
          { ls with rootGo := false, seq := up ls.seq, seqR := if ls.paired then up ls.seqR else ls.seqR })
    | none => .next s

/-- ROOT_DONE_RECEIVED (R272). -/
def execRootDoneReceived (s : State) : Res := onLease s fun l => rootDoneReceivedAt l s

/-- GROUP_ARRIVAL (R177): the firing waits from the generation it arrives in; the COUNT-th arrival releases. -/
def execGroupArrival (l g t k : Nat) (s : State) : Res :=
  match leaseOf s l with
  | none => .next s
  | some ls =>
    match findMsg ls fun m => m.kind == .arrival && m.tile == t && m.sub == k && m.val == g with
    | some m =>
      if !leaseLive s ls then .next s
      else
        let gk := grpKey t g
        let e := mget ⟨0, 0, 0⟩ ls.groups gk
        let e' : Group := if e.count ≤ e.arr + 1 then { e with arr := 0, gen := (e.gen + 1) % 65536 } else { e with arr := e.arr + 1 }
        let s1 := updCtx (dropMsg s l m) l t k fun c =>
          { c with fire := c.fire.map fun f => { f with wait := .gbar g e.gen } }
        .next (updLease s1 l fun ls => { ls with groups := mput ls.groups gk e' })
    | none => .next s

/-- PHASE_RESET_RECEIVED (R178, R361): PHASE starts at 0 and HOLD tracks open. -/
def execPhaseResetReceived (l t : Nat) (s : State) : Res :=
  match leaseOf s l with
  | none => .next s
  | some ls =>
    match findMsg ls fun m => m.kind == .phase && m.tile == t with
    | some m => .next (updTile (dropMsg s l m) l t fun x =>
        if x.passed then x else { x with phase := 0, phaseOn := true, holdOpen := true })
    | none => .next s

/-! ### Run-ahead loads -/

/-- The `n`-th position after the present one of a tile's chain, none where the chain is exhausted before it (R173). -/
def chainAhead (x : Plane) : Nat → List (Nat × Word) → Option (List (Nat × Word))
  | 0, m => some m
  | n + 1, m =>
    let (m', ex) := ctrAdvance x (cNctr x) 0 m
    if ex then none else chainAhead x n m'

/-- Does an EOS or a marker stand at the head of an input of the context? -/
def ctlAhead (x : Tile) (k : Nat) : Bool :=
  (boundIn x.act k).any fun p => match (inPort (ctxOf x k) p).q with
    | h :: _ => !isData h
    | [] => false

/-- May an A tile load ahead (R340, R393)? Not while the context's GEN waits for its reply, nor when 64 loads are held. -/
def mayRunAhead (ls : Lease) (t : Nat) (x : Tile) (k : Nat) : Bool :=
  ls.state == .run && !ls.markerMode && !ls.paired && !x.passed && kindOf ls t == 3 && cKind x.act != 0 && x.ctl.open_ &&
    ((x.ra.map fun e => e.2.loads.length).foldl (· + ·) 0 < 64) && !((ctxOf x k).fire.any waiting)

/-- The lines that GEN reads at a position (R339). -/
def genLines (d : Payload) (v : Nat → Int) (c : Nat) : List Nat :=
  (((genLanes d v c).filterMap id).filter fun a => decide (0 ≤ a) && decide (a < 2 ^ 56)).map (fun a => a.toNat / 128) |>.eraseDups

/-- RUN_AHEAD_LOAD (R65, R136, R340): after a relaxed GEN the lines of the position that the chain takes next, beyond those already
loaded, are brought nearer, as by PREF: slice entries are filled, an unscrubbed unit begins to be zeroed, the slice of the home and the
reach-through store take the line; it never faults. Its value is taken only where the demand access would return it, so the GEN
is issued on demand (log 21). An EOS or marker at the head of an input discards the loads. -/
def execRunAheadLoad (l t k : Nat) (s : State) : Res :=
  match leaseOf s l with
  | none => .next s
  | some ls =>
    match tileOf ls t with
    | none => .next s
    | some x =>
      match mfind x.ra k with
      | none => .next s
      | some g =>
        if ctlAhead x k then .next (updTile s l t fun x => { x with ra := mdel x.ra k })
        else if !mayRunAhead ls t x k then .next s
        else match chainAhead x.act (g.loads.length + 1) x.ctr with
          | none => .next s
          | some m =>
            let d := (ctxOf x k).adesc
            let v := ctrVal { x with ctr := m }
            let s1 := (genLines d v g.ctr).foldl (fun s n => (addReq s (prefReq l t k g.pc (progWord x.act g.pc) (128 * n))).1) s
            .next (updTile s1 l t fun x => { x with ra := mput x.ra k { g with loads := g.loads ++ [addrNat (genBase d v)] } })

/-! ### Marker rounds -/

/-- The bound outputs on which a marker is published: a route into a CUT track gets none (R180, R407). -/
def markOuts (ls : Lease) (x : Plane) (t k : Nat) : List Nat := (boundOut x k).filter fun j => !outToCut ls x t k j

/-- A marker is published on every output of a list. -/
def pubMark (c : Ctx) (outs : List Nat) (t : Tok) (inc : BitVec 8) : Ctx :=
  outs.foldl (fun c j =>
    let o := outPort c j
    { c with outs := mput c.outs j { o with pub := o.pub ++ [{ t with inc := inc }] } }) c

/-- The round of a marker token. -/
def markNo (t : Tok) : Nat := laneAt t.data 0 % 65536

/-- The round of the first marker that a port holds: tokens ahead of it that start nothing stay (R180, R181). -/
def firstMark (i : InPort) : Option Nat := (i.q.find? isMark).map markNo

/-- Removal of the first marker of round `n` from each bound input. -/
def takeMarks (x : Plane) (c : Ctx) (k n : Nat) : Ctx :=
  (boundIn x k).foldl (fun c p =>
    let i := inPort c p
    match i.q.findIdx? (fun t => isMark t && markNo t == n) with
    | some j => { c with ins := mput c.ins p ⟨i.q.eraseIdx j, if j = 0 then 0 else i.used⟩ }
    | none => c) c

/-- The marker of round `n` at a bound input is poisoned (R148). -/
def markPois (x : Plane) (c : Ctx) (k n : Nat) : Bool :=
  (boundIn x k).any fun p => match (inPort c p).q.find? fun t => isMark t && markNo t == n with
    | some t => t.pois != 0
    | none => false

/-- Is the firing in progress stalled in a way that a Shunter round may suspend (R393)? -/
def suspendable (ls : Lease) (x : Tile) (k : Nat) (c : Ctx) : Bool :=
  match c.fire with
  | none => c.frozen.isSome
  | some f =>
    c.frozen.isSome ||
    (match f.wait with
     | .mem _ => true
     | .gbar _ _ => true
     | _ =>
       match decodeOp (progWord x.act f.pc) none with
       | .ok (.waitf p n) => !(inPort c p.toNat).q.any (fun t => !isData t) && (inPort c p.toNat).q.length < n.toNat
       | .ok (.waite p n) => outFree x.act c k p.toNat < n.toNat
       | .ok (.emit p _) => outFree x.act c k p.toNat == 0
       | .ok (.eos none) => (boundOut x.act k).any fun j => outFree x.act c k j == 0
       | .ok (.eos (some p)) => outFree x.act c k p.toNat == 0
       | _ =>
         let d := (progWord x.act f.pc).toNat / 2 ^ 16 % 32
         let cls := (progWord x.act f.pc).toNat / 2 ^ 30
         ls.state == .drain && cls != 1 && 24 ≤ d && d < 28 && outFree x.act c k (d - 24) == 0)

/-- ENTER_ROUND (R180, R182, R393): the markers are removed and marker n is published; it waits behind its output's data for a slot,
as data does. A closed context passes on every marker that reaches one of its inputs. A context whose firing is stalled, or that is
frozen, enters a Shunter round suspended whatever its inputs hold; the markers that reach it later are removed. A poisoned marker
faults and freezes the context before the round (R148). -/
def execEnterRound (l t k : Nat) (s : State) : Res :=
  match leaseOf s l with
  | none => .next s
  | some ls =>
    match tileOf ls t with
    | none => .next s
    | some x =>
      let c := ctxOf x k
      let ins := boundIn x.act k
      let inc := incOf s ls t
      let outs := markOuts ls x.act t k
      let unlessPois (n : Nat) (f : Ctx → Ctx) : Res :=
        if markPois x.act c k n then (if c.frozen.isSome then .next s else .next (freezeAt s l t k c cPCTL .round))
        else .next (updCtx s l t k f)
      if !leaseLive s ls || x.passed then .next s
      else if c.closed then
        match ins.findSome? fun p => ((inPort c p).q.find? isMark).map fun m => (p, m) with
        | some (p, m) => unlessPois (markNo m) fun c =>
            let i := inPort c p
            pubMark { c with entered := some (markNo m), ins := mput c.ins p ⟨i.q.erase m, 0⟩ } outs m inc
        | none => .next s
      else match c.entered.filter fun n => ins.any fun p => (inPort c p).q.any fun t => isMark t && markNo t == n with
        | some n => unlessPois n fun c => takeMarks x.act c k n
        | none =>
          match ls.round with
          | none => .next s
          | some rd =>
            let n := rd.n
            let calm := c.fire.isNone && c.frozen.isNone && (runnables x k).isEmpty &&
              (if ins = [] then c.mark == some n else ins.all fun p => firstMark (inPort c p) == some n)
            let susp := rd.shunter && rd.isHold && suspendable ls x k c
            if c.entered != some n && (calm || susp) then
              unlessPois n fun c =>
                { pubMark (takeMarks x.act c k n) outs (markerTok n rd.isHold) inc with
                  entered := some n
                  mark := none
                  hold := rd.isHold }
            else .next s

/-! ### Closing -/

/-- Has the port ended (R185)? -/
def ended (c : Ctx) (p : Nat) : Bool := (inPort c p).q.any isEos
/-- Tokens of a port ahead of its EOS. -/
def aheadEos (c : Ctx) (p : Nat) : List Tok := (inPort c p).q.takeWhile fun t => !isEos t

/-- The context closes by its inputs, or by its parent's last done (R185). -/
def mayClose (ls : Lease) (x : Tile) (k : Nat) : Bool :=
  let c := ctxOf x k
  let ins := boundIn x.act k
  !c.closed && c.frozen.isNone && c.fire.isNone && !c.hold && (runnables x k).isEmpty &&
    (if ins = [] then gated x.act k && ls.rootFin && !c.goOpen else ins.all (ended c)) &&
    !ins.any (fun p => (aheadEos c p).any isMark)

/-- EOS on the bound outputs that have none, and the context is closed (R75, R174, R185). DESIGN CHOICE: one without a bound output
frees its buffers here (log 111). -/
def closeNow (s : State) (l t k : Nat) (ls : Lease) (x : Tile) : State :=
  let outs := (boundOut x.act k).filter fun j => !nhas (ctxOf x k).eosSent j
  let s1 := updCtx s l t k fun c =>
    let c1 := (boundIn x.act k).foldl (fun c p =>
      let q := (inPort c p).q
      { c with ins := mput c.ins p ⟨(q.dropWhile fun t => !isEos t).drop 1, 0⟩ }) c
    { outs.foldl (fun c j => publishTok c j eosTok (incOf s ls t)) c1 with eosSent := outs.foldl nadd c1.eosSent }
  closeCtx (freeEdges s1 l t k) l t k

/-- CONTEXT_CLOSE (R148, R185): leftover tokens fault RATE_VIOLATION, and a poisoned EOS faults POISON_CONTROL; either freezes the
context before it closes. -/
def execContextClose (l t k : Nat) (s : State) : Res :=
  match leaseOf s l with
  | none => .next s
  | some ls =>
    match tileOf ls t with
    | none => .next s
    | some x =>
      let c := ctxOf x k
      if !leaseLive s ls || x.passed || !mayClose ls x k then .next s
      else match (boundIn x.act k).find? fun p => !(aheadEos c p).isEmpty with
        | some p =>
          .next (freezeAt s l t k c cRATE .close fun r => { r with port := p, cnta := (aheadEos c p).length })
        | none =>
          if (boundIn x.act k).any fun p => ((inPort c p).q.find? isEos).any fun e => e.pois != 0 then
            .next (freezeAt s l t k c cPCTL .close)
          else if ((boundOut x.act k).filter fun j => !nhas c.eosSent j).all fun j => 1 ≤ outFree x.act c k j then
            .next (closeNow s l t k ls x)
          else .next s

end Sys2Proof.Machine
end

