-- ==== Sys2Proof/Machine/Fabric.lean ====
section
/-! DEFINITION. The switch and the tracks: switch words (R359 to R362), landings (R67, R73, R168, R170, R188, R359,
R361, R362, R407, R413), credits (R168), edge buffers (R73, R363) and the fabric cycle (R163, R178). -/

namespace Sys2Proof.Machine

/-! ### Tracks -/

/-- A HOLD word stands on the track (R361). -/
def holdOn (x : Plane) (tr : Nat) : Bool := trackWord x fun w => match w with
  | .hold a => a.toNat == tr
  | _ => false
/-- The delay that a DLY word adds, 0 without one (R361). -/
def dlyOn (x : Plane) (tr : Nat) : Nat := ((swWords x).findSome? fun w => match w with
  | .dly a d => if a.toNat = tr then some (d.toNat + 1) else none
  | _ => none).getD 0

/-- Tokens on an outgoing track, the one nearest its end first, each with the fc of delay left. The one at distance
`j` has key `tr + 16·j`. -/
def onTrack (x : Tile) (tr : Nat) : List (Nat × Tok) :=
  (x.tout.filter fun e => e.1 % 16 == tr).map fun e => (mget 0 x.dly e.1, e.2)
/-- The tokens of an outgoing track become `l`. -/
def setTrack (x : Tile) (tr : Nat) (l : List (Nat × Tok)) : Tile :=
  { x with
    tout := (l.zipIdx).foldl (fun m e => mput m (tr + 16 * e.2) e.1.2) (x.tout.filter fun e => e.1 % 16 != tr)
    dly := (l.zipIdx).foldl (fun m e => mset 0 m (tr + 16 * e.2) e.1.1) (x.dly.filter fun e => e.1 % 16 != tr) }
/-- Has the track a credit? One for the hop, and one per fc of delay, with any that has been lost or duplicated; tokens wait
upstream of a closed HOLD (R359, R361, R422). -/
def trackRoom (x : Tile) (tr : Nat) : Bool :=
  decide (((onTrack x tr).length : Int) < 1 + dlyOn x.act tr + mget 0 x.cred tr) && !(holdOn x.act tr && !x.holdOpen)
/-- A token enters an outgoing track. -/
def enterTrack (x : Tile) (tr : Nat) (k : Tok) : Tile := setTrack x tr (onTrack x tr ++ [(dlyOn x.act tr, k)])

/-! ### Moving tokens through the switch -/

/-- The head token of a source endpoint: an incoming track, or an output port of a context (R359). -/
def srcHead (x : Tile) (src k : Nat) : Option Tok :=
  if src < 16 then mfind x.tin src
  else match (outPort (ctxOf x k) (src - 24)).pub with
    | t :: _ => some t
    | [] => none
/-- The head of a source leaves; the slot of an output port stays due until its credit returns (R168). -/
def takeHead (x : Tile) (src k : Nat) : Tile :=
  if src < 16 then { x with tin := mdel x.tin src }
  else
    let c := ctxOf x k
    let o := outPort c (src - 24)
    setCtx x k { c with outs := mput c.outs (src - 24) { o with pub := o.pub.drop 1, due := o.due + 1 } }
/-- The incoming track of a port with a duplicated permit (R422). -/
def dupTrack (x : Tile) (k p : Nat) : Option Nat :=
  (List.range 16).find? fun it => decide (0 < mget 0 x.cred (16 + it)) && (destsOf x.act it 0).contains (16 + p, k)
/-- Is there a credit for an input port (R168)? A free slot behind nothing that is still arriving, or a duplicated permit. -/
def portRoom (x : Tile) (k p : Nat) : Bool :=
  (mfind x.inl (8 * k + p)).isNone &&
    (!bound x.act k p || decide ((inPort (ctxOf x k) p).q.length < depth x.act k p) || (dupTrack x k p).isSome)
/-- Is there room at a destination: an outgoing track, or an input port? -/
def dstRoom (x : Tile) (d k : Nat) : Bool := if d < 16 then trackRoom x d else portRoom x k (d - 16)
/-- A token is put at a destination. -/
def putAt (x : Tile) (d k : Nat) (t : Tok) : Tile :=
  if d < 16 then enterTrack x d t else { x with inl := mput x.inl (8 * k + (d - 16)) t }

/-- The sources that a plane leads to a destination, each with its context (R360). -/
def sourcesOf (x : Plane) (d k : Nat) : List Nat :=
  (swWords x).filterMap fun w =>
    let go (a b : Nat) (c : Nat) : Option Nat :=
      if b == d && (d < 16 || c == k) then some (a + 32 * (if a < 16 then 0 else c)) else none
    match w with
    | .route a b c => go a.toNat b.toNat c.toNat
    | .merge a b c => go a.toNat b.toNat c.toNat
    | _ => none

/-- What a merged destination has seen of a source: kind 0 its EOS, kind 1 its marker of the open round. -/
def seenKey (kind d k src : Nat) : Nat := kind * 16384 + (d + 32 * (if d < 16 then 0 else k)) * 128 + src
/-- The marker of the open round has left a CUT track (R407). -/
def cutKey (tr : Nat) : Nat := 3 * 16384 + tr

/-- What a merged destination does with the head of a source (R360). -/
inductive MAct | pass | absorb | wait
  deriving DecidableEq, Repr

/-- The decision of R360: an EOS or a marker is held back until every source has delivered its own, and later tokens
of a source that has delivered its own wait meanwhile. A source that has ended counts as having delivered every marker. -/
def mergeAct (x : Tile) (d k src : Nat) (t : Tok) : MAct :=
  let ss := sourcesOf x.act d k
  let hasE (a : Nat) : Bool := nhas x.eosSeen (seenKey 0 d k a)
  let hasM (a : Nat) : Bool := nhas x.eosSeen (seenKey 1 d k a)
  let others := ss.filter (· != src)
  if others = [] then .pass
  else if hasM src || (hasE src && !isMark t && !others.all hasE) then .wait
  else if isEos t then (if others.all hasE then .pass else .absorb)
  else if isMark t then
    (if hasE src then .absorb else if others.all (fun a => hasE a || hasM a) then .pass else .absorb)
  else .pass

/-- The bookkeeping of a decision. -/
def mergeMark (x : Tile) (d k src : Nat) (t : Tok) : Tile :=
  let ss := sourcesOf x.act d k
  if ss.length < 2 then x
  else if isEos t then { x with eosSeen := nadd x.eosSeen (seenKey 0 d k src) }
  else if isMark t && !nhas x.eosSeen (seenKey 0 d k src) then
    if mergeAct x d k src t = .pass then
      { x with eosSeen := ss.foldl (fun m a => ndel m (seenKey 1 d k a)) x.eosSeen }
    else { x with eosSeen := nadd x.eosSeen (seenKey 1 d k src) }
  else x

/-- A marker that every source has delivered, the last by ending, is forwarded (R360). -/
def mergeFlush (rd : Tok) (x : Tile) (d k : Nat) : Tile :=
  let ss := sourcesOf x.act d k
  let hasM (a : Nat) : Bool := nhas x.eosSeen (seenKey 1 d k a)
  if ss.any hasM && ss.all (fun a => hasM a || nhas x.eosSeen (seenKey 0 d k a)) && dstRoom x d k then
    { putAt x d k rd with eosSeen := ss.foldl (fun m a => ndel m (seenKey 1 d k a)) x.eosSeen }
  else x

/-- The marker of the lease's latest round. -/
def roundTok (ls : Lease) : Tok :=
  match ls.round with
  | some r => markerTok r.n r.isHold
  | none => markerTok ls.mround false

/-- The head of a source leaves at every destination at once, or waits until all have room (R360). -/
def moveHead (rd : Tok) (x : Tile) (src k : Nat) : Tile :=
  let ds := destsOf x.act src k
  let x0 := ds.foldl (fun x d => mergeFlush rd x d.1 d.2) x
  match srcHead x0 src k with
  | none => x0
  | some t =>
    let sk := src + 32 * (if src < 16 then 0 else k)
    let acts := ds.map fun d => (d, mergeAct x0 d.1 d.2 sk t)
    if ds = [] || acts.any (fun a => a.2 == .wait || (a.2 == .pass && !dstRoom x0 a.1.1 a.1.2)) then x0
    else
      let x1 := acts.foldl (init := takeHead x0 src k) fun x a =>
        let y := mergeMark x a.1.1 a.1.2 sk t
        if a.2 = .pass then putAt y a.1.1 a.1.2 t else y
      x1

/-- A switch word acts for the current switch. -/
def onSw (s : State) (f : Nat → Nat → Lease → Tile → State) : Res :=
  match s.cur with
  | .sw l t =>
    match leaseOf s l with
    | some ls => match tileOf ls t with
      | some x => .next (f l t ls x)
      | none => .fault .noAgent
    | none => .fault .noAgent
  | _ => .fault .noAgent

/-- Is a switch word of the route of a source damaged? The route is withheld then (R143). -/
def routeBad (x : Plane) (src k : Nat) : Bool :=
  (List.range 32).any fun i => (wordBad x 4 i || wordBad x 5 (256 + i)) && (match decodeSw (mget 0 x.sw i) with
    | .ok (.route a _ c) => a.toNat == src && (src < 16 || c.toNat == k)
    | .ok (.fork a _ c) => a.toNat == src && (src < 16 || c.toNat == k)
    | .ok (.merge a _ c) => a.toNat == src && (src < 16 || c.toNat == k)
    | _ => false)

/-- The tokens of a source move (R359, R360). -/
def moveSource (src k : Nat) (s : State) : Res :=
  onSw s fun l t ls _ => updTile s l t fun x => if routeBad x.act src k then x else moveHead (roundTok ls) x src k

/-- ROUTE (R360): each token taken at SRC leaves at DST and at the destinations that FORK words add. -/
def execRoute (src _d : BitVec 5) (c : BitVec 2) (s : State) : Res := moveSource src.toNat c.toNat s
/-- FORK (R360): the route of its SRC, of which it is one destination. -/
def execFork (src _d : BitVec 5) (c : BitVec 2) (s : State) : Res := moveSource src.toNat c.toNat s
/-- MERGE (R360): its SRC is one more source of the route to DST; which source goes first follows the order of the
turns (log 1). -/
def execMerge (src _d : BitVec 5) (c : BitVec 2) (s : State) : Res := moveSource src.toNat c.toNat s
/-- CUT (R361, R407) acts where its track lands a token; the word itself moves none. -/
def execCut (_t : BitVec 4) (_id : BitVec 8) (s : State) : Res := onSw s fun _ _ _ _ => s
/-- HOLD (R361) acts where its track lands a token; the word itself moves none. -/
def execHold (_t : BitVec 4) (s : State) : Res := onSw s fun _ _ _ _ => s
/-- DLY (R361) acts where a token enters its track; the word itself moves none. -/
def execDly (_t : BitVec 4) (_d : BitVec 8) (s : State) : Res := onSw s fun _ _ _ _ => s
/-- NOP of the switch (R360). -/
def execSwitchNop (s : State) : Res := onSw s fun _ _ _ _ => s
/-- FWL (R23, R362): the Shunter's word sets the edges that are closed. -/
def execFwl (closed : BitVec 4) (s : State) : Res :=
  onSw s fun l t _ _ => updTile s l t fun x => { x with fwl := closed }

/-! ### Landings -/

/-- Is an edge 0 N, 1 E, 2 S, 3 W closed (R237, R362)? -/
def edgeClosed (x : Tile) (e : Nat) : Bool := x.fwl.getLsbD (3 - e)

/-- A token enters an edge buffer: the sectors of its poisoned lanes are poisoned (R73, R83). -/
def enterBuffer (x : Tile) (b : EdgeBuf) (t : Tok) : Tile :=
  let i := (b.head + b.count) % b.slots
  let x1 := tileWr x (b.off + 128 * i) (slotBytes t) ((List.range 104).map fun j => decide (j < 96) && t.pois.getLsbD (j / 4))
  { x1 with ebs := x1.ebs.map fun e =>
      if e.off == b.off then { e with count := e.count + 1, bad := e.bad.filter fun q => q / 4 != i } else e }

/-- What a freed buffer still held leaves by its track, the oldest first (R88). -/
def emitKept (x : Tile) : Tile :=
  match x.kept.find? fun e => trackRoom x e.1 with
  | some e => { enterTrack x e.1 e.2 with kept := x.kept.erase e }
  | none => x

/-- The head of each edge buffer enters its outgoing track (R363). -/
def emitBuffers (x : Tile) : Tile :=
  x.ebs.foldl (init := emitKept x) fun x b =>
    if b.count = 0 || !trackRoom x (bits b.endp 5 5) then x
    else
      let t := slotRead x b b.head
      let x1 := enterTrack x (bits b.endp 5 5) t
      { x1 with ebs := x1.ebs.map fun e =>
          if e.off == b.off then { e with head := (e.head + 1) % e.slots, count := e.count - 1 } else e }

/-- A token is discarded with STRAY_TOKEN at a tile (R75, R184, R188, R359, R362). -/
def stray (s : State) (l t k : Nat) : State := noteFault s l t k cSTRAY

/-- The head of an outgoing track goes. -/
def popTrack (s : State) (l t tr : Nat) : State := updTile s l t fun x => setTrack x tr ((onTrack x tr).drop 1)

/-- What landing answers: the token waits, or a new state in which it has been taken. -/
inductive Landed
  | wait
  | ok (s : State)

/-- A token lands on the neighbour's incoming track or edge buffer (R359), unless an edge is closed (R362), the
neighbour has passed (R188) or takes nothing from the track; over a die boundary it goes by the crossing of its link (R15). A stale incarnation is dropped (R413). -/
def land (s : State) (l t tr : Nat) (ls : Lease) (x : Tile) (k : Tok) : Landed :=
  let lost (u : Nat) : Landed := .ok (stray s l u 0)
  if edgeClosed x (tr / 4) then lost t
  else match neighbour ls t (tr / 4) with
    | none => lost t
    | some u =>
      match tileOf ls u with
      | none => lost u
      | some y =>
        let it := landTrack tr
        let here := mget 0 s.incarn (tileDie ls t)
        let k' := { k with inc := incOf s ls u }
        if edgeClosed y (it / 4) || y.passed then lost u
        else if tileDie ls t != tileDie ls u && !crossed s (tileDie ls t) (tileDie ls u) then .wait
        else if tileDie ls t != tileDie ls u && k.inc != here then .ok s
        else match bufferAt y it with
          | some b => if b.count < b.slots then .ok (updTile s l u fun y => enterBuffer y b k') else .wait
          | none =>
            if destsOf y.act it 0 = [] then lost u
            else if (mfind y.tin it).isSome then .wait
            else .ok (updTile s l u fun y => { y with tin := mput y.tin it k' })

/-- The head of an outgoing track lands: DLY, HOLD and CUT words act here (R361, R407). -/
def trackLands (s : State) (l t tr : Nat) (ls : Lease) (x : Tile) : State :=
  let cut := cutOn x.act tr
  let opened := match ls.round with
    | some r => cut && !nhas x.eosSeen (cutKey tr) && !r.complete
    | none => false
  if opened then
    match land s l t tr ls x (roundTok ls) with
    | .wait => s
    | .ok s1 => updTile s1 l t fun x => { x with eosSeen := nadd x.eosSeen (cutKey tr) }
  else
    let held := cut && (match ls.round with
      | some r => r.isHold
      | none => false)
    match onTrack x tr with
    | [] => s
    | (d, k) :: _ =>
      if 0 < d || (holdOn x.act tr && !x.holdOpen) then s
      else if cut && isMark k then popTrack s l t tr
      else if held then s
      else match land s l t tr ls x k with
        | .wait => s
        | .ok s1 => popTrack s1 l t tr

/-- Is a tag accepted by a port (R170, R240)? -/
def accepts (x : Plane) (k p : Nat) (t : Tok) : Bool := !isData t || (pba x k p).testBit (18 + t.tag.toNat)

/-- The credit count of the link of an incoming track differs from its receiver's free slots by `v` at both ends (R422). -/
def setLink (s : State) (l t it : Nat) (v : Int) : State :=
  let s1 := updTile s l t fun x => { x with cred := mset 0 x.cred (16 + it) v }
  match (leaseOf s l).bind fun ls => neighbour ls t (it / 4) with
  | some u => updTile s1 l u fun x => { x with cred := mset 0 x.cred (landTrack it) v }
  | none => s1

/-- A token reaches a full input port on a duplicated permit: it is discarded with PORT_OVERFLOW, and the permit of its link is lost
until the audit restores it (R171, R386, R422; log 109). -/
def portOverflow (s : State) (l t k p : Nat) (x : Tile) : State :=
  let s1 := noteFault s l t k cOVERFLOW fun r => { r with port := p, cnta := 1, cntb := 0 }
  match dupTrack x k p with
  | some it => setLink s1 l t it (-1)
  | none => s1

/-- A token that has arrived becomes visible at its port, is diverted, or is discarded (R67, R168, R170, R171, R184). A damaged
port-binding word faults and withholds the token (R143). -/
def portLands (s : State) (l t k p : Nat) (x : Tile) (tk : Tok) : State :=
  let c := ctxOf x k
  let gone (y : Tile) : Tile := { y with inl := mdel y.inl (8 * k + p) }
  match [24 * k + 2 * p, 24 * k + 2 * p + 1].find? (wordBad x.act 2) with
  | some w =>
    if c.frozen.isSome then s else freezeAt s l t k c cPCTL .config fun r => { r with cfgid := match leaseOf s l with
      | some ls => cfgId 3 (keyRow ls t) (keyCol ls t) w
      | none => 0 }
  | none =>
  if !bound x.act k p then stray (updTile s l t gone) l t k
  else if accepts x.act k p tk then
    if (inPort c p).q.length < depth x.act k p then
      updTile s l t fun y => setCtx (gone y) k { c with ins := mput c.ins p { inPort c p with q := (inPort c p).q ++ [tk] } }
    else portOverflow (updTile s l t gone) l t k p x
  else if (pbb x.act k p).testBit 31 then
    let tr := bits (pbb x.act k p) 27 4
    if trackRoom x tr then updTile s l t fun y => enterTrack (gone y) tr tk else s
  else noteFault (updTile s l t gone) l t k cFORMAT fun r => { r with port := p }

/-- TOKEN_ARRIVAL (R67, R170, R359): codes 0 to 15 name an outgoing track, 16 + 8·context + port an input port. -/
def execTokenArrival (l t code : Nat) (s : State) : Res :=
  match leaseOf s l with
  | none => .next s
  | some ls =>
    match tileOf ls t with
    | none => .next s
    | some x =>
      if !leaseLive s ls then .next s
      else if code < 16 then .next (trackLands s l t code ls x)
      else match mfind x.inl (code - 16) with
        | some tk => .next (portLands s l t ((code - 16) / 8) ((code - 16) % 8) x tk)
        | none => .next s

/-- CREDIT_RETURN (R168): a slot of output port `j` is free again. With `k` from 4 on, an error of the link of outgoing track `j`:
where one permit was due `k` - 4 have come, none where it is lost (R422; log 26). -/
def execCreditReturn (l t k j : Nat) (s : State) : Res :=
  if k < 4 then
    .next (updCtx s l t k fun c =>
      let o := outPort c j
      if 0 < o.due then { c with outs := mput c.outs j { o with due := o.due - 1 } } else c)
  else
    match (leaseOf s l).bind fun ls => (tileOf ls t).bind fun x => (neighbour ls t (j / 4)).map fun u => (x, u) with
    | some (x, u) => .next (setLink s l u (landTrack j) (mget 0 x.cred j + k - 5))
    | none => .next s

/-! ### The fabric cycle -/

/-- PHASE and MISS of a tile in a new fc (R163, R166, R178), the delays of its tracks and its edge buffers. -/
def tileCycle (ls : Lease) (x : Tile) : Tile :=
  let x1 := if x.phaseOn then { x with phase := (x.phase + 1) % ls.img.ii } else x
  let x2 := (ctxs x1.act).foldl (init := x1) fun x k =>
    let c := ctxOf x k
    match dueOf ls x k with
    | some h => if c.fire.isNone && !runnable x k h then setCtx x k { c with miss := mset 0 c.miss h (satInc (mget 0 c.miss h) 16) } else x
    | none => x
  emitBuffers { x2 with dly := (x2.dly.map fun e => (e.1, e.2 - 1)).filter fun e => e.2 != 0 }

/-- A sequencer's CYCLE in a new fc (R256). -/
def seqCycle (q : Seq) : Seq := { q with cycle := (q.cycle + 1) % 2 ^ 64 }

/-- FABRIC_CYCLE (R4, R178): PHASE, MISS, the delays of DLY tracks, edge buffers and CYCLE go on by one fc of their lease;
time, and the watchdog and slice timers of placed leases, by one period of the nominal clock (R378, R380). -/
def execFabricCycle (s : State) : Res :=
  if s.fatal then .next { s with wall := s.wall + 1 }
  else .next { s with
    fc := s.fc + 1
    wall := s.wall + 1
    leases := mmap s.leases fun l ls =>
      if leaseLive s ls then
        let on := fcTurns s l
        { ls with
          fcs := if on then ls.fcs + 1 else ls.fcs
          wdog := ls.wdog + 1
          slice := ls.slice + 1
          seq := if on then seqCycle ls.seq else ls.seq
          seqR := if on then seqCycle ls.seqR else ls.seqR
          tiles := if on then mmap ls.tiles fun _ x => if x.passed then x else tileCycle ls x else ls.tiles }
      else ls }

end Sys2Proof.Machine
end

