-- ==== Sys2Proof/Machine/Fresh.lean ====
section
/-! DEFINITION. A lease at the moment its rectangle is granted: every table empty, every tile zero (R159, R163,
R253, R370). -/

namespace Sys2Proof.Machine

/-- The launch record of a lease that is named by nothing else (R367). -/
def Rec.blank : Rec :=
  { image := 0, w := 1, h := 1, prio := 0, pin := false, compact := false, reserve := 0, qos := 0, tlimit := 0,
    segs := [], deps := [], args := [], bad := 0 }

/-- An image of one granule that names no used tile (R245). -/
def Img.blank : Img :=
  { w := 1, h := 1, diealign := false, ii := 1, ssplit := 0, savesz := 1, chscope := 0, seq := 0, seqlen := 4,
    roles := [], cuts := [], strms := [], grps := [], saveReq := 0, imgEnd := 128 }

/-- The tiles of a rectangle that hold state: the used ones, and with SSPLIT > 0 every S tile (R71, R187, R245). -/
def leaseTiles (im : Img) : NSet :=
  (List.range (4 * im.w * im.h)).filter fun t =>
    nhas im.roles t || (im.ssplit != 0 && tileKind (t % (2 * im.w)) (t / (2 * im.w)) == 2)

/-- The lease of an image and a record, as a grant leaves it; its tiles are zero (R163, R253, R370). -/
def freshLease (im : Img) (r : Rec) : Lease :=
  { tenant := 0
    queue := 0
    task := 0
    slot := 0
    parent := none
    fromReserve := false
    col := 0
    row := 0
    rcol := 0
    rrow := 0
    paired := false
    seqNo := 0
    rseqNo := 0
    img := im
    lrec := r
    state := .run
    purpose := .none
    placed := true
    saves := 0
    endc := 0
    wdog := 0
    slice := 0
    claim := false
    lastMove := 0
    drainAt := 0
    cutAt := 0
    views := []
    shadows := []
    trackers := (List.range 16).map fun c => (c, Tracker.zero)
    groups := []
    streams := []
    ticket := 0
    tstat := []
    engines := []
    children := []
    round := none
    mround := 0
    markerMode := false
    phStarted := false
    phEnded := false
    finNext := false
    finalPh := false
    msgs := []
    goAfter := []
    goFloor := 0
    rootGo := false
    rootFin := false
    roots := 0
    cuttable := true
    commit := none
    tlb := []
    tdesc := []
    fcs := 0
    mput := 0
    mdone := 0
    recs := []
    posted := []
    unhandled := false
    mbox := 0
    saveBase := 0
    smap := []
    smark := []
    seq := Seq.zero
    seqR := Seq.zero
    tiles := (leaseTiles im).map fun t => (t, Tile.zero)
    log := []
    mismatches := 0
    ckWanted := false
    ndisc := 0
    disc := []
    meas := 0 }

end Sys2Proof.Machine
end

