-- ==== Sys2Proof/Machine/SeqEng.lean ====
section
/-! DEFINITION. Issue of engine operations (R277 to R281), EWAIT (R284), child launches and JOIN (R285,
R286, R367, R368, R377). -/

namespace Sys2Proof.Machine

/-! ### Descriptors -/

/-- A tensor descriptor of `16·K` bytes at the head of a byte list (R278). -/
def tdOf (b : List Byte) : Option TD :=
  let d (i : Nat) : Nat := fieldAt b (8 * i) 8
  let k := bits (d 0) 60 4
  let sp := bits (d 0) 56 4
  if 1 ≤ k && k ≤ 10 && sp ≤ 1 && bits (d 1) 32 32 == 0 && bits (d 1) 0 32 != 0 &&
      (List.range (k - 1)).all (fun i => bits (d (2 * i + 2)) 48 16 == 0 && bits (d (2 * i + 3)) 32 32 == 0 &&
        bits (d (2 * i + 3)) 0 32 != 0) then
    some ⟨sp, bits (d 0) 0 56, (bits (d 1) 0 32, 1) ::
      (List.range (k - 1)).map fun i => (bits (d (2 * i + 3)) 0 32, (BitVec.ofNat 48 (d (2 * i + 2))).toInt)⟩
  else none

/-- What reading a descriptor answers. -/
inductive EngRes
  | ok (k : EngKind) (s : State)
  | bad (cause addr : Nat) (s : State)
  | wait (job : Nat) (s : State)
  | busy (s : State)

/-- A descriptor read that continues: faults as a load, a poisoned word is POISON_ADDRESS (R148, R277). -/
def engRd (s : State) (l va n : Nat) (k : List Byte → State → EngRes) : EngRes :=
  match vread l (some false) (lineRuns va n) [] [] s with
  | .ok b p s1 => if p.any id then .bad cPADDR (va + ((p.findIdx? (· == true)).getD 0)) s1 else k b s1
  | .fault c a s1 => .bad c a s1
  | .wait j s1 => .wait j s1
  | .busy s1 => .busy s1

/-- The bytes of tensor descriptors, one behind the other (R277, R278); a rank that is none ends the descriptor. -/
def rdTds (l : Nat) : Nat → Nat → List Byte → (List Byte → State → EngRes) → State → EngRes
  | 0, _, acc, k, s => k acc s
  | n + 1, va, acc, k, s =>
    engRd s l va 16 fun h s1 =>
      let r := bits (fieldAt h 0 8) 60 4
      if r = 0 || 10 < r then k (acc ++ h) s1
      else engRd s1 l (va + 16) (16 * (r - 1)) fun b s2 => rdTds l n (va + 16 * r) (acc ++ h ++ b) k s2

/-- The tensor descriptors that the bytes hold, none where one is malformed. -/
def tdsOf : Nat → List Byte → Option (List TD)
  | 0, _ => some []
  | n + 1, b => (tdOf b).bind fun t => (tdsOf n (b.drop (16 * t.dims.length))).map (t :: ·)

/-- A whole descriptor is read: a header of `n` bytes and `k` tensor descriptors; then it is checked (R277). -/
def rdDesc (s : State) (l va n k : Nat) (f : List Byte → List TD → State → EngRes) : EngRes :=
  engRd s l va n fun h s1 => rdTds l k (va + n) [] (fun b s2 => match tdsOf k b with
    | some ts => f h ts s2
    | none => .bad cCONFIG va s2) s1

/-- The descriptor of ECOPY (R279). -/
def rdCopy (s : State) (l va : Nat) : EngRes :=
  rdDesc s l va 16 2 fun h ts s1 =>
    let total := bits (fieldAt h 0 8) 0 48
    match ts with
    | [src, dst] =>
      if fieldAt h 6 2 == 0 && fieldAt h 8 8 == 0 && tdSize src == total && tdSize dst == total then .ok (.copy total src dst) s1
      else .bad cCONFIG va s1
    | _ => .bad cCONFIG va s1

/-- The descriptor of EGATH (R280); ISIZE stands in bits [51:48]. -/
def rdGath (s : State) (l va : Nat) : EngRes :=
  rdDesc s l va 16 3 fun h ts s1 =>
    let d0 := fieldAt h 0 8
    let j := bits d0 0 48
    let isz := bits d0 48 4
    match ts with
    | [idx, tab, dst] =>
      if bits d0 52 12 == 0 && fieldAt h 8 8 == 0 && (isz == 4 || isz == 8) && tdSize idx == j * isz && tab.dims.length == 2 &&
          tdSize dst == j * (tab.dims.headD (0, 0)).1 then .ok (.gath j isz idx tab dst) s1
      else .bad cCONFIG va s1
    | _ => .bad cCONFIG va s1

/-- Sizes that a collective asks of its source and destination (R281). -/
def collSizes (op n c : Nat) : Nat × Nat :=
  if op = 1 then (c, n * c) else if op = 2 then (n * c, c) else (c, c)

/-- The entries of a member table: lease number, and the coupler of a remote member (R281). -/
def membersOf (m : List Byte) (np : Nat) : List (Nat × Option Nat) :=
  (List.range np).map fun i =>
    let e := fieldAt m (8 * i) 8
    (bits e 0 12, if e.testBit 20 then some (bits e 16 4) else none)

/-- The descriptor of ECOLL with its member table (R281); an entry that names an absent coupler is refused (R27). -/
def rdColl (s : State) (l va : Nat) : EngRes :=
  rdDesc s l va 32 2 fun h ts s1 =>
    let d0 := fieldAt h 0 8
    let np := bits d0 8 8 + 1
    let op := bits d0 0 4
    let ty := bits d0 4 3
    let mem := fieldAt h 8 8
    let c := fieldAt h 16 8
    let rank := bits d0 16 8
    let root := bits d0 24 8
    match ts with
    | [src, dst] =>
      if !(2 ≤ np && op ≤ 3 && ty ≤ 2 && !d0.testBit 7 && mem < 2 ^ 48 && mem % 8 == 0 && c < 2 ^ 48 && c % 4 == 0 &&
          fieldAt h 24 8 == 0 && rank < np && (op != 0 || root < np) &&
          tdSize src == (collSizes op np c).1 && tdSize dst == (collSizes op np c).2) then .bad cCONFIG va s1
      else engRd s1 l mem (8 * np) fun m s2 =>
        let ms := membersOf m np
        if ms[rank]? == some (l, none) && ms.all (fun e => (e.2.map (couplerLive s2.boot)).getD true) then
          .ok (.coll (bits d0 32 32) root rank np ty op c ms src dst) s2
        else .bad cCONFIG va s2
    | _ => .bad cCONFIG va s1

/-- Next ticket (R277). -/
def nextTicket (t : Nat) : Nat := if t = 0xFFFF then 1 else t + 1
/-- The ticket that leaves the latest 256 when `t` is assigned (R284). -/
def oldTicket (t : Nat) : Nat := (t - 1 + 65535 - 256) % 65535 + 1

/-- The operation is given its ticket and started (R277): it follows what the sequencer has issued before it (R133). -/
def engStart (s : State) (l : Nat) (q : Seq) (ls : Lease) (xd : BitVec 5) (sync : Option Nat) (shadow : Nat) (kind : EngKind) : State :=
  let t := nextTicket ls.ticket
  let e : EngOp :=
    { ticket := t
      shadow := shadow
      sync := sync
      after := nunion q.ord.outR q.ord.outW
      floor := max q.ord.floor (max q.ord.lastR q.ord.lastW)
      kind := kind }
  sharedDone (updLease s l fun ls =>
    { ls with
      ticket := t
      tstat := mput (mdel ls.tstat (oldTicket t)) t 2
      engines := ls.engines ++ [e] }) l xd t

/-- Issue of an engine operation (R277): alignment, the whole descriptor, its checks, the wait for one of 64 places, the ticket. The
descriptor is read once. -/
def engIssue (rd : State → Nat → Nat → EngRes) (xd xa xb : BitVec 5) (sync : Bool) (k : BitVec 2) (s : State) : Res :=
  onShared s [xd, xa, xb] fun l ls q =>
    let va := (xget q xa).toNat
    let sw := (xget q xb).toNat
    let start (kind : EngKind) (s : State) : State :=
      if 64 ≤ ls.engines.length then updSeq s l false fun q => { q with op := .engine kind }
      else engStart s l q ls xd (if sync then some sw else none) k.toNat kind
    match q.op with
    | .page _ => s
    | .engine kind => start kind s
    | _ =>
      if xpois q xa then seqFault s l false cPADDR va
      else if sync && xpois q xb then seqFault s l false cPADDR sw
      else if va % 16 ≠ 0 then seqFault s l false cALIGN va
      else if sync && sw % 16 ≠ 0 then seqFault s l false cALIGN sw
      else match rd s l va with
        | .bad c a s1 => seqFault s1 l false c a
        | .wait j s1 => updSeq s1 l false fun q => { q with op := .page j }
        | .busy s1 => s1
        | .ok kind s1 => if ls.paired && k = 3 then seqFault s1 l false cCONFIG va else start kind s1

/-- ECOPY (R277, R279). -/
def execEcopy (xd xa xb : BitVec 5) (sync : Bool) (k : BitVec 2) (s : State) : Res := engIssue rdCopy xd xa xb sync k s
/-- EGATH (R277, R280). -/
def execEgath (xd xa xb : BitVec 5) (sync : Bool) (k : BitVec 2) (s : State) : Res := engIssue rdGath xd xa xb sync k s
/-- ECOLL (R277, R281). -/
def execEcoll (xd xa xb : BitVec 5) (sync : Bool) (k : BitVec 2) (s : State) : Res := engIssue rdColl xd xa xb sync k s

/-! ### EWAIT -/

/-- EWAIT (R284): ticket mode with xb = X0, otherwise the wait for a generation of a sync word. -/
def execEwait (xd xa xb : BitVec 5) (s : State) : Res :=
  onShared s [xd, xa, xb] fun l ls q =>
    let n := bits (xget q xa).toNat 0 16
    match q.op with
    | .ewait _ => s
    | _ =>
      if xpois q xa then seqFault s l false cPCTL 0
      else if xb = 0 then
        match mfind ls.tstat n with
        | none => sharedDone s l xd 3
        | some 0 =>
          sharedDone (floorNow s l true) l xd 0
        | some 1 => sharedDone s l xd 1
        | some _ => s
      else
        let ea := (xget q xb).toNat
        if xpois q xb then seqFault s l false cPADDR ea
        else if ea % 16 ≠ 0 then seqFault s l false cALIGN ea
        else if 2 ^ 56 ≤ ea then seqFault s l false cTRANS ea
        else
          let (aft, fl) := seqOverlap s l false ea 16 none
          let (s1, id) := addReq s
            { iss := .seq l false, op := .swait n, view := 0, floor := fl, after := wide aft, acq := true, rel := false, scope := .panel,
              posted := false, stage := .issued, parts := [mkPart 0 ea 16], dst := .x xd 4 false, chain := none, pc := q.pc,
              word := q.word, born := 0, key := [] }
          updSeq s1 l false fun q => { q with op := .ewait id }

/-! ### Child launches -/

/-- The launch record's fields (R367), or none when a bit that must be zero is set or a dependence is of
a reserved kind (R368, R370). -/
def recOf (b : List Byte) : Option Rec :=
  let d (i : Nat) : Nat := fieldAt b (8 * i) 8
  let c := d 1
  let nd := bits c 4 3
  let deps := (List.range 4).map fun i => BitVec.ofNat 64 (d (4 + i))
  let seg (k : Nat) : Nat := bits (d 3) (16 * k) 16
  let depOk (x : Nat) : Bool :=
    match bits x 62 2 with
    | 1 => bits x 60 2 == 0
    | 2 => bits x 56 6 == 0 && bits x 32 16 == 0
    | _ => false
  if bits (d 0) 56 8 == 0 && bits (d 0) 0 6 == 0 && bits c 40 24 == 0 && !c.testBit 7 && nd ≤ 4 &&
      (List.range 4).all (fun k => bits (seg k) 12 3 == 0) && bits c 24 16 ≤ 40960 &&
      (List.range nd).all (fun i => depOk (d (4 + i))) then
    some
      { image := bits (d 0) 0 56
        w := bits c 8 8
        h := bits c 16 8
        prio := bits c 0 2
        pin := c.testBit 2
        compact := c.testBit 3
        reserve := bits c 24 16
        qos := bits (d 2) 32 32
        tlimit := bits (d 2) 0 32
        segs := ((List.range 4).filter fun k => (seg k).testBit 15).map fun k => (bits (seg k) 4 8, bits (seg k) 0 4)
        deps := deps.take nd
        args := (List.range 8).map fun i => BitVec.ofNat 64 (d (8 + i))
        bad := 0 }
  else none

/-- A record that failed R368 when it was read: it asks for no tiles, and its cause ends the child before placement. -/
def Rec.failed (cause : Nat) : Rec :=
  { image := 0, w := 0, h := 0, prio := 0, pin := false, compact := false, reserve := 0, qos := 0, tlimit := 0,
    segs := [], deps := [], args := [], bad := cause }

/-- What reading a launch record answers. -/
inductive RecRes
  | ok (r : Rec) (s : State)
  | bad (cause addr : Nat) (s : State)
  | wait (job : Nat) (s : State)
  | busy (s : State)

/-- A W or H of 0 is taken from the image's header (R367). -/
def Rec.sized (r : Rec) (x : Hdr) : Rec := { r with w := if r.w = 0 then x.w else r.w, h := if r.h = 0 then x.h else r.h }

/-- A launch record is read; a W or H of 0 is taken from the image's header, and a header that cannot be read or is poisoned fails the
record (R143, R367, R368). -/
def readRec (s : State) (l va : Nat) : RecRes :=
  match vread l (some false) (lineRuns va 128) [] [] s with
  | .wait j s1 => .wait j s1
  | .fault c a s1 => .bad c a s1
  | .busy s1 => .busy s1
  | .ok b p s1 =>
    if p.any id then .bad cPCTL va s1
    else match recOf b with
      | none => .ok (Rec.failed cCONFIG) s1
      | some r =>
        if r.w ≠ 0 && r.h ≠ 0 then .ok r s1
        else match vread l (some false) (lineRuns r.image 128) [] [] s1 with
          | .wait j s2 => .wait j s2
          | .busy s2 => .busy s2
          | .fault c _ s2 => .ok (Rec.failed c) s2
          | .ok hb q s2 => if q.any id then .ok (Rec.failed cPCTL) s2 else .ok (r.sized (hdrOf hb)) s2

/-- The lowest free child number (R285). -/
def freeChild (ls : Lease) : Option Nat := ((List.range 255).map (· + 1)).find? fun n => (mfind ls.children n).isNone

/-- LAUNCH and LAUNCHR (R285, R377): a LAUNCHR that waits for its reserve keeps the record that it has read. -/
def launchChild (fromRes : Bool) (xd xa : BitVec 5) (s : State) : Res :=
  onShared s [xd, xa] fun l ls q =>
    let va := (xget q xa).toNat
    let waits := match q.op with
      | .page _ => true
      | _ => false
    if waits then s
    else if xpois q xa then seqFault s l false cPADDR va
    else if va % 64 ≠ 0 then seqFault s l false cALIGN va
    else match (match q.op with
        | .launch r => RecRes.ok r s
        | _ => readRec s l va) with
      | .bad c a s1 => seqFault s1 l false c a
      | .wait j s1 => updSeq s1 l false fun q => { q with op := .page j }
      | .busy s1 => s1
      | .ok r s1 =>
        let tiles := (if ls.paired then 8 else 4) * r.w * r.h
        let v := vfOf s1 ls.tenant
        if !fromRes && v.tquota < v.tused + tiles + r.reserve then sharedDone s1 l xd (2 ^ 63 + 1)
        else match freeChild ls with
          | none => sharedDone s1 l xd (2 ^ 63 + 2)
          | some n =>
            if fromRes && ls.lrec.reserve < tiles then seqFault s1 l false cCONFIG va
            else if fromRes && reserveLeft ls < tiles then updSeq s1 l false fun q => { q with op := .launch r }
            else
              let s2 := if fromRes then s1 else updVf s1 ls.tenant fun v => { v with tused := v.tused + tiles + r.reserve }
              let s3 := updLease s2 l fun ls => { ls with children := mput ls.children n ⟨none, none, fromRes, tiles⟩ }
              sharedDone { s3 with cands := s3.cands ++ [⟨some l, ls.queue, ls.tenant, n, r, fromRes, ls.paired⟩] } l xd n

/-- LAUNCH (R285). -/
def execLaunch (xd xa : BitVec 5) (s : State) : Res := launchChild false xd xa s
/-- LAUNCHR (R285). -/
def execLaunchr (xd xa : BitVec 5) (s : State) : Res := launchChild true xd xa s

/-- JOIN (R286). -/
def execJoin (xd xa : BitVec 5) (s : State) : Res :=
  onShared s [xd, xa] fun l ls q =>
    let n := bits (xget q xa).toNat 0 8
    if xpois q xa then seqFault s l false cPCTL 0
    else match mfind ls.children n with
      | none => seqFault s l false cJOIN n
      | some c => match c.ended with
        | some st => sharedDone (updLease s l fun ls => { ls with children := mdel ls.children n }) l xd st
        | none => s

end Sys2Proof.Machine
end

