-- ==== Sys2Proof/Machine/Engine.lean ====
section
/-! DEFINITION. Engines: the accesses of an operation, made line by line in a free order, copies, gathers, collectives, and what
completion does (R86, R107, R120, R133 to R135, R147, R150 to R154, R277 to R283; log 52). -/

namespace Sys2Proof.Machine

/-! ### Places -/

/-- Where an access of an engine is served (R28, R29, R34, R53, R71, R278). -/
inductive EngAt
  | at (lc : Loc) (ver : Bool) (s : State)
  | bad (cause : Nat) (s : State)
  /-- A page of the pager, by its job (R57, R60). -/
  | wait (job : Nat) (s : State)

/-- The place of an address of a space: lease scratch, whose offsets are of 32 bits, or tenant virtual memory (R71). -/
def engAt (s : State) (l sp a : Nat) (x : Acc) : EngAt :=
  if sp = 1 then
    match leaseOf s l with
    | none => .bad cTRANS s
    | some ls =>
      match (if a < 2 ^ 32 then scratchMap a (granules ls) ls.img.ssplit else none) with
      | some (k, o) => .at (.tile (sTile ls k) o) false s
      | none => .bad cTRANS s
  else match placeOf s l a x with
    | .ok lc ver s1 => .at lc ver s1
    | .fault c s1 => .bad c s1
    | .wait j s1 => .wait j s1

/-- The operation with a ticket. -/
def engOp (s : State) (l t : Nat) : Option EngOp := (leaseOf s l).bind fun ls => ls.engines.find? fun e => e.ticket == t
/-- Change of an operation. -/
def setEng (s : State) (l t : Nat) (f : EngOp → EngOp) : State :=
  updLease s l fun ls => { ls with engines := ls.engines.map fun e => if e.ticket == t then f e else e }

/-! ### The end of an operation -/

/-- An operation is gone, with its status (R284); poison that it has delivered counts once (R153, R154). -/
def engDone (s : State) (l t st : Nat) : State :=
  let s1 := match engOp s l t, leaseOf s l with
    | some o, some ls => countDelivery s ls.tenant o.pois o.pva
    | _, _ => s
  updLease s1 l fun ls =>
    { ls with
      engines := ls.engines.filter fun e => e.ticket != t
      tstat := if (mfind ls.tstat t).isSome then mput ls.tstat t st else ls.tstat }

/-- A faulted operation: a record of source 2 with the ticket (R86, R283, R386). -/
def engFault (s : State) (l t cause addr : Nat) : State :=
  let st := match engOp s l t with
    | some o => o.kind.strad addr
    | none => false
  raise (engDone s l t 1) l { FRec.zero with source := 2, cause := cause, aux := t, faddr := addr, straddle := st }

/-! ### Reads -/

/-- From this key on, the bytes of the index sequence of EGATH. -/
def idxKey : Nat := 2 ^ 60

/-- Space and address of the byte that a key names: of the source from 0 on, or of an index. -/
def EngOp.at (o : EngOp) (k : Nat) : Nat × Nat :=
  match o.kind with
  | .copy _ src _ => (src.space, tdAddr src k)
  | .coll _ _ _ _ _ _ _ _ src _ => (src.space, tdAddr src k)
  | .gath _ _ idx tab _ =>
    let e := (tab.dims.headD (1, 0)).1
    if idxKey ≤ k then (idx.space, tdAddr idx (k - idxKey)) else (tab.space, tdAddr tab (mget 0 o.rows (k / e) * e + k % e))

/-- Is the operation a collective that has not met its other members yet? Its lines are those of its source. -/
def EngOp.gathering (o : EngOp) : Bool :=
  match o.kind with
  | .coll .. => o.res.isNone
  | _ => false
/-- The sequence whose lines the operation takes one by one. -/
def EngOp.seqTd (o : EngOp) : TD :=
  match o.kind with
  | .coll _ _ _ _ _ _ _ _ src _ => if o.gathering then src else o.kind.dst
  | k => k.dst

/-- Rows of EGATH that the bytes of a line belong to and whose index is not known yet (R280). -/
def EngOp.rowsOf (o : EngOp) (line : Nat) : List Nat :=
  match o.kind with
  | .gath _ _ _ tab dst =>
    ((tdIn dst line).map (· / (tab.dims.headD (1, 0)).1)).eraseDups.filter fun j => (mfind o.rows j).isNone
  | _ => []

/-- What is to be read for a line: indices first, then the bytes that go there. -/
def EngOp.reads (o : EngOp) (line : Nat) : List (Nat × Nat) :=
  let f (k : Nat) : Nat := (o.at k).2
  match o.kind, o.rowsOf line with
  | .gath _ n _ _ _, j :: r => keyRuns f ((j :: r).map fun j => (List.range n).map fun i => idxKey + j * n + i).flatten
  | .coll .., _ => if o.gathering then keyRuns f (tdIn o.seqTd line) else []
  | _, _ => keyRuns f (tdIn o.seqTd line)

/-- A read that leaves the panel: its reply brings the bytes of `n` keys from `k` on (R150, R152). -/
def engAsk (s : State) (l t : Nat) (ls : Lease) (k a n : Nat) (lc : Loc) : State × Nat :=
  let r : Req :=
    { iss := .engine l t, op := .read, view := 0, floor := 0, after := [], acq := false, rel := false, scope := .panel,
      posted := false, stage := .sent, parts := [{ mkPart k a n with loc := lc }], dst := .none, chain := none, pc := 0, word := 0,
      born := 0, key := [] }
  let (s1, id) := addReq s r
  (sendAll s1 id ls r, id)

/-- The bytes of device memory that an engine reads: from a copy of the anchor die where its floor allows it, from the pending
version of the checkpoint shadow for a paired lease, or at the home, which fills a copy (R107, R120, R133, R417). -/
def engMem (s : State) (l t : Nat) (ls : Lease) (o : EngOp) (pa n : Nat) (ver : Bool) : List Byte × List Bool × State :=
  let i := Issuer.engine l t
  match (if Config.useCopy s.nonce && pa < scratchBase && homeDie s.boot pa != issDie s i && !(ls.paired && ver) then copyAt s i o.floor pa
    else none) with
  | some c => let (b, q) := verBytes c.data c.pois (pa % 128) n; (b, q, bump s)
  | none =>
    let (b, q, s1) := memGet s pa n
    match (if ls.paired && ver && unitScrubbed s l (.mem pa) then findPend (lineOf s1 (pa / 128)) l 11 else none) with
    | some v => let (b, q) := verBytes v.data v.pois (pa % 128) n; (b, q, s1)
    | none => (b, q, fillAt s1 i pa (tickOf s1 (issDie s1 i)))

/-- Must an engine wait before it touches a place (R119, R415)? -/
def engHeld (s : State) (l t : Nat) (lc : Loc) : Bool :=
  heldLine s 0 (.engine l t) lc || (match lc with
    | .mem pa => s.dieGo && s.dieNo == servDie s pa && (s.dieState == 2 || s.dieState == 3)
    | _ => false)

/-- One run of the line at place `i` is read: `j` tells which. -/
def engRead (s : State) (l t : Nat) (ls : Lease) (o : EngOp) (i j : Nat) (c : EngCur) : State :=
  match c.rd[j]? with
  | none => s
  | some (k, n) =>
    let (sp, a) := o.at k
    let took (f : EngCur → EngCur) (o : EngOp) : EngOp := { o with cur := o.cur.modify i fun c => f { c with rd := c.rd.eraseIdx j } }
    let got (b : List Byte) (q : List Bool) (s : State) : State :=
      setEng s l t (took fun c => { c with got := c.got ++ (b.zipIdx.map fun e => (k + e.2, e.1, q.getD e.2 false)) })
    match engAt s l sp a .rd with
    | .bad cause s1 => engFault s1 l t cause a
    | .wait job s1 => setEng s1 l t fun o => { o with job := some job }
    | .at lc ver s1 =>
      if engHeld s1 l t lc then s1
      else match lc with
        | .mem pa => let (b, q, s2) := engMem s1 l t ls o pa n ver; got b q s2
        | .tile .. => let (b, q) := getBytes s1 l lc n; got b q s1
        | _ =>
          let (s2, id) := engAsk s1 l t ls k a n lc
          setEng s2 l t (took fun c => { c with wait := some id })

/-- The indices of the rows of a line have been read (R280): a poisoned one and one beyond the table fault; the first reading of a row's
index stands. -/
def engRows (s : State) (l t : Nat) (o : EngOp) (i : Nat) (c : EngCur) : State :=
  match o.kind with
  | .gath _ n idx tab _ =>
    let e1 := (tab.dims.getD 1 (0, 0)).1
    let bytesOf (j : Nat) : List (Byte × Bool) :=
      (List.range n).map fun b => ((c.got.find? fun g => g.1 == idxKey + j * n + b).map (·.2)).getD (0, false)
    let val (j : Nat) : Nat := leNat ((bytesOf j).map (·.1))
    let js := o.rowsOf c.line
    match js.find? fun j => (bytesOf j).any (·.2) || e1 ≤ val j with
    | some j => engFault s l t (if (bytesOf j).any (·.2) then cPADDR else cTRANS) (tdAddr idx (j * n))
    | none =>
      let o' := { o with rows := js.foldl (fun m j => mput m j (val j)) o.rows }
      setEng s l t fun _ => { o' with cur := o'.cur.modify i fun c => { c with rd := o'.reads c.line, got := [] } }
  | _ => s

/-! ### Writes -/

/-- A byte to write: address, value, poison. -/
abbrev EW := Nat × Byte × Bool

/-- Writes as runs of one line. -/
def ewRuns : List EW → List (Nat × List Byte × List Bool)
  | [] => []
  | (a, b, p) :: r =>
    match ewRuns r with
    | (c, bs, ps) :: t => if a + 1 = c && a / 128 = c / 128 then (a, b :: bs, p :: ps) :: t else (a, [b], [p]) :: (c, bs, ps) :: t
    | [] => [(a, [b], [p])]

/-- Zeroing under way in blocks of a tile's store that an engine writes is finished first (R59). -/
def tileReady (x : Tile) (o n : Nat) : Tile :=
  ((unitsOf 2048 o n).filter fun b => nhas x.zeroing b).foldl
    (fun x b => { setTileBank x (bankZero 2048 (tileBank x) b) with zeroing := ndel x.zeroing b }) x

/-- One run is written at a place of the panel: in place, or as a pending version of the shadow on a versioned line (R107, R120,
R133). -/
def engPut (s : State) (l : Nat) (ls : Lease) (shadow : Nat) (lc : Loc) (ver : Bool) (a : Nat) (bs : List Byte) (ps : List Bool) : State :=
  match lc with
  | .mem pa =>
    let s0 := dropCopies (unitsReady true s pa bs.length) (anchorDie ls) pa
    if ver then
      let doomed : Bool := match leaseOf s0 l with
        | some ls => (mget ⟨false, false⟩ ls.shadows shadow).doomed
        | none => true
      if doomed then s0
      else match pendWrite s0 l (8 + shadow) ls.tenant pa a (lineData s0 (pa / 128)) bs ps with
        | some s1 => updLease s1 l fun ls => { ls with shadows := mput ls.shadows shadow ⟨false, true⟩ }
        | none => doomShadow s0 l shadow
    else recheck (memPut (markStale s0 l lc a bs.length) pa bs ps) l lc bs.length
  | .tile t o =>
    let put (s : State) (t : Nat) : State :=
      putBytes (updTile s l t fun x => tileReady x o bs.length) l (.tile t o) bs ps
    let s1 := put s t
    if ls.paired then put s1 (t + replicaBase) else s1
  | _ => s

/-- What goes to a peer: one request per line, which the peer acknowledges (R135, R152). -/
def engTell (s : State) (l t : Nat) (ls : Lease) (parts : List Part) : State × Nat :=
  let r : Req :=
    { iss := .engine l t, op := .write, view := 0, floor := 0, after := [], acq := false, rel := false, scope := .panel,
      posted := false, stage := .sent, parts := parts, dst := .none, chain := none, pc := 0, word := 0, born := 0, key := [] }
  let (s1, id) := addReq s r
  (sendAll s1 id ls r, id)

/-- Arrivals of an operation of `n` bytes: one, or one per 2^31 bytes (R283). -/
def arrivalCount (n : Nat) : Nat := if n < 2 ^ 32 then 1 else (n + 2 ^ 31 - 1) / 2 ^ 31
/-- The arrival that counts byte `q` of the destination. -/
def arrivalOf (n q : Nat) : Nat := if n < 2 ^ 32 then 0 else q / 2 ^ 31

/-- The byte for position `q` of the destination. -/
def EngOp.byte (o : EngOp) (c : EngCur) (q : Nat) : Byte × Bool :=
  match o.res with
  | some r => r.getD q (0, false)
  | none => ((c.got.find? fun g => g.1 == q).map (·.2)).getD (0, false)

/-- A line of the destination is written at one instant (R87, R116, R133, R147): the poisoned line of a tenant whose host does not take
EP is withheld (R151). -/
def engLine (s : State) (l t : Nat) (ls : Lease) (o : EngOp) (i : Nat) (c : EngCur) : State :=
  let dst := o.kind.dst
  let qs := tdIn dst c.line
  let ws : List (Nat × EW) := qs.map fun q => (q, tdAddr dst q, o.byte c q)
  let as := ws.map (·.2.1)
  let a0 := as.foldl min (as.headD 0)
  let bad := ws.filter fun w => w.2.2.2
  let runs := ewRuns (ws.map (·.2))
  let done (s : State) (f : EngOp → EngOp) : State := setEng s l t fun o => f { o with cur := o.cur.eraseIdx i }
  let sent (o : EngOp) : EngOp :=
    let va : Option Nat := match bad, o.res with
      | w :: _, none => if (o.at w.1).1 = 0 then some (o.at w.1).2 else o.pva
      | _, _ => o.pva
    { o with
      pois := o.pois || !bad.isEmpty
      pva := va
      apois := bad.foldl (fun m w => nadd m (arrivalOf (tdSize dst) w.1)) o.apois }
  match engAt s l dst.space a0 .wr with
  | .bad cause s1 => engFault s1 l t cause a0
  | .wait job s1 => setEng s1 l t fun o => { o with job := some job }
  | .at lc ver s1 =>
    if engHeld s1 l t lc then s1
    else match lc with
      | .host _ =>
        if !bad.isEmpty && !(vfOf s1 ls.tenant).epok then
          done s1 fun o => { o with withheld := some (match o.withheld with
            | some w => min w a0
            | none => a0) }
        else
          let tag := hostTag s1 ls.tenant (sliceDie ls a0)
          let s2 := runs.foldl (fun s r => match locAdd lc (r.1 - a0) with
            | .host h => hostWr s tag h r.2.1 r.2.2
            | _ => s) (bump s1)
          done s2 fun o => { sent o with ports := nadd o.ports tag.port }
      | .peer .. =>
        let (s2, id) := engTell s1 l t ls (runs.map fun r =>
          { mkPart 0 r.1 r.2.1.length with loc := locAdd lc (r.1 - a0), data := r.2.1, pois := r.2.2 })
        done s2 fun o => { sent o with out := nadd o.out id }
      | _ => done (runs.foldl (fun s r => engPut s l ls o.shadow (locAdd lc (r.1 - a0)) ver r.1 r.2.1 r.2.2) s1) sent

/-! ### Collectives -/

/-- The sum of two elements of a collective (R282): 0 I32, 1 F32, 2 BF16. -/
def collAdd (ty a b : Nat) : Nat :=
  if ty = 0 then (a + b) % 2 ^ 32 else if ty = 1 then addF32 a b else (fAdd bf16 a b).1

/-- Element-wise sum of byte strings in rank order (R282), with the poison of each result's lane. -/
def collSum (ty : Nat) (xs : List (List (Byte × Bool))) (n : Nat) : List (Byte × Bool) :=
  let w := if ty = 2 then 2 else 4
  let el (x : List (Byte × Bool)) (i : Nat) : Nat := leNat (((x.drop (w * i)).take w).map (·.1))
  let bs := (List.range (n / w)).map fun i => match xs with
    | [] => List.replicate w 0
    | a :: r => leBytes w (r.foldl (fun s x => collAdd ty s (el x i)) (el a i))
  (bs.flatten.zipIdx).map fun e => (e.1, xs.any fun x => ((x.drop (e.2 / 4 * 4)).take 4).any (·.2))

/-- What member `rank` receives of the sources in rank order (R281). -/
def collResult (op ty root count rank : Nat) (xs : List (List (Byte × Bool))) : List (Byte × Bool) :=
  match op with
  | 0 => xs.getD root []
  | 1 => xs.flatten
  | 2 => collSum ty (xs.map fun x => (x.drop (rank * count)).take count) count
  | _ => collSum ty xs count

/-- A member of a collective: its lease, and its operation with the fields that all must share. -/
structure Member where
  lease : Nat
  op : EngOp
  rank : Nat
  same : List Nat
  table : List (Nat × Option Nat)

/-- The outstanding collective of a lease of a tenant with a CID (R1, R281). -/
def collOf (s : State) (tenant m cid : Nat) : Option Member :=
  match leaseOf s m with
  | none => none
  | some ls =>
    if ls.tenant != tenant then none
    else ls.engines.findSome? fun e => match e.kind with
      | .coll c root rank np ty op count ms _ _ => if c == cid then some ⟨m, e, rank, [root, np, ty, op, count], ms⟩ else none
      | _ => none

/-- The local members that a table names, with their ranks in it. -/
def membersIn (s : State) (tenant cid : Nat) (ms : List (Nat × Option Nat)) : List (Nat × Member) :=
  (ms.zipIdx).filterMap fun e => if e.1.2.isNone then (collOf s tenant e.1.1 cid).map fun m => (e.2, m) else none

/-- Does a member detect a difference (R281)? A lease that its table names has other parameters; DESIGN CHOICE: or another rank than
the table gives it (log 112). -/
def collDiffers (s : State) (tenant cid : Nat) (m : Member) : Bool :=
  (membersIn s tenant cid m.table).any fun e => e.2.same != m.same || e.2.rank != e.1

/-- Bytes of a member's source, once all of it has been read. -/
def collBytes (o : EngOp) : Option (List (Byte × Bool)) :=
  match o.kind with
  | .coll _ _ _ _ _ _ _ _ src _ =>
    if o.left == some [] && o.cur.isEmpty then
      some ((List.range (tdSize src)).map fun q => ((o.src.find? fun g => g.1 == q).map (·.2)).getD (0, false))
    else none
  | _ => none

/-- A collective meets (R281): every member that detects a difference faults; once every local member has read its source and every
coupler is up, all of them have the result. What a remote member sends is outside the machine (log 3). -/
def collMeet (s : State) (ls : Lease) (o : EngOp) : State :=
  match o.kind with
  | .coll cid root _ np ty op count ms _ _ =>
    let here := membersIn s ls.tenant cid ms
    let bad := here.filter fun e => collDiffers s ls.tenant cid e.2
    if !bad.isEmpty then bad.foldl (fun s e => engFault s e.2.lease e.2.op.ticket cCONFIG 0) s
    else
      let n := if op = 2 then np * count else count
      let src (e : (Nat × Option Nat) × Nat) : Option (List (Byte × Bool)) := match e.1.2 with
        | some k =>
          let at_ := peerAt k (2 ^ 42 + e.2 * 2 ^ 33)
          if (couplerOf s k).up then some ((outByte s at_ n).zip (outPois s at_ n)) else none
        | none => match here.find? fun m => m.1 == e.2 with
          | some m => if m.2.op.res.isNone then collBytes m.2.op else none
          | none => none
      let xs := (ms.zipIdx).map src
      if xs.all Option.isSome then
        let xs := xs.filterMap id
        (here.foldl (init := bump s) fun s m => setEng s m.2.lease m.2.op.ticket fun o =>
          { o with res := some (collResult op ty root count m.1 xs), left := some (tdLines o.kind.dst), src := [] })
      else s
  | _ => s

/-! ### Completion -/

/-- Zero-length reads on the host ports that carried writes of the operation (R134, R135). -/
def engFlush (s : State) (l t : Nat) (o : EngOp) : State :=
  let go (a : State × NSet) (port : Nat) : State × NSet :=
    let r : Req :=
      { iss := .engine l t, op := .read, view := 0, floor := 0, after := [], acq := false, rel := false, scope := .sys, posted := true,
        stage := .sent, parts := [{ mkPart 0 0 0 with loc := .host 0 }], dst := .none, chain := none, pc := 0, word := 0, born := 0,
        key := [] }
    let (s1, id) := addReq a.1 r
    (emit s1 (.hostFlush port), nadd a.2 id)
  let (s1, ids) := o.ports.foldl go (s, [])
  setEng s1 l t fun o => { o with ports := [], out := nunion o.out ids }

/-- The next arrival of an operation whose writes have all been performed (R80, R134, R283): one that is refused makes it FAULTED. A
sync word at the host or a peer has no home of this panel (log 106). -/
def engArrive (s : State) (l t : Nat) (o : EngOp) (sw : Nat) : State :=
  let n := tdSize o.kind.dst
  let j := o.arrived.length
  match engAt s l 0 sw .rw with
  | .bad c s1 => engFault s1 l t c sw
  | .wait job s1 => setEng s1 l t fun o => { o with job := some job }
  | .at lc _ s1 =>
    if engHeld s1 l t lc then s1
    else match lc with
      | .mem pa =>
        (match arriveAt (unitsReady true s1 pa 16) l lc (if arrivalCount n = 1 then n else min (2 ^ 31) (n - j * 2 ^ 31)) (nhas o.apois j) with
         | some s2 => setEng s2 l t fun o => { o with arrived := nadd o.arrived j }
         | none => engFault s1 l t cPADDR sw)
      | _ => engFault s1 l t cPERM sw

/-- Every line of an operation is written: its writes outside are waited for, a withheld line faults, the arrivals are made, and it
is done (R134, R151, R283). -/
def engEnd (s : State) (l t : Nat) (o : EngOp) : State :=
  if o.ports != [] then engFlush s l t o
  else if o.out != [] then s
  else match o.withheld with
    | some a => engFault s l t cPEGR a
    | none => match o.sync with
      | some sw => if o.arrived.length < arrivalCount (tdSize o.kind.dst) then engArrive s l t o sw else engDone s l t 0
      | none => engDone s l t 0

/-! ### One step -/

/-- One step of a line in work: a read, the indices, or what is done once all of it has been read. -/
def engWork (s : State) (l t : Nat) (ls : Lease) (o : EngOp) (i pick : Nat) : State :=
  match o.cur[i]? with
  | none => s
  | some c =>
    if c.wait.isSome then s
    else if !c.rd.isEmpty then engRead s l t ls o i (pick % c.rd.length) c
    else if o.rowsOf c.line != [] then engRows s l t o i c
    else if o.gathering then setEng s l t fun o => { o with src := o.src ++ c.got, cur := o.cur.eraseIdx i }
    else engLine s l t ls o i c

/-- A line is taken up. -/
def engBegin (s : State) (l t : Nat) (o : EngOp) (lines : List Nat) (pick : Nat) : State :=
  let j := pick % lines.length
  let line := lines.getD j 0
  setEng s l t fun o' => { o' with left := some (lines.eraseIdx j), cur := o'.cur ++ [⟨line, o.reads line, none, []⟩] }

/-- ENGINE_COMPLETE (R133, R277 to R283): one step of an operation whose earlier accesses are performed: an access, made line by line in
a free order, a meeting, an arrival, or its completion (log 52). -/
def execEngineComplete (l t : Nat) (s : State) : Res :=
  match leaseOf s l, engOp s l t with
  | some ls, some o =>
    if s.fatal || (ls.state != .run && ls.state != .drain && ls.state != .save) || o.after != [] || o.job.isSome then .next s
    else match o.fail with
      | some (c, a) => .next (engFault s l t c a)
      | none =>
        let pick := Config.engPick s.nonce
        let s := bump s
        match o.left with
        | none => .next (setEng s l t fun o => { o with left := some (tdLines o.seqTd) })
        | some lines =>
          let n := o.cur.length + (if lines.isEmpty then 0 else 1)
          if n = 0 then .next (if o.gathering then collMeet s ls o else engEnd s l t o)
          else if pick % n < o.cur.length then .next (engWork s l t ls o (pick % n) (pick / n))
          else .next (engBegin s l t o lines (pick / n))
  | _, _ => .next s

end Sys2Proof.Machine
end

