-- ==== Sys2Proof/Machine/Queue.lean ====
section
/-! DEFINITION. Global queues: ownership, the queue registers with effects of their own, the queue record, retiring,
switching in and out (R364 to R366, R369, R371, R372, R381). -/

namespace Sys2Proof.Machine

/-! ### Accesses of the Shunter with a tenant's id -/

/-- What such an access answers. -/
inductive TV
  | ok (bs : List Byte) (ps : List Bool) (s : State)
  | bad (cause addr : Nat) (gpa : Nat) (s : State)
  | wait (s : State)

/-- What the Shunter waits for: one resolution per page, under lease 0xFFF (R57, R60). -/
def tvWait (s : State) (tenant va : Nat) (x : Acc) (entry : Nat) (leaf pin : Bool) (st : JSt) : TV :=
  match s.jobs.find? fun j => j.2.lease == 0xFFF && j.2.tenant == tenant && j.2.va / 65536 == va / 65536 with
  | some j => if j.2.st = .answered false then .bad cTRANS va 0 { s with jobs := mdel s.jobs j.1 } else .wait s
  | none =>
    let j : Job :=
      { tenant := tenant, lease := 0xFFF, die := 0, va := va, acc := x, entry := entry, leaf := leaf, pin := pin,
        claimed := false, frame := none, st := st, since := s.wall, parked := false }
    let s1 := { s with jobs := mput s.jobs s.nextId j, nextId := s.nextId + 1 }
    .wait (if st = .priWait then emit s1 (.pri s.nextId va) else s1)

/-- The place of one piece of such an access, within a line, after both stages, the tenant check and ATS (R34, R45, R53, R57). A page
that is not present is brought in under R60. -/
def tvAt (s : State) (tenant va : Nat) (x : Acc) : Except TV (Loc × State) :=
  if 2 ^ 56 ≤ va || !(vfOf s tenant).root.getLsbD 63 then .error (.bad cTRANS va 0 s)
  else match walk s tenant 0 va x true with
  | (.ok lc _, s1, _) =>
    if (match lc with
        | .mem pa => !tenantOk s1 tenant pa
        | _ => false) then .error (.bad cTENANT va 0 (countRefusal s1 tenant))
    else if atsMissed s1 tenant lc then .error (tvWait (bump s1) tenant va x 0 false false .priWait)
    else .ok (lc, s1)
  | (.fault c nd g, s1, _) => .error (.bad c va (g.getD 0) (transEvents s1 tenant 0xFFF (.fault c nd g)))
  | (.absent e lf pin, s1, _) => .error (tvWait s1 tenant va x e lf pin .token)

/-- Reading of pieces of lines. -/
def tvRead (tenant : Nat) : List (Nat × Nat) → List Byte → List Bool → State → TV
  | [], bs, ps, s => .ok bs ps s
  | (va, n) :: r, bs, ps, s =>
    match tvAt s tenant va .rd with
    | .error e => e
    | .ok (lc, s1) =>
      let (b, p, s2) := devGet s1 lc n
      tvRead tenant r (bs ++ b) (ps ++ p) (bump s2)

/-- Writing of bytes that lie within one line. -/
def tvWrite (s : State) (tenant va : Nat) (bs : List Byte) : TV :=
  match tvAt s tenant va .wr with
  | .error e => e
  | .ok (lc, s1) => .ok [] [] (devWr s1 (hostTag s1 tenant 0) lc bs (List.replicate bs.length false))

/-- The same where the outcome does not matter. -/
def tvPut (s : State) (tenant va : Nat) (bs : List Byte) : State :=
  match tvWrite s tenant va bs with
  | .ok _ _ s1 => s1
  | .bad _ _ _ s1 => s1
  | .wait s1 => s1

/-! ### Records and registers -/

/-- The queue of a function's local number (R364). -/
def queueOfVf (s : State) (v j : Nat) : Option (Nat × Queue) :=
  s.queues.find? fun e => e.2.v && e.2.vf == v && e.2.loc == j

/-- ERROR is set with its cause (R365, R428). -/
def queueError (s : State) (g cause : Nat) : State :=
  emit (updQueue s g fun q => { q with error := true, errc := cause }) (.msix (.vf (queueOf s g).vf) 1)

/-- The queue record's fields, none when malformed (R366). -/
def qrecOf (b : List Byte) : Option QRec :=
  let d (i : Nat) : Nat := fieldAt b (8 * i) 8
  let g := d 4
  if bits (d 0) 0 7 == 0 && bits (d 0) 56 8 == 0 && bits (d 1) 0 3 == 0 && bits (d 1) 56 8 == 0 &&
      bits (d 2) 0 12 == 0 && bits (d 2) 56 8 == 0 && bits (d 3) 0 12 == 0 && bits (d 3) 56 8 == 0 &&
      bits g 48 16 == 0 && !g.testBit 15 && bits g 4 4 == 0 && 1 ≤ bits g 16 32 && 1 ≤ bits g 8 7 && bits g 8 7 ≤ 64 &&
      1 ≤ bits g 0 4 && bits (d 5) 32 32 == 0 && bits (d 6) 32 32 == 0 && d 7 == 0 then
    some ⟨d 0, d 1, d 2, d 3, bits g 16 32, bits g 8 7, bits g 0 4⟩
  else none

/-- What reading a queue record answers. -/
inductive QRead
  | ok (r : QRec) (tail prog : Nat) (s : State)
  | bad (cause : Nat) (s : State)
  | wait (s : State)

/-- The record at QREC is read (R366). -/
def readQrec (s : State) (q : Queue) : QRead :=
  match tvRead q.vf (lineRuns q.qrec 64) [] [] s with
  | .wait s1 => .wait s1
  | .bad c _ _ s1 => .bad c s1
  | .ok b p s1 =>
    if p.any id then .bad cPCTL s1
    else match qrecOf b with
      | some r => .ok r (fieldAt b 0x28 4) (fieldAt b 0x30 4) s1
      | none => .bad cCONFIG s1

/-- The record of an enabled queue is read where that is due (R365, R366): the head becomes PROGRESS. Until then started tasks retire
by the record read before. -/
def loadQrec (s : State) (g : Nat) : State :=
  let q := queueOf s g
  if q.en && q.rd == .due then
    match readQrec s q with
    | .ok r _ _ s1 => updQueue s1 g fun q =>
        { q with parsed := some r, rd := .done, head := q.progress, headRec := none, depsOk := false }
    | .bad c s1 => queueError (updQueue s1 g fun q => { q with rd := .failed }) g c
    | .wait s1 => s1
  else s

/-- SAVEDTAIL is written into the record (R366, R381). -/
def saveTail (s : State) (g : Nat) : State := tvPut s (queueOf s g).vf ((queueOf s g).qrec + 0x28) (leBytes 8 (queueOf s g).stail)
/-- SAVEDPROG is written into the record (R366, R381). -/
def saveProg (s : State) (g : Nat) : State := tvPut s (queueOf s g).vf ((queueOf s g).qrec + 0x30) (leBytes 8 (queueOf s g).sprog)
/-- Both are written. -/
def saveCounts (s : State) (g : Nat) : State := saveProg (saveTail s g) g

/-- Would a tail leave more records than the ring holds (R372)? -/
def tailOver (q : Queue) (tail prog : Nat) : Bool :=
  match q.parsed with
  | some r => decide (2 ^ r.logrs < (tail + 2 ^ 32 - prog) % 2 ^ 32)
  | none => false

/-! ### Retiring -/

/-- PROGRESS passes every task of the retired prefix (R372). -/
def advanceProg : Nat → Queue → Queue
  | 0, q => q
  | fuel + 1, q =>
    if nhas q.retired q.progress then
      advanceProg fuel { q with progress := (q.progress + 1) % 2 ^ 32, retired := ndel q.retired q.progress }
    else q

/-- Task `n` of a queue retires (R372): the completion entry first, then PROGRESS; a queue that is not switched in
keeps SAVEDPROG as well (R381). None while the entry waits for its page. -/
def retireTask (s : State) (g n cause : Nat) : Option State × State :=
  let q := queueOf s g
  let entry := match q.parsed with
    | some r => tvWrite s q.vf (r.cpl + 8 * (n % 2 ^ r.logrs)) (leBytes 8 (n % 2 ^ 32 * 2 ^ 32 + cause % 256))
    | none => .ok [] [] s
  let go (s : State) : State :=
    let s1 := updQueue s g fun q => advanceProg (q.retired.length + 1) { q with retired := nadd q.retired n }
    if (queueOf s1 g).st = .inn then s1
    else saveProg (updQueue s1 g fun q => { q with sprog := q.progress }) g
  match entry with
  | .ok _ _ s1 => (some (go s1), s1)
  | .bad _ _ _ s1 => (some (go s1), s1)
  | .wait s1 => (none, s1)

/-! ### Events of the queue registers -/

/-- QOWN_WRITE (R364): a write that would give one local number two queues is ignored; V keeps its value while IN
is 1. -/
def execQownWrite (g : Nat) (val : Dword) (s : State) : Res :=
  let q := queueOf s g
  let n := val.toNat
  let v := if q.inn then q.v else n.testBit 63
  let vf := bits n 32 8
  let j := bits n 16 8
  let dup := v && s.queues.any fun e => e.1 != g && e.2.v && e.2.vf == vf && e.2.loc == j
  if 4096 ≤ g || dup then .next s
  else .next (updQueue s g fun q => { q with v := v, vf := vf, loc := j, weight := bits n 0 8 })

/-- QSW_IN_WRITE (R381): ignored while BUSY; with 512 queues in, IN stays 0 and QSLOTS_FULL is raised. -/
def execQswInWrite (g : Nat) (inn : Bool) (s : State) : Res :=
  let q := queueOf s g
  let places := (s.queues.filter fun e => e.2.st != .out).length
  if 4096 ≤ g || q.busy then .next s
  else if inn && q.st = .out then
    if 512 ≤ places then .next (pfEvent s 0x05 0xFFF 0xFFF 0xFF 0 g 0)
    else .next (updQueue s g fun q => { q with inn := true, busy := true, st := .switchingIn })
  else if !inn && q.st = .inn then
    .next (updQueue s g fun q => { q with inn := false, busy := true, st := .switchingOut })
  else .next s

/-- QUEUE_SWITCH_IN_COMPLETE (R381): the record has been read; TAIL and PROGRESS come from it, a held write is
applied, and the head stays as far behind PROGRESS as it was. A record that cannot be read leaves the queue OUT with ERROR. -/
def execQueueSwitchInComplete (g : Nat) (s : State) : Res :=
  let q := queueOf s g
  if q.st ≠ .switchingIn then .next s
  else match readQrec s q with
    | .wait s1 => .next s1
    | .bad c s1 => .next (queueError (updQueue s1 g fun q => { q with st := .out, inn := false, busy := false }) g c)
    | .ok r t p s1 =>
      let s2 := updQueue s1 g fun q =>
        { q with
          st := .inn
          busy := false
          parsed := some r
          rd := .done
          tail := q.heldTail.getD t
          heldTail := none
          progress := p
          head := if q.rd == .done then (p + (q.head + 2 ^ 32 - q.progress)) % 2 ^ 32 else p
          headRec := if q.rd == .done then q.headRec else none
          depsOk := q.rd == .done && q.depsOk }
      .next (if q.heldTail.isSome && tailOver (queueOf s2 g) (queueOf s2 g).tail p then queueError s2 g cOVERFLOW else s2)

/-- A switch out ends with the round (R381). -/
def switchOut (s : State) (g : Nat) : State :=
  if (queueOf s g).st = .switchingOut then
    saveCounts (updQueue s g fun q =>
      { q with st := .out, busy := false, stail := q.heldTail.getD q.tail, sprog := q.progress, heldTail := none }) g
  else s

/-- QUEUE_TAIL_WRITE (R365, R372, R381). -/
def execQueueTailWrite (v j : Nat) (tail : Word) (s : State) : Res :=
  match queueOfVf s v j with
  | none => .next s
  | some (g, q) =>
    let t := tail.toNat
    match q.st with
    | .inn =>
      let s1 := updQueue s g fun q => { q with tail := t }
      .next (if tailOver q t q.progress then queueError s1 g cOVERFLOW else s1)
    | .out =>
      let s1 := saveTail (updQueue s g fun q => { q with stail := t }) g
      .next (if tailOver q t q.sprog then queueError s1 g cOVERFLOW else s1)
    | _ => .next (updQueue s g fun q => { q with heldTail := some t })

/-- QCTL_EN_WRITE (R365): from 0 to 1 the record is read and the head becomes PROGRESS. -/
def execQctlEnWrite (v j : Nat) (en : Bool) (s : State) : Res :=
  match queueOfVf s v j with
  | none => .next s
  | some (g, q) =>
    if en && !q.en then
      .next (loadQrec (updQueue s g fun q => { q with en := true, rd := .due }) g)
    else .next (updQueue s g fun q => { q with en := en })

/-- ERRCLR (R365): ERROR and ERRC clear, starting resumes at the head, whose record stays as it was taken (R368). -/
def execErrclr (v j : Nat) (s : State) : Res :=
  match queueOfVf s v j with
  | none => .next s
  | some (g, _) => .next (updQueue s g fun q => { q with error := false, errc := 0, rd := if q.rd == .failed then .due else q.rd })

end Sys2Proof.Machine
end

