-- ==== Sys2Proof/Machine/Trap.lean ====
section
/-! DEFINITION. Records that wait for the mailbox (R387), the trap at an instruction boundary (R290, R388)
and the fetch conditions of a sequencer (R254, R294, R393). -/

namespace Sys2Proof.Machine

/-- Does an operation in progress let a mailbox record interrupt it (R290)? -/
def interruptible : SeqOp → Bool
  | .none => true
  | .cswap .. => true
  | .drain _ => true
  | .ewait _ => true
  | .page _ => true
  | .launch _ => true
  | _ => false

/-- A record waits and the sequencer stands at an instruction boundary (R388). -/
def trapDue (ls : Lease) (q : Seq) : Bool :=
  decide (ls.mdone < ls.mput) && !q.intrap && !q.stopped && interruptible q.op

/-- The sequencers of a pair stand at the same instruction. -/
def inStep (ls : Lease) : Bool := !ls.paired || (ls.seq.instr == ls.seqR.instr && interruptible ls.seqR.op)

/-- TRAP_TAKEN (R290, R388): the trap for record DONE, with EPC at the next instruction to issue, an acquire at
LEASE scope; with TVEC = 0 the trap is unhandled (R291). -/
def trapTakenAt (l : Nat) (s : State) : Res :=
  match leaseOf s l with
  | none => .next s
  | some ls =>
    let q := ls.seq
    if !trapDue ls q || !inStep ls then .next s
    else
      let drop (s : State) (q : Seq) : State := match q.op with
        | .ewait id => settle { s with reqs := mdel s.reqs id, waiters := s.waiters.filter fun w => w.req != id } id 0
        | _ => s
      let s1 := drop s q
      let s2 := updSeq (takeTrap s1 l false q.pc (mget FRec.zero ls.posted ls.mdone)) l false fun q =>
        { q with ord := { q.ord with floor := max q.ord.floor (tickOf s (anchorDie ls)) } }
      .next (mirror s2 l)

/-- TRAP_TAKEN (R388): of the sequencer whose turn it is. -/
def execTrapTaken (s : State) : Res := onLease s fun l => trapTakenAt l s

/-- FAULT_RECORD_WRITE (R387): the oldest record that waits at its source enters the mailbox, unless 63 are
unfinished. -/
def faultRecordWriteAt (l : Nat) (s : State) : Res :=
  match leaseOf s l with
  | none => .next s
  | some ls =>
    match ls.recs with
    | [] => .next s
    | r :: rest =>
      if 63 ≤ ls.mput - ls.mdone then .next s
      else .next (postRec (updLease s l fun ls => { ls with recs := rest }) l r)

/-- FAULT_RECORD_WRITE (R387). -/
def execFaultRecordWrite (s : State) : Res := onLease s fun l => faultRecordWriteAt l s

/-- Every running context has entered the Shunter's HOLD round (R393): the sequencer then stands still at
its next instruction boundary. -/
def cutRound (ls : Lease) : Bool :=
  ls.state == .drain && (match ls.round with
    | some r => r.shunter && roundDone ls r.n
    | none => false)

/-- May the sequencer issue (R291, R392, R393, R401)? -/
def seqMayIssue (s : State) (ls : Lease) (q : Seq) : Bool :=
  !s.fatal && !q.stopped && (ls.state == .run || (ls.state == .drain && !(cutRound ls && interruptible q.op)))

/-- What fetching answers: an instruction to run, the audit of a die, or a state in which nothing runs. -/
inductive Fetched
  | run (i : Instr) (s : State)
  | audit (die : Nat) (s : State)
  | idle (s : State)

end Sys2Proof.Machine
end

