-- ==== Sys2Proof/Machine/Drain.lean ====
section
/-! DEFINITION. Drains, the marker cut, saving and restoring (R64, R112, R137, R294, R378, R380, R392 to R397, R404, R406
to R410). -/

namespace Sys2Proof.Machine

/-! ### Drains -/

/-- Is the lease savable (R394, R406)? -/
def savable (ls : Lease) : Bool := decide (ls.img.saveReq ≤ 4096 * ls.img.savesz) && ls.cuttable

/-- No marker round is open that a round of the Shunter would have to follow (R273, R393). A round of the Shunter that
was released before it was complete counts until every context has passed its marker (log 22). -/
def roundFree (ls : Lease) : Bool :=
  match ls.round with
  | some r => if r.shunter then !r.isHold && roundDone ls r.n else r.complete
  | none => true

/-- The HOLD round of a drain is injected (R180, R393). -/
def injectHold (s : State) (l : Nat) : State :=
  match leaseOf s l with
  | some ls => injectRound s l ((ls.mround + 1) % 2 ^ 16) true true
  | none => s

/-- A drain of the Shunter begins (R392, R393): unless a commit stands before its write phase (R112). -/
def startDrain (s : State) (l : Nat) (p : Purpose) : State :=
  match leaseOf s l with
  | none => s
  | some ls =>
    if (match ls.commit with
        | some c => c.phase == 0
        | none => false) then s
    else
      let s1 := updLease s l fun ls => { ls with state := .drain, purpose := p, drainAt := s.wall }
      if roundFree ls then injectHold s1 l else s1

/-- A round of the Shunter is released (R182, R392): what stood beneath it comes back. A round that is not complete
lets its remaining markers pass without holding anything (log 22). -/
def releaseShunter (s : State) (l : Nat) : State :=
  updLease s l fun ls =>
    match ls.round with
    | none => ls
    | some r =>
      if !r.shunter || !r.isHold then ls
      else
        let keep := r.under == some true
        let done := roundDone ls r.n
        { ls with
          mround := r.n
          markerMode := !done || r.under.isSome
          round :=
            if keep then some ⟨r.n, true, false, true, none⟩
            else if done then none
            else some { r with isHold := false }
          tiles := mmap ls.tiles fun _ x =>
            { x with ctx := mmap x.ctx fun _ c =>
                { c with hold := keep, mark := if done then none else c.mark } } }

/-- A released round that every context has passed is over. -/
def closeRound (ls : Lease) : Lease :=
  match ls.round with
  | some r =>
    if r.shunter && !r.isHold && roundDone ls r.n then
      { ls with
        round := none
        markerMode := r.under.isSome
        tiles := mmap ls.tiles fun _ x => { x with ctx := mmap x.ctx fun _ c => { c with mark := none } } }
    else ls
  | none => ls

/-- The oldest unanswered page-fault resolution of the lease that is past the park limit and has not started a drain before (R64,
R392). -/
def parkDue (s : State) (l : Nat) : Option Nat :=
  (s.jobs.find? fun e => e.2.lease == l && !e.2.parked && decide (Config.parkLimit ≤ s.wall - e.2.since) &&
    (match e.2.st with
     | .answered _ => false
     | _ => true)).map (·.1)

/-- A drain to park the lease for a fault begins: the same fault is not parked again (R392). -/
def startPark (s : State) (l j : Nat) : State :=
  let s1 := startDrain s l .park
  if (leaseOf s1 l).any fun ls => ls.state == .drain then { s1 with jobs := mmod s1.jobs j fun x => { x with parked := true } } else s1

/-- PARK_LIMIT_EXPIRY (R64, R392). -/
def execParkLimitExpiry (l : Nat) (s : State) : Res :=
  match leaseOf s l with
  | none => .next s
  | some ls =>
    if ls.state == .run && savable ls then .next (((parkDue s l).map (startPark s l)).getD s) else .next s

/-- Is the watchdog's time over (R380)? -/
def watchdogDue (ls : Lease) : Bool := ls.lrec.tlimit != 0 && decide (ls.lrec.tlimit * Config.fcPerUs ≤ ls.wdog)

/-- WATCHDOG_EXPIRY (R380, R392): in RUN the lease is drained; a drain under way ends it. -/
def execWatchdogExpiry (l : Nat) (s : State) : Res :=
  match leaseOf s l with
  | none => .next s
  | some ls =>
    if !watchdogDue ls then .next s
    else match ls.state with
      | .run => .next (startDrain s l .watchdog)
      | .drain => .next (updLease s l fun ls => { ls with purpose := .watchdog })
      | _ => .next s

/-- DRAIN_TIMEOUT (R392): 100 us without completion. -/
def execDrainTimeout (l : Nat) (s : State) : Res :=
  match leaseOf s l with
  | none => .next s
  | some ls =>
    if ls.state != .drain || s.wall - ls.drainAt < Config.drainLimit then .next s
    else match ls.purpose with
      | .watchdog => .next (forceStop s l cDRAIN)
      | .checkpoint => .next s
      | _ =>
        .next (updLease (releaseShunter s l) l fun ls => { ls with state := .run, purpose := .none })

/-! ### The cut -/

/-- The request waits at a sync word. -/
def isWaitReq (r : Req) : Bool :=
  match r.op with
  | .swait _ => true
  | _ => false

/-- Does a request keep the cut from being complete (R137)? Those withheld, held at a tracker or at an exit, and those
that must follow one of them, are saved for their re-issue. -/
def blocksCut (r : Req) : Bool :=
  match r.stage with
  | .issued => r.after == []
  | .chain => true
  | .sent => !isWaitReq r && (r.after == [] || r.parts.any fun p => p.st != .new)
  | _ => false

/-- A sequencer stands at an instruction boundary, or at an access that is saved for its re-issue (R294). -/
def seqAtCut (s : State) (q : Seq) : Bool :=
  interruptible q.op || (match q.op with
    | .addr id => (match reqOf s id with
      | some r => !blocksCut r && r.stage != .performed
      | none => true)
    | _ => false)

/-- The cut of a drain is complete (R393). -/
def cutDone (s : State) (l : Nat) (ls : Lease) : Bool :=
  (match ls.round with
   | some r => r.shunter && r.isHold && roundDone ls r.n
   | none => false) &&
  ls.commit.isNone && ls.engines.isEmpty && seqAtCut s ls.seq && (!ls.paired || seqAtCut s ls.seqR) &&
  !(s.reqs.any fun e => issLease e.2.iss == l && blocksCut e.2)

/-- A request that is saved goes back to its slice: its parts are translated anew after the resume. -/
def rewind (r : Req) : Req :=
  if r.stage == .sent then
    let ps := r.parts.map partAnew
    { r with stage := stageAnew ps, parts := ps }
  else r

/-- The requests of a lease at its cut: a wait of EWAIT is abandoned, the others are saved (R64, R294). -/
def cutRequests (s : State) (l : Nat) : State :=
  let s1 := { s with
    waiters := s.waiters.filter fun w => w.lease != l
    reqs := mmap s.reqs fun _ r => if issLease r.iss == l then rewind r else r }
  [false, true].foldl (init := s1) fun s rep =>
    match (leaseOf s l).map (fun ls => (seqOf ls rep).op) with
    | some (.ewait id) => updSeq (settle { s with reqs := mdel s.reqs id } id 0) l rep fun q => { q with op := .none }
    | _ => s

/-- The timestamp at the anchor die of a lease (R89). -/
def nowStamp (s : State) (ls : Lease) : Nat := stamp (tickOf s (anchorDie ls)) (anchorDie ls)

/-- CUT_COMPLETE (R392, R393, R396): the round is injected where an open DRAIN round was in its way; once the cut is complete
the lease is saved, or stopped for its watchdog. -/
def execCutComplete (l : Nat) (s : State) : Res :=
  match leaseOf s l with
  | none => .next s
  | some ls =>
    if ls.state != .drain then .next s
    else if roundFree ls then .next (injectHold s l)
    else if !cutDone s l ls then .next s
    else
      let n := match ls.round with
        | some r => r.n
        | none => ls.mround
      let s1 := updLease (cutRequests s l) l fun ls =>
        { ls with round := ls.round.map fun r => { r with complete := true }, mround := n }
      if ls.purpose == .watchdog then .next (forceStop s1 l cWATCH)
      else .next (updLease s1 l fun ls => { ls with state := .save, cutAt := nowStamp s ls })

/-! ### The save area -/

/-- Polynomial of CRC-64 (ECMA-182). -/
def crcPoly : BitVec 64 := 0x42F0E1EBA9EA3693
/-- Eight shifts of the register. -/
def crcBits : Nat → BitVec 64 → BitVec 64
  | 0, c => c
  | n + 1, c => crcBits n (if c.getLsbD 63 then (c <<< 1) ^^^ crcPoly else c <<< 1)
/-- CRC-64 (ECMA-182) of a byte string (R396). -/
def crc64 (bs : List Byte) : BitVec 64 := bs.foldl (fun c b => crcBits 8 (c ^^^ BitVec.ofNat 64 (b.toNat * 2 ^ 56))) 0

/-- What preparing save-map pages answers. -/
inductive SmapRes
  | ok (s : State)
  /-- Cause, failing address, GPA. -/
  | bad (cause va gpa : Nat) (s : State)
  | wait (s : State)

/-- Lines (by number) are translated with R and W for the save map where they are not in it or their page is marked, and every one
passes the tenant check (R38, R395, R397). -/
def smapLines (l : Nat) : List Nat → State → SmapRes
  | [], s => .ok s
  | k :: r, s =>
    match leaseOf s l with
    | none => .ok s
    | some ls =>
      match (if nhas ls.smark (k / 32) then none else mfind ls.smap k) with
      | some pa =>
        if hostBase ≤ pa || tenantOk s ls.tenant pa then smapLines l r s
        else .bad cTENANT (k * 128) 0 (countRefusal s ls.tenant)
      | none =>
        match tvAt s ls.tenant (k * 128) .rw with
        | .ok (lc, s1) => smapLines l r (updLease s1 l fun ls => { ls with smap := mput ls.smap k ((dpaOf lc).getD 0) })
        | .error (.bad c va g s1) => .bad c va g s1
        | .error (.wait s1) => .wait s1
        | .error (.ok _ _ s1) => .wait s1

/-- The lines of pages of 4 KiB, given by number; the marks of the pages go once all of them have been walked. -/
def smapPages (l : Nat) (pages : List Nat) (s : State) : SmapRes :=
  match smapLines l (pages.map fun p => (List.range 32).map fun i => p * 32 + i).flatten s with
  | .ok s1 => .ok (updLease s1 l fun ls => { ls with smark := ls.smark.filter fun p => !pages.contains p })
  | x => x

/-- Page numbers of `[va, va+n)`. -/
def pageNos (va n : Nat) : List Nat := unitsOf 4096 va n

/-- Bytes are written through the save map line by line. -/
def smapWrAll (s : State) (l va : Nat) (bs : List Byte) : State :=
  (lineRuns va bs.length).foldl (init := s) fun s e =>
    match leaseOf s l with
    | none => s
    | some ls => smapWr s ls e.1 ((bs.drop (e.1 - va)).take e.2)

/-- Bytes read through the save map line by line. -/
def smapRd (ls : Lease) : List (Nat × Nat) → List Byte → State → List Byte × State
  | [], bs, s => (bs, s)
  | (va, n) :: r, bs, s =>
    match (smapLoc ls va).bind (locOf s.boot) with
    | some lc => let (b, _, s1) := devGet s lc n; smapRd ls r (bs ++ b) s1
    | none => smapRd ls r (bs ++ List.replicate n 0) s

/-- Bytes of the sections of a lease's save area (R394; log 11). -/
def saveLen (ls : Lease) : Nat := ls.img.saveReq - 4096

/-- PURPOSE of the header (R396). -/
def purposeCode : Purpose → Nat
  | .slice => 1
  | .park => 2
  | .move => 3
  | .checkpoint => 5
  | _ => 0

/-- The header page of a save area with a COMMIT word (R396). The offsets of the lease and tile sections are laid out
by VERSION (log 11). -/
def saveHeader (s : State) (l : Nat) (ls : Lease) (check : Nat) (commit : Nat) : List Byte :=
  let len := saveLen ls
  let off (i : Nat) : List Byte := (List.range 4).map fun j => Config.saveByte s.nonce (4 * i + j)
  leBytes 4 0x5AFE0160 ++ leBytes 2 1 ++ leBytes 2 (purposeCode ls.purpose) ++ leBytes 2 (l % 4096) ++
    leBytes 2 (ls.tenant % 4096) ++ leBytes 2 (if ls.purpose == .slice then 0 else ls.mround) ++
    leBytes 2 (s.rebases % 2 ^ 16) ++ leBytes 8 (ls.cutAt % 2 ^ 48) ++ leBytes 4 len ++
    leBytes 4 (usedTiles ls).length ++ leBytes 4 4096 ++ off 0 ++ off 1 ++ leBytes 4 0 ++ leBytes 8 check ++
    leBytes 8 commit ++ List.replicate 4032 0

/-- A SAVE_AREA record (source 0) that takes no trap (R397): written while the mailbox has room; where it is the only
unfinished one it counts as finished at once, else when the records before it have been finished. -/
def saveRecord (s : State) (l addr : Nat) : State :=
  match leaseOf s l with
  | none => s
  | some ls =>
    if 63 ≤ ls.mput - ls.mdone || (smapLoc ls ls.mbox).isNone || nhas ls.smark (ls.mbox / 4096) then s
    else
      let d := anchorDie ls
      let s1 := postRec s l { FRec.zero with source := 0, cause := cSAVE, faddr := addr, time := stamp (tickOf s d) d }
      if ls.mput = ls.mdone then
        updLease (smapWr s1 ls (ls.mbox + 8) (leBytes 4 ((ls.mput + 1) % 2 ^ 32))) l fun ls => { ls with mdone := ls.mput }
      else s1

/-- A save fails (R397): the lease is HELD, the PF is told. -/
def saveFails (s : State) (l : Nat) (ls : Lease) (va gpa : Nat) : State :=
  let s1 := updLease s l fun ls => { ls with state := .held }
  saveRecord (pfEvent s1 0x07 ls.tenant l (anchorDie ls) 0 va gpa) l va

/-- Tokens, planes and stores of a lease that is away stay in its saved contents; its tiles and sequencer are free
(R187, R294, R392). -/
def goAway (ls : Lease) : Lease := { ls with state := .away, placed := false }

/-- The copy that a checkpoint keeps: its round released, its logs empty, nothing mismatched (R420, R421). -/
def checkpointCopy (s : State) (l : Nat) : State :=
  match leaseOf (releaseShunter s l) l with
  | some ls => { s with awaitSave := mput s.awaitSave l { ls with state := .run, purpose := .none, log := [], mismatches := 0, ckWanted := false } }
  | none => s

/-- A commit of the lease is in progress: its write phase goes on (R105, R403). -/
def committing (ls : Lease) : Bool := ls.commit.isSome

/-- The first step of a save: the header with COMMIT 0 (R397). -/
def beginArea (s : State) (l : Nat) (ls : Lease) : State := smapWrAll s l ls.saveBase (saveHeader s l ls 0 0)

/-- The area is written in the order of R397: header with COMMIT 0, sections, CHECK, COMMIT. -/
def writeArea (s : State) (l : Nat) (ls : Lease) : State :=
  let body := (List.range (saveLen ls)).map (Config.saveByte s.nonce)
  let s1 := smapWrAll (beginArea s l ls) l (ls.saveBase + 4096) body
  let commit := 2 ^ 63 + (ls.saves + 1) % 2 ^ 32
  bump (updLease (smapWrAll s1 l ls.saveBase (saveHeader s l ls (crc64 body).toNat commit)) l fun ls =>
    { ls with saves := ls.saves + 1 })

/-- SAVE_COMPLETE (R392, R397): marked pages are walked again, the area is written, and the tiles are free. A move whose
target has gone waits as a lease that resumes (R373). -/
def execSaveComplete (l : Nat) (s : State) : Res :=
  match leaseOf s l with
  | none => .next s
  | some ls =>
    if ls.state != .save || committing ls || (ls.purpose == .checkpoint && !ls.ckWanted) || !ls.engines.isEmpty ||
        s.reqs.any (fun e => issLease e.2.iss == l && blocksCut e.2) then .next s
    else
      let size := 4096 * ls.img.savesz
      if size < 4096 + saveLen ls then .next (saveFails (beginArea s l ls) l ls (ls.saveBase + size) 0)
      else match smapPages l (pageNos ls.saveBase (4096 + saveLen ls)) s with
        | .wait s1 => .next s1
        | .bad _ va g s1 =>
          .next (saveFails (if va / 4096 = ls.saveBase / 4096 then s1 else beginArea s1 l ls) l ls va g)
        | .ok s1 =>
          match leaseOf s1 l with
          | none => .next s1
          | some now =>
            let s2 := writeArea s1 l now
            if ls.purpose == .checkpoint then
              .next (checkpointCopy (updLease s2 l fun ls => { ls with ckWanted := false }) l)
            else .next (wakeShunter (updLease s2 l goAway))

/-- What a restored lease starts with (R50, R92, R112, R122, R137, R294): empty TLB slices and every floor at the resume
tick or beyond it. -/
def resumeLease (s : State) (ls : Lease) : Lease :=
  let t := tickOf s (anchorDie ls)
  let up (o : OrdSt) : OrdSt := { o with floor := max o.floor t }
  { ls with
    state := .run
    purpose := .none
    slice := 0
    claim := false
    tlb := []
    goFloor := max ls.goFloor t
    trackers := mmap ls.trackers fun _ k => { k with floor := max k.floor t }
    seq := { ls.seq with ord := up ls.seq.ord, hist := [] }
    seqR := { ls.seqR with ord := up ls.seqR.ord, hist := [] }
    tiles := mmap ls.tiles fun _ x => { x with ord := up x.ord, ra := [] } }

/-- Floors of the requests that are saved (R137). -/
def raiseFloors (s : State) (l t : Nat) : State :=
  { s with reqs := mmap s.reqs fun _ r => if issLease r.iss == l then { r with floor := max r.floor t } else r }

/-- Does the header of a save area name this lease, with the CHECK of its sections (R392)? -/
def areaGood (s : State) (l : Nat) (ls : Lease) : Bool :=
  let (h, s1) := smapRd ls (lineRuns ls.saveBase 4096) [] s
  let len := fieldAt h 0x18 4
  (fieldAt h 0x38 8).testBit 63 && fieldAt h 8 2 % 4096 == l % 4096 && fieldAt h 0xA 2 % 4096 == ls.tenant % 4096 &&
    len ≤ 4096 * ls.img.savesz - 4096 &&
    fieldAt h 0x30 8 == (crc64 (smapRd ls (lineRuns (ls.saveBase + 4096) len) [] s1).1).toNat

/-- Does a request come from a tile, a stream or a sequencer of the lease? What its engines do stands outside its rectangles. -/
def ofRects (l : Nat) (r : Req) : Bool :=
  issLease r.iss == l && (match r.iss with
    | .engine .. => false
    | _ => true)

/-- A rollback waits for what has left the exits of a pair: it is performed and its replies are logged (R105, R419). -/
def rollbackWaits (s : State) (l : Nat) (ls : Lease) : Bool :=
  inWritePhase ls || s.reqs.any fun e => ofRects l e.2 && ((e.2.stage == .sent && blocksCut e.2) || e.2.stage == .performed)

/-- ROLLBACK of a pair (R421): the checkpointed lease comes back, what shadow 3 and the views opened since hold is
discarded, unissued requests go, and a COMPARE_MISMATCH record follows. What engines and children do outside the
rectangles goes on. -/
def rollbackDone (s : State) (l : Nat) (sv : Lease) : State :=
  let gone := (s.reqs.filter fun e => ofRects l e.2).map (·.1)
  let s0 := [1, 2, 3, 4, 5, 6, 7, 11].foldl (fun s k => discardPend s l k) (unlockAll s l)
  let s1 := gone.foldl (fun s id => settle { s with reqs := mdel s.reqs id } id 0) s0
  let s2 := { s1 with waiters := s1.waiters.filter fun w => w.lease != l }
  let s3 := updLease s2 l fun now =>
    resumeLease s2 { sv with
      log := now.log
      mismatches := 1
      ticket := now.ticket
      tstat := now.tstat
      engines := now.engines
      children := now.children
      shadows := mdel now.shadows 3
      saves := now.saves
      mput := now.mput
      mdone := now.mdone
      posted := now.posted
      recs := now.recs
      wdog := now.wdog }
  raise s3 l { FRec.zero with source := 0, cause := cCMP }

/-- A rollback to a checkpoint that the save area no longer holds, or does not hold yet: the checkpoint at the grant is
the granted lease itself (R420, R421). -/
def areaStale (s : State) (l : Nat) (ls : Lease) : Bool :=
  ls.purpose == .checkpoint && (match mfind s.awaitSave l with
    | some sv => sv.saves != ls.saves || ls.saves == 0
    | none => true)

/-- RESTORE_COMPLETE (R392, R421): the area has been restored and checked; the lease runs on its new tiles, its round is
released. For a pair after a mismatch, the checkpoint is restored. -/
def execRestoreComplete (l : Nat) (s : State) : Res :=
  match leaseOf s l with
  | none => .next s
  | some ls =>
    if ls.state != .restore || (ls.purpose == .checkpoint && rollbackWaits s l ls) then .next s
    else if !areaStale s l ls && !areaGood s l ls then .next (forceStop s l cSAVE)
    else if ls.purpose == .checkpoint then
      match mfind s.awaitSave l with
      | some sv => .next (rollbackDone s l sv)
      | none => .next (forceStop s l cCMP)
    else
      let s1 := releaseShunter s l
      .next (raiseFloors (updLease s1 l (resumeLease s1)) l (tickOf s (anchorDie ls)))

/-- QOS_SLICE_EXPIRY (R378): a claim is held while a candidate of equal or higher class cannot be placed for want of
tiles; `wants` of the placement engine tells it. -/
def sliceOver (ls : Lease) : Bool := ls.lrec.qos != 0 && decide (ls.lrec.qos * Config.fcPerUs ≤ ls.slice)

/-- A claim takes the lease at a phase boundary (R378, R392): no markers, purpose SLICE. -/
def sliceTakes (ls : Lease) : Bool := ls.claim && sliceOver ls && savable ls && ls.state == .run

/-- The lease goes from RUN to SAVE. -/
def takeSlice (s : State) (l : Nat) : State :=
  updLease (cutRequests s l) l fun ls => { ls with state := .save, purpose := .slice, drainAt := s.wall, cutAt := nowStamp s ls }

end Sys2Proof.Machine
end

