-- ==== Sys2Proof/Machine/Stop.lean ====
section
/-! DEFINITION. Lease control and the end of a lease (R113, R187, R286, R372, R377, R391, R392, R397 to R399). -/

namespace Sys2Proof.Machine

/-! ### Lease control registers -/

/-- SELECT (R391): LSTAT describes the lease from now on. -/
def execSelect (l : Nat) (s : State) : Res := .next { s with lsel := l }

/-- END status of a lease that system software ends (R391). -/
def endCause (ls : Lease) : Nat :=
  if ls.state == .held then cSAVE
  else if ls.mdone < ls.mput then (mget FRec.zero ls.posted ls.mdone).cause
  else cTRAP

/-- END (R391): a forced stop in any state but STOP. -/
def execLeaseEnd (l : Nat) (s : State) : Res :=
  let s1 := { s with lsel := l }
  match leaseOf s l with
  | none => .next s1
  | some ls => .next (forceStop s1 l (endCause ls))

/-- RETRYSAVE (R391, R392): a HELD lease saves again from the header on. -/
def execRetrysave (l : Nat) (s : State) : Res :=
  let s1 := { s with lsel := l }
  match leaseOf s l with
  | none => .next s1
  | some ls => .next (if ls.state == .held then updLease s1 l fun ls => { ls with state := .save } else s1)

/-- LSTAT of the selected lease (R391). -/
def lstat (s : State) : Nat :=
  match leaseOf s s.lsel with
  | none => 0
  | some ls =>
    let st := match ls.state with
      | .run => 1
      | .drain => 2
      | .save => 3
      | .away => 4
      | .restore => 5
      | .held => 6
      | .stop => 7
    (if ls.mdone < ls.mput then (mget FRec.zero ls.posted ls.mdone).cause else 0) * 256 +
      (if savable ls then 32 else 0) + (if ls.unhandled then 16 else 0) + st

/-! ### Tiles in use -/

/-- Tiles of a lease, of both rectangles of a pair (R377, R417). -/
def tileCount (ls : Lease) : Nat := (if ls.paired then 8 else 4) * ls.img.w * ls.img.h

/-- Tiles drawn from the reserve of lease `l` by children that have not ended: placed and queued (R285, R377). -/
def reserveHeld (s : State) (l : Nat) : Nat :=
  match leaseOf s l with
  | none => 0
  | some ls => (ls.children.map fun c => if c.2.fromReserve && c.2.ended.isNone then c.2.tiles else 0).foldl (· + ·) 0

/-- What TUSED loses when lease `l` ends (R286, R377): tiles drawn from its reserve stay counted until their children
end. -/
def releasedTiles (s : State) (l : Nat) (ls : Lease) : Nat :=
  if ls.fromReserve then (match ls.parent with
    | some (p, _) => if p < 4096 then 0 else tileCount ls
    | none => 0)
  else tileCount ls + ls.lrec.reserve - reserveHeld s l

/-! ### What a stop discards -/

/-- Atomics of a lease that are discarded unapplied, by address (R130, R398). -/
def discarded (s : State) (l : Nat) : List Nat :=
  ((s.reqs.filter fun e => issLease e.2.iss == l).map fun e => match e.2.op, e.2.stage with
    | .atomic _, .performed => []
    | .atomic _, _ => (e.2.parts.filter fun p => p.st != .done).map (·.va)
    | _, _ => []).flatten

/-- An atomic that has left for the host or a peer is settled by its answer (R130). -/
def awaitsAnswer (r : Req) : Bool :=
  match r.op with
  | .atomic _ => r.stage == .sent && r.after == [] && r.parts.any fun p => p.outside && p.st != .done
  | _ => false

/-- The requests of a lease go (R113, R398). -/
def dropRequests (s : State) (l : Nat) : State :=
  let gone := (s.reqs.filter fun e => issLease e.2.iss == l).map (·.1)
  gone.foldl (fun s id => settle { s with reqs := mdel s.reqs id } id 0)
    { s with waiters := s.waiters.filter fun w => w.lease != l }

/-- Open page-fault resolutions of a lease (R398): those that wait on B or for a frame are abandoned, their B released;
a copy under way goes on and writes its entry. -/
def dropJobs (s : State) (l : Nat) : State :=
  (s.jobs.filter fun e => e.2.lease == l).foldl (init := s) fun s e =>
    match e.2.st with
    | .copying => s
    | _ =>
      let s1 := if e.2.claimed then (match jobEntry s e.2 with
        | some (v, lc) => putEntry s e.2 lc (noB v)
        | none => s) else s
      { s1 with jobs := mdel s1.jobs e.1 }

/-- Pending versions of every view and shadow of the lease (R113). -/
def dropVersions (s : State) (l : Nat) : State :=
  s.lines.foldl (init := s) fun s e =>
    if e.2.pend.any (fun p => p.lease == l) then
      setLine s e.1 { lineOf s e.1 with pend := (lineOf s e.1).pend.filter fun p => p.lease != l }
    else s

/-! ### The stop report -/

/-- Status byte of the ticket `i` before the latest (R399). -/
def ticketStatus (ls : Lease) (i : Nat) : Nat :=
  let t := (ls.ticket + 65535 - 1 - i) % 65535 + 1
  if ls.ticket = 0 then 3
  else match mfind ls.tstat t with
    | some 0 => 0
    | some 1 => 1
    | some _ => 2
    | none => 3

/-- The stop report (R399). -/
def stopReport (s : State) (l : Nat) (ls : Lease) : List Byte :=
  let d := anchorDie ls
  leBytes 4 0x570B0160 ++ leBytes 2 1 ++ leBytes 2 (ls.endc % 256) ++ leBytes 2 l ++ leBytes 2 ls.tenant ++
    leBytes 2 ls.ticket ++ leBytes 2 ls.ndisc ++ leBytes 8 (stamp (tickOf s d) d % 2 ^ 48) ++ leBytes 8 0 ++
    ((List.range 64).map fun i => leBytes 4 (mget Stream.zero ls.streams i).scnt).flatten ++
    ((List.range 256).map fun i => BitVec.ofNat 8 (ticketStatus ls i)) ++
    ((List.range 64).map fun i => leBytes 8 (ls.disc.getD i 0)).flatten ++ List.replicate 3040 0

/-- The report replaces the first page of the save slot; a failure is told to the PF (R399). None while a page is
brought in. -/
def writeReport (s : State) (l : Nat) (ls : Lease) : Option State × State :=
  match smapPages l [ls.saveBase / 4096] s with
  | .ok s1 => (some (smapWrAll s1 l ls.saveBase (stopReport s1 l ls)), s1)
  | .bad _ va _ s1 => (some (pfEvent s1 0x09 ls.tenant l (anchorDie ls) 0 va 0), s1)
  | .wait s1 => (none, s1)

/-! ### The end -/

/-- Tokens of the lease that are still on tracks after a normal end reach tiles that have passed, and are reported to the PF (R188,
R430). -/
def strayLater (s : State) (l : Nat) (ls : Lease) : State :=
  if ls.endc != 0 then s
  else (ls.tiles.map fun e => e.2.tout.map fun k => (neighbour ls e.1 (k.1 % 16 / 4)).getD e.1).flatten.foldl (init := s) fun s u =>
    pfEvent s 0x08 ls.tenant l (tileDie ls u) 0 0 (ueWhere ls u 0)

/-- The lease is gone: its slot, its tiles in use and its place in its queue or its parent are given back, children run
on without it (R286, R371, R372, R377). -/
def forgetLease (s : State) (l : Nat) (ls : Lease) : State :=
  let s1 := updVf (strayLater s l ls) ls.tenant fun v => { v with tused := v.tused - releasedTiles s l ls }
  let s2 := updQueue s1 ls.queue fun q =>
    { q with slots := ndel q.slots ls.slot, run := if ls.parent.isNone then q.run - 1 else q.run }
  let s3 := match ls.parent with
    | some (p, n) => updLease s2 p fun x =>
        { x with children := mmod x.children n fun c => { c with ended := some ls.endc, lease := none } }
    | none => s2
  { s3 with
    leases := mmap (mdel s3.leases l) fun _ x =>
      if x.parent.map (·.1) = some l then { x with parent := some (4096, 0) } else x
    awaitSave := mdel s3.awaitSave l
    cands := s3.cands.map fun c => if c.parent = some l then { c with parent := none } else c }

/-- Steps 1 to 5 of R398, in a state in which a commit in its write phase has finished. The lines that an engine operation has written
are new, the others old (R283; log 15). -/
def discardAll (s : State) (l : Nat) (ls : Lease) : State :=
  let ds := discarded s l
  let s2 := dropJobs (dropVersions (unlockAll (dropRequests s l) l) l) l
  updLease s2 l fun x =>
    { x with
      commit := none
      engines := []
      views := []
      shadows := []
      ndisc := ls.ndisc + ds.length
      disc := (ls.disc ++ ds).take 64 }

/-- Is a normal end still waiting for an access (R292, R186)? -/
def endWaits (s : State) (l : Nat) (ls : Lease) : Bool :=
  ls.commit.isSome || !ls.engines.isEmpty || s.reqs.any fun e => issLease e.2.iss == l && (match e.2.stage with
    | .performed => false
    | .faulted .. => false
    | .exit => false
    | _ => true)

/-- STOP_COMPLETE (R292, R398, R399): what is pending is settled, the report and then the completion entry are written,
and the lease is gone. -/
def execStopComplete (l : Nat) (s : State) : Res :=
  match leaseOf s l with
  | none => .next s
  | some ls =>
    if ls.state != .stop then .next s
    else if ls.endc = 0 && endWaits s l ls then .next s
    else if (match ls.commit with
        | some c => c.phase != 0
        | none => false) then .next s
    else if s.reqs.any (fun e => issLease e.2.iss == l && awaitsAnswer e.2) then .next s
    else
      let s1 := discardAll s l ls
      match leaseOf s1 l with
      | none => .next s1
      | some now =>
        let rep := if now.endc = 0 then (some s1, s1) else writeReport s1 l now
        match rep with
        | (none, s2) => .next s2
        | (some s2, _) =>
          match ls.parent with
          | some _ => .next (wakeShunter (forgetLease s2 l now))
          | none => match retireTask s2 ls.queue ls.task ls.endc with
            | (some s3, _) => .next (wakeShunter (forgetLease s3 l now))
            | (none, s3) => .next s3

/-- The launch ends with status 0 (R186, R271, R292). -/
def endLaunch (s : State) (l : Nat) : State :=
  updLease s l fun ls => if ls.state == .stop then ls else { ls with state := .stop, endc := 0 }

end Sys2Proof.Machine
end

