-- ==== Sys2Proof/Machine/Phase.lean ====
section
/-! DEFINITION. Planes, phases and returns (R74, R162, R163, R166, R172, R176, R183, R184, R186, R187, R205, R208, R238 to
R242, R271, R289, R292, R293, R363, R378, R389, R406). -/

namespace Sys2Proof.Machine

/-! ### The configuration that a CSWAP leads to -/

/-- The plane that tile `u` will have: its shadow plane while it is still to swap (R271). -/
def finalPlane (ls : Lease) (left : NSet) (u : Nat) : Plane :=
  match tileOf ls u with
  | some x => if nhas left u then x.shd else x.act
  | none => .zero

/-- Used tiles of the rectangle of tile `t`. -/
def sameRect (ls : Lease) (t : Nat) : NSet := (usedTiles ls).filter fun u => decide (u < replicaBase) == decide (t < replicaBase)

/-- Contexts of a rectangle that name group `g` in the configuration (R176): tiles in row-major order, once per context. -/
def groupMembers (ls : Lease) (left : NSet) (t g : Nat) : List Nat :=
  ((sameRect ls t).map fun u =>
    let p := finalPlane ls left u
    ((ctxs p).filter fun k => (ctxGroups p k).contains g).map fun _ => u).flatten

/-- The groups that a tile reports: those that its configuration names, with the wrong COUNT, which no tile before it in row-major
order names of those still to swap, and which the CSWAP has not reported (R176): context and group, keyed by rectangle. -/
def badGroups (ls : Lease) (left known : NSet) (t : Nat) : List (Nat × Nat) :=
  let names (u g : Nat) : Bool := let p := finalPlane ls left u; (ctxs p).any fun k => (ctxGroups p k).contains g
  let p := finalPlane ls left t
  ((ctxs p).map fun k => (ctxGroups p k).map fun g => (k, grpKey t g)).flatten.filter fun e =>
    let g := e.2 % 256
    (groupMembers ls left t g).length != (mget ⟨0, 0, 0⟩ ls.groups e.2).count && !nhas known e.2 &&
      !((sameRect ls t).filter fun u => u < t && nhas left u).any fun u => names u g

/-- Children that the controllers of the rectangle claim: tile with its context, or with 4 for a controller (R172). -/
def claims (ls : Lease) (left : NSet) (t : Nat) : List (Nat × Nat × Nat) :=
  ((sameRect ls t).map fun u =>
    let p := finalPlane ls left u
    if cKind p = 0 then [] else (List.range (cNch p)).map fun i =>
      let w := ctc p i
      (u, ctlTile ls u w, if w.testBit 31 then 4 else bits w 29 2)).flatten

/-! ### Checks of a plane at its swap -/

/-- A check that failed: cause and configuration-word identifier. -/
abbrev Bad := Option (Nat × Nat)

/-- The first failing check. -/
def firstSwapFail (l : List (Bool × Nat × Nat)) : Bad := (l.find? fun e => !e.1).map (·.2)

/-- Checks of the handler table (R162, R166, R239). -/
def handlersBad (ls : Lease) (t : Nat) (p : Plane) : List (Bool × Nat × Nat) :=
  let id (w : Nat) : Nat := cfgId 2 (keyRow ls t) (keyCol ls t) w
  let on := (List.range 16).filter (hEn p)
  let slots (k n : Nat) : Nat := ((List.range n).map fun i => if bound p k i then depth p k i else 0).foldl (· + ·) 0
  on.map (fun h => (decide (hEntry p h ≤ hWend p h), cCONFIG, id (3 * h))) ++
  (on.map fun h =>
    [((List.range 8).all fun i => hCR p h i == 0 || bound p (hCtx p h) i, cCONFIG, id (3 * h + 1)),
     ((List.range 4).all fun j => hPR p h j == 0 || bound p (hCtx p h) (8 + j), cCONFIG, id (3 * h + 2))]).flatten ++
  on.map (fun h => (mctx p || hCtx p h == 0, cCONFIG, id (3 * h))) ++
  (List.range 48).map (fun i => (decide (slots (i / 12) (i % 12 + 1) ≤ 128), cCONFIG,
    cfgId 3 (keyRow ls t) (keyCol ls t) (24 * (i / 12) + 2 * (i % 12)))) ++
  on.map (fun h => (!(on.any fun g => g < h && hCtx p g == hCtx p h && hSlot p g == hSlot p h && decide (hSlot p h < ls.img.ii)),
    cSLOT, id (3 * h + 2))) ++
  on.map (fun h => (decide (hKbase p h ≤ 1000), cCONFIG, id (3 * h)))

/-- Checks of the port block and the converter words (R205, R240). -/
def portsBad (ls : Lease) (t : Nat) (p : Plane) : List (Bool × Nat × Nat) :=
  let id (w : Nat) : Nat := cfgId 3 (keyRow ls t) (keyCol ls t) w
  (List.range 48).map (fun i => (!(bound p (i / 12) (i % 12)) || bits (pba p (i / 12) (i % 12)) 26 5 != 0, cCONFIG,
    id (24 * (i / 12) + 2 * (i % 12)))) ++
  [(kindOf ls t == 1 || wd p.pb 96 == 0, cCONFIG, id 96), (kindOf ls t == 1 || wd p.pb 97 == 0, cCONFIG, id 97),
   (decide (wd p.pb 96 % 8 < 6), cCONFIG, id 96)]

/-- Checks of the controller block over the configuration (R172, R173, R242). -/
def controllerBad (ls : Lease) (left : NSet) (t : Nat) (p : Plane) : List (Bool × Nat × Nat) :=
  let id (w : Nat) : Nat := cfgId 5 (keyRow ls t) (keyCol ls t) w
  let h := wd p.cb 0
  let all := claims ls left t
  let count (u k : Nat) : Nat := (all.filter fun c => c.2.1 == u && c.2.2 == k).length
  let gates := ((ctxs p).filter (gated p)).map fun k =>
    (decide (1 ≤ count t k), cCONFIG, cfgId 4 (keyRow ls t) (keyCol ls t) (1 + 2 * k))
  if cKind p = 0 then ((List.range 40).map fun i => (wd p.cb i == 0, cCONFIG, id i)) ++ gates
  else
    [(bits h 0 20 == 0 && (cKind p == 2 || bits h 27 3 == 0) && 1 ≤ cNctr p && decide (cNctr p ≤ (if kindOf ls t = 3 then 10 else 4)),
      cCONFIG, id 0),
     (bits (ctp p) 16 13 == 0 && bits (ctp p) 29 2 == 0 && (!(ctp p).testBit 31 || bits (ctp p) 0 16 == 0), cCONFIG, id 1)] ++
    (List.range (cNctr p)).map (fun j => (cStride p j != 0, cCONFIG, id (12 + 3 * j))) ++
    (List.range (cNch p)).map (fun i =>
      let w := ctc p i
      (bits w 16 13 == 0 && (!w.testBit 31 || bits w 29 2 == 0) && decide (bits w 0 8 < 2 * ls.img.w) && decide (bits w 8 8 < 2 * ls.img.h) &&
        count (ctlTile ls t w) (if w.testBit 31 then 4 else bits w 29 2) == 1, cCONFIG, id (2 + i))) ++ gates

/-- May an endpoint be a source, or a destination (R237)? -/
def isSrcEnd (e : Nat) : Bool := e < 16 || (24 ≤ e && e < 28)
def isDstEnd (e : Nat) : Bool := e < 24

/-- What a routing word says: kind 0 ROUTE, 1 FORK, 2 MERGE; source and destination keyed with their contexts. -/
def routeOf (w : Instr) : Option (Nat × Nat × Nat × Nat) :=
  match w with
  | .route a b c => some (0, a.toNat, b.toNat, c.toNat)
  | .fork a b c => some (1, a.toNat, b.toNat, c.toNat)
  | .merge a b c => some (2, a.toNat, b.toNat, c.toNat)
  | _ => none
/-- Key of a source or destination: a track stands for itself, a port for one of a context. -/
def endKey (track : Bool) (e k : Nat) : Nat := e + 32 * (if track then 0 else k)
def srcKey (r : Nat × Nat × Nat × Nat) : Nat := endKey (r.2.1 < 16) r.2.1 r.2.2.2
def dstKey (r : Nat × Nat × Nat × Nat) : Nat := endKey (r.2.2.1 < 16) r.2.2.1 r.2.2.2

/-- Checks of the switch words with the live edge buffers of the tile (R237, R238, R361, R363). -/
def switchBad (ls : Lease) (t : Nat) (x : Tile) (p : Plane) : List (Bool × Nat × Nat) :=
  let id (w : Nat) : Nat := cfgId 6 (keyRow ls t) (keyCol ls t) w
  let word (i : Nat) : Option Instr := match decodeSw (mget 0 p.sw i) with
    | .ok w => some w
    | .error _ => none
  let rt (i : Nat) : Option (Nat × Nat × Nat × Nat) := (word i).bind routeOf
  let all := List.range 32
  let others (i : Nat) : List (Nat × Nat × Nat × Nat) := (all.filter (· < i)).filterMap rt
  let ebs := x.ebs.map (fun b => (bits b.endp 0 5, bits b.endp 5 5)) ++ p.ebd.map fun d => (bits d.2.2 0 5, bits d.2.2 5 5)
  let one (i : Nat) : List (Bool × Nat × Nat) :=
    match rt i with
    | none => []
    | some r =>
      let prev := others i
      let every := all.filterMap rt
      [(isSrcEnd r.2.1 && isDstEnd r.2.2.1 && srcKey r != dstKey r && (16 ≤ r.2.1 || 16 ≤ r.2.2.1 || r.2.2.2 == 0), cCONFIG, id i),
       (match r.1 with
        | 0 => prev.all fun q => q.1 != 0 || (srcKey q != srcKey r && dstKey q != dstKey r)
        | 1 => !((every.any fun q => q.1 == 0 && dstKey q == dstKey r) || prev.any fun q => q.1 == 1 && dstKey q == dstKey r)
        | _ => !((every.any fun q => q.1 == 0 && srcKey q == srcKey r) || prev.any fun q => q.1 == 2 && srcKey q == srcKey r), cROUTE, id i),
       (match r.1 with
        | 0 => true
        | 1 => every.any fun q => q.1 == 0 && srcKey q == srcKey r
        | _ => every.any fun q => q.1 == 0 && dstKey q == dstKey r, cCONFIG, id i),
       (!(ebs.any fun b => b.1 == r.2.1 || b.2 == r.2.2.1), cROUTE, id i)]
  all.map (fun i => ((match word i with
      | some (.fwl _) => false
      | some _ => true
      | none => false), cCONFIG, id i)) ++
  (all.map one).flatten ++
  all.map (fun i => ((match word i with
    | some (.cut _ c) => ls.img.cuts.any fun e => e.2.2.2 == c.toNat
    | _ => true), cCUT, id i))

/-- Checks of the edge-buffer descriptors against each other and the live regions (R74, R247): OFFSET, then SLOTS. -/
def buffersBad (ls : Lease) (t : Nat) (x : Tile) (p : Plane) : List (Bool × Nat × Nat) :=
  let id (w : Nat) : Nat := cfgId 11 (keyRow ls t) (keyCol ls t) w
  let reg (d : Nat × Nat × Nat) : Nat × Nat := (d.1, 128 * d.2.1)
  ((p.ebd.zipIdx).map fun e =>
    let d := e.1
    [(d.1 % 2048 == 0 && ls.img.ssplit ≤ d.1 && d.1 + 256 ≤ 2 ^ 20 &&
        ((p.ebd.take e.2).all fun f => apart (reg f) (reg d)) &&
        (x.ebs.all fun b => apart (b.off, 128 * b.slots) (reg d)), cCONFIG, id (2 * e.2)),
     (2 ≤ d.2.1 && d.2.1 ≤ 8192 && d.1 + 128 * d.2.1 ≤ 2 ^ 20, cCONFIG, id (2 * e.2 + 1))]).flatten

/-- Words of the handler table, the port block, the controller block and the switch words that an error has damaged are used by the
checks of the swap (R143). -/
def damagedBad (ls : Lease) (t : Nat) (p : Plane) : List (Bool × Nat × Nat) :=
  ([(1, 2, 48), (2, 3, 98), (3, 5, 40), (4, 6, 32)].map fun e => (List.range e.2.2).map fun i =>
    (!wordBad p e.1 i, cPCTL, cfgId e.2.1 (keyRow ls t) (keyCol ls t) i)).flatten

/-- Every check of a swap in its order (R271); a wrong COUNT names the word that holds the group's number. -/
def swapBad (ls : Lease) (left known : NSet) (t : Nat) (x : Tile) : Bad :=
  let p := x.shd
  firstSwapFail (damagedBad ls t p ++ handlersBad ls t p ++
    (badGroups ls left known t).map (fun e => (false, cCONFIG, cfgId 4 (keyRow ls t) (keyCol ls t) (2 + 2 * e.1))) ++ switchBad ls t x p ++ portsBad ls t p ++ controllerBad ls left t p ++ buffersBad ls t x p)

/-! ### PLANE_SWAP -/

/-- Is a memory request, a controller's done or a permit of the tile outstanding (R183)? -/
def tileBusyMem (s : State) (l t : Nat) (ls : Lease) (x : Tile) : Bool :=
  (s.reqs.any fun e => match e.2.iss with
    | .elem l' t' _ => l' == l && t' == t
    | _ => false) || x.ctl.open_ ||
  ls.msgs.any fun m => (match m.kind with
    | .permit => m.tile == t
    | .go => m.tile == t
    | .ctxGo => m.tile == t
    | .done => (match tileOf ls m.tile with
      | some p => ctlTile ls m.tile (ctc p.act m.sub) == t
      | none => false)
    | _ => false)

/-- Conditions of R183 but for the port buffers: no firing, every context closed or without an open go, nothing
outstanding. -/
def calmTile (s : State) (l t : Nat) (ls : Lease) (x : Tile) : Bool :=
  (ctxs x.act).all (fun k => let c := ctxOf x k; c.fire.isNone && (c.closed || !c.goOpen)) && !tileBusyMem s l t ls x

/-- No token in any input buffer of the tile. -/
def insEmpty (x : Tile) : Bool := x.ctx.all fun e => e.2.ins.all fun i => i.2.q.isEmpty
/-- No token in any output buffer. -/
def outsEmpty (x : Tile) : Bool := x.ctx.all fun e => e.2.outs.all fun o => o.2.pub.isEmpty && o.2.due == 0

/-- The tile is drained (R183). -/
def drained (s : State) (l t : Nat) (ls : Lease) (x : Tile) : Bool := calmTile s l t ls x && insEmpty x && outsEmpty x

/-- Only tokens at its inputs keep the tile from being drained (R184): no context will close or take a marker of its own, though one
that a fault has frozen before its close or a round may hold them. -/
def stuckTile (s : State) (l t : Nat) (ls : Lease) (x : Tile) : Bool :=
  calmTile s l t ls x && outsEmpty x && !insEmpty x &&
  (ctxs x.act).all fun k =>
    let c := ctxOf x k
    (runnables x k).isEmpty && !mayClose ls x k &&
      (c.frozen.isSome || (boundIn x.act k).all fun p => !(inPort c p).q.any isMark)

/-- The generator of a context (R208). -/
def seedOf (ls : Lease) (p : Plane) (t k : Nat) : BitVec 32 :=
  let g := BitVec.ofNat 32 (wd p.pb 97) ^^^ BitVec.ofNat 32 (keyCol ls t * 256) ^^^ BitVec.ofNat 32 (keyRow ls t) ^^^ BitVec.ofNat 32 (k * 65536)
  if g = 0 then 1 else g

/-- HMASK at a swap: the EN bits of the context's handlers (R163). -/
def enMask (p : Plane) (k : Nat) : BitVec 16 :=
  BitVec.ofNat 16 (((List.range 16).filter fun h => hEn p h && hCtx p h == k).map fun h => 2 ^ h).sum

/-- The swap of one tile (R163, R183, R205, R208, R271, R338, R361): lane registers, masks and ESTAT are kept. -/
def swapTile (ls : Lease) (t : Nat) (x : Tile) : Tile :=
  let p := x.shd
  { x with
    act := p
    shd := x.act
    ctx := (List.range 4).foldl (fun m k =>
      let c := mget Ctx.zero m k
      mput m k { c with
        hmask := enMask p k
        skip := 0
        miss := []
        gs := if kindOf ls t = 1 then seedOf ls p t k else c.gs
        half := if kindOf ls t = 1 then false else c.half
        adesc := 0
        ins := []
        outs := []
        lastFired := []
        closed := false
        eosSent := []
        entered := none
        mark := none
        goOpen := false
        goCnt := 0
        goLeft := 0 }) x.ctx
    ctl := ⟨false, false, [], [], [], 0⟩
    holdOpen := false
    eosSeen := []
    ra := []
    ebs := x.ebs ++ p.ebd.map fun d => ⟨d.1, d.2.1, d.2.2, 0, 0, []⟩ }

/-- The tile is no longer to be swapped, and the groups that it names with a wrong COUNT have been reported. -/
def tickOff (s : State) (l t : Nat) (grps : List Nat := []) : State :=
  updSeq s l false fun q => { q with op := match q.op with
    | .cswap left a f g => .cswap (ndel left t) a f (grps.foldl nadd g)
    | o => o }

/-- A token that stands on an incoming track when the plane is swapped in enters the track's edge buffer, stays for the new route,
or is discarded with STRAY_TOKEN where neither takes it (R184, R359, R363). -/
def resort (l t : Nat) (s : State) (e : Nat × Tok) : State :=
  match (leaseOf s l).bind fun ls => tileOf ls t with
  | none => s
  | some y =>
    let gone := { y with tin := mdel y.tin e.1 }
    match bufferAt y e.1 with
    | some b => if b.count < b.slots then updTile s l t fun _ => enterBuffer gone b e.2 else s
    | none => if destsOf y.act e.1 0 = [] then stray (updTile s l t fun _ => gone) l t 0 else s

/-- PLANE_SWAP (R183, R184, R271): a drained tile swaps or faults a check; one that cannot drain by itself faults
STRAY_TOKEN. -/
def execPlaneSwap (l t : Nat) (s : State) : Res :=
  match leaseOf s l with
  | none => .next s
  | some ls =>
    match ls.seq.op, tileOf ls t with
    | .cswap left _ _ known, some x =>
      if !nhas left t || !leaseLive s ls then .next s
      else if drained s l t ls x then
        match swapBad ls left known t x with
        | some (c, id) => .next (noteFault (tickOff s l t ((badGroups ls left known t).map (·.2))) l t 0 c fun r => { r with cfgid := id })
        | none => .next (x.tin.foldl (resort l t) (updTile (tickOff s l t) l t (swapTile ls t)))
      else if stuckTile s l t ls x then .next (stray (tickOff s l t) l t 0)
      else .next s
    | _, _ => .next s

/-! ### The channel graph (R406) -/

/-- A node of the graph: 64·tile + track for an outgoing track, 64·tile + 16 + context for a context. -/
abbrev Node := Nat

/-- Where a token that enters tile `u` at endpoint `src` goes. -/
def fanOut (x : Plane) (u src k : Nat) : List Node :=
  ((destsOf x src k).map fun d =>
    if d.1 < 16 then [64 * u + d.1]
    else (64 * u + 16 + d.2) :: (if (pbb x d.2 (d.1 - 16)).testBit 31 then [64 * u + bits (pbb x d.2 (d.1 - 16)) 27 4] else [])).flatten

/-- Successors of a node: nothing crosses a track with a CUT word. -/
def succs (ls : Lease) (n : Node) : List Node :=
  let t := n / 64
  match tileOf ls t with
  | none => []
  | some x =>
    if 16 ≤ n % 64 then ((boundOut x.act (n % 64 - 16)).map fun j => fanOut x.act t (24 + j) (n % 64 - 16)).flatten
    else if cutOn x.act (n % 64) then []
    else match neighbour ls t (n % 64 / 4) with
      | none => []
      | some u => match tileOf ls u with
        | none => []
        | some y => match bufferAt y (landTrack (n % 64)) with
          | some b => [64 * u + bits b.endp 5 5]
          | none => fanOut y.act u (landTrack (n % 64)) 0

/-- What is reached from a set of nodes in at most `fuel` steps. -/
def closure (ls : Lease) : Nat → List Node → List Node
  | 0, ns => ns
  | fuel + 1, ns =>
    let more := ((ns.map (succs ls)).flatten).filter fun n => !ns.contains n
    if more.isEmpty then ns else closure ls fuel (ns ++ more.eraseDups)

/-- Nodes of a lease. -/
def nodesOf (ls : Lease) : List Node :=
  ((usedTiles ls).map fun t => (List.range 20).map fun i => 64 * t + i).flatten

/-- Is the node on a directed cycle? -/
def onCycle (ls : Lease) (n : Node) : Bool := (closure ls (nodesOf ls).length (succs ls n).eraseDups).contains n

/-- The lease is cuttable (R406). -/
def isCuttable (ls : Lease) : Bool := !(nodesOf ls).any (onCycle ls)

/-- The first switch word of a cycle in row-major order: tile and word (R406). -/
def firstCycleWord (ls : Lease) : Option (Nat × Nat) :=
  ls.img.roles.findSome? fun t =>
    match tileOf ls t with
    | none => none
    | some x =>
      ((List.range 32).find? fun i =>
        match decodeSw (mget 0 x.act.sw i) with
        | .error _ => false
        | .ok w => match routeOf w with
          | none => false
          | some (_, a, d, k) =>
            let dest := if d < 16 then 64 * t + d else 64 * t + 16 + k
            let from_ := if a < 16 then (neighbour ls t (a / 4)).map fun u => 64 * u + landTrack a else some (64 * t + 16 + k)
            match from_ with
            | none => false
            | some n => (succs ls n).contains dest && (closure ls (nodesOf ls).length [dest]).contains n).map fun i => (t, i)

/-! ### CSWAP -/

/-- Completion of CSWAP (R172, R271, R378, R406): trackers are reset when every used tile was named; a second root and a
missing CUT are recorded; the phase that the next GO starts is final with FINAL; a claim may take the lease. -/
def cswapDone (s : State) (l : Nat) (all fin : Bool) : State :=
  let s1 := updLease s l fun ls =>
    { ls with
      trackers := if all then (List.range (if ls.paired then 32 else 16)).map fun c => (c, { Tracker.zero with floor := tickOf s (anchorDie ls) }) else ls.trackers
      finNext := ls.finNext || fin
      phStarted := ls.phStarted && !all
      phEnded := ls.phEnded && !all
      cuttable := isCuttable ls
      roots := (rootTiles ls).length }
  match leaseOf s1 l with
  | none => s1
  | some ls =>
    let s2 := match rootTiles ls with
      | _ :: t :: _ => raise s1 l { FRec.zero with source := 1, cause := cCONFIG, tile := some t, cfgid := cfgId 5 (keyRow ls t) (keyCol ls t) 1 }
      | _ => s1
    let s3 := if ls.cuttable then s2 else
      match firstCycleWord ls with
      | some (t, i) => raise s2 l { FRec.zero with source := 1, cause := cCUT, tile := some t, cfgid := cfgId 6 (keyRow ls t) (keyCol ls t) i }
      | none => raise s2 l { FRec.zero with source := 1, cause := cCUT }
    let s4 := updSeq s3 l false seqNext
    if all && sliceTakes ls then takeSlice s4 l else s4

/-- CSWAP and CSWAP.FINAL (R271): the named tiles swap one by one by PLANE_SWAP; an interrupted CSWAP goes
on with those left (R290, R294). -/
def execCswap (xa : BitVec 5) (fin : Bool) (s : State) : Res :=
  onTwins s [xa] fun l ls q =>
    match q.op with
    | .cswap left all f _ => if left = [] then cswapDone s l all f else s
    | _ =>
      match resumed q with
      | some (.cswap left all f g) => updSeq s l false fun q => { q with op := .cswap left all f g, saved := none }
      | _ =>
        if xpois q xa then seqFault s l false cPCTL 0
        else
          let named := rectTiles ls (xget q xa).toNat
          updSeq s l false fun q => { q with op := .cswap (bothTiles ls named) (named == ls.img.roles) fin }

/-! ### The end of a phase and of a lease -/

/-- A context that the plane does not configure. -/
def unconfigured (p : Plane) (k : Nat) : Bool :=
  (boundIn p k).isEmpty && (boundOut p k).isEmpty && !gated p k && !((List.range 16).any fun h => hEn p h && hCtx p h == k)

/-- Every context of a tile is closed. One that is not configured counts as closed where another one is; a tile that only routes stays
until the launch ends (R187; log 50). -/
def allClosed (x : Tile) : Bool :=
  ((ctxs x.act).all fun k => (ctxOf x k).closed || unconfigured x.act k) && (ctxs x.act).any fun k => !unconfigured x.act k

/-- EOS has reached every sink of the tile: every context with no bound output is closed (R186). -/
def sinksDone (x : Tile) : Bool :=
  x.passed || (ctxs x.act).all fun k => !(boundOut x.act k).isEmpty || (ctxOf x k).closed || unconfigured x.act k

/-- Is the entry an output stream? -/
def strmOut (e : StrmEnt) : Bool := decide (24 ≤ e.port)

/-- A store of a stream whose acknowledgement has not reached its port (R186); what a peer answers for the first token of a stream is
none. -/
def storeOpen (l : Nat) (r : Req) : Bool :=
  r.op.isWrite && (match r.iss, r.stage with
    | _, .faulted .. => false
    | .stream l' _, _ => l' == l
    | _, _ => false) && r.parts.any fun p => p.len != 0

/-- The phase's end is reached (R186): EOS has reached the contexts without outputs and the stream ports bound to memory, and every
store of the streams has been performed. -/
def phaseDone (s : State) (l : Nat) (ls : Lease) : Bool :=
  (usedTiles ls).all (fun t => match tileOf ls t with
    | some x => sinksDone x
    | none => true) &&
  ls.img.strms.all (fun e => !strmOut e || (let x := mget Stream.zero ls.streams e.id; !x.bound || x.kind != 1 || x.eos)) &&
  !(s.reqs.any fun e => storeOpen l e.2)

/-- PHASE_END (R186, R187, R271): the end of the final phase is the end of the launch. -/
def execPhaseEnd (l : Nat) (s : State) : Res :=
  match leaseOf s l with
  | none => .next s
  | some ls =>
    if !leaseLive s ls || !ls.phStarted || ls.phEnded || ls.msgs.any (fun m => m.kind == .phase) || !phaseDone s l ls then .next s
    else
      let s1 := updLease s l fun ls => { ls with phEnded := true }
      .next (if ls.finalPh then endLaunch s1 l else s1)

/-- A passed tile (R187): cleared, every edge closed. -/
def Tile.gone : Tile := { Tile.zero with passed := true, fwl := 15 }

/-- TILE_PASS (R187): in the final phase a drained tile whose contexts are closed and whose EOS tokens are accepted
returns to the free pool; an S tile of a lease with SSPLIT above 0 waits for the end of the launch. -/
def execTilePass (l t : Nat) (s : State) : Res :=
  match leaseOf s l with
  | none => .next s
  | some ls =>
    match tileOf ls t with
    | none => .next s
    | some x =>
      if leaseLive s ls && ls.finalPh && ls.phStarted && !x.passed && !ls.msgs.any (fun m => m.tile == t) && drained s l t ls x &&
          allClosed x && x.tout.isEmpty && x.tin.isEmpty && x.inl.isEmpty && x.ebs.isEmpty && x.kept.isEmpty && !(kindOf ls t == 2 && ls.img.ssplit != 0) then
        .next (wakeShunter (updTile s l t fun _ => Tile.gone))
      else .next s

/-- HALT (R292): engines first, then the end of a phase that has been started, then the end of the launch. -/
def execHalt (s : State) : Res :=
  onTwins s [] fun l ls _ =>
    if !ls.engines.isEmpty then s
    else if ls.phStarted && !ls.phEnded then s
    else endLaunch s l

/-- YIELD (R293, R378): waits for drained tiles and for the engines; a claim then takes the lease at the next
instruction, but not in marker mode. -/
def execYieldTurn (s : State) : Res :=
  onTwins s [] fun l ls _ =>
    if !ls.engines.isEmpty || (usedTiles ls).any (fun t => match tileOf ls t with
        | some x => !x.passed && !drained s l t ls x
        | none => false) then s
    else
      let s1 := updSeq s l false seqNext
      if !ls.markerMode && sliceTakes ls then takeSlice s1 l else s1

/-! ### ERET -/

/-- The word that a firing stands at is EXIT. -/
def atExit (x : Tile) (fi : Firing) : Bool :=
  match decodeOp (progWord x.act fi.pc) none with
  | .ok .exit => true
  | _ => false

/-- Tokens ahead of the EOS of each input are discarded, and the poison of the EOS is dropped (R148, R389). -/
def dropLeftovers (x : Plane) (c : Ctx) (k : Nat) : Ctx :=
  (boundIn x k).foldl (fun c p =>
    let q := (inPort c p).q.dropWhile fun t => !isEos t
    { c with ins := mput c.ins p ⟨q.map fun t => if isEos t then { t with pois := 0 } else t, 0⟩ }) c

/-- The poison of the markers at the inputs of a context is dropped (R148; log 110). -/
def cleanMarks (x : Plane) (c : Ctx) (k : Nat) : Ctx :=
  (boundIn x k).foldl (fun c p =>
    let i := inPort c p
    { c with ins := mput c.ins p { i with q := i.q.map fun t => if isMark t then { t with pois := 0 } else t } }) c

/-- The late access of a frozen context is issued again (R389). -/
def reissue (s : State) (id : Nat) : State :=
  updReq s id fun r =>
    let ps := r.parts.map fun p => if p.st == .done then p else partAnew p
    { r with
      stage := match r.stage, r.chain with
        | .faulted c _ _, some _ => if c = cSTRAY then stageAnew ps else .chain
        | _, _ => stageAnew ps
      parts := ps }

/-- The words that SKIP passes: an extension word belongs to its operation only where it is one (R234, R244). -/
def skipLen (x : Tile) (fi : Firing) : Nat :=
  if fi.pc < hWend x.act fi.h && bits (progWord x.act (fi.pc + 1)).toNat 30 2 = 3 then wordLen (progWord x.act fi.pc) else 1

/-- A firing whose word is taken again. -/
def retried (fi : Firing) : Firing :=
  match fi.wait with
  | .start | .stall => { fi with wait := .none }
  | _ => fi

/-- ACT of a record that froze context `k` of tile `t` (R389): 0 HOLD, 1 RETRY, 2 SKIP, 3 ABANDON. An abandoned firing has
not completed, so that DCNT does not count it (R174). -/
def applyAct (s : State) (l t k act : Nat) : State :=
  match (leaseOf s l).bind (tileOf · t) with
  | none => s
  | some x =>
    let c := ctxOf x k
    let thaw (s : State) : State := updCtx s l t k fun c => { c with frozen := none }
    let ended (s : State) : State := match c.fire with
      | some fi => endFiring s l t k x fi
      | none => s
    let cut (s : State) : State := updCtx s l t k fun c =>
      match c.fire with
      | some fi => { c with fire := .none, lastFired := mput c.lastFired (hPrio x.act fi.h) fi.h }
      | none => c
    let gone (s : State) (id : Nat) : State := settle { s with reqs := mdel s.reqs id } id 0
    match act, c.frozen with
    | 1, some (.firing, _) => updCtx (thaw s) l t k fun c => { c with fire := c.fire.map retried }
    | 1, some (.close, _) => thaw s
    | 1, some (.round, _) => thaw s
    | 0, some (.config, _) => s
    | _, some (.config, _) => thaw s
    | 2, some (.round, _) => updCtx (thaw s) l t k fun c => cleanMarks x.act c k
    | 3, some (.round, _) => updCtx (thaw s) l t k fun c => cleanMarks x.act c k
    | 1, some (.late id, _) => thaw (reissue s id)
    | 2, some (.firing, _) =>
      (match c.fire with
       | some fi => if atExit x fi then ended (thaw s) else
         updCtx (thaw s) l t k fun c =>
           { c with fire := some { fi with pc := fi.pc + skipLen x fi, wait := .none } }
       | none => thaw s)
    | 3, some (.firing, _) => cut (thaw s)
    | 2, some (.close, _) => updCtx (thaw s) l t k fun c => dropLeftovers x.act c k
    | 3, some (.close, _) => updCtx (thaw s) l t k fun c => dropLeftovers x.act c k
    | 2, some (.late id, _) => thaw (gone s id)
    | 3, some (.late id, _) => cut (thaw (gone s id))
    | _, _ => s

/-- HMASK of a record with HMV, then ACT, for the frozen context and its mirror in a replica (R389, R418). -/
def finishRecord (s : State) (l : Nat) (ls : Lease) (r : FRec) (d7 : Nat) : State :=
  match r.tile with
  | none => s
  | some t =>
    if r.source = 1 && r.freezes then
      (if ls.paired then [t, t + replicaBase] else [t]).foldl (init := s) fun s u =>
        let s1 := if d7.testBit 61 then updCtx s l u r.ctx fun c => { c with hmask := BitVec.ofNat 16 (bits d7 32 16) } else s
        applyAct s1 l u r.ctx (bits d7 62 2)
    else s

/-- Records that take no trap are finished with the one before them (R397; log 24). -/
def doneAfter (ls : Lease) : Nat → Nat → Nat
  | 0, n => n
  | fuel + 1, n =>
    match mfind ls.posted n with
    | some r => if n < ls.mput && r.source == 0 && r.cause == cSAVE then doneAfter ls fuel (n + 1) else n
    | none => n

/-- DONE grows and the handler returns (R289, R389). -/
def eretDone (s : State) (l : Nat) (ls : Lease) : State :=
  let n := if ls.mdone < ls.mput then doneAfter ls 63 (ls.mdone + 1) else ls.mdone
  let s1 := updLease s l fun ls => { ls with mdone := n, posted := ls.posted.filter fun e => n ≤ e.1 }
  updSeq (smapWr s1 ls (ls.mbox + 8) (leBytes 4 (n % 2 ^ 32))) l false trapReturn

/-- ERET (R289, R389): dword 7 of record DONE is read behind the sequencer's stores to it; what it says is done to the
frozen context, DONE grows, and the handler returns. -/
def execEret (s : State) : Res :=
  onTwins s [] fun l ls q =>
    let va := ls.mbox + 64 * (1 + ls.mdone % 63) + 56
    if !q.intrap then seqFault s l false cILLEGAL 0
    else if ls.mput ≤ ls.mdone then eretDone s l ls
    else if (match q.op with
        | .page _ => true
        | _ => false) then s
    else match vread l (some false) (lineRuns va 8) [] [] s with
      | .busy s1 => s1
      | .wait j s1 => updSeq s1 l false fun q => { q with op := .page j }
      | .fault c a s1 => seqFault s1 l false c a
      | .ok b p s1 =>
        if p.any id then seqFault s1 l false cPCTL va
        else eretDone (finishRecord s1 l ls (mget FRec.zero ls.posted ls.mdone) (leNat b)) l ls

end Sys2Proof.Machine
end

