-- ==== Sys2Proof/Machine/Stream.lean ====
section
/-! DEFINITION. Streams (R180, R274, R275, R419, R433): tokens that a stream port delivers and takes. -/

namespace Sys2Proof.Machine

/-- The entry of a stream. -/
def entOf (ls : Lease) (sid : Nat) : Option StrmEnt := ls.img.strms.find? fun e => e.id == sid
/-- Tile of a stream port. -/
def strmTile (ls : Lease) (e : StrmEnt) : Nat := tileKey ls e.col e.row
/-- The stream becomes `x`. -/
def setStrm (s : State) (l sid : Nat) (x : Stream) : State := updLease s l fun ls => { ls with streams := mput ls.streams sid x }
/-- Is a HOLD round open? Then nothing crosses a stream port behind its marker (R408). -/
def inHold (ls : Lease) : Bool :=
  match ls.round with
  | some r => r.isHold
  | none => false
/-! ### Input -/

/-- Is there a credit for the input port of a stream (R168)? -/
def entryFree (ls : Lease) (e : StrmEnt) : Bool :=
  (portTiles ls e).all fun t => match tileOf ls t with
    | some x => !x.passed && portRoom x e.ctx (e.port - 16)
    | none => false
/-- A token enters the input port of a stream. -/
def intoPort (s : State) (l : Nat) (ls : Lease) (e : StrmEnt) (k : Tok) : State :=
  (portTiles ls e).foldl (fun s t => updTile s l t fun x =>
    { x with inl := mput x.inl (8 * e.ctx + (e.port - 16)) { k with inc := incOf s ls t } }) s

/-- The token that the replay log of a paired lease holds for token `k` of a stream (R419, R421): its bytes stand in one
part per line, each behind its outcome byte. -/
def loggedTok (ls : Lease) (sid k : Nat) (tag : BitVec 3) : Option Tok :=
  (ls.log.find? fun e => e.key == [2, sid, k]).map fun e =>
    let va := (mget Stream.zero ls.streams sid).base + 96 * k
    let cut := min 96 (128 - va % 128)
    let b := (e.data.drop 1).take cut ++ (e.data.drop (2 + cut)).take (96 - cut)
    let p := (e.pois.drop 1).take cut ++ (e.pois.drop (2 + cut)).take (96 - cut)
    { Tok.zero with
      data := BitVec.ofNat 768 (leNat b)
      pois := maskOf fun i => ((p.drop (4 * i)).take 4).any id
      tag := tag }

/-- The request for token `k` of a memory stream (R275): FREE, relaxed, under the stream's view. -/
def strmReq (l sid : Nat) (x : Stream) (op : MOp) (parts : List Part) : Req :=
  { iss := .stream l sid, op := op, view := x.view, floor := 0, after := [], acq := false, rel := false, scope := .panel,
    posted := false, stage := .issued, parts := parts, dst := .strm, chain := none, pc := 0, word := 0, born := 0, key := [] }

/-- A stream access that its view refuses (R98): a record of source 3, and the stream stops. -/
def strmFault (s : State) (l sid : Nat) (ls : Lease) (e : StrmEnt) (cause addr : Nat) : State :=
  raise (setStrm s l sid { mget Stream.zero ls.streams sid with stopped := true, req := none }) l
    { FRec.zero with source := 3, cause := cause, aux := sid, faddr := addr, tile := some (strmTile ls e), ctx := e.ctx, port := e.port - 16 }

/-- The next request of an input stream. -/
def askToken (s : State) (l sid : Nat) (ls : Lease) (e : StrmEnt) (x : Stream) : State :=
  match (if ls.paired then loggedTok ls sid x.k x.tag else none) with
  | some t => setStrm s l sid { x with k := x.k + 1, buf := some t }
  | none =>
    match viewCheck ls x.view .rd with
    | some c => strmFault s l sid ls e c (x.base + 96 * x.k)
    | none =>
      let r := strmReq l sid x .read (lineParts 0 (x.base + 96 * x.k) 96)
      let (s1, id) := addReq s { r with key := if ls.paired then [2, sid, x.k] else [] }
      setStrm s1 l sid { x with k := x.k + 1, req := some id }

/-- The head token that a peer has sent for a stream of kind 2 (R433): the coupler, the channel, the token. -/
def chanHead (s : State) (x : Stream) : Option (Nat × Nat × Nat × Tok) :=
  let k := x.base % 16
  let c := x.base / 16 % 65536
  match mget [] (couplerOf s k).chans c with
  | (t, tok) :: _ => some (k, c, t, tok)
  | [] => none

/-- The head of a channel goes. -/
def popChan (s : State) (k c : Nat) : State :=
  updCoupler s k fun x => { x with chans := mset [] x.chans c ((mget [] x.chans c).drop 1) }

/-- The local tenant that a coupler's map gives a sender (R431, R432). -/
def localTenant (s : State) (k t : Nat) : Option Nat :=
  let e := mget (0 : BitVec 16) (couplerOf s k).tmap t
  if t < 256 && e.getLsbD 15 then some (e.toNat % 4096) else none

/-- May a marker go into the port now (R180, R275)? It goes behind the last request, unless that is withheld for a page
and issued again after the cut (R64); a port that is not bound, or whose stream has stopped, has none. -/
def markReady (s : State) (x : Stream) : Bool :=
  !x.bound || x.stopped || (x.buf.isNone && (match x.req.bind (reqOf s) with
    | some r => (match r.stage with
      | .withheld _ => true
      | _ => false)
    | none => true))

/-- STREAM_INPUT_TOKEN (R180, R275, R433): a marker goes behind the last request; the token that has come is delivered;
after the last token comes EOS, which ends the binding; else the next token is asked for. -/
def execStreamInputToken (l sid : Nat) (s : State) : Res :=
  match leaseOf s l with
  | none => .next s
  | some ls =>
    let x := mget Stream.zero ls.streams sid
    match entOf ls sid with
    | none => .next s
    | some e =>
      if !leaseLive s ls || !strmIn e || !entryFree ls e then .next s
      else match x.mark.filter fun _ => markReady s x with
        | some m => .next (setStrm (intoPort s l ls e m) l sid { x with mark := none })
        | none =>
          if !x.bound || x.stopped then .next s
          else match x.buf with
            | some t => .next (setStrm (intoPort s l ls e t) l sid { x with buf := none, scnt := x.scnt + 1 })
            | none =>
              if x.req.isSome || x.mark.isSome || !x.started || inHold ls then .next s
              else if x.kind = 2 then
                match chanHead s x with
                | none => .next s
                | some (k, c, t, tok) =>
                  if localTenant s k t ≠ some ls.tenant then .next (emit (popChan s k c) (.peerReply k .badTenant))
                  else
                    let s1 := intoPort (popChan s k c) l ls e tok
                    .next (setStrm s1 l sid { x with
                      bound := !isEos tok
                      eos := isEos tok
                      scnt := if isData tok then x.scnt + 1 else x.scnt })
              else if x.k < x.len then .next (askToken s l sid ls e x)
              else .next (setStrm (intoPort s l ls e eosTok) l sid { x with bound := false, eos := true })

/-! ### Output -/

/-- The head tokens of an output port, of both rectangles for a pair; none before every one has come. -/
def outHeads (ls : Lease) (e : StrmEnt) : Option (List Tok) :=
  let hs := (portTiles ls e).map fun t => match tileOf ls t with
    | some x => ((outPort (ctxOf x e.ctx) (e.port - 24)).pub.head?)
    | none => none
  if hs.all Option.isSome then some (hs.filterMap id) else none

/-- The heads have been taken; their slots are free again when their credits return (R168). -/
def takeOut (s : State) (l : Nat) (ls : Lease) (e : StrmEnt) : State :=
  (portTiles ls e).foldl (fun s t => updTile s l t fun x => takeHead x (e.port) e.ctx) s

/-- Does the replay log say that the store of token `k` has been performed (R421)? -/
def storeLogged (ls : Lease) (sid k : Nat) : Bool := ls.log.any fun e => e.key == [2, sid, k] && e.performed

/-- A data token taken by a memory stream (R147, R275). -/
def storeToken (s : State) (l sid : Nat) (ls : Lease) (e : StrmEnt) (x : Stream) (t : Tok) : State :=
  if x.len ≤ x.k then
    noteFault s l (strmTile ls e) e.ctx cSTRAY fun r => { r with port := e.port - 16 }
  else if ls.paired && storeLogged ls sid x.k then setStrm s l sid { x with k := x.k + 1, scnt := x.scnt + 1 }
  else
    match viewCheck ls x.view .wr with
    | some c => strmFault s l sid ls e c (x.base + 96 * x.k)
    | none =>
      let bs := leBytes 96 t.data.toNat
      let ps := (List.range 96).map fun i => t.pois.getLsbD (i / 4)
      let r := strmReq l sid x .write (writeParts 0 (x.base + 96 * x.k) bs ps)
      let (s1, _) := addReq s { r with key := if ls.paired then [2, sid, x.k] else [] }
      setStrm s1 l sid { x with k := x.k + 1, acks := x.acks + 1 }

/-- A token sent to a peer's stream (R433). The peer answers for the first one, whose tenant it checks. -/
def sendToken (s : State) (l sid : Nat) (ls : Lease) (x : Stream) (t : Tok) : State :=
  let k := x.base % 16
  let s1 := emit s (.toPeer k (x.base / 16 % 65536) ls.tenant t)
  let y := { x with k := x.k + 1, scnt := if isData t && x.k != 0 then x.scnt + 1 else x.scnt }
  let z := { y with eos := isEos t, bound := !(isEos t && x.acks == 0 && x.k != 0) }
  if x.k = 0 then
    let (s2, id) := addReq s1 { strmReq l sid x .write [{ mkPart 0 0 0 with loc := .peer k 0 }] with stage := .sent }
    setStrm s2 l sid { z with acks := x.acks + 1, req := some id }
  else setStrm s1 l sid z

/-- STREAM_OUTPUT_TOKEN (R275, R418, R433): the port's head is stored or sent; markers are absorbed by a memory stream;
EOS ends the binding once every store is acknowledged. The heads of a pair must agree. -/
def execStreamOutputToken (l sid : Nat) (s : State) : Res :=
  match leaseOf s l with
  | none => .next s
  | some ls =>
    let x := mget Stream.zero ls.streams sid
    match entOf ls sid with
    | none => .next s
    | some e =>
      if !leaseLive s ls || !strmOut e || !x.bound || x.stopped || x.eos || x.req.isSome then .next s
      else match outHeads ls e with
        | none => .next s
        | some [] => .next s
        | some (t :: r) =>
          if r.any fun u => { u with inc := t.inc } != t then .next (rollback s l)
          else
            let s1 := takeOut s l ls e
            if x.kind = 2 then
              if (couplerOf s (x.base % 16)).up then .next (sendToken s1 l sid ls x t) else .next s
            else if isEos t then .next (setStrm s1 l sid { x with eos := true, bound := decide (x.acks ≠ 0) })
            else if isData t then .next (storeToken s1 l sid ls e x t)
            else .next s1

end Sys2Proof.Machine
end

