-- ==== Sys2Proof/Machine/Place.lean ====
section
/-! DEFINITION. The placement engine (R21, R22, R78, R365, R368 to R371, R373 to R378, R381, R395, R404, R405, R411,
R416, R417): free tiles, starting tasks and children, resuming leases, compaction. -/

namespace Sys2Proof.Machine

/-! ### Free tiles and sequencers -/

/-- Does a rectangle at panel column `c`, row `r` hold the panel position? -/
def inBox (c r w h pc pr : Nat) : Bool := c ≤ pc && pc < c + 2 * w && r ≤ pr && pr < r + 2 * h

/-- Does tile `t` of a placed lease still hold its place? A passed tile and, from the begin of the final phase on, an
unused tile do not (R187). -/
def holdsTile (ls : Lease) (t : Nat) : Bool :=
  match tileOf ls t with
  | some x => !x.passed
  | none => !(ls.finalPh && ls.phStarted)

/-- Does a lease hold the panel position? -/
def holdsPos (ls : Lease) (pc pr : Nat) : Bool :=
  ls.placed &&
    ((inBox ls.col ls.row ls.img.w ls.img.h pc pr && holdsTile ls (tileKey ls (pc - ls.col) (pr - ls.row))) ||
     (ls.paired && inBox ls.rcol ls.rrow ls.img.w ls.img.h pc pr && holdsTile ls (tileKey ls (pc - ls.rcol) (pr - ls.rrow) + replicaBase)))

/-- A die takes no new tiles while it is evacuated or reset (R415). -/
def dieTaken (s : State) (d : Nat) : Bool := s.dieGo && s.dieNo == d && 1 ≤ s.dieState && s.dieState ≤ 3

/-- A free tile on a live die (R27, R376); the leases in `but` do not count. -/
def tileFree (s : State) (but : Nat → Lease → Bool) (pc pr : Nat) : Bool :=
  dieLive s.boot (dieAt pc pr) && !dieTaken s (dieAt pc pr) && !(s.leases.any fun e => !but e.1 e.2 && holdsPos e.2 pc pr)

/-- Is every tile of a rectangle free? -/
def boxFree (s : State) (but : Nat → Lease → Bool) (c r w h : Nat) : Bool :=
  decide (c + 2 * w ≤ Config.panelCols) && decide (r + 2 * h ≤ Config.panelRows) &&
    (List.range (2 * h)).all fun j => (List.range (2 * w)).all fun i => tileFree s but (c + i) (r + j)

/-- A free sequencer of a die. DESIGN CHOICE: the one of the lowest number (R22; log 113). -/
def seqFree (s : State) (but : Nat → Lease → Bool) (d : Nat) : Option Nat :=
  (List.range 16).find? fun n => !(s.leases.any fun e => !but e.1 e.2 && e.2.placed &&
    ((anchorDie e.2 == d && e.2.seqNo == n) || (e.2.paired && dieAt e.2.rcol e.2.rrow == d && e.2.rseqNo == n)))

/-- Origins in panel row-major order (R21, R376). -/
def origins (align : Bool) : List (Nat × Nat) :=
  let st := if align then 16 else 2
  ((List.range (Config.panelRows / st)).map fun j => (List.range (Config.panelCols / st)).map fun i => (st * i, st * j)).flatten

/-- A rectangle and its sequencer: the first origin that satisfies R376. -/
def findBox (s : State) (but : Nat → Lease → Bool) (w h : Nat) (align : Bool) (ok : Nat → Nat → Bool) : Option (Nat × Nat × Nat) :=
  (origins align).findSome? fun o =>
    if ok o.1 o.2 && boxFree s but o.1 o.2 w h then (seqFree s but (dieAt o.1 o.2)).map fun n => (o.1, o.2, n) else none

/-- Dies that a rectangle touches. -/
def diesOf (c r w h : Nat) : List Nat :=
  ((List.range (2 * h)).map fun j => (List.range (2 * w)).map fun i => dieAt (c + i) (r + j)).flatten.eraseDups

/-- Where a lease stands: primary origin with its sequencer, replica origin with its own (R417). -/
structure Spot where
  col : Nat
  row : Nat
  seqNo : Nat
  rcol : Nat
  rrow : Nat
  rseqNo : Nat

/-- A place for a lease, for a pair with a replica that shares no die with the primary (R376, R417). -/
def findSpot (s : State) (but : Nat → Lease → Bool) (w h : Nat) (align paired : Bool) (ok : Nat → Nat → Bool) : Option Spot :=
  if paired then
    (origins align).findSome? fun o =>
      match findBox s but w h align (fun c r => c == o.1 && r == o.2 && ok c r) with
      | none => none
      | some (c, r, n) =>
        let ds := diesOf c r w h
        match findBox s but w h align (fun c' r' => !((diesOf c' r' w h).any ds.contains)) with
        | none => none
        | some (c', r', n') => some ⟨c, r, n, c', r', n'⟩
  else (findBox s but w h align ok).map fun b => ⟨b.1, b.2.1, b.2.2, 0, 0, 0⟩

/-- No lease is left out of the count. -/
def nobody : Nat → Lease → Bool := fun _ _ => false

/-- Could the rectangle fit on the live panel outside pinned leases (R365, R375)? -/
def fitsSomewhere (s : State) (w h : Nat) (align paired : Bool) : Bool :=
  (findSpot { s with leases := s.leases.filter fun e => e.2.lrec.pin } nobody w h align paired fun _ _ => true).isSome

/-! ### Bound segments -/

/-- Window base of segment `key` = 16·die + segment (R77). -/
def segAddr (key : Nat) : Nat := scratchBase + key / 16 * scratchSize + key % 16 * 0x200000
/-- Is a bound segment covered entirely by grants of the tenant (R78)? -/
def segCovered (s : State) (tenant key : Nat) : Bool :=
  inScratch s.boot (segAddr key) && (List.range 1024).all fun i => tenantOk s tenant (segAddr key + 2048 * i)
/-- Does any grant touch the segment named `key`? -/
def segGranted (s : State) (key : Nat) : Bool :=
  s.scratchGrants.any fun g => overlaps g.base g.len (segAddr key) 0x200000

/-- One segment is relocated to die `d` (R78): its map entry is exchanged with that of an uncovered segment of the die;
the contents stand under their window addresses. -/
def relocateSeg (s : State) (d key : Nat) : State :=
  let held (k : Nat) : Nat := mget k s.segMap k
  if held key / 16 = d then s
  else match (List.range (160 * 16)).find? fun n => held n / 16 == d && !segGranted s n with
    | none => s
    | some n => { s with segMap := mput (mput s.segMap key (held n)) n (held key) }

/-- The bound segments of a lease follow its anchor die (R78, R409). -/
def relocateSegs (s : State) (l : Nat) (old : Nat) : State :=
  match leaseOf s l with
  | none => s
  | some ls =>
    if anchorDie ls = old then s
    else ls.lrec.segs.foldl (fun s k => relocateSeg s (anchorDie ls) (16 * k.1 + k.2)) s

/-! ### Starting a lease -/

/-- A candidate that may start: its record, and in whose name. -/
structure Cand where
  rec_ : Rec
  tenant : Nat
  queue : Nat
  task : Nat
  parent : Option (Nat × Nat)
  fromReserve : Bool
  paired : Bool

/-- What trying to start a candidate answers. -/
inductive Try
  | started (s : State)
  /-- R369: the cause. -/
  | refused (cause : Nat) (s : State)
  /-- Waits for a page of the image or of the save area. -/
  | wait (s : State)
  /-- Waits for tiles, with die alignment where the consist asks for it. -/
  | noRoom (align : Bool) (s : State)

/-- A page that the Shunter waits for: one resolution per page (R60), which outlives the try. -/
def adoptJob (s : State) (tenant j : Nat) : Option State :=
  match mfind s.jobs j with
  | none => some s
  | some x =>
    match s.jobs.find? fun e => e.1 != j && e.2.lease == 0xFFF && e.2.tenant == tenant && e.2.va / 65536 == x.va / 65536 with
    | some e => if e.2.st = .answered false then none else some { s with jobs := mdel s.jobs j }
    | none => some { s with jobs := mput s.jobs j { x with lease := 0xFFF } }

/-- Exits of a pair: the memory port of each A tile, each stream port, the sequencer (R418). -/
def exitCount (im : Img) : Nat := im.w * im.h + im.strms.length + 1

/-- The firewall of a tile: edges at the boundary of the rectangle are closed (R411). -/
def wallOf (im : Img) (t : Nat) : BitVec 4 :=
  let c := t % replicaBase % (2 * im.w)
  let r := t % replicaBase / (2 * im.w)
  BitVec.ofNat 4 ((if r = 0 then 8 else 0) + (if c + 1 = 2 * im.w then 4 else 0) + (if r + 1 = 2 * im.h then 2 else 0) + (if c = 0 then 1 else 0))

/-- A lease that stands at a spot. -/
def atSpot (ls : Lease) (p : Spot) : Lease :=
  { ls with col := p.col, row := p.row, seqNo := p.seqNo, rcol := p.rcol, rrow := p.rrow, rseqNo := p.rseqNo }

/-- A sequencer as its grant sets it (R253, R370). -/
def grantSeq (r : Rec) (im : Img) (t : Nat) : Seq :=
  { Seq.zero with
    pc := r.image + im.seq
    x := (List.range 8).foldl (fun m i => mset 0 m (i + 1) (r.args.getD i 0)) []
    ord := { OrdSt.zero with floor := t } }

/-- The granted lease (R159, R163, R176, R253, R370, R387, R411): every access of it comes after the release by its last
dependence. -/
def grantLease (s : State) (c : Cand) (im : Img) (p : Spot) (slot : Nat) (q : QRec) (smap : List (Nat × Nat)) : Lease :=
  let l0 := atSpot { freshLease im c.rec_ with paired := c.paired } p
  let t := tickOf s (anchorDie l0)
  let ts := if c.paired then l0.tiles ++ l0.tiles.map fun e => (e.1 + replicaBase, e.2) else l0.tiles
  let grp (b : Nat) : List (Nat × Group) := im.grps.map fun g => (g.1 + b, (⟨g.2, 0, 0⟩ : Group))
  { l0 with
    tenant := c.tenant
    queue := c.queue
    task := c.task
    slot := slot
    parent := c.parent
    fromReserve := c.fromReserve
    trackers := (List.range (if c.paired then 32 else 16)).map fun k => (k, { Tracker.zero with floor := t })
    groups := (grp 0 ++ if c.paired then grp 256 else []).foldl (fun m g => mset ⟨0, 0, 0⟩ m g.1 g.2) []
    goFloor := t
    mbox := q.mbx + 4096 * slot
    saveBase := q.save + 4096 * q.slotsz * slot
    smap := smap
    meas := s.nonce
    seq := grantSeq c.rec_ im t
    seqR := grantSeq c.rec_ im t
    tiles := ts.map fun e => (e.1, { Tile.zero with fwl := wallOf im e.1, ord := { OrdSt.zero with floor := t } }) }

/-- The lowest lease number that no lease holds (R159; log 25). -/
def freeLease (s : State) : Option Nat := (List.range 4095).find? fun n => (leaseOf s n).isNone

/-- Conditions of R368 and R419 on a record and its image: the cause of the first that fails. -/
def startBad (s : State) (c : Cand) (im : Img) (q : QRec) (logSz : Nat) : Option Nat :=
  let r := c.rec_
  if r.w ≠ im.w || r.h ≠ im.h || q.slotsz < im.savesz || 40960 < r.reserve + (if c.paired then 8 else 4) * im.w * im.h ||
      r.segs.any (fun k => !segCovered s c.tenant (16 * k.1 + k.2)) || (c.paired && logSz < exitCount im) then some cCONFIG
  else none

/-- Pages of the save map (R395, R416): the save area, the mailbox, the replay logs of a pair. -/
def mapPages (im : Img) (q : QRec) (slot : Nat) (paired : Bool) (logBase logSz : Nat) : List Nat :=
  pageNos (q.save + 4096 * q.slotsz * slot) (4096 * im.savesz) ++ pageNos (q.mbx + 4096 * slot) 4096 ++
    if paired then pageNos (logBase + slot * logSz * 2 ^ 22) (logSz * 2 ^ 22) else []

/-- A candidate is tried (R248, R368, R369, R376, R395): the image is read and checked, the save map is filled, and the
rectangle is found; nothing of the panel is written before. -/
def tryStart (s : State) (c : Cand) (slot : Nat) : Try :=
  let q := queueOf s c.queue
  if c.rec_.bad ≠ 0 then .refused c.rec_.bad s
  else match q.parsed, freeLease s with
  | some qr, some l =>
    let l0 := { freshLease Img.blank c.rec_ with tenant := c.tenant, placed := false }
    let back (s' : State) : State := { s' with leases := mdel s'.leases l }
    match readImage { s with leases := mput s.leases l l0 } l none c.rec_.image with
    | .busy s1 => .wait (back s1)
    | .bad cause _ _ s1 => .refused cause (back s1)
    | .wait j s1 => match adoptJob (back s1) c.tenant j with
      | some s2 => .wait s2
      | none => .refused cTRANS { back s1 with jobs := s1.jobs.filter fun e => !(e.1 == j || (e.2.lease == 0xFFF && e.2.tenant == c.tenant && e.2.st == .answered false)) }
    | .ok _ im _ s1 =>
      match startBad s1 c im qr q.logSz with
      | some cause => .refused cause (back s1)
      | none =>
        match findSpot (back s1) nobody im.w im.h im.diealign c.paired (fun _ _ => true) with
        | none => .noRoom im.diealign (back s1)
        | some p =>
          match smapPages l (mapPages im qr slot c.paired q.logBase q.logSz) s1 with
          | .wait s2 => .wait (back s2)
          | .bad cause _ _ s2 => .refused cause (back s2)
          | .ok s2 =>
            let smap := match leaseOf s2 l with
              | some x => x.smap
              | none => []
            let g := grantLease s2 c im p slot qr smap
            let s3 := { s2 with leases := mput s2.leases l g, awaitSave := if c.paired then mput s2.awaitSave l g else s2.awaitSave }
            let s4 := smapWrAll s3 l g.mbox (List.replicate 64 0)
            let s5 := updQueue s4 c.queue fun q => { q with slots := nadd q.slots slot }
            .started (bump (match c.parent with
              | some (pl, n) => updLease s5 pl fun x => { x with children := mmod x.children n fun k => { k with lease := some l } }
              | none => s5))
  | _, _ => .noRoom false s

/-! ### Heads of queues -/

/-- The lowest free save slot (R371). -/
def freeSlot (q : Queue) : Option Nat :=
  match q.parsed with
  | some r => (List.range r.nslot).find? fun n => !nhas q.slots n
  | none => none

/-- What examining a dependence answers. -/
inductive Dep
  | ok | no
  | bad (cause : Nat)

/-- A SYNC dependence is examined for the first time (R29, R34 to R53, R79, R81, R370): its word is checked and read; a generation that
has not passed registers a waiter, and the record keeps its number. A word at the host or a peer has no home of this panel (log 106). -/
def depSync (s : State) (tenant i n : Nat) (r : Rec) : Dep × Rec × State :=
  let va := bits n 16 44 * 16
  match tvAt s tenant va .rd with
  | .error (.bad c _ _ s1) => (.bad c, r, s1)
  | .error (.wait s1) => (.no, r, s1)
  | .error (.ok _ _ s1) => (.no, r, s1)
  | .ok (lc, s1) =>
    match lc with
    | .mem _ =>
      let (b, p, s2) := devGet s1 lc 16
      let w : Waiter := ⟨lc, 0xFFF, bits n 0 16, s2.nextId⟩
      let s3 := { bump s2 with nextId := s2.nextId + 1 }
      if p.any id then (.bad cPADDR, r, s3)
      else if w.freed (leNat b) then (.ok, { r with depw := mput r.depw i w.req }, s3)
      else (.no, { r with depw := mput r.depw i w.req }, { s3 with waiters := s3.waiters ++ [w] })
    | _ => (.bad cPERM, r, s1)

/-- Dependence `i` of a record (R370). A SYNC dependence that waits is met once its waiter has been released. -/
def depMet (s : State) (tenant i : Nat) (d : Dword) (r : Rec) : Dep × Rec × State :=
  let n := d.toNat
  if bits n 62 2 = 1 then
    match mfind r.depw i with
    | some w => (if s.waiters.any fun x => x.lease == 0xFFF && x.req == w then .no else .ok, r, s)
    | none => depSync s tenant i n r
  else match queueOfVf s tenant (bits n 48 8) with
    | none => (.no, r, s)
    | some (_, q) =>
      let p := if q.st = .out || q.st = .switchingIn then q.sprog else q.progress
      (if (p + 2 ^ 32 - bits n 0 32) % 2 ^ 32 < 2 ^ 31 then .ok else .no, r, s)

/-- Of two answers, the one that counts for a record. -/
def Dep.and : Dep → Dep → Dep
  | .bad c, _ => .bad c
  | _, .bad c => .bad c
  | .no, _ => .no
  | .ok, x => x

/-- Every dependence of a record is examined. -/
def depsMet (s : State) (tenant : Nat) (r : Rec) : Dep × Rec × State :=
  (r.deps.zipIdx).foldl (init := (.ok, r, s)) fun a e =>
    let (d, r1, s1) := depMet a.2.2 tenant e.2 e.1 a.2.1
    (a.1.and d, r1, s1)

/-- A head task that is not started retires at once with the cause, and the queue stops starting (R369). -/
def refuseHead (s : State) (g cause : Nat) : State :=
  let q := queueOf s g
  match retireTask s g q.head cause with
  | (some s1, _) => queueError (updQueue s1 g fun q =>
      { q with head := (q.head + 1) % 2 ^ 32, headRec := none, depsOk := false, why := 0, age := 0, aged := false }) g cause
  | (none, s1) => s1

/-- May the queue start tasks (R371, R381)? -/
def mayStart (q : Queue) : Bool :=
  (q.st == .inn || q.st == .switchingOut) && q.en && !q.error && q.parsed.isSome && q.rd == .done && q.head != q.tail

/-- The record of the head is taken (R143, R368); a W or H of 0 comes from the image's header (R367). -/
def takeRecord (s : State) (g : Nat) : State :=
  let q := queueOf s g
  if !mayStart q then s
  else match q.parsed, q.headRec with
  | some qr, none =>
    let va := qr.ring + 128 * (q.head % 2 ^ qr.logrs)
    (match tvRead q.vf (lineRuns va 128) [] [] s with
     | .wait s1 => s1
     | .bad c _ _ s1 => refuseHead s1 g c
     | .ok b p s1 =>
       if p.any id then refuseHead s1 g cPCTL
       else match recOf b with
         | none => refuseHead s1 g cCONFIG
         | some r =>
           if r.w ≠ 0 && r.h ≠ 0 then updQueue s1 g fun q => { q with headRec := some r, depsOk := false }
           else match tvRead q.vf (lineRuns r.image 128) [] [] s1 with
             | .wait s2 => s2
             | .bad c _ _ s2 => refuseHead s2 g c
             | .ok hb p s2 =>
               if p.any id then refuseHead s2 g cPCTL
               else updQueue s2 g fun q => { q with headRec := some (r.sized (hdrOf hb)), depsOk := false })
  | _, _ => s

/-- Tiles that a record asks for, both rectangles of a pair (R377, R417). -/
def recTiles (r : Rec) (paired : Bool) : Nat := (if paired then 8 else 4) * r.w * r.h

/-- STATUS bits of a waiting head: 1 DEPWAIT, 2 NOFIT, 4 SLOTWAIT, 8 QUOTAWAIT (R365, R371). -/
def setWhy (s : State) (g : Nat) (w : BitVec 4) : State := updQueue s g fun q => { q with why := w }

/-- What trying a head answers: started, waiting for tiles, or not ready. -/
inductive HeadRes
  | started (s : State)
  | noRoom (s : State)
  | no (s : State)

/-- The head of a queue is tried in the order of R371; where it may not be placed (R375), it is only examined for STATUS and AGE. -/
def tryHead (s : State) (g : Nat) (may : Bool := true) : HeadRes :=
  let s0 := takeRecord s g
  let q := queueOf s0 g
  if !mayStart q then .no s0
  else match q.headRec with
    | none => .no s0
    | some r =>
      match (if q.depsOk then (.ok, r, s0) else depsMet s0 q.vf r) with
      | (.bad c, _, s1) => .no (refuseHead s1 g c)
      | (.no, r1, s1) => .no (setWhy (updQueue s1 g fun q => { q with headRec := some r1 }) g 1)
      | (.ok, _, s1) =>
        let s2 := updQueue s1 g fun q => { q with depsOk := true }
        match freeSlot q with
        | none => .no (setWhy s2 g 4)
        | some slot =>
          let v := vfOf s2 q.vf
          if v.tquota < v.tused + recTiles r q.pairEn + r.reserve then .no (setWhy s2 g 8)
          else match tryStart s2 ⟨r, q.vf, g, q.head, none, false, q.pairEn⟩ slot with
            | .refused c s3 => .no (refuseHead s3 g c)
            | .wait s3 => .no (setWhy s3 g 0)
            | .noRoom al s3 =>
              if fitsSomewhere s3 r.w r.h al q.pairEn then .noRoom (setWhy s3 g 0) else .noRoom (setWhy s3 g 2)
            | .started s3 =>
              if !may then .noRoom (setWhy s2 g 0) else .started (updVf (updQueue s3 g fun q =>
                { q with head := (q.head + 1) % 2 ^ 32, run := q.run + 1, headRec := none, depsOk := false, why := 0, age := 0, aged := false })
                q.vf fun v => { v with tused := v.tused + recTiles r q.pairEn + r.reserve })

/-! ### Children -/

/-- A child that is not started ends with the cause (R286, R369). -/
def endCand (s : State) (c : ChildCand) (cause : Nat) : State :=
  let s1 := { s with cands := s.cands.erase c }
  let back := if c.fromReserve then (if c.parent.isSome then 0 else recTiles c.rec_ c.paired) else recTiles c.rec_ c.paired + c.rec_.reserve
  let s2 := updVf s1 c.tenant fun v => { v with tused := v.tused - back }
  match c.parent with
  | some p => updLease s2 p fun x => { x with children := mmod x.children c.no fun k => { k with ended := some cause, lease := none } }
  | none => s2

/-- A child is tried (R370, R377). -/
def tryChild (s : State) (c : ChildCand) : HeadRes :=
  if c.rec_.bad ≠ 0 then .no (endCand s c c.rec_.bad)
  else match depsMet s c.tenant c.rec_ with
  | (.bad cause, _, s1) => .no (endCand s1 c cause)
  | (d, r, s1) =>
    let c' := { c with rec_ := r }
    let s2 := { s1 with cands := s1.cands.map fun x => if x = c then c' else x }
    match (match d with
      | .ok => freeSlot (queueOf s2 c.queue)
      | _ => none) with
    | none => .no s2
    | some slot =>
      match tryStart s2 ⟨r, c.tenant, c.queue, 0, some (c.parent.getD 4096, c.no), c.fromReserve, c.paired⟩ slot with
      | .refused cause s3 => .no (endCand s3 c' cause)
      | .wait s3 => .no s3
      | .noRoom _ s3 => .noRoom s3
      | .started s3 => .started { s3 with cands := s3.cands.erase c' }

/-! ### Leases that resume -/

/-- Is the lease ready to resume (R64, R373)? A parked one waits for the pager's reply. -/
def readyToResume (s : State) (l : Nat) (ls : Lease) : Bool :=
  ls.state == .away && (ls.purpose != .park || !(s.jobs.any fun e => e.2.lease == l && (match e.2.st with
    | .answered _ => false
    | _ => true)))

/-- A lease resumes (R78, R373, R392, R409): on new tiles under its own number. -/
def tryResume (s : State) (l : Nat) (ls : Lease) : HeadRes :=
  match findSpot s nobody ls.img.w ls.img.h ls.img.diealign ls.paired (fun _ _ => true) with
  | none => .noRoom s
  | some p =>
    .started (relocateSegs (updLease s l fun ls =>
      { atSpot ls p with
        state := .restore
        placed := true
        lastMove := if ls.purpose == .move then s.wall else ls.lastMove }) l (anchorDie ls))

/-! ### A round -/

/-- The state after a try. -/
def HeadRes.st : HeadRes → State
  | .started s => s
  | .noRoom s => s
  | .no s => s
/-- Does the candidate wait for tiles? -/
def HeadRes.lacksRoom : HeadRes → Bool
  | .noRoom _ => true
  | _ => false

/-- Insertion by a key, equal keys keep their order. -/
def insertBy {α : Type} (key : α → Nat) (a : α) : List α → List α
  | [] => [a]
  | b :: r => if key a < key b then a :: b :: r else b :: insertBy key a r
/-- Order by a rising key. -/
def sortBy {α : Type} (key : α → Nat) (l : List α) : List α := l.foldl (fun acc a => insertBy key a acc) []

/-- Leases that are ready to resume, oldest first (R373). -/
def resumeList (s : State) : List (Nat × Lease) :=
  sortBy (fun e : Nat × Lease => e.2.drainAt) (s.leases.filter fun e => readyToResume s e.1 e.2)
/-- Children by class, and within a class in the order of their launch. -/
def childList (s : State) : List ChildCand := sortBy (fun c : ChildCand => 3 - c.rec_.prio) s.cands
/-- Class of a queue's head. -/
def headClass (q : Queue) : Nat :=
  match q.headRec with
  | some r => r.prio
  | none => 0

/-- Step 1 of R373. -/
def stepResume (s : State) : State := (resumeList s).foldl (fun s e => (tryResume s e.1 e.2).st) s

/-- Step 2 of R373: aged heads, the highest AGE first, then the lowest queue number. -/
def stepAged (s : State) : State :=
  (sortBy (fun e : Nat × Queue => 2 ^ 32 - e.2.age) (s.queues.filter fun e => e.2.aged && mayStart e.2)).foldl
    (fun s e => (tryHead s e.1).st) s

/-- Step 3 of R373. -/
def stepChildren (s : State) : State := (childList s).foldl (fun s c => (tryChild s c).st) s

/-- Queues of a class with a head, in circular order behind the one served last (R374). -/
def circleOf (s : State) (cls : Nat) : List Nat :=
  let qs := (s.queues.filter fun e => mayStart e.2 && e.2.headRec.isSome && headClass e.2 == cls).map (·.1)
  let last := match mfind s.circle cls with
    | some g => g
    | none => 4096
  (qs.filter (last < ·)) ++ qs.filter (· ≤ last)

/-- The first queue of a circle, with or without credit, whose head starts: it pays one credit. -/
def serveOne (cls : Nat) (credit : Bool) : List Nat → State → Bool × State
  | [], s => (false, s)
  | g :: rest, s =>
    if decide (0 < (queueOf s g).cred) != credit then serveOne cls credit rest s
    else match tryHead s g with
      | .started s1 => (true, { updQueue s1 g (fun q => { q with cred := q.cred - 1 }) with circle := mput s1.circle cls g })
      | .noRoom s1 => serveOne cls credit rest s1
      | .no s1 => serveOne cls credit rest s1

/-- The credit of every queue that is switched in becomes its weight; a queue that is out keeps its credit (R374, R381). -/
def refillCred (s : State) : State :=
  { s with queues := mmap s.queues fun _ q =>
    if q.st == .inn || q.st == .switchingOut then { q with cred := max 1 q.weight } else q }

/-- Step 4 of R373 for one class (R374): queues are served while a head with credit starts; when only heads without
credit could start, credit is given anew. -/
def serveClass (cls : Nat) : Nat → State → State
  | 0, s => s
  | fuel + 1, s =>
    let s0 := (s.queues.filter fun e => mayStart e.2).foldl (fun s e => takeRecord s e.1) s
    match serveOne cls true (circleOf s0 cls) s0 with
    | (true, s1) => serveClass cls fuel s1
    | (false, s1) =>
      match serveOne cls false (circleOf s1 cls) s1 with
      | (true, _) => serveClass cls fuel (refillCred s1)
      | (false, s2) => s2

/-- Heads that wait behind an aged one are examined (R371, R375). -/
def examineHeads (s : State) : State :=
  (s.queues.filter fun e => mayStart e.2).foldl (fun s e => (tryHead s e.1 false).st) s

/-- Classes of the candidates that cannot be placed for want of tiles (R378). -/
def wantsOf (s : State) : List Nat :=
  ((resumeList s).filter fun e => (tryResume s e.1 e.2).lacksRoom).map (fun e => e.2.lrec.prio) ++
  ((childList s).filter fun c => (tryChild s c).lacksRoom).map (fun c => c.rec_.prio) ++
  ((s.queues.filter fun e => mayStart e.2 && (tryHead s e.1).lacksRoom).map fun e => headClass e.2)

/-- AGE of every head that met all conditions but placement (R375). -/
def ageHeads (s : State) : State :=
  { s with queues := mmap s.queues fun _ q =>
    if mayStart q && q.depsOk && q.why == 0 && q.headRec.isSome then
      { q with age := q.age + 1, aged := decide (max 1 s.ageMax ≤ q.age + 1) }
    else q }

/-- Claims on leases whose slice is over (R378). -/
def setClaims (s : State) (wants : List Nat) : State :=
  { s with leases := mmap s.leases fun _ ls =>
    { ls with claim := ls.placed && sliceOver ls && wants.any fun c => decide (ls.lrec.prio ≤ c) } }

/-! ### Compaction -/

/-- Free tiles on live dies. -/
def freeTiles (s : State) : Nat :=
  ((List.range Config.panelRows).map fun r => ((List.range Config.panelCols).filter fun c => tileFree s nobody c r).length).sum
/-- Is a granule free? -/
def granuleFree (s : State) (c r : Nat) : Bool := boxFree s nobody (2 * c) (2 * r) 1 1
/-- Tiles of the largest rectangle whose bottom left granule is the first column's: `hs` are the free granules above and
in each column, `w` and `m` the width and the least height so far. -/
def bestFrom : List Nat → Nat → Nat → Nat
  | [], _, _ => 0
  | h :: hs, w, m => max (4 * (w + 1) * min m h) (bestFrom hs (w + 1) (min m h))
/-- Tiles of the largest free rectangle that ends in a row of granules. -/
def bestRow : List Nat → Nat
  | [] => 0
  | h :: hs => max (bestFrom (h :: hs) 0 h) (bestRow hs)
/-- Tiles of the largest free rectangle of whole granules (R376): row by row, with the free granules that stand on one
another in each column. -/
def largestFree (s : State) : Nat :=
  ((List.range (Config.panelRows / 2)).foldl (fun (a : List Nat × Nat) r =>
    let hs := (a.1.zipIdx).map fun e => if granuleFree s e.2 r then e.1 + 1 else 0
    (hs, max a.2 (bestRow hs))) (List.replicate (Config.panelCols / 2) 0, 0)).2
/-- The fragmentation index (R376). -/
def fragIndex (s : State) : Nat :=
  let f := freeTiles s
  if f = 0 then 0 else 256 - 256 * largestFree s / f

/-- Is a move under way? The Shunter moves one lease at a time (R404). -/
def moveUnderWay (s : State) : Bool := s.leases.any fun e => e.2.purpose == .move

/-- May the lease be moved now (R404)? -/
def movable (s : State) (l : Nat) (ls : Lease) (always : Bool) : Bool :=
  ls.state == .run && !ls.lrec.pin && savable ls && !ls.ckWanted &&
  !(s.jobs.any fun e => e.2.lease == l && (match e.2.st with
    | .answered _ => false
    | _ => true)) &&
  !(match ls.commit with
    | some c => c.phase == 0
    | none => false) &&
  (always || ls.lrec.compact || ls.lastMove == 0 || decide (ls.lastMove + 10000 * Config.fcPerUs ≤ s.wall))

/-- A place further to the north-west than where the lease stands, its own tiles counted as free (R376). -/
def betterSpot (s : State) (l : Nat) (ls : Lease) : Bool :=
  (findSpot s (fun k _ => k == l) ls.img.w ls.img.h ls.img.diealign ls.paired
    (fun c r => decide (r < ls.row) || (r == ls.row && decide (c < ls.col)))).isSome

/-- Compaction (R376, R404): one lease that can go further to the north-west is drained for a move. -/
def compactStep (s : State) : State :=
  let due := s.queues.any (fun e => e.2.aged && mayStart e.2) || (s.cthresh < 256 && s.cthresh < fragIndex s)
  if !due || moveUnderWay s then s
  else match s.leases.find? fun e => movable s e.1 e.2 false && betterSpot s e.1 e.2 with
    | some e => startDrain s e.1 .move
    | none => s

/-- SHUNTER_ROUND (R373 to R376, R378, R381): candidates in their order, ages, claims, queues that switch out, and
compaction. -/
def execShunterRound (s : State) : Res :=
  if s.fatal then .next s
  else
    let s0 := { s with leases := mmap s.leases fun _ ls => closeRound ls }
    let s1 := s0.queues.foldl (fun s e => if e.2.st == .inn || e.2.st == .switchingOut then takeRecord (loadQrec s e.1) e.1 else s) s0
    let s2 := stepAged (stepResume s1)
    let s3 := if s2.queues.any (fun e => e.2.aged && mayStart e.2) then examineHeads s2
      else [3, 2, 1, 0].foldl (fun s c => serveClass c 65536 s) (stepChildren s2)
    let s4 := setClaims (ageHeads s3) (wantsOf s3)
    let s5 := s4.queues.foldl (fun s e => switchOut s e.1) s4
    .next (compactStep s5)

/-- QOS_SLICE_EXPIRY (R378): at the end of a slice the claim is worked out; an expired slice without a claim changes
nothing. -/
def execQosSliceExpiry (l : Nat) (s : State) : Res :=
  match leaseOf s l with
  | none => .next s
  | some ls =>
    if !sliceOver ls || !ls.placed then .next s
    else
      let wants := wantsOf s
      .next (updLease s l fun ls => { ls with claim := wants.any fun c => decide (ls.lrec.prio ≤ c) })

end Sys2Proof.Machine
end

