-- ==== Sys2Proof/Machine/Pair.lean ====
section
/-! DEFINITION. Paired leases (R417 to R421) and the credit audit (R422). -/

namespace Sys2Proof.Machine

/-! ### Exits -/

/-- Does the request come from the replica? -/
def fromReplica (r : Req) : Bool :=
  match r.iss with
  | .seq _ rep => rep
  | .elem _ t _ => decide (replicaBase ≤ t)
  | _ => false

/-- The twin of a request at the exit: the same key from the other rectangle (R418). -/
def twinOf (s : State) (id : Nat) (r : Req) : Option (Nat × Req) :=
  s.reqs.find? fun e => e.1 != id && e.2.stage == .exit && e.2.key == r.key && r.key != [] &&
    issLease e.2.iss == issLease r.iss && fromReplica e.2 != fromReplica r

/-- What a matched pair is compared in (R418). -/
def sameRequest (a b : Req) : Bool :=
  a.op == b.op && a.view == b.view && a.acq == b.acq && a.rel == b.rel && a.scope == b.scope && a.posted == b.posted &&
    a.chain == b.chain && a.parts.map (fun p => (p.lane, p.va, p.len)) == b.parts.map (fun p => (p.lane, p.va, p.len)) &&
    a.parts.map (fun p => (p.data, p.pois, p.cmp, p.cmpPois)) == b.parts.map (fun p => (p.data, p.pois, p.cmp, p.cmpPois))

/-- Exit of a request: the memory port of its A tile, or the sequencer (R418). -/
def exitOf (ls : Lease) (r : Req) : Nat :=
  match r.iss with
  | .elem _ t _ => sliceOf t (granules ls)
  | .stream _ sid => 0x10000 + sid
  | _ => 0xFFFF

/-- Entries of an exit's log (R419). -/
def logCount (ls : Lease) (e : Nat) : Nat := (ls.log.filter fun x => x.exit == e).length
/-- A log holds 4 MiB in entries of 128 bytes. -/
def logFull (ls : Lease) (e : Nat) : Bool := decide (32768 ≤ logCount ls e)
/-- A log has reached 3 MiB: a checkpoint is requested. -/
def logDue (ls : Lease) : Bool := ls.log.any fun x => decide (24576 ≤ logCount ls x.exit)

/-- The parts of a request with what its log entry holds: per part an outcome byte and the bytes (R419). -/
def logParts : List Part → List Byte → List Bool → List Part
  | [], _, _ => []
  | p :: r, d, q =>
    { p with
      st := .done
      code := BitVec.ofNat 2 (d.headD 0).toNat
      data := (d.drop 1).take p.len
      pois := (q.drop 1).take p.len } :: logParts r (d.drop (1 + p.len)) (q.drop (1 + p.len))

/-- The log entry that answers a request during a replay (R421). -/
def logged (ls : Lease) (r : Req) : Option LogEnt := ls.log.find? fun e => e.key == r.key && r.key != [] && e.performed

/-- The issuers go on as when an address token passes. -/
def passBoth (s : State) (p : Nat × Req) (t : Nat × Req) : State := seqPassed (seqPassed s p.1 p.2) t.1 t.2

/-- A matched pair is issued once, or answered from the log (R418, R421). -/
def issueOnce (s : State) (ls : Lease) (p t : Nat × Req) : State :=
  match logged ls p.2 with
  | some e =>
    let ps := logParts p.2.parts e.data e.pois
    let s1 := updReq (passBoth s p t) p.1 fun r => { r with parts := ps, stage := if r.chain.isSome then .chain else r.stage }
    if p.2.chain.isSome then s1 else perform s1 p.1 (tickOf s1 (anchorDie ls))
  | none =>
    if logFull ls (exitOf ls p.2) then s
    else updReq s p.1 fun r => { r with stage := if r.chain.isSome then .chain else .issued }

/-- PAIRED_EXIT_REQUEST (R418): a request that has met its twin is compared with it; a pair that agrees is issued once,
one that differs is a mismatch. -/
def execPairedExitRequest (id : Nat) (s : State) : Res :=
  match reqOf s id with
  | none => .next s
  | some r =>
    match leaseOf s (issLease r.iss), (if r.stage == .exit then twinOf s id r else none) with
    | some ls, some t =>
      if !leaseLive s ls then .next s
      else if !sameRequest r t.2 then .next (rollback s (issLease r.iss))
      else if fromReplica r then .next (issueOnce s ls t (id, r))
      else .next (issueOnce s ls (id, r) t)
    | _, _ => .next s

/-- TWIN_TIMEOUT (R4, R418): a request whose twin has not come within 50,000 fc of its lease is a mismatch. -/
def execTwinTimeout (id : Nat) (s : State) : Res :=
  match reqOf s id with
  | none => .next s
  | some r =>
    match leaseOf s (issLease r.iss) with
    | none => .next s
    | some ls =>
      if r.stage == .exit && leaseLive s ls && (twinOf s id r).isNone && (twinsOf s id r).isEmpty &&
          !(s.reqs.any fun e => e.1 != id && e.2.key == r.key && issLease e.2.iss == issLease r.iss) &&
          decide (Config.twinLimit ≤ ls.fcs - r.bornFc) then .next (rollback s (issLease r.iss))
      else .next s

/-! ### Checkpoints -/

/-- Is a transaction view of the lease open (R419)? -/
def transactionOpen (ls : Lease) : Bool := ls.views.any fun v => v.2.kind == 2

/-- What follows the save of a checkpoint (R420): shadow 3 is published without CLEAN, then the logs are emptied and the
round is released. -/
def checkpointSaved (s : State) (l : Nat) (ls : Lease) : State :=
  if ls.commit.isSome then s
  else if (mget ⟨false, false⟩ ls.shadows 3).doomed then forceStop s l cSAVE
  else if writeSet s l 11 ≠ [] then
    if s.clockStopped then forceStop s l cSAVE else startCommit s l ls true 11 false 0
  else updLease (releaseShunter s l) l fun ls =>
    { ls with state := .run, purpose := .none, log := [], mismatches := 0, shadows := mdel ls.shadows 3 }

/-- CHECKPOINT (R419, R420): a requested checkpoint drains the pair as soon as no transaction view is open; once the
area is written the shadow is published and the round released. -/
def checkpointAt (l : Nat) (s : State) : Res :=
  match leaseOf s l with
  | none => .next s
  | some ls =>
    if !ls.paired then .next s
    else if ls.state == .run && (ls.ckWanted || logDue ls) && !transactionOpen ls then
      .next (startDrain (updLease s l fun ls => { ls with ckWanted := true }) l .checkpoint)
    else if ls.state == .save && ls.purpose == .checkpoint && !ls.ckWanted then .next (checkpointSaved s l ls)
    else .next s

/-- CHECKPOINT (R420). -/
def execCheckpoint (s : State) : Res := onLease s fun l => checkpointAt l s

/-! ### The credit audit -/

/-- The link of outgoing track `tr` of tile `t` is audited (R422): its sender's credit count is compared with the free slots behind
it; a discrepancy goes to the PF and into a CREDIT_AUDIT record of the lease, and the count is set right. -/
def auditLink (s : State) (l t tr : Nat) : State :=
  match (leaseOf s l).bind fun ls => (tileOf ls t).map fun x => (ls, x) with
  | none => s
  | some (ls, x) =>
    let v := mget 0 x.cred tr
    if v = 0 then s
    else
      let free := 1 + dlyOn x.act tr - (onTrack x tr).length
      let credit := ((free : Int) + v).toNat
      let s1 := noteFault (pfEvent s 0x0A ls.tenant l (tileDie ls t) 0 tr (credit * 2 ^ 32 + free)) l t 0 cAUDIT fun r =>
        { r with port := tr, cnta := credit, cntb := free }
      match neighbour ls t (tr / 4) with
      | some u => setLink s1 l u (landTrack tr) 0
      | none => updTile s1 l t fun x => { x with cred := mdel x.cred tr }

/-- The links that leave the tiles of a die: lease, tile, outgoing track. -/
def linksOf (s : State) (die : Nat) : List (Nat × Nat × Nat) :=
  ((s.leases.filter fun e => e.2.placed).map fun e =>
    ((e.2.tiles.filter fun x => tileDie e.2 x.1 == die).map fun x =>
      (x.2.cred.filter fun c => c.1 < 16).map fun c => (e.1, x.1, c.1)).flatten).flatten

/-- The die whose window opens (R422): die n's opens 62.5 us x n after each 10 ms of the panel reference. -/
def auditDie (s : State) : Nat := s.wall / Config.fcPerAudit % 160

/-- CREDIT_AUDIT_WINDOW (R422): every link of a die is audited. The window's pause affects timing only. -/
def execCreditAuditWindow (die : Nat) (s : State) : Res :=
  .next ((linksOf s die).foldl (fun s e => auditLink s e.1 e.2.1 e.2.2) s)

end Sys2Proof.Machine
end

