-- ==== Sys2Proof/Machine/Clock.lean ====
section
/-! DEFINITION. Ticks, the version collector and clock rebases (R90 to R92, R109, R110), power and thermal limits (R442),
births of poison (R82, R85, R154, R155), fatal errors and their dump (R401, R402). -/

namespace Sys2Proof.Machine

/-! ### Ticks -/

/-- TICK_ADVANCE (R90, R91): the counters of the dies that `m` names step by one, each once in a period of the panel reference, which
advances when all of them have. At the last tick they stop; at the horizon the rebase begins. -/
def execTickAdvance (m : BitVec 160) (s : State) : Res :=
  if s.clockStopped || Config.stopTick ≤ s.tick then .next s
  else if s.lead ||| m ≠ BitVec.allOnes 160 then .next { s with lead := s.lead ||| m }
  else .next { s with
    tick := s.tick + 1
    lead := 0
    clockStopped := decide (s.tick + 1 = Config.stopTick)
    agenda := if s.tick + 1 = Config.horizonTick then .event .clockHorizon :: s.agenda else s.agenda }

/-- Views that a clock rebase revokes, in every lease and every save area (R92 step 1). -/
def oldViews (s : State) : List ViewRef :=
  (allViews s).filter fun e => decide (e.view.sts / 256 < Config.rebaseShift) && (e.saved || !writing s e.lease e.num)

/-- CLOCK_HORIZON (R91, R92): the PF receives the event and the views that are older than SHIFT are revoked. -/
def execClockHorizon (s : State) : Res :=
  if s.rebasing || s.tick < Config.horizonTick then .next s
  else .next ((oldViews s).foldl revokeView (pfEvent { s with rebasing := true } 0x04 0xFFF 0xFFF 0xFF 0 0 0))

/-- A tick after the rebase (R92). -/
def shiftTick (t : Nat) : Nat := t - Config.rebaseShift
/-- A timestamp after the rebase: its tick is reduced, its die kept (R92); timestamp 0 stays the initial one (R89). -/
def shiftStamp (x : Nat) : Nat :=
  if x / 256 < Config.rebaseShift then (if x = 0 then 0 else x % 256) else shiftTick (x / 256) * 256 + x % 256

/-- A stored timestamp after the rebase: (t - SHIFT, d), or (0, d) for an older one (R92 step 4). -/
def shiftLine (x : Line) : Line :=
  { x with
    ts := shiftStamp x.ts
    trunc := shiftStamp x.trunc
    old := x.old.map fun v => { v with ts := shiftStamp v.ts }
    lock := x.lock.map fun k => { k with tick := shiftTick k.tick } }

/-- Ordering state after the rebase. -/
def shiftOrd (o : OrdSt) : OrdSt :=
  { o with floor := shiftTick o.floor, lastR := shiftTick o.lastR, lastW := shiftTick o.lastW }

/-- A sequencer after the rebase. -/
def shiftSeq (q : Seq) : Seq :=
  { q with ord := shiftOrd q.ord, hist := q.hist.map fun e => (e.1, e.2.1, shiftTick e.2.2) }

/-- The ticks that a lease holds (R92 steps 3 and 5): views, tracker floors, floors of its agents and engines, its commit, its
cut. -/
def shiftLease (ls : Lease) : Lease :=
  { ls with
    views := mmap ls.views fun _ v => { v with sts := shiftStamp v.sts }
    trackers := mmap ls.trackers fun _ k => { k with floor := shiftTick k.floor }
    goFloor := shiftTick ls.goFloor
    cutAt := shiftStamp ls.cutAt
    engines := ls.engines.map fun e => { e with floor := shiftTick e.floor }
    commit := ls.commit.map fun c => { c with tick := shiftTick c.tick, c := shiftStamp c.c }
    seq := shiftSeq ls.seq
    seqR := shiftSeq ls.seqR
    tiles := mmap ls.tiles fun _ x => { x with ord := shiftOrd x.ord } }

/-- CLOCK_REBASE_COMPLETE (R92): W is computed and every home reclaims under it; then every tick of the panel is reduced
by SHIFT at one instant and the reach-through copies are dropped. -/
def execClockRebaseComplete (s : State) : Res :=
  if !s.rebasing then .next s
  else
    let w := watermark s
    let s1 := reclaimAll s w fun _ => true
    .next { s1 with
      wmark := shiftStamp w
      tick := shiftTick s1.tick
      rebasing := false
      clockStopped := false
      rebases := s1.rebases + 1
      copies := []
      lines := s1.lines.map fun e => (e.1, shiftLine e.2)
      reqs := mmap s1.reqs fun _ r => { r with floor := shiftTick r.floor, left := shiftTick r.left }
      leases := mmap s1.leases fun _ ls => shiftLease ls
      awaitSave := mmap s1.awaitSave fun _ ls => shiftLease ls }

/-- CLOCK_STOP (R91): the counters stand at their last value before the rebase is complete; TICK_ADVANCE has stopped them. -/
def execClockStop (s : State) : Res :=
  if s.rebasing && decide (Config.stopTick ≤ s.tick) then .next { s with clockStopped := true } else .next s

/-! ### The collector -/

/-- COLLECTOR_PASS (R109): the low watermark is computed anew and every home receives it. -/
def execCollectorPass (s : State) : Res := .next { s with wmark := watermark s }

/-- VERSION_RECLAIM (R110): the home of a stack frees what W makes unreachable. -/
def execVersionReclaim (st : Nat) (s : State) : Res :=
  .next (reclaimAll s s.wmark fun n => stackOf s.boot (n * 128) == st)

/-! ### Fatal errors -/

/-- The tile stores of the live dies in 4 KiB units: 64 S tiles of 1 MiB on each (R24, R402). -/
def storeUnits (b : Boot) : Nat := 64 * 256 * ((List.range 160).filter (dieLive b)).length

/-- The dump (R402): as many 4 KiB units as fit the region, with TS followed by the tile stores; its bytes are laid out by firmware
(log 14). -/
def writeDump (s : State) : State :=
  if !s.dump.ctl.getLsbD 0 then s
  else
    let need := 1 + Config.dumpUnits s.nonce + (if s.dump.ctl.getLsbD 1 then storeUnits s.boot else 0)
    let n := min need s.dump.len.toNat
    let s1 := hostWr (bump s) fwTag s.dump.addr.toNat ((List.range (4096 * n)).map (Config.dumpByte s.nonce))
      ((List.range (4096 * n)).map (Config.dumpPois s.nonce))
    { s1 with dump := { s1.dump with stat := BitVec.ofNat 64 (n % 2 ^ 62 * 4 + (if s.dump.len.toNat < need then 2 else 0) + 1) } }

/-- A fatal error of a class (R401): everything freezes, the dump is written, the PF and AER are told. -/
def goFatal (s : State) (sub : Nat) : State :=
  if s.fatal then s
  else emit (emit (pfEvent (writeDump { s with fatal := true }) 0x0F 0xFFF 0xFFF 0xFF sub 0 0) (.msix .pf 2)) (.aer true)

/-- FATAL_ERROR (R401). -/
def execFatalError (cls : BitVec 2) (s : State) : Res := .next (goFatal s cls.toNat)

/-! ### Power and temperature -/

/-- The highest step in force (R442). -/
def topStep (s : State) : Nat := (s.throttle.map (·.2)).foldl max 0

/-- The steps of the leases that exist. -/
def liveSteps (s : State) : List (Nat × Nat) := s.throttle.filter fun e => (leaseOf s e.1).isSome

/-- THROTTLE_STEP (R442): once per ms the step of a lease that touches an affected die rises while the module draws more
than LIMIT or a die is hotter than TTHR, and falls afterwards. A change of STEP is told to the PF; 115 degrees is fatal,
in a class that the events do not name (log 4). -/
def execThrottleStep (l power temp : Nat) (s : State) : Res :=
  if 115 ≤ temp then .next (goFatal (bump s) ((Config.undefinedField s.nonce).toNat % 256))
  else
    let old := mget 0 (liveSteps s) l
    let hot := s.pwrLimit < power || s.pwrTthr < temp
    let new := if hot then min 15 (old + 1) else old - 1
    let s1 := { s with throttle := if (leaseOf s l).isSome then mset 0 (liveSteps s) l new else liveSteps s }
    let s2 := { s1 with pwrStep := topStep s1 }
    .next (if s2.pwrStep = s.pwrStep then s2 else pfEvent s2 0x0B 0xFFF 0xFFF 0xFF s2.pwrStep power 0)

/-! ### Births of poison -/

/-- UE_BORN (R155, R430). -/
def ueBorn (s : State) (sub tenant lease die a1 a2 : Nat) : State := pfEvent s 0x01 tenant lease die sub a1 a2

/-- A poison birth in a register or port of the tenant's lease counts as a delivery (R154). -/
def ueCount (s : State) (ls : Lease) : State := countDelivery s ls.tenant true none

/-- A lane is poisoned; what its bits read as is not stated (log 13). -/
def ueTok (nonce lane : Nat) (t : Tok) : Tok :=
  let old := leBytes 96 t.data.toNat
  let new := leBytes 4 ((Config.ueBits nonce).toNat % 2 ^ 32)
  { t with
    data := BitVec.ofNat 768 (leNat (old.take (4 * lane) ++ new ++ old.drop (4 * lane + 4)))
    pois := t.pois ||| (maskOf fun i => i == lane) }

/-- Element `i` of a list of tokens. -/
def modNth (l : List Tok) (i : Nat) (f : Tok → Tok) : List Tok :=
  match l[i]? with
  | some t => l.set i (f t)
  | none => l

/-- A sector of device memory is poisoned in place (R82, R83). -/
def ueSector (s : State) (pa : Nat) : State :=
  bump { s with mem := wrBytes s.mem (pa / 32 * 32) (leBytes 32 (Config.ueBits s.nonce).toNat), mpois := nadd s.mpois (pa / 32) }

/-- A sector of a line's version data is damaged. -/
def ueVersion (nonce pa : Nat) (d : BitVec 1024) (p : BitVec 4) : BitVec 1024 × BitVec 4 :=
  let b := leBytes 128 d.toNat
  let o := pa % 128 / 32
  (BitVec.ofNat 1024 (leNat (b.take (32 * o) ++ leBytes 32 (Config.ueBits nonce).toNat ++ b.drop (32 * o + 32))),
   p ||| BitVec.ofNat 4 (2 ^ o))

/-- An error strikes a register of a sequencer (R82, R154, R423). -/
def ueSeq (s : State) (l reg : Nat) (rep : Bool) (ls : Lease) : State :=
  let s1 := updSeq s l rep fun q => xset q (BitVec.ofNat 5 reg) (BitVec.ofNat 64 (Config.ueBits s.nonce).toNat) true
  ueBorn (ueCount (bump s1) ls) 2 ls.tenant l (if rep then dieAt ls.rcol ls.rrow else anchorDie ls) 0 (reg * 256)

/-- An error strikes a token in a port buffer, which `f` changes (R82, R142, R154). -/
def uePort (s : State) (l t k p slot : Nat) (f : Tok → Tok) : State :=
  match (leaseOf s l).bind fun ls => (tileOf ls t).map fun x => (ls, x) with
  | some (ls, x) =>
    let c := ctxOf x k
    let held := if p < 8 then (mget ⟨[], 0⟩ c.ins p).q.length else (mget ⟨[], 0, []⟩ c.outs (p - 8)).pub.length
    if held ≤ slot || 12 ≤ p || 4 ≤ k then s
    else
      let s1 := updCtx s l t k fun c =>
        if p < 8 then { c with ins := mmod c.ins p fun i => { i with q := modNth i.q slot f } }
        else { c with outs := mmod c.outs (p - 8) fun o => { o with pub := modNth o.pub slot f } }
      ueBorn (ueCount (bump s1) ls) 1 ls.tenant l (tileDie ls t) 0 (ueWhere ls t slot)
  | none => s

/-- The slots of live edge buffers that hold a token and that a sector of the tile store lies in (R73, R142). -/
def markSlot (off : Nat) (b : EdgeBuf) : EdgeBuf :=
  let i := (off - b.off) / 128
  if b.off ≤ off && i < b.slots && (i + b.slots - b.head) % b.slots < b.count then { b with bad := nadd b.bad (4 * i + off % 128 / 32) } else b

/-- How many words a section of a configuration plane has: program memory, handler table, port block, controller block, switch words. -/
def sectionLen (sec : Nat) : Nat := [1024, 48, 98, 40, 32].getD sec 0

/-- The side fields of a memory request can be damaged while none of it has been performed and it has not left for the host or a
peer (R142). -/
def sideOpen (r : Req) : Bool :=
  r.stage.open_ && (match r.iss with
    | .peer .. => false
    | _ => true) && r.parts.all fun p => p.st != .done && !(r.stage == .sent && p.outside)

/-- Is a line dirty in its LLC slice? -/
def llcIsDirty (s : State) (pa : Nat) : Bool := (mget [] s.llc (llcKey s pa)).any fun e => e == (pa / 128, true)
/-- A clean line is dropped, to be fetched again (R82, R85). -/
def llcDrop (s : State) (pa : Nat) : State :=
  showHbm { s with llc := mset [] s.llc (llcKey s pa) ((mget [] s.llc (llcKey s pa)).filter fun e => e.1 != pa / 128) } (pa / 128)
/-- An error in HBM4: it shows at once where no line of the LLC stands above it, at the next fetch under a clean line, and not at all
under a dirty one, whose write-back replaces it (R82, R83, R85). -/
def ueHbm (s : State) (pa : Nat) : State :=
  if llcIsDirty s pa then s
  else if llcHit s pa then bump { s with hbmBad := mput s.hbmBad (pa / 32) (Config.ueBits s.nonce) }
  else ueSector s pa

/-- UNCORRECTABLE_ERROR (R82 to R85, R142, R143, R154, R155, R423): the lane, register or sector is poisoned in place and UE_BORN is
raised; a clean LLC line is dropped instead. Damaged side fields poison every lane of a token, or make a request fault POISON_ADDRESS; a
damaged configuration word faults at its next use. -/
def execUncorrectableError (loc : UeLoc) (s : State) : Res :=
  match loc with
  | .lane l t k reg lane =>
    (match (leaseOf s l), (leaseOf s l).bind (tileOf · t) with
     | some ls, some _ =>
       if 24 ≤ lane || 16 ≤ reg || 4 ≤ k then .next s
       else
         let s1 := updCtx s l t k fun c => { c with v := mset Tok.zero c.v reg (ueTok s.nonce lane (mget Tok.zero c.v reg)) }
         .next (ueBorn (ueCount (bump s1) ls) 0 ls.tenant l (tileDie ls t) 0 (ueWhere ls t reg))
     | _, _ => .next s)
  | .port l t k p slot lane => if 24 ≤ lane then .next s else .next (uePort s l t k p slot (ueTok s.nonce lane))
  | .side l t k p slot tag =>
    .next (uePort s l t k p slot fun u => { u with pois := BitVec.allOnes 24, tag := if tag then 0 else u.tag })
  | .seqReg l reg =>
    (match leaseOf s l with
     | some ls => if reg = 0 || 32 ≤ reg then .next s else .next (ueSeq s l reg false ls)
     | none => .next s)
  | .seqRegR l reg =>
    (match leaseOf s l with
     | some ls => if reg = 0 || 32 ≤ reg || !ls.paired then .next s else .next (ueSeq s l reg true ls)
     | none => .next s)
  | .reqSide id =>
    (match reqOf s id with
     | some r => if sideOpen r then .next (partFault s id cPADDR (r.parts.headD (mkPart 0 0 0))) else .next s
     | none => .next s)
  | .config l t shadow sec idx =>
    if sectionLen sec ≤ idx then .next s
    else
      let hit (p : Plane) : Plane := { p with bad := nadd p.bad (65536 * sec + idx) }
      .next (updTile s l t fun x => if shadow then { x with shd := hit x.shd } else { x with act := hit x.act })
  | .tileStore l t off =>
    (match (leaseOf s l), (leaseOf s l).bind (tileOf · t) with
     | some ls, some _ =>
       if 2 ^ 20 ≤ off || kindOf ls t != 2 then .next s
       else
         let s1 := updTile s l t fun x =>
           { x with
             store := wrBytes x.store (off / 32 * 32) (leBytes 32 (Config.ueBits s.nonce).toNat)
             spois := nadd x.spois (off / 32)
             ebs := x.ebs.map (markSlot off) }
         .next (ueBorn (bump s1) 3 ls.tenant l (tileDie ls t) off (ueWhere ls t off))
     | _, _ => .next s)
  | .dieScratch pa =>
    if inScratch s.boot pa then .next (ueBorn (ueSector s pa) 4 0xFFF 0xFFF (servDie s pa) pa 0) else .next s
  | .llc pa =>
    if hbmEnd s.boot ≤ pa then .next s
    else if llcIsDirty s pa then .next (ueBorn (ueSector s pa) 5 0xFFF 0xFFF (homeDie s.boot pa) pa 0)
    else .next (llcDrop s pa)
  | .hbm pa =>
    if pa < hbmEnd s.boot then .next (ueBorn (ueHbm s pa) 6 0xFFF 0xFFF (homeDie s.boot pa) pa 0) else .next s
  | .pool pa n =>
    let k := pa / 128
    let x := lineOf s k
    match x.old[n]? with
    | some v =>
      let (d, p) := ueVersion s.nonce pa v.data v.pois
      .next (ueBorn (bump (setLine s k { x with old := x.old.set n { v with data := d, pois := p } })) 7 v.tenant 0xFFF (homeDie s.boot pa) pa 0)
    | none => .next s
  | .pend pa l slot =>
    let k := pa / 128
    let x := lineOf s k
    match findPend x l slot with
    | some v =>
      let (d, p) := ueVersion s.nonce pa v.data v.pois
      let y := { x with pend := x.pend.map fun e => if e.lease == l && e.slot == slot then { v with data := d, pois := p } else e }
      .next (ueBorn (bump (setLine s k y)) 7 v.tenant 0xFFF (homeDie s.boot pa) pa 0)
    | none => .next s

end Sys2Proof.Machine
end

