-- ==== Sys2Proof/Machine/DieReset.lean ====
section
/-! DEFINITION. The reset of one die (R78, R105, R131, R413 to R415). -/

namespace Sys2Proof.Machine

/-- Does a placed lease hold a tile of die `d`? -/
def onDie (ls : Lease) (d : Nat) : Bool :=
  ls.placed && ((diesOf ls.col ls.row ls.img.w ls.img.h).contains d ||
    (ls.paired && (diesOf ls.rcol ls.rrow ls.img.w ls.img.h).contains d))

/-- Why a die may not be reset (R414): D(0,0), a disabled die, a tile of a pinned or unsavable lease. -/
def dieRefused (s : State) (d : Nat) : Bool :=
  d == 0 || !dieLive s.boot d || s.leases.any fun e => onDie e.2 d && (e.2.lrec.pin || !savable e.2)

/-- A write of DIECTL.GO (R414). -/
def startDie (s : State) : State :=
  if s.dieGo then s
  else if dieRefused s s.dieNo then { s with dieState := 5 }
  else { s with dieGo := true, dieState := 1, dieSince := s.wall }

/-- DIECTL_GO (R414). -/
def execDiectlGo (s : State) : Res := .next (startDie s)

/-- Segments that a die holds for other dies (R77, R415). -/
def foreignSegs (s : State) (d : Nat) : List Nat := (s.segMap.filter fun e => e.2 / 16 == d && e.1 / 16 != d).map (·.1)

/-- A segment goes to the first other live die that has an uncovered one (R78, R415). -/
def evacuateSeg (s : State) (d key : Nat) : State :=
  let held (k : Nat) : Nat := mget k s.segMap k
  match (List.range (160 * 16)).find? fun n =>
      held n / 16 != d && dieLive s.boot (held n / 16) && n != key && !segGranted s n with
  | none => s
  | some n => { s with segMap := mput (mput s.segMap key (held n)) n (held key) }

/-- A lease that stands on the die and has not left it. -/
def stillOn (s : State) (d : Nat) : Bool := s.leases.any fun e => onDie e.2 d

/-- DIE_EVACUATION_COMPLETE (R404, R415): the Shunter moves the leases off one at a time, each as soon as nothing blocks
its move; when none is left the segments held for other dies are relocated and the quiesce begins. -/
def execDieEvacuationComplete (s : State) : Res :=
  if !s.dieGo || s.dieState != 1 then .next s
  else
    let d := s.dieNo
    if stillOn s d then
      if moveUnderWay s then .next s
      else match s.leases.find? fun e => onDie e.2 d && movable s e.1 e.2 false with
        | some e => .next (startDrain s e.1 .move)
        | none => .next s
    else .next { (foreignSegs s d).foldl (fun s k => evacuateSeg s d k) s with dieState := 2, dieSince := s.wall }

/-- Is the request an atomic? -/
def isAtomic (r : Req) : Bool :=
  match r.op with
  | .atomic _ => true
  | _ => false

/-- The parts of a request that the home on die `d` has not acknowledged (R131, R415): of an atomic also one that waits there for a
lock, and one that has been applied while the answer has not reached the requester. -/
def unacked (s : State) (d : Nat) (r : Req) (p : Part) : Bool :=
  match p.loc with
  | .mem pa => servDie s pa == d && (isAtomic r || (r.stage == .sent && p.st != .done && p.st != .waiting))
  | _ => false

/-- Requests that were under way when the quiesce began (R415). -/
def underWay (s : State) (r : Req) : Bool := (r.stage == .sent || r.stage == .performed) && decide (r.born < s.dieSince)

/-- Does a request wait for an acknowledgement of die `d`? -/
def awaitsDie (s : State) (d : Nat) (r : Req) : Bool := underWay s r && r.parts.any (unacked s d r)

/-- A request that was in flight to a die when it reset: its parts there stand at the sender again, those of an atomic
marked UNKNOWN (R131, R415). -/
def dieReissue (s : State) (d : Nat) (r : Req) : Req :=
  if underWay s r then
    { r with parts := r.parts.map fun p =>
        if unacked s d r p then { p with st := .new, code := if isAtomic r then 3 else p.code } else p }
  else r

/-- Fault tokens of the die's pager: their claims are released and they are sent again (R415). -/
def resendJob (s : State) (j : Nat) (x : Job) : State :=
  match x.st with
  | .answered _ => s
  | .priWait => s
  | _ =>
    let s1 := if x.claimed then (match jobEntry s x with
      | some (e, lc) => putEntry s x lc (noB e)
      | none => s) else s
    updJob s1 j fun x => { x with st := .token, claimed := false, frame := none }

/-- Does a commit hold locks at the home of die `d` before its write phase (R105)? -/
def lockedAt (s : State) (d l : Nat) : Bool :=
  s.lines.any fun e => (e.2.lock.map (·.lease)) == some l && homeDie s.boot (e.1 * 128) == d

/-- Commits in their lock or validate phase at the die return CONFLICT (R105). DESIGN CHOICE: a publication, which never returns it
(R108), releases its locks and starts again with its ticket (log 115). -/
def breakCommits (s : State) (d : Nat) : State :=
  s.leases.foldl (init := s) fun s e =>
    match e.2.commit with
    | some c =>
      if c.phase = 0 && lockedAt s d e.1 then (if c.shadow then unlockAll s e.1 else endCommit s e.1 c 1) else s
    | none => s

/-- The slice of a die is cleared: what HBM4 holds is what is read from now on (R83, R415). -/
def clearSlice (s : State) (d : Nat) : State :=
  let mine := s.llc.filter fun e => e.1 / 32768 == d
  let clean := (mine.map fun e => (e.2.filter fun x => !x.2).map (·.1)).flatten
  clean.foldl showHbm { s with llc := s.llc.filter fun e => e.1 / 32768 != d }

/-- DIE_QUIESCE_COMPLETE (R413, R415): 25,000 fc after the quiesce began, or once nothing is in flight to the die. The die has no
lease left, and throttling lengthens the fc of the dies of a lease (R26, R442), so these are nominal. Dirty lines have been
written back; the incarnation advances; siding, LLC slice, copies and table frames of the die are cleared. -/
def execDieQuiesceComplete (s : State) : Res :=
  if !s.dieGo || s.dieState != 2 then .next s
  else
    let d := s.dieNo
    let busy := s.reqs.any fun e => awaitsDie s d e.2
    if busy && s.wall - s.dieSince < 25000 then .next s
    else
      let s1 := breakCommits s d
      let s2 := { clearSlice s1 d with
        reqs := mmap s1.reqs fun _ r => dieReissue s1 d r
        incarn := mset 0 s1.incarn d (mget 0 s1.incarn d + 1)
        copies := s1.copies.filter fun c => c.die != d
        tabFrames := s1.tabFrames.filter fun e => e.1 / 4096 != d }
      .next { (s2.jobs.filter fun e => e.2.die == d).foldl (fun s e => resendJob s e.1 e.2) s2 with dieState := 3 }

/-- A whole segment is poisoned (R415). -/
def poisonSeg (s : State) (key : Nat) : State := { s with mpois := markSectors s.mpois (segAddr key) 0x200000 true }

/-- The first part of an atomic whose outcome is UNKNOWN. -/
def unknownPart (r : Req) : Option Part :=
  if isAtomic r then r.parts.find? fun p => p.code == 3 && p.st == .new else none

/-- Every requester that sees the new incarnation faults its atomics that were in flight to the die (R131). -/
def faultUnknown (s : State) : State :=
  s.reqs.foldl (init := s) fun s e =>
    match unknownPart e.2 with
    | some p => partFault s e.1 cATOM p
    | none => s

/-- The die comes back (R131, R413, R415): atomics in flight to it fault ATOMIC_UNKNOWN, segments without a new holder are poisoned
whole. -/
def dieBackUp (s : State) : State :=
  let s1 := faultUnknown s
  { (foreignSegs s1 s1.dieNo).foldl poisonSeg s1 with dieBack := true }

/-- DIE_RESTART (R131, R413, R415): the die comes back, plain requests go to the home again, and once they are applied new requests
are taken. -/
def execDieRestart (s : State) : Res :=
  if !s.dieGo || s.dieState != 3 then .next s
  else
    let s1 := if s.dieBack then s else dieBackUp s
    .next (if s1.reqs.any fun e => awaitsDie s1 s1.dieNo e.2 then s1
      else { s1 with dieGo := false, dieState := 4, dieBack := false })

end Sys2Proof.Machine
end

