-- ==== Sys2Proof/Machine/Regs.lean ====
section
/-! DEFINITION. PF and VF register space (R5, R6, R46, R55, R62, R95, R153, R364, R365, R379, R391, R402, R414, R416,
R426, R427, R429, R431, R437, R442): memory commands, host writes, and what a host read returns. -/

namespace Sys2Proof.Machine

/-! ### Memory commands -/

/-- STATUS of a memory command replaces the old one; GO is set until the controllers have applied it (R55). -/
def mcmdDone (s : State) (op status : Nat) : State := { s with mcmd := BitVec.ofNat 64 (2 ^ 63 + status % 256 * 256 + op % 256) }

/-- Arguments of the latest memory command. -/
def argBase (s : State) : Nat := s.marg0.toNat
/-- Argument LEN. -/
def argLen (s : State) : Nat := s.marg1.toNat
/-- Argument TENANT. -/
def argTenant (s : State) : Nat := bits s.marg2.toNat 0 12

/-- A range of non-zero multiples of `u` that lies within `[lo, hi)`. -/
def goodRange (u lo hi b n : Nat) : Bool := b != 0 && n != 0 && b % u == 0 && n % u == 0 && decide (lo ≤ b) && decide (b + n ≤ hi)

/-- Does a range overlap an entry of another tenant (R55)? -/
def foreignOverlap (gs : List Grant) (b n t : Nat) : Bool := gs.any fun g => g.tenant != t && overlaps g.base g.len b n

/-- Base of the scratch of the die that holds a window address. -/
def dieBase (b : Nat) : Nat := scratchBase + (b - scratchBase) / scratchSize * scratchSize

/-- Grants of one die (R54). -/
def grantsOf (s : State) (b : Nat) : List Grant := s.scratchGrants.filter fun g => dieBase g.base == dieBase b

/-- TCSET (R53, R55). -/
def tcsetOp (s : State) : State :=
  let u := (liveStacks s.boot).length * 4096
  if !goodRange u 0 (hbmEnd s.boot) (argBase s) (argLen s) || 256 ≤ argTenant s then mcmdDone s 1 1
  else if 512 ≤ s.tenantChecks.length then mcmdDone s 1 2
  else if foreignOverlap s.tenantChecks (argBase s) (argLen s) (argTenant s) then mcmdDone s 1 4
  else mcmdDone { s with tenantChecks := s.tenantChecks ++ [⟨argBase s, argLen s, argTenant s⟩] } 1 0

/-- Is it the entry that a command with the present BASE and LEN added? -/
def sameRange (s : State) (g : Grant) : Bool := g.base == argBase s && g.len == argLen s

/-- TCCLR (R55). -/
def tcclrOp (s : State) : State :=
  if s.tenantChecks.any (sameRange s) then
    mcmdDone { s with tenantChecks := s.tenantChecks.filter fun g => !sameRange s g } 2 0
  else mcmdDone s 2 3

/-- DSGRANT (R54, R55). -/
def dsgrantOp (s : State) : State :=
  let b := argBase s
  if !inScratch s.boot b || !goodRange 2048 (dieBase b) (dieBase b + scratchSize) b (argLen s) || 256 ≤ argTenant s then mcmdDone s 3 1
  else if 64 ≤ (grantsOf s b).length then mcmdDone s 3 2
  else if foreignOverlap s.scratchGrants b (argLen s) (argTenant s) then mcmdDone s 3 4
  else mcmdDone { s with scratchGrants := s.scratchGrants ++ [⟨b, argLen s, argTenant s⟩] } 3 0

/-- DSREVOKE (R55). -/
def dsrevokeOp (s : State) : State :=
  if s.scratchGrants.any (sameRange s) then
    mcmdDone { s with scratchGrants := s.scratchGrants.filter fun g => !sameRange s g } 4 0
  else mcmdDone s 4 3

/-- Units of a range become unscrubbed (R59). -/
def unscrubRange (s : State) (b n : Nat) : State :=
  let u := unitSize b
  { s with scrubbed := s.scrubbed.filter fun k =>
      !(b / u ≤ k && k < (b + n) / u && decide (k * u < scratchBase) == decide (b < scratchBase)) }

/-- SCRUB (R55, R59). -/
def scrubOp (s : State) : State :=
  let b := argBase s
  let n := argLen s
  let hbm := b % 4096 == 0 && n % 4096 == 0 && decide (b + n ≤ hbmEnd s.boot)
  let scr := inScratch s.boot b && b % 2048 == 0 && n % 2048 == 0 && decide (b + n ≤ dieBase b + scratchSize)
  if hbm || scr then mcmdDone (unscrubRange s b n) 5 0 else mcmdDone s 5 1

/-- POOLSZ (R55, R93). -/
def poolszOp (s : State) : State := mcmdDone { s with boot := { s.boot with nextPool := argTenant s % 4 } } 6 0

/-- A memory command is running: GO reads 1 and a further write is ignored (R55). -/
def mcmdBusy (s : State) : Bool := s.mcmd.getLsbD 63

/-- TCSET (R55). -/
def execTcset (s : State) : Res := .next (if mcmdBusy s then s else tcsetOp s)
/-- TCCLR (R55). -/
def execTcclr (s : State) : Res := .next (if mcmdBusy s then s else tcclrOp s)
/-- DSGRANT (R55). -/
def execDsgrant (s : State) : Res := .next (if mcmdBusy s then s else dsgrantOp s)
/-- DSREVOKE (R55). -/
def execDsrevoke (s : State) : Res := .next (if mcmdBusy s then s else dsrevokeOp s)
/-- SCRUB (R55). -/
def execScrub (s : State) : Res := .next (if mcmdBusy s then s else scrubOp s)
/-- POOLSZ (R55). -/
def execPoolsz (s : State) : Res := .next (if mcmdBusy s then s else poolszOp s)

/-- The command in OP is started (R55). -/
def startMcmd (s : State) : State :=
  match s.mcmd.toNat % 256 with
  | 1 => tcsetOp s
  | 2 => tcclrOp s
  | 3 => dsgrantOp s
  | 4 => dsrevokeOp s
  | 5 => scrubOp s
  | 6 => poolszOp s
  | _ => s

/-- MEMORY_COMMAND_APPLIED (R55): GO clears. -/
def execMemoryCommandApplied (s : State) : Res := .next { s with mcmd := s.mcmd &&& BitVec.ofNat 64 (2 ^ 63 - 1) }

/-! ### Registers of a function with an effect of their own -/

/-- Fields of a written value: the bits of the mask, the others read as zero (R6). -/
def masked (v : Dword) (m : Nat) : Dword := v &&& BitVec.ofNat 64 m

/-- POOL_WRITE (R46, R62): HEAD and TAIL become 0, the untaken tables of the tenant's table frames are abandoned. -/
def execPoolWrite (v : Nat) (val : Dword) (s : State) : Res :=
  if 256 ≤ v then .next s
  else .next { updVf s v (fun x => { x with pool := masked val (2 ^ 63 + (2 ^ 48 - 2 ^ 12) + 31), phead := 0, ptail := 0 }) with
    tabFrames := s.tabFrames.filter fun e => e.1 % 4096 != v }

/-- Entries of a frame-pool ring (R46, R62). -/
def ringSize (x : Vf) : Nat :=
  let n := bits x.pool.toNat 0 5
  if n = 0 || 20 < n then 0 else 2 ^ n

/-- POOLLVL_TAIL_WRITE (R62): ignored where more frames than the ring holds would stand in it. -/
def execPoollvlTailWrite (v : Nat) (tail : Word) (s : State) : Res :=
  let x := vfOf s v
  if 256 ≤ v || ringSize x < (tail.toNat + 2 ^ 32 - x.phead) % 2 ^ 32 then .next s
  else .next (updVf s v fun x => { x with ptail := tail.toNat })

/-- A write of PCTL (R153). -/
def writePctl (s : State) (v : Nat) (clr epok : Bool) : State :=
  updVf s v fun x =>
    if clr then
      { x with
        consumed := 0
        pfCommit := 0
        pfEgress := 0
        pfControl := 0
        pfAddress := 0
        lastva := 0
        epok := epok }
    else { x with epok := epok }

/-- PCTL_CLR (R153). -/
def execPctlClr (v : Nat) (epok : Bool) (s : State) : Res := .next (if 256 ≤ v then s else writePctl s v true epok)

/-! ### Other host writes -/

/-- A write to a function's translation block (R46). -/
def writeBlock (s : State) (v o : Nat) (val : Dword) : State :=
  match o with
  | 0x00 => updVf s v fun x => { x with root := masked val (2 ^ 63 + (2 ^ 48 - 2 ^ 12)) }
  | 0x08 => updVf s v fun x => { x with s2base := masked val (2 ^ 63 + (2 ^ 59 - 2 ^ 48) + (2 ^ 48 - 2 ^ 12)) }
  | 0x10 => updVf s v fun x => { x with hostctl := masked val (2 ^ 63 + (2 ^ 20 - 1)) }
  | 0x18 => updVf s v fun x => { x with invbase := masked val (2 ^ 56 - 2 ^ 16) }
  | _ => s

/-- A write to SCHEDG (R379). -/
def writeSchedg (s : State) (val : Dword) : State :=
  let n := val.toNat
  { s with ageMax := bits n 16 16, cthresh := if bits n 0 9 ≤ 256 then bits n 0 9 else s.cthresh }

/-- A write to the dump registers (R402). -/
def writeDumpReg (s : State) (o : Nat) (val : Dword) : State :=
  match o with
  | 0x00 => { s with dump := { s.dump with addr := masked val (2 ^ 64 - 2 ^ 12) } }
  | 0x08 => { s with dump := { s.dump with len := masked val (2 ^ 40 - 1) } }
  | 0x10 => { s with dump := { s.dump with ctl := masked val 3 } }
  | _ => s

/-- A write to DIECTL (R414): DIE changes only while GO reads 0. -/
def writeDiectl (s : State) (val : Dword) : State :=
  let s1 := if s.dieGo then s else { s with dieNo := val.toNat % 256 }
  if val.getLsbD 63 then startDie s1 else s1

/-- A write to a queue's PAIR register (R416). -/
def writePair (s : State) (g o : Nat) (val : Dword) : State :=
  match o with
  | 0 => updQueue s g fun q => { q with pairEn := val.getLsbD 63, logBase := bits val.toNat 12 44 * 4096 }
  | 8 => updQueue s g fun q => { q with logSz := bits val.toNat 0 32 }
  | _ => s

/-- A write to the event registers (R429): a reserved LOGN leaves the field. -/
def writeEvent (s : State) (o : Nat) (val : Dword) : State :=
  match o with
  | 0x00 =>
    let lg := if val.toNat % 16 ≤ 10 then val.toNat % 16 else s.evbase.toNat % 16
    { s with evbase := BitVec.ofNat 64 (val.toNat / 4096 * 4096 + lg) }
  | 0x10 => { s with evget := bits val.toNat 0 32 }
  | 0x18 => { s with evovf := Nat.land s.evovf (2 ^ 32 - 1 - bits val.toNat 0 32) }
  | _ => s

/-- A write to PWRCTL (R442): reserved values leave their field. -/
def writePwrctl (s : State) (val : Dword) : State :=
  let lim := bits val.toNat 16 16
  let th := bits val.toNat 8 8
  { s with pwrLimit := if lim ≤ 30000 then lim else s.pwrLimit, pwrTthr := if th ≤ 110 then th else s.pwrTthr }

/-- A write to the memory command registers (R55): ignored while a command runs; a reserved OP leaves the field. -/
def writeMcmd (s : State) (o : Nat) (val : Dword) : State :=
  if mcmdBusy s then s
  else match o with
    | 0x00 =>
      let op := val.toNat % 256
      let s1 := if 1 ≤ op && op ≤ 6 then { s with mcmd := BitVec.ofNat 64 (s.mcmd.toNat / 256 * 256 + op) } else s
      if val.getLsbD 63 then startMcmd s1 else s1
    | 0x08 => { s with marg0 := val }
    | 0x10 => { s with marg1 := val }
    | 0x18 => { s with marg2 := masked val (2 ^ 12 - 1) }
    | _ => s

/-- A write to a coupler's block (R431): a TMAP entry is written with 16 bits. -/
def writeCoupler (s : State) (k o : Nat) (val : Dword) : State :=
  if !couplerLive s.boot k then s
  else if o = 8 then updCoupler s k fun x => { x with expBase := bits val.toNat 16 32 * 65536 }
  else if o = 0x10 then updCoupler s k fun x => { x with expLen := bits val.toNat 16 32 * 65536 }
  else if 0x400 ≤ o && o < 0x600 && o % 2 = 0 then
    updCoupler s k fun x => { x with tmap := mset 0 x.tmap ((o - 0x400) / 2) (BitVec.ofNat 16 val.toNat &&& 0x8FFF) }
  else s

/-- A host write to PF BAR 0 (R426). Registers that have a step of their own take nothing here. -/
def pfWrite (s : State) (o : Nat) (val : Dword) : State :=
  if 0x100000 ≤ o && o < 0x104000 then writeBlock s ((o - 0x100000) / 0x40) (o % 0x40) val
  else if 0x140000 ≤ o && o < 0x141000 && o % 16 = 0 then updVf s ((o - 0x140000) / 16) fun x => { x with vlimit := bits val.toNat 0 32 }
  else if 0x150000 ≤ o && o < 0x152000 && o % 32 = 24 then writePctl s ((o - 0x150000) / 32) (val.getLsbD 1) (val.getLsbD 0)
  else if 0x160000 ≤ o && o < 0x161000 && o % 16 = 0 then updVf s ((o - 0x160000) / 16) fun x => { x with tquota := bits val.toNat 0 32 }
  else if o = 0x180000 then writeSchedg s val
  else if 0x1A0000 ≤ o && o < 0x1A0020 then writeDumpReg s (o - 0x1A0000) val
  else if o = 0x1B0000 then writeDiectl s val
  else if 0x1C0000 ≤ o && o < 0x1D0000 then writePair s ((o - 0x1C0000) / 16) (o % 16) val
  else if 0x1D0000 ≤ o && o < 0x1D0020 then writeEvent s (o - 0x1D0000) val
  else if o = 0x1E1000 then writePwrctl s val
  else if 0x1E2000 ≤ o && o < 0x1E2020 then writeMcmd s (o - 0x1E2000) val
  else if 0x1F0000 ≤ o && o < 0x1F8000 then writeCoupler s ((o - 0x1F0000) / 0x800) (o % 0x800) val
  else s

/-- A host write to a VF's register page (R365): QREC of an assigned queue. -/
def vfWrite (s : State) (v o : Nat) (val : Dword) : State :=
  if o % 256 = 0 && o < 0x10000 then
    match queueOfVf s v (o / 256) with
    | some (g, _) => updQueue s g fun q => { q with qrec := (masked val (2 ^ 56 - 2 ^ 6)).toNat }
    | none => s
  else s

/-- REGISTER_WRITE (R5, R6, R426, R427): a write with EP set is dropped and logged. -/
def execRegisterWrite (fn : Fn) (off : Nat) (val : Dword) (ep : Bool) (s : State) : Res :=
  if ep then .next (emit s (.aer false))
  else match fn with
    | .pf => .next (pfWrite s off val)
    | .vf v => .next (vfWrite s v off val)

/-! ### Host reads -/

/-- A bit as a number of weight 2^n. -/
def flag (b : Bool) (n : Nat) : Nat := if b then 2 ^ n else 0

/-- Reads of a function's translation block (R46). -/
def readBlock (x : Vf) (o : Nat) : Nat :=
  match o with
  | 0x00 => x.root.toNat
  | 0x08 => x.s2base.toNat
  | 0x10 => x.hostctl.toNat
  | 0x18 => x.invbase.toNat
  | 0x20 => x.invctl.toNat
  | 0x28 => x.pool.toNat
  | 0x30 => x.ptail * 2 ^ 32 + (if ringSize x = 0 then 0 else (x.ptail + 2 ^ 32 - x.phead) % 2 ^ 32)
  | 0x38 => x.phead
  | _ => 0

/-- Reads of a poison block (R153); PCTL.CLR reads 0. -/
def readPoison (x : Vf) (o : Nat) : Nat :=
  match o with
  | 0x00 => x.consumed
  | 0x08 => x.pfCommit * 2 ^ 48 + x.pfEgress * 2 ^ 32 + x.pfControl * 2 ^ 16 + x.pfAddress
  | 0x10 => x.lastva % 2 ^ 56
  | 0x18 => flag x.epok 0
  | _ => 0

/-- BOOT_STATUS (R437). -/
def bootStatus (b : Boot) : Nat :=
  (if b.mode = 2 then 0 else b.mapver % 2 ^ 16) * 2 ^ 48 + (liveStacks b).length * 2 ^ 40 +
    ((List.range 160).filter (dieLive b)).length * 2 ^ 32 + min b.fails 15 * 2 ^ 16 + b.reason.toNat * 256 + b.mode.toNat

/-- Reads of a coupler's block (R431); an absent coupler reads 0 (R27). -/
def readCoupler (s : State) (k o : Nat) : Nat :=
  let x := couplerOf s k
  if !couplerLive s.boot k then 0
  else if o = 0 then x.peerId.toNat * 2 ^ 32 + x.peerK.toNat * 16 + flag x.up 0
  else if o = 8 then x.expBase
  else if o = 0x10 then x.expLen
  else if 0x400 ≤ o && o < 0x600 && o % 2 = 0 then (mget (0 : BitVec 16) x.tmap ((o - 0x400) / 2)).toNat
  else 0

/-- What a host read of PF BAR 0 returns (R426). DESIGN CHOICE: the spec gives no access sizes; a read at an offset inside a register,
such as +4 of a 64-bit one, returns 0 (log 114). -/
def pfRead (s : State) (o : Nat) : Dword :=
  BitVec.ofNat 64 (
    if 0x100000 ≤ o && o < 0x104000 then readBlock (vfOf s ((o - 0x100000) / 0x40)) (o % 0x40)
    else if 0x140000 ≤ o && o < 0x141000 && o % 16 = 0 then
      (vfOf s ((o - 0x140000) / 16)).vused * 2 ^ 32 + (vfOf s ((o - 0x140000) / 16)).vlimit
    else if 0x150000 ≤ o && o < 0x152000 then readPoison (vfOf s ((o - 0x150000) / 32)) (o % 32)
    else if 0x160000 ≤ o && o < 0x161000 then
      (if o % 16 = 0 then (vfOf s ((o - 0x160000) / 16)).tquota else if o % 16 = 8 then (vfOf s ((o - 0x160000) / 16)).tused else 0)
    else if 0x170000 ≤ o && o < 0x180000 then
      (let q := queueOf s ((o - 0x170000) / 16)
       if o % 16 = 0 then flag q.v 63 + q.vf * 2 ^ 32 + q.loc * 2 ^ 16 + q.weight
       else if o % 16 = 8 then flag q.busy 1 + flag q.inn 0 else 0)
    else if o = 0x180000 then s.ageMax * 2 ^ 16 + s.cthresh
    else if o = 0x190008 then lstat s
    else if o = 0x1A0000 then s.dump.addr.toNat
    else if o = 0x1A0008 then s.dump.len.toNat
    else if o = 0x1A0010 then s.dump.ctl.toNat
    else if o = 0x1A0018 then s.dump.stat.toNat
    else if o = 0x1B0000 then flag s.dieGo 63 + s.dieState % 8 * 2 ^ 24 + (mget 0 s.incarn s.dieNo).toNat * 2 ^ 16 + s.dieNo
    else if 0x1C0000 ≤ o && o < 0x1D0000 then
      (let q := queueOf s ((o - 0x1C0000) / 16)
       if o % 16 = 0 then flag q.pairEn 63 + q.logBase else if o % 16 = 8 then q.logSz else 0)
    else if o = 0x1D0000 then s.evbase.toNat
    else if o = 0x1D0008 then s.evput
    else if o = 0x1D0010 then s.evget
    else if o = 0x1D0018 then s.evovf
    else if 0x1D1000 ≤ o && o < 0x1D1400 && o % 4 = 0 then (vfOf s ((o - 0x1D1000) / 4)).tccnt
    else if o = 0x1E0000 then bootStatus s.boot
    else if o = 0x1E1000 then s.pwrStep * 2 ^ 32 + s.pwrLimit * 2 ^ 16 + s.pwrTthr * 256
    else if o = 0x1E2000 then s.mcmd.toNat
    else if o = 0x1E2008 then s.marg0.toNat
    else if o = 0x1E2010 then s.marg1.toNat
    else if o = 0x1E2018 then s.marg2.toNat
    else if o = 0x1E2020 then s.boot.nextPool * 4 + s.boot.poolCode
    else if 0x1F0000 ≤ o && o < 0x1F8000 then readCoupler s ((o - 0x1F0000) / 0x800) (o % 0x800)
    else 0)

/-- Does the queue stand switched out (R381)? -/
def switchedOut (q : Queue) : Bool := q.st == .out || q.st == .switchingIn

/-- STATUS of a queue (R365). -/
def queueStatus (q : Queue) : Nat :=
  q.errc * 2 ^ 24 + q.run * 2 ^ 16 + flag q.aged 8 + flag (q.why.getLsbD 3) 7 + flag (q.why.getLsbD 2) 6 + flag (q.why.getLsbD 1) 5 +
    flag (q.why.getLsbD 0) 4 + flag q.error 3 + flag (switchedOut q) 2 + flag (q.en && q.st == .inn) 1 + flag q.en 0

/-- What a host read of a VF's register page returns (R365); inside a register, 0 (log 114). -/
def vfRead (s : State) (v o : Nat) : Dword :=
  match queueOfVf s v (o / 256) with
  | none => 0
  | some (_, q) =>
    BitVec.ofNat 64 (match o % 256 with
      | 0x00 => q.qrec
      | 0x08 => if switchedOut q then q.stail else q.tail
      | 0x10 => if switchedOut q then q.sprog else q.progress
      | 0x18 => queueStatus q
      | 0x20 => flag q.en 0
      | _ => 0)

/-- What a host read of a VF's BAR 2 returns below its MSI-X table (R426); inside a register, 0 (log 114). -/
def vfBar2Read (s : State) (v o : Nat) : Dword :=
  BitVec.ofNat 64 (if o < 0x18 then readPoison (vfOf s v) o
    else if o = 0x20 then (vfOf s v).tquota
    else if o = 0x28 then (vfOf s v).tused
    else 0)

end Sys2Proof.Machine
end

