-- ==== Sys2Proof/Machine/Couplers.lean ====
section
/-! DEFINITION. Couplers and peer panels (R131, R431 to R433). -/

namespace Sys2Proof.Machine

/-- CSTAT (R431). -/
def cstat (x : Coupler) : Nat := x.peerId.toNat * 2 ^ 32 + x.peerK.toNat * 16 + flag x.up 0

/-- COUPLER_LINK_CHANGE (R27, R431, R436): a change of UP raises COUPLER; an absent coupler and one of a minimal boot
never come up. -/
def execCouplerLinkChange (k : Nat) (up : Bool) (peerId : Word) (peerK : BitVec 4) (s : State) : Res :=
  if !couplerLive s.boot k || (couplerOf s k).up == up then .next s
  else
    let s1 := updCoupler s k fun x => { x with up := up, peerId := peerId, peerK := peerK }
    .next (pfEvent s1 0x0C 0xFFF 0xFFF (couplerDie k) k (cstat (couplerOf s1 k)) 0)

/-- The request of a peer at the home, for each line: device physical address, length and what it does (R432). -/
def peerReq (k tenant : Nat) (op : MOp) (parts : List Part) (pa : Nat) : Req :=
  { iss := .peer k tenant, op := op, view := 0, floor := 0, after := [], acq := false, rel := false, scope := .sys,
    posted := false, stage := .sent, parts := parts.map fun p => { p with loc := .mem (pa + (p.va - pa)) },
    dst := .none, chain := none, pc := 0, word := 0, born := 0, key := [] }

/-- A part with the operands of an atomic, each with its poison (R152). -/
def atomPartOf (pa n : Nat) (d c : Dword) (dp cp : Bool) : Part :=
  { mkPart 0 pa n with
    data := leBytes n d.toNat
    pois := List.replicate n dp
    cmp := leBytes n c.toNat
    cmpPois := cp }

/-- What a peer's operation asks of the home, its parts and its length. -/
def peerWork (pa : Nat) : PeerOp → MOp × List Part
  | .read n => (.read, lineParts 0 pa n)
  | .write bs ps =>
    (.write, writeParts 0 pa bs ((List.range bs.length).map fun i => ps.getD ((pa + i) / 32 - pa / 32) false))
  | .atomic op n d c dp cp => (.atomic op, [atomPartOf pa n d c dp cp])

/-- PEER_REQUEST (R53, R432): the tenant map, the export window, then the request under the local id; while UP is 0
nothing arrives. An address that is not device memory is refused as outside the window. -/
def execPeerRequest (k tenant off : Nat) (op : PeerOp) (s : State) : Res :=
  let x := couplerOf s k
  if !couplerLive s.boot k || !x.up then .next s
  else match localTenant s k tenant with
    | none => .next (emit s (.peerReply k .badTenant))
    | some t =>
      if x.expLen ≤ off then .next (emit s (.peerReply k .badRange))
      else
        match locOf s.boot (x.expBase + off) with
        | some (.mem pa) =>
          let w := peerWork pa op
          .next (addReq s (peerReq k t w.1 w.2 pa)).1
        | _ => .next (emit s (.peerReply k .badRange))

/-- The first part of a request that is outstanding at a peer. -/
def atPeer (k : Nat) (r : Req) : Option Part :=
  if r.stage == .sent then
    r.parts.find? fun p => (match p.loc with
      | .peer j _ => j == k
      | _ => false) && p.st != .done
  else none

/-- PEER_PANEL_RESET (R131, R432): outstanding atomics end UNKNOWN, outstanding reads and writes fault STAGE2. -/
def execPeerPanelReset (k : Nat) (s : State) : Res :=
  .next (s.reqs.foldl (init := s) fun s e =>
    match atPeer k e.2 with
    | some p => partFault s e.1 (if isAtomic e.2 then cATOM else cSTAGE2) p
    | none => s)

/-- COUPLER_STREAM_TOKEN (R433): the token joins its channel; the map is asked when it is delivered, also where the two
ends are bound later. -/
def execCouplerStreamToken (k chan sender : Nat) (data : Payload) (pois : LaneMask) (tag : BitVec 3) (aux : BitVec 8)
    (s : State) : Res :=
  if !couplerLive s.boot k || !(couplerOf s k).up || 65536 ≤ chan then .next s
  else .next (updCoupler s k fun x =>
    { x with chans := mset [] x.chans chan (mget [] x.chans chan ++ [(sender, ⟨data, pois, tag, aux, 0⟩)]) })

end Sys2Proof.Machine
end

