-- ==== Sys2Proof/Machine/Booting.lean ====
section
/-! DEFINITION. Device reset and boot (R15, R27, R59, R90, R93, R413, R434 to R438), SPDM answers (R428, R439 to R441),
recovery (R437). -/

namespace Sys2Proof.Machine

/-! ### The panel map -/

/-- Is a panel map usable (R27)? DESIGN CHOICE: one with a detour that would have to leave the mesh is not (log 101). -/
def mapUsable (ddis : BitVec 160) : Bool :=
  let b := { State.reset.boot with mode := 0, ddis := ddis }
  !ddis.getLsbD 0 && (List.range 160).all fun n => !ddis.getLsbD n || detoursOk b (n % 10) (n / 10)

/-! ### Boot -/

/-- What a boot attempt leaves of the volatile part of the boot state: the run of one-time indices is abandoned (R441), and
the recorded pool size is applied (R93). -/
def bootStart (b : Boot) (f : BootFind) : Boot := { b with up := false, rpmbOk := f.rpmb, otsRun := 0, poolCode := b.nextPool }

/-- An attempt that fails (R434, R437). -/
def bootFails (b : Boot) (reason : Nat) : Boot := { b with reason := BitVec.ofNat 8 reason }

/-- Recovery mode: no firmware image verifies (R437). -/
def recovery (b : Boot) (reason : Nat) : Boot := { b with up := true, mode := 3, reason := BitVec.ofNat 8 reason }

/-- Steps 4 to 6 (R434): training, HBM4, the boot watchdog, and at the end the count is cleared and the floors rise. -/
def bootEnd (b : Boot) (f : BootFind) : Boot :=
  if !f.train then bootFails b 4
  else if !f.hbm then bootFails b 5
  else if f.watchdog then bootFails b 6
  else { b with up := true, count := 0, svnFloor := max b.svnFloor b.fwSvn, mapFloor := if b.mode = 2 then b.mapFloor else max b.mapFloor b.mapver }

/-- One boot attempt (R434 to R438). -/
def bootAttempt (b0 : Boot) (f : BootFind) : Boot :=
  let b := bootStart b0 f
  if !(f.fw && b.fwOk) then recovery b 2
  else if b.fwSvn < b.svnFloor then recovery b 3
  else if !f.rpmb then bootFails b 7
  else
    let b1 := { b with fails := b.count, count := b.count + 1 }
    if 3 ≤ b.count then bootEnd { b1 with mode := 2, mapver := 0, ddis := 0, sdis := 0, subst := [] } f
    else if !f.map then bootFails b1 1
    else if f.mapver < b.mapFloor then bootFails b1 3
    else if !mapUsable f.ddis then bootFails b1 8
    else bootEnd { b1 with
      mode := if f.ddis = 0 && f.sdis = 0 then 0 else 1
      mapver := f.mapver
      ddis := f.ddis
      sdis := f.sdis
      subst := f.subst.foldl (fun m e => mput m e.1 e.2) [] } f

/-- The crossings that a boot sets (R15, R434 step 5): a minimal boot those of the two memory sites beside D(0,0); one that did
not come so far sets none. -/
def crossingsOf (b : Boot) : List (Nat × List (Nat × Nat)) :=
  if !b.up || b.mode == 3 then []
  else if b.mode == 2 then bootCrossings.filter fun e => (siteNeighbours e.1).contains 0
  else bootCrossings

/-- DEVICE_RESET (R15, R59, R90, R413, R434): everything is as after reset, every unit unscrubbed, every tick 1, every incarnation 0;
what flash, RPMB and eMMC hold goes through one boot attempt, which sets the crossings. -/
def execDeviceReset (f : BootFind) (s : State) : Res :=
  .next { State.reset with
    boot := bootAttempt s.boot f
    crossings := crossingsOf (bootAttempt s.boot f)
    nonce := s.nonce + 1
    nextId := s.nextId
    out := s.out }

/-- RECOVERY_IMAGE_WRITE (R437, R438): in recovery mode a new image goes to flash; the next boot verifies it. -/
def execRecoveryImageWrite (valid : Bool) (svn : Nat) (s : State) : Res :=
  if s.boot.mode = 3 then .next { s with boot := { s.boot with fwOk := valid, fwSvn := svn } } else .next s

/-! ### SPDM -/

/-- An answer in a DOE mailbox, with its interrupt (R428, R439). -/
def answer (s : State) (fn : Fn) (code : Nat) (data : List Byte) : State :=
  emit (emit (bump s) (.spdm fn code data)) (.msix fn (match fn with
    | .pf => 1
    | .vf _ => 2))

/-- Bytes of an answer that keys, certificates or the SPDM format decide (log 12). -/
def freeBytes (s : State) (n : Nat) : List Byte := (List.range n).map (Config.spdmByte s.nonce)

/-- The one-time index of the next signature (R441): a run of 1,024 is reserved in RPMB before its first index is used. -/
def takeIndex (s : State) : Option (Nat × State) :=
  let b := s.boot
  if !b.rpmbOk then none
  else if b.otsRun ≠ 0 then some (b.otsNext - b.otsRun, { s with boot := { b with otsRun := b.otsRun - 1 } })
  else if 2 ^ 40 < b.otsNext + 1024 then none
  else some (b.otsNext, { s with boot := { b with otsNext := b.otsNext + 1024, otsRun := 1023 } })

/-- A signature of 9,893 bytes, which begins with its index (R439, R441; log 12). -/
def signature (s : State) (i : Nat) : List Byte := (leBytes 5 i).reverse ++ freeBytes s 9888

/-- A signed answer, or the SPDM error UnspecifiedError (R441). -/
def signedAnswer (s : State) (fn : Fn) (code : Nat) (body : List Byte) : State :=
  match takeIndex s with
  | some (i, s1) => answer s1 fn code (body ++ signature s1 i)
  | none => answer s fn 0x7F [0x05]

/-- GET_VERSION (R439): version 1.2. -/
def execGetVersion (fn : Fn) (s : State) : Res := .next (answer s fn 0x04 [0x00, 0x12])
/-- GET_CAPABILITIES (R439). -/
def execGetCapabilities (fn : Fn) (s : State) : Res := .next (answer s fn 0x61 (freeBytes s 8))
/-- NEGOTIATE_ALGORITHMS (R439). -/
def execNegotiateAlgorithms (fn : Fn) (s : State) : Res := .next (answer s fn 0x63 (freeBytes s 32))
/-- GET_DIGESTS (R439): the SHA3-384 digest of the chain in slot 0. -/
def execGetDigests (fn : Fn) (s : State) : Res := .next (answer s fn 0x01 ((List.range 48).map (Config.digest [0])))
/-- GET_CERTIFICATE (R439): the chain in slot 0. -/
def execGetCertificate (fn : Fn) (s : State) : Res := .next (answer s fn 0x02 (freeBytes s 1024))
/-- CHALLENGE (R441). -/
def execChallenge (fn : Fn) (s : State) : Res := .next (signedAnswer s fn 0x03 ((List.range 48).map (Config.digest [0])))

/-- A SHA3-384 digest of what the numbers describe. -/
def sha (x : List Nat) : List Byte := (List.range 48).map (Config.digest x)

/-- The leases of a tenant, ascending (R440). -/
def leasesOf (s : State) (t : Nat) : List (Nat × Lease) := s.leases.filter fun e => e.2.tenant == t

/-- Block 1: the running firmware image. -/
def block1 (s : State) : List Byte := sha [1, s.boot.fwSvn]
/-- Block 2: the panel map applied, or 48 zero bytes in minimal mode. -/
def block2 (s : State) : List Byte :=
  if s.boot.mode = 2 then List.replicate 48 0
  else sha ([2, s.boot.mapver, s.boot.ddis.toNat, s.boot.sdis.toNat] ++ (s.boot.subst.map fun e => 256 * e.1 + e.2))
/-- Block 3: lease numbers and the digests of their images as read at placement. -/
def block3 (s : State) (t : Nat) : List Byte := sha (3 :: ((leasesOf s t).map fun e => [e.1, e.2.meas]).flatten)
/-- Block 4: lease numbers, rectangles and the FWL words of their tiles in row-major order. -/
def block4 (s : State) (t : Nat) : List Byte :=
  sha (4 :: ((leasesOf s t).map fun e =>
    [e.1, e.2.col, e.2.row, e.2.img.w, e.2.img.h] ++ (e.2.tiles.map fun x => x.2.fwl.toNat)).flatten)

/-- The blocks that a function receives (R440). -/
def blocks (s : State) : Fn → List Byte
  | .pf => block1 s ++ block2 s
  | .vf t => block1 s ++ block2 s ++ block3 s t ++ block4 s t

/-- GET_MEASUREMENTS (R440, R441). -/
def execGetMeasurements (fn : Fn) (sign : Bool) (s : State) : Res :=
  .next (if sign then signedAnswer s fn 0x60 (blocks s fn) else answer s fn 0x60 (blocks s fn))

end Sys2Proof.Machine
end

