-- ==== Sys2Proof/Machine/Vector.lean ====
section
/-! DEFINITION. Class-00 operation words: integer and bitwise operations (R302), floating point (R303,
R304), compare, select, move and immediate (R305 to R308). -/

namespace Sys2Proof.Machine

/-- Operands of an elementwise function, by position. -/
def arg (l : List Nat) (i : Nat) : Nat := l.getD i 0

/-- An integer result of an exact value: saturated or wrapped (R192, R302). -/
def intRes (ty : ETy) (sat : Bool) (v : Int) : Nat × Flg := (intBits (tyI ty) (if sat then satInt (tyI ty) v else v), 0)

/-- A two-source integer operation from its exact result (R302). -/
def intBin (ty : ETy) (d : Dst) (a b : Src) (m : Msk) (sat : Bool) (v : Int → Int → Int) (s : State) : Res :=
  elemOp ty 0 d [a, b] m (fun l => intRes ty sat (v (intOf (tyI ty) (arg l 0)) (intOf (tyI ty) (arg l 1)))) s

/-- A one-source integer operation from its exact result. -/
def intUn (ty : ETy) (d : Dst) (a : Src) (m : Msk) (v : Int → Int) (s : State) : Res :=
  elemOp ty 0 d [a] m (fun l => intRes ty false (v (intOf (tyI ty) (arg l 0)))) s

/-- A bitwise operation; floating-point types set their own tag (R302). -/
def bitBin (ty : ETy) (d : Dst) (a b : Src) (m : Msk) (v : Nat → Nat → Nat) (s : State) : Res :=
  elemOp ty (tyTag ty) d [a, b] m (fun l => (v (arg l 0) (arg l 1), 0)) s

/-- Shift count of an element: the low log2(w) bits of b (R302). -/
def shCount (ty : ETy) (b : Nat) : Nat := b % tyW ty

/-- VADD, VSUB, VMUL (R302). -/
def execVadd (ty : ETy) (d : Dst) (a b : Src) (m : Msk) (sat : Bool) (s : State) : Res := intBin ty d a b m sat (· + ·) s
def execVsub (ty : ETy) (d : Dst) (a b : Src) (m : Msk) (sat : Bool) (s : State) : Res := intBin ty d a b m sat (· - ·) s
def execVmul (ty : ETy) (d : Dst) (a b : Src) (m : Msk) (sat : Bool) (s : State) : Res := intBin ty d a b m sat (· * ·) s
/-- VMULH (R302). -/
def execVmulh (ty : ETy) (d : Dst) (a b : Src) (m : Msk) (s : State) : Res :=
  intBin ty d a b m false (fun x y => Int.fdiv (x * y) (2 ^ tyW ty)) s
/-- VMAC (R302): the accumulator contributes. -/
def execVmac (ty : ETy) (d : BitVec 4) (a b : Src) (m : Msk) (s : State) : Res :=
  elemOp ty 0 (.v d) [.v d, a, b] m (fun l => intRes ty false
    (intOf (tyI ty) (arg l 0) + intOf (tyI ty) (arg l 1) * intOf (tyI ty) (arg l 2))) s
/-- VMIN, VMAX (R302). -/
def execVmin (ty : ETy) (d : Dst) (a b : Src) (m : Msk) (s : State) : Res := intBin ty d a b m false min s
def execVmax (ty : ETy) (d : Dst) (a b : Src) (m : Msk) (s : State) : Res := intBin ty d a b m false max s
/-- VABS, VNEG (R302): the most negative value comes back unchanged. -/
def execVabs (ty : ETy) (d : Dst) (a : Src) (m : Msk) (s : State) : Res := intUn ty d a m (fun x => (x.natAbs : Int)) s
def execVneg (ty : ETy) (d : Dst) (a : Src) (m : Msk) (s : State) : Res := intUn ty d a m (fun x => -x) s
/-- VAND, VOR, VXOR, VNOT (R302). -/
def execVand (ty : ETy) (d : Dst) (a b : Src) (m : Msk) (s : State) : Res := bitBin ty d a b m Nat.land s
def execVor (ty : ETy) (d : Dst) (a b : Src) (m : Msk) (s : State) : Res := bitBin ty d a b m Nat.lor s
def execVxor (ty : ETy) (d : Dst) (a b : Src) (m : Msk) (s : State) : Res := bitBin ty d a b m Nat.xor s
def execVnot (ty : ETy) (d : Dst) (a : Src) (m : Msk) (s : State) : Res :=
  elemOp ty (tyTag ty) d [a] m (fun l => (2 ^ tyW ty - 1 - arg l 0, 0)) s
/-- VSHL, VSHR, VSHA (R302). -/
def execVshl (ty : ETy) (d : Dst) (a b : Src) (m : Msk) (s : State) : Res :=
  elemOp ty 0 d [a, b] m (fun l => (arg l 0 * 2 ^ shCount ty (arg l 1), 0)) s
def execVshr (ty : ETy) (d : Dst) (a b : Src) (m : Msk) (s : State) : Res :=
  elemOp ty 0 d [a, b] m (fun l => (arg l 0 / 2 ^ shCount ty (arg l 1), 0)) s
def execVsha (ty : ETy) (d : Dst) (a b : Src) (m : Msk) (s : State) : Res :=
  elemOp ty 0 d [a, b] m (fun l =>
    (intBits ⟨tyW ty, true⟩ (Int.fdiv (intOf ⟨tyW ty, true⟩ (arg l 0)) (2 ^ shCount ty (arg l 1))), 0)) s
/-- VPOPC, VCLZ (R302). -/
def execVpopc (ty : ETy) (d : Dst) (a : Src) (m : Msk) (s : State) : Res :=
  elemOp ty 0 d [a] m (fun l => (((List.range (tyW ty)).filter fun i => (arg l 0).testBit i).length, 0)) s
def execVclz (ty : ETy) (d : Dst) (a : Src) (m : Msk) (s : State) : Res :=
  elemOp ty 0 d [a] m (fun l => (tyW ty - bitLen (arg l 0), 0)) s

/-- All ones of a type, or zero (R304, R305). -/
def ones (ty : ETy) (b : Bool) : Nat := if b then 2 ^ tyW ty - 1 else 0
/-- A comparison of exact values (R305). -/
def cmpInt (c : Cond) (x y : Int) : Bool :=
  match c with
  | .eq => decide (x = y) | .ne => decide (x ≠ y) | .lt => decide (x < y) | .le => decide (x ≤ y)
  | .gt => decide (y < x) | .ge => decide (y ≤ x) | .un => false
/-- VCMP (R305). -/
def execVcmp (ty : ETy) (d : Dst) (a b : Src) (m : Msk) (c : Cond) (s : State) : Res :=
  elemOp ty 0 d [a, b] m (fun l => (ones ty (cmpInt c (intOf (tyI ty) (arg l 0)) (intOf (tyI ty) (arg l 1))), 0)) s

/-- VSEL (R306): the unchosen element contributes nothing. -/
def execVsel (ty : ETy) (d : BitVec 4) (a b : Src) (m : Msk) (s : State) : Res :=
  laneOp ty (.v d) [.v d, a, b] m true (fun _ _ _ act old ts =>
    let w := tyW ty
    let sel := ts.getD 0 Tok.zero
    let x := ts.getD 1 Tok.zero
    let y := ts.getD 2 Tok.zero
    let pick (e : Nat) : Tok := if elemAt w sel.data e ≠ 0 then x else y
    let data := ofElems w ((List.range (tyN ty)).map fun e => elemAt w (if elemOn w act e then (pick e).data else old.data) e)
    let on := maskOf fun i => elemOn w act (laneElem w i)
    let per : List Nat := List.range (if w = 64 then 1 else 32 / w)
    let pois := maskOf fun i => elemPois w sel.pois (laneElem w i) ||
      per.any fun j => elemPois w (pick (laneElem w i + j)).pois (laneElem w i + j)
    .ok (⟨data, (pois &&& on) ||| (old.pois &&& ~~~on), tyTag ty, 0, 0⟩, id)) s

/-- VMOV (R307): tag and aux of a. -/
def execVmov (d : Dst) (a : Src) (m : Msk) (s : State) : Res :=
  laneOp .i32 d [a] m false (fun _ _ _ _ _ ts =>
    let x := ts.getD 0 Tok.zero
    .ok (⟨x.data, x.pois, x.tag, x.aux, 0⟩, id)) s

/-- The value of VLI in each element (R308). -/
def vliElem (ty : ETy) (imm : BitVec 16) : Nat :=
  match ty with
  | .i32 => (imm.signExtend 32).toNat
  | .i64 => (imm.signExtend 64).toNat
  | .f32 => imm.toNat * 2 ^ 16
  | .i8 => imm.toNat % 256
  | _ => imm.toNat
/-- VLI (R308). -/
def execVli (ty : ETy) (d : Dst) (imm : BitVec 16) (s : State) : Res :=
  laneOp ty d [] none false (fun _ _ _ _ _ _ =>
    .ok (⟨ofElems (tyW ty) (List.replicate (tyN ty) (vliElem ty imm)), 0, tyTag ty, 0, 0⟩, id)) s

/-- A floating-point operation (R303): elementwise in the type's format. -/
def fpOp (ty : ETy) (d : Dst) (srcs : List Src) (m : Msk) (g : FFmt → List Nat → Nat × Flg) (s : State) : Res :=
  elemOp ty (tyTag ty) d srcs m (fun l => match tyF ty with
    | some f => g f l
    | none => (0, 0)) s

/-- FADD (R303). -/
def execFadd (ty : ETy) (d : Dst) (a b : Src) (m : Msk) (s : State) : Res :=
  fpOp ty d [a, b] m (fun f l => fAdd f (arg l 0) (arg l 1)) s
/-- FSUB (R303). -/
def execFsub (ty : ETy) (d : Dst) (a b : Src) (m : Msk) (s : State) : Res :=
  fpOp ty d [a, b] m (fun f l => fSub f (arg l 0) (arg l 1)) s
/-- FMUL (R303). -/
def execFmul (ty : ETy) (d : Dst) (a b : Src) (m : Msk) (s : State) : Res :=
  fpOp ty d [a, b] m (fun f l => fMul f (arg l 0) (arg l 1)) s
/-- FDIV (R303). -/
def execFdiv (ty : ETy) (d : Dst) (a b : Src) (m : Msk) (s : State) : Res :=
  fpOp ty d [a, b] m (fun f l => fDiv f (arg l 0) (arg l 1)) s
/-- FMIN (R196, R303). -/
def execFmin (ty : ETy) (d : Dst) (a b : Src) (m : Msk) (s : State) : Res :=
  fpOp ty d [a, b] m (fun f l => fMinMax f false (arg l 0) (arg l 1)) s
/-- FMAX (R196, R303). -/
def execFmax (ty : ETy) (d : Dst) (a b : Src) (m : Msk) (s : State) : Res :=
  fpOp ty d [a, b] m (fun f l => fMinMax f true (arg l 0) (arg l 1)) s
/-- FFMA (R213, R303). -/
def execFfma (ty : ETy) (d : BitVec 4) (a b : Src) (m : Msk) (s : State) : Res :=
  fpOp ty (.v d) [.v d, a, b] m (fun f l => fFma f (arg l 1) (arg l 2) (arg l 0)) s
/-- FFMS (R213, R303). -/
def execFfms (ty : ETy) (d : BitVec 4) (a b : Src) (m : Msk) (s : State) : Res :=
  fpOp ty (.v d) [.v d, a, b] m (fun f l => fFms f (arg l 1) (arg l 2) (arg l 0)) s
/-- FABS (R196, R303). -/
def execFabs (ty : ETy) (d : Dst) (a : Src) (m : Msk) (s : State) : Res :=
  fpOp ty d [a] m (fun f l => fAbs f (arg l 0)) s
/-- FNEG (R196, R303). -/
def execFneg (ty : ETy) (d : Dst) (a : Src) (m : Msk) (s : State) : Res :=
  fpOp ty d [a] m (fun f l => fNeg f (arg l 0)) s
/-- FSQRT (R196, R303). -/
def execFsqrt (ty : ETy) (d : Dst) (a : Src) (m : Msk) (s : State) : Res :=
  fpOp ty d [a] m (fun f l => fSqrt f (arg l 0)) s
/-- FRSQ (R196, R303). -/
def execFrsq (ty : ETy) (d : Dst) (a : Src) (m : Msk) (s : State) : Res :=
  fpOp ty d [a] m (fun f l => fRsq f (arg l 0)) s
/-- FEX2 (R196, R303). -/
def execFex2 (ty : ETy) (d : Dst) (a : Src) (m : Msk) (s : State) : Res :=
  fpOp ty d [a] m (fun f l => fEx2 f (arg l 0)) s
/-- FLG2 (R196, R303). -/
def execFlg2 (ty : ETy) (d : Dst) (a : Src) (m : Msk) (s : State) : Res :=
  fpOp ty d [a] m (fun f l => fLg2 f (arg l 0)) s
/-- FCMP (R304): all ones or zero, tag 0. -/
def execFcmp (ty : ETy) (d : Dst) (a b : Src) (m : Msk) (c : Cond) (s : State) : Res :=
  elemOp ty 0 d [a, b] m (fun l => match tyF ty with
    | some f => let r := fCmp f c (arg l 0) (arg l 1); (ones ty r.1, r.2)
    | none => (0, 0)) s
/-- FCLS (R304). -/
def execFcls (ty : ETy) (d : Dst) (a : Src) (m : Msk) (s : State) : Res :=
  elemOp ty 0 d [a] m (fun l => match tyF ty with
    | some f => (fCls f (arg l 0), 0)
    | none => (0, 0)) s

end Sys2Proof.Machine
end

