-- ==== Sys2Proof/Machine/Convert.lean ====
section
/-! DEFINITION. Conversion and blocks (R309 to R311), reductions (R211, R212, R312), permutes (R313),
modular operations (R314) and poison operations (R315). -/

namespace Sys2Proof.Machine

/-! ### Converters -/

/-- CRND and CSAT of the element's converter (R205, R240). -/
def convMode (x : Tile) : RMode := rmodeOf (bits (wd x.act.pb 96) 0 3)
def convSat (x : Tile) : Bool := (wd x.act.pb 96).testBit 3

/-- One draw of a context's generator, under SR only (R207). -/
def drawOf (mode : RMode) (g : BitVec 32 × Bool) : Nat × (BitVec 32 × Bool) :=
  if mode = .sr then
    let (v, gs, h) := draw16 g.1 g.2
    (v, (gs, h))
  else (0, g)

/-- Elements are converted in ascending order, each with its draw; `f e` gives the converted value or none
for an element that is not converted. -/
def convGo (mode : RMode) (f : Nat → Option (Nat → Nat × Flg)) : List Nat → BitVec 32 × Bool → List (Option (Nat × Flg)) × (BitVec 32 × Bool)
  | [], g => ([], g)
  | e :: r, g =>
    match f e with
    | none => let (l, g') := convGo mode f r g; (none :: l, g')
    | some h =>
      let (v, g1) := drawOf mode g
      let (l, g') := convGo mode f r g1
      (some (h v) :: l, g')

/-- The operation type of a conversion's word (R231). -/
def cfTy : CFmt → ETy
  | .i32 => .i32 | .f32 => .f32 | .bf16 => .bf16 | .f16 => .f16 | .i16 => .i16 | .i8 => .i8 | .u32 => .u32
  | .e4m3 => .i32 | .e5m2 => .f32

/-- The generator of a context becomes `g`. -/
def setGen (g : BitVec 32 × Bool) (c : Ctx) : Ctx := { c with gs := g.1, half := g.2 }

/-- CVT (R309, R206 to R210). -/
def execCvt (dst src : CFmt) (d : Dst) (a : Src) (m : Msk) (s : State) : Res :=
  laneOp (cfTy dst) d [a] m true (fun x c _ act old ts =>
    let t := ts.getD 0 Tok.zero
    let wd := cfWidth dst
    let ws := cfWidth src
    let n := min (768 / wd) (768 / ws)
    let mode := convMode x
    let sat := convSat x
    let on (e : Nat) : Bool := act.getLsbD (wd * e / 32)
    let es := List.range (768 / wd)
    let (rs, g) := convGo mode (fun e => if on e && e < n then some fun v => convert src dst mode sat v (elemAt ws t.data e) else none) es
      (c.gs, c.half)
    let data := ofElems wd ((es.zip rs).map fun p => match p.2 with
      | some r => r.1
      | none => if on p.1 then 0 else elemAt wd old.data p.1)
    let srcP (e : Nat) : Bool := e < n && t.pois.getLsbD (ws * e / 32)
    let pois := maskOf fun i => (List.range (32 / wd)).any fun j => srcP (32 / wd * i + j)
    let fl := orFlags ((es.zip rs).map fun p => match p.2 with
      | some r => if pois.getLsbD (wd * p.1 / 32) then 0 else r.2
      | none => 0)
    .ok (⟨data, (pois &&& act) ||| (old.pois &&& ~~~act), cfTag dst, 0, fl⟩, setGen g)) s

/-- SCL (R310): k is lane i of b. -/
def execScl (ty : ETy) (d : Dst) (a b : Src) (m : Msk) (s : State) : Res :=
  laneOp ty d [a, b] m true (fun x c _ act old ts =>
    let t := ts.getD 0 Tok.zero
    let k := ts.getD 1 Tok.zero
    let w := tyW ty
    let mode := convMode x
    let es := List.range (tyN ty)
    let f := (tyF ty).getD f32
    let kk (e : Nat) : Int := (BitVec.ofNat 32 (laneAt k.data (w * e / 32))).toInt
    let (rs, g) := convGo mode (fun e => if elemOn w act e then
        some fun v => scale f mode (convSat x) v (elemAt w t.data e) (kk e) else none) es (c.gs, c.half)
    let data := ofElems w ((es.zip rs).map fun p => match p.2 with
      | some r => r.1
      | none => elemAt w old.data p.1)
    let fl := orFlags ((es.zip rs).map fun p => match p.2 with
      | some r => if elemPois w (t.pois ||| k.pois) p.1 then 0 else r.2
      | none => 0)
    .ok (⟨data, ((t.pois ||| k.pois) &&& act) ||| (old.pois &&& ~~~act), tyTag ty, 0, fl⟩, setGen g)) s

/-- BFPK (R204, R311): the whole token, tag 6, aux E. -/
def execBfpk (d : Dst) (a : Src) (w : BitVec 4) (m : Msk) (s : State) : Res :=
  laneOp .f32 d [a] m true (fun x c _ act _ ts =>
    let t := ts.getD 0 Tok.zero
    let mode := convMode x
    let lanes := (List.range 24).filter fun i => act.getLsbD i
    let vals := lanes.map fun i => decF f32 (laneAt t.data i)
    let special := vals.any fun v => match v with
      | .fin .. => false
      | _ => true
    let bad := vals.any fun v => match v with
      | .inf _ => true
      | .nan sig => sig
      | _ => false
    let big := vals.foldl (init := ((0, 0) : Nat × Int)) fun b v => match v with
      | .fin _ k e => if dyGt k e b.1 b.2 then (k, e) else b
      | _ => b
    let E := if special then 0xFF else if big.1 = 0 then 0 else bfpExp big.1 big.2
    let flat := special || big.1 == 0
    let (rs, g) := convGo mode (fun i => if act.getLsbD i then
        some fun v => match decF f32 (laneAt t.data i) with
          | .fin n k e => if flat then (0, 0) else
              let (y, inex) := bfpMant w.toNat E mode v n k e
              ((BitVec.ofInt 32 y).toNat, flagIf inex fNX)
          | _ => (0, 0)
        else none) (List.range 24) (c.gs, c.half)
    let data := ofElems 32 (rs.map fun r => match r with
      | some v => v.1
      | none => 0)
    let pz := lanes.any fun i => t.pois.getLsbD i
    let fl := orFlags (rs.map fun r => match r with
      | some v => v.2
      | none => 0)
    .ok (⟨data, if pz then allLanes else 0, 6, BitVec.ofNat 8 E,
      if pz then 0 else fl ||| flagIf (special && bad) fNV⟩, setGen g)) s

/-- BFUP (R204, R311). -/
def execBfup (d : Dst) (a : Src) (w : BitVec 4) (m : Msk) (s : State) : Res :=
  laneOp .f32 d [a] m false (fun _ _ _ _ _ ts =>
    let t := ts.getD 0 Tok.zero
    .ok (⟨ofElems 32 ((List.range 24).map fun i => bfpUp w.toNat t.aux.toNat (laneAt t.data i)), t.pois, 1, 0, 0⟩, id)) s

/-! ### Reductions -/

/-- One level of the tree of R211. -/
def sumLevel (add : Nat → Nat → Nat × Flg) : List (Option Nat) → List (Option Nat) × Flg
  | [] => ([], 0)
  | [x] => ([x], 0)
  | x :: y :: r =>
    let (v, fl) : Option Nat × Flg := match x, y with
      | none, y => (y, 0)
      | x, none => (x, 0)
      | some a, some b => let q := add a b; (some q.1, q.2)
    let (l, fl') := sumLevel add r
    (v :: l, fl ||| fl')
/-- The pairwise tree: at most `n` levels. -/
def sumTree (add : Nat → Nat → Nat × Flg) : Nat → List (Option Nat) → Option Nat × Flg
  | 0, l => (l.headD none, 0)
  | n + 1, l =>
    match l with
    | [x] => (x, 0)
    | _ =>
      let (l', fl) := sumLevel add l
      let (v, fl') := sumTree add n l'
      (v, fl ||| fl')

/-- A reduction (R312): the leaves are the elements of active lanes; the result fills the active lanes. -/
def reduceOp (ty : ETy) (d : Dst) (a : Src) (m : Msk) (f : List (Option Nat) → Nat × Flg) (s : State) : Res :=
  laneOp ty d [a] m false (fun _ _ _ act _ ts =>
    let t := ts.getD 0 Tok.zero
    let w := tyW ty
    let leaves := (List.range (tyN ty)).map fun e => if elemOn w act e then some (elemAt w t.data e) else none
    let (v, fl) := f leaves
    let pz := (t.pois &&& act) != 0
    .ok (⟨ofElems w (List.replicate (tyN ty) v), if pz then allLanes else 0, tyTag ty, 0, if pz then 0 else fl⟩, id)) s

/-- A NaN result is the canonical one (R194). -/
def canonNan (f : FFmt) (v : Nat) : Nat := if anyNan [decF f v] then f.nan else v
/-- RSUM (R194, R211, R312): a leaf that stands alone is a result too. -/
def execRsum (ty : ETy) (d : Dst) (a : Src) (m : Msk) (s : State) : Res :=
  reduceOp ty d a m (fun l =>
    let add (x y : Nat) : Nat × Flg := match tyF ty with
      | some f => fAdd f x y
      | none => ((x + y) % 2 ^ tyW ty, 0)
    let (v, fl) := sumTree add 6 l
    match tyF ty with
    | some f => (canonNan f (v.getD 0), fl ||| sigFlag ((l.filterMap id).map (decF f)))
    | none => (v.getD 0, fl)) s

/-- The greatest or least element under R212. -/
def extreme (ty : ETy) (big : Bool) (l : List (Option Nat)) : Nat × Flg :=
  let vs := l.filterMap id
  match tyF ty with
  | some f =>
    let ok := vs.filter fun v => !anyNan [decF f v]
    let fl := sigFlag (vs.map (decF f))
    match ok with
    | [] => (f.nan, fl)
    | v :: r => (r.foldl (fun b x => (fMinMax f big b x).1) v, fl)
  | none =>
    match vs with
    | [] => (intBits (tyI ty) (if big then intMin (tyI ty) else intMax (tyI ty)), 0)
    | v :: r => (r.foldl (fun b x =>
        let lt (p q : Nat) : Bool := decide (intOf (tyI ty) p < intOf (tyI ty) q)
        if (if big then lt b x else lt x b) then x else b) v, 0)
/-- RMAX and RMIN (R212, R312). -/
def execRmax (ty : ETy) (d : Dst) (a : Src) (m : Msk) (s : State) : Res := reduceOp ty d a m (extreme ty true) s
def execRmin (ty : ETy) (d : Dst) (a : Src) (m : Msk) (s : State) : Res := reduceOp ty d a m (extreme ty false) s

/-! ### Permutes -/

/-- A permute by lanes (R313): each lane gets data and poison; the lanes of an I64 pair that is not active as a whole keep theirs
(R191). -/
def permOp (ty : ETy) (d : Dst) (srcs : List Src) (m : Msk) (f : List Tok → Nat → Nat × Bool) (s : State) : Res :=
  laneOp ty d srcs m true (fun _ _ _ act old ts =>
    let on := maskOf fun i => elemOn (tyW ty) act (laneElem (tyW ty) i)
    let rs := (List.range 24).map fun i => if on.getLsbD i then f ts i else (laneAt old.data i, old.pois.getLsbD i)
    .ok (⟨ofElems 32 (rs.map (·.1)), maskOf fun i => (rs.getD i (0, false)).2, tyTag ty, 0, 0⟩, id)) s

/-- Lane `x` of a token with its poison, or a clean zero. -/
def laneOr (t : Tok) (x : Int) : Nat × Bool :=
  if 0 ≤ x && x < 24 then (laneAt t.data x.toNat, t.pois.getLsbD x.toNat) else (0, false)

/-- PERM (R313). -/
def execPerm (ty : ETy) (d : Dst) (a b : Src) (m : Msk) (s : State) : Res :=
  permOp ty d [a, b] m (fun ts i =>
    let x := ts.getD 0 Tok.zero
    let y := ts.getD 1 Tok.zero
    let r := laneOr x (laneAt y.data i % 32 : Nat)
    (r.1, r.2 || y.pois.getLsbD i)) s
/-- BPERM (R313). -/
def execBperm (ty : ETy) (d : Dst) (a b : Src) (m : Msk) (s : State) : Res :=
  permOp ty d [a, b] m (fun ts i =>
    let x := ts.getD 0 Tok.zero
    let y := ts.getD 1 Tok.zero
    let bs := (List.range 4).map fun j =>
      let k := elemAt 8 y.data (4 * i + j) % 128
      if k < 96 then (elemAt 8 x.data k, x.pois.getLsbD (k / 4)) else (0, false)
    (bs.foldr (fun v a => a * 256 + v.1) 0, bs.any (·.2) || y.pois.getLsbD i)) s
/-- LSHF (R313). -/
def execLshf (ty : ETy) (d : Dst) (a b : Src) (m : Msk) (s : State) : Res :=
  permOp ty d [a, b] m (fun ts i =>
    let x := ts.getD 0 Tok.zero
    let y := ts.getD 1 Tok.zero
    let r := laneOr x ((i : Int) - (BitVec.ofNat 32 (laneAt y.data 0)).toInt)
    (r.1, r.2 || y.pois.getLsbD 0)) s
/-- BCST (R313). -/
def execBcst (ty : ETy) (d : Dst) (a : Src) (l : BitVec 5) (m : Msk) (s : State) : Res :=
  permOp ty d [a] m (fun ts _ => laneOr (ts.getD 0 Tok.zero) (l.toNat : Int)) s
/-- SHUF (R313): elements interleaved; an I64 pair is taken as one. -/
def execShuf (ty : ETy) (d : Dst) (a b : Src) (m : Msk) (s : State) : Res :=
  laneOp ty d [a, b] m true (fun _ _ _ act old ts =>
    let x := ts.getD 0 Tok.zero
    let y := ts.getD 1 Tok.zero
    let w := tyW ty
    let from_ (e : Nat) : Tok := if e % 2 = 0 then x else y
    let data := ofElems w ((List.range (tyN ty)).map fun e =>
      if elemOn w act e then elemAt w (from_ e).data (e / 2) else elemAt w old.data e)
    let on := maskOf fun i => elemOn w act (laneElem w i)
    let per : List Nat := List.range (if w = 64 then 1 else 32 / w)
    let pois := maskOf fun i => per.any fun j =>
      let e := laneElem w i + j
      elemPois w (from_ e).pois (e / 2)
    .ok (⟨data, (pois &&& on) ||| (old.pois &&& ~~~on), tyTag ty, 0, 0⟩, id)) s

/-! ### Modular operations -/

/-- Pair `i` of the handler's K (R314). -/
def kPair (x : Tile) (fi : Firing) (i : Nat) : Nat := elemAt 64 (kTok x.act fi.h).data i

/-- Is a word of K that a modular operation takes its constants from damaged (R143)? -/
def kBad (x : Tile) (fi : Firing) : Bool := (List.range 6).any fun i => wordBad x.act 0 ((hKbase x.act fi.h + i) % 1024)

/-- A modular operation (R216, R314): q and μ from K; a q out of range gives 0 and NV. -/
def modOp (d : Dst) (a b : Src) (m : Msk) (g : Nat → Nat → Nat → Nat → Nat → Nat) (s : State) : Res :=
  laneOp .i64 d [a, b] m true (fun x _ fi act old ts =>
    let q := kPair x fi 0
    let mu := kPair x fi 1
    let w := kPair x fi 2
    let (data, pois, on, fl) := elementwise 64 act old ts fun l =>
      if mOk q then (g q mu w (arg l 0) (arg l 1), 0) else (0, fNV)
    if kBad x fi then .error cPCTL else .ok (⟨data, (pois &&& on) ||| (old.pois &&& ~~~on), 0, 0, fl⟩, id)) s

/-- MMUL, MADD, MSUB (R314). -/
def execMmul (d : Dst) (a b : Src) (m : Msk) (s : State) : Res := modOp d a b m (fun q mu _ x y => mMul q mu x y) s
def execMadd (d : Dst) (a b : Src) (m : Msk) (s : State) : Res := modOp d a b m (fun q _ _ x y => mAdd q x y) s
def execMsub (d : Dst) (a b : Src) (m : Msk) (s : State) : Res := modOp d a b m (fun q _ _ x y => mSub q x y) s
/-- NTTB (R216, R314): writes d and d + 1. -/
def execNttb (d : BitVec 4) (a b : Src) (m : Msk) (s : State) : Res :=
  laneOp .i64 (.v d) [a, b] m true (fun x c fi act old ts =>
    let q := kPair x fi 0
    let mu := kPair x fi 1
    let w := kPair x fi 2
    let old2 := dstOld c (.v (d + 1))
    let half (f : Nat → Nat → Nat) (o : Tok) : Payload × LaneMask × LaneMask × Flg :=
      elementwise 64 act o ts fun l => if mOk q then (f (arg l 0) (mMul q mu w (arg l 1)), 0) else (0, fNV)
    let (d1, pois, on, fl) := half (mAdd q) old
    let (d2, _, _, _) := half (mSub q) old2
    let t2 := mergeLanes allLanes old2 d2 ((pois &&& on) ||| (old2.pois &&& ~~~on)) 0 0
    if kBad x fi then .error cPCTL else .ok (⟨d1, (pois &&& on) ||| (old.pois &&& ~~~on), 0, 0, fl⟩, fun c => dstPut c (.v (d + 1)) t2)) s

/-! ### Poison operations -/

/-- PTST (R156, R315). -/
def execPtst (ty : ETy) (d : Dst) (a : Src) (m : Msk) (s : State) : Res :=
  laneOp ty d [a] m false (fun _ _ _ _ _ ts =>
    .ok (⟨ofElems 32 (List.replicate 24 (ts.getD 0 Tok.zero).pois.toNat), 0, 0, 0, 0⟩, id)) s
/-- PCLR of an element (R156, R315). -/
def execElementPclr (ty : ETy) (d : Dst) (a : Src) (m : Msk) (s : State) : Res :=
  laneOp ty d [a] m false (fun _ _ _ _ _ ts => .ok (⟨(ts.getD 0 Tok.zero).data, 0, tyTag ty, 0, 0⟩, id)) s
/-- PFIL (R156, R315). -/
def execPfil (ty : ETy) (d : Dst) (a b : Src) (m : Msk) (s : State) : Res :=
  laneOp ty d [a, b] m false (fun _ _ _ _ _ ts =>
    let x := ts.getD 0 Tok.zero
    let y := ts.getD 1 Tok.zero
    .ok (⟨ofElems 32 ((List.range 24).map fun i => laneAt (if x.pois.getLsbD i then y.data else x.data) i),
      x.pois &&& y.pois, tyTag ty, 0, 0⟩, id)) s
/-- PSET (R156, R315): a poisoned mask faults POISON_CONTROL. -/
def execPset (ty : ETy) (d : Dst) (a b : Src) (m : Msk) (s : State) : Res :=
  laneOp ty d [a, b] m false (fun _ _ _ _ _ ts =>
    let x := ts.getD 0 Tok.zero
    let y := ts.getD 1 Tok.zero
    if y.pois.getLsbD 0 then .error cPCTL
    else .ok (⟨x.data, x.pois ||| BitVec.ofNat 24 (laneAt y.data 0), tyTag ty, 0, 0⟩, id)) s

end Sys2Proof.Machine
end

