-- ==== Sys2Proof/Machine/Matrix.lean ====
section
/-! DEFINITION. Operation words of M tiles (R351 to R357) with the accumulation of R214 and R215. -/

namespace Sys2Proof.Machine

/-- A change of the tile's matrix state, and the firing goes on. -/
def matDone (s : State) (l t k : Nat) (fi : Firing) (m : MState) : State :=
  fireAt (updTile s l t fun x => { x with mat := m }) l t k (fi.pc + 1)

/-- WLD (R352): one column of one K-block of the loading macro. -/
def execWld (a b : Src) (s : State) : Res :=
  onElem s fun l t k ls x c fi =>
    match srcToks x k c fi .i32 [a, b] with
    | .error e => operandFault s l t k ls x c fi e
    | .ok ts =>
      let av := ts.getD 0 Tok.zero
      let bv := ts.getD 1 Tok.zero
      let kb := bits (laneAt bv.data 0) 0 4
      let j := bits (laneAt bv.data 0) 4 8
      if bv.pois.getLsbD 0 then wordFault s l t k ls x c fi cPCTL 0
      else if 191 < j then wordFault s l t k ls x c fi cCONFIG 0
      else
        let ld := x.mat.ld
        let bad := av.pois != 0
        let clean := if bad then ld.clean.filter fun q => q / 192 != kb else nadd ld.clean (192 * kb + j)
        let full := (clean.filter fun q => q / 192 == kb).length == 192
        let bit := BitVec.ofNat 16 (2 ^ kb)
        let ld' : Macro :=
          { w := (List.range 24).foldl (fun m i => mset 0 m (192 * (24 * kb + i) + j) (BitVec.ofNat 8 (laneAt av.data i))) ld.w
            e := mset 0 ld.e (192 * kb + j) av.aux
            pois := if bad then ld.pois ||| bit else if full then ld.pois &&& ~~~bit else ld.pois
            clean := clean }
        matDone s l t k fi { x.mat with ld := ld' }

/-- WSWP (R353): the macros change places; an MMA is done in the step that issues it, so none is in
progress. -/
def execWswp (s : State) : Res :=
  onElem s fun l t k _ x _ fi => matDone s l t k fi { x.mat with act := x.mat.ld, ld := x.mat.act }

/-- The A blocks of MMA and MMAI (R354): tokens from the port's read point on, or the one operand. -/
def aBlocks (x : Tile) (k : Nat) (c : Ctx) (fi : Firing) (a : Src) (n : Nat) : Except OpErr (List Tok) :=
  match a with
  | .i p =>
    if !bound x.act k p.toNat then .error .unbound
    else
      let q := (inPort c p.toNat).q.take n
      if q.length < n || !q.all isData then .error (.empty p.toNat n (dataAhead q)) else .ok q
  | s => (srcTok x k c fi .i32 s).map fun t => [t]

/-- Mantissa `i` of an A block of width `w` (R354). -/
def aMant (t : Tok) (w i : Nat) : Int := (BitVec.ofNat w (laneAt t.data i)).toInt
/-- Weight of row `24·kb + i`, column `j`. -/
def weight (m : Macro) (kb i j : Nat) : Int := (mget (0 : Byte) m.w (192 * (24 * kb + i) + j)).toInt
/-- The exact K-block sum (R214). -/
def blockSum (m : Macro) (t : Tok) (w kb j : Nat) : Int :=
  ((List.range 24).map fun i => aMant t w i * weight m kb i j).foldl (· + ·) 0

/-- One step of MMA for one entry (R214): the scaled block, then the rounded sum. -/
def mmaStep (m : Macro) (w j : Nat) (acc : Nat × Flg) (kt : Nat × Tok) : Nat × Flg :=
  let ew := (mget (0 : Byte) m.e (192 * kt.1 + j)).toNat
  let ea := kt.2.aux.toNat
  if ea = 0xFF || ew = 0xFF then (f32.nan, acc.2 ||| fNV ||| (fAdd f32 acc.1 f32.nan).2)
  else
    let v := blockSum m kt.2 w kt.1 j
    let (sb, f1) := rne f32 (decide (v < 0)) v.natAbs ((ea + ew : Nat) - 254 - (w - 1 : Nat) - 7) false
    let (r, f2) := fAdd f32 acc.1 sb
    (r, acc.2 ||| f1 ||| f2)

/-- One step of MMAI for one entry (R215). -/
def mmaiStep (m : Macro) (w j : Nat) (acc : Nat × Flg) (kt : Nat × Tok) : Nat × Flg :=
  let v := (BitVec.ofNat 32 acc.1).toInt + blockSum m kt.2 w kt.1 j
  let r := satInt ⟨32, true⟩ v
  (intBits ⟨32, true⟩ r, acc.2 ||| flagIf (r != v) fOFonly)

/-- MMA and MMAI share control word, blocks, poison and flags (R354, R355, R356). -/
def mmaOp (step : Macro → Nat → Nat → Nat × Flg → Nat × Tok → Nat × Flg) (a b : Src) (w : BitVec 4) (n : BitVec 2) (s : State) : Res :=
  onElem s fun l t k ls x c fi =>
    match srcTok x k c fi .i32 b with
    | .error e => operandFault s l t k ls x c fi e
    | .ok bv =>
      let cw := laneAt bv.data 0
      let k0 := bits cw 0 4
      let nm := bits cw 4 4
      let port := match a with
        | .i _ => true
        | _ => false
      let unb := match a with
        | .i p => !bound x.act k p.toNat
        | _ => false
      if unb then wordFault s l t k ls x c fi cCONFIG 0
      else if bv.pois.getLsbD 0 then wordFault s l t k ls x c fi cPCTL 0
      else if 15 < k0 + nm || (nm ≠ 0 && !port) then wordFault s l t k ls x c fi cCONFIG 0
      else match aBlocks x k c fi a (nm + 1) with
        | .error e => operandFault s l t k ls x c fi e
        | .ok ts =>
          let blocks := (ts.zipIdx).map fun e => (k0 + e.2, e.1)
          let m := x.mat.act
          let bank := 192 * n.toNat
          let bad := blocks.any fun e => e.2.pois != 0 || m.pois.getLsbD e.1
          let rs := (List.range 192).map fun j =>
            blocks.foldl (step m w.toNat j) ((mget (0 : Word) x.mat.acc (bank + j)).toNat, (0 : Flg))
          let acc := (rs.zipIdx).foldl (fun q e => mset 0 q (bank + e.2) (BitVec.ofNat 32 e.1.1)) x.mat.acc
          let wasP (j : Nat) : Bool := nhas x.mat.accPois (bank + j)
          let ps := if bad then (List.range 192).foldl (fun q j => nadd q (bank + j)) x.mat.accPois else x.mat.accPois
          let fl := if bad then 0 else orFlags ((rs.zipIdx).map fun e => if wasP e.2 then 0 else e.1.2)
          updCtx (matDone s l t k fi { x.mat with acc := acc, accPois := ps }) l t k fun c => addFlags c fl

/-- MMA (R355). -/
def execMma (a b : Src) (w : BitVec 4) (n : BitVec 2) (s : State) : Res := mmaOp mmaStep a b w n s
/-- MMAI (R356). -/
def execMmai (a b : Src) (w : BitVec 4) (n : BitVec 2) (s : State) : Res := mmaOp mmaiStep a b w n s

/-- ACRD (R357). -/
def execAcrd (ty : ETy) (d : Dst) (seg : BitVec 3) (n : BitVec 2) (s : State) : Res :=
  laneOp ty d [] none false (fun x _ _ _ _ _ =>
    let at_ (i : Nat) : Nat := 192 * n.toNat + 24 * seg.toNat + i
    .ok (⟨ofElems 32 ((List.range 24).map fun i => (mget (0 : Word) x.mat.acc (at_ i)).toNat),
      maskOf fun i => nhas x.mat.accPois (at_ i), tyTag ty, 0, 0⟩, id)) s

/-- ACCL (R357). -/
def execAccl (n : BitVec 2) (s : State) : Res :=
  onElem s fun l t k _ x _ fi =>
    let out (q : Nat) : Bool := q / 192 != n.toNat
    matDone s l t k fi { x.mat with acc := x.mat.acc.filter (fun e => out e.1), accPois := x.mat.accPois.filter out }

end Sys2Proof.Machine
end

