-- ==== Sys2Proof/Machine/Dispatch.lean ====
section
/-! DEFINITION. The one match from an instruction to its meaning. -/

namespace Sys2Proof.Machine

open Sys2Proof

/-- Execution of one instruction or step. -/
def exec (i : Instr) (s : State) : Host.Outcome State Fault Refusal :=
  match i with
  | .route a1 a2 a3 => Sys2Proof.Machine.execRoute a1 a2 a3 s
  | .fork a1 a2 a3 => Sys2Proof.Machine.execFork a1 a2 a3 s
  | .merge a1 a2 a3 => Sys2Proof.Machine.execMerge a1 a2 a3 s
  | .cut a1 a2 => Sys2Proof.Machine.execCut a1 a2 s
  | .hold a1 => Sys2Proof.Machine.execHold a1 s
  | .dly a1 a2 => Sys2Proof.Machine.execDly a1 a2 s
  | .fwl a1 => Sys2Proof.Machine.execFwl a1 s
  | .trap a1 => Sys2Proof.Machine.execTrap a1 s
  | .srd a1 a2 => Sys2Proof.Machine.execSrd a1 a2 s
  | .swr a1 a2 => Sys2Proof.Machine.execSwr a1 a2 s
  | .fence a1 a2 => Sys2Proof.Machine.execFence a1 a2 s
  | .ptest a1 a2 => Sys2Proof.Machine.execPtest a1 a2 s
  | .pclr a1 a2 => Sys2Proof.Machine.execPclr a1 a2 s
  | .add a1 a2 a3 => Sys2Proof.Machine.execAdd a1 a2 a3 s
  | .sub a1 a2 a3 => Sys2Proof.Machine.execSub a1 a2 a3 s
  | .mul a1 a2 a3 => Sys2Proof.Machine.execMul a1 a2 a3 s
  | .mulh a1 a2 a3 => Sys2Proof.Machine.execMulh a1 a2 a3 s
  | .mulhu a1 a2 a3 => Sys2Proof.Machine.execMulhu a1 a2 a3 s
  | .div a1 a2 a3 => Sys2Proof.Machine.execDiv a1 a2 a3 s
  | .divu a1 a2 a3 => Sys2Proof.Machine.execDivu a1 a2 a3 s
  | .rem a1 a2 a3 => Sys2Proof.Machine.execRem a1 a2 a3 s
  | .remu a1 a2 a3 => Sys2Proof.Machine.execRemu a1 a2 a3 s
  | .and a1 a2 a3 => Sys2Proof.Machine.execAnd a1 a2 a3 s
  | .or a1 a2 a3 => Sys2Proof.Machine.execOr a1 a2 a3 s
  | .xor a1 a2 a3 => Sys2Proof.Machine.execXor a1 a2 a3 s
  | .shl a1 a2 a3 => Sys2Proof.Machine.execShl a1 a2 a3 s
  | .shr a1 a2 a3 => Sys2Proof.Machine.execShr a1 a2 a3 s
  | .sha a1 a2 a3 => Sys2Proof.Machine.execSha a1 a2 a3 s
  | .slt a1 a2 a3 => Sys2Proof.Machine.execSlt a1 a2 a3 s
  | .sltu a1 a2 a3 => Sys2Proof.Machine.execSltu a1 a2 a3 s
  | .min a1 a2 a3 => Sys2Proof.Machine.execMin a1 a2 a3 s
  | .max a1 a2 a3 => Sys2Proof.Machine.execMax a1 a2 a3 s
  | .minu a1 a2 a3 => Sys2Proof.Machine.execMinu a1 a2 a3 s
  | .maxu a1 a2 a3 => Sys2Proof.Machine.execMaxu a1 a2 a3 s
  | .clz a1 a2 => Sys2Proof.Machine.execClz a1 a2 s
  | .popc a1 a2 => Sys2Proof.Machine.execPopc a1 a2 s
  | .addi a1 a2 a3 => Sys2Proof.Machine.execAddi a1 a2 a3 s
  | .andi a1 a2 a3 => Sys2Proof.Machine.execAndi a1 a2 a3 s
  | .ori a1 a2 a3 => Sys2Proof.Machine.execOri a1 a2 a3 s
  | .xori a1 a2 a3 => Sys2Proof.Machine.execXori a1 a2 a3 s
  | .shli a1 a2 a3 => Sys2Proof.Machine.execShli a1 a2 a3 s
  | .shri a1 a2 a3 => Sys2Proof.Machine.execShri a1 a2 a3 s
  | .shai a1 a2 a3 => Sys2Proof.Machine.execShai a1 a2 a3 s
  | .slti a1 a2 a3 => Sys2Proof.Machine.execSlti a1 a2 a3 s
  | .sltiu a1 a2 a3 => Sys2Proof.Machine.execSltiu a1 a2 a3 s
  | .lih a1 a2 => Sys2Proof.Machine.execLih a1 a2 s
  | .lik a1 a2 a3 => Sys2Proof.Machine.execLik a1 a2 a3 s
  | .beq a1 a2 a3 => Sys2Proof.Machine.execBeq a1 a2 a3 s
  | .bne a1 a2 a3 => Sys2Proof.Machine.execBne a1 a2 a3 s
  | .blt a1 a2 a3 => Sys2Proof.Machine.execBlt a1 a2 a3 s
  | .bge a1 a2 a3 => Sys2Proof.Machine.execBge a1 a2 a3 s
  | .bltu a1 a2 a3 => Sys2Proof.Machine.execBltu a1 a2 a3 s
  | .bgeu a1 a2 a3 => Sys2Proof.Machine.execBgeu a1 a2 a3 s
  | .jmp a1 => Sys2Proof.Machine.execJmp a1 s
  | .jal a1 => Sys2Proof.Machine.execJal a1 s
  | .jalr a1 a2 a3 => Sys2Proof.Machine.execJalr a1 a2 a3 s
  | .ld a1 a2 a3 a4 a5 a6 => Sys2Proof.Machine.execLd a1 a2 a3 a4 a5 a6 s
  | .st a1 a2 a3 a4 a5 => Sys2Proof.Machine.execSt a1 a2 a3 a4 a5 s
  | .amoAdd a1 a2 a3 a4 a5 => Sys2Proof.Machine.execAmoAdd a1 a2 a3 a4 a5 s
  | .amoAnd a1 a2 a3 a4 a5 => Sys2Proof.Machine.execAmoAnd a1 a2 a3 a4 a5 s
  | .amoOr a1 a2 a3 a4 a5 => Sys2Proof.Machine.execAmoOr a1 a2 a3 a4 a5 s
  | .amoXor a1 a2 a3 a4 a5 => Sys2Proof.Machine.execAmoXor a1 a2 a3 a4 a5 s
  | .amoMin a1 a2 a3 a4 a5 => Sys2Proof.Machine.execAmoMin a1 a2 a3 a4 a5 s
  | .amoMax a1 a2 a3 a4 a5 => Sys2Proof.Machine.execAmoMax a1 a2 a3 a4 a5 s
  | .amoMinu a1 a2 a3 a4 a5 => Sys2Proof.Machine.execAmoMinu a1 a2 a3 a4 a5 s
  | .amoMaxu a1 a2 a3 a4 a5 => Sys2Proof.Machine.execAmoMaxu a1 a2 a3 a4 a5 s
  | .amoXchg a1 a2 a3 a4 a5 => Sys2Proof.Machine.execAmoXchg a1 a2 a3 a4 a5 s
  | .amoCas a1 a2 a3 a4 a5 => Sys2Proof.Machine.execAmoCas a1 a2 a3 a4 a5 s
  | .snap a1 => Sys2Proof.Machine.execSnap a1 s
  | .srel a1 => Sys2Proof.Machine.execSrel a1 s
  | .txb a1 => Sys2Proof.Machine.execTxb a1 s
  | .txc a1 a2 a3 => Sys2Proof.Machine.execTxc a1 a2 a3 s
  | .txa a1 => Sys2Proof.Machine.execTxa a1 s
  | .txs a1 a2 => Sys2Proof.Machine.execTxs a1 a2 s
  | .publ a1 a2 a3 a4 => Sys2Proof.Machine.execPubl a1 a2 a3 a4 s
  | .cfg a1 a2 a3 => Sys2Proof.Machine.execCfg a1 a2 a3 s
  | .cswap a1 a2 => Sys2Proof.Machine.execCswap a1 a2 s
  | .waitd a1 => Sys2Proof.Machine.execWaitd a1 s
  | .drain a1 a2 => Sys2Proof.Machine.execDrain a1 a2 s
  | .strm a1 a2 => Sys2Proof.Machine.execStrm a1 a2 s
  | .grpw a1 a2 => Sys2Proof.Machine.execGrpw a1 a2 s
  | .ecopy a1 a2 a3 a4 a5 => Sys2Proof.Machine.execEcopy a1 a2 a3 a4 a5 s
  | .egath a1 a2 a3 a4 a5 => Sys2Proof.Machine.execEgath a1 a2 a3 a4 a5 s
  | .ecoll a1 a2 a3 a4 a5 => Sys2Proof.Machine.execEcoll a1 a2 a3 a4 a5 s
  | .ewait a1 a2 a3 => Sys2Proof.Machine.execEwait a1 a2 a3 s
  | .launch a1 a2 => Sys2Proof.Machine.execLaunch a1 a2 s
  | .launchr a1 a2 => Sys2Proof.Machine.execLaunchr a1 a2 s
  | .join a1 a2 => Sys2Proof.Machine.execJoin a1 a2 s
  | .vadd a1 a2 a3 a4 a5 a6 => Sys2Proof.Machine.execVadd a1 a2 a3 a4 a5 a6 s
  | .vsub a1 a2 a3 a4 a5 a6 => Sys2Proof.Machine.execVsub a1 a2 a3 a4 a5 a6 s
  | .vmul a1 a2 a3 a4 a5 a6 => Sys2Proof.Machine.execVmul a1 a2 a3 a4 a5 a6 s
  | .vmulh a1 a2 a3 a4 a5 => Sys2Proof.Machine.execVmulh a1 a2 a3 a4 a5 s
  | .vmac a1 a2 a3 a4 a5 => Sys2Proof.Machine.execVmac a1 a2 a3 a4 a5 s
  | .vmin a1 a2 a3 a4 a5 => Sys2Proof.Machine.execVmin a1 a2 a3 a4 a5 s
  | .vmax a1 a2 a3 a4 a5 => Sys2Proof.Machine.execVmax a1 a2 a3 a4 a5 s
  | .vabs a1 a2 a3 a4 => Sys2Proof.Machine.execVabs a1 a2 a3 a4 s
  | .vneg a1 a2 a3 a4 => Sys2Proof.Machine.execVneg a1 a2 a3 a4 s
  | .vand a1 a2 a3 a4 a5 => Sys2Proof.Machine.execVand a1 a2 a3 a4 a5 s
  | .vor a1 a2 a3 a4 a5 => Sys2Proof.Machine.execVor a1 a2 a3 a4 a5 s
  | .vxor a1 a2 a3 a4 a5 => Sys2Proof.Machine.execVxor a1 a2 a3 a4 a5 s
  | .vnot a1 a2 a3 a4 => Sys2Proof.Machine.execVnot a1 a2 a3 a4 s
  | .vshl a1 a2 a3 a4 a5 => Sys2Proof.Machine.execVshl a1 a2 a3 a4 a5 s
  | .vshr a1 a2 a3 a4 a5 => Sys2Proof.Machine.execVshr a1 a2 a3 a4 a5 s
  | .vsha a1 a2 a3 a4 a5 => Sys2Proof.Machine.execVsha a1 a2 a3 a4 a5 s
  | .vpopc a1 a2 a3 a4 => Sys2Proof.Machine.execVpopc a1 a2 a3 a4 s
  | .vclz a1 a2 a3 a4 => Sys2Proof.Machine.execVclz a1 a2 a3 a4 s
  | .vcmp a1 a2 a3 a4 a5 a6 => Sys2Proof.Machine.execVcmp a1 a2 a3 a4 a5 a6 s
  | .vsel a1 a2 a3 a4 a5 => Sys2Proof.Machine.execVsel a1 a2 a3 a4 a5 s
  | .vmov a1 a2 a3 => Sys2Proof.Machine.execVmov a1 a2 a3 s
  | .vli a1 a2 a3 => Sys2Proof.Machine.execVli a1 a2 a3 s
  | .fadd a1 a2 a3 a4 a5 => Sys2Proof.Machine.execFadd a1 a2 a3 a4 a5 s
  | .fsub a1 a2 a3 a4 a5 => Sys2Proof.Machine.execFsub a1 a2 a3 a4 a5 s
  | .fmul a1 a2 a3 a4 a5 => Sys2Proof.Machine.execFmul a1 a2 a3 a4 a5 s
  | .ffma a1 a2 a3 a4 a5 => Sys2Proof.Machine.execFfma a1 a2 a3 a4 a5 s
  | .ffms a1 a2 a3 a4 a5 => Sys2Proof.Machine.execFfms a1 a2 a3 a4 a5 s
  | .fmin a1 a2 a3 a4 a5 => Sys2Proof.Machine.execFmin a1 a2 a3 a4 a5 s
  | .fmax a1 a2 a3 a4 a5 => Sys2Proof.Machine.execFmax a1 a2 a3 a4 a5 s
  | .fabs a1 a2 a3 a4 => Sys2Proof.Machine.execFabs a1 a2 a3 a4 s
  | .fneg a1 a2 a3 a4 => Sys2Proof.Machine.execFneg a1 a2 a3 a4 s
  | .fdiv a1 a2 a3 a4 a5 => Sys2Proof.Machine.execFdiv a1 a2 a3 a4 a5 s
  | .fsqrt a1 a2 a3 a4 => Sys2Proof.Machine.execFsqrt a1 a2 a3 a4 s
  | .frsq a1 a2 a3 a4 => Sys2Proof.Machine.execFrsq a1 a2 a3 a4 s
  | .fex2 a1 a2 a3 a4 => Sys2Proof.Machine.execFex2 a1 a2 a3 a4 s
  | .flg2 a1 a2 a3 a4 => Sys2Proof.Machine.execFlg2 a1 a2 a3 a4 s
  | .fcmp a1 a2 a3 a4 a5 a6 => Sys2Proof.Machine.execFcmp a1 a2 a3 a4 a5 a6 s
  | .fcls a1 a2 a3 a4 => Sys2Proof.Machine.execFcls a1 a2 a3 a4 s
  | .cvt a1 a2 a3 a4 a5 => Sys2Proof.Machine.execCvt a1 a2 a3 a4 a5 s
  | .scl a1 a2 a3 a4 a5 => Sys2Proof.Machine.execScl a1 a2 a3 a4 a5 s
  | .bfpk a1 a2 a3 a4 => Sys2Proof.Machine.execBfpk a1 a2 a3 a4 s
  | .bfup a1 a2 a3 a4 => Sys2Proof.Machine.execBfup a1 a2 a3 a4 s
  | .rsum a1 a2 a3 a4 => Sys2Proof.Machine.execRsum a1 a2 a3 a4 s
  | .rmax a1 a2 a3 a4 => Sys2Proof.Machine.execRmax a1 a2 a3 a4 s
  | .rmin a1 a2 a3 a4 => Sys2Proof.Machine.execRmin a1 a2 a3 a4 s
  | .perm a1 a2 a3 a4 a5 => Sys2Proof.Machine.execPerm a1 a2 a3 a4 a5 s
  | .bperm a1 a2 a3 a4 a5 => Sys2Proof.Machine.execBperm a1 a2 a3 a4 a5 s
  | .lshf a1 a2 a3 a4 a5 => Sys2Proof.Machine.execLshf a1 a2 a3 a4 a5 s
  | .bcst a1 a2 a3 a4 a5 => Sys2Proof.Machine.execBcst a1 a2 a3 a4 a5 s
  | .shuf a1 a2 a3 a4 a5 => Sys2Proof.Machine.execShuf a1 a2 a3 a4 a5 s
  | .mmul a1 a2 a3 a4 => Sys2Proof.Machine.execMmul a1 a2 a3 a4 s
  | .madd a1 a2 a3 a4 => Sys2Proof.Machine.execMadd a1 a2 a3 a4 s
  | .msub a1 a2 a3 a4 => Sys2Proof.Machine.execMsub a1 a2 a3 a4 s
  | .nttb a1 a2 a3 a4 => Sys2Proof.Machine.execNttb a1 a2 a3 a4 s
  | .ptst a1 a2 a3 a4 => Sys2Proof.Machine.execPtst a1 a2 a3 a4 s
  | .elementPclr a1 a2 a3 a4 => Sys2Proof.Machine.execElementPclr a1 a2 a3 a4 s
  | .pfil a1 a2 a3 a4 a5 => Sys2Proof.Machine.execPfil a1 a2 a3 a4 a5 s
  | .pset a1 a2 a3 a4 a5 => Sys2Proof.Machine.execPset a1 a2 a3 a4 a5 s
  | .waitf a1 a2 => Sys2Proof.Machine.execWaitf a1 a2 s
  | .waite a1 a2 => Sys2Proof.Machine.execWaite a1 a2 s
  | .adv a1 a2 => Sys2Proof.Machine.execAdv a1 a2 s
  | .pub a1 a2 => Sys2Proof.Machine.execPub a1 a2 s
  | .peek a1 a2 a3 => Sys2Proof.Machine.execPeek a1 a2 a3 s
  | .emit a1 a2 => Sys2Proof.Machine.execEmit a1 a2 s
  | .eos a1 => Sys2Proof.Machine.execEos a1 s
  | .br a1 => Sys2Proof.Machine.execBr a1 s
  | .bz a1 a2 => Sys2Proof.Machine.execBz a1 a2 s
  | .bnz a1 a2 => Sys2Proof.Machine.execBnz a1 a2 s
  | .loop a1 a2 => Sys2Proof.Machine.execLoop a1 a2 s
  | .gbar a1 => Sys2Proof.Machine.execGbar a1 s
  | .elementTrap a1 => Sys2Proof.Machine.execElementTrap a1 s
  | .rdct a1 a2 => Sys2Proof.Machine.execRdct a1 a2 s
  | .ctrw a1 a2 => Sys2Proof.Machine.execCtrw a1 a2 s
  | .tdl a1 => Sys2Proof.Machine.execTdl a1 s
  | .gen a1 a2 a3 a4 => Sys2Proof.Machine.execGen a1 a2 a3 a4 s
  | .gath a1 a2 a3 a4 a5 a6 => Sys2Proof.Machine.execGath a1 a2 a3 a4 a5 a6 s
  | .scat a1 a2 a3 a4 a5 => Sys2Proof.Machine.execScat a1 a2 a3 a4 a5 s
  | .ldm a1 a2 a3 a4 a5 => Sys2Proof.Machine.execLdm a1 a2 a3 a4 a5 s
  | .stm a1 a2 a3 a4 => Sys2Proof.Machine.execStm a1 a2 a3 a4 s
  | .pref a1 => Sys2Proof.Machine.execPref a1 s
  | .ordStep a1 => Sys2Proof.Machine.execOrdStep a1 s
  | .ordFence a1 a2 => Sys2Proof.Machine.execOrdFence a1 a2 s
  | .ldt a1 a2 a3 a4 a5 => Sys2Proof.Machine.execLdt a1 a2 a3 a4 a5 s
  | .stt a1 a2 a3 a4 => Sys2Proof.Machine.execStt a1 a2 a3 a4 s
  | .aadd a1 a2 a3 a4 a5 => Sys2Proof.Machine.execAadd a1 a2 a3 a4 a5 s
  | .afad a1 a2 a3 a4 a5 a6 => Sys2Proof.Machine.execAfad a1 a2 a3 a4 a5 a6 s
  | .amin a1 a2 a3 a4 a5 => Sys2Proof.Machine.execAmin a1 a2 a3 a4 a5 s
  | .amax a1 a2 a3 a4 a5 => Sys2Proof.Machine.execAmax a1 a2 a3 a4 a5 s
  | .aand a1 a2 a3 a4 a5 => Sys2Proof.Machine.execAand a1 a2 a3 a4 a5 s
  | .aor a1 a2 a3 a4 a5 => Sys2Proof.Machine.execAor a1 a2 a3 a4 a5 s
  | .axor a1 a2 a3 a4 a5 => Sys2Proof.Machine.execAxor a1 a2 a3 a4 a5 s
  | .axch a1 a2 a3 a4 a5 a6 => Sys2Proof.Machine.execAxch a1 a2 a3 a4 a5 a6 s
  | .acas a1 a2 a3 a4 a5 a6 => Sys2Proof.Machine.execAcas a1 a2 a3 a4 a5 a6 s
  | .syna a1 a2 a3 a4 a5 => Sys2Proof.Machine.execSyna a1 a2 a3 a4 a5 s
  | .synw a1 a2 a3 a4 a5 => Sys2Proof.Machine.execSynw a1 a2 a3 a4 a5 s
  | .wld a1 a2 => Sys2Proof.Machine.execWld a1 a2 s
  | .mma a1 a2 a3 a4 => Sys2Proof.Machine.execMma a1 a2 a3 a4 s
  | .mmai a1 a2 a3 a4 => Sys2Proof.Machine.execMmai a1 a2 a3 a4 s
  | .acrd a1 a2 a3 a4 => Sys2Proof.Machine.execAcrd a1 a2 a3 a4 s
  | .accl a1 => Sys2Proof.Machine.execAccl a1 s
  | .illegalOp a1 => Sys2Proof.Machine.execIllegalOp a1 s
  | .nonInstr a1 => Sys2Proof.Machine.execNonInstr a1 s
  | .invalidationComplete a1 => Sys2Proof.Machine.execInvalidationComplete a1 s
  | .queueSwitchInComplete a1 => Sys2Proof.Machine.execQueueSwitchInComplete a1 s
  | .addressTokenAtSlice a1 => Sys2Proof.Machine.execAddressTokenAtSlice a1 s
  | .pagerFaultToken a1 => Sys2Proof.Machine.execPagerFaultToken a1 s
  | .pagerBWaitEnd a1 => Sys2Proof.Machine.execPagerBWaitEnd a1 s
  | .pagerFrameWaitEnd a1 => Sys2Proof.Machine.execPagerFrameWaitEnd a1 s
  | .pagerReply a1 => Sys2Proof.Machine.execPagerReply a1 s
  | .parkLimitExpiry a1 => Sys2Proof.Machine.execParkLimitExpiry a1 s
  | .hbmRequest a1 a2 a3 => Sys2Proof.Machine.execHbmRequest a1 a2 a3 s
  | .llcMissFill a1 a2 => Sys2Proof.Machine.execLlcMissFill a1 a2 s
  | .dieScratchRequest a1 a2 => Sys2Proof.Machine.execDieScratchRequest a1 a2 s
  | .tileStoreRequest a1 a2 => Sys2Proof.Machine.execTileStoreRequest a1 a2 s
  | .memoryReply a1 a2 => Sys2Proof.Machine.execMemoryReply a1 a2 s
  | .syncArrival a1 => Sys2Proof.Machine.execSyncArrival a1 s
  | .snapshotRead a1 a2 => Sys2Proof.Machine.execSnapshotRead a1 a2 s
  | .lockWaitResume a1 a2 => Sys2Proof.Machine.execLockWaitResume a1 a2 s
  | .liveWriteVersioned a1 a2 => Sys2Proof.Machine.execLiveWriteVersioned a1 a2 s
  | .pendingVersionWrite a1 a2 => Sys2Proof.Machine.execPendingVersionWrite a1 a2 s
  | .versionReclaim a1 => Sys2Proof.Machine.execVersionReclaim a1 s
  | .chainRead a1 => Sys2Proof.Machine.execChainRead a1 s
  | .chainOrdered a1 => Sys2Proof.Machine.execChainOrdered a1 s
  | .chainReadPerformed a1 => Sys2Proof.Machine.execChainReadPerformed a1 s
  | .chainWriteAck a1 => Sys2Proof.Machine.execChainWriteAck a1 s
  | .chainHeldRetry a1 => Sys2Proof.Machine.execChainHeldRetry a1 s
  | .atomicAtHome a1 a2 => Sys2Proof.Machine.execAtomicAtHome a1 a2 s
  | .firingStart a1 a2 => Sys2Proof.Machine.execFiringStart a1 a2 s
  | .tokenArrival a1 a2 a3 => Sys2Proof.Machine.execTokenArrival a1 a2 a3 s
  | .creditReturn a1 a2 a3 a4 => Sys2Proof.Machine.execCreditReturn a1 a2 a3 a4 s
  | .controllerGoReceived a1 a2 => Sys2Proof.Machine.execControllerGoReceived a1 a2 s
  | .contextGoReceived a1 a2 a3 => Sys2Proof.Machine.execContextGoReceived a1 a2 a3 s
  | .controllerDoneReceived a1 a2 a3 => Sys2Proof.Machine.execControllerDoneReceived a1 a2 a3 s
  | .permitReceived a1 a2 a3 => Sys2Proof.Machine.execPermitReceived a1 a2 a3 s
  | .groupArrival a1 a2 a3 a4 => Sys2Proof.Machine.execGroupArrival a1 a2 a3 a4 s
  | .phaseResetReceived a1 a2 => Sys2Proof.Machine.execPhaseResetReceived a1 a2 s
  | .enterRound a1 a2 a3 => Sys2Proof.Machine.execEnterRound a1 a2 a3 s
  | .planeSwap a1 a2 => Sys2Proof.Machine.execPlaneSwap a1 a2 s
  | .contextClose a1 a2 a3 => Sys2Proof.Machine.execContextClose a1 a2 a3 s
  | .phaseEnd a1 => Sys2Proof.Machine.execPhaseEnd a1 s
  | .tilePass a1 a2 => Sys2Proof.Machine.execTilePass a1 a2 s
  | .streamInputToken a1 a2 => Sys2Proof.Machine.execStreamInputToken a1 a2 s
  | .streamOutputToken a1 a2 => Sys2Proof.Machine.execStreamOutputToken a1 a2 s
  | .engineComplete a1 a2 => Sys2Proof.Machine.execEngineComplete a1 a2 s
  | .synaGroupRecord a1 => Sys2Proof.Machine.execSynaGroupRecord a1 s
  | .qosSliceExpiry a1 => Sys2Proof.Machine.execQosSliceExpiry a1 s
  | .watchdogExpiry a1 => Sys2Proof.Machine.execWatchdogExpiry a1 s
  | .cutComplete a1 => Sys2Proof.Machine.execCutComplete a1 s
  | .saveComplete a1 => Sys2Proof.Machine.execSaveComplete a1 s
  | .restoreComplete a1 => Sys2Proof.Machine.execRestoreComplete a1 s
  | .stopComplete a1 => Sys2Proof.Machine.execStopComplete a1 s
  | .pairedExitRequest a1 => Sys2Proof.Machine.execPairedExitRequest a1 s
  | .tickAdvance a1 => Sys2Proof.Machine.execTickAdvance a1 s
  | .unitZeroingDone a1 => Sys2Proof.Machine.execUnitZeroingDone a1 s
  | .drainTimeout a1 => Sys2Proof.Machine.execDrainTimeout a1 s
  | .twinTimeout a1 => Sys2Proof.Machine.execTwinTimeout a1 s
  | .pagerHostCopyDone a1 a2 => Sys2Proof.Machine.execPagerHostCopyDone a1 a2 s
  | .reachThroughCopyExpiry a1 a2 a3 => Sys2Proof.Machine.execReachThroughCopyExpiry a1 a2 a3 s
  | .runAheadLoad a1 a2 a3 => Sys2Proof.Machine.execRunAheadLoad a1 a2 a3 s
  | .deviceReset a1 => Sys2Proof.Machine.execDeviceReset a1 s
  | .registerWrite a1 a2 a3 a4 => Sys2Proof.Machine.execRegisterWrite a1 a2 a3 a4 s
  | .invctlGo a1 a2 => Sys2Proof.Machine.execInvctlGo a1 a2 s
  | .poolWrite a1 a2 => Sys2Proof.Machine.execPoolWrite a1 a2 s
  | .poollvlTailWrite a1 a2 => Sys2Proof.Machine.execPoollvlTailWrite a1 a2 s
  | .pctlClr a1 a2 => Sys2Proof.Machine.execPctlClr a1 a2 s
  | .qownWrite a1 a2 => Sys2Proof.Machine.execQownWrite a1 a2 s
  | .qswInWrite a1 a2 => Sys2Proof.Machine.execQswInWrite a1 a2 s
  | .queueTailWrite a1 a2 a3 => Sys2Proof.Machine.execQueueTailWrite a1 a2 a3 s
  | .qctlEnWrite a1 a2 a3 => Sys2Proof.Machine.execQctlEnWrite a1 a2 a3 s
  | .errclr a1 a2 => Sys2Proof.Machine.execErrclr a1 a2 s
  | .select a1 => Sys2Proof.Machine.execSelect a1 s
  | .leaseEnd a1 => Sys2Proof.Machine.execLeaseEnd a1 s
  | .retrysave a1 => Sys2Proof.Machine.execRetrysave a1 s
  | .priResponse a1 a2 => Sys2Proof.Machine.execPriResponse a1 a2 s
  | .atsInvalidationRequest a1 a2 a3 => Sys2Proof.Machine.execAtsInvalidationRequest a1 a2 a3 s
  | .hostCompletion a1 a2 a3 a4 a5 => Sys2Proof.Machine.execHostCompletion a1 a2 a3 a4 a5 s
  | .uncorrectableError a1 => Sys2Proof.Machine.execUncorrectableError a1 s
  | .linkFlitRetry a1 => Sys2Proof.Machine.execLinkFlitRetry a1 s
  | .fatalError a1 => Sys2Proof.Machine.execFatalError a1 s
  | .creditAuditWindow a1 => Sys2Proof.Machine.execCreditAuditWindow a1 s
  | .couplerLinkChange a1 a2 a3 a4 => Sys2Proof.Machine.execCouplerLinkChange a1 a2 a3 a4 s
  | .peerRequest a1 a2 a3 a4 => Sys2Proof.Machine.execPeerRequest a1 a2 a3 a4 s
  | .peerPanelReset a1 => Sys2Proof.Machine.execPeerPanelReset a1 s
  | .couplerStreamToken a1 a2 a3 a4 a5 a6 a7 => Sys2Proof.Machine.execCouplerStreamToken a1 a2 a3 a4 a5 a6 a7 s
  | .getVersion a1 => Sys2Proof.Machine.execGetVersion a1 s
  | .getCapabilities a1 => Sys2Proof.Machine.execGetCapabilities a1 s
  | .negotiateAlgorithms a1 => Sys2Proof.Machine.execNegotiateAlgorithms a1 s
  | .getDigests a1 => Sys2Proof.Machine.execGetDigests a1 s
  | .getCertificate a1 => Sys2Proof.Machine.execGetCertificate a1 s
  | .challenge a1 => Sys2Proof.Machine.execChallenge a1 s
  | .getMeasurements a1 a2 => Sys2Proof.Machine.execGetMeasurements a1 a2 s
  | .recoveryImageWrite a1 a2 => Sys2Proof.Machine.execRecoveryImageWrite a1 a2 s
  | .throttleStep a1 a2 a3 => Sys2Proof.Machine.execThrottleStep a1 a2 a3 s
  | .commitLockRequest => Sys2Proof.Machine.execCommitLockRequest s
  | .commitInstall => Sys2Proof.Machine.execCommitInstall s
  | .commitWaitEnd => Sys2Proof.Machine.execCommitWaitEnd s
  | .rootDoneReceived => Sys2Proof.Machine.execRootDoneReceived s
  | .faultRecordWrite => Sys2Proof.Machine.execFaultRecordWrite s
  | .trapTaken => Sys2Proof.Machine.execTrapTaken s
  | .switchNop => Sys2Proof.Machine.execSwitchNop s
  | .nop => Sys2Proof.Machine.execNop s
  | .halt => Sys2Proof.Machine.execHalt s
  | .eret => Sys2Proof.Machine.execEret s
  | .yieldTurn => Sys2Proof.Machine.execYieldTurn s
  | .go => Sys2Proof.Machine.execGo s
  | .elementNop => Sys2Proof.Machine.execElementNop s
  | .exit => Sys2Proof.Machine.execExit s
  | .wswp => Sys2Proof.Machine.execWswp s
  | .tcset => Sys2Proof.Machine.execTcset s
  | .tcclr => Sys2Proof.Machine.execTcclr s
  | .dsgrant => Sys2Proof.Machine.execDsgrant s
  | .dsrevoke => Sys2Proof.Machine.execDsrevoke s
  | .scrub => Sys2Proof.Machine.execScrub s
  | .poolsz => Sys2Proof.Machine.execPoolsz s
  | .memoryCommandApplied => Sys2Proof.Machine.execMemoryCommandApplied s
  | .diectlGo => Sys2Proof.Machine.execDiectlGo s
  | .dieEvacuationComplete => Sys2Proof.Machine.execDieEvacuationComplete s
  | .dieQuiesceComplete => Sys2Proof.Machine.execDieQuiesceComplete s
  | .dieRestart => Sys2Proof.Machine.execDieRestart s
  | .clockHorizon => Sys2Proof.Machine.execClockHorizon s
  | .clockRebaseComplete => Sys2Proof.Machine.execClockRebaseComplete s
  | .clockStop => Sys2Proof.Machine.execClockStop s
  | .collectorPass => Sys2Proof.Machine.execCollectorPass s
  | .checkpoint => Sys2Proof.Machine.execCheckpoint s
  | .shunterRound => Sys2Proof.Machine.execShunterRound s
  | .fabricCycle => Sys2Proof.Machine.execFabricCycle s

end Sys2Proof.Machine
end

