-- ==== Sys2Proof/Machine/Fetch.lean ====
section
/-! DEFINITION. Fetching: what the head of the agenda runs (R164, R167, R228, R235, R236, R244, R254, R359, R388). -/

namespace Sys2Proof.Machine

/-! ### Sequencers -/

/-- The word that a sequencer runs, which the records of its faults give as OPWORD (R385); 0 while none has been read. -/
def setWord (s : State) (l : Nat) (rep : Bool) (w : Word) : State := updSeq s l rep fun q => { q with word := w }

/-- The fetched word is decoded; an undefined one is ILLEGAL_OP (R244). -/
def runSeqWord (l : Nat) (rep : Bool) (w : Word) (s : State) : Fetched :=
  match decodeSeq w with
  | .ok i => .run i (setWord s l rep w)
  | .error _ => .run (.illegalOp w) (setWord s l rep w)

/-- The instruction cache takes a word; it holds 16,384 of them (R254). -/
def cacheWord (q : Seq) (a : Nat) (w : Word) : Seq :=
  { q with icache := mput (if q.icache.length < 16384 then q.icache else q.icache.drop 1) a w }

/-- The word at the PC comes from memory (R254): translation with R, the tenant check, poison; where the program
stored to the word, the old or the new one is returned (log 10). -/
def fetchMiss (s : State) (l : Nat) (rep : Bool) (q : Seq) : Fetched :=
  match vread l none [(q.pc, 4)] [] [] s with
  | .wait j s1 => .idle (updSeq s1 l rep fun q => { q with op := .page j, word := 0 })
  | .fault c _ s1 => .idle (seqFault (setWord s1 l rep 0) l rep c q.pc)
  | .busy s1 => .idle s1
  | .ok b p s1 =>
    if p.any id then .idle (seqFault (setWord s1 l rep 0) l rep cPCTL q.pc)
    else
      let w := BitVec.ofNat 32 (leNat b)
      match mfind q.icache (q.pc + 2 ^ 60) with
      | some old => runSeqWord l rep (if Config.staleFetch s1.nonce then old else w) (bump s1)
      | none => runSeqWord l rep w (updSeq s1 l rep fun q => cacheWord q q.pc w)

/-- A sequencer's turn (R254, R255, R388): a record that waits is taken as a trap before the next word issues; the
sequencers of a pair take it at the same instruction (R418). -/
def fetchSeq (s : State) (l : Nat) (rep : Bool) : Fetched :=
  match leaseOf s l with
  | none => .idle s
  | some ls =>
    let q := seqOf ls rep
    if !seqMayIssue s ls q then .idle s
    else
      let due := trapDue ls ls.seq
      if due && !rep && inStep ls then .run .trapTaken s
      else if due && ls.paired && interruptible q.op &&
          (if rep then ls.seq.instr ≤ q.instr else ls.seqR.instr ≤ q.instr) then .idle s
      else match q.op with
        | .page _ => .idle s
        | _ =>
          if ls.img.seqlen = 0 then .run .halt s
          else if !inRegion ls q.pc then .idle (seqFault (setWord s l rep 0) l rep cBRANCH q.pc)
          else match mfind q.icache q.pc with
            | some w => runSeqWord l rep w s
            | none => fetchMiss s l rep q

/-! ### Elements -/

/-- A reserved operation code of its class (R229, R230, R232, R235, R244). -/
def reservedOp (cls op : Nat) : Bool :=
  match cls with
  | 0 => 0x3B ≤ op
  | 1 => 0x10 ≤ op
  | _ => !(op ≤ 0x07 || (0x10 ≤ op && op ≤ 0x1C) || (0x20 ≤ op && op ≤ 0x25))

/-- Does a tile kind implement a defined operation (R236)? -/
def implemented (kind cls op : Nat) : Bool :=
  let common := op ≤ 0x16 || (0x37 ≤ op && op ≤ 0x3A)
  match kind, cls with
  | _, 1 => true
  | 1, 0 => true
  | 3, 0 => common
  | 3, 2 => op ≤ 0x07
  | 2, 0 => common
  | 2, 2 => 0x10 ≤ op && op ≤ 0x1C
  | 0, 0 => op == 0 || op == 0x15 || op == 0x16 || (0x37 ≤ op && op ≤ 0x3A)
  | 0, 2 => 0x20 ≤ op && op ≤ 0x25
  | _, _ => false

/-- The word at the counter of a firing, decoded by the checks of R244 in their order; a damaged one faults (R143). -/
def runOpWord (s : State) (l t k : Nat) (ls : Lease) (x : Tile) (c : Ctx) (fi : Firing) : Fetched :=
  let w := progWord x.act fi.pc
  let cls := w.toNat / 2 ^ 30
  let op := w.toNat / 2 ^ 24 % 64
  if wordBad x.act 0 fi.pc || (cls = 2 && w.getLsbD 5 && fi.pc + 1 ≤ hWend x.act fi.h && wordBad x.act 0 (fi.pc + 1)) then
    .idle (wordFault s l t k ls x c fi cPCTL 0)
  else if cls = 3 then .run (.nonInstr w) s
  else if reservedOp cls op then .run (.illegalOp w) s
  else if !implemented (kindOf ls t) cls op then .idle (wordFault s l t k ls x c fi cUNSUPPORTED 0)
  else match decodeOp w (if fi.pc + 1 ≤ hWend x.act fi.h then some (progWord x.act (fi.pc + 1)) else none) with
    | .ok i => .run i s
    | .error _ => .run (.illegalOp w) s

/-- A word issues: its context takes the turn, unless the firing has just started with it, and the word counts as stalled until it is
performed (R164, R300). -/
def issueWord (s : State) (l t k : Nat) (fi : Firing) : State :=
  updCtx (if fi.wait = .none then updTile s l t fun x => takeTurn x k else s) l t k fun c =>
    { c with fire := c.fire.map fun f => { f with wait := .stall } }

/-- A context's turn (R164, R167, R300): the next word of its firing, or the word that is stalled once more; a counter outside
[ENTRY, WEND] is BRANCH_TARGET. -/
def fetchElem (s : State) (l t k : Nat) : Fetched :=
  match leaseOf s l with
  | none => .idle s
  | some ls =>
    match tileOf ls t with
    | none => .idle s
    | some x =>
      let c := ctxOf x k
      if !leaseLive s ls || x.passed || !(canIssue c || stalledWord c) then .idle s
      else match c.fire with
        | none => .idle s
        | some fi =>
          let s1 := if canIssue c then issueWord s l t k fi else s
          if fi.pc < hEntry x.act fi.h || hWend x.act fi.h < fi.pc then .idle (wordFault s1 l t k ls x c fi cBRANCH 0)
          else runOpWord s1 l t k ls x c fi

/-! ### Switches -/

/-- A damaged switch word has faulted once; its route stays withheld (R143). -/
def switchReported (x : Plane) (i : Nat) : Plane := { x with bad := nadd (ndel x.bad (65536 * 4 + i)) (65536 * 5 + 256 + i) }

/-- A switch word of the active plane acts once per fc (R359); a damaged one faults (R143). -/
def fetchSw (s : State) (l t i : Nat) : Fetched :=
  match leaseOf s l with
  | none => .idle s
  | some ls =>
    match tileOf ls t with
    | none => .idle s
    | some x =>
      if !leaseLive s ls || x.passed || wordBad x.act 5 (256 + i) then .idle s
      else if wordBad x.act 4 i then
        .idle (noteFault (updTile s l t fun x => { x with act := switchReported x.act i }) l t 0 cPCTL fun r =>
          { r with cfgid := cfgId 6 (keyRow ls t) (keyCol ls t) i })
      else match decodeSw (mget 0 x.act.sw i) with
        | .ok w => .run w s
        | .error _ => .idle s

/-- Does the device serve everything? After a fatal error and in recovery mode it does not, and nothing runs (R401,
R437). -/
def fullService (s : State) : Bool := s.boot.up && !s.fatal && s.boot.mode != 3

/-- What is served at all times: a reset, and once a boot attempt has been completed the tick counters and DOE (R90,
R401, R437). -/
def alwaysServed (s : State) : Instr → Bool
  | .deviceReset _ => true
  | .tickAdvance _ => s.boot.up
  | .getVersion _ => s.boot.up
  | .getCapabilities _ => s.boot.up
  | .negotiateAlgorithms _ => s.boot.up
  | .getDigests _ => s.boot.up
  | .getCertificate _ => s.boot.up
  | .challenge _ => s.boot.up
  | .getMeasurements _ _ => s.boot.up
  | .recoveryImageWrite _ _ => s.boot.up
  | _ => false

/-- What a turn runs. -/
def fetchTurn (s : State) : Turn → Fetched
  | .event i => if fullService s || alwaysServed s i then .run i s else .idle s
  | .audit d => if fullService s then .audit d s else .idle s
  | .own l i => if fullService s then .run i { s with cur := .seq l false } else .idle s
  | .seq l rep => if fullService s then fetchSeq { s with cur := .seq l rep } l rep else .idle s
  | .elem l t k => if fullService s then fetchElem { s with cur := .elem l t k } l t k else .idle s
  | .sw l t i => if fullService s then fetchSw { s with cur := .sw l t } l t i else .idle s

/-! ### Placing one instruction -/

/-- A plane whose handler 0 runs the code window [0, 1023] of the given words. -/
def onePlane (w0 w1 : Word) (sw : BitVec 16) : Plane :=
  { Plane.zero with
    prog := mset 0 (mset 0 [] 0 w0) 1 w1
    ht := [(0, BitVec.ofNat 32 (1023 * 2 ^ 10)), (2, BitVec.ofNat 32 (2 ^ 31))]
    sw := mset 0 [] 0 sw }

/-- A lease of one tile with that plane; context 0 stands at the window's first word. -/
def oneTile (t : Nat) (p : Plane) : Lease :=
  { freshLease { Img.blank with roles := [t] } Rec.blank with
    tiles := [(t, { Tile.zero with
      act := p
      ctx := [(0, { Ctx.zero with hmask := 1, fire := some ⟨0, 0, [], [], 0, .none, false⟩ })] })] }

/-- The tile of a granule whose kind runs an operation code: V, A, S or M (R8, R236). -/
def tileForOp (w : Word) : Nat :=
  if w.toNat / 2 ^ 30 != 2 then 1
  else if w.toNat / 2 ^ 24 % 64 < 0x10 then 3
  else if w.toNat / 2 ^ 24 % 64 < 0x20 then 2
  else 0

/-- Is a word read as an operation word (log 16)? -/
def asOpWord (w0 w1 : Word) : Bool :=
  match decodeOp w0 (some w1) with
  | .ok _ => true
  | .error _ => w0.toNat / 2 ^ 30 == 3 && (match decodeSeq w0 with
    | .ok _ => false
    | .error _ => true)

/-- A lease and the turn that runs an instruction of `nbits` bits next: a switch word, an operation word of a firing in
progress, or a sequencer word in the instruction cache at the PC. -/
def placeWord (nbits w : Nat) : Lease × Turn :=
  let w := w % 2 ^ nbits
  let w0 := BitVec.ofNat 32 w
  let w1 := BitVec.ofNat 32 (w / 2 ^ 32)
  if nbits ≤ 16 then (oneTile 1 (onePlane 0 0 (BitVec.ofNat 16 w)), .sw 0 1 0)
  else if asOpWord w0 w1 then (oneTile (tileForOp w0) (onePlane w0 w1 0), .elem 0 (tileForOp w0) 0)
  else
    let ls := freshLease Img.blank Rec.blank
    ({ ls with seq := { ls.seq with icache := mset 0 [] 0 w0 } }, .seq 0 false)

end Sys2Proof.Machine
end

