-- ==== Sys2Proof/Machine/Schedule.lean ====
section
/-! DEFINITION. The turns of a fabric cycle: the words of sequencers, contexts and switches, the periodic steps, and the
steps that units of the panel take on their own. An event that is not enabled when its turn comes changes nothing. What
comes from outside (host, peers, boot, errors, sensors), and what a unit may do or leave without any effect on results
(run-ahead loads, the early end of a reach-through copy), enters the agenda from outside (log 1). -/

namespace Sys2Proof.Machine

/-! ### Words -/

/-- Turns of the sequencers, contexts and switches of a lease: of the contexts of a tile, the one that takes the turn, and those
whose word is stalled (R164, R300). -/
def leaseTurns (l : Nat) (ls : Lease) : List Turn :=
  .seq l false :: (if ls.paired then [.seq l true] else []) ++
    (ls.tiles.map fun e =>
      (match turnOf e.2 with
       | some k => if (ctxOf e.2 k).fire.isSome then [.elem l e.1 k] else [.event (.firingStart l e.1)]
       | none => []) ++ ((ctxs e.2.act).filter fun k => stalledWord (ctxOf e.2 k)).map (fun k => Turn.elem l e.1 k) ++ (e.2.act.sw.map fun w => Turn.sw l e.1 w.1)).flatten

/-! ### Events of units -/

/-- Steps of one part of a request that has left its slice. -/
def partEvents (s : State) (id i : Nat) (p : Part) : List Instr :=
  match p.st with
  | .new => (match p.loc with
    | .mem pa => if pa < scratchBase then [.hbmRequest id i (Config.useCopy (s.nonce + i))] else [.dieScratchRequest id i]
    | .tile .. => [.tileStoreRequest id i]
    | _ => [])
  | .missed => [.llcMissFill id i]
  | .home => [.snapshotRead id i, .liveWriteVersioned id i, .pendingVersionWrite id i, .atomicAtHome id i, .syncArrival id,
      .synaGroupRecord id]
  | .waiting => [.lockWaitResume id i]
  | .done => []

/-- Steps of a request by its stage (R48, R122, R336, R418). -/
def reqEvents (s : State) (id : Nat) (r : Req) : List Instr :=
  match r.stage with
  | .exit => [.pairedExitRequest id, .twinTimeout id]
  | .chain => [.chainRead id, .chainOrdered id]
  | .held => [.chainHeldRetry id]
  | .issued => [.addressTokenAtSlice id]
  | .withheld _ => []
  | .sent => ((r.parts.zipIdx).map fun e => partEvents s id e.2 e.1).flatten
  | .performed => [.chainReadPerformed id, .chainWriteAck id, .memoryReply id .none]
  | .faulted .. => [.memoryReply id .none]

/-- Steps of a page-fault resolution (R60 to R62); copies and PRI answers come from the host. -/
def jobEvents (j : Nat) (x : Job) : List Instr :=
  match x.st with
  | .token => [.pagerFaultToken j]
  | .waitB => [.pagerBWaitEnd j]
  | .waitFrame => [.pagerFrameWaitEnd j]
  | .answered _ => [.pagerReply j]
  | _ => []

/-- The step that takes a message of the control network (R175). -/
def msgEvent (l : Nat) (m : Msg) : Instr :=
  match m.kind with
  | .go => .controllerGoReceived l m.tile
  | .ctxGo => .contextGoReceived l m.tile m.sub
  | .done => .controllerDoneReceived l m.tile m.sub
  | .permit => .permitReceived l m.tile m.sub
  | .rootDone => .rootDoneReceived
  | .phase => .phaseResetReceived l m.tile
  | .arrival => .groupArrival l m.val m.tile m.sub

/-- Steps of a context: credits, rounds, its close. -/
def ctxEvents (l t k : Nat) (ls : Lease) (c : Ctx) : List Instr :=
  (c.outs.filter fun o => o.2.due != 0).map (fun o => Instr.creditReturn l t k o.1) ++
    (if ls.round.isSome || c.ins.any (fun e => e.2.q.any isMark) then [.enterRound l t k] else []) ++ [.contextClose l t k]

/-- Steps of a tile: tokens that land, contexts, its swap, its passing, blocks being zeroed. -/
def tileEvents (l t : Nat) (ls : Lease) (x : Tile) : List Instr :=
  (x.tout.map fun e => Instr.tokenArrival l t e.1) ++ (x.inl.map fun e => Instr.tokenArrival l t (16 + e.1)) ++
    ((List.range 4).map fun k => ctxEvents l t k ls (ctxOf x k)).flatten ++
    (match ls.seq.op with
     | .cswap .. => [.planeSwap l t]
     | _ => []) ++ (if ls.finalPh then [.tilePass l t] else []) ++ x.zeroing.map fun b => Instr.unitZeroingDone (.tileStore l t b)

/-- Steps of a lease's sequencer that are no words (R104, R272, R387). -/
def seqEvents (ls : Lease) : List Instr :=
  (if ls.recs.isEmpty then [] else [.faultRecordWrite]) ++
    (if ls.commit.isSome then [.commitLockRequest, .commitInstall, .commitWaitEnd] else []) ++
    (if ls.msgs.any fun m => m.kind == .rootDone then [.rootDoneReceived] else []) ++ (if ls.paired then [.checkpoint] else [])

/-- Steps of a lease as a whole (R64, R275, R283, R378, R380, R392, R420). -/
def wholeEvents (l : Nat) (ls : Lease) : List Instr :=
  (ls.engines.map fun e => Instr.engineComplete l e.ticket) ++
    ((ls.streams.filter fun e => e.2.bound || e.2.mark.isSome).map fun e => [Instr.streamInputToken l e.1, .streamOutputToken l e.1]).flatten ++
    (if ls.phStarted then [.phaseEnd l] else []) ++
    match ls.state with
    | .run => [.parkLimitExpiry l, .watchdogExpiry l, .qosSliceExpiry l]
    | .drain => [.cutComplete l, .drainTimeout l, .watchdogExpiry l]
    | .save => [.saveComplete l]
    | .restore => [.restoreComplete l]
    | .stop => [.stopComplete l]
    | _ => []

/-- Every step of a lease. -/
def leaseEvents (l : Nat) (ls : Lease) : List Turn :=
  ((ls.msgs.filter fun m => m.kind != .rootDone).map (msgEvent l) ++
    (ls.tiles.map fun e => tileEvents l e.1 ls e.2).flatten ++ wholeEvents l ls).map Turn.event ++
    (seqEvents ls).map (Turn.own l)

/-- Steps of the panel's own units. -/
def panelEvents (s : State) : List Instr :=
  s.zeroing.map (fun b => if b * 4096 < scratchBase then Instr.unitZeroingDone (.hbm b) else .unitZeroingDone (.scratch b)) ++
    (s.lines.map fun e => stackOf s.boot (e.1 * 128)).eraseDups.map Instr.versionReclaim ++
    ((s.vfs.filter fun e => e.2.invctl.getLsbD 63 || e.2.atsOpen).map fun e => Instr.invalidationComplete e.1) ++
    ((s.queues.filter fun e => e.2.st == .switchingIn).map fun e => Instr.queueSwitchInComplete e.1) ++
    (if s.mcmd.getLsbD 63 then [.memoryCommandApplied] else []) ++
    (if s.dieGo then [.dieEvacuationComplete, .dieQuiesceComplete, .dieRestart] else []) ++
    (if s.rebasing then [.clockRebaseComplete, .clockStop] else [.clockHorizon])

/-- Steps that come about on their own, whenever their unit gets to them. -/
def ownEvents (s : State) : List Turn :=
  ((s.reqs.map fun e => reqEvents s e.1 e.2).flatten ++ (s.jobs.map fun e => jobEvents e.1 e.2).flatten).map Turn.event ++
    (s.leases.map fun e => leaseEvents e.1 e.2).flatten ++ (panelEvents s).map Turn.event

/-- Every die's counter has stepped. -/
def allDies : Nat := 2 ^ 160 - 1

/-- Periodic steps (R90, R109, R373): once in every 64 periods of the nominal clock each die's tick counter steps, some of them
ahead of the others; a round of the Shunter every us, a pass of the collector every 10 us. -/
def timed (s : State) : List Instr :=
  (if s.wall % Config.fcPerTick = 0 then [.tickAdvance (Config.tickLead s.nonce)]
   else if s.wall % Config.fcPerTick = Config.fcPerTick - 1 then [.tickAdvance allDies] else []) ++
    (if s.wall % Config.fcPerUs = 0 then [.shunterRound] else []) ++
    (if s.wall % (10 * Config.fcPerUs) = 0 then [.collectorPass] else [])

/-- The audit window that opens in this period, if any (R422): every 10 ms each die audits its credits, one die in each 160th of
them. -/
def audits (s : State) : List Turn := if s.wall % Config.fcPerAudit = 0 then [.audit (auditDie s)] else []

/-! ### The agenda -/

/-- Turns by rising rank (log 1). -/
def byRank (nonce : Nat) (ts : List Turn) : List Turn :=
  (sortBy (fun e : Turn × Nat => Config.turnOrder nonce e.2) ts.zipIdx).map (·.1)

/-- The agenda of a new fabric cycle: the cycle itself, then the words of every lease whose fc turns over, the periodic
steps, and those of the units' steps that come about in this cycle, in a free order (log 1). -/
def refill (s : State) : State :=
  let words := (s.leases.map fun e => if fcTurns s e.1 then leaseTurns e.1 e.2 else []).flatten
  let own := ((ownEvents s).zipIdx.filter fun e => Config.turnNow s.nonce e.2).map (·.1)
  { bump s with agenda := .event .fabricCycle :: byRank s.nonce (words ++ (timed s).map Turn.event ++ audits s ++ own) }

end Sys2Proof.Machine
end

