-- ==== Sys2Proof/Machine/Step.lean ====
section
/-! DEFINITION. One step of the panel, and the placing of one instruction where the next step fetches it. -/

namespace Sys2Proof.Machine

/-- One step: the head of the agenda runs, an event as it stands, an audit window as CREDIT_AUDIT_WINDOW of its die, a word as
fetching finds it; an empty agenda is filled with the turns of the next fabric cycle. -/
def step (s : State) : Host.Outcome State Fault Refusal :=
  match s.agenda with
  | [] => .next (refill s)
  | t :: rest =>
    match fetchTurn { s with agenda := rest, cur := .none } t with
    | .run i s' => exec i s'
    | .audit d s' => execCreditAuditWindow d s'
    | .idle s' => .next s'

/-- The state with one instruction stored where the next step fetches: lease 0 is a lease of one tile whose
sequencer, context or switch holds it, and whose turn heads the agenda. -/
def State.withFetchWord (s : State) (nbits w : Nat) : State :=
  { s with
    agenda := (placeWord nbits w).2 :: s.agenda
    leases := mput s.leases 0 (placeWord nbits w).1 }

end Sys2Proof.Machine
end

