-- ==== Sys2Proof/Safety.lean ====
section
/-! DEFINITION. What counts as a safe run: the canonical form of every byte store, kept by every step. -/

namespace Sys2Proof.Machine

/-- Every tile store of a lease has its canonical form. -/
def Lease.storesWf (ls : Lease) : Bool := ls.tiles.all fun t => Memory.wf t.2.store

/-- Device memory and every tile store, of the leases and of the checkpoints they may come back to, have their canonical
form (R2, R59, R421). -/
def State.storesWf (s : State) : Bool :=
  Memory.wf s.mem && s.leases.all (fun e => Lease.storesWf e.2) && s.awaitSave.all fun e => Lease.storesWf e.2

/-- A step that ends in a next state. -/
def Runs (s t : State) : Prop := step s = .next t

end Sys2Proof.Machine
end

