-- ==== Sys2Proof/Certificates/Slice0/Obligations.lean ====
section
/-! DEFINITION. The statements for the provers. Each says what an instruction or a step does, as the rules of the spec
give it; the vocabulary of the statements comes first. -/

namespace Sys2Proof.Claims

open Sys2Proof Sys2Proof.Machine

/-- Instruction `i` completes at `s` with a next state of which `P` holds. -/
def Gives (i : Instr) (s : State) (P : State → Prop) : Prop := ∃ t, exec i s = .next t ∧ P t

/-- Sequencer `rep` of lease `l` has its turn, and no register of `rs` waits for a load. -/
structure SeqTurn (s : State) (l : Nat) (rep : Bool) (ls : Lease) (rs : List (BitVec 5)) : Prop where
  cur : s.cur = .seq l rep
  lease : leaseOf s l = some ls
  ready : ∀ r ∈ rs, xbusy (seqOf ls rep) r = false

/-- Lease `l` becomes `ls'`; every other lease and every other field of the state stays as it was. -/
def OnlyLease (s t : State) (l : Nat) (ls' : Lease) : Prop :=
  leaseOf t l = some ls' ∧ (∀ j, j ≠ l → leaseOf t j = leaseOf s j) ∧ t = { s with leases := t.leases }

/-- Sequencer `rep` of lease `l` becomes `q`, and nothing else of the state changes. -/
def OnlySeq (s t : State) (l : Nat) (rep : Bool) (ls : Lease) (q : Seq) : Prop := OnlyLease s t l (setSeq ls rep q)

/-- The sequencer's fields other than the registers, the PC and the progress of the instruction stay as they were. -/
def SameBesides (q q' : Seq) : Prop :=
  q' = { q with x := q'.x, xp := q'.xp, pc := q'.pc, op := q'.op, saved := q'.saved, instr := q'.instr }

/-- Register `xd` becomes `v` with poison `p` (a write to X0 is discarded, R253); every other register stays. -/
def Writes (q q' : Seq) (xd : BitVec 5) (v : Dword) (p : Bool) : Prop :=
  (xd ≠ 0 → xget q' xd = v ∧ xpois q' xd = p) ∧ (∀ n, n ≠ xd → xget q' n = xget q n ∧ xpois q' n = xpois q n) ∧
    SameBesides q q'

/-- The word completes with a register result: the PC moves on by 4, and nothing else changes. -/
def SeqResult (s t : State) (l : Nat) (rep : Bool) (ls : Lease) (xd : BitVec 5) (v : Dword) (p : Bool) : Prop :=
  ∃ q', OnlySeq s t l rep ls q' ∧ Writes (seqOf ls rep) q' xd v p ∧ q'.pc = (seqOf ls rep).pc + 4 ∧ q'.op = .none

/-- The word completes without a register result: the PC becomes `pc`, and nothing else changes. -/
def SeqMoves (s t : State) (l : Nat) (rep : Bool) (ls : Lease) (pc : Nat) : Prop :=
  ∃ q', OnlySeq s t l rep ls q' ∧ (∀ n, xget q' n = xget (seqOf ls rep) n ∧ xpois q' n = xpois (seqOf ls rep) n) ∧
    SameBesides (seqOf ls rep) q' ∧ q'.pc = pc ∧ q'.op = .none

/-- The sequencer of a lease that is not paired has its turn, and no register of `rs` waits for a load. -/
structure SoloTurn (s : State) (l : Nat) (ls : Lease) (rs : List (BitVec 5)) : Prop where
  turn : SeqTurn s l false ls rs
  solo : ls.paired = false

/-- The sequencer moves on to the next instruction without any other effect. -/
def SeqSteps (s t : State) (l : Nat) (rep : Bool) (ls : Lease) : Prop :=
  SeqMoves s t l rep ls ((seqOf ls rep).pc + 4)

/-! Words of elements -/

/-- Context `k` of tile `t` of lease `l` has its turn in the firing `fi`. -/
structure ElemTurn (s : State) (l t k : Nat) (ls : Lease) (x : Tile) (fi : Firing) : Prop where
  cur : s.cur = .elem l t k
  lease : leaseOf s l = some ls
  tile : tileOf ls t = some x
  fire : (ctxOf x k).fire = some fi

/-- Tile `t` of lease `l` becomes `x'`; every other tile, lease and field stays. -/
def OnlyTile (s s' : State) (l t : Nat) (ls : Lease) (x' : Tile) : Prop :=
  ∃ ls', OnlyLease s s' l ls' ∧ tileOf ls' t = some x' ∧ (∀ u, u ≠ t → tileOf ls' u = tileOf ls u) ∧
    ls' = { ls with tiles := ls'.tiles }

/-- Context `k` of tile `t` becomes `c'`; every other context, tile, lease and field stays. -/
def OnlyCtx (s s' : State) (l t k : Nat) (ls : Lease) (x : Tile) (c' : Ctx) : Prop :=
  ∃ x', OnlyTile s s' l t ls x' ∧ ctxOf x' k = c' ∧ (∀ j, j ≠ k → ctxOf x' j = ctxOf x j) ∧ x' = { x with ctx := x'.ctx }

/-- The firing after its word is done, `n` words further. -/
def moved (fi : Firing) (n : Nat) : Firing := { fi with pc := fi.pc + n, wait := .none, ord := fi.ord + 1 }

/-- The word completes without any effect but the firing's progress to program-memory address `pc`. -/
def ElemMoves (s s' : State) (l t k : Nat) (ls : Lease) (x : Tile) (fi : Firing) (pc : Nat) : Prop :=
  OnlyCtx s s' l t k ls x { ctxOf x k with fire := some { fi with pc := pc, wait := .none, ord := fi.ord + 1 } }

/-- The word completes with token `tok` in destination `d` (the register, or the tail slot of the port) and flags `fl`
added to ESTAT; other registers and ports and all else stay. -/
def ElemResult (s s' : State) (l t k : Nat) (ls : Lease) (x : Tile) (fi : Firing) (d : Dst) (tok : Tok) (fl : Flg) : Prop :=
  ∃ c', OnlyCtx s s' l t k ls x c' ∧ dstOld c' d = tok ∧ c'.estat = (ctxOf x k).estat ||| fl.zeroExtend 32 ∧
    (∀ n : BitVec 4, d ≠ .v n → mget Tok.zero c'.v n.toNat = mget Tok.zero (ctxOf x k).v n.toNat) ∧
    (∀ j, (∀ n, d = .o n → j ≠ n.toNat) → outPort c' j = outPort (ctxOf x k) j) ∧
    c' = { ctxOf x k with v := c'.v, outs := c'.outs, estat := c'.estat, fire := some (moved fi 1) }

/-- The operands of a lane word are there and its destination has room. -/
structure LaneReady (s : State) (l t k : Nat) (ls : Lease) (x : Tile) (fi : Firing) (ty : ETy) (d : Dst) (srcs : List Src)
    (ts : List Tok) : Prop where
  turn : ElemTurn s l t k ls x fi
  port : dstBound x k d = true
  room : dstFull x (ctxOf x k) k d = false
  srcs : srcToks x k (ctxOf x k) fi ty srcs = .ok ts

/-- Word `i` acts on each active element alone (R144, R145, R191, R198): element `e` of the result is what `g` gives for
the elements `e` of the sources, an inactive element keeps what the destination held, a lane is poisoned when a lane of a
source of its element is, and only unpoisoned active elements raise flags. -/
def Elementwise (i : Instr) (ty : ETy) (tag : BitVec 3) (d : Dst) (srcs : List Src) (m : Msk) (g : List Nat → Nat × Flg) : Prop :=
  ∀ (s : State) (l t k : Nat) (ls : Lease) (x : Tile) (fi : Firing) (ts : List Tok),
    LaneReady s l t k ls x fi ty d srcs ts →
    let c := ctxOf x k
    let w := tyW ty
    let on := activeOf c m
    let vals (e : Nat) : List Nat := ts.map fun u => elemAt w u.data e
    Gives i s fun s' => ∃ tok fl, ElemResult s s' l t k ls x fi d tok fl ∧ tok.tag = tag ∧ tok.aux = 0 ∧
      (∀ e, e < tyN ty → elemAt w tok.data e = if elemOn w on e then (g (vals e)).1 % 2 ^ w else elemAt w (dstOld c d).data e) ∧
      (∀ j, j < 24 → tok.pois.getLsbD j =
        if elemOn w on (laneElem w j) then ts.any fun u => elemPois w u.pois (laneElem w j) else (dstOld c d).pois.getLsbD j) ∧
      ∀ b, b < 5 → fl.getLsbD b = (List.range (tyN ty)).any fun e =>
        elemOn w on e && !(ts.any fun u => elemPois w u.pois e) && (g (vals e)).2.getLsbD b

/-- Value of an element in an integer type: unsigned for U32, else two's complement (R302). -/
def num (ty : ETy) (v : Nat) : Int := if ty = .u32 then (v : Int) else (BitVec.ofNat (tyW ty) v).toInt
/-- The element of an exact value, mod 2^w (R192). -/
def enc (ty : ETy) (v : Int) : Nat := (BitVec.ofInt (tyW ty) v).toNat
/-- Saturation to the range of the type (R192). -/
def clamp (ty : ETy) (v : Int) : Int :=
  if ty = .u32 then max 0 (min (2 ^ 32 - 1) v) else max (-(2 ^ (tyW ty - 1))) (min (2 ^ (tyW ty - 1) - 1) v)

/-- Word `i` gives every lane of one token from its sources (R145, R298): the active lanes get data and poison of the
token `f` gives, the others keep what the destination held; tag, aux and flags are those of `f`. -/
def WholeToken (i : Instr) (ty : ETy) (d : Dst) (srcs : List Src) (m : Msk)
    (f : Tile → Firing → LaneMask → List Tok → Tok → Flg → Prop) : Prop :=
  ∀ (s : State) (l t k : Nat) (ls : Lease) (x : Tile) (fi : Firing) (ts : List Tok),
    LaneReady s l t k ls x fi ty d srcs ts →
    let c := ctxOf x k
    let on := activeOf c m
    Gives i s fun s' => ∃ tok r fl, ElemResult s s' l t k ls x fi d tok fl ∧ f x fi on ts r fl ∧ tok.tag = r.tag ∧
      tok.aux = r.aux ∧ ∀ j, j < 24 →
        laneAt tok.data j = (if on.getLsbD j then laneAt r.data j else laneAt (dstOld c d).data j) ∧
        tok.pois.getLsbD j = (if on.getLsbD j then r.pois.getLsbD j else (dstOld c d).pois.getLsbD j)

/-- An element access is under way: the request `id` of context `k` performs `op` on `parts`, and either the firing waits
for its reply or, posted, goes on `n` words further. -/
def Asked (s s' : State) (l t k : Nat) (ls : Lease) (fi : Firing) (op : MOp) (parts : List Part) (dst : RDst)
    (view : Nat) (posted : Bool) (n : Nat) : Prop :=
  ∃ r ls' x', reqOf s' s.nextId = some r ∧ s'.nextId = s.nextId + 1 ∧ r.iss = .elem l t k ∧ r.op = op ∧ r.parts = parts ∧
    r.dst = dst ∧ r.view = view ∧ r.posted = posted ∧ s'.mem = s.mem ∧ leaseOf s' l = some ls' ∧ ls'.seq = ls.seq ∧
    tileOf ls' t = some x' ∧
    (ctxOf x' k).fire = some (if posted then moved fi n else { fi with wait := .mem s.nextId })

end Sys2Proof.Claims

open Sys2Proof Sys2Proof.Machine Sys2Proof.Claims

/-! ### Sequencer words -/

/-- R258: every register form of the ALU completes with its result, poisoned when a source is (R146), and nothing else
changes; CLZ gives the number of leading zero bits (64 for zero), POPC the number of one bits. -/
def Obligations.alu_register_results : Prop :=
  (∀ (s : State) (l : Nat) (rep : Bool) (ls : Lease) (xd xa xb : BitVec 5), SeqTurn s l rep ls [xd, xa, xb] →
     let a := xget (seqOf ls rep) xa
     let b := xget (seqOf ls rep) xb
     let R (i : Instr) (v : Dword) : Prop :=
       Gives i s fun t => SeqResult s t l rep ls xd v (xpois (seqOf ls rep) xa || xpois (seqOf ls rep) xb)
     R (.add xd xa xb) (a + b) ∧ R (.sub xd xa xb) (a - b) ∧ R (.mul xd xa xb) (a * b) ∧
     R (.mulh xd xa xb) (BitVec.ofInt 64 (a.toInt * b.toInt / 2 ^ 64)) ∧
     R (.mulhu xd xa xb) (BitVec.ofNat 64 (a.toNat * b.toNat / 2 ^ 64)) ∧
     R (.div xd xa xb) (if b = 0 then -1 else BitVec.ofInt 64 (a.toInt.tdiv b.toInt)) ∧
     R (.divu xd xa xb) (if b = 0 then -1 else a / b) ∧
     R (.rem xd xa xb) (if b = 0 then a else BitVec.ofInt 64 (a.toInt.tmod b.toInt)) ∧
     R (.remu xd xa xb) (if b = 0 then a else a % b) ∧
     R (.and xd xa xb) (a &&& b) ∧ R (.or xd xa xb) (a ||| b) ∧ R (.xor xd xa xb) (a ^^^ b) ∧
     R (.shl xd xa xb) (a <<< (b.toNat % 64)) ∧ R (.shr xd xa xb) (a >>> (b.toNat % 64)) ∧
     R (.sha xd xa xb) (a.sshiftRight (b.toNat % 64)) ∧
     R (.slt xd xa xb) (if a.slt b then 1 else 0) ∧ R (.sltu xd xa xb) (if a.ult b then 1 else 0) ∧
     R (.min xd xa xb) (if a.sle b then a else b) ∧ R (.max xd xa xb) (if a.sle b then b else a) ∧
     R (.minu xd xa xb) (if a.ule b then a else b) ∧ R (.maxu xd xa xb) (if a.ule b then b else a)) ∧
  (∀ (s : State) (l : Nat) (rep : Bool) (ls : Lease) (xd xa : BitVec 5), SeqTurn s l rep ls [xd, xa] →
     let a := xget (seqOf ls rep) xa
     let R (i : Instr) (v : Nat) : Prop :=
       Gives i s fun t => SeqResult s t l rep ls xd (BitVec.ofNat 64 v) (xpois (seqOf ls rep) xa)
     (∃ k, k ≤ 64 ∧ (∀ i, i < k → a.getLsbD (63 - i) = false) ∧ (k < 64 → a.getLsbD (63 - k) = true) ∧ R (.clz xd xa) k) ∧
     R (.popc xd xa) (((List.range 64).map fun i => (a.getLsbD i).toNat).sum))

/-- R259: the immediate forms complete as their register counterparts; LIH writes a clean result, LIK keeps the other
bits of its register and the poison. -/
def Obligations.immediate_results : Prop :=
  ∀ (s : State) (l : Nat) (rep : Bool) (ls : Lease) (xd xa : BitVec 5) (i : BitVec 16) (sh : BitVec 6) (p : BitVec 2),
    SeqTurn s l rep ls [xd, xa] →
    let a := xget (seqOf ls rep) xa
    let R (w : Instr) (v : Dword) : Prop :=
      Gives w s fun t => SeqResult s t l rep ls xd v (xpois (seqOf ls rep) xa)
    R (.addi xd xa i) (a + i.signExtend 64) ∧ R (.andi xd xa i) (a &&& i.setWidth 64) ∧
    R (.ori xd xa i) (a ||| i.setWidth 64) ∧ R (.xori xd xa i) (a ^^^ i.setWidth 64) ∧
    R (.shli xd xa sh) (a <<< sh.toNat) ∧ R (.shri xd xa sh) (a >>> sh.toNat) ∧
    R (.shai xd xa sh) (a.sshiftRight sh.toNat) ∧
    R (.slti xd xa i) (if a.slt (i.signExtend 64) then 1 else 0) ∧
    R (.sltiu xd xa i) (if a.ult (i.signExtend 64) then 1 else 0) ∧
    (Gives (.lih xd i) s fun t => SeqResult s t l rep ls xd (i.signExtend 64 <<< 16) false) ∧
    (Gives (.lik xd p i) s fun t => ∃ v : Dword, SeqResult s t l rep ls xd v (xpois (seqOf ls rep) xd) ∧
      ∀ k, k < 64 → v.getLsbD k =
        if k / 16 = p.toNat then i.getLsbD (k % 16) else (xget (seqOf ls rep) xd).getLsbD k)

/-- The condition of each branch of R260. -/
def Obligations.branches : Prop :=
  ∀ (s : State) (l : Nat) (rep : Bool) (ls : Lease) (xa xb : BitVec 5) (off : BitVec 16),
    SeqTurn s l rep ls [xa, xb] →
    let q := seqOf ls rep
    let a := xget q xa
    let b := xget q xb
    let dest := ((q.pc : Int) + 4 * off.toInt).toNat
    let R (i : Instr) (c : Bool) : Prop :=
      (xpois q xa = true ∨ xpois q xb = true → exec i s = .next (seqFault s l rep cPCTL 0)) ∧
      (xpois q xa = false → xpois q xb = false →
        (c = false → Gives i s fun t => SeqMoves s t l rep ls (q.pc + 4)) ∧
        (c = true → inRegion ls dest = true → Gives i s fun t => SeqMoves s t l rep ls dest) ∧
        (c = true → inRegion ls dest = false → exec i s = .next (seqFault s l rep cBRANCH dest)))
    R (.beq xa xb off) (a == b) ∧ R (.bne xa xb off) (a != b) ∧ R (.blt xa xb off) (a.slt b) ∧
    R (.bge xa xb off) (b.sle a) ∧ R (.bltu xa xb off) (a.ult b) ∧ R (.bgeu xa xb off) (b.ule a)

/-- R261: the jumps, their links and their faults. -/
def Obligations.jumps : Prop :=
  ∀ (s : State) (l : Nat) (rep : Bool) (ls : Lease) (xd xa : BitVec 5) (off : BitVec 26) (i : BitVec 16),
    SeqTurn s l rep ls [31, xd, xa] →
    let q := seqOf ls rep
    let dest := ((q.pc : Int) + 4 * off.toInt).toNat
    let t := (xget q xa + i.signExtend 64).toNat
    let Link (u : State) (x : BitVec 5) (d : Nat) : Prop :=
      ∃ q', OnlySeq s u l rep ls q' ∧ Writes q q' x (BitVec.ofNat 64 (q.pc + 4)) false ∧ q'.pc = d
    (inRegion ls dest = true →
      (Gives (.jmp off) s fun u => SeqMoves s u l rep ls dest) ∧ Gives (.jal off) s fun u => Link u 31 dest) ∧
    (inRegion ls dest = false →
      exec (.jmp off) s = .next (seqFault s l rep cBRANCH dest) ∧ exec (.jal off) s = .next (seqFault s l rep cBRANCH dest)) ∧
    (xpois q xa = true → exec (.jalr xd xa i) s = .next (seqFault s l rep cPCTL 0)) ∧
    (xpois q xa = false →
      (t % 4 = 0 → inRegion ls t = true → Gives (.jalr xd xa i) s fun u => Link u xd t) ∧
      (t % 4 ≠ 0 ∨ inRegion ls t = false → exec (.jalr xd xa i) s = .next (seqFault s l rep cBRANCH t)))

/-- R287, R156: NOP does nothing but move on; PTEST gives the poison bit of xa, clean; PCLR gives its content, clean. -/
def Obligations.nop_ptest_pclr : Prop :=
  ∀ (s : State) (l : Nat) (rep : Bool) (ls : Lease) (xd xa : BitVec 5), SeqTurn s l rep ls [xd, xa] →
    let q := seqOf ls rep
    (Gives .nop s fun t => SeqSteps s t l rep ls) ∧
    (Gives (.ptest xd xa) s fun t => SeqResult s t l rep ls xd (if xpois q xa then 1 else 0) false) ∧
    Gives (.pclr xd xa) s fun t => SeqResult s t l rep ls xd (xget q xa) false

/-- R256, R257: SRD of every listed number gives that register, clean; of any other number it faults ILLEGAL_OP. -/
def Obligations.srd_reads : Prop :=
  ∀ (s : State) (l : Nat) (ls : Lease) (xd : BitVec 5) (n : BitVec 10), SoloTurn s l ls [xd] →
    let q := ls.seq
    let R (k : Nat) (v : Nat) : Prop :=
      n.toNat = k → Gives (.srd xd n) s fun t => SeqResult s t l false ls xd (BitVec.ofNat 64 v) false
    R 0x000 (l % 4096 * 4096 + ls.tenant % 4096) ∧ R 0x002 (ls.img.h * 256 + ls.img.w) ∧ R 0x003 ls.lrec.image ∧
    R 0x004 (reserveLeft ls) ∧ R 0x010 (tickOf s (anchorDie ls) % 2 ^ 40) ∧ R 0x011 q.cycle ∧ R 0x020 q.sview ∧
    R 0x021 q.atomst.toNat ∧ R 0x022 ls.mround ∧ R 0x023 (q.donecnt % 2 ^ 16) ∧ R 0x030 q.tvec ∧ R 0x031 q.epc ∧
    R 0x032 q.ecause.toNat ∧ R 0x033 q.eaddr.toNat ∧ R 0x035 ls.mbox ∧ R 0x036 q.tscr.toNat ∧
    (∀ v, 1 ≤ v → v ≤ 7 → R (0x040 + v) ((viewOf ls v).sts * 2 ^ 16 + (viewOf ls v).kind * 2 ^ 12 + (viewOf ls v).doom)) ∧
    (∀ k, k < 64 → R (0x060 + k) (mget Stream.zero ls.streams k).scnt) ∧
    (∀ k ∈ [0x001, 0x034, 0x050, 0x100, 0x101, 0x102, 0x103, 0x104], R k (sysReg s l ls q k)) ∧
    (sysRegAssigned n.toNat = false → exec (.srd xd n) s = .next (seqFault s l false cILLEGAL 0))

/-- R257: SWR writes the fields of SVIEW, TVEC, EPC and TSCR and leaves every read-only register; a poisoned source
faults POISON_CONTROL and an unlisted number ILLEGAL_OP. -/
def Obligations.swr_writes : Prop :=
  ∀ (s : State) (l : Nat) (rep : Bool) (ls : Lease) (xa : BitVec 5) (n : BitVec 10), SeqTurn s l rep ls [xa] →
    let q := seqOf ls rep
    let v := (xget q xa).toNat
    (sysRegAssigned n.toNat = false → exec (.swr xa n) s = .next (seqFault s l rep cILLEGAL 0)) ∧
    (sysRegAssigned n.toNat = true → xpois q xa = true → exec (.swr xa n) s = .next (seqFault s l rep cPCTL 0)) ∧
    (sysRegAssigned n.toNat = true → xpois q xa = false →
      Gives (.swr xa n) s fun t => ∃ q', OnlySeq s t l rep ls q' ∧ q'.pc = q.pc + 4 ∧
        q'.sview = (if n.toNat = 0x020 then v % 8 else q.sview) ∧
        q'.tvec = (if n.toNat = 0x030 then v % 2 ^ 56 / 4 * 4 else q.tvec) ∧
        q'.epc = (if n.toNat = 0x031 then v % 2 ^ 56 / 4 * 4 else q.epc) ∧
        q'.tscr = (if n.toNat = 0x036 then xget q xa else q.tscr) ∧
        q' = { q with pc := q'.pc, op := q'.op, saved := q'.saved, instr := q'.instr, sview := q'.sview, tvec := q'.tvec,
                      epc := q'.epc, tscr := q'.tscr })

/-- R290, R385: a fault of a sequencer instruction takes the trap when a handler inside the program region is set, no
handler runs and no older record waits: EPC is the address of the instruction, ECAUSE and EADDR are those of the record,
INTRAP is set and the PC goes to TVEC; the registers stay, and the record is in the mailbox. -/
def Obligations.fault_takes_trap : Prop :=
  ∀ (s : State) (l : Nat) (ls : Lease) (cause faddr : Nat), leaseOf s l = some ls →
    ls.mput = ls.mdone → ls.recs = [] → ls.seq.intrap = false → ls.seq.tvec ≠ 0 → inRegion ls ls.seq.tvec = true →
    ∃ ls', leaseOf (seqFault s l false cause faddr) l = some ls' ∧
      ls'.seq.epc = ls.seq.pc ∧ ls'.seq.ecause = BitVec.ofNat 26 cause ∧ ls'.seq.eaddr = BitVec.ofNat 64 faddr ∧
      ls'.seq.intrap = true ∧ ls'.seq.pc = ls.seq.tvec ∧ ls'.seq.x = ls.seq.x ∧ ls'.seq.xp = ls.seq.xp ∧
      ls'.seq.tvec = ls.seq.tvec ∧ ls'.seq.sview = ls.seq.sview ∧ ls'.seq.tscr = ls.seq.tscr ∧ ls'.mput = ls.mput + 1

/-- R291: the trap is unhandled when TVEC is 0, when it lies outside the program region, or when a handler runs: the
sequencer stops at the instruction with every register as it was, and the host is signalled. -/
def Obligations.fault_unhandled : Prop :=
  ∀ (s : State) (l : Nat) (ls : Lease) (cause faddr : Nat), leaseOf s l = some ls →
    ls.seq.intrap = true ∨ ls.seq.tvec = 0 ∨ inRegion ls ls.seq.tvec = false →
    let t := seqFault s l false cause faddr
    (∃ ls', leaseOf t l = some ls' ∧ ls'.unhandled = true ∧ ls'.seq = { ls.seq with stopped := true }) ∧
    Out.msix (.vf ls.tenant) 0 ∈ t.out

/-- R288: TRAP k faults with cause TRAP: ECAUSE[25:16] is k, EADDR 0 and EPC the address of the TRAP. -/
def Obligations.trap_instruction : Prop :=
  ∀ (s : State) (l : Nat) (ls : Lease) (k : BitVec 10), SeqTurn s l false ls [] →
    ls.mput = ls.mdone → ls.recs = [] → ls.seq.intrap = false → ls.seq.tvec ≠ 0 → inRegion ls ls.seq.tvec = true →
    Gives (.trap k) s fun t => ∃ ls', leaseOf t l = some ls' ∧
      ls'.seq.epc = ls.seq.pc ∧ ls'.seq.ecause = BitVec.ofNat 26 (k.toNat * 2 ^ 16 + 0x3F) ∧ ls'.seq.eaddr = 0 ∧
      ls'.seq.intrap = true ∧ ls'.seq.pc = ls.seq.tvec ∧ ls'.seq.x = ls.seq.x ∧ ls'.seq.xp = ls.seq.xp

/-- R289: ERET outside a handler faults ILLEGAL_OP; in a handler without a record left it sets the PC to EPC and clears
INTRAP; with one it acts on the record's dword 7 first, and faults where that cannot be read or is poisoned (R389). -/
def Obligations.eret_returns : Prop :=
  ∀ (s : State) (l : Nat) (ls : Lease), SoloTurn s l ls [] →
    (ls.seq.intrap = false → exec .eret s = .next (seqFault s l false cILLEGAL 0)) ∧
    (ls.seq.intrap = true → ls.mput ≤ ls.mdone → Gives .eret s fun t => ∃ ls', leaseOf t l = some ls' ∧
      ls'.seq.pc = ls.seq.epc ∧ ls'.seq.intrap = false ∧ ls'.seq.x = ls.seq.x ∧ ls'.seq.xp = ls.seq.xp ∧
      ls'.seq.epc = ls.seq.epc ∧ ls'.seq.tvec = ls.seq.tvec) ∧
    (ls.seq.intrap = true → ls.mdone < ls.mput → ls.seq.op = .none →
      let va := ls.mbox + 64 * (1 + ls.mdone % 63) + 56
      (∀ b p s1, vread l (some false) (lineRuns va 8) [] [] s = .ok b p s1 → p.any id = false →
        exec .eret s = .next (eretDone (finishRecord s1 l ls (mget FRec.zero ls.posted ls.mdone) (leNat b)) l ls)) ∧
      (∀ b p s1, vread l (some false) (lineRuns va 8) [] [] s = .ok b p s1 → p.any id = true →
        exec .eret s = .next (seqFault s1 l false cPCTL va)) ∧
      ∀ c a s1, vread l (some false) (lineRuns va 8) [] [] s = .fault c a s1 → exec .eret s = .next (seqFault s1 l false c a))

/-- R292, R293: HALT ends the launch with status 0 once the engines and the phase are done, and waits until then; YIELD
moves on when every used tile is drained and the engines are done, and waits until then. -/
def Obligations.halt_and_yield : Prop :=
  ∀ (s : State) (l : Nat) (ls : Lease), SoloTurn s l ls [] →
    let quiet : Prop := ∀ t ∈ usedTiles ls, ∀ x, tileOf ls t = some x → x.passed = true ∨ drained s l t ls x = true
    (ls.engines = [] → (ls.phStarted = false ∨ ls.phEnded = true) → ls.state ≠ .stop →
      Gives .halt s fun t => OnlyLease s t l { ls with state := .stop, endc := 0 }) ∧
    (ls.engines ≠ [] ∨ (ls.phStarted = true ∧ ls.phEnded = false) → exec .halt s = .next s) ∧
    (ls.engines = [] → quiet → sliceTakes ls = false → Gives .yieldTurn s fun t => SeqSteps s t l false ls) ∧
    (ls.engines ≠ [] ∨ ¬ quiet → exec .yieldTurn s = .next s)

/-- R119, R126, R266: a FENCE below SYS completes at once; the named pairs of the sequencer's accesses are ordered at its
scope: reads that follow wait for the earlier reads (RR) and writes (WR), writes for the earlier reads (RW) and writes
(WW), and of the accesses already performed the latest tick is the floor of the reads that follow; nothing else changes.
R135: a SYS fence whose earlier writes are performed, with no host port to flush, completes in the same way. -/
def Obligations.fence_orders : Prop :=
  (∀ (s : State) (l : Nat) (rep : Bool) (ls : Lease) (k : BitVec 4) (sc : Scope), SeqTurn s l rep ls [] →
     (seqOf ls rep).op = .none →
     let q := seqOf ls rep
     (sc ≠ .sys ∨ (q.ord.ports = [] ∧ ∀ id ∈ q.ord.outW, ∀ r, reqOf s id = some r → r.stage.open_ = false) →
       Gives (.fence k sc) s fun t => ∃ q', OnlySeq s t l rep ls q' ∧ q'.pc = q.pc + 4 ∧ q'.x = q.x ∧ q'.xp = q.xp ∧
         q'.ord = fenceOrd k sc q.ord)) ∧
  (∀ (k : BitVec 4) (sc : Scope) (o : OrdSt) (id : Nat),
     let named (a b : Nat) : Bool := (k.getLsbD a && nhas o.outR id) || (k.getLsbD b && nhas o.outW id)
     (mfind (fenceOrd k sc o).preR id = if named 3 1 then some (max (encScope sc) (mget 0 o.preR id)) else mfind o.preR id) ∧
     (mfind (fenceOrd k sc o).preW id = if named 2 0 then some (max (encScope sc) (mget 0 o.preW id)) else mfind o.preW id) ∧
     (fenceOrd k sc o).outR = o.outR ∧ (fenceOrd k sc o).outW = o.outW ∧
     (fenceOrd k sc o).floor = max o.floor (max (if k.getLsbD 3 then o.lastR else 0) (if k.getLsbD 1 then o.lastW else 0)))

/-- R262 to R264: an LD, ST or AMO that passes the checks of R263 that need no translation is sent with its effective
address, size, data and view; the first check that fails decides the fault. -/
def Obligations.seq_accesses : Prop :=
  ∀ (s : State) (l : Nat) (rep : Bool) (ls : Lease) (xd xa xb : BitVec 5) (sz : MSize) (az : ASize) (sg ord : Bool)
    (off : BitVec 12) (sc : Scope), SeqTurn s l rep ls [xd, xa, xb] → (seqOf ls rep).op = .none →
    let q := seqOf ls rep
    let ea := (xget q xa + off.signExtend 64).toNat
    let n := MSize.bytes sz
    let m := ASize.bytes az
    let aa := (xget q xa).toNat
    let Sent (t : State) (op : MOp) (va k : Nat) (data : List Byte) (pois : List Bool) (cmp : List Byte) (cp acq rel : Bool)
        (d : RDst) : Prop :=
      ∃ r p, reqOf t s.nextId = some r ∧ t.nextId = s.nextId + 1 ∧ r.iss = .seq l rep ∧ r.op = op ∧ r.view = q.sview ∧
        r.stage = (if ls.paired then .exit else .issued) ∧ r.parts = [p] ∧ p.va = va ∧ p.len = k ∧ p.data = data ∧
        p.pois = pois ∧ p.cmp = cmp ∧ p.cmpPois = cp ∧ r.acq = acq ∧ r.rel = rel ∧ r.dst = d ∧ t.mem = s.mem ∧
        ∃ ls', leaseOf t l = some ls' ∧ (seqOf ls' rep).op = .addr s.nextId ∧ (seqOf ls' rep).pc = q.pc ∧
          (seqOf ls' rep).x = q.x ∧ (seqOf ls' rep).xp = q.xp
    let Checked (i : Instr) (va k : Nat) (op : MOp) (sent : State → Prop) : Prop :=
      (xpois q xa = true → exec i s = .next (seqFault s l rep cPADDR va)) ∧
      (xpois q xa = false → va % k ≠ 0 → exec i s = .next (seqFault s l rep cALIGN va)) ∧
      (xpois q xa = false → va % k = 0 → 2 ^ 56 ≤ va → exec i s = .next (seqFault s l rep cTRANS va)) ∧
      (xpois q xa = false → va % k = 0 → va < 2 ^ 56 → ∀ c, viewCheck ls q.sview op.acc = some c →
        exec i s = .next (seqFault s l rep c va)) ∧
      (xpois q xa = false → va % k = 0 → va < 2 ^ 56 → viewCheck ls q.sview op.acc = none → Gives i s sent)
    let A (i : Instr) (op : AOp) (sign : Bool) : Prop :=
      Checked i aa m (.atomic op) fun t => Sent t (.atomic op) aa m (leBytes m (xget q xb).toNat)
        (List.replicate m (xpois q xb)) (leBytes m (xget q xd).toNat) (xpois q xd) true true (.x xd m sign)
    Checked (.ld xd xa sz sg ord off) ea n .read (fun t => Sent t .read ea n [] [] [] false ord false (.x xd n sg)) ∧
    Checked (.st xd xa sz ord off) ea n .write
      (fun t => Sent t .write ea n (leBytes n (xget q xd).toNat) (List.replicate n (xpois q xd)) [] false false ord .none) ∧
    A (.amoAdd xd xa xb az sc) .add false ∧ A (.amoAnd xd xa xb az sc) .and false ∧ A (.amoOr xd xa xb az sc) .or false ∧
    A (.amoXor xd xa xb az sc) .xor false ∧ A (.amoMin xd xa xb az sc) .min true ∧ A (.amoMax xd xa xb az sc) .max true ∧
    A (.amoMinu xd xa xb az sc) .minu false ∧ A (.amoMaxu xd xa xb az sc) .maxu false ∧
    A (.amoXchg xd xa xb az sc) .xchg false ∧ A (.amoCas xd xa xb az sc) .cas false

/-- R97: SNAP and TXB open a view in the lowest empty entry, with STS (T - 2, 0xFF), and give its number; with no empty
entry, or while the clock is stopped, they give 0 and open nothing. R103, R267: SREL empties its entry; TXA dooms a
healthy transaction with EXPLICIT and keeps the DOOM of a doomed one, faulting SNAP_LOST on an empty entry and
PERMISSION on a snapshot; TXS gives the view-state word. -/
def Obligations.views_open_and_close : Prop :=
  (∀ (s : State) (l : Nat) (ls : Lease) (xd : BitVec 5), SoloTurn s l ls [xd] →
     let opened (t : State) (n kind : Nat) : Prop := ∃ ls', leaseOf t l = some ls' ∧
       (xd ≠ 0 → xget ls'.seq xd = BitVec.ofNat 64 n ∧ xpois ls'.seq xd = false) ∧ ls'.seq.pc = ls.seq.pc + 4 ∧
       viewOf ls' n = ⟨stamp (tickOf s (anchorDie ls) - 2) 0xFF, kind, 0, 0, s.nextId⟩ ∧ ∀ m, m ≠ n → viewOf ls' m = viewOf ls m
     let all (i : Instr) (kind : Nat) : Prop :=
       (∀ n, s.clockStopped = false → 1 ≤ n → n ≤ 7 → (viewOf ls n).kind = 0 → (∀ m, 1 ≤ m → m < n → (viewOf ls m).kind ≠ 0) →
         Gives i s fun t => opened t n kind) ∧
       (s.clockStopped = true ∨ (∀ n, 1 ≤ n → n ≤ 7 → (viewOf ls n).kind ≠ 0) →
         Gives i s fun t => SeqResult s t l false ls xd 0 false)
     all (.snap xd) 1 ∧ all (.txb xd) 2) ∧
  (∀ (s : State) (l : Nat) (ls : Lease) (xd : BitVec 5) (n : BitVec 3), SoloTurn s l ls [xd] →
     let v := viewOf ls n.toNat
     (Gives (.srel n) s fun t => ∃ ls', leaseOf t l = some ls' ∧ (viewOf ls' n.toNat).kind = 0 ∧
       (∀ m, m ≠ n.toNat → viewOf ls' m = viewOf ls m) ∧ ls'.seq.pc = ls.seq.pc + 4) ∧
     (v.kind = 0 → exec (.txa n) s = .next (seqFault s l false cSNAP n.toNat)) ∧
     (v.kind = 1 → exec (.txa n) s = .next (seqFault s l false cPERM n.toNat)) ∧
     (v.kind = 2 → Gives (.txa n) s fun t => ∃ ls', leaseOf t l = some ls' ∧
       viewOf ls' n.toNat = { v with doom := if v.doom = 0 then 5 else v.doom } ∧
       (∀ m, m ≠ n.toNat → viewOf ls' m = viewOf ls m) ∧ ls'.seq.pc = ls.seq.pc + 4) ∧
     Gives (.txs xd n) s fun t => SeqResult s t l false ls xd (BitVec.ofNat 64 (v.sts * 2 ^ 16 + v.kind * 2 ^ 12 + v.doom)) false)

/-- R104, R106, R108, R267, R268: TXC of an empty entry faults SNAP_LOST, of a snapshot PERMISSION; once the sequencer's
accesses are done, a doomed transaction gives its DOOM, one that wrote nothing gives 0, and any other starts to commit
under its ticket; the sequencer's later reads have a floor no lower than the tick of a COMMITTED return, and its accesses
stand as behind a fence of all kinds (R132); PUBL of a shadow that holds nothing gives 0, with DISCARD it discards and gives 0, and of a shadow that
holds pending versions it starts to publish. -/
def Obligations.commits_begin : Prop :=
  ∀ (s : State) (l : Nat) (ls : Lease) (xd : BitVec 5) (n : BitVec 3) (k : BitVec 2) (clean discard : Bool),
    SoloTurn s l ls [xd] → ls.seq.op = .none →
    let v := viewOf ls n.toNat
    let sh := mget ⟨false, false⟩ ls.shadows k.toNat
    let began (t : State) (shadow : Bool) (slot : Nat) : Prop := ∃ ls', leaseOf t l = some ls' ∧ ls'.seq.op = .commit ∧
      ls'.commit = some ⟨shadow, slot, clean, xd, tickOf s (anchorDie ls), [], 0, 0⟩ ∧ ls'.seq.pc = ls.seq.pc
    let gave (t : State) (st : Nat) : Prop := ∃ ls', leaseOf t l = some ls' ∧
      (xd ≠ 0 → xget ls'.seq xd = BitVec.ofNat 64 st ∧ xpois ls'.seq xd = false) ∧ ls'.seq.pc = ls.seq.pc + 4
    (v.kind = 0 → exec (.txc xd n clean) s = .next (seqFault s l false cSNAP n.toNat)) ∧
    (v.kind = 1 → exec (.txc xd n clean) s = .next (seqFault s l false cPERM n.toNat)) ∧
    (v.kind = 2 → seqQuiet ls.seq = true →
      (v.doom ≠ 0 → Gives (.txc xd n clean) s fun t => gave t v.doom) ∧
      (v.doom = 0 → writeSet s l n.toNat = [] → Gives (.txc xd n clean) s fun t => gave t 0 ∧
        ∃ ls', leaseOf t l = some ls' ∧ tickOf s (anchorDie ls) ≤ ls'.seq.ord.floor ∧
          max ls.seq.ord.lastR ls.seq.ord.lastW ≤ ls'.seq.ord.floor) ∧
      (v.doom = 0 → writeSet s l n.toNat ≠ [] → s.clockStopped = false →
        Gives (.txc xd n clean) s fun t => began t false n.toNat)) ∧
    (seqQuiet ls.seq = true → (∀ e ∈ ls.engines, e.shadow ≠ k.toNat) →
      (discard = true → Gives (.publ xd k clean discard) s fun t => gave t 0) ∧
      (discard = false → sh.doomed = true → Gives (.publ xd k clean discard) s fun t => gave t 2) ∧
      (discard = false → sh.doomed = false → writeSet s l (8 + k.toNat) = [] →
        Gives (.publ xd k clean discard) s fun t => gave t 0) ∧
      (discard = false → sh.doomed = false → writeSet s l (8 + k.toNat) ≠ [] → s.clockStopped = false →
        Gives (.publ xd k clean discard) s fun t => began t true (8 + k.toNat)))

/-- R270: CFG of an image that reads and fits gives the number of used tiles that its rectangle names, and moves on; its faults come
in the order of the rule. It writes the shadow planes of these tiles in turn: of one with a record the plane that its words,
body and descriptors hold, of another an empty plane; a body that is refused, unreadable or poisoned ends it.
R274, R276: STRM binds or unbinds a stream of the stream list, with its count at 0, and changes no other stream; GRPW sets a group's
COUNT and clears ARR, keeping GEN, and changes no other group; their faults. -/
def Obligations.cfg_strm_grpw : Prop :=
  (∀ (s : State) (l : Nat) (ls : Lease) (xd xa xb : BitVec 5), SoloTurn s l ls [xd, xa, xb] → ls.seq.op = .none →
     let q := ls.seq
     let va := (xget q xa).toNat
     let named := ls.img.roles.filter fun t => decide ((xget q xb).toNat % 2 ^ 8 ≤ keyCol ls t ∧
       keyCol ls t ≤ (xget q xb).toNat / 2 ^ 16 % 2 ^ 8 ∧ (xget q xb).toNat / 2 ^ 8 % 2 ^ 8 ≤ keyRow ls t ∧
       keyRow ls t ≤ (xget q xb).toNat / 2 ^ 24 % 2 ^ 8)
     let refused (s1 : State) (c a id : Nat) : Prop :=
       exec (.cfg xd xa xb) s = .next (seqFaultG s1 l false c a fun r => { r with cfgid := id })
     (xpois q xa = true → exec (.cfg xd xa xb) s = .next (seqFault s l false cPADDR va)) ∧
     (xpois q xa = false → va % 64 ≠ 0 → exec (.cfg xd xa xb) s = .next (seqFault s l false cALIGN va)) ∧
     (xpois q xa = false → va % 64 = 0 → xpois q xb = true → exec (.cfg xd xa xb) s = .next (seqFault s l false cPCTL va)) ∧
     (xpois q xa = false → va % 64 = 0 → xpois q xb = false →
       (∀ c a id s1, readImage s l (some false) va = .bad c a id s1 → refused s1 c a id) ∧
       ∀ x im ts s1, readImage s l (some false) va = .ok x im ts s1 →
         (x.w ≠ ls.img.w ∨ x.h ≠ ls.img.h → refused s1 cCONFIG 0 2) ∧
         (x.w = ls.img.w → x.h = ls.img.h →
           (ls.img.saveReq ≤ 4096 * ls.img.savesz → 4096 * ls.img.savesz < im.saveReq → refused s1 cCONFIG 0 5) ∧
           (im.saveReq ≤ 4096 * ls.img.savesz → (∀ t ∈ ts, nhas ls.img.roles (t.row * (2 * x.w) + t.col) = true) →
             (∀ c a id s2, cfgTiles l va x im ts named s1 = .bad c a id s2 → refused s2 c a id) ∧
             ∀ x' im' ts' s2 ls2, cfgTiles l va x im ts named s1 = .ok x' im' ts' s2 → leaseOf s2 l = some ls2 →
               Gives (.cfg xd xa xb) s fun t => SeqResult s2 t l false ls2 xd (BitVec.ofNat 64 named.length) false)))) ∧
  (∀ (s : State) (l va : Nat) (x : Hdr) (im : Img) (ts : List TRec) (k : Nat) (r : List Nat),
     let write (p : Plane) (u : State) : State := updTile (updTile u l k fun t => { t with shd := p }) l (k + replicaBase) fun t => { t with shd := p }
     let here (t : TRec) : Bool := t.row * (2 * x.w) + t.col == k
     cfgTiles l va x im ts [] s = .ok x im ts s ∧
     (ts.find? here = none → cfgTiles l va x im ts (k :: r) s = cfgTiles l va x im ts r (write Plane.zero s)) ∧
     ∀ t pb bb eb pp bp ep s1 s2 s3 ls, ts.find? here = some t →
       vread l (some false) (lineRuns (va + t.progoff) (4 * t.nprog)) [] [] s = .ok pb pp s1 → pp.any id = false →
       vread l (some false) (lineRuns (va + t.cfgoff) (4 * bodyWords t)) [] [] s1 = .ok bb bp s2 → bp.any id = false →
       vread l (some false) (lineRuns (va + t.eboff) (8 * t.neb)) [] [] s2 = .ok eb ep s3 → ep.any id = false → leaseOf s3 l = some ls →
       (∀ id, bodyBad ls.img.ssplit t bb eb = some id → cfgTiles l va x im ts (k :: r) s = .bad cCONFIG 0 id s3) ∧
       (bodyBad ls.img.ssplit t bb eb = none →
         cfgTiles l va x im ts (k :: r) s = cfgTiles l va x im ts r (write (planeOf t pb bb eb) s3))) ∧
  (∀ (s : State) (l : Nat) (ls : Lease) (xa xb : BitVec 5), SoloTurn s l ls [xa, xb] →
     let q := ls.seq
     let a := (xget q xa).toNat
     let w := (xget q xb).toNat
     let id := w % 2 ^ 6
     let kind := w / 2 ^ 6 % 4
     let old := mget Stream.zero ls.streams id
     let legal : Prop := (∃ e ∈ ls.img.strms, e.id = id) ∧ kind ≠ 3 ∧ w / 2 ^ 8 % 2 ^ 8 = 0 ∧ w / 2 ^ 51 % 2 ^ 5 = 0 ∧
       w / 2 ^ 59 % 2 ^ 5 = 0 ∧ (kind = 0 ∨ old.bound = false) ∧ (kind = 2 → couplerLive s.boot (a % 16) = true)
     let g := a % 2 ^ 8
     let e := mget (⟨0, 0, 0⟩ : Group) ls.groups g
     (xpois q xa = true → exec (.strm xa xb) s = .next (seqFault s l false cPADDR a)) ∧
     (xpois q xa = false → xpois q xb = true → exec (.strm xa xb) s = .next (seqFault s l false cPCTL 0)) ∧
     (xpois q xa = false → xpois q xb = false →
       (¬ legal → exec (.strm xa xb) s = .next (seqFault s l false cCONFIG 0)) ∧
       (legal → kind = 1 → a % 32 ≠ 0 → exec (.strm xa xb) s = .next (seqFault s l false cALIGN a)) ∧
       (legal → (kind = 1 → a % 32 = 0) → Gives (.strm xa xb) s fun t => ∃ ls' x, leaseOf t l = some ls' ∧
         mfind ls'.streams id = some x ∧ x.scnt = 0 ∧ x.bound = decide (kind ≠ 0) ∧ x.started = false ∧
         (kind ≠ 0 → x.kind = kind ∧ x.base = a ∧ x.len = w / 2 ^ 16 % 2 ^ 32 ∧ x.tag.toNat = w / 2 ^ 48 % 2 ^ 3 ∧
           x.view = w / 2 ^ 56 % 2 ^ 3) ∧
         (∀ j, j ≠ id → mfind ls'.streams j = mfind ls.streams j) ∧ ls'.seq.pc = q.pc + 4)) ∧
     ((xpois q xa = true ∨ xpois q xb = true) → exec (.grpw xa xb) s = .next (seqFault s l false cPCTL 0)) ∧
     (xpois q xa = false → xpois q xb = false →
       (e.arr ≠ 0 → exec (.grpw xa xb) s = .next (seqFault s l false cCONFIG 0)) ∧
       (e.arr = 0 → Gives (.grpw xa xb) s fun t => ∃ ls', leaseOf t l = some ls' ∧
         mget (⟨0, 0, 0⟩ : Group) ls'.groups g = ⟨w % 2 ^ 16, 0, e.gen⟩ ∧
         (∀ j, j ≠ g → mget (⟨0, 0, 0⟩ : Group) ls'.groups j = mget ⟨0, 0, 0⟩ ls.groups j) ∧ ls'.seq.pc = q.pc + 4)))

/-- R269, R271: CSWAP takes the used tiles that its rectangle names as those left to swap, with FINAL and whether all were
named, and completes when none is left; a poisoned rectangle faults POISON_CONTROL. R122, R187: its completion makes the next phase
final with FINAL, keeps what an earlier FINAL said, and moves the PC on; one that named every used tile ends the phase that was
started and resets each chain tracker, another leaves both as they were. -/
def Obligations.cswap_swaps : Prop :=
  (∀ (s : State) (l : Nat) (ls : Lease) (xa : BitVec 5) (fin : Bool), SoloTurn s l ls [xa] →
     let q := ls.seq
     let v := (xget q xa).toNat
     let named := ls.img.roles.filter fun t => decide (v % 2 ^ 8 ≤ keyCol ls t ∧ keyCol ls t ≤ v / 2 ^ 16 % 2 ^ 8 ∧
       v / 2 ^ 8 % 2 ^ 8 ≤ keyRow ls t ∧ keyRow ls t ≤ v / 2 ^ 24 % 2 ^ 8)
     (q.op = .none → q.saved = none → xpois q xa = true → exec (.cswap xa fin) s = .next (seqFault s l false cPCTL 0)) ∧
     (q.op = .none → q.saved = none → xpois q xa = false → Gives (.cswap xa fin) s fun t =>
       OnlySeq s t l false ls { q with op := .cswap named (named == ls.img.roles) fin }) ∧
     (∀ all f g, q.op = .cswap [] all f g → exec (.cswap xa fin) s = .next (cswapDone s l all f)) ∧
     (∀ a r all f g, q.op = .cswap (a :: r) all f g → exec (.cswap xa fin) s = .next s)) ∧
  (∀ (s : State) (l : Nat) (ls : Lease) (all fin : Bool), leaseOf s l = some ls → ls.paired = false → ls.claim = false →
     ∃ ls', leaseOf (cswapDone s l all fin) l = some ls' ∧ ls'.finNext = (ls.finNext || fin) ∧ ls'.seq.pc = ls.seq.pc + 4 ∧
       ls'.tiles = ls.tiles ∧
       (all = true → ls'.phStarted = false ∧ ls'.phEnded = false ∧
         ∀ c, c < 16 → mfind ls'.trackers c = some { Tracker.zero with floor := tickOf s (anchorDie ls) }) ∧
       (all = false → ls'.phStarted = ls.phStarted ∧ ls'.phEnded = ls.phEnded ∧ ls'.trackers = ls.trackers))

/-- R272: GO waits for an open go; with more than one root it faults CONFIG_INVALID; otherwise it sends go to the root and
the PHASE reset to every used tile, starts the bound input streams, and moves on. WAITD consumes a done, waits for an
open go, or gives 0.
R273: DRAIN in PHASE mode waits for the end of a started phase and gives 0; in STEP and HOLD mode it injects the next
marker round at the contexts that bind no input and at the input streams (R180), and gives its number when every context has entered
it; RELEASE frees the contexts of a complete HOLD round and of marker mode (R182) and gives 0; a poisoned xa faults. -/
def Obligations.go_waitd_drain : Prop :=
  (∀ (s : State) (l : Nat) (ls : Lease) (xd : BitVec 5), SoloTurn s l ls [xd] →
     let input (id : Nat) : Bool := ls.img.strms.any fun e => e.id == id && decide (e.port < 24)
     (ls.rootGo = true → exec .go s = .next s) ∧
     (ls.rootGo = false → 1 < (rootTiles ls).length → exec .go s = .next (seqFault s l false cCONFIG 0)) ∧
     (ls.rootGo = false → (rootTiles ls).length ≤ 1 → Gives .go s fun t => ∃ ls', leaseOf t l = some ls' ∧
       ls'.seq.pc = ls.seq.pc + 4 ∧ ls'.phStarted = true ∧ ls'.phEnded = false ∧ ls'.finalPh = ls.finNext ∧
       ls'.msgs = ls.msgs ++ (rootTiles ls).map (fun u => ⟨.go, u, 0, 0⟩) ++ (usedTiles ls).map (fun u => ⟨.phase, u, 0, 0⟩) ∧
       (∀ id, mfind ls'.streams id =
         (mfind ls.streams id).map fun x => if input id && x.bound then { x with started := true } else x) ∧
       (ls'.rootGo = !(rootTiles ls).isEmpty) ∧ tickOf s (anchorDie ls) ≤ ls'.goFloor) ∧
     (0 < ls.seq.donecnt → Gives (.waitd xd) s fun t => ∃ q', OnlySeq s t l false ls q' ∧ q'.donecnt = ls.seq.donecnt - 1 ∧
       (xd ≠ 0 → xget q' xd = 1 ∧ xpois q' xd = false) ∧
       (∀ n, n ≠ xd → xget q' n = xget ls.seq n ∧ xpois q' n = xpois ls.seq n) ∧ q'.pc = ls.seq.pc + 4) ∧
     (ls.seq.donecnt = 0 → ls.rootGo = true → exec (.waitd xd) s = .next s) ∧
     (ls.seq.donecnt = 0 → ls.rootGo = false → Gives (.waitd xd) s fun t => SeqResult s t l false ls xd 0 false)) ∧
  (∀ (s : State) (l : Nat) (ls : Lease) (xd xa : BitVec 5), SoloTurn s l ls [xd, xa] → ls.seq.saved = none →
     let q := ls.seq
     let m := (xget q xa).toNat % 4
     let input (id : Nat) : Bool := ls.img.strms.any fun e => e.id == id && decide (e.port < 24)
     let gave (t : State) (v : Nat) : Prop := ∃ ls', leaseOf t l = some ls' ∧
       (xd ≠ 0 → xget ls'.seq xd = BitVec.ofNat 64 v ∧ xpois ls'.seq xd = false) ∧ ls'.seq.pc = q.pc + 4
     let n := (ls.mround + 1) % 2 ^ 16
     (q.op = .none → xpois q xa = true → exec (.drain xd xa) s = .next (seqFault s l false cPCTL 0)) ∧
     (q.op = .none → xpois q xa = false →
       (m = 0 → (ls.phStarted = false ∨ ls.phEnded = true) → Gives (.drain xd xa) s fun t => gave t 0) ∧
       (m = 0 → ls.phStarted = true → ls.phEnded = false → exec (.drain xd xa) s = .next s) ∧
       ((m = 1 ∨ m = 2) → ls.round = none → Gives (.drain xd xa) s fun t => ∃ ls', leaseOf t l = some ls' ∧
         ls'.seq.op = .drain n ∧ ls'.markerMode = true ∧ ls'.seq.pc = q.pc ∧ ls'.round = some ⟨n, m == 2, false, false, none⟩ ∧
         (∀ id, input id = true → (mget Stream.zero ls'.streams id).mark = some (markerTok n (m == 2))) ∧
         (∀ id, input id = false → mfind ls'.streams id = mfind ls.streams id) ∧
         ∀ t x, (t, x) ∈ ls.tiles → mwf ls.tiles = true → ∃ x', tileOf ls' t = some x' ∧ x'.act = x.act ∧
           (∀ k ∈ ctxs x.act, boundIn x.act k = [] → (ctxOf x' k).mark = some n) ∧
           ∀ k, boundIn x.act k ≠ [] → (ctxOf x' k).mark = (ctxOf x k).mark) ∧
       (m = 3 → Gives (.drain xd xa) s fun t => gave t 0 ∧ (ls.markerMode = true →
         (ls.round = none ∨ ∃ r, ls.round = some r ∧ r.isHold = true ∧ r.shunter = false) → ∃ ls', leaseOf t l = some ls' ∧
           ls'.markerMode = false ∧ ls'.round = none ∧ ∀ e ∈ ls'.tiles, ∀ c ∈ e.2.ctx, c.2.hold = false ∧ c.2.mark = none))) ∧
     (∀ n, q.op = .drain n →
       (roundDone ls n = true → Gives (.drain xd xa) s fun t => gave t n ∧ ∃ ls', leaseOf t l = some ls' ∧ ls'.mround = n) ∧
       (roundDone ls n = false → exec (.drain xd xa) s = .next s)))

/-- R277: an engine operation whose descriptor reads and is well formed takes the next ticket while fewer than 64 are
outstanding, and is added to the lease's operations; with 64 outstanding it waits with its descriptor for a place; misaligned or
poisoned operands fault first.
R284: EWAIT in ticket mode gives DONE, FAULTED or NONE and waits while the ticket runs; in sync mode it checks its
address and asks the word's home; poisoned operands fault. -/
def Obligations.engines_issue_and_ewait : Prop :=
  (∀ (s : State) (l : Nat) (ls : Lease) (xd xa xb : BitVec 5) (sync : Bool) (k : BitVec 2),
     SoloTurn s l ls [xd, xa, xb] →
     let q := ls.seq
     let va := (xget q xa).toNat
     let sw := (xget q xb).toNat
     let ticket := if ls.ticket = 0xFFFF then 1 else ls.ticket + 1
     let waiting (s1 : State) (kind : EngKind) : State := updSeq s1 l false fun q => { q with op := .engine kind }
     let began (i : Instr) (ls1 : Lease) (kind : EngKind) : Prop :=
       Gives i s fun t => ∃ ls' e, leaseOf t l = some ls' ∧ ls'.ticket = ticket ∧ ls'.seq.pc = ls1.seq.pc + 4 ∧
         (xd ≠ 0 → xget ls'.seq xd = BitVec.ofNat 64 ticket ∧ xpois ls'.seq xd = false) ∧ mfind ls'.tstat ticket = some 2 ∧
         ls'.engines = ls1.engines ++ [e] ∧ e.ticket = ticket ∧ e.shadow = k.toNat ∧ e.sync = (if sync then some sw else none) ∧
         e.after = nunion q.ord.outR q.ord.outW ∧ e.floor = max q.ord.floor (max q.ord.lastR q.ord.lastW) ∧ e.kind = kind
     let E (i : Instr) (rd : State → Nat → Nat → EngRes) : Prop :=
       (∀ kind, q.op = .engine kind → (64 ≤ ls.engines.length → exec i s = .next (waiting s kind)) ∧
         (ls.engines.length < 64 → began i ls kind)) ∧
       (q.op = .none →
       (xpois q xa = true → exec i s = .next (seqFault s l false cPADDR va)) ∧
       (xpois q xa = false → sync = true → xpois q xb = true → exec i s = .next (seqFault s l false cPADDR sw)) ∧
       (xpois q xa = false → (sync = true → xpois q xb = false) →
         (va % 16 ≠ 0 → exec i s = .next (seqFault s l false cALIGN va)) ∧
         (va % 16 = 0 → sync = true → sw % 16 ≠ 0 → exec i s = .next (seqFault s l false cALIGN sw)) ∧
         (va % 16 = 0 → (sync = true → sw % 16 = 0) →
           (∀ c a s1, rd s l va = .bad c a s1 → exec i s = .next (seqFault s1 l false c a)) ∧
           (∀ kind s1, rd s l va = .ok kind s1 → 64 ≤ ls.engines.length → exec i s = .next (waiting s1 kind)) ∧
           (∀ kind s1 ls1, rd s l va = .ok kind s1 → ls.engines.length < 64 → leaseOf s1 l = some ls1 → began i ls1 kind))))
     E (.ecopy xd xa xb sync k) rdCopy ∧ E (.egath xd xa xb sync k) rdGath ∧ E (.ecoll xd xa xb sync k) rdColl) ∧
  (∀ (s : State) (l : Nat) (ls : Lease) (xd xa xb : BitVec 5), SoloTurn s l ls [xd, xa, xb] → ls.seq.op = .none →
     let q := ls.seq
     let n := (xget q xa).toNat % 2 ^ 16
     let ea := (xget q xb).toNat
     let gave (t : State) (v : Nat) : Prop := ∃ ls', leaseOf t l = some ls' ∧
       (xd ≠ 0 → xget ls'.seq xd = BitVec.ofNat 64 v ∧ xpois ls'.seq xd = false) ∧ ls'.seq.pc = q.pc + 4
     (xpois q xa = true → exec (.ewait xd xa xb) s = .next (seqFault s l false cPCTL 0)) ∧
     (xpois q xa = false → xb = 0 →
       (mfind ls.tstat n = none → Gives (.ewait xd xa xb) s fun t => gave t 3) ∧
       (mfind ls.tstat n = some 0 → Gives (.ewait xd xa xb) s fun t => gave t 0 ∧
         ∃ ls', leaseOf t l = some ls' ∧ tickOf s (anchorDie ls) ≤ ls'.seq.ord.floor) ∧
       (mfind ls.tstat n = some 1 → Gives (.ewait xd xa xb) s fun t => gave t 1) ∧
       (mfind ls.tstat n = some 2 → exec (.ewait xd xa xb) s = .next s)) ∧
     (xpois q xa = false → xb ≠ 0 →
       (xpois q xb = true → exec (.ewait xd xa xb) s = .next (seqFault s l false cPADDR ea)) ∧
       (xpois q xb = false → ea % 16 ≠ 0 → exec (.ewait xd xa xb) s = .next (seqFault s l false cALIGN ea)) ∧
       (xpois q xb = false → ea % 16 = 0 → 2 ^ 56 ≤ ea → exec (.ewait xd xa xb) s = .next (seqFault s l false cTRANS ea)) ∧
       (xpois q xb = false → ea % 16 = 0 → ea < 2 ^ 56 → Gives (.ewait xd xa xb) s fun t =>
         ∃ r p, reqOf t s.nextId = some r ∧ r.op = .swait n ∧ r.acq = true ∧ r.scope = .panel ∧ r.parts = [p] ∧ p.va = ea ∧
           p.len = 16)))

/-- R285, R286: a LAUNCH whose record reads takes the lowest free child number and queues the child, gives QUOTA or
CHILDREN instead when the tenant's quota or the numbers are spent, and LAUNCHR draws on the child reserve, waiting with its record where
that has too little left; JOIN gives the
end status of an ended child and frees its number, waits for a running one, and faults JOIN_NONE for any other. -/
def Obligations.launch_and_join : Prop :=
  ∀ (s : State) (l : Nat) (ls : Lease) (xd xa : BitVec 5), SoloTurn s l ls [xd, xa] → ls.seq.op = .none →
    let q := ls.seq
    let va := (xget q xa).toNat
    let n := (xget q xa).toNat % 2 ^ 8
    let gave (t : State) (v : Nat) : Prop := ∃ ls', leaseOf t l = some ls' ∧
      (xd ≠ 0 → xget ls'.seq xd = BitVec.ofNat 64 v) ∧ ls'.seq.pc = q.pc + 4
    (∀ i ∈ [Instr.launch xd xa, Instr.launchr xd xa],
      (xpois q xa = true → exec i s = .next (seqFault s l false cPADDR va)) ∧
      (xpois q xa = false → va % 64 ≠ 0 → exec i s = .next (seqFault s l false cALIGN va))) ∧
    (xpois q xa = false → va % 64 = 0 → ∀ r s1 ls1, readRec s l va = .ok r s1 → leaseOf s1 l = some ls1 → ls1.seq.pc = q.pc →
      let v := vfOf s1 ls.tenant
      (v.tquota < v.tused + 4 * r.w * r.h + r.reserve → Gives (.launch xd xa) s fun t => gave t (2 ^ 63 + 1)) ∧
      (v.tused + 4 * r.w * r.h + r.reserve ≤ v.tquota → freeChild ls = none →
        Gives (.launch xd xa) s fun t => gave t (2 ^ 63 + 2)) ∧
      (∀ c, v.tused + 4 * r.w * r.h + r.reserve ≤ v.tquota → freeChild ls = some c →
        Gives (.launch xd xa) s fun t => gave t c ∧ t.cands = s1.cands ++ [⟨some l, ls.queue, ls.tenant, c, r, false, ls.paired⟩]) ∧
      (∀ c, freeChild ls = some c → ls.lrec.reserve < 4 * r.w * r.h →
        exec (.launchr xd xa) s = .next (seqFault s1 l false cCONFIG va)) ∧
      (∀ c, freeChild ls = some c → 4 * r.w * r.h ≤ ls.lrec.reserve → reserveLeft ls < 4 * r.w * r.h →
        exec (.launchr xd xa) s = .next (updSeq s1 l false fun q => { q with op := .launch r })) ∧
      (∀ c, freeChild ls = some c → 4 * r.w * r.h ≤ ls.lrec.reserve → 4 * r.w * r.h ≤ reserveLeft ls →
        Gives (.launchr xd xa) s fun t => gave t c ∧ t.cands = s1.cands ++ [⟨some l, ls.queue, ls.tenant, c, r, true, ls.paired⟩])) ∧
    (xpois q xa = true → exec (.join xd xa) s = .next (seqFault s l false cPCTL 0)) ∧
    (xpois q xa = false →
      (mfind ls.children n = none → exec (.join xd xa) s = .next (seqFault s l false cJOIN n)) ∧
      (∀ c, mfind ls.children n = some c → c.ended = none → exec (.join xd xa) s = .next s) ∧
      (∀ c st, mfind ls.children n = some c → c.ended = some st → Gives (.join xd xa) s fun t => gave t st ∧
        ∃ ls', leaseOf t l = some ls' ∧ mfind ls'.children n = none))

/-! ### Words of elements -/

/-- R302, R192: the integer operations on each element: the exact result, wrapped, or clamped with .S. -/
def Obligations.integer_lanes : Prop :=
  ∀ (ty : ETy) (d : Dst) (v : BitVec 4) (a b : Src) (m : Msk) (sat : Bool),
    let A (l : List Nat) : Int := num ty (l.getD 0 0)
    let B (l : List Nat) : Int := num ty (l.getD 1 0)
    let C (l : List Nat) : Int := num ty (l.getD 2 0)
    let E2 (i : Instr) (f : List Nat → Int) : Prop := Elementwise i ty 0 d [a, b] m fun l => (enc ty (f l), 0)
    let E1 (i : Instr) (f : List Nat → Int) : Prop := Elementwise i ty 0 d [a] m fun l => (enc ty (f l), 0)
    let S (z : Int) : Int := if sat then clamp ty z else z
    E2 (.vadd ty d a b m sat) (fun l => S (A l + B l)) ∧ E2 (.vsub ty d a b m sat) (fun l => S (A l - B l)) ∧
    E2 (.vmul ty d a b m sat) (fun l => S (A l * B l)) ∧ E2 (.vmulh ty d a b m) (fun l => A l * B l / 2 ^ tyW ty) ∧
    E2 (.vmin ty d a b m) (fun l => min (A l) (B l)) ∧ E2 (.vmax ty d a b m) (fun l => max (A l) (B l)) ∧
    E1 (.vabs ty d a m) (fun l => |A l|) ∧ E1 (.vneg ty d a m) (fun l => - A l) ∧
    Elementwise (.vmac ty v a b m) ty 0 (.v v) [.v v, a, b] m (fun l => (enc ty (A l + B l * C l), 0))

/-- R302, R305: bitwise operations, shifts by the low bits of the element's own b, bit counts and integer compares.
R306 to R308: VSEL takes each element from a where d is not zero and from b elsewhere; VMOV copies data, poison, tag
and aux; VLI gives its immediate in every element, clean. -/
def Obligations.bit_and_move_lanes : Prop :=
  (∀ (ty : ETy) (d : Dst) (a b : Src) (m : Msk) (c : Cond),
     let w := tyW ty
     let X (l : List Nat) : Nat := l.getD 0 0
     let Y (l : List Nat) : Nat := l.getD 1 0
     let E2 (i : Instr) (tag : BitVec 3) (f : List Nat → Nat) : Prop := Elementwise i ty tag d [a, b] m fun l => (f l, 0)
     let E1 (i : Instr) (tag : BitVec 3) (f : List Nat → Nat) : Prop := Elementwise i ty tag d [a] m fun l => (f l, 0)
     let holds (p q : Int) : Prop := match c with
       | .eq => p = q | .ne => p ≠ q | .lt => p < q | .le => p ≤ q | .gt => q < p | .ge => q ≤ p | .un => False
     E2 (.vand ty d a b m) (tyTag ty) (fun l => X l &&& Y l) ∧ E2 (.vor ty d a b m) (tyTag ty) (fun l => X l ||| Y l) ∧
     E2 (.vxor ty d a b m) (tyTag ty) (fun l => X l ^^^ Y l) ∧ E1 (.vnot ty d a m) (tyTag ty) (fun l => 2 ^ w - 1 - X l) ∧
     E2 (.vshl ty d a b m) 0 (fun l => X l * 2 ^ (Y l % w)) ∧ E2 (.vshr ty d a b m) 0 (fun l => X l / 2 ^ (Y l % w)) ∧
     E2 (.vsha ty d a b m) 0 (fun l => (BitVec.ofInt w ((BitVec.ofNat w (X l)).toInt / 2 ^ (Y l % w))).toNat) ∧
     E1 (.vpopc ty d a m) 0 (fun l => ((List.range w).map fun i => ((X l).testBit i).toNat).sum) ∧
     E1 (.vclz ty d a m) 0 (fun l => if X l = 0 then w else w - 1 - Nat.log2 (X l)) ∧
     ∃ f : List Nat → Nat, E2 (.vcmp ty d a b m c) 0 f ∧
       ∀ l, (holds (num ty (X l)) (num ty (Y l)) → f l = 2 ^ w - 1) ∧ (¬ holds (num ty (X l)) (num ty (Y l)) → f l = 0)) ∧
  (∀ (ty : ETy) (d : Dst) (v : BitVec 4) (a b : Src) (m : Msk) (imm : BitVec 16),
     (WholeToken (.vmov d a m) .i32 d [a] m fun _ _ _ ts r fl => r = ts.getD 0 Tok.zero ∧ fl = 0) ∧
     (WholeToken (.vli ty d imm) ty d [] none fun _ _ _ _ r fl => r.tag = tyTag ty ∧ r.aux = 0 ∧ r.pois = 0 ∧ fl = 0 ∧
       ∀ e, e < tyN ty → elemAt (tyW ty) r.data e =
         match ty with
         | .i32 => (imm.signExtend 32).toNat | .i64 => (imm.signExtend 64).toNat | .f32 => imm.toNat * 2 ^ 16
         | .i8 => imm.toNat % 2 ^ 8 | .u32 => imm.toNat | .i16 => imm.toNat | .bf16 => imm.toNat | .f16 => imm.toNat) ∧
     ∀ (s : State) (l t k : Nat) (ls : Lease) (x : Tile) (fi : Firing) (p y z : Tok),
       LaneReady s l t k ls x fi ty (.v v) [.v v, a, b] [p, y, z] →
       let w := tyW ty
       let on := activeOf (ctxOf x k) m
       Gives (.vsel ty v a b m) s fun s' => ∃ tok, ElemResult s s' l t k ls x fi (.v v) tok 0 ∧ tok.tag = tyTag ty ∧
         ∀ e, e < tyN ty → elemAt w tok.data e =
           if elemOn w on e then (if elemAt w p.data e = 0 then elemAt w z.data e else elemAt w y.data e)
           else elemAt w (dstOld (ctxOf x k) (.v v)).data e)

/-- R303, R304: the floating-point operations act on each element in the format of their type, with the results of R195,
R196 and R213, and set the type's tag; FCMP and FCLS set tag 0. -/
def Obligations.float_lanes : Prop :=
  ∀ (ty : ETy) (f : FFmt) (d : Dst) (v : BitVec 4) (a b : Src) (m : Msk) (c : Cond), tyF ty = some f →
    let X (l : List Nat) : Nat := l.getD 0 0
    let Y (l : List Nat) : Nat := l.getD 1 0
    let Z (l : List Nat) : Nat := l.getD 2 0
    let E2 (i : Instr) (g : List Nat → Nat × Flg) : Prop := Elementwise i ty (tyTag ty) d [a, b] m g
    let E1 (i : Instr) (g : List Nat → Nat × Flg) : Prop := Elementwise i ty (tyTag ty) d [a] m g
    let E3 (i : Instr) (g : List Nat → Nat × Flg) : Prop := Elementwise i ty (tyTag ty) (.v v) [.v v, a, b] m g
    E2 (.fadd ty d a b m) (fun l => addV f (decF f (X l)) (decF f (Y l))) ∧
    E2 (.fsub ty d a b m) (fun l => addV f (decF f (X l)) (negV (decF f (Y l)))) ∧
    E2 (.fmul ty d a b m) (fun l => fMul f (X l) (Y l)) ∧ E2 (.fdiv ty d a b m) (fun l => fDiv f (X l) (Y l)) ∧
    E3 (.ffma ty v a b m) (fun l => fmaV f (decF f (Y l)) (decF f (Z l)) (decF f (X l))) ∧
    E3 (.ffms ty v a b m) (fun l => fmaV f (decF f (Y l)) (decF f (Z l)) (negV (decF f (X l)))) ∧
    E2 (.fmin ty d a b m) (fun l => fMinMax f false (X l) (Y l)) ∧ E2 (.fmax ty d a b m) (fun l => fMinMax f true (X l) (Y l)) ∧
    E1 (.fabs ty d a m) (fun l => fAbs f (X l)) ∧ E1 (.fneg ty d a m) (fun l => fNeg f (X l)) ∧
    E1 (.fsqrt ty d a m) (fun l => fSqrt f (X l)) ∧ E1 (.frsq ty d a m) (fun l => fRsq f (X l)) ∧
    E1 (.fex2 ty d a m) (fun l => fEx2 f (X l)) ∧ E1 (.flg2 ty d a m) (fun l => fLg2 f (X l)) ∧
    Elementwise (.fcmp ty d a b m c) ty 0 d [a, b] m
      (fun l => (if (fCmp f c (X l) (Y l)).1 then 2 ^ tyW ty - 1 else 0, (fCmp f c (X l) (Y l)).2)) ∧
    Elementwise (.fcls ty d a m) ty 0 d [a] m (fun l => (fCls f (X l), 0))

/-- R193 to R196, R206: a finite value of a format rounds to itself, without flags, in every mode; a NaN operand gives the
canonical NaN of the format, NV when it signals; x / 0 gives an infinity with DZ, 0 / 0 a NaN with NV.
R309 to R311: CVT converts element by element in the element's rounding mode, SCL scales by a power of two, BFPK packs
the active lanes into a block whose exponent is in aux and whose tag is 6, BFUP unpacks one into F32. -/
def Obligations.rounding_and_conversions : Prop :=
  (∀ f ∈ [f32, bf16, f16, e5m2, e4m3], ∀ x y : Nat, x < 2 ^ f.width → y < 2 ^ f.width →
     (∀ neg m e mode sat draw, decF f x = .fin neg m e → draw < 2 ^ 16 → roundF f mode sat draw neg m e false = (x, 0)) ∧
     (∀ sg, decF f x = .nan sg → fAbs f x = (f.nan, if sg then fNV else 0) ∧ fNeg f x = (f.nan, if sg then fNV else 0) ∧
       (∀ n m e, decF f y = .fin n m e → fAdd f x y = (f.nan, if sg then fNV else 0) ∧
         fMul f x y = (f.nan, if sg then fNV else 0) ∧ fDiv f x y = (f.nan, if sg then fNV else 0) ∧
         (fMinMax f true x y).1 = y ∧ (fMinMax f false x y).1 = y)) ∧
     (∀ n m e n' e', decF f x = .fin n m e → decF f y = .fin n' 0 e' →
       fDiv f x y = if m = 0 then (f.nan, fNV) else (withSign f (n != n') f.inf, fDZ))) ∧
  (∀ (ty : ETy) (dst src : CFmt) (d : Dst) (a b : Src) (m : Msk) (w : BitVec 4) (s : State) (l t k : Nat) (ls : Lease) (x : Tile)
     (fi : Firing) (u v : Tok), convMode x ≠ .sr →
     let c := ctxOf x k
     let on := activeOf c m
     let old := dstOld c d
     let wd := cfWidth dst
     let ws := cfWidth src
     (LaneReady s l t k ls x fi (cfTy dst) d [a] [u] → Gives (.cvt dst src d a m) s fun s' => ∃ tok fl,
       ElemResult s s' l t k ls x fi d tok fl ∧ tok.tag = cfTag dst ∧ tok.aux = 0 ∧
       ∀ e, e < 768 / wd → elemAt wd tok.data e =
         if on.getLsbD (wd * e / 32) then
           (if e < min (768 / wd) (768 / ws) then (convert src dst (convMode x) (convSat x) 0 (elemAt ws u.data e)).1 % 2 ^ wd else 0)
         else elemAt wd old.data e) ∧
     (LaneReady s l t k ls x fi ty d [a, b] [u, v] → ∀ f, tyF ty = some f → Gives (.scl ty d a b m) s fun s' => ∃ tok fl,
       ElemResult s s' l t k ls x fi d tok fl ∧ tok.tag = tyTag ty ∧
       ∀ e, e < tyN ty → elemAt (tyW ty) tok.data e =
         if elemOn (tyW ty) on e then
           (scale f (convMode x) (convSat x) 0 (elemAt (tyW ty) u.data e)
             (BitVec.ofNat 32 (laneAt v.data (tyW ty * e / 32))).toInt).1 % 2 ^ tyW ty
         else elemAt (tyW ty) old.data e) ∧
     (LaneReady s l t k ls x fi .f32 d [a] [u] → Gives (.bfpk d a w m) s fun s' => ∃ tok fl,
       ElemResult s s' l t k ls x fi d tok fl ∧ tok.tag = 6 ∧
       (tok.pois = if (u.pois &&& on) = 0 then 0 else allLanes) ∧
       ((∃ j, j < 24 ∧ on.getLsbD j = true ∧ ∀ n k e, decF f32 (laneAt u.data j) ≠ .fin n k e) →
         tok.aux = 0xFF ∧ tok.data = 0) ∧
       ∀ j, j < 24 → on.getLsbD j = false → laneAt tok.data j = 0) ∧
     (LaneReady s l t k ls x fi .f32 d [a] [u] → Gives (.bfup d a w m) s fun s' => ∃ tok,
       ElemResult s s' l t k ls x fi d tok 0 ∧ tok.tag = 1 ∧
       ∀ j, j < 24 → laneAt tok.data j =
         if on.getLsbD j then bfpUp w.toNat u.aux.toNat (laneAt u.data j) % 2 ^ 32 else laneAt old.data j))

/-- R211's tree over the first `2^n` places of a list: the sum of its two halves; an absent leaf adds nothing and raises nothing. -/
def pairTree (add : Nat → Nat → Nat × Flg) : Nat → List (Option Nat) → Option Nat × Flg
  | 0, l => (l.headD none, 0)
  | n + 1, l =>
    let x := pairTree add n (l.take (2 ^ n))
    let y := pairTree add n (l.drop (2 ^ n))
    match x.1, y.1 with
    | some p, some q => (some (add p q).1, (add p q).2 ||| x.2 ||| y.2)
    | some p, none => (some p, x.2 ||| y.2)
    | none, q => (q, x.2 ||| y.2)

/-- R194, R211, R212, R312: a reduction fills the active lanes with one element, with the type's tag: the sum by the fixed pairwise
tree over the elements of active lanes, or the greatest or the least of them (of an integer type: its minimum or maximum where none
is active; of a floating-point type: quiet NaNs are ignored, and a NaN result is the canonical one); a poisoned active lane poisons
every active lane, with no flag; otherwise the flags are those of the nodes, with NV for a signalling NaN.
R313: the permutes give each lane of the active elements the lane (or byte, or element) that the rule names, with its
poison and that of its index, and a zero from outside, clean but for its index; R315, R156: the poison operations, lane by lane, give
the poison mask as data, clear it, fill poisoned lanes from b, or add lanes to it (a poisoned mask faults). None of these raises a
flag, and inactive lanes keep data and poison. -/
def Obligations.reductions_and_permutes : Prop :=
  (∀ (ty : ETy) (d : Dst) (a : Src) (m : Msk),
     let leaves (on : LaneMask) (u : Tok) : List (Option Nat) :=
       (List.range (tyN ty)).map fun e => if elemOn (tyW ty) on e then some (elemAt (tyW ty) u.data e) else none
     let add (p q : Nat) : Nat × Flg := match tyF ty with
       | some f => fAdd f p q
       | none => ((p + q) % 2 ^ tyW ty, 0)
     let nan (v : Nat) : Bool := match tyF ty with
       | some f => (match decF f v with | .nan _ => true | _ => false)
       | none => false
     let signalling (q : List (Option Nat)) : Flg := match tyF ty with
       | some f => if (q.filterMap id).any (fun v => match decF f v with | .nan true => true | _ => false) then fNV else 0
       | none => 0
     let fills (i : Instr) (f : List (Option Nat) → Nat → Flg → Prop) : Prop := WholeToken i ty d [a] m fun _ _ on ts r fl =>
       ∃ v fv, f (leaves on (ts.getD 0 Tok.zero)) v fv ∧ r.tag = tyTag ty ∧ r.aux = 0 ∧
         (∀ e, e < tyN ty → elemAt (tyW ty) r.data e = v % 2 ^ tyW ty) ∧
         (if ((ts.getD 0 Tok.zero).pois &&& on) = 0 then r.pois = 0 ∧ fl = fv else r.pois = allLanes ∧ fl = 0)
     let most (big : Bool) (q : List (Option Nat)) (v : Nat) (fv : Flg) : Prop := fv = signalling q ∧
       match tyF ty with
       | none =>
         ((∀ u ∈ q, u = none) → num ty v = if big then (if ty = .u32 then 0 else -(2 ^ (tyW ty - 1)))
           else (if ty = .u32 then 2 ^ 32 - 1 else 2 ^ (tyW ty - 1) - 1)) ∧
         ((∃ u ∈ q, u ≠ none) → some v ∈ q ∧ ∀ u, some u ∈ q → if big then num ty u ≤ num ty v else num ty v ≤ num ty u)
       | some f =>
         ((∀ u, some u ∈ q → nan u = true) → v = f.nan) ∧
         ∀ u r, (q.filterMap id).filter (fun w => !nan w) = u :: r → v = r.foldl (fun b w => (fMinMax f big b w).1) u
     fills (.rsum ty d a m) (fun q v fv => fv = (pairTree add 6 q).2 ||| signalling q ∧
       v = match tyF ty with
         | some f => if nan ((pairTree add 6 q).1.getD 0) then f.nan else (pairTree add 6 q).1.getD 0
         | none => (pairTree add 6 q).1.getD 0) ∧
     fills (.rmax ty d a m) (most true) ∧ fills (.rmin ty d a m) (most false)) ∧
  (∀ (ty : ETy) (d : Dst) (a b : Src) (n : BitVec 5) (m : Msk),
     let T (ts : List Tok) (i : Nat) : Tok := ts.getD i Tok.zero
     let w := tyW ty
     let perm (i : Instr) (srcs : List Src) (data : List Tok → Tok → Prop) (pois : List Tok → Nat → Bool) : Prop :=
       ∀ (s : State) (l t k : Nat) (ls : Lease) (x : Tile) (fi : Firing) (ts : List Tok), LaneReady s l t k ls x fi ty d srcs ts →
         let old := dstOld (ctxOf x k) d
         let on (j : Nat) : Bool := elemOn w (activeOf (ctxOf x k) m) (laneElem w j)
         Gives i s fun s' => ∃ tok r, ElemResult s s' l t k ls x fi d tok 0 ∧ tok.tag = tyTag ty ∧ tok.aux = 0 ∧ data ts r ∧
           ∀ j, j < 24 → laneAt tok.data j = (if on j then laneAt r.data j else laneAt old.data j) ∧
             tok.pois.getLsbD j = if on j then pois ts j else old.pois.getLsbD j
     let lanes (i : Instr) (srcs : List Src) (f : List Tok → Nat → Nat × Bool) : Prop :=
       perm i srcs (fun ts r => ∀ j, j < 24 → laneAt r.data j = (f ts j).1) (fun ts j => (f ts j).2)
     let at_ (u : Tok) (j : Int) : Nat × Bool := if 0 ≤ j ∧ j < 24 then (laneAt u.data j.toNat, u.pois.getLsbD j.toNat) else (0, false)
     let by_ (v : Nat × Bool) (p : Bool) : Nat × Bool := (v.1, v.2 || p)
     let each (i : Instr) (srcs : List Src) (tag : BitVec 3) (f : List Tok → Nat → Nat × Bool) : Prop :=
       WholeToken i ty d srcs m fun _ _ _ ts r fl => r.tag = tag ∧ r.aux = 0 ∧ fl = 0 ∧
         ∀ j, j < 24 → laneAt r.data j = (f ts j).1 ∧ r.pois.getLsbD j = (f ts j).2
     lanes (.perm ty d a b m) [a, b] (fun ts j => by_ (at_ (T ts 0) (laneAt (T ts 1).data j % 32 : Nat)) ((T ts 1).pois.getLsbD j)) ∧
     lanes (.lshf ty d a b m) [a, b] (fun ts j =>
       by_ (at_ (T ts 0) ((j : Int) - (BitVec.ofNat 32 (laneAt (T ts 1).data 0)).toInt)) ((T ts 1).pois.getLsbD 0)) ∧
     lanes (.bcst ty d a n m) [a] (fun ts _ => at_ (T ts 0) n.toNat) ∧
     (let byte (ts : List Tok) (q : Nat) : Nat := elemAt 8 (T ts 1).data q % 128
      perm (.bperm ty d a b m) [a, b]
       (fun ts r => ∀ q, q < 96 → elemAt 8 r.data q = if byte ts q < 96 then elemAt 8 (T ts 0).data (byte ts q) else 0)
       (fun ts j => (T ts 1).pois.getLsbD j || (List.range 4).any fun i =>
         decide (byte ts (4 * j + i) < 96) && (T ts 0).pois.getLsbD (byte ts (4 * j + i) / 4))) ∧
     perm (.shuf ty d a b m) [a, b]
       (fun ts r => ∀ e, e < tyN ty → elemAt w r.data e = elemAt w (T ts (e % 2)).data (e / 2))
       (fun ts j => (List.range (tyN ty)).any fun e => (elemLanes w e).contains j && elemPois w (T ts (e % 2)).pois (e / 2)) ∧
     each (.ptst ty d a m) [a] 0 (fun ts _ => ((T ts 0).pois.toNat, false)) ∧
     each (.elementPclr ty d a m) [a] (tyTag ty) (fun ts j => (laneAt (T ts 0).data j, false)) ∧
     each (.pfil ty d a b m) [a, b] (tyTag ty) (fun ts j =>
       (laneAt (if (T ts 0).pois.getLsbD j then (T ts 1).data else (T ts 0).data) j, (T ts 0).pois.getLsbD j && (T ts 1).pois.getLsbD j)) ∧
     (∀ (s : State) (l t k : Nat) (ls : Lease) (x : Tile) (fi : Firing) (y z : Tok), LaneReady s l t k ls x fi ty d [a, b] [y, z] →
       let old := dstOld (ctxOf x k) d
       (z.pois.getLsbD 0 = true → exec (.pset ty d a b m) s = .next (wordFault s l t k ls x (ctxOf x k) fi cPCTL 0)) ∧
       (z.pois.getLsbD 0 = false → Gives (.pset ty d a b m) s fun s' => ∃ tok, ElemResult s s' l t k ls x fi d tok 0 ∧
         tok.tag = tyTag ty ∧ tok.aux = 0 ∧ ∀ j, j < 24 → if (activeOf (ctxOf x k) m).getLsbD j then
           laneAt tok.data j = laneAt y.data j ∧ tok.pois.getLsbD j = (y.pois.getLsbD j || (laneAt z.data 0).testBit j)
         else laneAt tok.data j = laneAt old.data j ∧ tok.pois.getLsbD j = old.pois.getLsbD j)))

/-- R216, R314: the modular operations on pairs, with q, μ and the twiddle factor from the handler's K: for reduced
operands the result is reduced and congruent; a q out of range gives 0 and NV; a damaged word among these constants faults
POISON_CONTROL (R143). -/
def Obligations.modular_lanes : Prop :=
  ∀ (d : Dst) (v : BitVec 4) (a b : Src) (m : Msk),
    let ok (q : Nat) : Prop := 2 ≤ q ∧ q < 2 ^ 62
    let words (i : Instr) (g : Nat → Nat → Nat → Nat → Nat) : Prop :=
      ∀ (s : State) (l t k : Nat) (ls : Lease) (x : Tile) (fi : Firing) (y z : Tok), LaneReady s l t k ls x fi .i64 d [a, b] [y, z] →
        let K (j : Nat) : Nat := elemAt 64 (kTok x.act fi.h).data j
        let on := activeOf (ctxOf x k) m
        (kBad x fi = true → exec i s = .next (wordFault s l t k ls x (ctxOf x k) fi cPCTL 0)) ∧
        (kBad x fi = false → Gives i s fun s' => ∃ tok fl, ElemResult s s' l t k ls x fi d tok fl ∧ tok.tag = 0 ∧
          (∀ e, e < 12 → elemOn 64 on e = true →
            (ok (K 0) → elemAt 64 tok.data e = g (K 0) (K 1) (elemAt 64 y.data e) (elemAt 64 z.data e) % 2 ^ 64) ∧
            (¬ ok (K 0) → elemAt 64 tok.data e = 0)) ∧
          (ok (K 0) → fl = 0) ∧
          (¬ ok (K 0) → (∃ e, e < 12 ∧ elemOn 64 on e = true ∧ elemPois 64 (y.pois ||| z.pois) e = false) → fl = fNV))
    words (.mmul d a b m) (fun q mu p r => mMul q mu p r) ∧ words (.madd d a b m) (fun q _ p r => mAdd q p r) ∧
    words (.msub d a b m) (fun q _ p r => mSub q p r) ∧
    (∀ q p r, ok q → p < q → r < q → mAdd q p r = (p + r) % q ∧ mSub q p r = (p + q - r) % q) ∧
    (∀ q mu p r, ok q → p < q → r < q → mu = 4 ^ (Nat.log2 q + 1) / q → mMul q mu p r = p * r % q) ∧
    ∀ (s : State) (l t k : Nat) (ls : Lease) (x : Tile) (fi : Firing) (y z : Tok), v.toNat < 15 →
      LaneReady s l t k ls x fi .i64 (.v v) [a, b] [y, z] →
      let K (j : Nat) : Nat := elemAt 64 (kTok x.act fi.h).data j
      ok (K 0) → kBad x fi = false → activeOf (ctxOf x k) m = allLanes →
      Gives (.nttb v a b m) s fun s' => ∃ c', OnlyCtx s s' l t k ls x c' ∧ c'.fire = some (moved fi 1) ∧
        ∀ e, e < 12 →
          elemAt 64 (mget Tok.zero c'.v v.toNat).data e =
            mAdd (K 0) (elemAt 64 y.data e) (mMul (K 0) (K 1) (K 2) (elemAt 64 z.data e)) % 2 ^ 64 ∧
          elemAt 64 (mget Tok.zero c'.v (v.toNat + 1)).data e =
            mSub (K 0) (elemAt 64 y.data e) (mMul (K 0) (K 1) (K 2) (elemAt 64 z.data e)) % 2 ^ 64

/-- R168, R169, R171, R316 to R321: WAITF and WAITE pass when enough tokens, or an EOS or MARKER, or enough room is there and
wait otherwise; ADV and PUB move that many slots and are counted; PEEK copies a slot and says what it found; EMIT publishes
one token; EOS sends its token; an unbound port faults CONFIG_INVALID and too few tokens PORT_OVERFLOW. -/
def Obligations.port_words : Prop :=
  ∀ (s : State) (l t k : Nat) (ls : Lease) (x : Tile) (fi : Firing) (p : BitVec 3) (o : BitVec 2) (n : BitVec 6) (d : Dst) (a : Src),
    ElemTurn s l t k ls x fi →
    let c := ctxOf x k
    let ahead := (inPort c p.toNat).q.take n.toNat
    let free := outFree x.act c k o.toNat
    let inc := incOf s ls t
    let fault (cause : Nat) (g : FRec → FRec) : State := wordFault s l t k ls x c fi cause 0 g
    let short (i : Instr) (port want have_ : Nat) : Prop :=
      exec i s = .next (fault cOVERFLOW fun r => { r with port := port, cnta := want, cntb := have_ })
    let stray (i : Instr) : Prop := exec i s = .next (fault cSTRAY fun r => { r with port := 8 + o.toNat })
    (∀ i ∈ [Instr.waitf p n, Instr.adv p n], bound x.act k p.toNat = false → exec i s = .next (fault cCONFIG id)) ∧
    (∀ i ∈ [Instr.waite o n, Instr.pub o n, Instr.emit o a], bound x.act k (8 + o.toNat) = false →
      exec i s = .next (fault cCONFIG id)) ∧
    (bound x.act k p.toNat = true →
      (depth x.act k p.toNat < n.toNat → short (.waitf p n) p.toNat n.toNat (dataAhead (inPort c p.toNat).q)) ∧
      (n.toNat ≤ depth x.act k p.toNat →
        (ahead.length = n.toNat ∨ (∃ u ∈ ahead, isData u = false) →
          Gives (.waitf p n) s fun s' => ElemMoves s s' l t k ls x fi (fi.pc + 1)) ∧
        (ahead.length ≠ n.toNat → (∀ u ∈ ahead, isData u = true) → exec (.waitf p n) s = .next s)) ∧
      (dataAhead (inPort c p.toNat).q < n.toNat → short (.adv p n) p.toNat n.toNat (dataAhead (inPort c p.toNat).q)) ∧
      (n.toNat ≤ dataAhead (inPort c p.toNat).q → Gives (.adv p n) s fun s' => ∃ c' f, OnlyCtx s s' l t k ls x c' ∧
        c'.fire = some f ∧ f.pc = fi.pc + 1 ∧ mget 0 f.adv p.toNat = mget 0 fi.adv p.toNat + n.toNat ∧
        inPort c' p.toNat = advMany x.act k p.toNat n.toNat (inPort c p.toNat) ∧
        ∀ j, j ≠ p.toNat → inPort c' j = inPort c j)) ∧
    (bound x.act k (8 + o.toNat) = true →
      (depth x.act k (8 + o.toNat) < n.toNat → short (.waite o n) (8 + o.toNat) n.toNat free) ∧
      (nhas c.eosSent o.toNat = true → stray (.pub o n) ∧ stray (.eos (some o))) ∧
      (nhas c.eosSent o.toNat = false → free < n.toNat → short (.pub o n) (8 + o.toNat) n.toNat free) ∧
      (n.toNat ≤ depth x.act k (8 + o.toNat) →
        (n.toNat ≤ free → Gives (.waite o n) s fun s' => ElemMoves s s' l t k ls x fi (fi.pc + 1)) ∧
        (free < n.toNat → exec (.waite o n) s = .next s)) ∧
      (nhas c.eosSent o.toNat = false → n.toNat ≤ free → Gives (.pub o n) s fun s' => ∃ c' f, OnlyCtx s s' l t k ls x c' ∧
        c'.fire = some f ∧ f.pc = fi.pc + 1 ∧ mget 0 f.pub o.toNat = mget 0 fi.pub o.toNat + n.toNat ∧
        (outPort c' o.toNat).pub = (outPort c o.toNat).pub ++
          (List.range n.toNat).map fun j => { mget Tok.zero (outPort c o.toNat).tail j with inc := inc }) ∧
      (∀ u, srcTok x k c fi .i32 a = .ok u → nhas c.eosSent o.toNat = false → free ≠ 0 →
        Gives (.emit o a) s fun s' => ∃ c' f, OnlyCtx s s' l t k ls x c' ∧ c'.fire = some f ∧ f.pc = fi.pc + 1 ∧
          mget 0 f.pub o.toNat = mget 0 fi.pub o.toNat + 1 ∧
          (outPort c' o.toNat).pub = (outPort c o.toNat).pub ++ [{ u with inc := inc }]) ∧
      (nhas c.eosSent o.toNat = false → free ≠ 0 → boundIn x.act k ≠ [] → Gives (.eos (some o)) s fun s' =>
        ∃ ls' x', leaseOf s' l = some ls' ∧ tileOf ls' t = some x' ∧
          (outPort (ctxOf x' k) o.toNat).pub = (outPort c o.toNat).pub ++ [{ eosTok with inc := inc }] ∧
          nhas (ctxOf x' k).eosSent o.toNat = true ∧ (ctxOf x' k).fire = some (moved fi 1))) ∧
    (bound x.act k p.toNat = true → dstBound x k d = true → dstFull x c k d = false →
      ∀ (slot : BitVec 6) u, (inPort c p.toNat).q[slot.toNat]? = some u →
        (∀ w ∈ (inPort c p.toNat).q.take (slot.toNat + 1), isData w = true) →
        Gives (.peek d p slot) s fun s' => ∃ c', OnlyCtx s s' l t k ls x c' ∧ dstOld c' d = { u with inc := 0 } ∧
          c'.pkst = 0 ∧ c'.fire = some (moved fi 1)) ∧
    (bound x.act k p.toNat = true → dstBound x k d = true → dstFull x c k d = false →
      ∀ (slot : BitVec 6) u, ((inPort c p.toNat).q.take (slot.toNat + 1)).find? (fun w => !isData w) = some u →
        Gives (.peek d p slot) s fun s' => ∃ c', OnlyCtx s s' l t k ls x c' ∧
          dstOld c' d = { Tok.zero with tag := 7, aux := BitVec.ofNat 8 (u.aux.toNat % 8) } ∧
          c'.pkst = (if isEos u then 1 else 2) ∧ c'.fire = some (moved fi 1))

/-- R167, R322 to R326: branches, loops, the group barrier, traps and EXIT of a firing. R327, R328: RDCT reads a control
register into lane 0 of a clean token; CTRW writes a mask register, ESTAT, HMASK or SKIP, and faults on a poisoned lane
0; an absent counter faults ILLEGAL_OP. -/
def Obligations.firing_control : Prop :=
  (∀ (s : State) (l t k : Nat) (ls : Lease) (x : Tile) (fi : Firing) (a : Src) (off : BitVec 11) (d : BitVec 4) (g code : BitVec 8),
     ElemTurn s l t k ls x fi →
     let c := ctxOf x k
     let dest : Int := fi.pc + off.toInt
     let inside : Prop := (hEntry x.act fi.h : Int) ≤ dest ∧ dest ≤ hWend x.act fi.h
     let fault (cause : Nat) (f : FRec → FRec) : State := wordFault s l t k ls x c fi cause 0 f
     let taken (i : Instr) (cond : Prop) : Prop :=
       (cond → inside → Gives i s fun s' => ElemMoves s s' l t k ls x fi dest.toNat) ∧
       (cond → ¬ inside → exec i s = .next (fault cBRANCH id))
     let tk := mget Tok.zero c.v d.toNat
     let n := (BitVec.ofNat 32 (laneAt tk.data 0)).toInt
     let e := mget (⟨0, 0, 0⟩ : Group) ls.groups (grpKey t g.toNat)
     (Gives .elementNop s fun s' => ElemMoves s s' l t k ls x fi (fi.pc + 1)) ∧
     taken (.br off) True ∧
     (∀ u, srcTok x k c fi .i32 a = .ok u →
       (u.pois.getLsbD 0 = true → exec (.bz a off) s = .next (fault cPCTL id) ∧ exec (.bnz a off) s = .next (fault cPCTL id)) ∧
       (u.pois.getLsbD 0 = false →
         taken (.bz a off) (laneAt u.data 0 = 0) ∧ taken (.bnz a off) (laneAt u.data 0 ≠ 0) ∧
         (laneAt u.data 0 ≠ 0 → Gives (.bz a off) s fun s' => ElemMoves s s' l t k ls x fi (fi.pc + 1)) ∧
         (laneAt u.data 0 = 0 → Gives (.bnz a off) s fun s' => ElemMoves s s' l t k ls x fi (fi.pc + 1)))) ∧
     (tk.pois.getLsbD 0 = true → exec (.loop d off) s = .next (fault cPCTL id)) ∧
     (tk.pois.getLsbD 0 = false → (1 < n → ¬ inside → exec (.loop d off) s = .next (fault cBRANCH id)) ∧
       ((n ≤ 1 ∨ inside) → Gives (.loop d off) s fun s' => ∃ c', OnlyCtx s s' l t k ls x c' ∧
         laneAt (mget Tok.zero c'.v d.toNat).data 0 = (BitVec.ofInt 32 (if 1 < n then n - 1 else 0)).toNat ∧
         c'.fire = some { moved fi 0 with pc := if 1 < n then dest.toNat else fi.pc + 1 })) ∧
     ((∀ g' gen, fi.wait ≠ .gbar g' gen) →
       (e.count = 0 ∨ g.toNat ∉ ctxGroups x.act k → exec (.gbar g) s = .next (fault cCONFIG id)) ∧
       (e.count ≠ 0 → g.toNat ∈ ctxGroups x.act k → Gives (.gbar g) s fun s' => ∃ ls' x', leaseOf s' l = some ls' ∧
         ls'.msgs = ls.msgs ++ [⟨.arrival, t, k, g.toNat⟩] ∧ tileOf ls' t = some x' ∧
         (ctxOf x' k).fire = some { fi with wait := .gbar g.toNat e.gen })) ∧
     (∀ g' gen, fi.wait = .gbar g' gen → (⟨.arrival, t, k, g.toNat⟩ : Msg) ∉ ls.msgs →
       (e.gen = gen → exec (.gbar g) s = .next s) ∧
       (e.gen ≠ gen → Gives (.gbar g) s fun s' => ElemMoves s s' l t k ls x fi (fi.pc + 1))) ∧
     exec (.elementTrap code) s = .next (fault cTRAP fun r => { r with code := code.toNat }) ∧
     (∀ w, exec (.nonInstr w) s = .next (fault cNONINSTR id) ∧ exec (.illegalOp w) s = .next (fault cILLEGAL id)) ∧
     ((∀ i, i < 8 → mget 0 fi.adv i = hCR x.act fi.h i) → (∀ j, j < 4 → mget 0 fi.pub j = hPR x.act fi.h j) →
       (gated x.act k = false ∨ c.goOpen = false ∨ fi.h ≠ doneH x.act k) →
       Gives .exit s fun s' => ∃ c', OnlyCtx s s' l t k ls x c' ∧ c'.fire = none ∧ c'.lastFired = mput c.lastFired (hPrio x.act fi.h) fi.h) ∧
     ((∀ i, i < 8 → mget 0 fi.adv i = hCR x.act fi.h i) → (∀ j, j < 4 → mget 0 fi.pub j = hPR x.act fi.h j) →
       gated x.act k = true → c.goOpen = true → fi.h = doneH x.act k →
       (c.goCnt + 1 < c.goLeft → Gives .exit s fun s' => ∃ c', OnlyCtx s s' l t k ls x c' ∧ c'.fire = none ∧
         c'.lastFired = mput c.lastFired (hPrio x.act fi.h) fi.h ∧ c'.goCnt = c.goCnt + 1 ∧ c'.goOpen = true) ∧
       (c.goLeft ≤ c.goCnt + 1 → Gives .exit s fun s' => ∃ ls' x', leaseOf s' l = some ls' ∧ tileOf ls' t = some x' ∧
         (ctxOf x' k).fire = none ∧ (ctxOf x' k).lastFired = mput c.lastFired (hPrio x.act fi.h) fi.h ∧ (ctxOf x' k).goOpen = false)) ∧
     (fi.noRate = false → (∃ i, i < 8 ∧ mget 0 fi.adv i ≠ hCR x.act fi.h i) ∨ (∃ j, j < 4 ∧ mget 0 fi.pub j ≠ hPR x.act fi.h j) →
       ∃ p n r, exec .exit s = .next (fault cRATE fun q => { q with port := p, cnta := n, cntb := r }) ∧ n ≠ r)) ∧
  (∀ (s : State) (l t k : Nat) (ls : Lease) (x : Tile) (fi : Firing) (d : Dst) (a : Src) (n : BitVec 11),
     ElemTurn s l t k ls x fi →
     let c := ctxOf x k
     let rd (m v : Nat) : Prop := n.toNat = m → dstBound x k d = true → dstFull x c k d = false →
       Gives (.rdct d n) s fun s' => ElemResult s s' l t k ls x fi d { Tok.zero with data := BitVec.ofNat 768 (v % 2 ^ 32) } 0
     let wr (m : Nat) (f : Ctx → Prop) : Prop := n.toNat = m →
       Gives (.ctrw a n) s fun s' => ∃ c', OnlyCtx s s' l t k ls x c' ∧ f c' ∧
         c' = { c with m := c'.m, estat := c'.estat, hmask := c'.hmask, skip := c'.skip, miss := c'.miss, fire := some (moved fi 1) }
     (4 ≤ n.toNat → n.toNat ≤ 9 → kindOf ls t ≠ 3 → exec (.rdct d n) s = .next (wordFault s l t k ls x c fi cILLEGAL 0)) ∧
     (∀ j, j < 10 → (j < 4 ∨ kindOf ls t = 3) → rd j (if cKind x.act = 0 then 0 else (mget (0 : Word) x.ctr j).toNat)) ∧
     (∀ j, j < 4 → rd (0x10 + j) (mget (0 : LaneMask) c.m j).toNat) ∧ rd 0x18 c.estat.toNat ∧ rd 0x20 c.hmask.toNat ∧
     rd 0x21 c.skip ∧ rd 0x22 x.cctr ∧ rd 0x23 c.pkst.toNat ∧ rd 0x24 (x.phase % 256) ∧ rd 0x25 k ∧
     rd 0x26 (keyRow ls t * 256 + keyCol ls t) ∧
     (∀ h, h < 16 → rd (0x30 + h) (if hCtx x.act h = k then mget 0 c.miss h else 0)) ∧
     ∀ u, srcTok x k c fi .i32 a = .ok u →
       (u.pois.getLsbD 0 = true → exec (.ctrw a n) s = .next (wordFault s l t k ls x c fi cPCTL 0)) ∧
       (u.pois.getLsbD 0 = false →
         (∀ j, j < 4 → wr (0x10 + j) fun c' => mget (0 : LaneMask) c'.m j = BitVec.ofNat 24 (laneAt u.data 0)) ∧
         wr 0x18 (fun c' => c'.estat = BitVec.ofNat 32 (laneAt u.data 0 % 32)) ∧
         wr 0x20 (fun c' => c'.hmask = BitVec.ofNat 16 (laneAt u.data 0)) ∧
         wr 0x21 (fun c' => c'.skip = laneAt u.data 0 % 2 ^ 32) ∧
         (∀ h, h < 16 → hCtx x.act h = k → wr (0x30 + h) fun c' => mget 0 c'.miss h = laneAt u.data 0 % 2 ^ 16)))

/-- R384, R385: a fault of a word freezes its context at the word and leaves one record at its source, with the cause; of a
tile of a replica there is no record. -/
def Obligations.element_fault_freezes : Prop :=
  ∀ (s : State) (l t k : Nat) (ls : Lease) (x : Tile) (fi : Firing) (cause faddr : Nat), ElemTurn s l t k ls x fi →
    let s' := wordFault s l t k ls x (ctxOf x k) fi cause faddr
    ∃ ls' x', leaseOf s' l = some ls' ∧ tileOf ls' t = some x' ∧ ctxOf x' k = { ctxOf x k with frozen := some (.firing, 0) } ∧
      (∀ j, j ≠ k → ctxOf x' j = ctxOf x j) ∧ ls'.seq = ls.seq ∧ s'.mem = s.mem ∧
      (t < replicaBase → ∃ r, ls'.recs = ls.recs ++ [r] ∧ r.source = 1 ∧ r.cause = cause ∧ r.faddr = faddr ∧ r.tile = some t ∧
        r.ctx = k ∧ r.handler = fi.h ∧ r.opidx = fi.pc ∧ r.opword = progWord x.act fi.pc ∧ r.freezes = true) ∧
      (replicaBase ≤ t → ls'.recs = ls.recs)

/-- An element access is under way as `Asked` says, with the chain, the marks and the scope that its extension names (R121, R127,
R234); without an extension it is free and relaxed. -/
def AskedExt (s s' : State) (l t k : Nat) (ls : Lease) (x : Tile) (fi : Firing) (e : Option Ext) (op : MOp) (parts : List Part)
    (dst : RDst) (posted : Bool) : Prop :=
  Asked s s' l t k ls fi op parts dst (extView e) posted (if e.isSome then 2 else 1) ∧
    ∃ r, reqOf s' s.nextId = some r ∧ r.chain = chainOf x (ctxOf x k) fi e ∧ r.acq = e.elim false (fun y => y.mark.getLsbD 0) ∧
      r.rel = e.elim false (fun y => y.mark.getLsbD 1) ∧ r.scope = e.elim .panel (fun y => y.scope)

/-- R334's checks 1 to 4 in their order, each with its address: of the addresses of an access the first that is misaligned, the first
that lies outside [0, 2^56), then the view. R342: the checks of GATH and SCAT, where the index of a skipped lane is not checked.
R333, R338 to R344: the words of address tiles. TDL loads the descriptor, or faults on a poisoned lane or a reserved field. LDM and STM
move 96 bytes at a 4-aligned address, or the 1 + 3m bytes of a block; GATH and SCAT move the words at the base plus four times the
index of each lane that is not skipped, or the block that lane 0 names; GEN reads the words of its unpadded lanes at the position
of the chain; each sends its request once these checks pass, and faults otherwise. PREF asks for its line, or is dropped; ORD step
takes its chain number; ORD fence waits for the accesses it names, at SYS scope also for writes and for the flushes of host ports, and
then orders what follows as a FENCE does. -/
def Obligations.address_tile_words : Prop :=
  (∀ (s : State) (l t k : Nat) (ls : Lease) (x : Tile) (fi : Firing) (ty : ETy) (d : Dst) (v : BitVec 4) (a b : Src)
    (cn kinds : BitVec 4) (f : Bfp) (e : Option Ext) (y : Ext), ElemTurn s l t k ls x fi → (∀ i, fi.wait ≠ .mem i) → dstBound x k d = true →
    dstFull x (ctxOf x k) k d = false → postedOf s l t < 64 →
    let c := ctxOf x k
    let size : Nat := match f with
      | some w => 1 + 3 * w.toNat
      | none => 96
    let crosses (ea n : Nat) : Bool := decide (ea / 128 ≠ (ea + n - 1) / 128)
    let fails (i : Instr) (cause addr : Nat) (st : Bool) : Prop := exec i s = .next (accFault s l t k ls x c fi e (cause, addr, st))
    let sends (i : Instr) (op : MOp) (parts : List Part) (dst : RDst) (posted : Bool) : Prop :=
      Gives i s fun s' => AskedExt s s' l t k ls x fi e op parts dst posted
    let image : List Byte × List Bool := match f with
      | some w => bfpOut (mget Tok.zero c.v v.toNat) w.toNat
      | none => (leBytes 96 (mget Tok.zero c.v v.toNat).data.toNat,
          (List.range 96).map fun j => (mget Tok.zero c.v v.toNat).pois.getLsbD (j / 4))
    let direct (i : Instr) (acc : Acc) (ty : ETy) (op : MOp) (parts : Nat → List Part) (dst : RDst) (posted : Bool) : Prop :=
      ∀ u, srcTok x k c fi ty a = .ok u →
        let ea := pair0 u
        (pair0P u = true ∨ nsrcPois x c fi e = true → fails i cPADDR ea (crosses ea size)) ∧
        (pair0P u = false → nsrcPois x c fi e = false →
          (f = none → ea % 4 ≠ 0 → fails i cALIGN ea (crosses ea size)) ∧
          ((f = none → ea % 4 = 0) →
            (2 ^ 56 < ea + size → fails i cTRANS (max ea (2 ^ 56)) (crosses ea size)) ∧
            (ea + size ≤ 2 ^ 56 →
              (∀ q, viewCheck ls (extView e) acc = some q → fails i q ea (crosses ea size)) ∧
              (viewCheck ls (extView e) acc = none → nsrcBad x fi e = false → sends i op (parts ea) dst posted))))
    let spread (i : Instr) (acc : Acc) (ty : ETy) (op : MOp) (parts : List (Nat × Int) → List Part) (dst : List (Nat × Int) → RDst)
        (posted : Bool) : Prop :=
      ∀ ts, srcToks x k c fi ty [a, b] = .ok ts →
        let iv := ts.getD 0 Tok.zero
        let lanes := gathLanes iv (pair0 (ts.getD 1 Tok.zero)) f
        (∀ q, gathChecks ls x c fi e acc iv (ts.getD 1 Tok.zero) f = some q → fails i q.1 q.2.1 q.2.2) ∧
        (gathChecks ls x c fi e acc iv (ts.getD 1 Tok.zero) f = none → nsrcBad x fi e = false →
          sends i op (parts lanes) (dst lanes) posted)
    (∀ u, srcTok x k c fi .i32 a = .ok u →
      (u.pois ≠ 0 → exec (.tdl a) s = .next (wordFault s l t k ls x c fi cPADDR 0)) ∧
      (u.pois = 0 → laneAt u.data 1 / 2 ^ 24 ≠ 0 ∨ laneAt u.data 23 / 2 ^ 10 ≠ 0 →
        exec (.tdl a) s = .next (wordFault s l t k ls x c fi cCONFIG 0)) ∧
      (u.pois = 0 → laneAt u.data 1 / 2 ^ 24 = 0 → laneAt u.data 23 / 2 ^ 10 = 0 → Gives (.tdl a) s fun s' =>
        ∃ ls' x', leaseOf s' l = some ls' ∧ tileOf ls' t = some x' ∧ x'.ra = mdel x.ra k ∧
          ctxOf x' k = { c with adesc := u.data, fire := some (moved fi 1) })) ∧
    direct (.ldm ty d a f e) .rd ty .read (fun ea => lineParts 0 ea size) (.tok d (if f.isSome then 6 else tyTag ty) Tok.zero f) false ∧
    direct (.stm v a f e) .wr .i32 .write (fun ea => writeParts 0 ea image.1 image.2) .none true ∧
    (f = none → spread (.gath ty d a b f e) .rd ty .read (fun lanes => lanes.map fun p => mkPart (4 * p.1) p.2.toNat 4)
      (fun _ => .tok d (tyTag ty) Tok.zero none) false) ∧
    (f.isSome = true → spread (.gath ty d a b f e) .rd ty .read (fun lanes => (lanes.map fun p => lineParts 0 p.2.toNat size).flatten)
      (fun lanes => .tok d 6 Tok.zero (if lanes = [] then none else f)) false) ∧
    (f = none → spread (.scat v a b f e) .wr .i32 .write (fun lanes => lanes.map fun p =>
      { mkPart (4 * p.1) p.2.toNat 4 with
        data := leBytes 4 (laneAt (mget Tok.zero c.v v.toNat).data p.1)
        pois := List.replicate 4 ((mget Tok.zero c.v v.toNat).pois.getLsbD p.1) }) (fun _ => .none) true) ∧
    (f.isSome = true → spread (.scat v a b f e) .wr .i32 .write
      (fun lanes => (lanes.map fun p => writeParts 0 p.2.toNat image.1 image.2).flatten) (fun _ => .none) true) ∧
    (let D := c.adesc
     let C (j : Nat) : Int := if cKind x.act ≠ 0 ∧ j < cNctr x.act then (mget (0 : Word) x.ctr j).toInt else 0
     let out (j : Nat) (z : Int) : Prop := adPaden D j = true ∧ (z < adLo D j ∨ adHi D j < z)
     let pad (i : Nat) : Prop := (∃ j, j < 10 ∧ j ≠ cn.toNat ∧ out j (C j)) ∨ out cn.toNat (C cn.toNat + i)
     let addr (i : Nat) : Int := (adBase D : Int) + ((List.range 10).map fun j => C j * adS D j).sum + i * adS D cn.toNat
     let all := genLanes D (ctrVal x) cn.toNat
     let lanes := all.zipIdx.filterMap fun p => p.1.map fun a => (p.2, a)
     let st (a : Int) : Bool := adS D cn.toNat == 4 && strad (4 * lanes.length) ((lanes.map (·.2)).headD a)
     let check := aChecks ls (extView e) .rd true (lanes.map (·.2)) 4 st
     all.length = 24 ∧ (∀ i, i < 24 → (pad i → all[i]? = some none) ∧ (¬ pad i → all[i]? = some (some (addr i)))) ∧
     (nsrcPois x c fi e = true → fails (.gen ty d cn e) cPADDR (addrNat ((lanes.map (·.2)).headD 0)) (st 0)) ∧
     (nsrcPois x c fi e = false →
       (∀ q, check = some q → fails (.gen ty d cn e) q.1 q.2.1 q.2.2) ∧
       (check = none → nsrcBad x fi e = false → sends (.gen ty d cn e) .read
         (if adS D cn.toNat = 4 then (lanes.head?.map fun p => lineParts (4 * p.1) p.2.toNat (4 * lanes.length)).getD []
          else lanes.map fun p => mkPart (4 * p.1) p.2.toNat 4)
         (.tok d (tyTag ty) { Tok.zero with data := ofElems 32 (List.replicate 24 (laneAt D 22)) } none) false))) ∧
    (∀ u, srcTok x k c fi .i32 a = .ok u →
      (pair0P u = true ∨ 2 ^ 56 ≤ pair0 u ∨ ls.paired = true → Gives (.pref a) s fun s' => ElemMoves s s' l t k ls x fi (fi.pc + 1)) ∧
      (pair0P u = false → pair0 u < 2 ^ 56 → ls.paired = false → Gives (.pref a) s fun s' =>
        Asked s s' l t k ls fi .pref [mkPart 0 (pair0 u / 128 * 128) 128] .none 0 true 1)) ∧
    (nsrcPois x c fi (some y) = true → exec (.ordStep y) s = .next (accFault s l t k ls x c fi (some y)
      (cPADDR, laneAt (nsrcTok x c fi y).data 0 % 2 ^ 16, false))) ∧
    (nsrcPois x c fi (some y) = false → nsrcBad x fi (some y) = false → Gives (.ordStep y) s fun s' =>
      AskedExt s s' l t k ls x fi (some y) .step [] .none true) ∧
    (let rd : Prop := kinds.getLsbD 3 = true ∨ kinds.getLsbD 2 = true
     let wr : Prop := y.scope = .sys ∨ kinds.getLsbD 1 = true ∨ kinds.getLsbD 0 = true
     let flushes : Prop := ∃ i q j, (i, q) ∈ s.reqs ∧ q.isFlush = true ∧ q.stage.open_ = true ∧ q.iss = .elem l t j
     (rd → x.ord.outR ≠ [] → exec (.ordFence kinds y) s = .next s) ∧ (wr → x.ord.outW ≠ [] → exec (.ordFence kinds y) s = .next s) ∧
     ((rd → x.ord.outR = []) → (wr → x.ord.outW = []) →
       (y.scope = .sys → x.ord.ports ≠ [] → exec (.ordFence kinds y) s = .next (sysFlush s (.elem l t k)).1) ∧
       (y.scope = .sys → x.ord.ports = [] → flushes → exec (.ordFence kinds y) s = .next s) ∧
       ((y.scope = .sys → x.ord.ports = [] ∧ ¬ flushes) → Gives (.ordFence kinds y) s fun s' =>
         ∃ ls' x', leaseOf s' l = some ls' ∧ tileOf ls' t = some x' ∧ x'.ord = fenceOrd kinds y.scope x.ord ∧
           ctxOf x' k = { c with fire := some (moved fi 2) })))) ∧
  (∀ (ls : Lease) (v len : Nat) (acc : Acc) (al : Bool) (as : List Int) (st : Int → Bool),
    let odd (a : Int) : Bool := al && decide (a % 4 ≠ 0)
    let far (a : Int) : Bool := decide (a < 0 ∨ 2 ^ 56 < a + len ∨ 2 ^ 56 ≤ a)
    (∀ a, as.find? odd = some a → aChecks ls v acc al as len st = some (cALIGN, addrNat a, st a)) ∧
    (as.find? odd = none → (∀ a, as.find? far = some a →
        aChecks ls v acc al as len st = some (cTRANS, if a < 0 ∨ 2 ^ 56 ≤ a then addrNat a else 2 ^ 56, st a)) ∧
      (as.find? far = none → (∀ a q, as.head? = some a → viewCheck ls v acc = some q → aChecks ls v acc al as len st = some (q, addrNat a, st a)) ∧
        (as = [] ∨ viewCheck ls v acc = none → aChecks ls v acc al as len st = none)))) ∧
  ∀ (ls : Lease) (x : Tile) (c : Ctx) (fi : Firing) (e : Option Ext) (acc : Acc) (iv bv : Tok) (f : Bfp),
    let n : Nat := match f with
      | some w => 1 + 3 * w.toNat
      | none => 4
    let index (i : Nat) : Int := (BitVec.ofNat 32 (laneAt iv.data i)).toInt
    let place (i : Nat) : Int := (pair0 bv : Int) + n * index i
    let uses : List Nat := if f.isSome then [0] else List.range 24
    let lanes := gathLanes iv (pair0 bv) f
    let first := (lanes.map (·.2)).headD 0
    lanes = (uses.filter fun i => decide (0 ≤ index i)).map (fun i => (i, place i)) ∧
    (pair0P bv = true → lanes ≠ [] → gathChecks ls x c fi e acc iv bv f = some (cPADDR, addrNat first, strad n first)) ∧
    (pair0P bv = false → ∀ p, lanes.find? (fun q => iv.pois.getLsbD q.1) = some p →
      gathChecks ls x c fi e acc iv bv f = some (cPADDR, addrNat p.2, strad n p.2)) ∧
    ((∀ p ∈ lanes, iv.pois.getLsbD p.1 = false) →
      (nsrcPois x c fi e = true → (pair0P bv = false ∨ lanes = []) →
        gathChecks ls x c fi e acc iv bv f = some (cPADDR, addrNat first, strad n first)) ∧
      ((pair0P bv = false ∨ lanes = []) → nsrcPois x c fi e = false →
        gathChecks ls x c fi e acc iv bv f = aChecks ls (extView e) acc f.isNone (lanes.map (·.2)) n (strad n)))

/-- R335, R345 to R350: the words of storage tiles: loads, stores and lane atomics of a tile's own store and of lease
scratch, arrivals at a sync word and waits for it, sent once their checks pass. -/
def Obligations.storage_tile_words : Prop :=
  ∀ (s : State) (l t k : Nat) (ls : Lease) (x : Tile) (fi : Firing) (ty : ETy) (d : Dst) (v : BitVec 4) (a b : Src) (loc : Bool)
    (e : Option Ext), ElemTurn s l t k ls x fi → (∀ i, fi.wait ≠ .mem i) → dstBound x k d = true →
    dstFull x (ctxOf x k) k d = false → postedOf s l t < 64 → nsrcPois x (ctxOf x k) fi e = false → nsrcBad x fi e = false →
    let c := ctxOf x k
    let len := if e.isSome then 2 else 1
    let lanesOf (u : Tok) : List (Nat × Nat) :=
      (List.range 24).filterMap fun i => if laneAt u.data i = 0xFFFFFFFF then none else some (i, laneAt u.data i)
    let filled (ps : List Part) (dat cmp : Tok) : List Part := ps.map fun p =>
      { p with
        data := leBytes 4 (laneAt dat.data (p.lane / 4)), pois := List.replicate 4 (dat.pois.getLsbD (p.lane / 4))
        cmp := leBytes 4 (laneAt cmp.data (p.lane / 4)), cmpPois := cmp.pois.getLsbD (p.lane / 4) }
    let atomic (i : Instr) (op : AOp) (dst : RDst) (posted : Bool) (cmp : Tok) : Prop :=
      ∀ u w ps, srcToks x k c fi ty [a, b] = .ok [u, w] → (∀ i, i < 24 → laneAt u.data i ≠ 0xFFFFFFFF → u.pois.getLsbD i = false) →
        sChecks ls x t e .rw 4 4 loc (lanesOf u) = .ok ps →
        Gives i s fun s' => Asked s s' l t k ls fi (.atomic op) (filled ps w cmp) dst (extView e) posted len
    (∀ u ps, srcTok x k c fi ty a = .ok u → u.pois.getLsbD 0 = false → sChecks ls x t e .rd 4 96 loc [(0, laneAt u.data 0)] = .ok ps →
      Gives (.ldt ty d a loc e) s fun s' => Asked s s' l t k ls fi .read ps (.tok d (tyTag ty) Tok.zero none) (extView e) false len) ∧
    (∀ u ps, srcTok x k c fi .i32 a = .ok u → u.pois.getLsbD 0 = false → sChecks ls x t e .wr 4 96 loc [(0, laneAt u.data 0)] = .ok ps →
      Gives (.stt v a loc e) s fun s' => Asked s s' l t k ls fi .write (ps.map fun p =>
        { p with
          data := ((leBytes 96 (mget Tok.zero c.v v.toNat).data.toNat).drop p.lane).take p.len
          pois := (((List.range 96).map fun j => (mget Tok.zero c.v v.toNat).pois.getLsbD (j / 4)).drop p.lane).take p.len })
        .none (extView e) true len) ∧
    atomic (.aadd ty a b loc e) (if ty = .f32 then .fadd else .add) .none true Tok.zero ∧
    atomic (.amin ty a b loc e) (if ty = .u32 then .minu else .min) .none true Tok.zero ∧
    atomic (.amax ty a b loc e) (if ty = .u32 then .maxu else .max) .none true Tok.zero ∧
    atomic (.aand ty a b loc e) .and .none true Tok.zero ∧ atomic (.aor ty a b loc e) .or .none true Tok.zero ∧
    atomic (.axor ty a b loc e) .xor .none true Tok.zero ∧
    atomic (.afad ty d a b loc e) (if ty = .f32 then .fadd else .add) (.tok d (tyTag ty) (dstOld c d) none) false Tok.zero ∧
    atomic (.axch ty d a b loc e) .xchg (.tok d (tyTag ty) (dstOld c d) none) false Tok.zero ∧
    atomic (.acas ty v a b loc e) .cas (.tok (.v v) (tyTag ty) (dstOld c (.v v)) none) false (mget Tok.zero c.v v.toNat) ∧
    (∀ u w ps, srcToks x k c fi .i32 [a, b] = .ok [u, w] → u.pois.getLsbD 0 = false → w.pois.getLsbD 0 = false →
      let g := laneAt w.data 1 % 256
      (sChecks ls x t e .rw 16 16 loc [(0, laneAt u.data 0)] = .ok ps → w.pois.getLsbD 1 = false → g ∈ ctxGroups x.act k →
        (mget (⟨0, 0, 0⟩ : Group) ls.groups (grpKey t g)).count ≠ 0 → (∀ p ∈ ps, grpBusy s l t k g p.loc = false) →
        Gives (.syna a b loc true e) s fun s' => Asked s s' l t k ls fi (.grp g (laneAt w.data 0))
          (ps.map fun p => { p with pois := [x.poisStore] }) .none (extView e) true len) ∧
      (sChecks ls x t e .rw 16 16 loc [(0, laneAt u.data 0)] = .ok ps →
        Gives (.syna a b loc false e) s fun s' => Asked s s' l t k ls fi (.arrive (laneAt w.data 0))
          (ps.map fun p => { p with pois := [x.poisStore] }) .none (extView e) true len) ∧
      (sChecks ls x t e .rd 16 16 loc [(0, laneAt u.data 0)] = .ok ps →
        Gives (.synw d a b loc e) s fun s' => Asked s s' l t k ls fi (.swait (laneAt w.data 0 % 2 ^ 16)) ps
          (.tok d 0 Tok.zero none) (extView e) false len))

/-- R351 to R357: the words of matrix tiles: WLD writes one column of a K-block of the loading macro, WSWP exchanges the
macros, MMA and MMAI add the exact block sums to every entry of a bank, ACRD reads 24 entries and ACCL clears a bank. -/
def Obligations.matrix_words : Prop :=
  ∀ (s : State) (l t k : Nat) (ls : Lease) (x : Tile) (fi : Firing) (ty : ETy) (d : Dst) (a b : Src) (w : BitVec 4)
    (seg : BitVec 3) (n : BitVec 2), ElemTurn s l t k ls x fi →
    let c := ctxOf x k
    let M (s' : State) (f : MState → Prop) : Prop := ∃ ls' x', leaseOf s' l = some ls' ∧ tileOf ls' t = some x' ∧ f x'.mat ∧
      (ctxOf x' k).fire = some (moved fi 1)
    let acc (m : MState) (q : Nat) : Word := mget 0 m.acc q
    (Gives .wswp s fun s' => M s' fun m => m = { x.mat with act := x.mat.ld, ld := x.mat.act }) ∧
    (Gives (.accl n) s fun s' => M s' fun m => (∀ q, q / 192 = n.toNat → acc m q = 0 ∧ nhas m.accPois q = false) ∧
      (∀ q, q / 192 ≠ n.toNat → acc m q = acc x.mat q ∧ nhas m.accPois q = nhas x.mat.accPois q) ∧ m.act = x.mat.act ∧
      m.ld = x.mat.ld) ∧
    (∀ u v, srcToks x k c fi .i32 [a, b] = .ok [u, v] →
      let kb := laneAt v.data 0 % 16
      let j := laneAt v.data 0 / 16 % 256
      (v.pois.getLsbD 0 = true → exec (.wld a b) s = .next (wordFault s l t k ls x c fi cPCTL 0)) ∧
      (v.pois.getLsbD 0 = false → 191 < j → exec (.wld a b) s = .next (wordFault s l t k ls x c fi cCONFIG 0)) ∧
      (v.pois.getLsbD 0 = false → j ≤ 191 → Gives (.wld a b) s fun s' => M s' fun m => m.act = x.mat.act ∧ m.acc = x.mat.acc ∧
        (∀ i, i < 24 → mget (0 : Byte) m.ld.w (192 * (24 * kb + i) + j) = BitVec.ofNat 8 (laneAt u.data i)) ∧
        mget (0 : Byte) m.ld.e (192 * kb + j) = u.aux ∧ (u.pois ≠ 0 → m.ld.pois.getLsbD kb = true))) ∧
    (LaneReady s l t k ls x fi ty d [] [] → Gives (.acrd ty d seg n) s fun s' => ∃ tok, ElemResult s s' l t k ls x fi d tok 0 ∧
      tok.tag = tyTag ty ∧ ∀ i, i < 24 → laneAt tok.data i = (acc x.mat (192 * n.toNat + 24 * seg.toNat + i)).toNat ∧
        tok.pois.getLsbD i = nhas x.mat.accPois (192 * n.toNat + 24 * seg.toNat + i)) ∧
    ∀ bv ts, srcTok x k c fi .i32 b = .ok bv →
      let k0 := laneAt bv.data 0 % 16
      let nm := laneAt bv.data 0 / 16 % 16
      bv.pois.getLsbD 0 = false → k0 + nm ≤ 15 → (nm = 0 ∨ ∃ p, a = .i p) → (∀ p, a = .i p → bound x.act k p.toNat = true) →
      aBlocks x k c fi a (nm + 1) = .ok ts →
      let blocks := (ts.zipIdx).map fun e => (k0 + e.2, e.1)
      let sums (i : Instr) (step : Nat → Nat × Flg → Nat × Tok → Nat × Flg) : Prop := Gives i s fun s' => M s' fun m =>
        (∀ j, j < 192 → acc m (192 * n.toNat + j) =
          BitVec.ofNat 32 (blocks.foldl (step j) ((acc x.mat (192 * n.toNat + j)).toNat, 0)).1) ∧
        (∀ q, q / 192 ≠ n.toNat → acc m q = acc x.mat q) ∧ m.act = x.mat.act ∧ m.ld = x.mat.ld ∧
        ∀ j, j < 192 → nhas m.accPois (192 * n.toNat + j) = (nhas x.mat.accPois (192 * n.toNat + j) ||
          blocks.any fun e => e.2.pois != 0 || x.mat.act.pois.getLsbD e.1)
      sums (.mma a b w n) (mmaStep x.mat.act w.toNat) ∧ sums (.mmai a b w n) (mmaiStep x.mat.act w.toNat)

/-! ### Host registers and queues -/

/-- R55: each memory command checks its arguments, then its table and overlaps, ends with its STATUS and GO set, and changes
its table only with STATUS 0; while GO reads 1 a further one is ignored; GO clears when it has been applied. -/
def Obligations.memory_commands : Prop :=
  ∀ (s : State),
    let b := s.marg0.toNat
    let n := s.marg1.toNat
    let t := s.marg2.toNat % 2 ^ 12
    let ends (i : Instr) (u : State) (op st : Nat) : Prop :=
      exec i s = .next { u with mcmd := BitVec.ofNat 64 (2 ^ 63 + st * 256 + op) }
    let inside (unit lo hi : Nat) : Prop := b ≠ 0 ∧ n ≠ 0 ∧ b % unit = 0 ∧ n % unit = 0 ∧ lo ≤ b ∧ b + n ≤ hi
    let blocks := (liveStacks s.boot).length * 4096
    let die (a : Nat) : Nat := scratchBase + (a - scratchBase) / scratchSize * scratchSize
    let adds (i : Instr) (op : Nat) (legal full : Prop) (gs : List Grant) (u : State) : Prop :=
      let foreign : Prop := ∃ g ∈ gs, g.tenant ≠ t ∧ g.base < b + n ∧ b < g.base + g.len
      (¬ legal → ends i s op 1) ∧ (legal → full → ends i s op 2) ∧ (legal → ¬ full → foreign → ends i s op 4) ∧
      (legal → ¬ full → ¬ foreign → ends i u op 0)
    let removes (i : Instr) (op : Nat) (gs : List Grant) (u : State) : Prop :=
      ((∃ g ∈ gs, g.base = b ∧ g.len = n) → ends i u op 0) ∧ ((∀ g ∈ gs, ¬ (g.base = b ∧ g.len = n)) → ends i s op 3)
    let mine (g : Grant) : Bool := decide (g.base = b ∧ g.len = n)
    let scrubs : Prop := (b % 4096 = 0 ∧ n % 4096 = 0 ∧ b + n ≤ hbmEnd s.boot) ∨
      (inScratch s.boot b = true ∧ b % 2048 = 0 ∧ n % 2048 = 0 ∧ b + n ≤ die b + scratchSize)
    (s.mcmd.getLsbD 63 = false →
      adds .tcset 1 (inside blocks 0 (hbmEnd s.boot) ∧ t < 256) (512 ≤ s.tenantChecks.length) s.tenantChecks
        { s with tenantChecks := s.tenantChecks ++ [⟨b, n, t⟩] } ∧
      adds .dsgrant 3 (inScratch s.boot b = true ∧ inside 2048 (die b) (die b + scratchSize) ∧ t < 256)
        (64 ≤ (s.scratchGrants.filter fun g => die g.base == die b).length) s.scratchGrants
        { s with scratchGrants := s.scratchGrants ++ [⟨b, n, t⟩] } ∧
      removes .tcclr 2 s.tenantChecks { s with tenantChecks := s.tenantChecks.filter fun g => !mine g } ∧
      removes .dsrevoke 4 s.scratchGrants { s with scratchGrants := s.scratchGrants.filter fun g => !mine g } ∧
      (¬ scrubs → ends .scrub s 5 1) ∧
      (scrubs → Gives .scrub s fun u => u = { s with mcmd := BitVec.ofNat 64 (2 ^ 63 + 5), scrubbed := u.scrubbed } ∧
        ∀ pa, (pa < scratchBase ↔ b < scratchBase) → nhas u.scrubbed (pa / unitSize pa) =
          (nhas s.scrubbed (pa / unitSize pa) && !decide (b ≤ pa ∧ pa < b + n))) ∧
      ends .poolsz { s with boot := { s.boot with nextPool := t % 4 } } 6 0) ∧
    (s.mcmd.getLsbD 63 = true → ∀ i ∈ [Instr.tcset, .tcclr, .dsgrant, .dsrevoke, .scrub, .poolsz], exec i s = .next s) ∧
    Gives .memoryCommandApplied s fun u => u = { s with mcmd := u.mcmd } ∧
      ∀ j, j < 64 → u.mcmd.getLsbD j = (s.mcmd.getLsbD j && j != 63)

/-- R5, R46, R62, R153: a host write to a register of a function's translation block keeps the fields of the register; a write
of POOL empties the ring and abandons the tables; a TAIL beyond the ring is ignored; PCTL.CLR zeroes the counts; a write
with EP set is dropped and reported. -/
def Obligations.function_registers : Prop :=
  ∀ (s : State) (v : Nat) (val : Dword) (tail : Word) (ok : Bool), v < 256 →
    let x := vfOf s v
    let W (o : Nat) : Instr := .registerWrite .pf o val false
    let field (m : Nat) : Dword := val &&& BitVec.ofNat 64 m
    let ring := if 1 ≤ x.pool.toNat % 2 ^ 5 ∧ x.pool.toNat % 2 ^ 5 ≤ 20 then 2 ^ (x.pool.toNat % 2 ^ 5) else 0
    exec (W (0x100000 + 0x40 * v)) s =
      .next (updVf s v fun x => { x with root := field (2 ^ 63 + (2 ^ 48 - 2 ^ 12)) }) ∧
    exec (W (0x100008 + 0x40 * v)) s =
      .next (updVf s v fun x => { x with s2base := field (2 ^ 63 + (2 ^ 59 - 2 ^ 12)) }) ∧
    exec (W (0x100010 + 0x40 * v)) s = .next (updVf s v fun x => { x with hostctl := field (2 ^ 63 + (2 ^ 20 - 1)) }) ∧
    exec (W (0x100018 + 0x40 * v)) s = .next (updVf s v fun x => { x with invbase := field (2 ^ 56 - 2 ^ 16) }) ∧
    exec (W (0x140000 + 16 * v)) s = .next (updVf s v fun x => { x with vlimit := val.toNat % 2 ^ 32 }) ∧
    exec (W (0x160000 + 16 * v)) s = .next (updVf s v fun x => { x with tquota := val.toNat % 2 ^ 32 }) ∧
    (∀ fn o, exec (.registerWrite fn o val true) s = .next (emit s (.aer false))) ∧
    (Gives (.poolWrite v val) s fun t => (vfOf t v).pool = field (2 ^ 63 + (2 ^ 48 - 2 ^ 12) + 31) ∧ (vfOf t v).phead = 0 ∧
      (vfOf t v).ptail = 0 ∧ (∀ e ∈ t.tabFrames, e.1 % 4096 ≠ v) ∧ ∀ u, u ≠ v → vfOf t u = vfOf s u) ∧
    (ring < (tail.toNat + 2 ^ 32 - x.phead) % 2 ^ 32 → exec (.poollvlTailWrite v tail) s = .next s) ∧
    ((tail.toNat + 2 ^ 32 - x.phead) % 2 ^ 32 ≤ ring →
      exec (.poollvlTailWrite v tail) s = .next (updVf s v fun x => { x with ptail := tail.toNat })) ∧
    Gives (.pctlClr v ok) s fun t =>
      vfOf t v = { x with
        consumed := 0
        pfCommit := 0
        pfEgress := 0
        pfControl := 0
        pfAddress := 0
        lastva := 0
        epok := ok } ∧
      (∀ u, u ≠ v → vfOf t u = vfOf s u) ∧ t = { s with vfs := t.vfs }

/-- R364, R365, R372, R381: QOWN assigns a queue unless that would make a duplicate, and keeps V while IN is 1; QSW.IN starts a switch; TAIL goes to the
register, the held write or SAVEDTAIL by the queue's state, and one beyond the ring sets ERROR; EN from 0 to 1 reads the
record and sets the head to PROGRESS; ERRCLR clears ERROR and ERRC; a switch in ends with the record read. -/
def Obligations.queue_registers : Prop :=
  ∀ (s : State) (g v j : Nat) (val : Dword) (tail : Word), g < 4096 →
    let q := queueOf s g
    let n := val.toNat
    let va := if q.inn then q.v else n.testBit 63
    let dup : Prop := va = true ∧ ∃ e ∈ s.queues, e.1 ≠ g ∧ e.2.v = true ∧ e.2.vf = n / 2 ^ 32 % 2 ^ 8 ∧ e.2.loc = n / 2 ^ 16 % 2 ^ 8
    let places := (s.queues.filter fun e => e.2.st != .out).length
    (dup → exec (.qownWrite g val) s = .next s) ∧
    (¬ dup → exec (.qownWrite g val) s = .next (updQueue s g fun q =>
      { q with v := va, vf := n / 2 ^ 32 % 2 ^ 8, loc := n / 2 ^ 16 % 2 ^ 8, weight := n % 2 ^ 8 })) ∧
    (q.busy = true → ∀ b, exec (.qswInWrite g b) s = .next s) ∧
    (q.busy = false → q.st = .out → 512 ≤ places →
      exec (.qswInWrite g true) s = .next (pfEvent s 0x05 0xFFF 0xFFF 0xFF 0 g 0)) ∧
    (q.busy = false → q.st = .out → places < 512 → exec (.qswInWrite g true) s = .next (updQueue s g fun q =>
      { q with inn := true, busy := true, st := .switchingIn })) ∧
    (q.busy = false → q.st = .inn → exec (.qswInWrite g false) s = .next (updQueue s g fun q =>
      { q with inn := false, busy := true, st := .switchingOut })) ∧
    (q.st = .switchingIn →
      (∀ r t p s1, readQrec s q = .ok r t p s1 → Gives (.queueSwitchInComplete g) s fun u =>
        (queueOf u g).st = .inn ∧ (queueOf u g).busy = false ∧ (queueOf u g).progress = p ∧ (queueOf u g).parsed = some r ∧
        (queueOf u g).tail = (queueOf s1 g).heldTail.getD t ∧
        ((queueOf s1 g).rd = .done → (queueOf u g).headRec = (queueOf s1 g).headRec ∧
          (queueOf u g).head = (p + ((queueOf s1 g).head + 2 ^ 32 - (queueOf s1 g).progress)) % 2 ^ 32)) ∧
      (∀ c s1, readQrec s q = .bad c s1 → Gives (.queueSwitchInComplete g) s fun u =>
        (queueOf u g).st = .out ∧ (queueOf u g).inn = false ∧ (queueOf u g).error = true ∧ (queueOf u g).errc = c)) ∧
    (queueOfVf s v j = none →
      exec (.queueTailWrite v j tail) s = .next s ∧ exec (.errclr v j) s = .next s ∧ ∀ b, exec (.qctlEnWrite v j b) s = .next s) ∧
    ∀ h p, queueOfVf s v j = some (h, p) →
      let full : Prop := ∃ r, p.parsed = some r ∧ 2 ^ r.logrs < (tail.toNat + 2 ^ 32 - p.progress) % 2 ^ 32
      let kept := updQueue s h fun q => { q with tail := tail.toNat }
      let beyond : Prop := ∃ r, p.parsed = some r ∧ 2 ^ r.logrs < (tail.toNat + 2 ^ 32 - p.sprog) % 2 ^ 32
      let saved := saveTail (updQueue s h fun q => { q with stail := tail.toNat }) h
      (p.st = .inn → ¬ full → exec (.queueTailWrite v j tail) s = .next kept) ∧
      (p.st = .inn → full → exec (.queueTailWrite v j tail) s = .next (queueError kept h cOVERFLOW)) ∧
      (p.st = .out → ¬ beyond → exec (.queueTailWrite v j tail) s = .next saved) ∧
      (p.st = .out → beyond → exec (.queueTailWrite v j tail) s = .next (queueError saved h cOVERFLOW)) ∧
      (p.st = .switchingIn ∨ p.st = .switchingOut → exec (.queueTailWrite v j tail) s =
        .next (updQueue s h fun q => { q with heldTail := some tail.toNat })) ∧
      (exec (.qctlEnWrite v j false) s = .next (updQueue s h fun q => { q with en := false })) ∧
      (p.en = false → p = queueOf s h →
        let s0 := updQueue s h fun q => { q with en := true, rd := .due }
        ∀ r t c s1, readQrec s0 (queueOf s0 h) = .ok r t c s1 → exec (.qctlEnWrite v j true) s =
          .next (updQueue s1 h fun q => { q with parsed := some r, rd := .done, head := q.progress, headRec := none, depsOk := false })) ∧
      exec (.errclr v j) s = .next (updQueue s h fun q =>
        { q with error := false, errc := 0, rd := if q.rd = .failed then .due else q.rd })

/-! ### Memory -/

/-- R43, R46, R56, R57: a write of INVCTL sets ALL and PAGES; one that sets GO, and an ATS invalidation, remove the function's cached
translations that overlap the range, and wait for the requests translated through them, a second one for those of both; then GO clears,
and the ATS invalidation is answered. A PRI response or a pager's reply lets the withheld accesses translate again or faults them. A
host completion gives its part the data, with EP as poison, or the outcome of an atomic. -/
def Obligations.translation_control : Prop :=
  ∀ (s : State) (v page n j id i : Nat) (val : Dword) (ok ep : Bool) (data : List Byte) (st : CplStatus),
    let x := vfOf s v
    let hit (all : Bool) (p m k : Nat) : Bool := all || decide (p ≤ k ∧ k < p + m)
    let drops (t : State) (all : Bool) (p m : Nat) (old waits : NSet) : Prop :=
      (∀ l ls, leaseOf s l = some ls → ∃ ls', leaseOf t l = some ls' ∧ ls'.seq = ls.seq ∧ ls'.tiles = ls.tiles ∧
        ∀ k, mfind ls'.tlb k = if ls.tenant = v ∧ hit all p m k = true then none else mfind ls.tlb k) ∧
      (∀ id, nhas old id = true → nhas waits id = true) ∧
      ∀ id r, reqOf s id = some r → issTenant s r.iss = v → r.stage = .sent →
        (∃ q ∈ r.parts, hit all p m (q.va / 65536) = true) → nhas waits id = true
    let fields (t : State) : Prop := (vfOf t v).invctl.getLsbD 62 = val.getLsbD 62 ∧ (vfOf t v).invctl.toNat % 2 ^ 40 = val.toNat % 2 ^ 40
    let busy (l : NSet) : Prop := ∃ id ∈ l, ∃ r, reqOf s id = some r ∧ r.stage = .sent
    let resumes (t : State) : Prop := mfind t.jobs j = none ∧ ∀ id r, reqOf s id = some r → r.stage = .withheld j →
      ∃ r' b, reqOf t id = some r' ∧ ∀ job, mfind s.jobs j = some job →
        r'.stage = if ok then .issued else .faulted cTRANS job.va b
    (val.getLsbD 63 = true → Gives (.invctlGo v val) s fun t => (vfOf t v).invctl.getLsbD 63 = true ∧ fields t ∧
      drops t (val.getLsbD 62) (x.invbase.toNat / 2 ^ 16 % 2 ^ 40) (val.toNat % 2 ^ 40) x.invPend (vfOf t v).invPend) ∧
    (val.getLsbD 63 = false → Gives (.invctlGo v val) s fun t => (vfOf t v).invctl.getLsbD 63 = x.invctl.getLsbD 63 ∧ fields t ∧
      (vfOf t v).invPend = x.invPend ∧ t = { s with vfs := t.vfs }) ∧
    (Gives (.atsInvalidationRequest v page n) s fun t => (vfOf t v).atsOpen = true ∧ drops t false page n x.atsPend (vfOf t v).atsPend) ∧
    (Gives (.invalidationComplete v) s fun t =>
      (x.invctl.getLsbD 63 = true → ¬ busy x.invPend → (vfOf t v).invctl.getLsbD 63 = false) ∧
      (busy x.invPend → (vfOf t v).invctl = x.invctl) ∧
      (x.atsOpen = true → ¬ busy x.atsPend → Out.atsDone v ∈ t.out ∧ (vfOf t v).atsOpen = false) ∧
      (busy x.atsPend → t.out = s.out ∧ (vfOf t v).atsOpen = x.atsOpen)) ∧
    (∀ job, mfind s.jobs j = some job → waitsAtRest s j = false → ¬ (job.lease = 0xFFF ∧ ok = false) →
      (job.st = .priWait → Gives (.priResponse j ok) s resumes) ∧ (job.st = .answered ok → Gives (.pagerReply j) s resumes)) ∧
    ∀ r p o, reqOf s id = some r → r.parts[i]? = some p → p.loc = .host o → servable s id r p .new = true →
      Gives (.hostCompletion id i st ep data) s fun t => (ep = true → Out.aer false ∈ t.out) ∧
        ∃ r' p', reqOf t id = some r' ∧ r'.parts[i]? = some p' ∧ p'.st = .done ∧
          (((∀ op, r.op ≠ .atomic op) ∨ st = .ok) → p'.data = ((List.range p.len).map fun k => data.getD k 0) ∧
            p'.pois = List.replicate p.len ep) ∧
          (∀ op, r.op = .atomic op → p'.code = if st = .ok then (if ep then 1 else 0) else 2)

/-- R58, R60 to R63: the pager claims the radix entry, waits while B is set, answers when the page is present or the entry is
malformed, and otherwise takes a frame from the ring: a first touch is finished with it, a page of the host is copied into
it, and with no frame POOL_EMPTY is raised and the fault stays open; a fault that comes while earlier ones wait for a frame waits
behind them, and a host page of a leaf with PIN fails (both are the model's choice, logs 107 and 108). -/
def Obligations.pager_steps : Prop :=
  ∀ (s : State) (j : Nat) (x : Job), mfind s.jobs j = some x →
    let claimed : Job := { x with claimed := true }
    let ahead : Prop := ∃ e ∈ s.jobs, e.2.tenant = x.tenant ∧ e.2.st = .waitFrame ∧ (e.2.since < x.since ∨ (e.2.since = x.since ∧ e.1 < j))
    let claim (i : Instr) : Prop :=
      (jobEntry s x = none → exec i s = .next (pagerAnswer s j false)) ∧
      ∀ e lc, jobEntry s x = some (e, lc) →
      let s0 := devTouch s lc 8
      (e.testBit 60 = true → Gives i s fun t => t = { s0 with jobs := t.jobs } ∧ mfind t.jobs j = some { x with st := .waitB }) ∧
      (e.testBit 60 = false → radixOk (if x.leaf then 3 else 1) e = false → Gives i s fun t =>
        mfind t.jobs j = some { x with st := .answered false, claimed := false }) ∧
      (e.testBit 60 = false → radixOk (if x.leaf then 3 else 1) e = true →
        (e.testBit 63 = true → (x.leaf = true → e.testBit 62 = false) → Gives i s fun t =>
          mfind t.jobs j = some { x with st := .answered true, claimed := false }) ∧
        ((e.testBit 63 = false ∨ (x.leaf = true ∧ e.testBit 62 = true)) →
          exec i s = .next (pagerAlloc (updJob (putEntry s0 x lc (e + 2 ^ 60)) j fun _ => claimed) j claimed)))
    (x.st = .token → claim (.pagerFaultToken j)) ∧ (x.st = .waitB → claim (.pagerBWaitEnd j)) ∧
    (x.st = .waitFrame → (vfOf s x.tenant).pool.getLsbD 63 = true → (vfOf s x.tenant).ptail ≠ (vfOf s x.tenant).phead → ¬ ahead →
      exec (.pagerFrameWaitEnd j) s = .next (pagerAlloc s j x)) ∧
    (x.leaf = true → ∀ e lc, jobEntry s x = some (e, lc) →
      (e.testBit 62 = true → x.pin = true → pagerAlloc s j x = pagerFail s j x) ∧
      ((e.testBit 62 = true → x.pin = false) →
        (takeFrame s x.tenant = .none → pagerAlloc s j x = poolEmpty s j x) ∧
        (∀ g s1, (takeFrame s x.tenant = .bad s1 ∨ takeFrame s x.tenant = .ok g s1) → ahead →
          pagerAlloc s j x = updJob s j fun x => { x with st := .waitFrame }) ∧
        (∀ s1, takeFrame s x.tenant = .bad s1 → ¬ ahead → pagerAlloc s j x = pagerFail s1 j x) ∧
        (∀ g s1, takeFrame s x.tenant = .ok g s1 → ¬ ahead → e.testBit 62 = false →
          pagerAlloc s j x = pagerFinish (unscrub s1 x.tenant g) j x g) ∧
        (∀ g s1, takeFrame s x.tenant = .ok g s1 → ¬ ahead → e.testBit 62 = true →
          pagerAlloc s j x = updJob (unscrub s1 x.tenant g) j fun x => { x with st := .copying, frame := some g }))) ∧
    (∀ e lc a, jobEntry s x = some (e, lc) → ∃ y, e.testBit 61 = decide (y = 2 ^ 61) ∧ (y = 0 ∨ y = 2 ^ 61) ∧
      pagerFinish s j x a = pagerAnswer (putEntry s x lc (2 ^ 63 + y + a)) j true) ∧
    ∀ g e lc, x.st = .copying → x.frame = some g → jobEntry s x = some (e, lc) →
      exec (.pagerHostCopyDone j false) s = .next (pagerFail s j x) ∧
      ∀ fl, walkLoc s x.tenant (vfOf s x.tenant) g 65536 .wr = .ok fl →
        let got := devGet s (.host (e / 2 ^ 12 % 2 ^ 36 * 4096)) 65536
        exec (.pagerHostCopyDone j true) s = .next (pagerFinish (devWr got.2.2 (jobTag got.2.2 x) fl got.1 got.2.1) j x g)

/-- R48, R52 to R54, R59, R71, R77, R86, R98, R116, R460: an address token whose parts all translate and pass is sent, one
whose page is absent is withheld for the pager, and one that fails is faulted with the cause and address of the first part that fails; for
a write the D bits follow once every part has passed. A part that stands alone at its unit is performed there: a read of unversioned
data gets the bytes and their poison, a write puts them; a miss fetches the line first; a refused tenant faults TENANT_CHECK; the first
read of an unscrubbed unit gets zeros and starts its zeroing, and a write waits for it. -/
def Obligations.memory_services : Prop :=
  ∀ (s : State) (id i : Nat) (r : Req) (p : Part), reqOf s id = some r →
    let l := issLease r.iss
    (∀ ls, leaseOf s l = some ls → ls.state = .run → r.stage = .issued → r.op ≠ .pref →
      let e1 := translateParts l r.op.acc false r.parts s
      let e2 := if e1.2.all (fun e => e.2.isOk) = true ∧ r.op.acc.writes = true ∧ sliceFault e1.1 ls r e1.2 = none then
        translateParts l r.op.acc true r.parts e1.1 else e1
      let ps := e2.2.map (·.1)
      (∀ c q t, sliceFault e2.1 ls r e2.2 = some (c, q, t) → Gives (.addressTokenAtSlice id) s fun t =>
        ∃ r', reqOf t id = some r' ∧ r'.stage = .faulted c q.va q.strad) ∧
      (sliceFault e2.1 ls r e2.2 = none →
        (∀ q e lf pin, e2.2.find? (fun e => !e.2.isOk) = some (q, .absent e lf pin) → (leaseOf e2.1 l).isSome = true →
          Gives (.addressTokenAtSlice id) s fun t =>
            ∃ r' job, reqOf t id = some r' ∧ r'.stage = .withheld e2.1.nextId ∧ r'.parts = r.parts ∧
              mfind t.jobs e2.1.nextId = some job ∧ job.va = q.va ∧ job.entry = e ∧ job.leaf = lf ∧ job.pin = pin ∧ job.st = .token) ∧
        (e2.2.all (fun e => e.2.isOk) = true → (∀ q ∈ ps, q.outside = false) → (∃ q ∈ ps, q.st ≠ .done) →
          Gives (.addressTokenAtSlice id) s fun t => ∃ r', reqOf t id = some r' ∧ r'.stage = .sent ∧ r'.parts = ps))) ∧
    (r.parts[i]? = some p → unitParts r i = [i] → r.stage = .sent → r.after = [] → r.flush = false → p.versioned = false →
      heldLine s id r.iss p.loc = false →
      let got (t : State) (bytes : List Byte × List Bool) : Prop := ∃ r' p', reqOf t id = some r' ∧ r'.parts[i]? = some p' ∧
        p'.st = .done ∧ (p'.data, p'.pois) = bytes
      let put (t : State) (pa : Nat) : Prop := t.mem = (memWr (llcUse true s (pa / 128)) pa p.data p.pois).mem ∧
        ∃ r' p', reqOf t id = some r' ∧ r'.parts[i]? = some p' ∧ p'.st = .done
      let refused (w : Instr) : Prop := ∀ q, tenantRefusal s r = some q → r.op ≠ .pref → (∀ k t, r.iss ≠ .peer k t) →
        Gives w s fun t => ∃ r', reqOf t id = some r' ∧ r'.stage = .faulted cTENANT q.va q.strad
      let fresh : Prop := unitScrubbed s l p.loc = false ∧ unitZeroing s l p.loc = false ∧ ∀ z ∈ s.zq, z.isAt l (unitLoc p.loc) = false
      let waits (w : Instr) : Prop := tenantRefusal s r = none → fresh → r.op = .write →
        exec w s = .next (unitStart { s with zq := s.zq ++ [⟨unitLoc p.loc, l, id, i⟩] } l p.loc)
      let zeros (w : Instr) (pa : Nat) : Prop := tenantRefusal s r = none → fresh → r.op = .read → pa % 128 + p.len ≤ 128 →
        Gives w s fun t => got t (List.replicate p.len 0, List.replicate p.len false) ∧ unitZeroing t l p.loc = true
      (∀ pa, p.loc = .mem pa → p.st = .new → pa < scratchBase → dieHeld s r pa = false →
        refused (.hbmRequest id i false) ∧ waits (.hbmRequest id i false) ∧ zeros (.hbmRequest id i false) pa ∧
        (tenantRefusal s r = none → unitClear s l p.loc = true →
          (llcHit s pa = true → r.op = .read → Gives (.hbmRequest id i false) s fun t => got t (memRd s pa p.len)) ∧
          (llcHit s pa = true → r.op = .write → Gives (.hbmRequest id i false) s fun t => put t pa) ∧
          (llcHit s pa = false → Gives (.hbmRequest id i false) s fun t =>
            ∃ r' p', reqOf t id = some r' ∧ r'.parts[i]? = some p' ∧ p'.st = .missed)) ∧
        ∀ c, copyFor s r pa = some c → Gives (.hbmRequest id i true) s fun t =>
          got t (verBytes c.data c.pois (pa % 128) p.len)) ∧
      (∀ pa, p.loc = .mem pa → p.st = .missed →
        (unitOpen s l p.loc = true →
          (r.op = .read → Gives (.llcMissFill id i) s fun t => got t (memRd (llcUse false s (pa / 128)) pa p.len)) ∧
          (r.op = .write → Gives (.llcMissFill id i) s fun t => put t pa)) ∧
        (unitOpen s l p.loc = false → Gives (.llcMissFill id i) s fun t =>
          ∃ r' p', reqOf t id = some r' ∧ r'.parts[i]? = some p' ∧ p'.st = .new)) ∧
      (∀ pa, p.loc = .mem pa → p.st = .new → scratchBase ≤ pa → dieHeld s r pa = false →
        refused (.dieScratchRequest id i) ∧ waits (.dieScratchRequest id i) ∧ zeros (.dieScratchRequest id i) pa ∧
        (tenantRefusal s r = none → unitClear s l p.loc = true →
          (r.op = .read → Gives (.dieScratchRequest id i) s fun t => got t (memRd s pa p.len)) ∧
          (r.op = .write → Gives (.dieScratchRequest id i) s fun t => t.mem = (memWr s pa p.data p.pois).mem ∧
            ∃ r' p', reqOf t id = some r' ∧ r'.parts[i]? = some p' ∧ p'.st = .done))) ∧
      ∀ u o ls x, p.loc = .tile u o → p.st = .new → leaseOf s l = some ls → tileOf ls u = some x → tenantRefusal s r = none →
        waits (.tileStoreRequest id i) ∧ zeros (.tileStoreRequest id i) o ∧
        (unitClear s l p.loc = true →
          (r.op = .read → Gives (.tileStoreRequest id i) s fun t => got t (tileRd x o p.len)) ∧
          (r.op = .write → Gives (.tileStoreRequest id i) s fun t =>
            ∃ ls' x', leaseOf t l = some ls' ∧ tileOf ls' u = some x' ∧ x'.store = (tileWr x o p.data p.pois).store ∧ t.mem = s.mem)))

/-- R48, R84, R255, R262, R265, R336, R384, R432: a performed request of an unpaired lease is delivered once and is gone: a
load writes its register with its poison, an atomic its old value and ATOMST and lets the sequencer go on, an element's
token goes to its destination and the firing goes on; a fault of a posted access freezes its context with LATE; the answer
of a peer enters its part. -/
def Obligations.memory_replies : Prop :=
  ∀ (s : State) (id : Nat) (r : Req) (a : PeerReply), reqOf s id = some r →
    let bytes := (r.parts.map fun p => p.data).flatten
    let bad := r.parts.any fun p => p.pois.any fun b => b
    (takesReplies s r.iss = false → exec (.memoryReply id a) s = .next s) ∧
    (takesReplies s r.iss = true → r.stage = .performed → r.chain = none → r.key = [] →
      (Gives (.memoryReply id a) s fun t => reqOf t id = none ∧ t.mem = s.mem) ∧
      (∀ l rep ls xd n sg, r.iss = .seq l rep → leaseOf s l = some ls → r.dst = .x xd n sg →
        let q := seqOf ls rep
        let v := if sg then (BitVec.ofNat (8 * n) (leNat bytes)).signExtend 64 else BitVec.ofNat 64 (leNat bytes % 2 ^ (8 * n))
        (r.op = .read → mfind q.pend xd.toNat = some id → Gives (.memoryReply id a) s fun t => ∃ ls', leaseOf t l = some ls' ∧
          (xd ≠ 0 → xget (seqOf ls' rep) xd = v ∧ xpois (seqOf ls' rep) xd = bad) ∧ mfind (seqOf ls' rep).pend xd.toNat = none ∧
          (seqOf ls' rep).pc = q.pc ∧ ∀ m, m ≠ xd → xget (seqOf ls' rep) m = xget q m) ∧
        (∀ op p ps, r.op = .atomic op → r.parts = p :: ps → q.op = .amo id → Gives (.memoryReply id a) s fun t =>
          ∃ ls', leaseOf t l = some ls' ∧ (seqOf ls' rep).atomst = p.code ∧ (seqOf ls' rep).pc = q.pc + 4 ∧
          (p.code ≠ 2 → xd ≠ 0 → xget (seqOf ls' rep) xd = v ∧ xpois (seqOf ls' rep) xd = bad) ∧
          (p.code = 2 → xget (seqOf ls' rep) xd = xget q xd))) ∧
      (∀ l t k ls x fi d tag base f, r.iss = .elem l t k → leaseOf s l = some ls → tileOf ls t = some x →
        (ctxOf x k).fire = some fi → fi.wait = .mem id → r.dst = .tok d tag base f → Gives (.memoryReply id a) s fun s' =>
          ∃ ls' x', leaseOf s' l = some ls' ∧ tileOf ls' t = some x' ∧ dstOld (ctxOf x' k) d = repTok r tag base f ∧
            (ctxOf x' k).fire = some { fi with pc := fi.pc + wordLen r.word, wait := .none, ord := fi.ord + 1 })) ∧
    (∀ c ad b l t k ls x, takesReplies s r.iss = true → r.stage = .faulted c ad b → r.key = [] → r.iss = .elem l t k →
      leaseOf s l = some ls → tileOf ls t = some x → (ctxOf x k).frozen = none → r.posted = true →
      Gives (.memoryReply id a) s fun s' => ∃ ls' x', leaseOf s' l = some ls' ∧ tileOf ls' t = some x' ∧
        (ctxOf x' k).frozen = some (.late id, 0) ∧
        (t < replicaBase → ∃ f, ls'.recs = ls.recs ++ [f] ∧ f.cause = c ∧ f.faddr = ad ∧ f.late = true)) ∧
    ∀ p k o b q, takesReplies s r.iss = true → r.stage = .sent → r.parts = [p] → p.loc = .peer k o → servable s id r p .new = true →
      (couplerOf s k).up = true → r.op = .read → Gives (.memoryReply id (.data b q)) s fun t => ∃ r' p', reqOf t id = some r' ∧
        r'.parts = [p'] ∧ p'.st = .done ∧ p'.data = ((List.range p.len).map fun j => b.getD j 0) ∧
        p'.pois = ((List.range p.len).map fun j => q.getD j false)

/-- R121, R122: the tracker counts and serves a read of the open group, holds what lies ahead of NEXT, and faults the others
STRAY_TOKEN; an ordered request waits for its reads, then a step moves NEXT past it and any other goes to its serving point;
a performed read is counted and a performed write moves NEXT; a held request is taken again once NEXT has reached it. -/
def Obligations.chain_trackers : Prop :=
  ∀ (s : State) (id : Nat) (r : Req) (ch : Chain) (ls : Lease), reqOf s id = some r → r.chain = some ch →
    leaseOf s (issLease r.iss) = some ls →
    let l := issLease r.iss
    let t := trk ls ch.cls
    let d := if r.op.isWrite then (ch.number + 65536 - t.next) % 65536 else (ch.number + 1 + 65536 - t.next) % 65536
    let ahead : Prop := 1 ≤ d ∧ d ≤ 32767
    let becomes (u : State) (t' : Tracker) : Prop := ∃ ls', leaseOf u l = some ls' ∧ trk ls' ch.cls = t'
    let staged (u : State) (st : RSt) : Prop := ∃ r', reqOf u id = some r' ∧ r'.stage = st
    let served (u : State) : Prop := ∃ r', reqOf u id = some r' ∧ r'.floor = max r.floor t.floor ∧ r'.chain = some ch ∧ r'.parts = r.parts
    let stray (u : State) : Prop := ∃ a, staged u (.faulted cSTRAY a false)
    let past (tick : Nat) : Tracker := ⟨(ch.number + 1 + ch.gap) % 65536, 0, 0, false, tick, none⟩
    (r.stage = .chain → r.op.isWrite = false →
      (d = 0 → t.shut = false → t.acc < 255 → Gives (.chainRead id) s fun u => becomes u { t with acc := t.acc + 1 } ∧ served u) ∧
      (ahead → Gives (.chainRead id) s fun u => becomes u t ∧ staged u .held) ∧
      (¬ ahead → ¬ (d = 0 ∧ t.shut = false ∧ t.acc < 255) → Gives (.chainRead id) s fun u => becomes u t ∧ stray u)) ∧
    (r.stage = .chain → r.op.isWrite = true → t.busy = none ∨ t.busy = some id →
      (ahead → Gives (.chainOrdered id) s fun u => becomes u t ∧ staged u .held) ∧
      (¬ ahead → d ≠ 0 ∨ ch.rcnt < t.acc → Gives (.chainOrdered id) s fun u => becomes u { t with busy := none } ∧ stray u) ∧
      (d = 0 → t.acc < ch.rcnt → Gives (.chainOrdered id) s fun u => becomes u { t with busy := some id } ∧ staged u .chain) ∧
      (d = 0 → t.acc = ch.rcnt → t.done ≠ t.acc → Gives (.chainOrdered id) s fun u =>
        becomes u { t with busy := some id, shut := true } ∧ staged u .chain) ∧
      (d = 0 → t.acc = ch.rcnt → t.done = t.acc → r.op = .step → Gives (.chainOrdered id) s fun u =>
        becomes u (past (trkTick s ls ch.cls)) ∧ staged u .performed) ∧
      (d = 0 → t.acc = ch.rcnt → t.done = t.acc → r.op ≠ .step → Gives (.chainOrdered id) s fun u =>
        becomes u { t with busy := some id, shut := true } ∧ served u)) ∧
    (r.stage = .performed → r.op.isWrite = false → Gives (.chainReadPerformed id) s fun u =>
      becomes u { t with done := t.done + 1 } ∧ ∃ r', reqOf u id = some r' ∧ r'.chain = none) ∧
    (r.stage = .performed → r.op.isWrite = true → Gives (.chainWriteAck id) s fun u =>
      becomes u (past (trkTick s ls ch.cls)) ∧ ∃ r', reqOf u id = some r' ∧ r'.chain = none) ∧
    (r.stage = .held → (ahead → exec (.chainHeldRetry id) s = .next s) ∧
      (¬ ahead → Gives (.chainHeldRetry id) s fun u => becomes u t ∧ staged u .chain))

/-- R80, R129, R264, R346, R347, R349: an arrival of n bytes adds to COUNT, and each time TARGET is reached GEN advances and
COUNT falls by it; at a poisoned word it faults POISON_ADDRESS. The members of a group join one record, and the last makes
one arrival of the sum. An atomic is applied once at its home and returns the old value. -/
def Obligations.sync_and_atomics : Prop :=
  ∀ (s : State) (id i : Nat) (r : Req) (p : Part), reqOf s id = some r →
    let l := issLease r.iss
    let done (t : State) : Prop := ∃ r' p', reqOf t id = some r' ∧ r'.parts[i]? = some p' ∧ p'.st = .done
    let arrived (t : State) (lc : Loc) (n : Nat) : Prop :=
      let w := (syncWord s l lc).1
      let total := w / 2 ^ 48 % 2 ^ 48 + n
      let target := w % 2 ^ 48
      let w' := (syncWord t l lc).1
      w' % 2 ^ 48 = target ∧ w' / 2 ^ 48 % 2 ^ 48 = (if target = 0 then total % 2 ^ 48 else total % target) ∧
      w' / 2 ^ 96 % 2 ^ 16 = (if target = 0 then w / 2 ^ 96 % 2 ^ 16 else (w / 2 ^ 96 + total / target) % 2 ^ 16)
    let placed (lc : Loc) : Prop := (∃ pa, lc = .mem pa) ∨ ∃ u o ls x, lc = .tile u o ∧ leaseOf s l = some ls ∧ tileOf ls u = some x
    (∀ n, i = 0 → r.op = .arrive n → r.parts[0]? = some p → servable s id r p .home = true → placed p.loc →
      ((syncWord s l p.loc).2 = true → Gives (.syncArrival id) s fun t => ∃ r', reqOf t id = some r' ∧
        r'.stage = .faulted cPADDR p.va p.strad ∧ t.mem = s.mem) ∧
      ((syncWord s l p.loc).2 = false → 1 ≤ n → Gives (.syncArrival id) s fun t => done t ∧ arrived t p.loc n)) ∧
    (∀ g n u k h o ls x, i = 0 → r.op = .grp g n → r.iss = .elem l u k → r.parts[0]? = some p → servable s id r p .home = true →
      p.loc = .tile h o → leaseOf s l = some ls → tileOf ls h = some x →
      let rest := x.grecs.filter fun e => !(e.off == o && e.g == g)
      let cur : GRec := (x.grecs.find? fun e => e.off == o && e.g == g).getD ⟨o, g, [], 0, false⟩
      rest.length < 8 → (u, k) ∉ cur.members →
      (cur.members.length + 1 < (mget (⟨0, 0, 0⟩ : Group) ls.groups g).count → Gives (.synaGroupRecord id) s fun t => done t ∧
        ∃ ls' x', leaseOf t l = some ls' ∧ tileOf ls' h = some x' ∧
          x'.grecs = rest ++ [⟨o, g, cur.members ++ [(u, k)], cur.sum + n, cur.pois || p.pois.any fun b => b⟩]) ∧
      ((mget (⟨0, 0, 0⟩ : Group) ls.groups g).count ≤ cur.members.length + 1 → (syncWord s l p.loc).2 = false →
        1 ≤ cur.sum + n → Gives (.synaGroupRecord id) s fun t => done t ∧ arrived t p.loc (cur.sum + n) ∧
          ∃ ls' x', leaseOf t l = some ls' ∧ tileOf ls' h = some x' ∧ x'.grecs = rest)) ∧
    (∀ op pa, r.op = .atomic op → r.parts[i]? = some p → unitParts r i = [i] → (∀ q ∈ r.parts, sameUnit r.op q p = true → q.st ≠ .new) →
      servable s id r p .home = true → p.versioned = false →
      p.loc = .mem pa →
      let old := memRd s pa p.len
      let w := writeEffect addF32 r.op p old.1 (old.2.any fun b => b)
      Gives (.atomicAtHome id i) s fun t => done t ∧
        (∀ b q, w.1 = some (b, q) → t.mem = (memWr s pa b q).mem) ∧ (w.1 = none → t.mem = s.mem) ∧
        ∃ r' p', reqOf t id = some r' ∧ r'.parts[i]? = some p' ∧ p'.data = w.2.data ∧ p'.code = w.2.code) ∧
    ∀ (n o d c : Nat) (f : Nat → Nat → Nat), o < 2 ^ (8 * n) → d < 2 ^ (8 * n) →
      atomNew .add n o d c f = some ((o + d) % 2 ^ (8 * n)) ∧ atomNew .xchg n o d c f = some d ∧
      atomNew .cas n o d c f = (if o = c then some d else none) ∧ atomNew .minu n o d c f = some (min o d) ∧
      atomNew .max n o d c f = some (if (BitVec.ofNat (8 * n) o).slt (BitVec.ofNat (8 * n) d) then d else o) ∧
      atomNew .and n o d c f = some (o &&& d)

/-- R99, R101, R102: a read under a view waits on a lock, returns the transaction's own pending version, or the version that
the STS selects, or faults SNAP_LOST, as both do once the entry is no longer the view under which they were issued. A live write waits on a lock, gives the line a greater timestamp of its home unless
the clock is stopped, and applies; a write under a healthy transaction goes to its pending version and memory stays. -/
def Obligations.versioned_accesses : Prop :=
  ∀ (s : State) (id i pa : Nat) (r : Req) (p : Part), reqOf s id = some r → r.parts[i]? = some p → unitParts r i = [i] →
    p.loc = .mem pa → r.stage = .sent → r.after = [] → r.flush = false → heldLine s id r.iss p.loc = false → p.versioned = true →
    unitOpen s (issLease r.iss) p.loc = true →
    let l := issLease r.iss
    let n := pa / 128
    let v := reqView s r
    let own := if v.kind = 2 ∧ v.doom = 0 ∧ sameView id v = true then findPend (lineOf s n) l r.view else none
    let part (t : State) (f : Part → Prop) : Prop := ∃ r' p', reqOf t id = some r' ∧ r'.parts[i]? = some p' ∧ f p'
    let lost (t : State) : Prop := ∃ r', reqOf t id = some r' ∧ r'.stage = .faulted cSNAP p.va p.strad
    let waits (w : Instr) : Prop := locked s pa = true → Gives w s fun t => t.mem = s.mem ∧ part t fun p' => p'.st = .waiting
    (p.st = .home → r.op = .read → r.view ≠ 0 → waits (.snapshotRead id i) ∧
      (locked s pa = false →
        (∀ q, own = some q → Gives (.snapshotRead id i) s fun t => part t fun p' =>
          p'.st = .done ∧ (p'.data, p'.pois) = verBytes q.data q.pois (pa % 128) p.len) ∧
        (own = none → v.doom ≠ 4 → sameView id v = true → ∀ d q, snapRead s n v.sts = some (d, q) → Gives (.snapshotRead id i) s fun t => part t fun p' =>
          p'.st = .done ∧ (p'.data, p'.pois) = verBytes d q (pa % 128) p.len) ∧
        (own = none → v.doom = 4 ∨ sameView id v = false ∨ snapRead s n v.sts = none → Gives (.snapshotRead id i) s fun t => lost t))) ∧
    (∀ sts, ((lineOf s n).ts ≤ sts → snapRead s n sts = some (lineData s n)) ∧
      ∀ d q, sts < (lineOf s n).ts → snapRead s n sts = some (d, q) → ∃ w ∈ (lineOf s n).old, w.ts ≤ sts ∧ w.data = d ∧ w.pois = q) ∧
    (p.st = .waiting → locked s pa = false → (∀ g, r.op ≠ .swait g) →
      Gives (.lockWaitResume id i) s fun t => part t fun p' => p' = { p with st := .home }) ∧
    (p.st = .waiting → locked s pa = true → exec (.lockWaitResume id i) s = .next s) ∧
    (p.st = .home → r.op = .write → r.view = 0 → isPaired s r = false → waits (.liveWriteVersioned id i) ∧
      (locked s pa = false → Gives (.liveWriteVersioned id i) s fun t => (part t fun p' => p'.st = .done) ∧
        t.mem = (memWr s pa p.data p.pois).mem ∧
        (s.clockStopped = true → lineOf t n = lineOf s n) ∧
        (s.clockStopped = false → (lineOf s n).ts < (lineOf t n).ts ∧ stamp (tickOf s (homeDie s.boot pa)) 0 ≤ (lineOf t n).ts ∧
          (lineOf t n).ts % 256 = homeDie s.boot pa % 256))) ∧
    (p.st = .home → r.op = .write → r.view ≠ 0 → (sameView id v = false ∨ v.kind ≠ 2) →
      Gives (.pendingVersionWrite id i) s fun t => t.mem = s.mem ∧ t.lines = s.lines ∧ lost t) ∧
    (p.st = .home → r.op = .write → r.view ≠ 0 → sameView id v = true → v.kind = 2 →
      (v.doom ≠ 0 → Gives (.pendingVersionWrite id i) s fun t => t.mem = s.mem ∧ t.lines = s.lines ∧
        part t fun p' => p'.st = .done) ∧
      (v.doom = 0 → ∀ q, findPend (lineOf s n) l r.view = some q → Gives (.pendingVersionWrite id i) s fun t => t.mem = s.mem ∧
        (∃ q', findPend (lineOf t n) l r.view = some q' ∧ (q'.data, q'.pois) = verMerge q.data q.pois (pa % 128) p.data p.pois) ∧
        part t fun p' => p'.st = .done) ∧
      (v.doom = 0 → findPend (lineOf s n) l r.view = none → locked s pa = false → ∀ d q, snapRead s n v.sts = some (d, q) →
        v.writes < 16384 → slotFree s (issTenant s r.iss) n = true →
        Gives (.pendingVersionWrite id i) s fun t => t.mem = s.mem ∧
          (∃ q', findPend (lineOf t n) l r.view = some q' ∧ (q'.data, q'.pois) = verMerge d q (pa % 128) p.data p.pois) ∧
          part t fun p' => p'.st = .done))

/-- R104, R105, R109, R110: the lock phase locks the write set and tests it line by line in ascending order: the first line that
fails gives CONFLICT when it has a newer version than the view, or POISON when a clean commit finds its pending version poisoned; then C is read and the commit installs its versions with it and unlocks;
three ticks after C it returns 0. The collector's W lies at or below every view, and a home frees what W makes
unreachable. -/
def Obligations.commit_phases : Prop :=
  ∀ (s : State) (l : Nat) (rep : Bool) (ls : Lease) (cm : Commit), s.cur = .seq l rep → leaseOf s l = some ls →
    ls.commit = some cm →
    let d := anchorDie ls
    let ws := writeSet s l cm.slot
    let v := viewOf ls cm.slot
    let unlocked : Prop := ∀ n ∈ ws, (lineOf s n).lock = none
    let bad (n : Nat) : Option Nat :=
      if v.sts < (lineOf s n).ts then some 1
      else if cm.clean && ((findPend (lineOf s n) l cm.slot).map (·.pois)).getD 0 != 0 then some 3 else none
    let ended (t : State) (st : Nat) : Prop := ∃ s1, t = endCommit s1 l cm st
    (cm.phase = 0 → cm.shadow = false →
      (v.doom ≠ 0 → exec .commitLockRequest s = .next (endCommit s l cm v.doom)) ∧
      (v.doom = 0 → s.clockStopped = true → exec .commitLockRequest s = .next (endCommit s l cm 2)) ∧
      (v.doom = 0 → s.clockStopped = false → unlocked →
        (∀ st, ws.findSome? bad = some st → Gives .commitLockRequest s fun t => ended t st) ∧
        (ws.findSome? bad = none → Gives .commitLockRequest s fun t => ∃ ls', leaseOf t l = some ls' ∧
          ls'.commit = some { cm with locked := ws, phase := 1, c := stamp (tickOf s d) d } ∧ t.mem = s.mem ∧
          ∀ n ∈ ws, ((lineOf t n).lock.map fun k => k.lease) = some l ∧ (lineOf t n).ts = (lineOf s n).ts))) ∧
    (cm.phase = 1 → Gives .commitInstall s fun t => ∃ ls', leaseOf t l = some ls' ∧ ls'.commit = some { cm with phase := 2 } ∧
      ∀ n p, cm.locked = [n] → findPend (lineOf s n) l cm.slot = some p →
        lineData t n = (p.data, p.pois) ∧ (lineOf t n).ts = cm.c ∧ (lineOf t n).lock = none ∧
        findPend (lineOf t n) l cm.slot = none) ∧
    (cm.phase = 2 → (tickOf s d < cm.c / 256 + 3 → exec .commitWaitEnd s = .next s) ∧
      (cm.c / 256 + 3 ≤ tickOf s d → exec .commitWaitEnd s = .next (endCommit s l cm 0))) ∧
    (cm.shadow = false → ls.paired = false → ∀ st, ∃ ls', leaseOf (endCommit s l cm st) l = some ls' ∧
      (cm.xd ≠ 0 → xget ls'.seq cm.xd = BitVec.ofNat 64 st ∧ xpois ls'.seq cm.xd = false) ∧ ls'.seq.pc = ls.seq.pc + 4 ∧
      ls'.commit = none ∧ (viewOf ls' cm.slot).kind = 0) ∧
    (Gives .collectorPass s fun t => t = { s with wmark := t.wmark } ∧ ∀ l' ls' n w, leaseOf s l' = some ls' →
      mfind ls'.views n = some w → w.kind ≠ 0 → w.doom ≠ 4 → t.wmark ≤ w.sts) ∧
    ∀ st, Gives (.versionReclaim st) s fun t => t.mem = s.mem ∧ t.leases = s.leases ∧
      ∀ n, mwf s.lines = true → lineOf t n = if stackOf s.boot (n * 128) = st then reclaimLine s.wmark (lineOf s n) else lineOf s n

/-! ### Firings, controllers, the switch -/

/-- R164 to R167, R172 to R175, R177, R178, R272: the context that takes the turn starts its due handler if that is
runnable, else the runnable handler of highest PRIO that comes next after the one that fired last, and issues its first word in the
same fc, or faults a damaged word of its configuration; controllers run their children by kind over the positions of their chain,
and a chain with no position is done at once; one with a damaged word faults, and a passed tile takes no message; the COUNT-th
arrival releases a group; the root's done adds to DONECNT. -/
def Obligations.firings_and_controllers : Prop :=
  ∀ (s : State) (l t i k g : Nat) (ls : Lease) (x : Tile), leaseOf s l = some ls → tileOf ls t = some x → leaseLive s ls = true →
    let p := x.act
    let c := ctxOf x k
    let ctl (s : State) (f : Ctl → Ctl) : State := updTile s l t fun x => { x with ctl := f x.ctl }
    let started (h : Nat) : State := updTile s l t fun x => startFiring (takeTurn x k) k h
    let begins (h : Nat) : Prop :=
      (firingBad p k h = none → exec (.firingStart l t) s = .next { started h with agenda := .elem l t k :: (started h).agenda }) ∧
      ∀ w, firingBad p k h = some w → exec (.firingStart l t) s =
        .next (freezeAt s l t k c cPCTL .config fun r => { r with handler := h, cfgid := cfgId w.1 (keyRow ls t) (keyCol ls t) w.2 })
    let whole : Prop := x.passed = false ∧ ∀ i, i < 40 → wordBad p 3 i = false
    let rank (h g : Nat) : Nat := (g + 15 * (mget 15 c.lastFired (hPrio p h) + 1)) % 16
    let goIn := Instr.controllerGoReceived l t
    let doneIn := Instr.controllerDoneReceived l t i
    (x.passed = false → turnOf x = some k → c.fire = none →
      (∀ h, dueOf ls x k = some h → runnable x k h = true → begins h) ∧
      ((∀ h, dueOf ls x k = some h → runnable x k h = false) → ∃ h, h < 16 ∧ runnable x k h = true ∧ begins h ∧
        ∀ g, g < 16 → runnable x k g = true → hPrio p g ≤ hPrio p h ∧ (hPrio p g = hPrio p h → rank h h ≤ rank h g))) ∧
    (∀ h, (ctxOf (startFiring x k h) k).fire = some ⟨h, hEntry p h, [], [], c.ord, .start, false⟩) ∧
    (∀ m w, (w = goIn ∧ (ls.msgs.find? fun m => m.kind == .go && m.tile == t) = some m ∧ x.ctl.open_ = false) ∨
        (w = doneIn ∧ (ls.msgs.find? fun m => m.kind == .done && m.tile == t && m.sub == i) = some m) ∨
        (w = .permitReceived l t i ∧ (ls.msgs.find? fun m => m.kind == .permit && m.tile == t && m.sub == i) = some m) →
      (x.passed = true → exec w s = .next (lostMsg s l m)) ∧
      (x.passed = false → ∀ j, j < 40 → wordBad p 3 j = true → (∀ g, g < j → wordBad p 3 g = false) → exec w s =
        .next (noteFault (dropMsg s l m) l m.tile 0 cPCTL fun r => { r with cfgid := cfgId 5 (keyRow ls m.tile) (keyCol ls m.tile) j }))) ∧
    (∀ m, whole → (ls.msgs.find? fun m => m.kind == .go && m.tile == t) = some m → x.ctl.open_ = false →
      (∀ j, j < cNctr p → cStride p j ≠ 0) →
      let none_ : Prop := ∃ j, j < cNctr p ∧ tripsOf p j = 0
      ∀ ex, (ex = true ↔ none_) →
      let s1 := updTile (dropMsg s l m) l t fun x => { x with ctr := (ctrReset p).1, ctl := ⟨true, ex, [], [], [], 0⟩, ra := [] }
      (none_ → exec goIn s = .next (ctlDone s1 l t ls p)) ∧
      (¬ none_ → cKind p = 1 → exec goIn s = .next (goChild s1 l t ls p 0 1)) ∧
      (¬ none_ → cKind p = 2 → exec goIn s = .next (pipeStart l t ls p (List.range (cNch p)) s1)) ∧
      (¬ none_ → cKind p = 3 → exec goIn s =
        .next ((List.range (cNch p)).foldl (fun s i => goChild s l t ls p i (tripCount p)) s1))) ∧
    (∀ m, whole → (ls.msgs.find? fun m => m.kind == .done && m.tile == t && m.sub == i) = some m →
      let s1 := ctl (dropMsg s l m) fun c => { c with done := mput c.done i (mget 0 c.done i + 1) }
      let a := ctrAdvance p (cNctr p) 0 x.ctr
      let s2 := updTile s1 l t fun x => { x with ctr := a.1, ctl := { x.ctl with cur := 0, exhausted := a.2 } }
      let all : Prop := ∀ k, k < cNch p → k = i ∨ 1 ≤ mget 0 x.ctl.done k
      (cKind p = 1 → i + 1 < cNch p → exec doneIn s = .next (goChild (ctl s1 fun c => { c with cur := i + 1 }) l t ls p (i + 1) 1)) ∧
      (cKind p = 1 → cNch p ≤ i + 1 → exec doneIn s = .next (if a.2 then ctlDone s2 l t ls p else goChild s2 l t ls p 0 1)) ∧
      (cKind p = 2 → exec doneIn s = .next (pipeFinish (pipeStart l t ls p (List.range (cNch p))
        (if 0 < i then send s1 l ⟨.permit, t, i - 1, 0⟩ else s1)) l t ls p)) ∧
      (cKind p = 3 → all → exec doneIn s = .next (ctlDone s1 l t ls p)) ∧
      (cKind p = 3 → ¬ all → exec doneIn s = .next s1)) ∧
    (∀ m, whole → (ls.msgs.find? fun m => m.kind == .permit && m.tile == t && m.sub == i) = some m →
      exec (.permitReceived l t i) s = .next (pipeFinish (pipeStart l t ls p (List.range (cNch p))
        (ctl (dropMsg s l m) fun c => { c with perm := mput c.perm i (mget 0 c.perm i + 1) })) l t ls p)) ∧
    (∀ m, (ls.msgs.find? fun m => m.kind == .ctxGo && m.tile == t && m.sub == k) = some m → c.goOpen = false →
      let s1 := updCtx (dropMsg s l m) l t k fun c =>
        { c with
          goOpen := true
          goCnt := 0
          goLeft := if dcnt p k = 0 then m.val else dcnt p k }
      exec (.contextGoReceived l t k) s =
        .next (if x.passed then lostMsg s l m else if c.closed then finishGo s1 l t k else s1)) ∧
    (∀ m, (ls.msgs.find? fun m => m.kind == .arrival && m.tile == t && m.sub == k && m.val == g) = some m →
      Gives (.groupArrival l g t k) s fun u => ∃ ls' x', leaseOf u l = some ls' ∧ tileOf ls' t = some x' ∧
        ls'.msgs = ls.msgs.erase m ∧
        let e := mget ⟨0, 0, 0⟩ ls.groups (grpKey t g)
        let e' := mget ⟨0, 0, 0⟩ ls'.groups (grpKey t g)
        (ctxOf x' k).fire = c.fire.map (fun f => { f with wait := .gbar g e.gen }) ∧ e'.count = e.count ∧
        (e.arr + 1 < e.count → e'.arr = e.arr + 1 ∧ e'.gen = e.gen) ∧
        (e.arr + 1 = e.count → e'.arr = 0 ∧ e'.gen = (e.gen + 1) % 65536)) ∧
    (∀ m, (ls.msgs.find? fun m => m.kind == .phase && m.tile == t) = some m →
      exec (.phaseResetReceived l t) s =
        .next (updTile (dropMsg s l m) l t fun x => if x.passed then x else { x with phase := 0, phaseOn := true, holdOpen := true })) ∧
    ∀ m rep, s.cur = .seq l rep → (ls.msgs.find? fun m => m.kind == .rootDone) = some m →
      (replicaBase ≤ m.tile → exec .rootDoneReceived s = .next (dropMsg s l m)) ∧ (m.tile < replicaBase → Gives .rootDoneReceived s fun u => ∃ ls', leaseOf u l = some ls' ∧ ls'.rootGo = false ∧ ls'.tiles = ls.tiles ∧
        ls'.seq = { ls.seq with donecnt := (ls.seq.donecnt + 1) % 65536 } ∧ ls'.msgs = ls.msgs.erase m ∧
        (ls.paired = false → ls'.seqR = ls.seqR))

/-- R15, R143, R163, R166, R168, R170, R171, R178, R256, R359 to R362, R413: a routed token leaves its source at every destination
at once, or waits for room; a damaged word withholds its route; CUT, HOLD, DLY and NOP words move nothing themselves and FWL sets
the closed edges; a token lands on the neighbour's incoming track, between two dies over a crossing that is set, or is discarded as
stray over a closed edge; at its port it becomes visible, is diverted, or faults; a credit frees a slot, or is lost or doubled on a
link (log 26); a fabric cycle moves PHASE and CYCLE on. -/
def Obligations.switch_and_tracks : Prop :=
  ∀ (s : State) (l t k j : Nat) (ls : Lease) (x : Tile), leaseOf s l = some ls → tileOf ls t = some x →
    let c := ctxOf x k
    let only (i : Instr) (x' : Tile) : Prop := Gives i s fun u => OnlyTile s u l t ls x'
    (s.cur = .sw l t →
      (∀ (src dst : BitVec 5) (ctx : BitVec 2) (tok : Tok),
        let a := src.toNat
        let ds := destsOf x.act a ctx.toNat
        srcHead x a ctx.toNat = some tok → isData tok = true → ds ≠ [] → (∀ d b e, nhas x.eosSeen (seenKey 1 d b e) = false) →
        ∀ w ∈ [Instr.route src dst ctx, .fork src dst ctx, .merge src dst ctx],
          (routeBad x.act a ctx.toNat = true → only w x) ∧
          (routeBad x.act a ctx.toNat = false → (∀ d ∈ ds, dstRoom x d.1 d.2 = true) →
            only w (ds.foldl (fun y d => putAt y d.1 d.2 tok) (takeHead x a ctx.toNat))) ∧
          ((∃ d ∈ ds, dstRoom x d.1 d.2 = false) → only w x)) ∧
      (∀ tr id n, ∀ w ∈ [Instr.cut tr id, .hold tr, .dly tr n, .switchNop], exec w s = .next s) ∧
      ∀ e, only (.fwl e) { x with fwl := e }) ∧
    (leaseLive s ls = true →
      (∀ tr tok rest, tr < 16 → onTrack x tr = (0, tok) :: rest → cutOn x.act tr = false →
        (holdOn x.act tr = true → x.holdOpen = true) →
        let it := landTrack tr
        (edgeClosed x (tr / 4) = true → exec (.tokenArrival l t tr) s =
          .next (updTile (stray s l t 0) l t fun x => setTrack x tr ((onTrack x tr).drop 1))) ∧
        ∀ u y, edgeClosed x (tr / 4) = false → neighbour ls t (tr / 4) = some u → u ≠ t → tileOf ls u = some y →
          edgeClosed y (it / 4) = false → y.passed = false → bufferAt y it = none →
          let same : Prop := tileDie ls t = tileDie ls u
          let open_ : Prop := same ∨ crossed s (tileDie ls t) (tileDie ls u) = true
          let passes : Prop := open_ ∧ (same ∨ tok.inc = mget 0 s.incarn (tileDie ls t))
          (¬ open_ → exec (.tokenArrival l t tr) s = .next s) ∧
          (open_ → ¬ passes → only (.tokenArrival l t tr) (setTrack x tr rest)) ∧
          (passes → (mfind y.tin it).isSome = true → destsOf y.act it 0 ≠ [] → exec (.tokenArrival l t tr) s = .next s) ∧
          (passes → destsOf y.act it 0 ≠ [] → mfind y.tin it = none → Gives (.tokenArrival l t tr) s fun v => ∃ ls',
            OnlyLease s v l ls' ∧ ls' = { ls with tiles := ls'.tiles } ∧ tileOf ls' t = some (setTrack x tr rest) ∧
            tileOf ls' u = some { y with tin := mput y.tin it { tok with inc := incOf s ls u } } ∧
            ∀ w, w ≠ t → w ≠ u → tileOf ls' w = tileOf ls w)) ∧
      ∀ p tok, p < 8 → mfind x.inl (8 * k + p) = some tok →
        let w := Instr.tokenArrival l t (16 + 8 * k + p)
        let gone : Tile := { x with inl := mdel x.inl (8 * k + p) }
        let q := inPort c p
        let tr := bits (pbb x.act k p) 27 4
        let ok := accepts x.act k p tok
        let lost := updTile s l t fun x => { x with inl := mdel x.inl (8 * k + p) }
        let words := [24 * k + 2 * p, 24 * k + 2 * p + 1]
        (∀ i, c.frozen = none → words.find? (wordBad x.act 2) = some i → exec w s =
          .next (freezeAt s l t k c cPCTL .config fun r => { r with cfgid := cfgId 3 (keyRow ls t) (keyCol ls t) i })) ∧
        (words.find? (wordBad x.act 2) = none → bound x.act k p = false → exec w s = .next (stray lost l t k)) ∧
        (words.find? (wordBad x.act 2) = none → bound x.act k p = true →
          (ok = true → q.q.length < depth x.act k p →
            only w (setCtx gone k { c with ins := mput c.ins p { q with q := q.q ++ [tok] } })) ∧
          (ok = true → depth x.act k p ≤ q.q.length → exec w s = .next (portOverflow lost l t k p x)) ∧
          (ok = false → (pbb x.act k p).testBit 31 = true → trackRoom x tr = true → only w (enterTrack gone tr tok)) ∧
          (ok = false → (pbb x.act k p).testBit 31 = false →
            exec w s = .next (noteFault lost l t k cFORMAT fun r => { r with port := p })))) ∧
    (k < 4 → 0 < (outPort c j).due → Gives (.creditReturn l t k j) s fun u =>
      OnlyCtx s u l t k ls x { c with outs := mput c.outs j { outPort c j with due := (outPort c j).due - 1 } }) ∧
    (4 ≤ k → (neighbour ls t (j / 4) = none → exec (.creditReturn l t k j) s = .next s) ∧
      ∀ u, neighbour ls t (j / 4) = some u →
        exec (.creditReturn l t k j) s = .next (setLink s l u (landTrack j) (mget 0 x.cred j + k - 5))) ∧
    (s.fatal = false → Gives .fabricCycle s fun u => u = { s with fc := s.fc + 1, wall := s.wall + 1, leases := u.leases } ∧
      ∃ ls', leaseOf u l = some ls' ∧ (leaseLive s ls = false → ls' = ls) ∧
        (leaseLive s ls = true → fcTurns s l = false → ls' = { ls with wdog := ls.wdog + 1, slice := ls.slice + 1 }) ∧
        (leaseLive s ls = true → fcTurns s l = true →
          ls'.seq = { ls.seq with cycle := (ls.seq.cycle + 1) % 2 ^ 64 } ∧
          (x.passed = true → tileOf ls' t = some x) ∧
          (x.passed = false → ∃ x', tileOf ls' t = some x' ∧
            x'.phase = if x.phaseOn then (x.phase + 1) % ls.img.ii else x.phase)))

/-! ### Rounds, swaps, the end of tiles and phases -/

/-- R148, R163, R180, R182 to R188, R205, R208, R271: a context that has nothing to do and holds marker n at every bound input
enters the round and publishes it, and a stalled one enters a round of the Shunter suspended and removes the markers that reach it
later; a closed context passes on each marker that reaches it; a poisoned marker faults; a drained tile swaps its planes, keeping
registers, masks and flags, or faults its first bad check; a context closes with EOS on its outputs, or faults on tokens left over
or on a poisoned EOS; a phase ends with its sinks, and the final one ends the launch; a drained tile of the final phase passes. -/
def Obligations.rounds_swaps_ends : Prop :=
  ∀ (s : State) (l t k : Nat) (ls : Lease) (x : Tile), leaseOf s l = some ls → tileOf ls t = some x → leaseLive s ls = true →
    let c := ctxOf x k
    let ins := boundIn x.act k
    let inc := incOf s ls t
    let outs := markOuts ls x.act t k
    let unspoilt : Prop := ∀ p ∈ ins, ∀ e, (inPort c p).q.find? isEos = some e → e.pois = 0
    (∀ rd, ls.round = some rd → x.passed = false → c.closed = false → c.entered ≠ some rd.n →
      (∀ n, c.entered = some n → ∀ p ∈ ins, ∀ t ∈ (inPort c p).q, isMark t = true → markNo t ≠ n) →
      let entered := { pubMark (takeMarks x.act c k rd.n) outs (markerTok rd.n rd.isHold) inc with
        entered := some rd.n, mark := none, hold := rd.isHold }
      let calm : Prop := c.fire = none ∧ c.frozen = none ∧ runnables x k = [] ∧ (ins = [] → c.mark = some rd.n) ∧
        ∀ p ∈ ins, firstMark (inPort c p) = some rd.n
      calm ∨ (rd.shunter = true ∧ rd.isHold = true ∧ suspendable ls x k c = true) →
        (markPois x.act c k rd.n = false → Gives (.enterRound l t k) s fun u => OnlyCtx s u l t k ls x entered) ∧
        (markPois x.act c k rd.n = true → c.frozen = none → exec (.enterRound l t k) s = .next (freezeAt s l t k c cPCTL .round))) ∧
    (∀ n, x.passed = false → c.closed = false → c.entered = some n →
      (∃ p ∈ ins, ∃ m ∈ (inPort c p).q, isMark m = true ∧ markNo m = n) → markPois x.act c k n = false →
      Gives (.enterRound l t k) s fun u => OnlyCtx s u l t k ls x (takeMarks x.act c k n)) ∧
    (∀ p m, x.passed = false → c.closed = true →
      (ins.findSome? fun p => ((inPort c p).q.find? isMark).map fun m => (p, m)) = some (p, m) → markPois x.act c k (markNo m) = false →
      let taken := { c with entered := some (markNo m), ins := mput c.ins p ⟨(inPort c p).q.erase m, 0⟩ }
      Gives (.enterRound l t k) s fun u => OnlyCtx s u l t k ls x (pubMark taken outs m inc)) ∧
    (∀ left a f known, ls.seq.op = .cswap left a f known → nhas left t = true →
      (drained s l t ls x = true → swapBad ls left known t x = none →
        exec (.planeSwap l t) s = .next (x.tin.foldl (resort l t) (updTile (tickOff s l t) l t (swapTile ls t)))) ∧
      (∀ cause id, drained s l t ls x = true → swapBad ls left known t x = some (cause, id) → exec (.planeSwap l t) s =
        .next (noteFault (tickOff s l t ((badGroups ls left known t).map (·.2))) l t 0 cause fun r => { r with cfgid := id })) ∧
      (drained s l t ls x = false → stuckTile s l t ls x = true →
        exec (.planeSwap l t) s = .next (stray (tickOff s l t) l t 0)) ∧
      (drained s l t ls x = false → stuckTile s l t ls x = false → exec (.planeSwap l t) s = .next s)) ∧
    (let y := swapTile ls t x;
      y.act = x.shd ∧ y.shd = x.act ∧ y.store = x.store ∧ y.holdOpen = false ∧ (k < 4 →
        let d := ctxOf y k
        d.v = c.v ∧ d.m = c.m ∧ d.estat = c.estat ∧ d.hmask = enMask x.shd k ∧ d.skip = 0 ∧ d.miss = [] ∧ d.ins = [] ∧
          d.outs = [] ∧ d.closed = false ∧
          (d.gs, d.half) = if kindOf ls t = 1 then (seedOf ls x.shd t k, false) else (c.gs, c.half))) ∧
    (x.passed = false → mayClose ls x k = true →
      ((∀ p ∈ ins, aheadEos c p = []) → ¬ unspoilt → exec (.contextClose l t k) s = .next (freezeAt s l t k c cPCTL .close)) ∧
      ((∀ p ∈ ins, aheadEos c p = []) → unspoilt → (∀ j ∈ boundOut x.act k, nhas c.eosSent j = false → 1 ≤ outFree x.act c k j) →
        exec (.contextClose l t k) s = .next (closeNow s l t k ls x)) ∧
      (∀ p before after, ins = before ++ p :: after → (∀ q ∈ before, aheadEos c q = []) → aheadEos c p ≠ [] →
        exec (.contextClose l t k) s =
          .next (raise (updCtx s l t k fun c => { c with frozen := some (.close, 0) }) l { FRec.zero with
            source := 1
            cause := cRATE
            ctx := k
            tile := some t
            port := p
            cnta := (aheadEos c p).length
            ports := portFill c
            freezes := true }))) ∧
    (ls.phStarted = true → ls.phEnded = false → (∀ m ∈ ls.msgs, m.kind ≠ .phase) → phaseDone s l ls = true →
      let s1 := updLease s l fun ls => { ls with phEnded := true }
      exec (.phaseEnd l) s = .next (if ls.finalPh then endLaunch s1 l else s1)) ∧
    (ls.finalPh = true → ls.phStarted = true → x.passed = false → (∀ m ∈ ls.msgs, m.tile ≠ t) → drained s l t ls x = true →
      allClosed x = true → x.tout = [] → x.tin = [] → x.inl = [] → x.ebs = [] → x.kept = [] → ¬ (kindOf ls t = 2 ∧ ls.img.ssplit ≠ 0) →
      exec (.tilePass l t) s = .next (wakeShunter (updTile s l t fun _ => Tile.gone)))

/-! ### Streams, engines, run-ahead loads -/

/-- R65, R80, R98, R107, R133 to R135, R147, R151, R275, R277 to R283, R340, R433: an input stream delivers the token that has come, then asks
for the next, and after the last gives EOS and ends its binding; an output stream stores each data token, a token beyond LEN
being stray, absorbs markers, and ends with EOS once its stores are acknowledged; an engine's operation works once the accesses before
it are performed: line by line it reads its source and writes its destination, faulting at a place that it may not reach, the members
of a collective meet, then the arrivals are made and it is done; a run-ahead load only prefetches: it changes no result and never
faults. -/
def Obligations.streams_and_engines : Prop :=
  ∀ (s : State) (l t k sid : Nat) (ls : Lease), leaseOf s l = some ls →
    let x := mget Stream.zero ls.streams sid
    let win := Instr.streamInputToken l sid
    let wout := Instr.streamOutputToken l sid
    (∀ e, entOf ls sid = some e → leaseLive s ls = true → x.bound = true → x.stopped = false →
      (strmIn e = true → entryFree ls e = true →
        (∀ tok, x.buf = some tok →
          exec win s = .next (setStrm (intoPort s l ls e tok) l sid { x with buf := none, scnt := x.scnt + 1 })) ∧
        (x.buf = none → x.req = none →
          (∀ m, x.mark = some m → exec win s = .next (setStrm (intoPort s l ls e m) l sid { x with mark := none })) ∧
          (x.mark = none → x.started = true → inHold ls = false →
            (x.kind ≠ 2 → x.len ≤ x.k →
              exec win s = .next (setStrm (intoPort s l ls e eosTok) l sid { x with bound := false, eos := true })) ∧
            (x.kind ≠ 2 → x.k < x.len → ls.paired = false →
              (∀ c, viewCheck ls x.view .rd = some c → exec win s = .next (strmFault s l sid ls e c (x.base + 96 * x.k))) ∧
              (viewCheck ls x.view .rd = none →
                let a := addReq s (strmReq l sid x .read (lineParts 0 (x.base + 96 * x.k) 96))
                exec win s = .next (setStrm a.1 l sid { x with k := x.k + 1, req := some a.2 }))) ∧
            (∀ b c n tok, x.kind = 2 → chanHead s x = some (b, c, n, tok) →
              (localTenant s b n = some ls.tenant → exec win s =
                .next (setStrm (intoPort (popChan s b c) l ls e tok) l sid
                  { x with bound := !isEos tok, eos := isEos tok, scnt := if isData tok then x.scnt + 1 else x.scnt })) ∧
              (localTenant s b n ≠ some ls.tenant → exec win s =
                .next (emit (popChan s b c) (.peerReply b .badTenant))))))) ∧
      (strmOut e = true → x.eos = false → x.req = none → ls.paired = false → ∀ tok, outHeads ls e = some [tok] →
        let s1 := takeOut s l ls e
        (x.kind = 2 → (couplerOf s (x.base % 16)).up = true → exec wout s = .next (sendToken s1 l sid ls x tok)) ∧
        (x.kind ≠ 2 →
          (isEos tok = true → exec wout s = .next (setStrm s1 l sid { x with eos := true, bound := decide (x.acks ≠ 0) })) ∧
          (isMark tok = true → exec wout s = .next s1) ∧
          (isData tok = true → x.len ≤ x.k → exec wout s =
            .next (noteFault s1 l (strmTile ls e) e.ctx cSTRAY fun r => { r with port := e.port - 16 })) ∧
          (isData tok = true → x.k < x.len →
            (∀ c, viewCheck ls x.view .wr = some c → exec wout s = .next (strmFault s1 l sid ls e c (x.base + 96 * x.k))) ∧
            (viewCheck ls x.view .wr = none → exec wout s =
              .next (setStrm (addReq s1 (strmReq l sid x .write (writeParts 0 (x.base + 96 * x.k) (leBytes 96 tok.data.toNat)
                ((List.range 96).map fun i => tok.pois.getLsbD (i / 4))))).1 l sid
                { x with k := x.k + 1, acks := x.acks + 1 })))))) ∧
    (s.fatal = false → ls.state = .run ∨ ls.state = .drain ∨ ls.state = .save →
      ∀ e, engOp s l t = some e → e.after = [] → e.job = none →
      let s1 := bump s
      let w := Instr.engineComplete l t
      (∀ c a, e.fail = some (c, a) → exec w s = .next (engFault s l t c a)) ∧
      (e.fail = none →
        (e.left = none → exec w s = .next (setEng s1 l t fun o => { o with left := some (tdLines e.seqTd) })) ∧
        (∀ lines, e.left = some lines → lines ≠ [] → e.cur = [] → ∃ j, j < lines.length ∧ exec w s =
          .next (setEng s1 l t fun o =>
            { o with left := some (lines.eraseIdx j), cur := o.cur ++ [⟨lines.getD j 0, e.reads (lines.getD j 0), none, []⟩] })) ∧
        (e.left = some [] →
          (∀ c, e.cur = [c] → c.wait = none →
            (∀ k n, c.rd = [(k, n)] →
              (∀ cause s2, engAt s1 l (e.at k).1 (e.at k).2 .rd = .bad cause s2 →
                exec w s = .next (engFault s2 l t cause (e.at k).2)) ∧
              (∀ job s2, engAt s1 l (e.at k).1 (e.at k).2 .rd = .wait job s2 →
                exec w s = .next (setEng s2 l t fun o => { o with job := some job })) ∧
              (∀ u a ver s2, engAt s1 l (e.at k).1 (e.at k).2 .rd = .at (.tile u a) ver s2 →
                exec w s = .next (if engHeld s2 l t (.tile u a) then s2 else
                  let b := getBytes s2 l (.tile u a) n
                  setEng s2 l t fun o => { o with cur := o.cur.modify 0 fun c => { c with
                    rd := c.rd.eraseIdx 0
                    got := c.got ++ (b.1.zipIdx.map fun e => (k + e.2, e.1, b.2.getD e.2 false)) } }))) ∧
            (c.rd = [] → e.rowsOf c.line = [] →
              (e.gathering = true →
                exec w s = .next (setEng s1 l t fun o => { o with src := o.src ++ c.got, cur := o.cur.eraseIdx 0 })) ∧
              (e.gathering = false →
                let dst := e.kind.dst
                let ws := (tdIn dst c.line).map fun q => (tdAddr dst q, e.byte c q)
                let a0 := (ws.map (·.1)).foldl min ((ws.map (·.1)).headD 0)
                (∀ cause s2, engAt s1 l dst.space a0 .wr = .bad cause s2 → exec w s = .next (engFault s2 l t cause a0)) ∧
                (∀ job s2, engAt s1 l dst.space a0 .wr = .wait job s2 →
                  exec w s = .next (setEng s2 l t fun o => { o with job := some job })) ∧
                (∀ lc ver s2, engAt s1 l dst.space a0 .wr = .at lc ver s2 → (∃ u a, lc = .tile u a) ∨ (∃ pa, lc = .mem pa) →
                  engHeld s2 l t lc = false → (∀ w ∈ ws, w.2.2 = false) → exec w s =
                    .next (setEng ((ewRuns ws).foldl (fun s r => engPut s l ls e.shadow (locAdd lc (r.1 - a0)) ver r.1 r.2.1 r.2.2) s2) l t
                      fun o => { o with cur := o.cur.eraseIdx 0 }))))) ∧
          (e.cur = [] →
            (e.gathering = false →
              (e.ports ≠ [] → exec w s = .next (engFlush s1 l t e)) ∧
              (e.ports = [] → e.out ≠ [] → exec w s = .next s1) ∧
              (e.ports = [] → e.out = [] →
                (∀ a, e.withheld = some a → exec w s = .next (engFault s1 l t cPEGR a)) ∧
                (e.withheld = none → (∀ sw, e.sync = some sw → arrivalCount (tdSize e.kind.dst) ≤ e.arrived.length) →
                  exec w s = .next (engDone s1 l t 0)) ∧
                (∀ sw pa ver s2, e.withheld = none → e.sync = some sw → e.arrived.length < arrivalCount (tdSize e.kind.dst) →
                  engAt s1 l 0 sw .rw = .at (.mem pa) ver s2 → engHeld s2 l t (.mem pa) = false →
                  let n := tdSize e.kind.dst
                  let j := e.arrived.length
                  let part := if arrivalCount n = 1 then n else min (2 ^ 31) (n - j * 2 ^ 31)
                  exec w s = .next (match arriveAt (unitsReady true s2 pa 16) l (.mem pa) part (nhas e.apois j) with
                    | some s3 => setEng s3 l t fun o => { o with arrived := nadd o.arrived j }
                    | none => engFault s2 l t cPADDR sw)))) ∧
            ∀ cid root rank np ty op count ms src dst, e.kind = .coll cid root rank np ty op count ms src dst → e.res = none →
              let here := membersIn s1 ls.tenant cid ms
              let bad := here.filter fun m => collDiffers s1 ls.tenant cid m.2
              (bad ≠ [] → exec w s = .next (bad.foldl (fun s m => engFault s m.2.lease m.2.op.ticket cCONFIG 0) s1)) ∧
              ∀ xs, bad = [] → xs.length = ms.length → (∀ r, r < ms.length → (ms.getD r (0, none)).2 = none ∧ ∃ m,
                  here.find? (fun m => m.1 == r) = some m ∧ m.2.op.res = none ∧ collBytes m.2.op = some (xs.getD r [])) →
                exec w s = .next (here.foldl (init := bump s1) fun s m => setEng s m.2.lease m.2.op.ticket fun o =>
                  { o with res := some (collResult op ty root count m.1 xs), left := some (tdLines o.kind.dst), src := [] }))))) ∧
    Gives (.runAheadLoad l t k) s fun u => u = { s with leases := u.leases, reqs := u.reqs, nextId := u.nextId } ∧
      s.nextId ≤ u.nextId ∧ (∀ id, id < s.nextId → reqOf u id = reqOf s id) ∧
      (∀ id, s.nextId ≤ id → id < u.nextId → ∃ r, reqOf u id = some r ∧ r.iss = .elem l t k ∧ r.op = .pref ∧ r.dst = .none ∧ r.posted = true) ∧
      ∃ ls', leaseOf u l = some ls' ∧ ls' = { ls with tiles := ls'.tiles } ∧ (∀ j, j ≠ l → leaseOf u j = leaseOf s j) ∧
        ∀ v y, tileOf ls v = some y → ∃ y', tileOf ls' v = some y' ∧ y' = { y with ra := y'.ra, ord := y'.ord }
/-! ### Leases: drains, saves, the end -/

/-- R64, R112, R373 to R381, R391 to R399: a lease that runs is drained by its park limit or its watchdog; a drain that takes
100 us ends; a complete cut leads to the save, or to a stop for the watchdog; a complete save frees the tiles and a restore
that checks resumes; END and RETRYSAVE act on the lease they select; a stop writes its report, then the completion entry,
and the lease is gone; a round of the Shunter tries resuming leases, aged heads, children and queues in this order. -/
def Obligations.lease_states : Prop :=
  ∀ (s : State) (l : Nat) (ls : Lease), leaseOf s l = some ls →
    let becomes (i : Instr) (st : LState) (p : Purpose) : Prop :=
      Gives i s fun t => ∃ ls', leaseOf t l = some ls' ∧ ls'.state = st ∧ ls'.purpose = p
    let locking : Prop := ∃ c, ls.commit = some c ∧ c.phase = 0
    let blocked : Prop := ∃ e ∈ s.reqs, issLease e.2.iss = l ∧ blocksCut e.2 = true
    let size := 4096 * ls.img.savesz
    let pages := pageNos ls.saveBase (4096 + saveLen ls)
    (ls.state = .run → ¬ locking →
      (savable ls = true → (parkDue s l).isSome = true → becomes (.parkLimitExpiry l) .drain .park) ∧
      (watchdogDue ls = true → becomes (.watchdogExpiry l) .drain .watchdog)) ∧
    (watchdogDue ls = false → exec (.watchdogExpiry l) s = .next s) ∧
    (ls.state = .drain →
      (watchdogDue ls = true → becomes (.watchdogExpiry l) .drain .watchdog) ∧
      (s.wall - ls.drainAt < Config.drainLimit → exec (.drainTimeout l) s = .next s) ∧
      (Config.drainLimit ≤ s.wall - ls.drainAt →
        (ls.purpose = .watchdog → Gives (.drainTimeout l) s fun t =>
          ∃ ls', leaseOf t l = some ls' ∧ ls'.state = .stop ∧ ls'.endc = cDRAIN) ∧
        (ls.purpose ≠ .watchdog → ls.purpose ≠ .checkpoint → becomes (.drainTimeout l) .run .none)) ∧
      (roundFree ls = true → exec (.cutComplete l) s = .next (injectHold s l)) ∧
      (roundFree ls = false → cutDone s l ls = false → exec (.cutComplete l) s = .next s) ∧
      (roundFree ls = false → cutDone s l ls = true →
        (ls.purpose ≠ .watchdog → becomes (.cutComplete l) .save ls.purpose) ∧
        (ls.purpose = .watchdog → Gives (.cutComplete l) s fun t =>
          ∃ ls', leaseOf t l = some ls' ∧ ls'.state = .stop ∧ ls'.endc = cWATCH))) ∧
    (ls.state = .save → ls.commit = none → ls.purpose ≠ .checkpoint → ls.engines = [] → ¬ blocked →
      (size < 4096 + saveLen ls → exec (.saveComplete l) s = .next (saveFails (beginArea s l ls) l ls (ls.saveBase + size) 0)) ∧
      (4096 + saveLen ls ≤ size →
        (∀ s1, smapPages l pages s = .wait s1 → exec (.saveComplete l) s = .next s1) ∧
        (∀ c va g s1, smapPages l pages s = .bad c va g s1 → exec (.saveComplete l) s =
          .next (saveFails (if va / 4096 = ls.saveBase / 4096 then s1 else beginArea s1 l ls) l ls va g)) ∧
        ∀ s1 now, smapPages l pages s = .ok s1 → leaseOf s1 l = some now →
          exec (.saveComplete l) s = .next (wakeShunter (updLease (writeArea s1 l now) l goAway)))) ∧
    ((goAway ls).state = .away ∧ (goAway ls).placed = false) ∧
    (ls.state = .restore → ls.purpose ≠ .checkpoint →
      (areaGood s l ls = false → Gives (.restoreComplete l) s fun t =>
        ∃ ls', leaseOf t l = some ls' ∧ ls'.state = .stop ∧ ls'.endc = cSAVE) ∧
      (areaGood s l ls = true → Gives (.restoreComplete l) s fun t => ∃ ls', leaseOf t l = some ls' ∧
        ls'.state = .run ∧ ls'.purpose = .none ∧ ls'.tlb = [] ∧ ls'.slice = 0 ∧ ls'.claim = false ∧
        ls'.seq.x = ls.seq.x ∧ ls'.seq.pc = ls.seq.pc ∧ tickOf s (anchorDie ls) ≤ ls'.seq.ord.floor)) ∧
    (∀ sv, ls.state = .restore → ls.purpose = .checkpoint → rollbackWaits s l ls = false → mfind s.awaitSave l = some sv →
      (areaStale s l ls = true ∨ areaGood s l ls = true) → exec (.restoreComplete l) s = .next (rollbackDone s l sv)) ∧
    (∀ m, exec (.select m) s = .next { s with lsel := m }) ∧
    (ls.state ≠ .stop → Gives (.leaseEnd l) s fun t => t.lsel = l ∧
      ∃ ls', leaseOf t l = some ls' ∧ ls' = { ls with state := .stop, endc := endCause ls }) ∧
    (ls.state = .held → Gives (.retrysave l) s fun t => t.lsel = l ∧
      ∃ ls', leaseOf t l = some ls' ∧ ls' = { ls with state := .save }) ∧
    (ls.state ≠ .held → exec (.retrysave l) s = .next { s with lsel := l }) ∧
    (ls.state = .stop → ¬ (ls.endc = 0 ∧ endWaits s l ls = true) → (∀ c, ls.commit = some c → c.phase = 0) →
      (∀ e ∈ s.reqs, issLease e.2.iss = l → awaitsAnswer e.2 = false) →
      let s1 := discardAll s l ls
      ∀ now, leaseOf s1 l = some now → ∀ s2 s3,
        (if now.endc = 0 then s2 = s1 else writeReport s1 l now = (some s2, s3)) →
        (∀ p, ls.parent = some p → exec (.stopComplete l) s = .next (wakeShunter (forgetLease s2 l now))) ∧
        (∀ s4 s5, ls.parent = none → retireTask s2 ls.queue ls.task ls.endc = (some s4, s5) →
          exec (.stopComplete l) s = .next (wakeShunter (forgetLease s4 l now)))) ∧
    (∀ u, leaseOf (wakeShunter (forgetLease u l ls)) l = none) ∧
    (ls.placed = true → sliceOver ls = true → Gives (.qosSliceExpiry l) s fun t => ∃ ls', leaseOf t l = some ls' ∧
      ls' = { ls with claim := ls'.claim } ∧ (ls'.claim = true ↔ ∃ c ∈ wantsOf s, ls.lrec.prio ≤ c)) ∧
    (ls.placed = false ∨ sliceOver ls = false → exec (.qosSliceExpiry l) s = .next s) ∧
    (s.fatal = false →
      let s1 := s.queues.foldl (fun s e => if e.2.st == .inn || e.2.st == .switchingOut then takeRecord (loadQrec s e.1) e.1 else s)
        { s with leases := mmap s.leases fun _ ls => closeRound ls }
      let s2 := stepAged (stepResume s1)
      let aged : Prop := ∃ e ∈ s2.queues, e.2.aged = true ∧ mayStart e.2 = true
      let ends (s3 : State) : Prop :=
        let s4 := setClaims (ageHeads s3) (wantsOf s3)
        exec .shunterRound s = .next (compactStep (s4.queues.foldl (fun s e => switchOut s e.1) s4))
      (aged → ends s2) ∧ (¬ aged → ends ([3, 2, 1, 0].foldl (fun s c => serveClass c 65536 s) (stepChildren s2))))

/-- R385, R387, R388, R290, R291: the oldest waiting record enters the mailbox unless 63 are unfinished; at an instruction
boundary the trap for the oldest unfinished record is taken: EPC, ECAUSE and EADDR are written, INTRAP becomes 1, the PC goes
to TVEC; with TVEC 0, or outside the program region, the sequencer stops. R418 to R421: requests of a pair that
agree are issued once, and a difference or a missing twin is a mismatch; a checkpoint drains the pair, publishes shadow 3
and empties the logs. R422: the credit audit compares the credits of each link of the die with the free slots
behind it, reports a discrepancy and sets the count right; a retry of a link flit changes nothing. -/
def Obligations.records_traps_pairs : Prop :=
  ∀ (s : State) (l id : Nat) (rep : Bool) (ls : Lease), leaseOf s l = some ls →
    let q := ls.seq
    let r := mget FRec.zero ls.posted ls.mdone
    (s.cur = .seq l rep →
      (∀ f rest, ls.recs = f :: rest →
        (63 ≤ ls.mput - ls.mdone → exec .faultRecordWrite s = .next s) ∧
        (ls.mput - ls.mdone < 63 → Gives .faultRecordWrite s fun t => ∃ ls', leaseOf t l = some ls' ∧
          ls' = { ls with recs := rest, mput := ls.mput + 1, posted := mput ls.posted ls.mput f } ∧
          t = smapWr (smapWr { s with leases := t.leases } ls (ls.mbox + 64 * (1 + ls.mput % 63))
            (((recDwords l ls.mput ls f).map (leBytes 8)).flatten)) ls ls.mbox (leBytes 4 ((ls.mput + 1) % 2 ^ 32)))) ∧
      (ls.mdone < ls.mput → q.intrap = false → q.stopped = false → ls.paired = false →
        q.op = .none ∨ (∃ left a f g, q.op = .cswap left a f g) ∨ (∃ m, q.op = .drain m) ∨ (∃ j, q.op = .page j) ∨ (∃ p, q.op = .launch p) →
        (q.tvec ≠ 0 → inRegion ls q.tvec = true → Gives .trapTaken s fun t => OnlyLease s t l { ls with seq := { q with
          epc := q.pc
          ecause := BitVec.ofNat 26 (r.code * 2 ^ 16 + r.source * 256 + r.cause)
          eaddr := BitVec.ofNat 64 r.faddr
          intrap := true
          saved := keepOp q
          op := .none
          pc := q.tvec
          ord := { q.ord with floor := max q.ord.floor (tickOf s (anchorDie ls)) } } }) ∧
        (q.tvec = 0 ∨ inRegion ls q.tvec = false → Gives .trapTaken s fun t =>
          Out.msix (.vf ls.tenant) 0 ∈ t.out ∧ ∃ ls', leaseOf t l = some ls' ∧ ls'.unhandled = true ∧ ls'.seq.stopped = true ∧
            ls'.seq.pc = q.pc ∧ ls'.seq.intrap = false)) ∧
      (ls.mput ≤ ls.mdone ∨ q.intrap = true → exec .trapTaken s = .next s) ∧
      (ls.paired = true →
        (ls.state = .run → ls.ckWanted = true ∨ logDue ls = true → transactionOpen ls = false →
          (∀ c, ls.commit = some c → c.phase ≠ 0) → Gives .checkpoint s fun t => ∃ ls', leaseOf t l = some ls' ∧
            ls'.state = .drain ∧ ls'.purpose = .checkpoint ∧ ls'.ckWanted = true) ∧
        (ls.state = .save → ls.purpose = .checkpoint → ls.ckWanted = false → ls.commit = none →
          let shut := (mget ⟨false, false⟩ ls.shadows 3).doomed
          (shut = true ∨ (writeSet s l 11 ≠ [] ∧ s.clockStopped = true) → Gives .checkpoint s fun t =>
            ∃ ls', leaseOf t l = some ls' ∧ ls'.state = .stop ∧ ls'.endc = cSAVE) ∧
          (shut = false → writeSet s l 11 ≠ [] → s.clockStopped = false →
            exec .checkpoint s = .next (startCommit s l ls true 11 false 0)) ∧
          (shut = false → writeSet s l 11 = [] → Gives .checkpoint s fun t => ∃ ls', leaseOf t l = some ls' ∧
            ls'.state = .run ∧ ls'.purpose = .none ∧ ls'.log = [] ∧ ls'.mismatches = 0))) ∧
      (ls.paired = false → exec .checkpoint s = .next s)) ∧
    (∀ a, reqOf s id = some a → issLease a.iss = l → a.stage = .exit → leaseLive s ls = true →
      (∀ tid b, twinOf s id a = some (tid, b) →
        let p := if fromReplica a = true then (tid, b) else (id, a)
        let t := if fromReplica a = true then (id, a) else (tid, b)
        (sameRequest a b = false → exec (.pairedExitRequest id) s = .next (rollback s l)) ∧
        (sameRequest a b = true →
          (∀ e, logged ls p.2 = some e → exec (.pairedExitRequest id) s = .next (updReq (passBoth s p t) p.1 fun r =>
            { r with parts := logParts p.2.parts e.data e.pois, stage := if r.chain.isSome then .chain else .performed })) ∧
          (logged ls p.2 = none → logFull ls (exitOf ls p.2) = false → exec (.pairedExitRequest id) s =
            .next (updReq s p.1 fun r => { r with stage := if r.chain.isSome then .chain else .issued })) ∧
          (logged ls p.2 = none → logFull ls (exitOf ls p.2) = true → exec (.pairedExitRequest id) s = .next s))) ∧
      (twinOf s id a = none → exec (.pairedExitRequest id) s = .next s) ∧
      (twinOf s id a = none → twinsOf s id a = [] → (∀ e ∈ s.reqs, e.1 ≠ id → issLease e.2.iss = l → e.2.key ≠ a.key) →
        (Config.twinLimit ≤ ls.fcs - a.bornFc → exec (.twinTimeout id) s = .next (rollback s l)) ∧
        (ls.fcs - a.bornFc < Config.twinLimit → exec (.twinTimeout id) s = .next s))) ∧
    (ls.mismatches ≠ 0 ∨ mfind s.awaitSave l = none → rollback s l = forceStop s l cCMP) ∧
    (∀ sv, ls.mismatches = 0 → mfind s.awaitSave l = some sv → ∃ ls', leaseOf (rollback s l) l = some ls' ∧
      ls' = { ls with state := .restore, purpose := .checkpoint }) ∧
    (∀ d, exec (.creditAuditWindow d) s = .next ((linksOf s d).foldl (fun s e => auditLink s e.1 e.2.1 e.2.2) s)) ∧
    (∀ t tr x, tileOf ls t = some x →
      (mget 0 x.cred tr = 0 → auditLink s l t tr = s) ∧
      (∀ u, mget 0 x.cred tr ≠ 0 → t < replicaBase → tr < 16 → neighbour ls t (tr / 4) = some u →
        neighbour ls u (landTrack tr / 4) = some t →
        let free := 1 + dlyOn x.act tr - (onTrack x tr).length
        let credit := ((free : Int) + mget 0 x.cred tr).toNat
        let s' := auditLink s l t tr
        let ev := pfEvent s 0x0A ls.tenant l (tileDie ls t) 0 tr (credit * 2 ^ 32 + free)
        (s'.out = ev.out ∧ s'.evput = ev.evput ∧ s'.evovf = ev.evovf) ∧
        ∃ ls' x' r, leaseOf s' l = some ls' ∧ tileOf ls' t = some x' ∧ mget 0 x'.cred tr = 0 ∧ ls'.recs = ls.recs ++ [r] ∧
          r.source = 1 ∧ r.cause = cAUDIT ∧ r.tile = some t ∧ r.port = tr ∧ r.cnta = credit ∧ r.cntb = free)) ∧
    exec (.linkFlitRetry id) s = .next s

/-! ### Clocks, dies, errors -/

/-- R59, R90 to R92, R120, R131, R401, R402, R413 to R415, R442: each die's counter steps by one, once in a period of the panel
reference, which counts up to the tick at which it stops; at the horizon the old views are revoked, and a rebase reduces every tick
by SHIFT; a fatal error freezes the panel; a throttle step rises while a limit is exceeded and falls afterwards; the reset of a die
goes through evacuation, quiesce and restart; a unit that has been zeroed reads 0. -/
def Obligations.clocks_dies_units : Prop :=
  ∀ (s : State) (l : Nat) (ls : Lease), leaseOf s l = some ls →
    let d := s.dieNo
    let stopped : Prop := s.clockStopped = true ∨ Config.stopTick ≤ s.tick
    (∀ m, (stopped → exec (.tickAdvance m) s = .next s) ∧
      (¬ stopped → Gives (.tickAdvance m) s fun t => t.leases = s.leases ∧ t.mem = s.mem ∧ t.lines = s.lines ∧
        (∀ e, e < 160 → tickOf t e = tickOf s e + (if m.getLsbD e && !s.lead.getLsbD e then 1 else 0)) ∧
        (s.lead ||| m ≠ BitVec.allOnes 160 → t.tick = s.tick ∧ t.clockStopped = s.clockStopped) ∧
        (s.lead ||| m = BitVec.allOnes 160 → t.tick = s.tick + 1 ∧ t.lead = 0 ∧
          t.clockStopped = decide (s.tick + 1 = Config.stopTick) ∧
          (s.tick + 1 = Config.horizonTick → t.agenda = .event .clockHorizon :: s.agenda)))) ∧
    (s.rebasing = false → Config.horizonTick ≤ s.tick → exec .clockHorizon s =
      .next ((oldViews s).foldl revokeView (pfEvent { s with rebasing := true } 0x04 0xFFF 0xFFF 0xFF 0 0 0))) ∧
    (s.rebasing = true ∨ s.tick < Config.horizonTick → exec .clockHorizon s = .next s) ∧
    (s.rebasing = true → Gives .clockRebaseComplete s fun t => t.tick = s.tick - Config.rebaseShift ∧ t.rebasing = false ∧
      t.clockStopped = false ∧ t.rebases = s.rebases + 1 ∧ t.copies = [] ∧ leaseOf t l = some (shiftLease ls) ∧ t.mem = s.mem) ∧
    (s.rebasing = false → exec .clockRebaseComplete s = .next s) ∧
    (s.rebasing = true → Config.stopTick ≤ s.tick → exec .clockStop s = .next { s with clockStopped := true }) ∧
    (s.rebasing = false ∨ s.tick < Config.stopTick → exec .clockStop s = .next s) ∧
    (∀ c, (s.fatal = true → exec (.fatalError c) s = .next s) ∧
      (s.fatal = false → Gives (.fatalError c) s fun t => t.fatal = true ∧ Out.aer true ∈ t.out ∧ t.leases = s.leases ∧
        t.mem = s.mem ∧ (s.dump.ctl.getLsbD 0 = true → t.dump.stat.getLsbD 0 = true) ∧
        (s.dump.ctl.getLsbD 0 = false → t.dump = s.dump))) ∧
    (∀ power temp, (115 ≤ temp → Gives (.throttleStep l power temp) s fun t => t.fatal = true) ∧
      (temp < 115 → Gives (.throttleStep l power temp) s fun t =>
        mget 0 t.throttle l = (if s.pwrLimit < power ∨ s.pwrTthr < temp then min 15 (mget 0 s.throttle l + 1)
          else mget 0 s.throttle l - 1) ∧ t.leases = s.leases ∧ t.mem = s.mem)) ∧
    (s.dieGo = true → exec .diectlGo s = .next s) ∧
    (s.dieGo = false →
      (dieRefused s d = true → exec .diectlGo s = .next { s with dieState := 5 }) ∧
      (dieRefused s d = false → exec .diectlGo s = .next { s with dieGo := true, dieState := 1, dieSince := s.wall })) ∧
    (s.dieGo = true → s.dieState = 1 →
      (stillOn s d = false → exec .dieEvacuationComplete s =
        .next { (foreignSegs s d).foldl (fun s k => evacuateSeg s d k) s with dieState := 2, dieSince := s.wall }) ∧
      (stillOn s d = true → moveUnderWay s = true → exec .dieEvacuationComplete s = .next s) ∧
      (∀ e, stillOn s d = true → moveUnderWay s = false →
        (s.leases.find? fun e => onDie e.2 d && movable s e.1 e.2 false) = some e →
        exec .dieEvacuationComplete s = .next (startDrain s e.1 .move))) ∧
    (s.dieGo = true → s.dieState = 2 →
      (∀ e ∈ s.reqs, awaitsDie s d e.2 = false) ∨ 25000 ≤ s.wall - s.dieSince →
      Gives .dieQuiesceComplete s fun t => t.dieState = 3 ∧ mget 0 t.incarn d = mget 0 s.incarn d + 1 ∧
        ∀ c ∈ t.copies, c.die ≠ d) ∧
    (s.dieGo = true → s.dieState = 3 →
      let s1 := if s.dieBack then s else dieBackUp s
      ((∃ e ∈ s1.reqs, awaitsDie s1 s1.dieNo e.2 = true) → exec .dieRestart s = .next s1) ∧
      ((∀ e ∈ s1.reqs, awaitsDie s1 s1.dieNo e.2 = false) → exec .dieRestart s =
        .next { s1 with dieGo := false, dieState := 4, dieBack := false })) ∧
    (let t := dieBackUp s;
      t.dieBack = true ∧ (∀ k ∈ foreignSegs s d, ∀ n, segAddr k / 32 ≤ n → n < (segAddr k + 0x200000) / 32 → nhas t.mpois n = true) ∧
      ∀ id r p, mwf s.reqs = true → reqOf s id = some r → unknownPart r = some p → ∃ r', reqOf t id = some r' ∧
        r'.stage = .faulted cATOM p.va p.strad) ∧
    (∀ b pa, nhas s.zeroing b = true →
      (b * 4096 < scratchBase → pa / 4096 = b → pa < scratchBase → Gives (.unitZeroingDone (.hbm b)) s fun t =>
        memRd t pa 1 = ([0], [false]) ∧ nhas t.scrubbed b = true ∧ nhas t.zeroing b = false) ∧
      (scratchBase ≤ b * 2048 → pa / 2048 = b → scratchBase ≤ pa → Gives (.unitZeroingDone (.scratch b)) s fun t =>
        memRd t pa 1 = ([0], [false]) ∧ nhas t.scrubbed b = true ∧ nhas t.zeroing b = false)) ∧
    (∀ u b o x, tileOf ls u = some x → nhas x.zeroing b = true → o / 2048 = b → Gives (.unitZeroingDone (.tileStore l u b)) s fun t =>
      ∃ x', OnlyTile s t l u ls x' ∧ tileRd x' o 1 = ([0], [false]) ∧ nhas x'.scrubbed b = true) ∧
    (∀ die tenant line, exec (.reachThroughCopyExpiry die tenant line) s =
      .next { s with copies := s.copies.filter fun c => !(c.die == die && c.tenant == tenant && c.line == line) })

/-- R82 to R85, R142, R143, R154, R155, R423: an uncorrectable error poisons the lane, the register or the sector in place, and no
other, a version of a line in its pool slot or as pending; a clean line of the LLC is dropped, and nothing is poisoned; an error of
HBM4 under a line of the LLC does not touch what is read now; damaged side fields poison every lane of a token, with its tag, or make
a request fault POISON_ADDRESS; a damaged configuration word is marked for its next use. -/
def Obligations.errors_poison_in_place : Prop :=
  ∀ (s : State) (l t k p lane reg slot off pa n id : Nat) (ls : Lease) (x : Tile), leaseOf s l = some ls → tileOf ls t = some x →
    let c := ctxOf x k
    let E (u : UeLoc) : Instr := .uncorrectableError u
    let sector (i : Instr) : Prop := Gives i s fun u => nhas u.mpois (pa / 32) = true ∧ u.leases = s.leases ∧
      (∀ j, j ≠ pa / 32 → nhas u.mpois j = nhas s.mpois j) ∧ ∀ a, a / 32 ≠ pa / 32 → rdByte u.mem a = rdByte s.mem a
    (lane < 24 → reg < 16 → k < 4 → Gives (E (.lane l t k reg lane)) s fun u => ∃ ls' x', leaseOf u l = some ls' ∧
      tileOf ls' t = some x' ∧
      (∀ i, i < 24 → (mget Tok.zero (ctxOf x' k).v reg).pois.getLsbD i = ((mget Tok.zero c.v reg).pois.getLsbD i || i == lane)) ∧
      (∀ r, r ≠ reg → mget Tok.zero (ctxOf x' k).v r = mget Tok.zero c.v r) ∧ ∀ j, j ≠ k → ctxOf x' j = ctxOf x j) ∧
    (p < 8 → lane < 24 → k < 4 → ∀ tok, (inPort c p).q[slot]? = some tok → Gives (E (.port l t k p slot lane)) s fun u => ∃ ls' x' tok',
      leaseOf u l = some ls' ∧ tileOf ls' t = some x' ∧ (inPort (ctxOf x' k) p).q[slot]? = some tok' ∧
      (∀ i, i < 24 → tok'.pois.getLsbD i = (tok.pois.getLsbD i || i == lane)) ∧ tok'.tag = tok.tag) ∧
    (∀ tag tok, p < 8 → k < 4 → (inPort c p).q[slot]? = some tok → Gives (E (.side l t k p slot tag)) s fun u => ∃ ls' x',
      leaseOf u l = some ls' ∧ tileOf ls' t = some x' ∧
      (inPort (ctxOf x' k) p).q[slot]? = some { tok with pois := BitVec.allOnes 24, tag := if tag then 0 else tok.tag }) ∧
    (∀ r, reqOf s id = some r →
      (sideOpen r = true → exec (E (.reqSide id)) s = .next (partFault s id cPADDR (r.parts.headD (mkPart 0 0 0)))) ∧
      (sideOpen r = false → exec (E (.reqSide id)) s = .next s)) ∧
    (∀ sec idx shadow, idx < sectionLen sec → Gives (E (.config l t shadow sec idx)) s fun u => ∃ x', OnlyTile s u l t ls x' ∧
      wordBad (if shadow then x'.shd else x'.act) sec idx = true ∧
      x' = { x with act := { x.act with bad := x'.act.bad }, shd := { x.shd with bad := x'.shd.bad } } ∧
      (if shadow then x'.act = x.act else x'.shd = x.shd)) ∧
    (0 < reg → reg < 32 → Gives (E (.seqReg l reg)) s fun u => ∃ ls', leaseOf u l = some ls' ∧
      xpois ls'.seq (BitVec.ofNat 5 reg) = true ∧ ∀ r, r ≠ BitVec.ofNat 5 reg → xget ls'.seq r = xget ls.seq r ∧
        xpois ls'.seq r = xpois ls.seq r) ∧
    (0 < reg → reg < 32 → ls.paired = true → Gives (E (.seqRegR l reg)) s fun u => ∃ ls', leaseOf u l = some ls' ∧
      ls'.seq = ls.seq ∧ xpois ls'.seqR (BitVec.ofNat 5 reg) = true ∧ ∀ r, r ≠ BitVec.ofNat 5 reg →
        xget ls'.seqR r = xget ls.seqR r ∧ xpois ls'.seqR r = xpois ls.seqR r) ∧
    (off < 2 ^ 20 → kindOf ls t = 2 → Gives (E (.tileStore l t off)) s fun u => u.mem = s.mem ∧ ∃ ls' x', leaseOf u l = some ls' ∧
      tileOf ls' t = some x' ∧ nhas x'.spois (off / 32) = true ∧ ∀ j, j ≠ off / 32 → nhas x'.spois j = nhas x.spois j) ∧
    (pa < hbmEnd s.boot →
      (llcHit s pa = false → llcIsDirty s pa = false → sector (E (.hbm pa))) ∧
      (llcHit s pa = true ∨ llcIsDirty s pa = true → Gives (E (.hbm pa)) s fun u => u.mem = s.mem ∧ u.mpois = s.mpois ∧
        u.leases = s.leases ∧ (llcIsDirty s pa = false → (mfind u.hbmBad (pa / 32)).isSome = true)) ∧
      (llcIsDirty s pa = true → sector (E (.llc pa))) ∧
      (llcIsDirty s pa = false → exec (E (.llc pa)) s = .next (llcDrop s pa))) ∧
    (inScratch s.boot pa = true → sector (E (.dieScratch pa))) ∧
    (∀ v, (lineOf s (pa / 128)).old[n]? = some v → Gives (E (.pool pa n)) s fun u => u.mem = s.mem ∧
      ∃ v', (lineOf u (pa / 128)).old[n]? = some v' ∧ v'.pois = v.pois ||| BitVec.ofNat 4 (2 ^ (pa % 128 / 32)) ∧ v'.ts = v.ts) ∧
    ∀ v, findPend (lineOf s (pa / 128)) l slot = some v → Gives (E (.pend pa l slot)) s fun u => u.mem = s.mem ∧
      ∃ v', findPend (lineOf u (pa / 128)) l slot = some v' ∧ v'.pois = v.pois ||| BitVec.ofNat 4 (2 ^ (pa % 128 / 32)) ∧
        v' = { v with data := v'.data, pois := v'.pois }

/-! ### Couplers, boot, attestation -/

/-- R15, R27, R59, R90, R93, R131, R428, R431 to R441: a coupler comes up or goes down; a peer's request outside the map or the
window is refused, another enters at the home; a peer's reset ends what is outstanding there; a device reset leaves
everything as after reset, makes one boot attempt and sets the crossings of a boot that comes up; SPDM requests are answered at the function that asked, a signature
taking the next one-time index. -/
def Obligations.couplers_and_boot : Prop :=
  ∀ (s : State) (k : Nat) (fn : Fn),
    let x := couplerOf s k
    let gone (t : State) : Prop := t = { s with nonce := t.nonce, out := t.out }
    let mail : Out := .msix fn (match fn with
      | .pf => 1
      | .vf _ => 2)
    let answers (i : Instr) (code n : Nat) : Prop := Gives i s fun t => gone t ∧ ∃ data, data.length = n ∧
      t.out = s.out ++ [.spdm fn code data, mail]
    let signs (i : Instr) (code : Nat) (body : List Byte) : Prop :=
      (takeIndex s = none → Gives i s fun t => gone t ∧ t.out = s.out ++ [.spdm fn 0x7F [0x05], mail]) ∧
      ∀ j s1, takeIndex s = some (j, s1) → Gives i s fun t => t = { s with nonce := t.nonce, out := t.out, boot := s1.boot } ∧
        ∃ sig, sig.length = 9893 ∧ t.out = s.out ++ [.spdm fn code (body ++ sig), mail]
    (∀ up id pk,
      (couplerLive s.boot k = false ∨ x.up = up → exec (.couplerLinkChange k up id pk) s = .next s) ∧
      (couplerLive s.boot k = true → x.up ≠ up → Gives (.couplerLinkChange k up id pk) s fun t =>
        couplerOf t k = { x with up := up, peerId := id, peerK := pk } ∧ (∀ j, j ≠ k → couplerOf t j = couplerOf s j))) ∧
    (∀ n off op, let i := Instr.peerRequest k n off op
      (couplerLive s.boot k = false ∨ x.up = false → exec i s = .next s) ∧
      (couplerLive s.boot k = true → x.up = true →
        (localTenant s k n = none → exec i s = .next (emit s (.peerReply k .badTenant))) ∧
        ∀ t, localTenant s k n = some t →
          (x.expLen ≤ off → exec i s = .next (emit s (.peerReply k .badRange))) ∧
          (off < x.expLen → ∀ pa, locOf s.boot (x.expBase + off) = some (.mem pa) →
            exec i s = .next (addReq s (peerReq k t (peerWork pa op).1 (peerWork pa op).2 pa)).1) ∧
          (off < x.expLen → (∀ pa, locOf s.boot (x.expBase + off) ≠ some (.mem pa)) →
            exec i s = .next (emit s (.peerReply k .badRange))))) ∧
    (Gives (.peerPanelReset k) s fun t => ∀ id r p, mwf s.reqs = true → reqOf s id = some r →
      atPeer k r = some p → ∃ r', reqOf t id = some r' ∧
      r'.stage = .faulted (match r.op with
        | .atomic _ => cATOM
        | _ => cSTAGE2) p.va p.strad) ∧
    (∀ ch n data pois tag aux, let i := Instr.couplerStreamToken k ch n data pois tag aux
      (couplerLive s.boot k = false ∨ x.up = false ∨ 65536 ≤ ch → exec i s = .next s) ∧
      (couplerLive s.boot k = true → x.up = true → ch < 65536 → Gives i s fun t =>
        mget [] (couplerOf t k).chans ch = mget [] x.chans ch ++ [(n, ⟨data, pois, tag, aux, 0⟩)])) ∧
    (∀ f, exec (.deviceReset f) s =
        .next { State.reset with
          boot := bootAttempt s.boot f
          crossings := crossingsOf (bootAttempt s.boot f)
          nonce := s.nonce + 1
          nextId := s.nextId
          out := s.out } ∧
      ((bootAttempt s.boot f).up = false ∨ (bootAttempt s.boot f).mode = 3 → crossingsOf (bootAttempt s.boot f) = []) ∧
      ((bootAttempt s.boot f).up = true → (bootAttempt s.boot f).mode = 0 ∨ (bootAttempt s.boot f).mode = 1 →
        crossingsOf (bootAttempt s.boot f) = bootCrossings) ∧
      (f.fw = false ∨ s.boot.fwOk = false → (bootAttempt s.boot f).mode = 3 ∧ (bootAttempt s.boot f).reason = 2) ∧
      (f.fw = true → s.boot.fwOk = true → s.boot.svnFloor ≤ s.boot.fwSvn → f.rpmb = true → s.boot.count < 3 → f.map = true →
        s.boot.mapFloor ≤ f.mapver → mapUsable f.ddis = true → f.train = true → f.hbm = true → f.watchdog = false →
        let b := bootAttempt s.boot f
        b.up = true ∧ b.mode = (if f.ddis = 0 ∧ f.sdis = 0 then 0 else 1) ∧ b.mapver = f.mapver ∧ b.ddis = f.ddis ∧ b.count = 0 ∧
          b.svnFloor = s.boot.fwSvn ∧ b.mapFloor = f.mapver ∧ b.poolCode = s.boot.nextPool)) ∧
    (∀ v n, (s.boot.mode = 3 → exec (.recoveryImageWrite v n) s = .next { s with boot := { s.boot with fwOk := v, fwSvn := n } }) ∧
      (s.boot.mode ≠ 3 → exec (.recoveryImageWrite v n) s = .next s)) ∧
    (Gives (.getVersion fn) s fun t => gone t ∧ t.out = s.out ++ [.spdm fn 0x04 [0x00, 0x12], mail]) ∧
    answers (.getCapabilities fn) 0x61 8 ∧ answers (.negotiateAlgorithms fn) 0x63 32 ∧ answers (.getDigests fn) 0x01 48 ∧
    answers (.getCertificate fn) 0x02 1024 ∧ signs (.challenge fn) 0x03 ((List.range 48).map (Config.digest [0])) ∧
    signs (.getMeasurements fn true) 0x60 (blocks s fn) ∧
    (Gives (.getMeasurements fn false) s fun t => gone t ∧ t.out = s.out ++ [.spdm fn 0x60 (blocks s fn), mail]) ∧
    (∀ j s1, takeIndex s = some (j, s1) → s.boot.rpmbOk = true ∧
      (s.boot.otsRun = 0 → j = s.boot.otsNext ∧ s1.boot.otsNext = s.boot.otsNext + 1024 ∧ s1.boot.otsRun = 1023) ∧
      (0 < s.boot.otsRun → s.boot.otsRun ≤ s.boot.otsNext →
        j + s.boot.otsRun = s.boot.otsNext ∧ s1.boot.otsNext = s.boot.otsNext ∧ s1.boot.otsRun + 1 = s.boot.otsRun))

/-! ### Words, steps, invariants, memory -/

/-- R219 to R237, R244: words written out from the encodings decode to their instructions, and words with a reserved code or
bit are refused. -/
def Obligations.decoded_words : Prop :=
  decodeSeq (BitVec.ofNat 32 (1 * 2 ^ 26 + 7 * 2 ^ 21 + 8 * 2 ^ 16 + 9 * 2 ^ 11 + 0)) = .ok (.add 7 8 9) ∧
  decodeSeq (BitVec.ofNat 32 (0x20 * 2 ^ 26 + 4 * 2 ^ 21 + 5 * 2 ^ 16 + 2 * 2 ^ 14 + 2 ^ 13 + (2 ^ 12 - 8))) =
    .ok (.ld 4 5 .w true false (BitVec.ofInt 12 (-8))) ∧
  decodeSeq (BitVec.ofNat 32 (0x12 * 2 ^ 26 + 3 * 2 ^ 21 + 4 * 2 ^ 16 + (2 ^ 16 - 2))) = .ok (.blt 3 4 (BitVec.ofInt 16 (-2))) ∧
  decodeSeq (BitVec.ofNat 32 (0x28 * 2 ^ 26 + 6 * 2 ^ 21 + 5 * 2 ^ 8 + 2 ^ 6 + 3)) = .ok (.txc 6 5 true) ∧
  decodeOp (BitVec.ofNat 32 (0x01 * 2 ^ 24 + 4 * 2 ^ 21 + 24 * 2 ^ 16 + 16 * 2 ^ 11 + 28 * 2 ^ 6 + 2 ^ 5 + 3 * 2 ^ 3 + 1)) none =
    .ok (.vadd .i16 (.o 0) (.i 0) .k (some 3) true) ∧
  decodeOp (BitVec.ofNat 32 (2 ^ 30 + 0x08 * 2 ^ 24 + (2 ^ 11 - 4))) none = .ok (.br (BitVec.ofInt 11 (-4))) ∧
  decodeOp (BitVec.ofNat 32 (2 * 2 ^ 30 + 0x02 * 2 ^ 24 + 1 * 2 ^ 21 + 2 * 2 ^ 16 + 3 * 2 ^ 11 + 29 * 2 ^ 6 + 2 ^ 5))
      (some (BitVec.ofNat 32 (3 * 2 ^ 30 + 2 ^ 29 + 5 * 2 ^ 25 + 1 * 2 ^ 23 + 3 * 2 ^ 20 + 2 * 2 ^ 17 + 28 * 2 ^ 12))) =
    .ok (.gath .f32 (.v 2) (.v 3) .lane none (some ⟨true, 5, 1, .panel, 2, 28⟩)) ∧
  decodeSw (BitVec.ofNat 16 (1 * 2 ^ 13 + 25 * 2 ^ 8 + 3 * 2 ^ 3 + 2 * 2 ^ 1)) = .ok (.route 25 3 2) ∧
  decodeSeq 0x0000000A = .error .illegalOp ∧ decodeSeq (BitVec.ofNat 32 (1 * 2 ^ 26 + 2 ^ 10)) = .error .illegalOp ∧
  decodeOp (BitVec.ofNat 32 (0x3B * 2 ^ 24)) none = .error .illegalOp ∧ decodeSw (BitVec.ofNat 16 (2 ^ 13 + 28 * 2 ^ 8)) = .error .configInvalid

/-- R219 to R237: decoding the words of a well-formed instruction gives the instruction back, with every operand at every value
that the encoding admits. -/
def Obligations.decode_of_encode : Prop := ∀ (i : Instr) (c : Code), i.wf = true → encode i = some c → c.decode = .ok i

/-- R164, R228, R244, R254, R359, R388: a step runs the turn at the head of the agenda. An event runs as it stands, an audit as
CREDIT_AUDIT_WINDOW of its die; for a
sequencer that may issue and takes no trap, the instruction that the word at its PC decodes to, from the instruction cache
or from memory, and the sequencer keeps the word for its records; for a context with a firing, the operation at its counter, with the turn taken where the word issues and once more
where it is stalled; for a switch, its word. A word that decodes to nothing runs as ILLEGAL_OP, and a damaged one faults. With no
turn left the next fabric cycle begins. -/
def Obligations.step_runs_decoded : Prop :=
  ∀ (s : State) (rest : List Turn) (l t k j : Nat) (rep : Bool) (i : Instr), fullService s = true →
    let at_ (a : Agent) : State := { s with agenda := rest, cur := a }
    (s.agenda = [] → step s = .next (refill s)) ∧
    (s.agenda = .event i :: rest → step s = exec i (at_ .none)) ∧
    (s.agenda = .audit k :: rest → step s = exec (.creditAuditWindow k) (at_ .none)) ∧
    (s.agenda = .own l i :: rest → step s = exec i (at_ (.seq l false))) ∧
    (∀ ls, s.agenda = .seq l rep :: rest → leaseOf s l = some ls →
      let q := seqOf ls rep
      let u := at_ (.seq l rep)
      seqMayIssue s ls q = true → (∀ n, q.op ≠ .page n) →
      (trapDue ls ls.seq = true → rep = false → inStep ls = true → step s = exec .trapTaken u) ∧
      (trapDue ls ls.seq = false →
        (ls.img.seqlen = 0 → step s = exec .halt u) ∧
        (ls.img.seqlen ≠ 0 → inRegion ls q.pc = false → step s = .next (seqFault (setWord u l rep 0) l rep cBRANCH q.pc)) ∧
        (ls.img.seqlen ≠ 0 → inRegion ls q.pc = true →
          (∀ w, mfind q.icache q.pc = some w →
            (decodeSeq w = .ok i → step s = exec i (setWord u l rep w)) ∧
            (∀ e, decodeSeq w = .error e → step s = exec (.illegalOp w) (setWord u l rep w))) ∧
          (∀ b p u1, mfind q.icache q.pc = none → vread l none [(q.pc, 4)] [] [] u = .ok b p u1 → p.any id = false →
            mfind q.icache (q.pc + 2 ^ 60) = none → decodeSeq (BitVec.ofNat 32 (leNat b)) = .ok i →
            let w := BitVec.ofNat 32 (leNat b)
            step s = exec i (setWord (updSeq u1 l rep fun q => cacheWord q q.pc w) l rep w))))) ∧
    (∀ ls x fi, s.agenda = .elem l t k :: rest → leaseOf s l = some ls → tileOf ls t = some x → leaseLive s ls = true →
      x.passed = false → canIssue (ctxOf x k) = true ∨ stalledWord (ctxOf x k) = true → (ctxOf x k).fire = some fi →
      hEntry x.act fi.h ≤ fi.pc → fi.pc ≤ hWend x.act fi.h →
      let u := if canIssue (ctxOf x k) then issueWord (at_ (.elem l t k)) l t k fi else at_ (.elem l t k)
      let w := progWord x.act fi.pc
      let cls := w.toNat / 2 ^ 30
      let op := w.toNat / 2 ^ 24 % 64
      let next := if fi.pc + 1 ≤ hWend x.act fi.h then some (progWord x.act (fi.pc + 1)) else none
      let bad : Prop := wordBad x.act 0 fi.pc = true ∨
        (cls = 2 ∧ w.getLsbD 5 = true ∧ fi.pc + 1 ≤ hWend x.act fi.h ∧ wordBad x.act 0 (fi.pc + 1) = true)
      (bad → step s = .next (wordFault u l t k ls x (ctxOf x k) fi cPCTL 0)) ∧ (¬ bad →
      (cls = 3 → step s = exec (.nonInstr w) u) ∧
      (cls ≠ 3 → reservedOp cls op = false → implemented (kindOf ls t) cls op = false →
        step s = .next (wordFault u l t k ls x (ctxOf x k) fi cUNSUPPORTED 0)) ∧
      (cls ≠ 3 → reservedOp cls op = false → implemented (kindOf ls t) cls op = true → decodeOp w next = .ok i →
        step s = exec i u) ∧
      (cls ≠ 3 → reservedOp cls op = true → step s = exec (.illegalOp w) u))) ∧
    (∀ ls x, s.agenda = .sw l t j :: rest → leaseOf s l = some ls → tileOf ls t = some x → leaseLive s ls = true → x.passed = false →
      wordBad x.act 4 j = false → wordBad x.act 5 (256 + j) = false → decodeSw (mget 0 x.act.sw j) = .ok i → step s = exec i (at_ (.sw l t)))

/-- R2, R59: every step keeps the canonical form of device memory and of every tile store. -/
def Obligations.step_keeps_stores : Prop := ∀ s t : State, s.storesWf = true → step s = .next t → t.storesWf = true

/-- Every step keeps the numbers of requests and the versioned lines distinct and in order (the model's own form of these
tables; it is a premise of version_reclaim, of the reset of a die and of the reset of a peer panel). -/
def Obligations.step_keeps_tables : Prop :=
  ∀ s t : State, mwf s.reqs = true → mwf s.lines = true → step s = .next t → mwf t.reqs = true ∧ mwf t.lines = true

/-- R46, R59, R90, R95, R379, R391, R414, R429, R431, R442: what reset leaves: every unit reads as clean zeros, every tick
counter holds 1, no lease is placed, the registers hold the reset values of their tables, and every byte store has its
canonical form. -/
def Obligations.reset_state : Prop :=
  let s := State.reset
  s.storesWf = true ∧ mwf s.reqs = true ∧ mwf s.lines = true ∧
  (∀ pa n, memRd s pa n = (List.replicate n 0, List.replicate n false)) ∧ (∀ d, d < 160 → tickOf s d = 1) ∧
  (∀ l, leaseOf s l = none) ∧ (∀ v, vfOf s v = Vf.zero) ∧ (∀ g, queueOf s g = Queue.zero) ∧ (∀ k, couplerOf s k = Coupler.zero) ∧
  s.mcmd = 0 ∧ s.evbase = 0 ∧ s.evput = 0 ∧ s.evget = 0 ∧ s.evovf = 0 ∧ s.pwrLimit = 30000 ∧ s.pwrTthr = 105 ∧ s.pwrStep = 0 ∧
  s.ageMax = 64 ∧ s.cthresh = 256 ∧ s.dieGo = false ∧ s.dieState = 0 ∧ s.fatal = false

/-- R2, R59, R83, R147: bytes written to device memory are read back, and every other byte reads as before, in a unit that was
unscrubbed too; a sector is poisoned when a poisoned byte reaches it, clean when it is written whole with clean bytes, and
keeps its poison otherwise. -/
def Obligations.memory_reads_back : Prop :=
  ∀ (s : State) (pa : Nat) (bs : List Byte) (ps : List Bool), ps.length = bs.length →
    (pa + bs.length ≤ scratchBase ∨ scratchBase ≤ pa) →
    let t := memWr s pa bs ps
    (memRd t pa bs.length).1 = bs ∧
    ∀ a, (a < pa ∨ pa + bs.length ≤ a → (memRd t a 1).1 = (memRd s a 1).1) ∧
      let marked : Prop := ∃ i, ps[i]? = some true ∧ (pa + i) / 32 = a / 32
      let whole : Prop := pa ≤ a / 32 * 32 ∧ a / 32 * 32 + 32 ≤ pa + bs.length
      (marked → (memRd t a 1).2 = [true]) ∧ (¬ marked → whole → (memRd t a 1).2 = [false]) ∧
      (¬ marked → ¬ whole → (memRd t a 1).2 = (memRd s a 1).2)
end

