-- ==== Sys2Proof/Laws/Store.lean ====
section
/-! SUPPORT. Laws of indexed collections and byte stores: reading after writing, and the canonical form, which every
operation over memory keeps (R2, R59, R83). -/

namespace Sys2Proof.Machine

/-! ### Indexed collections -/

/-- Every key of a collection is above `k`. -/
def above {α : Type} (k : Nat) (m : List (Nat × α)) : Bool := m.all fun e => decide (k < e.1)

theorem above_mono {α : Type} {j k : Nat} {m : List (Nat × α)} (h : j ≤ k) (hm : above k m = true) : above j m = true := by
  simp only [above, List.all_eq_true, decide_eq_true_eq] at *
  exact fun e he => lt_of_le_of_lt h (hm e he)

theorem mwf_cons {α : Type} (k : Nat) (v : α) (m : List (Nat × α)) : mwf ((k, v) :: m) = (above k m && mwf m) := by
  induction m generalizing k v with
  | nil => rfl
  | cons e r ih =>
    obtain ⟨j, w⟩ := e
    rw [mwf, ih j w]
    by_cases h : k < j
    · by_cases hb : above j r = true
      · have := above_mono (Nat.le_of_lt h) hb
        simp only [above] at this hb
        simp [above, h, this, hb]
      · simp [h, hb]
    · simp [h, above]

theorem mfind_of_above {α : Type} {k : Nat} {m : List (Nat × α)} (h : above k m = true) : mfind m k = none := by
  induction m with
  | nil => rfl
  | cons e r ih =>
    obtain ⟨j, w⟩ := e
    simp only [above, List.all_cons, Bool.and_eq_true, decide_eq_true_eq] at h
    have : j ≠ k := by omega
    simp [mfind, this, ih (by simpa [above] using h.2)]

theorem above_mdel {α : Type} {j : Nat} (k : Nat) {m : List (Nat × α)} (h : above j m = true) : above j (mdel m k) = true := by
  induction m with
  | nil => rfl
  | cons e r ih =>
    obtain ⟨i, w⟩ := e
    simp only [above, List.all_cons, Bool.and_eq_true, decide_eq_true_eq] at h
    have ih' := ih (by simpa [above] using h.2)
    by_cases hk : i = k
    · simpa [mdel, hk] using ih'
    · simpa [mdel, hk, above, h.1] using (by simpa [above] using ih')

theorem mwf_mdel {α : Type} (k : Nat) {m : List (Nat × α)} (h : mwf m = true) : mwf (mdel m k) = true := by
  induction m with
  | nil => rfl
  | cons e r ih =>
    obtain ⟨j, w⟩ := e
    rw [mwf_cons, Bool.and_eq_true] at h
    by_cases hk : j = k
    · simpa [mdel, hk] using ih h.2
    · rw [mdel, if_neg hk, mwf_cons, above_mdel k h.1, ih h.2]; rfl

theorem above_mins {α : Type} {j k : Nat} {v : α} {m : List (Nat × α)} (hj : j < k) (h : above j m = true) :
    above j (mins m k v) = true := by
  induction m with
  | nil => simp [mins, above, hj]
  | cons e r ih =>
    obtain ⟨i, w⟩ := e
    simp only [above, List.all_cons, Bool.and_eq_true, decide_eq_true_eq] at h
    have ih' := ih (by simpa [above] using h.2)
    by_cases hk : k < i
    · simp [mins, hk, above, hj, h.1]; simpa using h.2
    · simp [mins, hk, above, h.1]; simpa [above] using ih'

theorem mwf_mins {α : Type} (k : Nat) (v : α) {m : List (Nat × α)} (hf : mfind m k = none) (h : mwf m = true) :
    mwf (mins m k v) = true := by
  induction m with
  | nil => rfl
  | cons e r ih =>
    obtain ⟨j, w⟩ := e
    have hw := h
    rw [mwf_cons, Bool.and_eq_true] at h
    have hne : j ≠ k := fun e => by simp [mfind, e] at hf
    have hf' : mfind r k = none := by simpa [mfind, hne] using hf
    by_cases hk : k < j
    · rw [mins, if_pos hk, mwf_cons, hw, Bool.and_true]
      simp only [above, List.all_cons, Bool.and_eq_true, decide_eq_true_eq]
      exact ⟨hk, by simpa [above] using above_mono (Nat.le_of_lt hk) h.1⟩
    · rw [mins, if_neg hk, mwf_cons, above_mins (by omega) h.1, ih hf' h.2]; rfl

theorem mfind_mdel_self {α : Type} (m : List (Nat × α)) (k : Nat) : mfind (mdel m k) k = none := by
  induction m with
  | nil => rfl
  | cons e r ih =>
    obtain ⟨j, w⟩ := e
    by_cases h : j = k <;> simp [mdel, mfind, h, ih]

theorem mfind_mdel_ne {α : Type} (m : List (Nat × α)) {k j : Nat} (h : j ≠ k) : mfind (mdel m k) j = mfind m j := by
  induction m with
  | nil => rfl
  | cons e r ih =>
    obtain ⟨i, w⟩ := e
    by_cases hi : i = k
    · have : i ≠ j := fun e => h (e ▸ hi)
      subst hi; simp [mdel, mfind, this, ih]
    · simp [mdel, mfind, hi, ih]

theorem mfind_mins_self {α : Type} (m : List (Nat × α)) (k : Nat) (v : α) (h : mfind m k = none) :
    mfind (mins m k v) k = some v := by
  induction m with
  | nil => simp [mins, mfind]
  | cons e r ih =>
    obtain ⟨j, w⟩ := e
    have hne : j ≠ k := fun e => by simp [mfind, e] at h
    have h' : mfind r k = none := by simpa [mfind, hne] using h
    by_cases hk : k < j <;> simp [mins, mfind, hk, hne, ih h']

theorem mfind_mins_ne {α : Type} (m : List (Nat × α)) {k j : Nat} (v : α) (h : j ≠ k) : mfind (mins m k v) j = mfind m j := by
  induction m with
  | nil => simp [mins, mfind, Ne.symm h]
  | cons e r ih =>
    obtain ⟨i, w⟩ := e
    by_cases hk : k < i <;> simp [mins, mfind, hk, ih, Ne.symm h]

/-- Reading what was put. -/
@[simp] theorem mfind_mput_self {α : Type} (m : List (Nat × α)) (k : Nat) (v : α) : mfind (mput m k v) k = some v :=
  mfind_mins_self _ _ _ (mfind_mdel_self m k)

/-- Putting one key leaves the others. -/
theorem mfind_mput_ne {α : Type} (m : List (Nat × α)) {k j : Nat} (v : α) (h : j ≠ k) : mfind (mput m k v) j = mfind m j := by
  rw [mput, mfind_mins_ne _ _ h, mfind_mdel_ne _ h]

theorem mwf_mput {α : Type} (k : Nat) (v : α) {m : List (Nat × α)} (h : mwf m = true) : mwf (mput m k v) = true :=
  mwf_mins k v (mfind_mdel_self m k) (mwf_mdel k h)

/-- Reading after a write with a default: the same key. -/
@[simp] theorem mget_mset_self {α : Type} [DecidableEq α] (d : α) (m : List (Nat × α)) (k : Nat) (v : α) :
    mget d (mset d m k v) k = v := by
  by_cases h : v = d
  · simp [mset, h, mget, mfind_mdel_self]
  · simp [mset, h, mget]

/-- Reading after a write with a default: another key. -/
theorem mget_mset_ne {α : Type} [DecidableEq α] (d : α) (m : List (Nat × α)) {k j : Nat} (v : α) (h : j ≠ k) :
    mget d (mset d m k v) j = mget d m j := by
  by_cases hv : v = d
  · simp [mset, hv, mget, mfind_mdel_ne m h]
  · simp [mset, hv, mget, mfind_mput_ne m v h]

/-- Changing an entry that exists. -/
theorem mfind_mmod_self {α : Type} (m : List (Nat × α)) (k : Nat) (f : α → α) (v : α) (h : mfind m k = some v) :
    mfind (mmod m k f) k = some (f v) := by simp [mmod, h]

/-- Changing one entry leaves the others. -/
theorem mfind_mmod_ne {α : Type} (m : List (Nat × α)) {k j : Nat} (f : α → α) (h : j ≠ k) :
    mfind (mmod m k f) j = mfind m j := by
  unfold mmod
  split
  · exact mfind_mput_ne m _ h
  · rfl

/-! ### The canonical form of memory -/

theorem mem_mdel {α : Type} {m : List (Nat × α)} {k : Nat} {e : Nat × α} (h : e ∈ mdel m k) : e ∈ m := by
  induction m with
  | nil => simp [mdel] at h
  | cons a r ih =>
    obtain ⟨j, w⟩ := a
    by_cases hk : j = k
    · rw [mdel, if_pos hk] at h; exact List.mem_cons_of_mem _ (ih h)
    · rw [mdel, if_neg hk, List.mem_cons] at h
      rcases h with h | h
      · simp [h]
      · exact List.mem_cons_of_mem _ (ih h)

theorem mem_mins {α : Type} {m : List (Nat × α)} {k : Nat} {v : α} {e : Nat × α} (h : e ∈ mins m k v) : e = (k, v) ∨ e ∈ m := by
  induction m with
  | nil => simpa [mins] using h
  | cons a r ih =>
    obtain ⟨j, w⟩ := a
    by_cases hk : k < j
    · rw [mins, if_pos hk, List.mem_cons] at h; exact h
    · rw [mins, if_neg hk, List.mem_cons] at h
      rcases h with h | h
      · exact Or.inr (by simp [h])
      · exact (ih h).imp id (List.mem_cons_of_mem _)

/-- A collection with a default keeps its form under a write. -/
theorem mwfd_mset {α : Type} [DecidableEq α] (d : α) {m : List (Nat × α)} (k : Nat) (v : α) (h : mwfd d m = true) :
    mwfd d (mset d m k v) = true := by
  simp only [mwfd, Bool.and_eq_true, List.all_eq_true, decide_eq_true_eq] at *
  by_cases hv : v = d
  · simp only [mset, hv, if_true]
    exact ⟨mwf_mdel k h.1, fun e he => h.2 e (mem_mdel he)⟩
  · simp only [mset, hv, if_false]
    refine ⟨mwf_mput k v h.1, fun e he => ?_⟩
    rcases mem_mins he with he | he
    · simpa [he] using hv
    · exact h.2 e (mem_mdel he)

/-- Writing a byte keeps the form of memory. -/
theorem wrByte_wf {m : List Host.Cell} (a : Nat) (b : Byte) (h : Memory.wf m = true) : Memory.wf (wrByte m a b) = true :=
  mwfd_mset 0 a b h

/-- Writing bytes keeps the form of memory. -/
theorem wrBytes_wf {m : List Host.Cell} (a : Nat) (bs : List Byte) (h : Memory.wf m = true) : Memory.wf (wrBytes m a bs) = true := by
  induction bs generalizing m a with
  | nil => exact h
  | cons b r ih => exact ih (a + 1) (wrByte_wf a b h)

theorem above_filter {α : Type} {k : Nat} {m : List (Nat × α)} (p : Nat × α → Bool) (h : above k m = true) :
    above k (m.filter p) = true := by
  simp only [above, List.all_eq_true, decide_eq_true_eq] at *
  exact fun e he => h e (List.mem_filter.1 he).1

theorem mwf_filter {α : Type} {m : List (Nat × α)} (p : Nat × α → Bool) (h : mwf m = true) : mwf (m.filter p) = true := by
  induction m with
  | nil => rfl
  | cons e r ih =>
    obtain ⟨j, w⟩ := e
    rw [mwf_cons, Bool.and_eq_true] at h
    by_cases hp : p (j, w) = true
    · rw [List.filter_cons_of_pos hp, mwf_cons, above_filter p h.1, ih h.2]; rfl
    · rw [List.filter_cons_of_neg hp]; exact ih h.2

/-- Zeroing a range keeps the form of memory. -/
theorem dropRange_wf {m : List Host.Cell} (lo hi : Nat) (h : Memory.wf m = true) : Memory.wf (dropRange m lo hi) = true := by
  simp only [Memory.wf, mwfd, Bool.and_eq_true, List.all_eq_true, decide_eq_true_eq] at *
  exact ⟨mwf_filter _ h.1, fun e he => h.2 e (List.mem_filter.1 he).1⟩

theorem bankZero_wf {u : Nat} {b : Bank} (n : Nat) (h : Memory.wf b.mem = true) : Memory.wf (bankZero u b n).mem = true :=
  dropRange_wf _ _ h

theorem foldl_bankZero_wf {u : Nat} (ks : List Nat) {b : Bank} (h : Memory.wf b.mem = true) :
    Memory.wf (ks.foldl (bankZero u) b).mem = true := by
  induction ks generalizing b with
  | nil => exact h
  | cons k r ih => exact ih (bankZero_wf k h)

/-- A write to a byte bank keeps the form of its memory. -/
theorem bankWr_wf {u : Nat} {b : Bank} (a : Nat) (bs : List Byte) (ps : List Bool) (h : Memory.wf b.mem = true) :
    Memory.wf (bankWr u b a bs ps).mem = true :=
  wrBytes_wf a bs (foldl_bankZero_wf _ h)

/-- A write to device memory keeps its form. -/
theorem memWr_wf {s : State} (pa : Nat) (bs : List Byte) (ps : List Bool) (h : Memory.wf s.mem = true) :
    Memory.wf (memWr s pa bs ps).mem = true := by
  unfold memWr setBank
  exact bankWr_wf (b := memBank s) pa bs ps h

/-- A write to a tile store keeps its form. -/
theorem tileWr_wf {x : Tile} (o : Nat) (bs : List Byte) (ps : List Bool) (h : Memory.wf x.store = true) :
    Memory.wf (tileWr x o bs ps).store = true := by
  unfold tileWr setTileBank
  exact bankWr_wf (b := tileBank x) o bs ps h

/-- What every step of a fold keeps, the fold keeps. -/
theorem foldl_keeps {α β : Type} (P : β → Prop) (f : β → α → β) (hf : ∀ b a, P b → P (f b a)) (l : List α) {b : β} (h : P b) :
    P (l.foldl f b) := by
  induction l generalizing b with
  | nil => exact h
  | cons a r ih => exact ih (hf b a h)

/-- The slice of a home, and what lies beneath a line that leaves it, keep the form of device memory. -/
theorem showHbm_wf {s : State} (n : Nat) (h : Memory.wf s.mem = true) : Memory.wf (showHbm s n).mem = true := by
  refine foldl_keeps (fun s : State => Memory.wf s.mem = true) showSector (fun s k h => ?_) _ h
  unfold showSector
  split
  · exact wrBytes_wf _ _ h
  · exact h

theorem llcInstall_wf {s : State} (pa : Nat) (h : Memory.wf s.mem = true) : Memory.wf (llcInstall s pa).mem = true := by
  unfold llcInstall
  dsimp only
  repeat' split
  all_goals first | exact h | exact showHbm_wf _ h

theorem llcUse_wf {s : State} (wr : Bool) (n : Nat) (h : Memory.wf s.mem = true) : Memory.wf (llcUse wr s n).mem = true := by
  unfold llcUse
  dsimp only
  split
  · exact h
  · split <;> exact llcInstall_wf _ h

/-- The versions of a line stand apart from device memory. -/
@[simp] theorem setLine_mem (s : State) (n : Nat) (y : Line) : (setLine s n y).mem = s.mem := by
  unfold setLine
  refine foldl_keeps (fun t : State => t.mem = s.mem) _ (fun t a h => ?_) _ rfl
  split <;> exact h

@[simp] theorem discardPend_mem (s : State) (l n : Nat) : (discardPend s l n).mem = s.mem := by
  unfold discardPend
  refine foldl_keeps (fun t : State => t.mem = s.mem) _ (fun t a h => ?_) _ rfl
  dsimp only
  split
  · rw [setLine_mem]; exact h
  · exact h

@[simp] theorem doomView_mem (s : State) (l n c : Nat) : (doomView s l n c).mem = s.mem := discardPend_mem _ _ _
@[simp] theorem doomShadow_mem (s : State) (l n : Nat) : (doomShadow s l n).mem = s.mem := discardPend_mem _ _ _

/-- Zeroing a unit keeps the form of device memory. -/
theorem zeroUnit_wf {s : State} (pa : Nat) (h : Memory.wf s.mem = true) : Memory.wf (zeroUnit s pa).mem = true := by
  have h1 : Memory.wf (bankZero (unitSize pa) (memBank s) (pa / unitSize pa)).mem = true := bankZero_wf (b := memBank s) _ h
  unfold zeroUnit
  dsimp only
  split
  · refine foldl_keeps (fun t : State => Memory.wf t.mem = true) _ (fun t e ht => ?_) _ h1
    rw [setLine_mem]
    refine foldl_keeps (fun t : State => Memory.wf t.mem = true) _ (fun t p ht => ?_) _ ht
    split
    · rw [doomView_mem]; exact ht
    · rw [doomShadow_mem]; exact ht
  · exact h1

theorem unitsReady_wf {s : State} (wr : Bool) (pa n : Nat) (h : Memory.wf s.mem = true) :
    Memory.wf (unitsReady wr s pa n).mem = true :=
  foldl_keeps (fun s : State => Memory.wf s.mem = true) (zeroNow (unitSize pa)) (fun _ k h => zeroUnit_wf (k * unitSize pa) h) _ h

/-- A write of device memory by a unit keeps its form. -/
theorem memPut_wf {s : State} (pa : Nat) (bs : List Byte) (ps : List Bool) (h : Memory.wf s.mem = true) :
    Memory.wf (memPut s pa bs ps).mem = true :=
  memWr_wf pa bs ps (foldl_keeps (fun s : State => Memory.wf s.mem = true) (llcUse true) (fun _ k h => llcUse_wf true k h) _
    (unitsReady_wf true pa _ h))

/-- A read by a unit of the device keeps the form of device memory. -/
theorem memGet_wf {s : State} (pa n : Nat) (h : Memory.wf s.mem = true) : Memory.wf (memGet s pa n).2.2.mem = true :=
  foldl_keeps (fun s : State => Memory.wf s.mem = true) (fun s k => { s with zeroing := nadd s.zeroing k }) (fun _ _ h => h) _
    (foldl_keeps (fun s : State => Memory.wf s.mem = true) (llcUse false) (fun _ k h => llcUse_wf false k h) _ (unitsReady_wf false pa n h))

/-- A write by a unit of the device keeps the form of device memory. -/
theorem devWr_wf {s : State} (tag : HostTag) (lc : Loc) (bs : List Byte) (ps : List Bool) (h : Memory.wf s.mem = true) :
    Memory.wf (devWr s tag lc bs ps).mem = true := by
  cases lc <;> simp only [devWr, hostWr, emit] <;> first | exact h | exact memPut_wf _ bs ps h

/-- Memory after reset has its form. -/
theorem reset_mem_wf : Memory.wf State.reset.mem = true := rfl

/-! ### Reading after writing -/

@[simp] theorem rdByte_wrByte_self (m : List Host.Cell) (a : Nat) (b : Byte) : rdByte (wrByte m a b) a = b := by
  simp [rdByte, wrByte]

theorem rdByte_wrByte_ne (m : List Host.Cell) {a x : Nat} (b : Byte) (h : x ≠ a) : rdByte (wrByte m a b) x = rdByte m x :=
  mget_mset_ne 0 m b h

/-- Bytes outside a written range are unchanged. -/
theorem rdByte_wrBytes_out (m : List Host.Cell) (a x : Nat) (bs : List Byte) (h : x < a ∨ a + bs.length ≤ x) :
    rdByte (wrBytes m a bs) x = rdByte m x := by
  induction bs generalizing m a with
  | nil => rfl
  | cons b r ih =>
    simp only [List.length_cons] at h
    rw [wrBytes, ih (wrByte m a b) (a + 1) (by omega), rdByte_wrByte_ne m b (by omega)]

/-- Byte `i` of what was written. -/
theorem rdByte_wrBytes_in (m : List Host.Cell) (a i : Nat) (bs : List Byte) (h : i < bs.length) :
    rdByte (wrBytes m a bs) (a + i) = bs[i] := by
  induction bs generalizing m a i with
  | nil => simp at h
  | cons b r ih =>
    cases i with
    | zero => rw [wrBytes, rdByte_wrBytes_out _ _ _ _ (by omega)]; simp
    | succ j =>
      have := ih (wrByte m a b) (a + 1) j (by simpa using h)
      simpa [wrBytes, Nat.add_assoc, Nat.add_comm 1 j] using this

end Sys2Proof.Machine
end

