-- ==== Sys2Proof/Laws/State.lean ====
section
/-! SUPPORT. What the named updates of the state leave unchanged and what they change, field by field, so that no proof
unfolds a record update. -/

namespace Sys2Proof.Machine

/-- Changing a lease leaves every other field of the state. -/
@[simp] theorem updLease_frame (s : State) (l : Nat) (f : Lease → Lease) :
    (updLease s l f).agenda = s.agenda ∧ (updLease s l f).cur = s.cur ∧ (updLease s l f).nonce = s.nonce ∧
    (updLease s l f).nextId = s.nextId ∧ (updLease s l f).out = s.out ∧ (updLease s l f).fc = s.fc ∧
    (updLease s l f).wall = s.wall ∧ (updLease s l f).tick = s.tick ∧ (updLease s l f).lead = s.lead ∧
    (updLease s l f).clockStopped = s.clockStopped ∧ (updLease s l f).rebasing = s.rebasing ∧
    (updLease s l f).rebases = s.rebases ∧ (updLease s l f).wmark = s.wmark ∧ (updLease s l f).boot = s.boot ∧
    (updLease s l f).fatal = s.fatal ∧ (updLease s l f).mem = s.mem ∧ (updLease s l f).mpois = s.mpois ∧
    (updLease s l f).scrubbed = s.scrubbed ∧ (updLease s l f).zeroing = s.zeroing ∧
    (updLease s l f).segMap = s.segMap ∧ (updLease s l f).lines = s.lines ∧ (updLease s l f).poolUsed = s.poolUsed ∧
    (updLease s l f).llc = s.llc ∧ (updLease s l f).hbmBad = s.hbmBad ∧ (updLease s l f).zq = s.zq ∧
    (updLease s l f).holds = s.holds ∧ (updLease s l f).crossings = s.crossings ∧ (updLease s l f).copies = s.copies ∧
    (updLease s l f).waiters = s.waiters ∧ (updLease s l f).reqs = s.reqs ∧ (updLease s l f).incarn = s.incarn ∧
    (updLease s l f).vfs = s.vfs ∧ (updLease s l f).mcmd = s.mcmd ∧ (updLease s l f).marg0 = s.marg0 ∧
    (updLease s l f).marg1 = s.marg1 ∧ (updLease s l f).marg2 = s.marg2 ∧
    (updLease s l f).tenantChecks = s.tenantChecks ∧ (updLease s l f).scratchGrants = s.scratchGrants ∧
    (updLease s l f).queues = s.queues ∧ (updLease s l f).ageMax = s.ageMax ∧ (updLease s l f).cthresh = s.cthresh ∧
    (updLease s l f).circle = s.circle ∧ (updLease s l f).cands = s.cands ∧ (updLease s l f).lsel = s.lsel ∧
    (updLease s l f).dump = s.dump ∧ (updLease s l f).dieGo = s.dieGo ∧ (updLease s l f).dieState = s.dieState ∧
    (updLease s l f).dieNo = s.dieNo ∧ (updLease s l f).dieSince = s.dieSince ∧ (updLease s l f).dieBack = s.dieBack ∧
    (updLease s l f).evbase = s.evbase ∧ (updLease s l f).evput = s.evput ∧ (updLease s l f).evget = s.evget ∧
    (updLease s l f).evovf = s.evovf ∧ (updLease s l f).pwrStep = s.pwrStep ∧ (updLease s l f).pwrLimit = s.pwrLimit ∧
    (updLease s l f).pwrTthr = s.pwrTthr ∧ (updLease s l f).throttle = s.throttle ∧
    (updLease s l f).couplers = s.couplers ∧ (updLease s l f).jobs = s.jobs ∧
    (updLease s l f).tabFrames = s.tabFrames ∧ (updLease s l f).awaitSave = s.awaitSave := by
  and_intros <;> rfl

/-- Changing a sequencer leaves every other field of the state. -/
@[simp] theorem updSeq_frame (s : State) (l : Nat) (r : Bool) (f : Seq → Seq) :
    (updSeq s l r f).agenda = s.agenda ∧ (updSeq s l r f).cur = s.cur ∧ (updSeq s l r f).nonce = s.nonce ∧
    (updSeq s l r f).nextId = s.nextId ∧ (updSeq s l r f).out = s.out ∧ (updSeq s l r f).fc = s.fc ∧
    (updSeq s l r f).wall = s.wall ∧ (updSeq s l r f).tick = s.tick ∧ (updSeq s l r f).lead = s.lead ∧
    (updSeq s l r f).clockStopped = s.clockStopped ∧ (updSeq s l r f).rebasing = s.rebasing ∧
    (updSeq s l r f).rebases = s.rebases ∧ (updSeq s l r f).wmark = s.wmark ∧ (updSeq s l r f).boot = s.boot ∧
    (updSeq s l r f).fatal = s.fatal ∧ (updSeq s l r f).mem = s.mem ∧ (updSeq s l r f).mpois = s.mpois ∧
    (updSeq s l r f).scrubbed = s.scrubbed ∧ (updSeq s l r f).zeroing = s.zeroing ∧
    (updSeq s l r f).segMap = s.segMap ∧ (updSeq s l r f).lines = s.lines ∧ (updSeq s l r f).poolUsed = s.poolUsed ∧
    (updSeq s l r f).llc = s.llc ∧ (updSeq s l r f).hbmBad = s.hbmBad ∧ (updSeq s l r f).zq = s.zq ∧
    (updSeq s l r f).holds = s.holds ∧ (updSeq s l r f).crossings = s.crossings ∧ (updSeq s l r f).copies = s.copies ∧
    (updSeq s l r f).waiters = s.waiters ∧ (updSeq s l r f).reqs = s.reqs ∧ (updSeq s l r f).incarn = s.incarn ∧
    (updSeq s l r f).vfs = s.vfs ∧ (updSeq s l r f).mcmd = s.mcmd ∧ (updSeq s l r f).marg0 = s.marg0 ∧
    (updSeq s l r f).marg1 = s.marg1 ∧ (updSeq s l r f).marg2 = s.marg2 ∧
    (updSeq s l r f).tenantChecks = s.tenantChecks ∧ (updSeq s l r f).scratchGrants = s.scratchGrants ∧
    (updSeq s l r f).queues = s.queues ∧ (updSeq s l r f).ageMax = s.ageMax ∧ (updSeq s l r f).cthresh = s.cthresh ∧
    (updSeq s l r f).circle = s.circle ∧ (updSeq s l r f).cands = s.cands ∧ (updSeq s l r f).lsel = s.lsel ∧
    (updSeq s l r f).dump = s.dump ∧ (updSeq s l r f).dieGo = s.dieGo ∧ (updSeq s l r f).dieState = s.dieState ∧
    (updSeq s l r f).dieNo = s.dieNo ∧ (updSeq s l r f).dieSince = s.dieSince ∧ (updSeq s l r f).dieBack = s.dieBack ∧
    (updSeq s l r f).evbase = s.evbase ∧ (updSeq s l r f).evput = s.evput ∧ (updSeq s l r f).evget = s.evget ∧
    (updSeq s l r f).evovf = s.evovf ∧ (updSeq s l r f).pwrStep = s.pwrStep ∧ (updSeq s l r f).pwrLimit = s.pwrLimit ∧
    (updSeq s l r f).pwrTthr = s.pwrTthr ∧ (updSeq s l r f).throttle = s.throttle ∧
    (updSeq s l r f).couplers = s.couplers ∧ (updSeq s l r f).jobs = s.jobs ∧
    (updSeq s l r f).tabFrames = s.tabFrames ∧ (updSeq s l r f).awaitSave = s.awaitSave := by
  and_intros <;> rfl

/-- Changing a tile leaves every other field of the state. -/
@[simp] theorem updTile_frame (s : State) (l t : Nat) (f : Tile → Tile) :
    (updTile s l t f).agenda = s.agenda ∧ (updTile s l t f).cur = s.cur ∧ (updTile s l t f).nonce = s.nonce ∧
    (updTile s l t f).nextId = s.nextId ∧ (updTile s l t f).out = s.out ∧ (updTile s l t f).fc = s.fc ∧
    (updTile s l t f).wall = s.wall ∧ (updTile s l t f).tick = s.tick ∧ (updTile s l t f).lead = s.lead ∧
    (updTile s l t f).clockStopped = s.clockStopped ∧ (updTile s l t f).rebasing = s.rebasing ∧
    (updTile s l t f).rebases = s.rebases ∧ (updTile s l t f).wmark = s.wmark ∧ (updTile s l t f).boot = s.boot ∧
    (updTile s l t f).fatal = s.fatal ∧ (updTile s l t f).mem = s.mem ∧ (updTile s l t f).mpois = s.mpois ∧
    (updTile s l t f).scrubbed = s.scrubbed ∧ (updTile s l t f).zeroing = s.zeroing ∧
    (updTile s l t f).segMap = s.segMap ∧ (updTile s l t f).lines = s.lines ∧ (updTile s l t f).poolUsed = s.poolUsed ∧
    (updTile s l t f).llc = s.llc ∧ (updTile s l t f).hbmBad = s.hbmBad ∧ (updTile s l t f).zq = s.zq ∧
    (updTile s l t f).holds = s.holds ∧ (updTile s l t f).crossings = s.crossings ∧
    (updTile s l t f).copies = s.copies ∧ (updTile s l t f).waiters = s.waiters ∧ (updTile s l t f).reqs = s.reqs ∧
    (updTile s l t f).incarn = s.incarn ∧ (updTile s l t f).vfs = s.vfs ∧ (updTile s l t f).mcmd = s.mcmd ∧
    (updTile s l t f).marg0 = s.marg0 ∧ (updTile s l t f).marg1 = s.marg1 ∧ (updTile s l t f).marg2 = s.marg2 ∧
    (updTile s l t f).tenantChecks = s.tenantChecks ∧ (updTile s l t f).scratchGrants = s.scratchGrants ∧
    (updTile s l t f).queues = s.queues ∧ (updTile s l t f).ageMax = s.ageMax ∧ (updTile s l t f).cthresh = s.cthresh ∧
    (updTile s l t f).circle = s.circle ∧ (updTile s l t f).cands = s.cands ∧ (updTile s l t f).lsel = s.lsel ∧
    (updTile s l t f).dump = s.dump ∧ (updTile s l t f).dieGo = s.dieGo ∧ (updTile s l t f).dieState = s.dieState ∧
    (updTile s l t f).dieNo = s.dieNo ∧ (updTile s l t f).dieSince = s.dieSince ∧
    (updTile s l t f).dieBack = s.dieBack ∧ (updTile s l t f).evbase = s.evbase ∧ (updTile s l t f).evput = s.evput ∧
    (updTile s l t f).evget = s.evget ∧ (updTile s l t f).evovf = s.evovf ∧ (updTile s l t f).pwrStep = s.pwrStep ∧
    (updTile s l t f).pwrLimit = s.pwrLimit ∧ (updTile s l t f).pwrTthr = s.pwrTthr ∧
    (updTile s l t f).throttle = s.throttle ∧ (updTile s l t f).couplers = s.couplers ∧
    (updTile s l t f).jobs = s.jobs ∧ (updTile s l t f).tabFrames = s.tabFrames ∧
    (updTile s l t f).awaitSave = s.awaitSave := by
  and_intros <;> rfl

/-- Changing a context leaves every other field of the state. -/
@[simp] theorem updCtx_frame (s : State) (l t k : Nat) (f : Ctx → Ctx) :
    (updCtx s l t k f).agenda = s.agenda ∧ (updCtx s l t k f).cur = s.cur ∧ (updCtx s l t k f).nonce = s.nonce ∧
    (updCtx s l t k f).nextId = s.nextId ∧ (updCtx s l t k f).out = s.out ∧ (updCtx s l t k f).fc = s.fc ∧
    (updCtx s l t k f).wall = s.wall ∧ (updCtx s l t k f).tick = s.tick ∧ (updCtx s l t k f).lead = s.lead ∧
    (updCtx s l t k f).clockStopped = s.clockStopped ∧ (updCtx s l t k f).rebasing = s.rebasing ∧
    (updCtx s l t k f).rebases = s.rebases ∧ (updCtx s l t k f).wmark = s.wmark ∧ (updCtx s l t k f).boot = s.boot ∧
    (updCtx s l t k f).fatal = s.fatal ∧ (updCtx s l t k f).mem = s.mem ∧ (updCtx s l t k f).mpois = s.mpois ∧
    (updCtx s l t k f).scrubbed = s.scrubbed ∧ (updCtx s l t k f).zeroing = s.zeroing ∧
    (updCtx s l t k f).segMap = s.segMap ∧ (updCtx s l t k f).lines = s.lines ∧
    (updCtx s l t k f).poolUsed = s.poolUsed ∧ (updCtx s l t k f).llc = s.llc ∧ (updCtx s l t k f).hbmBad = s.hbmBad ∧
    (updCtx s l t k f).zq = s.zq ∧ (updCtx s l t k f).holds = s.holds ∧ (updCtx s l t k f).crossings = s.crossings ∧
    (updCtx s l t k f).copies = s.copies ∧ (updCtx s l t k f).waiters = s.waiters ∧ (updCtx s l t k f).reqs = s.reqs ∧
    (updCtx s l t k f).incarn = s.incarn ∧ (updCtx s l t k f).vfs = s.vfs ∧ (updCtx s l t k f).mcmd = s.mcmd ∧
    (updCtx s l t k f).marg0 = s.marg0 ∧ (updCtx s l t k f).marg1 = s.marg1 ∧ (updCtx s l t k f).marg2 = s.marg2 ∧
    (updCtx s l t k f).tenantChecks = s.tenantChecks ∧ (updCtx s l t k f).scratchGrants = s.scratchGrants ∧
    (updCtx s l t k f).queues = s.queues ∧ (updCtx s l t k f).ageMax = s.ageMax ∧
    (updCtx s l t k f).cthresh = s.cthresh ∧ (updCtx s l t k f).circle = s.circle ∧
    (updCtx s l t k f).cands = s.cands ∧ (updCtx s l t k f).lsel = s.lsel ∧ (updCtx s l t k f).dump = s.dump ∧
    (updCtx s l t k f).dieGo = s.dieGo ∧ (updCtx s l t k f).dieState = s.dieState ∧
    (updCtx s l t k f).dieNo = s.dieNo ∧ (updCtx s l t k f).dieSince = s.dieSince ∧
    (updCtx s l t k f).dieBack = s.dieBack ∧ (updCtx s l t k f).evbase = s.evbase ∧
    (updCtx s l t k f).evput = s.evput ∧ (updCtx s l t k f).evget = s.evget ∧ (updCtx s l t k f).evovf = s.evovf ∧
    (updCtx s l t k f).pwrStep = s.pwrStep ∧ (updCtx s l t k f).pwrLimit = s.pwrLimit ∧
    (updCtx s l t k f).pwrTthr = s.pwrTthr ∧ (updCtx s l t k f).throttle = s.throttle ∧
    (updCtx s l t k f).couplers = s.couplers ∧ (updCtx s l t k f).jobs = s.jobs ∧
    (updCtx s l t k f).tabFrames = s.tabFrames ∧ (updCtx s l t k f).awaitSave = s.awaitSave := by
  and_intros <;> rfl

/-- Replacing device memory leaves every other field of the state. -/
@[simp] theorem setBank_frame (s : State) (b : Bank) :
    (setBank s b).agenda = s.agenda ∧ (setBank s b).cur = s.cur ∧ (setBank s b).nonce = s.nonce ∧
    (setBank s b).nextId = s.nextId ∧ (setBank s b).out = s.out ∧ (setBank s b).fc = s.fc ∧
    (setBank s b).wall = s.wall ∧ (setBank s b).tick = s.tick ∧ (setBank s b).lead = s.lead ∧
    (setBank s b).clockStopped = s.clockStopped ∧ (setBank s b).rebasing = s.rebasing ∧
    (setBank s b).rebases = s.rebases ∧ (setBank s b).wmark = s.wmark ∧ (setBank s b).boot = s.boot ∧
    (setBank s b).fatal = s.fatal ∧ (setBank s b).zeroing = s.zeroing ∧ (setBank s b).segMap = s.segMap ∧
    (setBank s b).lines = s.lines ∧ (setBank s b).poolUsed = s.poolUsed ∧ (setBank s b).llc = s.llc ∧
    (setBank s b).hbmBad = s.hbmBad ∧ (setBank s b).zq = s.zq ∧ (setBank s b).holds = s.holds ∧
    (setBank s b).crossings = s.crossings ∧ (setBank s b).copies = s.copies ∧ (setBank s b).waiters = s.waiters ∧
    (setBank s b).reqs = s.reqs ∧ (setBank s b).incarn = s.incarn ∧ (setBank s b).vfs = s.vfs ∧
    (setBank s b).mcmd = s.mcmd ∧ (setBank s b).marg0 = s.marg0 ∧ (setBank s b).marg1 = s.marg1 ∧
    (setBank s b).marg2 = s.marg2 ∧ (setBank s b).tenantChecks = s.tenantChecks ∧
    (setBank s b).scratchGrants = s.scratchGrants ∧ (setBank s b).queues = s.queues ∧ (setBank s b).ageMax = s.ageMax ∧
    (setBank s b).cthresh = s.cthresh ∧ (setBank s b).circle = s.circle ∧ (setBank s b).cands = s.cands ∧
    (setBank s b).lsel = s.lsel ∧ (setBank s b).dump = s.dump ∧ (setBank s b).dieGo = s.dieGo ∧
    (setBank s b).dieState = s.dieState ∧ (setBank s b).dieNo = s.dieNo ∧ (setBank s b).dieSince = s.dieSince ∧
    (setBank s b).dieBack = s.dieBack ∧ (setBank s b).evbase = s.evbase ∧ (setBank s b).evput = s.evput ∧
    (setBank s b).evget = s.evget ∧ (setBank s b).evovf = s.evovf ∧ (setBank s b).pwrStep = s.pwrStep ∧
    (setBank s b).pwrLimit = s.pwrLimit ∧ (setBank s b).pwrTthr = s.pwrTthr ∧ (setBank s b).throttle = s.throttle ∧
    (setBank s b).couplers = s.couplers ∧ (setBank s b).jobs = s.jobs ∧ (setBank s b).tabFrames = s.tabFrames ∧
    (setBank s b).leases = s.leases ∧ (setBank s b).awaitSave = s.awaitSave := by
  and_intros <;> rfl

/-- Writing device memory leaves every other field of the state. -/
@[simp] theorem memWr_frame (s : State) (a : Nat) (bs : List Byte) (ps : List Bool) :
    (memWr s a bs ps).agenda = s.agenda ∧ (memWr s a bs ps).cur = s.cur ∧ (memWr s a bs ps).nonce = s.nonce ∧
    (memWr s a bs ps).nextId = s.nextId ∧ (memWr s a bs ps).out = s.out ∧ (memWr s a bs ps).fc = s.fc ∧
    (memWr s a bs ps).wall = s.wall ∧ (memWr s a bs ps).tick = s.tick ∧ (memWr s a bs ps).lead = s.lead ∧
    (memWr s a bs ps).clockStopped = s.clockStopped ∧ (memWr s a bs ps).rebasing = s.rebasing ∧
    (memWr s a bs ps).rebases = s.rebases ∧ (memWr s a bs ps).wmark = s.wmark ∧ (memWr s a bs ps).boot = s.boot ∧
    (memWr s a bs ps).fatal = s.fatal ∧ (memWr s a bs ps).zeroing = s.zeroing ∧ (memWr s a bs ps).segMap = s.segMap ∧
    (memWr s a bs ps).lines = s.lines ∧ (memWr s a bs ps).poolUsed = s.poolUsed ∧ (memWr s a bs ps).llc = s.llc ∧
    (memWr s a bs ps).hbmBad = s.hbmBad ∧ (memWr s a bs ps).zq = s.zq ∧ (memWr s a bs ps).holds = s.holds ∧
    (memWr s a bs ps).crossings = s.crossings ∧ (memWr s a bs ps).copies = s.copies ∧
    (memWr s a bs ps).waiters = s.waiters ∧ (memWr s a bs ps).reqs = s.reqs ∧ (memWr s a bs ps).incarn = s.incarn ∧
    (memWr s a bs ps).vfs = s.vfs ∧ (memWr s a bs ps).mcmd = s.mcmd ∧ (memWr s a bs ps).marg0 = s.marg0 ∧
    (memWr s a bs ps).marg1 = s.marg1 ∧ (memWr s a bs ps).marg2 = s.marg2 ∧
    (memWr s a bs ps).tenantChecks = s.tenantChecks ∧ (memWr s a bs ps).scratchGrants = s.scratchGrants ∧
    (memWr s a bs ps).queues = s.queues ∧ (memWr s a bs ps).ageMax = s.ageMax ∧ (memWr s a bs ps).cthresh = s.cthresh ∧
    (memWr s a bs ps).circle = s.circle ∧ (memWr s a bs ps).cands = s.cands ∧ (memWr s a bs ps).lsel = s.lsel ∧
    (memWr s a bs ps).dump = s.dump ∧ (memWr s a bs ps).dieGo = s.dieGo ∧ (memWr s a bs ps).dieState = s.dieState ∧
    (memWr s a bs ps).dieNo = s.dieNo ∧ (memWr s a bs ps).dieSince = s.dieSince ∧
    (memWr s a bs ps).dieBack = s.dieBack ∧ (memWr s a bs ps).evbase = s.evbase ∧ (memWr s a bs ps).evput = s.evput ∧
    (memWr s a bs ps).evget = s.evget ∧ (memWr s a bs ps).evovf = s.evovf ∧ (memWr s a bs ps).pwrStep = s.pwrStep ∧
    (memWr s a bs ps).pwrLimit = s.pwrLimit ∧ (memWr s a bs ps).pwrTthr = s.pwrTthr ∧
    (memWr s a bs ps).throttle = s.throttle ∧ (memWr s a bs ps).couplers = s.couplers ∧
    (memWr s a bs ps).jobs = s.jobs ∧ (memWr s a bs ps).tabFrames = s.tabFrames ∧ (memWr s a bs ps).leases = s.leases ∧
    (memWr s a bs ps).awaitSave = s.awaitSave := by
  and_intros <;> rfl

/-- What leaves the device changes nothing else. -/
@[simp] theorem emit_frame (s : State) (o : Out) :
    (emit s o).agenda = s.agenda ∧ (emit s o).cur = s.cur ∧ (emit s o).nonce = s.nonce ∧ (emit s o).nextId = s.nextId ∧
    (emit s o).fc = s.fc ∧ (emit s o).wall = s.wall ∧ (emit s o).tick = s.tick ∧ (emit s o).lead = s.lead ∧
    (emit s o).clockStopped = s.clockStopped ∧ (emit s o).rebasing = s.rebasing ∧ (emit s o).rebases = s.rebases ∧
    (emit s o).wmark = s.wmark ∧ (emit s o).boot = s.boot ∧ (emit s o).fatal = s.fatal ∧ (emit s o).mem = s.mem ∧
    (emit s o).mpois = s.mpois ∧ (emit s o).scrubbed = s.scrubbed ∧ (emit s o).zeroing = s.zeroing ∧
    (emit s o).segMap = s.segMap ∧ (emit s o).lines = s.lines ∧ (emit s o).poolUsed = s.poolUsed ∧
    (emit s o).llc = s.llc ∧ (emit s o).hbmBad = s.hbmBad ∧ (emit s o).zq = s.zq ∧ (emit s o).holds = s.holds ∧
    (emit s o).crossings = s.crossings ∧ (emit s o).copies = s.copies ∧ (emit s o).waiters = s.waiters ∧
    (emit s o).reqs = s.reqs ∧ (emit s o).incarn = s.incarn ∧ (emit s o).vfs = s.vfs ∧ (emit s o).mcmd = s.mcmd ∧
    (emit s o).marg0 = s.marg0 ∧ (emit s o).marg1 = s.marg1 ∧ (emit s o).marg2 = s.marg2 ∧
    (emit s o).tenantChecks = s.tenantChecks ∧ (emit s o).scratchGrants = s.scratchGrants ∧
    (emit s o).queues = s.queues ∧ (emit s o).ageMax = s.ageMax ∧ (emit s o).cthresh = s.cthresh ∧
    (emit s o).circle = s.circle ∧ (emit s o).cands = s.cands ∧ (emit s o).lsel = s.lsel ∧ (emit s o).dump = s.dump ∧
    (emit s o).dieGo = s.dieGo ∧ (emit s o).dieState = s.dieState ∧ (emit s o).dieNo = s.dieNo ∧
    (emit s o).dieSince = s.dieSince ∧ (emit s o).dieBack = s.dieBack ∧ (emit s o).evbase = s.evbase ∧
    (emit s o).evput = s.evput ∧ (emit s o).evget = s.evget ∧ (emit s o).evovf = s.evovf ∧
    (emit s o).pwrStep = s.pwrStep ∧ (emit s o).pwrLimit = s.pwrLimit ∧ (emit s o).pwrTthr = s.pwrTthr ∧
    (emit s o).throttle = s.throttle ∧ (emit s o).couplers = s.couplers ∧ (emit s o).jobs = s.jobs ∧
    (emit s o).tabFrames = s.tabFrames ∧ (emit s o).leases = s.leases ∧ (emit s o).awaitSave = s.awaitSave := by
  and_intros <;> rfl

/-- Drawing a free value changes nothing else. -/
@[simp] theorem bump_frame (s : State) :
    (bump s).agenda = s.agenda ∧ (bump s).cur = s.cur ∧ (bump s).nextId = s.nextId ∧ (bump s).out = s.out ∧
    (bump s).fc = s.fc ∧ (bump s).wall = s.wall ∧ (bump s).tick = s.tick ∧ (bump s).lead = s.lead ∧
    (bump s).clockStopped = s.clockStopped ∧ (bump s).rebasing = s.rebasing ∧ (bump s).rebases = s.rebases ∧
    (bump s).wmark = s.wmark ∧ (bump s).boot = s.boot ∧ (bump s).fatal = s.fatal ∧ (bump s).mem = s.mem ∧
    (bump s).mpois = s.mpois ∧ (bump s).scrubbed = s.scrubbed ∧ (bump s).zeroing = s.zeroing ∧
    (bump s).segMap = s.segMap ∧ (bump s).lines = s.lines ∧ (bump s).poolUsed = s.poolUsed ∧ (bump s).llc = s.llc ∧
    (bump s).hbmBad = s.hbmBad ∧ (bump s).zq = s.zq ∧ (bump s).holds = s.holds ∧ (bump s).crossings = s.crossings ∧
    (bump s).copies = s.copies ∧ (bump s).waiters = s.waiters ∧ (bump s).reqs = s.reqs ∧ (bump s).incarn = s.incarn ∧
    (bump s).vfs = s.vfs ∧ (bump s).mcmd = s.mcmd ∧ (bump s).marg0 = s.marg0 ∧ (bump s).marg1 = s.marg1 ∧
    (bump s).marg2 = s.marg2 ∧ (bump s).tenantChecks = s.tenantChecks ∧ (bump s).scratchGrants = s.scratchGrants ∧
    (bump s).queues = s.queues ∧ (bump s).ageMax = s.ageMax ∧ (bump s).cthresh = s.cthresh ∧
    (bump s).circle = s.circle ∧ (bump s).cands = s.cands ∧ (bump s).lsel = s.lsel ∧ (bump s).dump = s.dump ∧
    (bump s).dieGo = s.dieGo ∧ (bump s).dieState = s.dieState ∧ (bump s).dieNo = s.dieNo ∧
    (bump s).dieSince = s.dieSince ∧ (bump s).dieBack = s.dieBack ∧ (bump s).evbase = s.evbase ∧
    (bump s).evput = s.evput ∧ (bump s).evget = s.evget ∧ (bump s).evovf = s.evovf ∧ (bump s).pwrStep = s.pwrStep ∧
    (bump s).pwrLimit = s.pwrLimit ∧ (bump s).pwrTthr = s.pwrTthr ∧ (bump s).throttle = s.throttle ∧
    (bump s).couplers = s.couplers ∧ (bump s).jobs = s.jobs ∧ (bump s).tabFrames = s.tabFrames ∧
    (bump s).leases = s.leases ∧ (bump s).awaitSave = s.awaitSave := by
  and_intros <;> rfl

/-- Changing a register block leaves every other field of the state. -/
@[simp] theorem updVf_frame (s : State) (v : Nat) (f : Vf → Vf) :
    (updVf s v f).agenda = s.agenda ∧ (updVf s v f).cur = s.cur ∧ (updVf s v f).nonce = s.nonce ∧
    (updVf s v f).nextId = s.nextId ∧ (updVf s v f).out = s.out ∧ (updVf s v f).fc = s.fc ∧
    (updVf s v f).wall = s.wall ∧ (updVf s v f).tick = s.tick ∧ (updVf s v f).lead = s.lead ∧
    (updVf s v f).clockStopped = s.clockStopped ∧ (updVf s v f).rebasing = s.rebasing ∧
    (updVf s v f).rebases = s.rebases ∧ (updVf s v f).wmark = s.wmark ∧ (updVf s v f).boot = s.boot ∧
    (updVf s v f).fatal = s.fatal ∧ (updVf s v f).mem = s.mem ∧ (updVf s v f).mpois = s.mpois ∧
    (updVf s v f).scrubbed = s.scrubbed ∧ (updVf s v f).zeroing = s.zeroing ∧ (updVf s v f).segMap = s.segMap ∧
    (updVf s v f).lines = s.lines ∧ (updVf s v f).poolUsed = s.poolUsed ∧ (updVf s v f).llc = s.llc ∧
    (updVf s v f).hbmBad = s.hbmBad ∧ (updVf s v f).zq = s.zq ∧ (updVf s v f).holds = s.holds ∧
    (updVf s v f).crossings = s.crossings ∧ (updVf s v f).copies = s.copies ∧ (updVf s v f).waiters = s.waiters ∧
    (updVf s v f).reqs = s.reqs ∧ (updVf s v f).incarn = s.incarn ∧ (updVf s v f).mcmd = s.mcmd ∧
    (updVf s v f).marg0 = s.marg0 ∧ (updVf s v f).marg1 = s.marg1 ∧ (updVf s v f).marg2 = s.marg2 ∧
    (updVf s v f).tenantChecks = s.tenantChecks ∧ (updVf s v f).scratchGrants = s.scratchGrants ∧
    (updVf s v f).queues = s.queues ∧ (updVf s v f).ageMax = s.ageMax ∧ (updVf s v f).cthresh = s.cthresh ∧
    (updVf s v f).circle = s.circle ∧ (updVf s v f).cands = s.cands ∧ (updVf s v f).lsel = s.lsel ∧
    (updVf s v f).dump = s.dump ∧ (updVf s v f).dieGo = s.dieGo ∧ (updVf s v f).dieState = s.dieState ∧
    (updVf s v f).dieNo = s.dieNo ∧ (updVf s v f).dieSince = s.dieSince ∧ (updVf s v f).dieBack = s.dieBack ∧
    (updVf s v f).evbase = s.evbase ∧ (updVf s v f).evput = s.evput ∧ (updVf s v f).evget = s.evget ∧
    (updVf s v f).evovf = s.evovf ∧ (updVf s v f).pwrStep = s.pwrStep ∧ (updVf s v f).pwrLimit = s.pwrLimit ∧
    (updVf s v f).pwrTthr = s.pwrTthr ∧ (updVf s v f).throttle = s.throttle ∧ (updVf s v f).couplers = s.couplers ∧
    (updVf s v f).jobs = s.jobs ∧ (updVf s v f).tabFrames = s.tabFrames ∧ (updVf s v f).leases = s.leases ∧
    (updVf s v f).awaitSave = s.awaitSave := by
  and_intros <;> rfl

/-- Changing a queue leaves every other field of the state. -/
@[simp] theorem updQueue_frame (s : State) (g : Nat) (f : Queue → Queue) :
    (updQueue s g f).agenda = s.agenda ∧ (updQueue s g f).cur = s.cur ∧ (updQueue s g f).nonce = s.nonce ∧
    (updQueue s g f).nextId = s.nextId ∧ (updQueue s g f).out = s.out ∧ (updQueue s g f).fc = s.fc ∧
    (updQueue s g f).wall = s.wall ∧ (updQueue s g f).tick = s.tick ∧ (updQueue s g f).lead = s.lead ∧
    (updQueue s g f).clockStopped = s.clockStopped ∧ (updQueue s g f).rebasing = s.rebasing ∧
    (updQueue s g f).rebases = s.rebases ∧ (updQueue s g f).wmark = s.wmark ∧ (updQueue s g f).boot = s.boot ∧
    (updQueue s g f).fatal = s.fatal ∧ (updQueue s g f).mem = s.mem ∧ (updQueue s g f).mpois = s.mpois ∧
    (updQueue s g f).scrubbed = s.scrubbed ∧ (updQueue s g f).zeroing = s.zeroing ∧
    (updQueue s g f).segMap = s.segMap ∧ (updQueue s g f).lines = s.lines ∧ (updQueue s g f).poolUsed = s.poolUsed ∧
    (updQueue s g f).llc = s.llc ∧ (updQueue s g f).hbmBad = s.hbmBad ∧ (updQueue s g f).zq = s.zq ∧
    (updQueue s g f).holds = s.holds ∧ (updQueue s g f).crossings = s.crossings ∧ (updQueue s g f).copies = s.copies ∧
    (updQueue s g f).waiters = s.waiters ∧ (updQueue s g f).reqs = s.reqs ∧ (updQueue s g f).incarn = s.incarn ∧
    (updQueue s g f).vfs = s.vfs ∧ (updQueue s g f).mcmd = s.mcmd ∧ (updQueue s g f).marg0 = s.marg0 ∧
    (updQueue s g f).marg1 = s.marg1 ∧ (updQueue s g f).marg2 = s.marg2 ∧
    (updQueue s g f).tenantChecks = s.tenantChecks ∧ (updQueue s g f).scratchGrants = s.scratchGrants ∧
    (updQueue s g f).ageMax = s.ageMax ∧ (updQueue s g f).cthresh = s.cthresh ∧ (updQueue s g f).circle = s.circle ∧
    (updQueue s g f).cands = s.cands ∧ (updQueue s g f).lsel = s.lsel ∧ (updQueue s g f).dump = s.dump ∧
    (updQueue s g f).dieGo = s.dieGo ∧ (updQueue s g f).dieState = s.dieState ∧ (updQueue s g f).dieNo = s.dieNo ∧
    (updQueue s g f).dieSince = s.dieSince ∧ (updQueue s g f).dieBack = s.dieBack ∧
    (updQueue s g f).evbase = s.evbase ∧ (updQueue s g f).evput = s.evput ∧ (updQueue s g f).evget = s.evget ∧
    (updQueue s g f).evovf = s.evovf ∧ (updQueue s g f).pwrStep = s.pwrStep ∧ (updQueue s g f).pwrLimit = s.pwrLimit ∧
    (updQueue s g f).pwrTthr = s.pwrTthr ∧ (updQueue s g f).throttle = s.throttle ∧
    (updQueue s g f).couplers = s.couplers ∧ (updQueue s g f).jobs = s.jobs ∧
    (updQueue s g f).tabFrames = s.tabFrames ∧ (updQueue s g f).leases = s.leases ∧
    (updQueue s g f).awaitSave = s.awaitSave := by
  and_intros <;> rfl

/-- Changing a coupler leaves every other field of the state. -/
@[simp] theorem updCoupler_frame (s : State) (k : Nat) (f : Coupler → Coupler) :
    (updCoupler s k f).agenda = s.agenda ∧ (updCoupler s k f).cur = s.cur ∧ (updCoupler s k f).nonce = s.nonce ∧
    (updCoupler s k f).nextId = s.nextId ∧ (updCoupler s k f).out = s.out ∧ (updCoupler s k f).fc = s.fc ∧
    (updCoupler s k f).wall = s.wall ∧ (updCoupler s k f).tick = s.tick ∧ (updCoupler s k f).lead = s.lead ∧
    (updCoupler s k f).clockStopped = s.clockStopped ∧ (updCoupler s k f).rebasing = s.rebasing ∧
    (updCoupler s k f).rebases = s.rebases ∧ (updCoupler s k f).wmark = s.wmark ∧ (updCoupler s k f).boot = s.boot ∧
    (updCoupler s k f).fatal = s.fatal ∧ (updCoupler s k f).mem = s.mem ∧ (updCoupler s k f).mpois = s.mpois ∧
    (updCoupler s k f).scrubbed = s.scrubbed ∧ (updCoupler s k f).zeroing = s.zeroing ∧
    (updCoupler s k f).segMap = s.segMap ∧ (updCoupler s k f).lines = s.lines ∧
    (updCoupler s k f).poolUsed = s.poolUsed ∧ (updCoupler s k f).llc = s.llc ∧ (updCoupler s k f).hbmBad = s.hbmBad ∧
    (updCoupler s k f).zq = s.zq ∧ (updCoupler s k f).holds = s.holds ∧ (updCoupler s k f).crossings = s.crossings ∧
    (updCoupler s k f).copies = s.copies ∧ (updCoupler s k f).waiters = s.waiters ∧ (updCoupler s k f).reqs = s.reqs ∧
    (updCoupler s k f).incarn = s.incarn ∧ (updCoupler s k f).vfs = s.vfs ∧ (updCoupler s k f).mcmd = s.mcmd ∧
    (updCoupler s k f).marg0 = s.marg0 ∧ (updCoupler s k f).marg1 = s.marg1 ∧ (updCoupler s k f).marg2 = s.marg2 ∧
    (updCoupler s k f).tenantChecks = s.tenantChecks ∧ (updCoupler s k f).scratchGrants = s.scratchGrants ∧
    (updCoupler s k f).queues = s.queues ∧ (updCoupler s k f).ageMax = s.ageMax ∧
    (updCoupler s k f).cthresh = s.cthresh ∧ (updCoupler s k f).circle = s.circle ∧
    (updCoupler s k f).cands = s.cands ∧ (updCoupler s k f).lsel = s.lsel ∧ (updCoupler s k f).dump = s.dump ∧
    (updCoupler s k f).dieGo = s.dieGo ∧ (updCoupler s k f).dieState = s.dieState ∧
    (updCoupler s k f).dieNo = s.dieNo ∧ (updCoupler s k f).dieSince = s.dieSince ∧
    (updCoupler s k f).dieBack = s.dieBack ∧ (updCoupler s k f).evbase = s.evbase ∧
    (updCoupler s k f).evput = s.evput ∧ (updCoupler s k f).evget = s.evget ∧ (updCoupler s k f).evovf = s.evovf ∧
    (updCoupler s k f).pwrStep = s.pwrStep ∧ (updCoupler s k f).pwrLimit = s.pwrLimit ∧
    (updCoupler s k f).pwrTthr = s.pwrTthr ∧ (updCoupler s k f).throttle = s.throttle ∧
    (updCoupler s k f).jobs = s.jobs ∧ (updCoupler s k f).tabFrames = s.tabFrames ∧
    (updCoupler s k f).leases = s.leases ∧ (updCoupler s k f).awaitSave = s.awaitSave := by
  and_intros <;> rfl

/-- Waking the Shunter changes the agenda only. -/
@[simp] theorem wakeShunter_frame (s : State) :
    (wakeShunter s).cur = s.cur ∧ (wakeShunter s).nonce = s.nonce ∧ (wakeShunter s).nextId = s.nextId ∧
    (wakeShunter s).out = s.out ∧ (wakeShunter s).fc = s.fc ∧ (wakeShunter s).wall = s.wall ∧
    (wakeShunter s).tick = s.tick ∧ (wakeShunter s).lead = s.lead ∧ (wakeShunter s).clockStopped = s.clockStopped ∧
    (wakeShunter s).rebasing = s.rebasing ∧ (wakeShunter s).rebases = s.rebases ∧ (wakeShunter s).wmark = s.wmark ∧
    (wakeShunter s).boot = s.boot ∧ (wakeShunter s).fatal = s.fatal ∧ (wakeShunter s).mem = s.mem ∧
    (wakeShunter s).mpois = s.mpois ∧ (wakeShunter s).scrubbed = s.scrubbed ∧ (wakeShunter s).zeroing = s.zeroing ∧
    (wakeShunter s).segMap = s.segMap ∧ (wakeShunter s).lines = s.lines ∧ (wakeShunter s).poolUsed = s.poolUsed ∧
    (wakeShunter s).llc = s.llc ∧ (wakeShunter s).hbmBad = s.hbmBad ∧ (wakeShunter s).zq = s.zq ∧
    (wakeShunter s).holds = s.holds ∧ (wakeShunter s).crossings = s.crossings ∧ (wakeShunter s).copies = s.copies ∧
    (wakeShunter s).waiters = s.waiters ∧ (wakeShunter s).reqs = s.reqs ∧ (wakeShunter s).incarn = s.incarn ∧
    (wakeShunter s).vfs = s.vfs ∧ (wakeShunter s).mcmd = s.mcmd ∧ (wakeShunter s).marg0 = s.marg0 ∧
    (wakeShunter s).marg1 = s.marg1 ∧ (wakeShunter s).marg2 = s.marg2 ∧ (wakeShunter s).tenantChecks = s.tenantChecks ∧
    (wakeShunter s).scratchGrants = s.scratchGrants ∧ (wakeShunter s).queues = s.queues ∧
    (wakeShunter s).ageMax = s.ageMax ∧ (wakeShunter s).cthresh = s.cthresh ∧ (wakeShunter s).circle = s.circle ∧
    (wakeShunter s).cands = s.cands ∧ (wakeShunter s).lsel = s.lsel ∧ (wakeShunter s).dump = s.dump ∧
    (wakeShunter s).dieGo = s.dieGo ∧ (wakeShunter s).dieState = s.dieState ∧ (wakeShunter s).dieNo = s.dieNo ∧
    (wakeShunter s).dieSince = s.dieSince ∧ (wakeShunter s).dieBack = s.dieBack ∧ (wakeShunter s).evbase = s.evbase ∧
    (wakeShunter s).evput = s.evput ∧ (wakeShunter s).evget = s.evget ∧ (wakeShunter s).evovf = s.evovf ∧
    (wakeShunter s).pwrStep = s.pwrStep ∧ (wakeShunter s).pwrLimit = s.pwrLimit ∧ (wakeShunter s).pwrTthr = s.pwrTthr ∧
    (wakeShunter s).throttle = s.throttle ∧ (wakeShunter s).couplers = s.couplers ∧ (wakeShunter s).jobs = s.jobs ∧
    (wakeShunter s).tabFrames = s.tabFrames ∧ (wakeShunter s).leases = s.leases ∧
    (wakeShunter s).awaitSave = s.awaitSave := by
  and_intros <;> rfl

/-- Moving to the next instruction changes only PC, the operation in progress and the counts. -/
@[simp] theorem seqNext_frame (q : Seq) :
    (seqNext q).x = q.x ∧ (seqNext q).xp = q.xp ∧ (seqNext q).sview = q.sview ∧ (seqNext q).atomst = q.atomst ∧
    (seqNext q).donecnt = q.donecnt ∧ (seqNext q).tvec = q.tvec ∧ (seqNext q).epc = q.epc ∧
    (seqNext q).ecause = q.ecause ∧ (seqNext q).eaddr = q.eaddr ∧ (seqNext q).intrap = q.intrap ∧
    (seqNext q).tscr = q.tscr ∧ (seqNext q).cycle = q.cycle ∧ (seqNext q).stopped = q.stopped ∧
    (seqNext q).pend = q.pend ∧ (seqNext q).icache = q.icache ∧ (seqNext q).ord = q.ord ∧ (seqNext q).hist = q.hist := by
  and_intros <;> rfl

/-- Replacing a tile store leaves every other field of the tile. -/
@[simp] theorem setTileBank_frame (x : Tile) (b : Bank) :
    (setTileBank x b).act = x.act ∧ (setTileBank x b).shd = x.shd ∧ (setTileBank x b).ctx = x.ctx ∧
    (setTileBank x b).ctr = x.ctr ∧ (setTileBank x b).ctl = x.ctl ∧ (setTileBank x b).cctr = x.cctr ∧
    (setTileBank x b).phase = x.phase ∧ (setTileBank x b).phaseOn = x.phaseOn ∧
    (setTileBank x b).holdOpen = x.holdOpen ∧ (setTileBank x b).tin = x.tin ∧ (setTileBank x b).tout = x.tout ∧
    (setTileBank x b).dly = x.dly ∧ (setTileBank x b).inl = x.inl ∧ (setTileBank x b).eosSeen = x.eosSeen ∧
    (setTileBank x b).fwl = x.fwl ∧ (setTileBank x b).zeroing = x.zeroing ∧ (setTileBank x b).ebs = x.ebs ∧
    (setTileBank x b).kept = x.kept ∧ (setTileBank x b).cred = x.cred ∧ (setTileBank x b).grecs = x.grecs ∧
    (setTileBank x b).mat = x.mat ∧ (setTileBank x b).ra = x.ra ∧ (setTileBank x b).passed = x.passed ∧
    (setTileBank x b).poisStore = x.poisStore ∧ (setTileBank x b).ord = x.ord := by
  and_intros <;> rfl

/-- Writing a tile store leaves every other field of the tile. -/
@[simp] theorem tileWr_frame (x : Tile) (o : Nat) (bs : List Byte) (ps : List Bool) :
    (tileWr x o bs ps).act = x.act ∧ (tileWr x o bs ps).shd = x.shd ∧ (tileWr x o bs ps).ctx = x.ctx ∧
    (tileWr x o bs ps).ctr = x.ctr ∧ (tileWr x o bs ps).ctl = x.ctl ∧ (tileWr x o bs ps).cctr = x.cctr ∧
    (tileWr x o bs ps).phase = x.phase ∧ (tileWr x o bs ps).phaseOn = x.phaseOn ∧
    (tileWr x o bs ps).holdOpen = x.holdOpen ∧ (tileWr x o bs ps).tin = x.tin ∧ (tileWr x o bs ps).tout = x.tout ∧
    (tileWr x o bs ps).dly = x.dly ∧ (tileWr x o bs ps).inl = x.inl ∧ (tileWr x o bs ps).eosSeen = x.eosSeen ∧
    (tileWr x o bs ps).fwl = x.fwl ∧ (tileWr x o bs ps).zeroing = x.zeroing ∧ (tileWr x o bs ps).ebs = x.ebs ∧
    (tileWr x o bs ps).kept = x.kept ∧ (tileWr x o bs ps).cred = x.cred ∧ (tileWr x o bs ps).grecs = x.grecs ∧
    (tileWr x o bs ps).mat = x.mat ∧ (tileWr x o bs ps).ra = x.ra ∧ (tileWr x o bs ps).passed = x.passed ∧
    (tileWr x o bs ps).poisStore = x.poisStore ∧ (tileWr x o bs ps).ord = x.ord := by
  and_intros <;> rfl

/-- Replacing a context leaves every other field of the tile. -/
@[simp] theorem setCtx_frame (x : Tile) (k : Nat) (c : Ctx) :
    (setCtx x k c).act = x.act ∧ (setCtx x k c).shd = x.shd ∧ (setCtx x k c).ctr = x.ctr ∧ (setCtx x k c).ctl = x.ctl ∧
    (setCtx x k c).cctr = x.cctr ∧ (setCtx x k c).phase = x.phase ∧ (setCtx x k c).phaseOn = x.phaseOn ∧
    (setCtx x k c).holdOpen = x.holdOpen ∧ (setCtx x k c).tin = x.tin ∧ (setCtx x k c).tout = x.tout ∧
    (setCtx x k c).dly = x.dly ∧ (setCtx x k c).inl = x.inl ∧ (setCtx x k c).eosSeen = x.eosSeen ∧
    (setCtx x k c).fwl = x.fwl ∧ (setCtx x k c).store = x.store ∧ (setCtx x k c).spois = x.spois ∧
    (setCtx x k c).scrubbed = x.scrubbed ∧ (setCtx x k c).zeroing = x.zeroing ∧ (setCtx x k c).ebs = x.ebs ∧
    (setCtx x k c).kept = x.kept ∧ (setCtx x k c).cred = x.cred ∧ (setCtx x k c).grecs = x.grecs ∧
    (setCtx x k c).mat = x.mat ∧ (setCtx x k c).ra = x.ra ∧ (setCtx x k c).passed = x.passed ∧
    (setCtx x k c).poisStore = x.poisStore ∧ (setCtx x k c).ord = x.ord := by
  and_intros <;> rfl

@[simp] theorem seqNext_pc (q : Seq) : (seqNext q).pc = q.pc + 4 := rfl
@[simp] theorem seqNext_op (q : Seq) : (seqNext q).op = .none := rfl
@[simp] theorem seqNext_instr (q : Seq) : (seqNext q).instr = q.instr + 1 := rfl

@[simp] theorem xset_zero (q : Seq) (v : Dword) (p : Bool) : xset q 0 v p = q := by simp [xset]

@[simp] theorem xset_pc (q : Seq) (n : BitVec 5) (v : Dword) (p : Bool) : (xset q n v p).pc = q.pc := by
  unfold xset; split <;> rfl
@[simp] theorem xset_op (q : Seq) (n : BitVec 5) (v : Dword) (p : Bool) : (xset q n v p).op = q.op := by
  unfold xset; split <;> rfl
@[simp] theorem xset_saved (q : Seq) (n : BitVec 5) (v : Dword) (p : Bool) : (xset q n v p).saved = q.saved := by
  unfold xset; split <;> rfl
@[simp] theorem xset_instr (q : Seq) (n : BitVec 5) (v : Dword) (p : Bool) : (xset q n v p).instr = q.instr := by
  unfold xset; split <;> rfl
@[simp] theorem xset_pend (q : Seq) (n : BitVec 5) (v : Dword) (p : Bool) : (xset q n v p).pend = q.pend := by
  unfold xset; split <;> rfl

theorem toNat_ne_of_ne {n m : BitVec 5} (h : m ≠ n) : m.toNat ≠ n.toNat := fun e => h (BitVec.eq_of_toNat_eq e)

/-- A write to any register but X0. -/
theorem xset_of_ne (q : Seq) {n : BitVec 5} (v : Dword) (p : Bool) (h : n ≠ 0) :
    xset q n v p = { q with x := mset 0 q.x n.toNat v, xp := nput q.xp n.toNat p } := if_neg h
theorem xget_of_ne (q : Seq) {n : BitVec 5} (h : n ≠ 0) : xget q n = mget 0 q.x n.toNat := if_neg h
@[simp] theorem xget_zero (q : Seq) : xget q 0 = 0 := rfl
theorem xpois_of_ne (q : Seq) {n : BitVec 5} (h : n ≠ 0) : xpois q n = nhas q.xp n.toNat := by
  rw [xpois, bne_iff_ne.2 h, Bool.true_and]
@[simp] theorem xpois_zero (q : Seq) : xpois q 0 = false := rfl

/-- A register reads what was last written to it. -/
theorem xget_xset_self (q : Seq) {n : BitVec 5} (v : Dword) (p : Bool) (h : n ≠ 0) : xget (xset q n v p) n = v := by
  rw [xget_of_ne _ h, xset_of_ne _ _ _ h]; exact mget_mset_self _ _ _ _

/-- Writing one register leaves the others. -/
theorem xget_xset_ne (q : Seq) {n m : BitVec 5} (v : Dword) (p : Bool) (h : m ≠ n) : xget (xset q n v p) m = xget q m := by
  by_cases hn : n = 0
  · subst hn; rfl
  · by_cases hm : m = 0
    · subst hm; rfl
    · rw [xget_of_ne _ hm, xget_of_ne _ hm, xset_of_ne _ _ _ hn]; exact mget_mset_ne _ _ _ (toNat_ne_of_ne h)

theorem nhas_cons (a : Nat) (r : NSet) (j : Nat) : nhas (a :: r) j = (a == j || nhas r j) := rfl

/-- Membership after a number is added. -/
theorem nhas_nadd (s : NSet) (k j : Nat) : nhas (nadd s k) j = (k == j || nhas s j) := by
  induction s with
  | nil => rfl
  | cons a r ih =>
    rw [nadd]
    split_ifs with h1 h2
    · rfl
    · subst h2; rw [nhas_cons, ← Bool.or_assoc, Bool.or_self]
    · rw [nhas_cons, nhas_cons, ih, Bool.or_left_comm]

/-- Membership after a number is removed. -/
theorem nhas_ndel (s : NSet) (k j : Nat) : nhas (ndel s k) j = (!(k == j) && nhas s j) := by
  induction s with
  | nil => rw [ndel, Bool.and_comm]; rfl
  | cons a r ih =>
    rw [ndel]
    split_ifs with h1
    · rw [ih, nhas_cons, h1]; cases k == j <;> simp
    · rw [nhas_cons, nhas_cons, ih]
      by_cases hj : k = j
      · subst hj; rw [beq_eq_false_iff_ne.2 h1, Bool.false_or, beq_self_eq_true]; rfl
      · rw [beq_eq_false_iff_ne.2 hj]; rfl

/-- Membership after a number is added or removed. -/
theorem nhas_nput (s : NSet) (k j : Nat) (b : Bool) : nhas (nput s k b) j = if k = j then b else nhas s j := by
  cases b
  · rw [nput, if_neg (by decide), nhas_ndel]
    by_cases h : k = j
    · rw [if_pos h, beq_iff_eq.2 h]; rfl
    · rw [if_neg h, beq_eq_false_iff_ne.2 h]; rfl
  · rw [nput, if_pos rfl, nhas_nadd]
    by_cases h : k = j
    · rw [if_pos h, beq_iff_eq.2 h]; rfl
    · rw [if_neg h, beq_eq_false_iff_ne.2 h]; rfl

/-- The poison of a register is what was last written. -/
theorem xpois_xset_self (q : Seq) {n : BitVec 5} (v : Dword) (p : Bool) (h : n ≠ 0) : xpois (xset q n v p) n = p := by
  rw [xpois_of_ne _ h, xset_of_ne _ _ _ h]; exact (nhas_nput _ _ _ _).trans (if_pos rfl)

/-- Writing one register leaves the poison of the others. -/
theorem xpois_xset_ne (q : Seq) {n m : BitVec 5} (v : Dword) (p : Bool) (h : m ≠ n) : xpois (xset q n v p) m = xpois q m := by
  by_cases hn : n = 0
  · subst hn; rfl
  · by_cases hm : m = 0
    · subst hm; rfl
    · rw [xpois_of_ne _ hm, xpois_of_ne _ hm, xset_of_ne _ _ _ hn]
      exact (nhas_nput _ _ _ _).trans (if_neg (toNat_ne_of_ne (Ne.symm h)))

@[simp] theorem xget_seqNext (q : Seq) (n : BitVec 5) : xget (seqNext q) n = xget q n := rfl
@[simp] theorem xpois_seqNext (q : Seq) (n : BitVec 5) : xpois (seqNext q) n = xpois q n := rfl

/-- A changed lease is found with its change. -/
theorem leaseOf_updLease {s : State} {l : Nat} {ls : Lease} (f : Lease → Lease) (h : leaseOf s l = some ls) :
    leaseOf (updLease s l f) l = some (f ls) := mfind_mmod_self _ _ _ _ h

/-- Another lease is found as it was. -/
theorem leaseOf_updLease_ne (s : State) {l j : Nat} (f : Lease → Lease) (h : j ≠ l) :
    leaseOf (updLease s l f) j = leaseOf s j := mfind_mmod_ne _ _ h

@[simp] theorem seqOf_setSeq (ls : Lease) (r : Bool) (q : Seq) : seqOf (setSeq ls r q) r = q := by
  cases r <;> rfl
theorem seqOf_setSeq_ne (ls : Lease) {r r' : Bool} (q : Seq) (h : r' ≠ r) : seqOf (setSeq ls r q) r' = seqOf ls r' := by
  cases r <;> cases r' <;> first | rfl | exact absurd rfl h

/-- A changed sequencer is found with its change. -/
theorem leaseOf_updSeq {s : State} {l : Nat} {ls : Lease} (r : Bool) (f : Seq → Seq) (h : leaseOf s l = some ls) :
    leaseOf (updSeq s l r f) l = some (setSeq ls r (f (seqOf ls r))) := leaseOf_updLease _ h

/-- A changed tile is found with its change. -/
theorem leaseOf_updTile {s : State} {l t : Nat} {ls : Lease} (f : Tile → Tile) (h : leaseOf s l = some ls) :
    leaseOf (updTile s l t f) l = some { ls with tiles := mmod ls.tiles t f } := leaseOf_updLease _ h

theorem tileOf_mmod {ls : Lease} {t : Nat} {x : Tile} (f : Tile → Tile) (h : tileOf ls t = some x) :
    tileOf { ls with tiles := mmod ls.tiles t f } t = some (f x) := mfind_mmod_self _ _ _ _ h

@[simp] theorem ctxOf_setCtx (x : Tile) (k : Nat) (c : Ctx) : ctxOf (setCtx x k c) k = c := by
  simp [ctxOf, setCtx, mget]
theorem ctxOf_setCtx_ne (x : Tile) {k j : Nat} (c : Ctx) (h : j ≠ k) : ctxOf (setCtx x k c) j = ctxOf x j := by
  simp [ctxOf, setCtx, mget, mfind_mput_ne _ _ h]

/-- A changed register block reads as changed, the others as before. -/
@[simp] theorem vfOf_updVf (s : State) (v : Nat) (f : Vf → Vf) : vfOf (updVf s v f) v = f (vfOf s v) := by
  simp [vfOf, updVf]
theorem vfOf_updVf_ne (s : State) {v w : Nat} (f : Vf → Vf) (h : w ≠ v) : vfOf (updVf s v f) w = vfOf s w :=
  mget_mset_ne _ _ _ h
/-- A changed queue reads as changed, the others as before. -/
@[simp] theorem queueOf_updQueue (s : State) (g : Nat) (f : Queue → Queue) : queueOf (updQueue s g f) g = f (queueOf s g) := by
  simp [queueOf, updQueue]
theorem queueOf_updQueue_ne (s : State) {g j : Nat} (f : Queue → Queue) (h : j ≠ g) : queueOf (updQueue s g f) j = queueOf s j :=
  mget_mset_ne _ _ _ h
/-- A changed coupler reads as changed. -/
@[simp] theorem couplerOf_updCoupler (s : State) (k : Nat) (f : Coupler → Coupler) :
    couplerOf (updCoupler s k f) k = f (couplerOf s k) := by
  simp [couplerOf, updCoupler]

end Sys2Proof.Machine
end

