-- ==== Sys2Proof/Laws/Elem.lean ====
section
/-! SUPPORT. What the shared operations of the element words do: the turn, a destination, packed elements, an elementwise word. -/

namespace Sys2Proof.Claims

open Sys2Proof Sys2Proof.Machine

/-- A bit field. -/
theorem bits_eq (x i n : Nat) : bits x i n = x / 2^i % 2^n := by simp [bits]

/-- An element of packed elements. -/
theorem foldr_pack_elem (w : Nat) (l : List Nat) (e : Nat) (h : e < l.length) :
   (l.foldr (fun v a => a * 2 ^ w + v % 2 ^ w) 0) / 2^(w*e) % 2^w = l[e] % 2^w := by
  induction l generalizing e with
  | nil => simp at h
  | cons a r ih =>
    simp only [List.foldr_cons]
    have hp : 0 < 2^w := Nat.two_pow_pos w
    cases e with
    | zero => simp
    | succ n =>
      simp only [List.getElem_cons_succ]
      rw [← ih n (by simpa using h), Nat.mul_succ, Nat.add_comm (w * n), Nat.pow_add, ← Nat.div_div_eq_div_mul]
      congr 2
      rw [Nat.mul_comm, Nat.mul_add_div hp, Nat.div_eq_of_lt (Nat.mod_lt _ hp), Nat.add_zero]

/-- An element of a payload built from elements. -/
theorem elemAt_ofElems {w : Nat} {l : List Nat} {e : Nat} (h : e < l.length) (hw : w * (e+1) ≤ 768) :
   elemAt w (ofElems w l) e = l[e] % 2^w := by
  rw [elemAt, bits_eq, ofElems, BitVec.toNat_ofNat, ← foldr_pack_elem w l e h]
  have : (2:Nat)^768 = 2^(w*e) * 2^(768 - w*e) := by rw [← Nat.pow_add]; congr 1; rw [Nat.mul_succ] at hw; omega
  rw [this, Nat.mod_mul_right_div_self]
  rw [Nat.mod_mod_of_dvd _ (pow_dvd_pow 2 (by rw [Nat.mul_succ] at hw; omega))]

/-- Packed elements fit. -/
theorem ofElems_lt (w : Nat) (l : List Nat) : l.foldr (fun v a => a * 2 ^ w + v % 2 ^ w) 0 < 2^(w*l.length) := by
  induction l with
  | nil => simp
  | cons a r ih =>
    simp only [List.foldr_cons, List.length_cons, Nat.mul_succ, Nat.pow_add]
    have hp : 0 < 2^w := Nat.two_pow_pos w
    have h2 := Nat.mod_lt a hp
    nlinarith

/-- A payload is its lanes. -/
theorem lanes_eta (x : Payload) : ofElems 32 ((List.range 24).map fun i => laneAt x i) = x := by
  apply BitVec.eq_of_getLsbD_eq
  intro j hj
  have h1 := elemAt_ofElems (w := 32) (l := (List.range 24).map fun i => laneAt x i) (e := j/32) (by simp; omega) (by omega)
  simp only [List.getElem_map, List.getElem_range] at h1
  have h2 : laneAt x (j/32) % 2^32 = laneAt x (j/32) := by simp [laneAt, elemAt, bits_eq]
  rw [h2] at h1
  generalize ofElems 32 ((List.range 24).map fun i => laneAt x i) = y at h1 ⊢
  simp only [laneAt, elemAt, bits_eq] at h1
  have h3 := congrArg (fun n => n.testBit (j%32)) h1
  simp only [Nat.testBit_mod_two_pow, Nat.testBit_div_two_pow] at h3
  have : j % 32 + 32 * (j/32) = j := by omega
  simpa [this, Nat.mod_lt, BitVec.testBit_toNat] using h3

/-- With every lane active nothing of the old token stays. -/
theorem mergeLanes_allLanes (old : Tok) (data : Payload) (pois : LaneMask) (tag aux) :
   mergeLanes allLanes old data pois tag aux = ⟨data, pois, tag, aux, 0⟩ := by
  have ha : ∀ i, i < 24 → allLanes.getLsbD i = true := by decide
  unfold mergeLanes
  have h1 : (List.range 24).map (fun i => if allLanes.getLsbD i then laneAt data i else laneAt old.data i) = (List.range 24).map fun i => laneAt data i := by
    apply List.map_congr_left; intro i hi; simp at hi; rw [ha i hi]; rfl
  rw [h1, lanes_eta]
  have h2 : (pois &&& allLanes) ||| (old.pois &&& ~~~allLanes) = pois := by
    have : allLanes = BitVec.allOnes 24 := by decide
    rw [this, BitVec.and_allOnes, BitVec.not_allOnes]; simp
  rw [h2]

/-- A word of a firing runs its body. -/
theorem onElem_run {s l t k ls x fi} (h : ElemTurn s l t k ls x fi) (f) : onElem s f = .next (f l t k ls x (ctxOf x k) fi) := by
  simp [onElem, h.cur, h.lease, h.tile, h.fire]

/-- A change of a context changes that context alone. -/
theorem onlyCtx_upd {s l t k ls x} (hl : leaseOf s l = some ls) (ht : tileOf ls t = some x) (f) :
   OnlyCtx s (updCtx s l t k f) l t k ls x (f (ctxOf x k)) := by
  refine ⟨setCtx x k (f (ctxOf x k)), ⟨{ ls with tiles := mmod ls.tiles t fun x => setCtx x k (f (ctxOf x k)) }, ⟨leaseOf_updLease _ hl, fun j hj => leaseOf_updLease_ne s _ hj, rfl⟩, mfind_mmod_self _ _ _ _ ht, fun u hu => mfind_mmod_ne _ _ hu, rfl⟩, ctxOf_setCtx _ _ _, fun j hj => ctxOf_setCtx_ne _ _ hj, rfl⟩

/-- A further change of the same context. -/
theorem onlyCtx_upd2 {s s1 l t k ls x c1} (h : OnlyCtx s s1 l t k ls x c1) (f) :
   OnlyCtx s (updCtx s1 l t k f) l t k ls x (f c1) := by
  obtain ⟨x1, ⟨ls1, ⟨hl, hlo, hs⟩, ht, hto, hls⟩, hc, hco, hx⟩ := h
  have := onlyCtx_upd hl ht (k := k) f
  obtain ⟨x2, ⟨ls2, ⟨hl2, hlo2, hs2⟩, ht2, hto2, hls2⟩, hc2, hco2, hx2⟩ := this
  refine ⟨x2, ⟨ls2, ⟨hl2, fun j hj => (hlo2 j hj).trans (hlo j hj), ?_⟩, ht2, fun u hu => (hto2 u hu).trans (hto u hu), ?_⟩, by rw [hc2, hc], fun j hj => (hco2 j hj).trans (hco j hj), ?_⟩
  · rw [hs2, hs]
  · rw [hls2, hls]
  · rw [hx2, hx]

/-- What a destination holds after a write. -/
theorem dstPut_old (c : Ctx) (d : Dst) (t : Tok) : dstOld (dstPut c d t) d = t := by
  cases d with
  | v n => simp [dstOld, dstPut]
  | o j => simp [dstOld, dstPut, outPort, mget]

/-- What a lane result does. -/
theorem elemResult_of {s l t k ls x fi d tok fl} (h : ElemTurn s l t k ls x fi) :
   ElemResult s (fireAt (updCtx s l t k fun c => addFlags (dstPut c d tok) fl) l t k (fi.pc + 1)) l t k ls x fi d tok fl := by
  have H := onlyCtx_upd2 (onlyCtx_upd h.lease h.tile (k := k) (fun c => addFlags (dstPut c d tok) fl)) (fun c => { c with fire := c.fire.map fun f => { f with pc := fi.pc + 1, wait := .none, ord := f.ord + 1 } })
  refine ⟨_, H, ?_, ?_, ?_, ?_, ?_⟩
  · cases d with
    | v n => simp [dstOld, dstPut, addFlags]
    | o j => simp [dstOld, dstPut, outPort, mget, addFlags]
  · cases d <;> rfl
  · intro n hn
    cases d with
    | v m => 
      have : n.toNat ≠ m.toNat := fun e => hn (by rw [BitVec.eq_of_toNat_eq e])
      simp only [dstPut, addFlags]; exact mget_mset_ne _ _ _ this
    | o j => rfl
  · intro j hj
    cases d with
    | v m => rfl
    | o n => 
      have := hj n rfl
      simp [outPort, dstPut, addFlags, mget, mfind_mput_ne _ _ this]
  · have hf : ((addFlags (dstPut (ctxOf x k) d tok) fl)).fire = some fi := by cases d <;> exact h.fire
    dsimp only
    rw [hf]
    cases d <;> rfl

/-- A number from a predicate on its bits. -/
theorem testBit_sum_bits (f : Nat → Bool) (n j : Nat) (h : j < n) :
   (((List.range n).map fun i => if f i then 2 ^ i else 0).foldl (· + ·) 0).testBit j = f j := by
  have key : ∀ n, ((List.range n).map fun i => if f i then 2 ^ i else 0).foldl (· + ·) 0 < 2^n ∧ 
      ∀ j, j < n → (((List.range n).map fun i => if f i then 2 ^ i else 0).foldl (· + ·) 0).testBit j = f j := by
    intro n
    induction n with
    | zero => simp
    | succ n ih =>
      simp only [List.range_succ, List.map_append, List.map_cons, List.map_nil, List.foldl_append, List.foldl_cons, List.foldl_nil]
      generalize ((List.range n).map fun i => if f i then 2 ^ i else 0).foldl (· + ·) 0 = a at ih ⊢
      obtain ⟨ha, hb⟩ := ih
      refine ⟨by rw [Nat.pow_succ]; split <;> omega, fun j hj => ?_⟩
      by_cases hjn : j = n
      · subst hjn
        split
        · rename_i h; rw [Nat.add_comm, Nat.testBit_two_pow_add_eq, Nat.testBit_lt_two_pow ha, h]; rfl
        · rename_i h; rw [Nat.add_zero, Nat.testBit_lt_two_pow ha]; exact (Bool.eq_false_iff.mpr h).symm
      · have hj : j < n := by omega
        rw [← hb j hj]
        split
        · rw [Nat.add_comm, Nat.testBit_two_pow_add_gt hj]
        · rfl
  exact (key n).2 j h

/-- A bit of a lane mask. -/
theorem maskOf_bit (f : Nat → Bool) {j : Nat} (h : j < 24) : (maskOf f).getLsbD j = f j := by
  rw [maskOf, BitVec.getLsbD_ofNat, testBit_sum_bits f 24 j h]; simp [h]

/-- A flag of the flags of all elements. -/
theorem orFlags_bit (l : List Flg) (b : Nat) : (orFlags l).getLsbD b = l.any fun v => v.getLsbD b := by
  have : ∀ (a : Flg), (l.foldl (· ||| ·) a).getLsbD b = (a.getLsbD b || l.any fun v => v.getLsbD b) := by
    induction l with
    | nil => simp
    | cons v r ih => intro a; simp only [List.foldl_cons, ih, BitVec.getLsbD_or, List.any_cons, Bool.or_assoc]
  simpa [orFlags] using this 0

/-- What an elementwise word does. -/
theorem elementwise_of {i ty tag d srcs m g} (hi : ∀ s, exec i s = elemOp ty tag d srcs m g s) :
    Elementwise i ty tag d srcs m g := by
  intro s l t k ls x fi ts h
  dsimp only
  obtain ⟨ht, hp, hr, hs⟩ := h
  refine ⟨_, by rw [hi, elemOp, laneOp, onElem_run ht], ?_⟩
  simp only [hp, hs, hr, if_true, if_false, Bool.not_true, Bool.false_eq_true]
  dsimp only [elementwise]
  refine ⟨_, _, elemResult_of ht, ?_⟩
  simp only [mergeLanes_allLanes]
  have hN : ∀ e, e < tyN ty → tyW ty * (e+1) ≤ 768 := by
    intro e he; cases ty <;> simp [tyN, tyW] at * <;> omega
  refine ⟨trivial, trivial, ?_, ?_, ?_⟩
  · intro e he
    rw [elemAt_ofElems (by simpa [tyN] using he) (hN e he)]
    simp only [List.getElem_map, List.getElem_range]
    split
    · simp
    · simp [elemAt, bits_eq]
  · intro j hj
    simp only [BitVec.getLsbD_or, BitVec.getLsbD_and, BitVec.getLsbD_not, maskOf_bit _ hj, hj]
    split <;> rename_i h <;> simp [h]
  · intro b hb
    rw [orFlags_bit]
    simp only [List.map_map, List.any_map, tyN]
    congr 1; funext e
    simp only [Function.comp]
    split <;> rename_i h <;> simp [h]
    split <;> rename_i h <;> simp_all

end Sys2Proof.Claims
end

