-- ==== Sys2Proof/Laws/Seq.lean ====
section
/-! SUPPORT. What the shared operations of the sequencer words do: the turn, a register result, the values of the ALU. -/

namespace Sys2Proof.Claims

open Sys2Proof Sys2Proof.Machine

/-- A sequencer word whose registers are ready runs its body. -/
theorem onSeq_run {s : State} {l rep ls rs} (h : SeqTurn s l rep ls rs) (rs' : List (BitVec 5)) (hs : rs' ⊆ rs)
   (f) : onSeq s rs' f = .next (f l rep ls (seqOf ls rep)) := by
  have hb : rs'.any (xbusy (seqOf ls rep)) = false := by
    rw [List.any_eq_false]; intro r hr; simp [h.ready r (hs hr)]
  simp [onSeq, h.cur, h.lease, hb]

/-- A change of a lease changes that lease alone. -/
theorem onlyLease_upd {s l ls} (h : leaseOf s l = some ls) (f) : OnlyLease s (updLease s l f) l (f ls) :=
  ⟨leaseOf_updLease f h, fun _ hj => leaseOf_updLease_ne s f hj, rfl⟩

/-- A change of a sequencer changes that sequencer alone. -/
theorem onlySeq_upd {s l rep ls} (h : leaseOf s l = some ls) (f) : OnlySeq s (updSeq s l rep f) l rep ls (f (seqOf ls rep)) :=
  onlyLease_upd h _

/-- A register write writes that register alone, and X0 never. -/
theorem writes_xset (q : Seq) (xd v p) : Writes q (seqNext (xset q xd v p)) xd v p := by
  refine ⟨fun h => ⟨xget_xset_self q v p h, xpois_xset_self q v p h⟩, fun n hn => ⟨xget_xset_ne q v p hn, xpois_xset_ne q v p hn⟩, ?_⟩
  unfold SameBesides seqNext xset; split <;> rfl

/-- What a register result does. -/
theorem seqResult_aluDone {s l rep ls} (h : leaseOf s l = some ls) (xd v p) :
   SeqResult s (aluDone s l rep xd v p) l rep ls xd v p :=
  ⟨_, onlySeq_upd h _, writes_xset _ _ _ _, by simp, rfl⟩

/-- What a word of two sources does. -/
theorem alu2_gives {s l rep ls rs} (h : SeqTurn s l rep ls rs) {f xd xa xb} (hs : [xd,xa,xb] ⊆ rs) {v} (hv : f (xget (seqOf ls rep) xa) (xget (seqOf ls rep) xb) = v) :
  ∃ t, alu2 f xd xa xb s = .next t ∧ SeqResult s t l rep ls xd v (xpois (seqOf ls rep) xa || xpois (seqOf ls rep) xb) := by
  refine ⟨_, onSeq_run h _ hs _, ?_⟩
  subst hv; exact seqResult_aluDone h.lease _ _ _

/-- What a word of one source does. -/
theorem alu1_gives {s l rep ls rs} (h : SeqTurn s l rep ls rs) {f xd xa} (hs : [xd,xa] ⊆ rs) {v} (hv : f (xget (seqOf ls rep) xa) = v) :
  ∃ t, alu1 f xd xa s = .next t ∧ SeqResult s t l rep ls xd v (xpois (seqOf ls rep) xa) := by
  refine ⟨_, onSeq_run h _ hs _, ?_⟩
  subst hv; exact seqResult_aluDone h.lease _ _ _

/-- What a word with an immediate does. -/
theorem aluI_gives {s l rep ls rs} (h : SeqTurn s l rep ls rs) {f b xd xa} (hs : [xd,xa] ⊆ rs) {v} (hv : f (xget (seqOf ls rep) xa) b = v) :
  ∃ t, aluI f b xd xa s = .next t ∧ SeqResult s t l rep ls xd v (xpois (seqOf ls rep) xa) := by
  refine ⟨_, onSeq_run h _ hs _, ?_⟩
  subst hv; exact seqResult_aluDone h.lease _ _ _

/-- MUL (R258). -/
theorem vMul_eq (a b : Dword) : vMul a b = a * b := by simp [vMul, BitVec.ofNat_mul]

/-- MULH (R258). -/
theorem vMulh_eq (a b : Dword) : vMulh a b = (BitVec.ofInt 64 (a.toInt * b.toInt / 2 ^ 64)) := by
  simp only [vMulh, wrap, Sys2Proof.signed, Int.fdiv_eq_ediv_of_nonneg _ (show (0:Int) ≤ 2^64 by norm_num)]

/-- DIV (R258). -/
theorem vDiv_eq (a b : Dword) : vDiv a b = if b = 0 then -1 else BitVec.ofInt 64 (a.toInt.tdiv b.toInt) := by
  simp only [vDiv, divS, wrap, Sys2Proof.signed]; split <;> rfl

/-- DIVU (R258). -/
theorem vDivu_eq (a b : Dword) : vDivu a b = if b = 0 then -1 else a / b := by
  simp only [vDivu, divU]; split
  · rfl
  · apply BitVec.eq_of_toNat_eq; simp [BitVec.toNat_udiv]; exact lt_of_le_of_lt (Nat.div_le_self _ _) a.isLt

/-- REM (R258). -/
theorem vRem_eq (a b : Dword) : vRem a b = (if b = 0 then a else BitVec.ofInt 64 (a.toInt.tmod b.toInt)) := by
  simp only [vRem, divS, wrap, Sys2Proof.signed]; split
  · rename_i h; subst h; simp
  · congr 1; rw [Int.tmod_def, mul_comm]

/-- REMU (R258). -/
theorem vRemu_eq (a b : Dword) : vRemu a b = (if b = 0 then a else a % b) := by
  simp only [vRemu, divU, wrap]; split
  · rename_i h; subst h; simp
  · apply BitVec.eq_of_toNat_eq
    have : (a.toNat:Int) - (a.toNat / b.toNat : Nat) * b.toNat = ((a.toNat % b.toNat : Nat) : Int) := by
      push_cast; rw [Int.emod_def, mul_comm]
    rw [this, BitVec.ofInt_natCast]; simp [BitVec.toNat_umod]; exact lt_of_le_of_lt (Nat.mod_le _ _) a.isLt

/-- SHL (R258). -/
theorem vShl_eq (a b : Dword) : vShl a b = a <<< (b.toNat % 64) := by
  apply BitVec.eq_of_toNat_eq; simp [vShl, Nat.shiftLeft_eq]

/-- SHR (R258). -/
theorem vShr_eq (a b : Dword) : vShr a b = a >>> (b.toNat % 64) := by
  apply BitVec.eq_of_toNat_eq; simp [vShr, Nat.shiftRight_eq_div_pow]; exact lt_of_le_of_lt (Nat.div_le_self _ _) a.isLt

/-- SHA (R258). -/
theorem vSha_eq (a b : Dword) : vSha a b = a.sshiftRight (b.toNat % 64) := by
  simp only [vSha, wrap, Sys2Proof.signed, BitVec.sshiftRight, Int.shiftRight_eq_div_pow]; congr 1; push_cast; exact Int.fdiv_eq_ediv_of_nonneg _ (by positivity)

/-- SLT (R258). -/
theorem vSlt_eq (a b : Dword) : vSlt a b = if a.slt b then 1 else 0 := by simp [vSlt, Sys2Proof.signed, BitVec.slt]; congr

/-- SLTU (R258). -/
theorem vSltu_eq (a b : Dword) : vSltu a b = if a.ult b then 1 else 0 := by simp [vSltu, BitVec.ult]

end Sys2Proof.Claims
end

