-- ==== Sys2Proof/Laws/Units.lean ====
section
/-! SUPPORT. What the shared operations of the units do: events, requests, traps, faults, forced stops, messages. -/

namespace Sys2Proof.Machine

/-- An event changes the ring's counters and what leaves the device, and nothing else. -/
theorem pfEvent_frame (s : State) (c t l d b a1 a2 : Nat) :
    pfEvent s c t l d b a1 a2 =
      { s with
        evovf := (pfEvent s c t l d b a1 a2).evovf
        evput := (pfEvent s c t l d b a1 a2).evput
        out := (pfEvent s c t l d b a1 a2).out } := by
  unfold pfEvent
  dsimp only
  split <;> rfl

/-- With room in the ring an event is written and signalled. -/
theorem pfEvent_out {s : State} (h : s.evbase ≠ 0)
    (hr : (s.evput + 2 ^ 32 - s.evget) % 2 ^ 32 ≠ 2 ^ (s.evbase.toNat % 16 + 6)) (c t l d b a1 a2 : Nat) :
    Out.msix .pf 0 ∈ (pfEvent s c t l d b a1 a2).out := by
  unfold pfEvent
  dsimp only
  rw [if_neg (by simp only [Bool.or_eq_true, decide_eq_true_eq, beq_iff_eq, not_or]; exact ⟨h, hr⟩)]
  simp

/-- An event never takes back what has left the device. -/
theorem mem_pfEvent_out {s : State} {o : Out} (h : o ∈ s.out) (c t l d b a1 a2 : Nat) : o ∈ (pfEvent s c t l d b a1 a2).out := by
  unfold pfEvent
  dsimp only
  split
  · exact h
  · exact List.mem_append_left _ h

/-- A request is added under the next number. -/
@[simp] theorem addReq_snd (s : State) (r : Req) : (addReq s r).2 = s.nextId := rfl

/-- A change of the ordering state of an issuer changes the leases only. -/
theorem updOrd_frame (s : State) (i : Issuer) (f : OrdSt → OrdSt) : updOrd s i f = { s with leases := (updOrd s i f).leases } := by
  unfold updOrd
  split <;> rfl

/-- The request as it was added: the accesses that it must follow, its floor, and where and when it left. -/
theorem reqOf_addReq (s : State) (r : Req) : ∃ a f b w t, reqOf (addReq s r).1 s.nextId =
    some { r with after := a, floor := f, born := s.wall, bornFc := b, flush := w, left := t } := by
  have h : ∀ u i f, reqOf (updOrd u i f) s.nextId = reqOf u s.nextId := fun u i f => by rw [updOrd_frame]; rfl
  unfold addReq
  dsimp only
  rw [h]
  exact ⟨_, _, _, _, _, mfind_mput_self _ _ _⟩

/-- What adding a request changes: the requests, the next number, and the ordering state of its issuer. -/
theorem addReq_frame (s : State) (r : Req) : (addReq s r).1 =
    { s with reqs := (addReq s r).1.reqs, nextId := s.nextId + 1, leases := (addReq s r).1.leases } := by
  unfold addReq
  dsimp only
  rw [updOrd_frame]

/-- Other requests are as they were. -/
theorem reqOf_addReq_ne (s : State) (r : Req) {id : Nat} (h : id ≠ s.nextId) : reqOf (addReq s r).1 id = reqOf s id := by
  have h' : ∀ u i f, reqOf (updOrd u i f) id = reqOf u id := fun u i f => by rw [updOrd_frame]; rfl
  unfold addReq
  dsimp only
  rw [h']
  exact mfind_mput_ne _ _ h

/-- The trap, where a handler of the program region is set and none runs (R290). -/
theorem takeTrap_eq {s : State} {l : Nat} {rep : Bool} {ls : Lease} (hl : leaseOf s l = some ls) (ht : (seqOf ls rep).tvec ≠ 0)
    (hi : (seqOf ls rep).intrap = false) (hr : inRegion ls (seqOf ls rep).tvec = true) (epc : Nat) (r : FRec) :
    takeTrap s l rep epc r = updSeq s l rep fun q =>
      { q with
        epc := epc
        ecause := BitVec.ofNat 26 (r.code * 2 ^ 16 + r.source * 256 + r.cause)
        eaddr := BitVec.ofNat 64 r.faddr
        intrap := true
        saved := keepOp q
        op := .none
        pc := q.tvec } := by
  simp [takeTrap, hl, ht, hi, hr]

/-- The trap that no handler takes (R291). -/
theorem takeTrap_unhandled {s : State} {l : Nat} {rep : Bool} {ls : Lease} (hl : leaseOf s l = some ls)
    (h : (seqOf ls rep).tvec = 0 ∨ (seqOf ls rep).intrap = true ∨ inRegion ls (seqOf ls rep).tvec = false) (epc : Nat) (r : FRec) :
    takeTrap s l rep epc r = unhandled s l rep r.cause := by
  simp only [takeTrap, hl]
  rw [if_pos]
  rcases h with h | h | h <;> simp [h]

/-- A record of a primary tile, or of none, waits at its source (R384, R387). -/
theorem leaseOf_raise {s : State} {l : Nat} {ls : Lease} (hl : leaseOf s l = some ls) (r : FRec) (hr : ∀ t, r.tile = some t → t < replicaBase) :
    ∃ w, leaseOf (raise s l r) l = some { ls with recs := ls.recs ++ [{ r with time := w }] } := by
  have hc : leaseOf (countPoison s ls.tenant r.cause) l = some ls := by
    unfold countPoison
    split <;> exact hl
  unfold raise
  rw [hl]
  dsimp only
  rw [if_neg]
  · exact ⟨_, leaseOf_updLease _ hc⟩
  · cases ht : r.tile with
    | none => simp
    | some t => simpa using hr t ht

/-- A forced stop ends a lease that has not stopped (R392, R398). -/
theorem leaseOf_forceStop {s : State} {l : Nat} {ls : Lease} (hl : leaseOf s l = some ls) (h : ls.state ≠ .stop) (c : Nat) :
    leaseOf (forceStop s l c) l = some { ls with state := .stop, endc := c } := by
  rw [forceStop, leaseOf_updLease _ hl, if_neg h]

/-- A message joins those of its lease (R175). -/
theorem leaseOf_send {s : State} {l : Nat} {ls : Lease} (hl : leaseOf s l = some ls) (m : Msg) :
    leaseOf (send s l m) l = some { ls with msgs := ls.msgs ++ [m] } := leaseOf_updLease _ hl

/-- A step without turns begins the next fabric cycle. -/
theorem step_nil {s : State} (h : s.agenda = []) : step s = .next (refill s) := by simp [step, h]

/-- A step runs what fetching gives. -/
theorem step_cons {s : State} {t : Turn} {r : List Turn} (h : s.agenda = t :: r) :
    step s = match fetchTurn { s with agenda := r, cur := .none } t with
      | .run i u => exec i u
      | .audit d u => execCreditAuditWindow d u
      | .idle u => .next u := by
  unfold step
  rw [h]
  first | done | rfl

end Sys2Proof.Machine
end

