-- ==== Sys2Proof/Tests/Slice0.lean ====
section
/-! SUPPORT. Own tests: a term that each check of well-formedness refuses, a word of every encoded row written out from the
spec's encoding, single steps with results worked out by hand from the rules, and for every statement a state and operands that meet
its hypotheses. -/

namespace Sys2Proof

open Sys2Proof.Machine Sys2Proof.Claims

-- One theorem at a time: many kernel evaluations at once need more threads than the checker's memory limit allows.
set_option Elab.async false

/-! ### Well-formedness: one ill-formed term for each check -/

/-- R219 to R227, R256, R257: sequencer words. -/
theorem test_wf_sequencer :
    ∀ i ∈ [Instr.srd 1 0x005, .srd 1 0x040, .srd 1 0x0A0, .swr 1 0x105, .fence 0 .lease, .ld 1 2 .d true false 0, .srel 0, .txc 1 0 false,
      .txa 0, .txs 1 0, .ecopy 1 2 3 false 0, .egath 1 2 3 false 1, .ecoll 1 2 3 false 2], i.wf = false := by decide

/-- R302: integer and BFP types of the vector words. -/
theorem test_wf_integer :
    ∀ i ∈ [Instr.vadd .f32 (.v 0) .zero .zero none false, .vsub .bf16 (.v 0) .zero .zero none false,
      .vmul .f16 (.v 0) .zero .zero none false, .vmin .f32 (.v 0) .zero .zero none, .vmax .f32 (.v 0) .zero .zero none,
      .vneg .f16 (.v 0) .zero none, .vshl .f32 (.v 0) .zero .zero none, .vshr .bf16 (.v 0) .zero .zero none,
      .vsha .f16 (.v 0) .zero .zero none, .vmulh .i64 (.v 0) .zero .zero none, .vmac .i64 0 .zero .zero none,
      .vpopc .i64 (.v 0) .zero none, .vclz .f32 (.v 0) .zero none, .vabs .u32 (.v 0) .zero none,
      .vcmp .i32 (.v 0) .zero .zero none .un, .vcmp .f32 (.v 0) .zero .zero none .eq, .vli .i8 (.v 0) 256], i.wf = false := by decide

/-- R303, R309 to R314: floating-point types, block widths, reductions, lanes and the register pair of NTTB. -/
theorem test_wf_float :
    ∀ i ∈ [Instr.fadd .i32 (.v 0) .zero .zero none, .fsub .i16 (.v 0) .zero .zero none, .fmul .i8 (.v 0) .zero .zero none,
      .ffma .i64 0 .zero .zero none, .ffms .u32 0 .zero .zero none, .fmin .i32 (.v 0) .zero .zero none,
      .fmax .i32 (.v 0) .zero .zero none, .fabs .i32 (.v 0) .zero none, .fneg .i32 (.v 0) .zero none,
      .fdiv .i32 (.v 0) .zero .zero none, .fsqrt .i32 (.v 0) .zero none, .frsq .i32 (.v 0) .zero none,
      .fex2 .i32 (.v 0) .zero none, .flg2 .i32 (.v 0) .zero none, .fcmp .i32 (.v 0) .zero .zero none .eq,
      .fcls .i32 (.v 0) .zero none, .scl .i32 (.v 0) .zero .zero none, .bfpk (.v 0) .zero 1 none, .bfup (.v 0) .zero 9 none,
      .rsum .i16 (.v 0) .zero none, .rmax .i8 (.v 0) .zero none, .rmin .i64 (.v 0) .zero none, .bcst .i32 (.v 0) .zero 24 none,
      .nttb 15 .zero .zero none], i.wf = false := by decide

/-- R232, R317, R328: counts, slots and control registers. -/
theorem test_wf_control :
    ∀ i ∈ [Instr.waitf 0 0, .waite 0 33, .adv 7 0, .pub 3 33, .peek (.v 0) 0 32, .rdct (.v 0) 0x00A, .ctrw .zero 0x000],
      i.wf = false := by decide

/-- R234, R237, R331: memory words, extension words, matrix words and switch words. -/
theorem test_wf_memory :
    ∀ i ∈ [Instr.gen .i32 (.v 0) 10 none, .gen .i32 (.v 0) 0 (some ⟨true, 0, 0, .tile, 0, 16⟩), .gath .bf16 (.v 0) .zero .zero (some 4) none,
      .gath .i32 (.v 0) .zero .zero none (some ⟨true, 0, 0, .tile, 0, 29⟩), .ldm .i32 (.v 0) .zero (some 9) none,
      .ldm .i32 (.v 0) .zero none (some ⟨true, 0, 0, .tile, 0, 16⟩), .scat 0 .zero .zero (some 1) none,
      .scat 0 .zero .zero none (some ⟨true, 0, 0, .tile, 0, 16⟩), .stm 0 .zero (some 1) none,
      .stm 0 .zero none (some ⟨true, 0, 0, .tile, 0, 16⟩), .ordStep ⟨false, 0, 0, .tile, 0, 0⟩,
      .ordStep ⟨true, 0, 1, .tile, 0, 0⟩, .ordStep ⟨true, 0, 0, .tile, 1, 0⟩, .ordStep ⟨true, 0, 0, .tile, 0, 16⟩,
      .ordFence 0 ⟨false, 0, 0, .tile, 0, 0⟩, .ordFence 1 ⟨true, 0, 0, .tile, 0, 0⟩, .ordFence 1 ⟨false, 0, 1, .tile, 0, 0⟩,
      .ordFence 1 ⟨false, 0, 0, .tile, 1, 0⟩] ++
      [Instr.ldt .i32 (.v 0) .zero false (some ⟨true, 0, 0, .tile, 0, 16⟩), .stt 0 .zero false (some ⟨true, 0, 0, .tile, 0, 16⟩),
      .aadd .i16 .zero .zero false none, .aadd .i32 .zero .zero false (some ⟨true, 0, 0, .tile, 0, 16⟩),
      .afad .bf16 (.v 0) .zero .zero false none, .amin .f32 .zero .zero false none, .amax .f32 .zero .zero false none,
      .aand .i8 .zero .zero false none, .aor .i8 .zero .zero false none, .axor .i8 .zero .zero false none,
      .axch .f32 (.v 0) .zero .zero false none, .acas .f32 0 .zero .zero false none,
      .syna .zero .zero false false (some ⟨true, 0, 0, .tile, 0, 16⟩), .synw (.v 0) .zero .zero false (some ⟨true, 0, 0, .tile, 0, 16⟩),
      .mma .zero .zero 1 0, .mmai .zero .zero 9 0, .acrd .u32 (.v 0) 0 0] ++
      [Instr.route 16 0 0, .route 0 24 0, .route 0 0 0, .fork 0 1 1, .merge 30 1 0], i.wf = false := by decide

/-- Numbers that the panel does not have in steps without an encoding. -/
theorem test_wf_numbers :
    ∀ i ∈ [Instr.invctlGo 256 0, .invalidationComplete 256, .poolWrite 256 0, .poollvlTailWrite 256 0, .pctlClr 256 true,
      .qownWrite 4096 0, .qswInWrite 4096 true, .queueSwitchInComplete 4096, .queueTailWrite 256 0 0, .qctlEnWrite 0 256 true,
      .errclr 256 0, .select 4096, .leaseEnd 4096, .retrysave 4096, .couplerLinkChange 16 true 0 0,
      .peerRequest 16 0 0 (.read 1), .peerPanelReset 16, .couplerStreamToken 16 0 0 0 0 0 0, .versionReclaim 160], i.wf = false := by decide

/-- Terms that the checks let through, at the limits of their ranges. -/
theorem test_wf_accepts :
    ∀ i ∈ [Instr.srd 1 0x09F, .srd 1 0x104, .vli .i8 (.v 0) 255, .bcst .i32 (.v 0) .zero 23 none, .waitf 0 32, .gen .i32 (.v 0) 9 none,
      .nttb 14 .zero .zero none, .ordStep ⟨true, 15, 0, .sys, 0, 28⟩, .route 27 15 0, .mma .zero .zero 8 3], i.wf = true := by decide

/-! ### Encodings: one word of every encoded row -/

theorem test_decode_sequencer_1 : decodeSeq 0x00000000 = .ok (.nop) ∧
    decodeSeq 0x00000001 = .ok (.halt) ∧
    decodeSeq 0x0000AD42 = .ok (.trap 693) ∧
    decodeSeq 0x00000003 = .ok (.eret) ∧
    decodeSeq 0x026008C4 = .ok (.srd 19 35) ∧
    decodeSeq 0x000708C5 = .ok (.swr 7 35) ∧
    decodeSeq 0x00000E86 = .ok (.fence 10 .panel) ∧
    decodeSeq 0x02670007 = .ok (.ptest 19 7) ∧
    decodeSeq 0x02670008 = .ok (.pclr 19 7) ∧
    decodeSeq 0x00000009 = .ok (.yieldTurn) ∧
    decodeSeq 0x0667E000 = .ok (.add 19 7 28) ∧
    decodeSeq 0x0667E001 = .ok (.sub 19 7 28) ∧
    decodeSeq 0x0667E002 = .ok (.mul 19 7 28) ∧
    decodeSeq 0x0667E003 = .ok (.mulh 19 7 28) ∧
    decodeSeq 0x0667E004 = .ok (.mulhu 19 7 28) ∧
    decodeSeq 0x0667E005 = .ok (.div 19 7 28) ∧
    decodeSeq 0x0667E006 = .ok (.divu 19 7 28) ∧
    decodeSeq 0x0667E007 = .ok (.rem 19 7 28) ∧
    decodeSeq 0x0667E008 = .ok (.remu 19 7 28) ∧
    decodeSeq 0x0667E009 = .ok (.and 19 7 28) ∧
    decodeSeq 0x0667E00A = .ok (.or 19 7 28) ∧
    decodeSeq 0x0667E00B = .ok (.xor 19 7 28) ∧
    decodeSeq 0x0667E00C = .ok (.shl 19 7 28) ∧
    decodeSeq 0x0667E00D = .ok (.shr 19 7 28) ∧
    decodeSeq 0x0667E00E = .ok (.sha 19 7 28) ∧
    decodeSeq 0x0667E00F = .ok (.slt 19 7 28) := by decide

theorem test_decode_sequencer_2 : decodeSeq 0x0667E010 = .ok (.sltu 19 7 28) ∧
    decodeSeq 0x0667E011 = .ok (.min 19 7 28) ∧
    decodeSeq 0x0667E012 = .ok (.max 19 7 28) ∧
    decodeSeq 0x0667E013 = .ok (.minu 19 7 28) ∧
    decodeSeq 0x0667E014 = .ok (.maxu 19 7 28) ∧
    decodeSeq 0x06670015 = .ok (.clz 19 7) ∧
    decodeSeq 0x06670016 = .ok (.popc 19 7) ∧
    decodeSeq 0x0A678F31 = .ok (.addi 19 7 36657) ∧
    decodeSeq 0x0E678F31 = .ok (.andi 19 7 36657) ∧
    decodeSeq 0x12678F31 = .ok (.ori 19 7 36657) ∧
    decodeSeq 0x16678F31 = .ok (.xori 19 7 36657) ∧
    decodeSeq 0x1A670029 = .ok (.shli 19 7 41) ∧
    decodeSeq 0x1E670029 = .ok (.shri 19 7 41) ∧
    decodeSeq 0x22670029 = .ok (.shai 19 7 41) ∧
    decodeSeq 0x26678F31 = .ok (.slti 19 7 36657) ∧
    decodeSeq 0x2A678F31 = .ok (.sltiu 19 7 36657) ∧
    decodeSeq 0x2E608F31 = .ok (.lih 19 36657) ∧
    decodeSeq 0x32628F31 = .ok (.lik 19 2 36657) ∧
    decodeSeq 0x40FCCDEF = .ok (.beq 7 28 52719) ∧
    decodeSeq 0x44FCCDEF = .ok (.bne 7 28 52719) ∧
    decodeSeq 0x48FCCDEF = .ok (.blt 7 28 52719) ∧
    decodeSeq 0x4CFCCDEF = .ok (.bge 7 28 52719) ∧
    decodeSeq 0x50FCCDEF = .ok (.bltu 7 28 52719) ∧
    decodeSeq 0x54FCCDEF = .ok (.bgeu 7 28 52719) ∧
    decodeSeq 0x59ABCDEF = .ok (.jmp 28036591) ∧
    decodeSeq 0x5DABCDEF = .ok (.jal 28036591) := by decide

theorem test_decode_sequencer_3 : decodeSeq 0x62678F31 = .ok (.jalr 19 7 36657) ∧
    decodeSeq 0x82677DEF = .ok (.ld 19 7 .h true true 3567) ∧
    decodeSeq 0x86675DEF = .ok (.st 19 7 .h true 3567) ∧
    decodeSeq 0x8A67E1B0 = .ok (.amoAdd 19 7 28 .d .panel) ∧
    decodeSeq 0x8A67E1B1 = .ok (.amoAnd 19 7 28 .d .panel) ∧
    decodeSeq 0x8A67E1B2 = .ok (.amoOr 19 7 28 .d .panel) ∧
    decodeSeq 0x8A67E1B3 = .ok (.amoXor 19 7 28 .d .panel) ∧
    decodeSeq 0x8A67E1B4 = .ok (.amoMin 19 7 28 .d .panel) ∧
    decodeSeq 0x8A67E1B5 = .ok (.amoMax 19 7 28 .d .panel) ∧
    decodeSeq 0x8A67E1B6 = .ok (.amoMinu 19 7 28 .d .panel) ∧
    decodeSeq 0x8A67E1B7 = .ok (.amoMaxu 19 7 28 .d .panel) ∧
    decodeSeq 0x8A67E1B8 = .ok (.amoXchg 19 7 28 .d .panel) ∧
    decodeSeq 0x8A67E1B9 = .ok (.amoCas 19 7 28 .d .panel) ∧
    decodeSeq 0xA2600000 = .ok (.snap 19) ∧
    decodeSeq 0xA0000501 = .ok (.srel 5) ∧
    decodeSeq 0xA2600002 = .ok (.txb 19) ∧
    decodeSeq 0xA2600543 = .ok (.txc 19 5 true) ∧
    decodeSeq 0xA0000504 = .ok (.txa 5) ∧
    decodeSeq 0xA2600505 = .ok (.txs 19 5) ∧
    decodeSeq 0xA26001C6 = .ok (.publ 19 1 true true) ∧
    decodeSeq 0xC267E000 = .ok (.cfg 19 7 28) ∧
    decodeSeq 0xC0070041 = .ok (.cswap 7 true) ∧
    decodeSeq 0xC0000002 = .ok (.go) ∧
    decodeSeq 0xC2600003 = .ok (.waitd 19) ∧
    decodeSeq 0xC2670004 = .ok (.drain 19 7) ∧
    decodeSeq 0xC007E005 = .ok (.strm 7 28) := by decide

theorem test_decode_sequencer_4 : decodeSeq 0xC007E006 = .ok (.grpw 7 28) ∧
    decodeSeq 0xD267E005 = .ok (.ecopy 19 7 28 true 1) ∧
    decodeSeq 0xD667E005 = .ok (.egath 19 7 28 true 1) ∧
    decodeSeq 0xDA67E005 = .ok (.ecoll 19 7 28 true 1) ∧
    decodeSeq 0xDE67E000 = .ok (.ewait 19 7 28) ∧
    decodeSeq 0xE2670000 = .ok (.launch 19 7) ∧
    decodeSeq 0xE2670001 = .ok (.launchr 19 7) ∧
    decodeSeq 0xE6670000 = .ok (.join 19 7) := by decide

theorem test_decode_operation_1 : decodeOp 0x00000000 none = .ok (.elementNop) ∧
    decodeOp 0x01DAAF31 none = .ok (.vadd .i64 (.o 2) (.i 5) .k (some 2) true) ∧
    decodeOp 0x02DAAF31 none = .ok (.vsub .i64 (.o 2) (.i 5) .k (some 2) true) ∧
    decodeOp 0x03DAAF31 none = .ok (.vmul .i64 (.o 2) (.i 5) .k (some 2) true) ∧
    decodeOp 0x049AAF30 none = .ok (.vmulh .i16 (.o 2) (.i 5) .k (some 2)) ∧
    decodeOp 0x058DAF30 none = .ok (.vmac .i16 13 (.i 5) .k (some 2)) ∧
    decodeOp 0x06DAAF30 none = .ok (.vmin .i64 (.o 2) (.i 5) .k (some 2)) ∧
    decodeOp 0x07DAAF30 none = .ok (.vmax .i64 (.o 2) (.i 5) .k (some 2)) ∧
    decodeOp 0x089AA830 none = .ok (.vabs .i16 (.o 2) (.i 5) (some 2)) ∧
    decodeOp 0x09DAA830 none = .ok (.vneg .i64 (.o 2) (.i 5) (some 2)) ∧
    decodeOp 0x0A5AAF30 none = .ok (.vand .bf16 (.o 2) (.i 5) .k (some 2)) ∧
    decodeOp 0x0B5AAF30 none = .ok (.vor .bf16 (.o 2) (.i 5) .k (some 2)) ∧
    decodeOp 0x0C5AAF30 none = .ok (.vxor .bf16 (.o 2) (.i 5) .k (some 2)) ∧
    decodeOp 0x0D5AA830 none = .ok (.vnot .bf16 (.o 2) (.i 5) (some 2)) ∧
    decodeOp 0x0EDAAF30 none = .ok (.vshl .i64 (.o 2) (.i 5) .k (some 2)) ∧
    decodeOp 0x0FDAAF30 none = .ok (.vshr .i64 (.o 2) (.i 5) .k (some 2)) ∧
    decodeOp 0x10DAAF30 none = .ok (.vsha .i64 (.o 2) (.i 5) .k (some 2)) ∧
    decodeOp 0x119AA830 none = .ok (.vpopc .i16 (.o 2) (.i 5) (some 2)) ∧
    decodeOp 0x129AA830 none = .ok (.vclz .i16 (.o 2) (.i 5) (some 2)) := by decide

theorem test_decode_operation_2 : decodeOp 0x13DAAF35 none = .ok (.vcmp .i64 (.o 2) (.i 5) .k (some 2) .ge) ∧
    decodeOp 0x144DAF30 none = .ok (.vsel .bf16 13 (.i 5) .k (some 2)) ∧
    decodeOp 0x151AA830 none = .ok (.vmov (.o 2) (.i 5) (some 2)) ∧
    decodeOp 0x165AC35A none = .ok (.vli .bf16 (.o 2) 50010) ∧
    decodeOp 0x173AAF30 none = .ok (.fadd .f32 (.o 2) (.i 5) .k (some 2)) ∧
    decodeOp 0x183AAF30 none = .ok (.fsub .f32 (.o 2) (.i 5) .k (some 2)) ∧
    decodeOp 0x193AAF30 none = .ok (.fmul .f32 (.o 2) (.i 5) .k (some 2)) ∧
    decodeOp 0x1A2DAF30 none = .ok (.ffma .f32 13 (.i 5) .k (some 2)) ∧
    decodeOp 0x1B2DAF30 none = .ok (.ffms .f32 13 (.i 5) .k (some 2)) ∧
    decodeOp 0x1C3AAF30 none = .ok (.fmin .f32 (.o 2) (.i 5) .k (some 2)) ∧
    decodeOp 0x1D3AAF30 none = .ok (.fmax .f32 (.o 2) (.i 5) .k (some 2)) ∧
    decodeOp 0x1E3AA830 none = .ok (.fabs .f32 (.o 2) (.i 5) (some 2)) ∧
    decodeOp 0x1F3AA830 none = .ok (.fneg .f32 (.o 2) (.i 5) (some 2)) ∧
    decodeOp 0x203AAF30 none = .ok (.fdiv .f32 (.o 2) (.i 5) .k (some 2)) ∧
    decodeOp 0x213AA830 none = .ok (.fsqrt .f32 (.o 2) (.i 5) (some 2)) ∧
    decodeOp 0x223AA830 none = .ok (.frsq .f32 (.o 2) (.i 5) (some 2)) ∧
    decodeOp 0x233AA830 none = .ok (.fex2 .f32 (.o 2) (.i 5) (some 2)) ∧
    decodeOp 0x243AA830 none = .ok (.flg2 .f32 (.o 2) (.i 5) (some 2)) ∧
    decodeOp 0x253AAF35 none = .ok (.fcmp .f32 (.o 2) (.i 5) .k (some 2) .ge) := by decide

theorem test_decode_operation_3 : decodeOp 0x263AA830 none = .ok (.fcls .f32 (.o 2) (.i 5) (some 2)) ∧
    decodeOp 0x273AA934 none = .ok (.cvt .e5m2 .i16 (.o 2) (.i 5) (some 2)) ∧
    decodeOp 0x283AAF30 none = .ok (.scl .f32 (.o 2) (.i 5) .k (some 2)) ∧
    decodeOp 0x293AA970 none = .ok (.bfpk (.o 2) (.i 5) 5 (some 2)) ∧
    decodeOp 0x2A3AA970 none = .ok (.bfup (.o 2) (.i 5) 5 (some 2)) ∧
    decodeOp 0x2B7AA830 none = .ok (.rsum .f16 (.o 2) (.i 5) (some 2)) ∧
    decodeOp 0x2C7AA830 none = .ok (.rmax .f16 (.o 2) (.i 5) (some 2)) ∧
    decodeOp 0x2D7AA830 none = .ok (.rmin .f16 (.o 2) (.i 5) (some 2)) ∧
    decodeOp 0x2E5AAF30 none = .ok (.perm .bf16 (.o 2) (.i 5) .k (some 2)) ∧
    decodeOp 0x2F5AAF30 none = .ok (.bperm .bf16 (.o 2) (.i 5) .k (some 2)) ∧
    decodeOp 0x305AAF30 none = .ok (.lshf .bf16 (.o 2) (.i 5) .k (some 2)) ∧
    decodeOp 0x315AAC70 none = .ok (.bcst .bf16 (.o 2) (.i 5) 17 (some 2)) ∧
    decodeOp 0x325AAF30 none = .ok (.shuf .bf16 (.o 2) (.i 5) .k (some 2)) ∧
    decodeOp 0x33DAAF30 none = .ok (.mmul (.o 2) (.i 5) .k (some 2)) ∧
    decodeOp 0x34DAAF30 none = .ok (.madd (.o 2) (.i 5) .k (some 2)) ∧
    decodeOp 0x35DAAF30 none = .ok (.msub (.o 2) (.i 5) .k (some 2)) ∧
    decodeOp 0x36CDAF30 none = .ok (.nttb 13 (.i 5) .k (some 2)) ∧
    decodeOp 0x375AA830 none = .ok (.ptst .bf16 (.o 2) (.i 5) (some 2)) ∧
    decodeOp 0x385AA830 none = .ok (.elementPclr .bf16 (.o 2) (.i 5) (some 2)) := by decide

theorem test_decode_operation_4 : decodeOp 0x395AAF30 none = .ok (.pfil .bf16 (.o 2) (.i 5) .k (some 2)) ∧
    decodeOp 0x3A5AAF30 none = .ok (.pset .bf16 (.o 2) (.i 5) .k (some 2)) ∧
    decodeOp 0x40000000 none = .ok (.exit) ∧
    decodeOp 0x4100B01D none = .ok (.waitf 6 29) ∧
    decodeOp 0x4200D81D none = .ok (.waite 3 29) ∧
    decodeOp 0x4300B01D none = .ok (.adv 6 29) ∧
    decodeOp 0x4400D81D none = .ok (.pub 3 29) ∧
    decodeOp 0x451AB005 none = .ok (.peek (.o 2) 6 5) ∧
    decodeOp 0x4600DA40 none = .ok (.emit 3 (.v 9)) ∧
    decodeOp 0x4700C800 none = .ok (.eos (some 1)) ∧
    decodeOp 0x480005A3 none = .ok (.br 1443) ∧
    decodeOp 0x49004DA3 none = .ok (.bz (.v 9) 1443) ∧
    decodeOp 0x4A004DA3 none = .ok (.bnz (.v 9) 1443) ∧
    decodeOp 0x4B0D05A3 none = .ok (.loop 13 1443) ∧
    decodeOp 0x4C0000B6 none = .ok (.gbar 182) ∧
    decodeOp 0x4D0000C7 none = .ok (.elementTrap 199) ∧
    decodeOp 0x4E1A0025 none = .ok (.rdct (.o 2) 37) ∧
    decodeOp 0x4F00A831 none = .ok (.ctrw (.i 5) 49) ∧
    decodeOp 0x8000A800 none = .ok (.tdl (.i 5)) := by decide

theorem test_decode_operation_5 : decodeOp 0x815A0029 (some 0xF3CAC000) = .ok (.gen .bf16 (.o 2) 9 (some ⟨true, 9, 3, .sys, 5, 12⟩)) ∧
    decodeOp 0x821AAF38 (some 0xF3CAC000) = .ok (.gath .i32 (.o 2) (.i 5) .k (some 5) (some ⟨true, 9, 3, .sys, 5, 12⟩)) ∧
    decodeOp 0x830DAF38 (some 0xF3CAC000) = .ok (.scat 13 (.i 5) .k (some 5) (some ⟨true, 9, 3, .sys, 5, 12⟩)) ∧
    decodeOp 0x841AA838 (some 0xF3CAC000) = .ok (.ldm .i32 (.o 2) (.i 5) (some 5) (some ⟨true, 9, 3, .sys, 5, 12⟩)) ∧
    decodeOp 0x850DA838 (some 0xF3CAC000) = .ok (.stm 13 (.i 5) (some 5) (some ⟨true, 9, 3, .sys, 5, 12⟩)) ∧
    decodeOp 0x8600A800 none = .ok (.pref (.i 5)) ∧
    decodeOp 0x87000020 (some 0xF240C000) = .ok (.ordStep ⟨true, 9, 0, .sys, 0, 12⟩) ∧
    decodeOp 0x87000036 (some 0xD240C000) = .ok (.ordFence 6 ⟨false, 9, 0, .sys, 0, 12⟩) ∧
    decodeOp 0x905AA830 (some 0xF3CAC000) = .ok (.ldt .bf16 (.o 2) (.i 5) true (some ⟨true, 9, 3, .sys, 5, 12⟩)) ∧
    decodeOp 0x910DA830 (some 0xF3CAC000) = .ok (.stt 13 (.i 5) true (some ⟨true, 9, 3, .sys, 5, 12⟩)) ∧
    decodeOp 0x9200AF30 (some 0xF3CAC000) = .ok (.aadd .i32 (.i 5) .k true (some ⟨true, 9, 3, .sys, 5, 12⟩)) ∧
    decodeOp 0x931AAF30 (some 0xF3CAC000) = .ok (.afad .i32 (.o 2) (.i 5) .k true (some ⟨true, 9, 3, .sys, 5, 12⟩)) ∧
    decodeOp 0x9400AF30 (some 0xF3CAC000) = .ok (.amin .i32 (.i 5) .k true (some ⟨true, 9, 3, .sys, 5, 12⟩)) ∧
    decodeOp 0x9500AF30 (some 0xF3CAC000) = .ok (.amax .i32 (.i 5) .k true (some ⟨true, 9, 3, .sys, 5, 12⟩)) ∧
    decodeOp 0x9600AF30 (some 0xF3CAC000) = .ok (.aand .i32 (.i 5) .k true (some ⟨true, 9, 3, .sys, 5, 12⟩)) ∧
    decodeOp 0x9700AF30 (some 0xF3CAC000) = .ok (.aor .i32 (.i 5) .k true (some ⟨true, 9, 3, .sys, 5, 12⟩)) ∧
    decodeOp 0x9800AF30 (some 0xF3CAC000) = .ok (.axor .i32 (.i 5) .k true (some ⟨true, 9, 3, .sys, 5, 12⟩)) ∧
    decodeOp 0x991AAF30 (some 0xF3CAC000) = .ok (.axch .i32 (.o 2) (.i 5) .k true (some ⟨true, 9, 3, .sys, 5, 12⟩)) ∧
    decodeOp 0x9A0DAF30 (some 0xF3CAC000) = .ok (.acas .i32 13 (.i 5) .k true (some ⟨true, 9, 3, .sys, 5, 12⟩)) := by decide

theorem test_decode_operation_6 : decodeOp 0x9B00AF38 (some 0xF3CAC000) = .ok (.syna (.i 5) .k true true (some ⟨true, 9, 3, .sys, 5, 12⟩)) ∧
    decodeOp 0x9C1AAF30 (some 0xF3CAC000) = .ok (.synw (.o 2) (.i 5) .k true (some ⟨true, 9, 3, .sys, 5, 12⟩)) ∧
    decodeOp 0xA000AF00 none = .ok (.wld (.i 5) .k) ∧
    decodeOp 0xA1000000 none = .ok (.wswp) ∧
    decodeOp 0xA200AF12 none = .ok (.mma (.i 5) .k 5 2) ∧
    decodeOp 0xA300AF12 none = .ok (.mmai (.i 5) .k 5 2) ∧
    decodeOp 0xA43A0142 none = .ok (.acrd .f32 (.o 2) 5 2) ∧
    decodeOp 0xA5000002 none = .ok (.accl 2) := by decide

theorem test_decode_switch : decodeSw 0x391C = .ok (.route 25 3 2) ∧
    decodeSw 0x4592 = .ok (.fork 5 18 1) ∧
    decodeSw 0x6970 = .ok (.merge 9 14 0) ∧
    decodeSw 0x0000 = .ok (.switchNop) ∧
    decodeSw 0x8BA5 = .ok (.cut 11 165) ∧
    decodeSw 0xA600 = .ok (.hold 6) ∧
    decodeSw 0xCDC8 = .ok (.dly 13 200) ∧
    decodeSw 0xF400 = .ok (.fwl 10) := by decide
/-! ### Single steps of the sequencer -/

/-- The registers of a sequencer, by number. -/
def tRegs (l : List (Nat × Nat)) : Seq := { Seq.zero with x := l.map fun e => (e.1, BitVec.ofNat 64 e.2), pc := 64 }

/-- A lease with that sequencer; its program lies at addresses 0 to 1023. -/
def tLease (q : Seq) : Lease := { freshLease { Img.blank with seqlen := 1024 } Rec.blank with seq := q }

/-- The panel with a lease 0 whose sequencer has its turn. -/
def tSeq (q : Seq) : State := { State.reset with cur := .seq 0 false, leases := [(0, tLease q)] }

/-- A value of the state after a step. -/
def tAfter {α : Type} (i : Instr) (s : State) (f : State → Option α) : Option α :=
  match exec i s with
  | .next t => f t
  | .fault _ => none
  | .refused _ => none

/-- Register `r` after the word, with its poison. -/
def tReg (i : Instr) (q : Seq) (r : BitVec 5) : Option (Nat × Bool) :=
  tAfter i (tSeq q) fun t => (leaseOf t 0).map fun ls => ((xget ls.seq r).toNat, xpois ls.seq r)

/-- The PC after the word. -/
def tPc (i : Instr) (q : Seq) : Option Nat := tAfter i (tSeq q) fun t => (leaseOf t 0).map fun ls => ls.seq.pc

/-- The latest record and what became of its sequencer after the word: cause, EADDR, EPC, INTRAP, PC. -/
def tTrap (i : Instr) (q : Seq) : Option (Nat × Nat × Nat × Bool × Nat) :=
  tAfter i (tSeq q) fun t => (leaseOf t 0).map fun ls =>
    ((ls.seq.ecause.toNat), ls.seq.eaddr.toNat, ls.seq.epc, ls.seq.intrap, ls.seq.pc)

/-- R258: sums wrap mod 2^64. -/
theorem test_add_wraps : tReg (.add 1 2 3) (tRegs [(2, 2 ^ 64 - 1), (3, 2)]) 1 = some (1, false) := by decide +kernel
/-- R253: a write to X0 is discarded, and the PC moves on. -/
theorem test_add_x0 : tReg (.add 0 2 3) (tRegs [(2, 5), (3, 6)]) 0 = some (0, false) ∧
    tPc (.add 0 2 3) (tRegs [(2, 5), (3, 6)]) = some 68 := by decide +kernel
/-- R146: poison of a source reaches the result. -/
theorem test_sub_poison : tReg (.sub 2 2 3) { tRegs [(2, 5), (3, 7)] with xp := [3] } 2 = some (2 ^ 64 - 2, true) := by decide +kernel
/-- R258: the high halves, signed and unsigned. -/
theorem test_mulh_sign : tReg (.mulh 1 2 3) (tRegs [(2, 2 ^ 64 - 1), (3, 2 ^ 64 - 1)]) 1 = some (0, false) ∧
    tReg (.mulhu 1 2 3) (tRegs [(2, 2 ^ 64 - 1), (3, 2 ^ 64 - 1)]) 1 = some (2 ^ 64 - 2, false) := by decide +kernel
/-- R258: division by zero gives all ones; the most negative number by -1 gives itself. -/
theorem test_div_corners : tReg (.div 1 2 3) (tRegs [(2, 7)]) 1 = some (2 ^ 64 - 1, false) ∧
    tReg (.div 1 2 3) (tRegs [(2, 2 ^ 63), (3, 2 ^ 64 - 1)]) 1 = some (2 ^ 63, false) := by decide +kernel
/-- R258: the remainder has the sign of the dividend; by zero it is the dividend. -/
theorem test_rem_corners : tReg (.rem 1 2 3) (tRegs [(2, 2 ^ 64 - 7), (3, 2)]) 1 = some (2 ^ 64 - 1, false) ∧
    tReg (.remu 1 2 3) (tRegs [(2, 7)]) 1 = some (7, false) := by decide +kernel
/-- R258: a shift takes the low six bits of its count. -/
theorem test_shift_count : tReg (.shl 1 2 3) (tRegs [(2, 3), (3, 65)]) 1 = some (6, false) ∧
    tReg (.sha 1 2 3) (tRegs [(2, 2 ^ 63), (3, 63)]) 1 = some (2 ^ 64 - 1, false) := by decide +kernel
/-- R258: signed and unsigned order differ. -/
theorem test_slt_sign : tReg (.slt 1 2 3) (tRegs [(2, 2 ^ 64 - 1)]) 1 = some (1, false) ∧
    tReg (.sltu 1 2 3) (tRegs [(2, 2 ^ 64 - 1)]) 1 = some (0, false) ∧
    tReg (.min 1 2 3) (tRegs [(2, 2 ^ 64 - 1), (3, 4)]) 1 = some (2 ^ 64 - 1, false) ∧
    tReg (.minu 1 2 3) (tRegs [(2, 2 ^ 64 - 1), (3, 4)]) 1 = some (4, false) := by decide +kernel
/-- R258: 64 leading zeros in zero; the one bits of a number. -/
theorem test_clz_popc : tReg (.clz 1 2) (tRegs []) 1 = some (64, false) ∧ tReg (.clz 1 2) (tRegs [(2, 1)]) 1 = some (63, false) ∧
    tReg (.popc 1 2) (tRegs [(2, 0xF0F)]) 1 = some (8, false) := by decide +kernel
/-- R259: ADDI and SLTIU extend the sign, ANDI does not. -/
theorem test_immediates : tReg (.addi 1 2 0xFFFF) (tRegs [(2, 5)]) 1 = some (4, false) ∧
    tReg (.andi 1 2 0xFFFF) (tRegs [(2, 2 ^ 64 - 1)]) 1 = some (0xFFFF, false) ∧
    tReg (.sltiu 1 2 0xFFFF) (tRegs [(2, 5)]) 1 = some (1, false) := by decide +kernel
/-- R259: LIH extends the sign of its immediate above bit 31; LIK keeps the rest and the poison. -/
theorem test_lih_lik : tReg (.lih 1 0x8000) { tRegs [(1, 9)] with xp := [1] } 1 = some (0xFFFFFFFF80000000, false) ∧
    tReg (.lik 1 3 0x1234) { tRegs [(1, 0x1111222233334444)] with xp := [1] } 1 = some (0x1234222233334444, true) := by decide +kernel
/-- R260: a taken branch goes 4 · offset from its own address, one not taken goes on. -/
theorem test_branch : tPc (.blt 1 2 (BitVec.ofInt 16 (-2))) (tRegs [(1, 2 ^ 64 - 1)]) = some 56 ∧
    tPc (.bltu 1 2 (BitVec.ofInt 16 (-2))) (tRegs [(1, 2 ^ 64 - 1)]) = some 68 := by decide +kernel
/-- R261: JAL links X31; JALR takes its target before it writes its link. -/
theorem test_jumps : tReg (.jal 4) (tRegs []) 31 = some (68, false) ∧ tPc (.jal 4) (tRegs []) = some 80 ∧
    tPc (.jalr 2 2 8) (tRegs [(2, 128)]) = some 136 ∧ tReg (.jalr 2 2 8) (tRegs [(2, 128)]) 2 = some (68, false) := by decide +kernel
/-- R288, R290: TRAP 5 goes to the handler: ECAUSE is 5 · 2^16 + 0x3F, EPC the address of the TRAP. -/
theorem test_trap : tTrap (.trap 5) { tRegs [] with tvec := 512 } = some (5 * 2 ^ 16 + 0x3F, 0, 64, true, 512) := by decide +kernel
/-- R261, R290: a jump out of the program region traps with its target. -/
theorem test_jmp_fault : (tTrap (.jmp 1024) { tRegs [] with tvec := 512 }).map (fun e => e.2.1) = some 4160 := by decide +kernel
/-- R291: without a handler the sequencer stops where it is. -/
theorem test_trap_unhandled : (tAfter (.trap 5) (tSeq (tRegs [])) fun t => (leaseOf t 0).map fun ls =>
    (ls.unhandled, ls.seq.stopped, ls.seq.pc)) = some (true, true, 64) := by decide +kernel
/-- R289: ERET leaves the handler for EPC. -/
theorem test_eret : tPc .eret { tRegs [] with intrap := true, epc := 32 } = some 32 ∧
    (tTrap .eret { tRegs [] with tvec := 512 }).map (fun e => e.2.2.1) = some 64 := by decide +kernel
/-- R287: PTEST reads poison as a clean number, PCLR clears it. -/
theorem test_ptest_pclr : tReg (.ptest 1 2) { tRegs [(2, 9)] with xp := [2] } 1 = some (1, false) ∧
    tReg (.pclr 1 2) { tRegs [(2, 9)] with xp := [2] } 1 = some (9, false) := by decide +kernel
/-- R256, R257: register 0x002 is H · 256 + W; TVEC takes bits 55 to 2 only. -/
theorem test_srd_swr : tReg (.srd 1 0x002) (tRegs []) 1 = some (257, false) ∧
    (tAfter (.swr 2 0x030) (tSeq (tRegs [(2, 2 ^ 60 + 0x107)])) fun t => (leaseOf t 0).map fun ls => ls.seq.tvec) = some 0x104 := by decide +kernel
/-- R97: SNAP opens entry 1 with STS (T - 2, 0xFF); the tick after reset is 1, so a later tick is used here. -/
theorem test_snap : (tAfter (.snap 4) { tSeq (tRegs []) with tick := 7 } fun t => (leaseOf t 0).map fun ls =>
    ((xget ls.seq 4).toNat, viewOf ls 1)) = some (1, ⟨5 * 256 + 0xFF, 1, 0, 0, State.reset.nextId⟩) := by decide +kernel
/-- R103: TXA gives a healthy transaction the cause EXPLICIT (5). -/
theorem test_txa : (tAfter (.txa 2) { State.reset with
    cur := .seq 0 false
    leases := [(0, { tLease (tRegs []) with views := [(2, ⟨0, 2, 0, 0, 0⟩)] })] } fun t => (leaseOf t 0).map fun ls => (viewOf ls 2).doom) =
    some 5 := by decide +kernel
/-- R276: GRPW sets COUNT and keeps GEN. -/
theorem test_grpw : (tAfter (.grpw 1 2) { State.reset with
    cur := .seq 0 false
    leases := [(0, { tLease (tRegs [(1, 3), (2, 5)]) with groups := [(3, ⟨2, 0, 9⟩)] })] } fun t =>
      (leaseOf t 0).map fun ls => mget (⟨0, 0, 0⟩ : Group) ls.groups 3) = some ⟨5, 0, 9⟩ := by decide +kernel
/-- R272: WAITD consumes a done. -/
theorem test_waitd : tReg (.waitd 1) { tRegs [] with donecnt := 2 } 1 = some (1, false) := by decide +kernel
/-- R286: JOIN of a number that no child has faults JOIN_NONE. -/
theorem test_join_none : (tTrap (.join 1 2) { tRegs [(2, 3)] with tvec := 512 }).map (fun e => e.1 % 256) = some cJOIN := by decide +kernel
/-- R263: a misaligned access faults ALIGNMENT with its address. -/
theorem test_ld_align : (tTrap (.ld 1 2 .w false false 2) { tRegs [(2, 0x1000)] with tvec := 512 }).map (fun e => (e.1 % 256, e.2.1)) =
    some (cALIGN, 0x1002) := by decide +kernel
/-- R292: HALT ends the launch with status 0. -/
theorem test_halt : (tAfter .halt (tSeq (tRegs [])) fun t => (leaseOf t 0).map fun ls => (ls.state, ls.endc)) = some (.stop, 0) := by decide +kernel

/-! ### Single steps of elements and switches -/

/-- A token whose first elements of width `w` are given; the others are 0. -/
def tTok (w : Nat) (l : List Nat) : Tok := { Tok.zero with data := ofElems w l }

/-- A context in a firing of handler 0 at its first word, with registers. -/
def tCtx (v : List (Nat × Tok)) : Ctx :=
  { Ctx.zero with
    v := v
    hmask := 1
    fire := some ⟨0, 0, [], [], 0, .none, false⟩ }

/-- A plane whose handler 0 takes K from program memory from word 100 on, and whose port I0 and O0 are bound with four slots. -/
def tPlane (k : List Nat) : Plane :=
  { onePlane 0 0 0 with
    prog := k.zipIdx.map fun e => (100 + e.2, BitVec.ofNat 32 e.1)
    ht := [(0, BitVec.ofNat 32 (100 * 2 ^ 20 + 99 * 2 ^ 10)), (2, BitVec.ofNat 32 (2 ^ 31))]
    pb := [(0, BitVec.ofNat 32 (2 ^ 31 + 3 * 2 ^ 26)), (16, BitVec.ofNat 32 (2 ^ 31 + 3 * 2 ^ 26))] }

/-- A lease of one tile with that plane and context 0. -/
def tTile (t : Nat) (p : Plane) (c : Ctx) : Lease :=
  { oneTile t p with tiles := [(t, { Tile.zero with
      act := p
      ctx := [(0, c)] })] }

/-- The panel where context 0 of tile `t` has its turn. -/
def tElem (t : Nat) (p : Plane) (c : Ctx) : State :=
  { State.reset with
    cur := .elem 0 t 0
    leases := [(0, tTile t p c)] }

/-- A value of context 0 of tile `t` after the word. -/
def tCtxAfter {α : Type} (i : Instr) (t : Nat) (p : Plane) (c : Ctx) (f : Ctx → α) : Option α :=
  tAfter i (tElem t p c) fun s => (leaseOf s 0).bind fun ls => (tileOf ls t).map fun x => f (ctxOf x 0)

/-- The first elements of V0 after a word of a V tile. -/
def tV0 (i : Instr) (w n : Nat) (v : List (Nat × Tok)) : Option (List Nat) :=
  tCtxAfter i 1 (tPlane [7, 0, 0, 0, 1]) (tCtx v) fun c => (List.range n).map fun e => elemAt w (mget Tok.zero c.v 0).data e

/-- Flags after a word of a V tile: NV 16, DZ 8, OF 4, UF 2, NX 1 (R198). -/
def tFlags (i : Instr) (v : List (Nat × Tok)) : Option Nat :=
  tCtxAfter i 1 (tPlane []) (tCtx v) fun c => c.estat.toNat

/-- R302, R192: a saturating sum stays in the range of I8; a plain one wraps in I16. -/
theorem test_vadd : tV0 (.vadd .i8 (.v 0) (.v 1) (.v 2) none true) 8 3 [(1, tTok 8 [127, 0x80, 5]), (2, tTok 8 [1, 0xFF, 6])] =
      some [127, 0x80, 11] ∧
    tV0 (.vadd .i16 (.v 0) (.v 1) (.v 2) none false) 16 2 [(1, tTok 16 [0x7FFF, 1]), (2, tTok 16 [1, 1])] = some [0x8000, 2] := by
  decide +kernel
/-- R302: the high half of a signed product; VMAC adds to its destination. -/
theorem test_vmulh_vmac : tV0 (.vmulh .i32 (.v 0) (.v 1) (.v 2) none) 32 1 [(1, tTok 32 [2 ^ 31]), (2, tTok 32 [2])] = some [2 ^ 32 - 1] ∧
    tV0 (.vmac .i32 0 (.v 1) (.v 2) none) 32 1 [(0, tTok 32 [5]), (1, tTok 32 [3]), (2, tTok 32 [4])] = some [17] := by decide +kernel
/-- R302: the most negative element is its own absolute value; an I64 pair negates as one number. -/
theorem test_vabs_vneg : tV0 (.vabs .i8 (.v 0) (.v 1) none) 8 2 [(1, tTok 8 [0x80, 0xFF])] = some [0x80, 1] ∧
    tV0 (.vneg .i64 (.v 0) (.v 1) none) 64 1 [(1, tTok 64 [1])] = some [2 ^ 64 - 1] := by decide +kernel
/-- R302: the count of a shift is taken mod the width, and VSHA keeps the sign. -/
theorem test_vshift : tV0 (.vshl .i32 (.v 0) (.v 1) (.v 2) none) 32 1 [(1, tTok 32 [1]), (2, tTok 32 [40])] = some [256] ∧
    tV0 (.vsha .i8 (.v 0) (.v 1) (.v 2) none) 8 1 [(1, tTok 8 [0x80]), (2, tTok 8 [7])] = some [0xFF] := by decide +kernel
/-- R302, R305: bit counts, and a compare that is signed for I32 and unsigned for U32. -/
theorem test_vclz_vcmp : tV0 (.vclz .i8 (.v 0) (.v 1) none) 8 2 [(1, tTok 8 [1, 0])] = some [7, 8] ∧
    tV0 (.vcmp .i32 (.v 0) (.v 1) .zero none .lt) 32 1 [(1, tTok 32 [2 ^ 32 - 1])] = some [2 ^ 32 - 1] ∧
    tV0 (.vcmp .u32 (.v 0) (.v 1) .zero none .lt) 32 1 [(1, tTok 32 [2 ^ 32 - 1])] = some [0] := by decide +kernel
/-- R145, R231: a lane that the mask leaves out keeps the destination's content. -/
theorem test_mask : (tCtxAfter (.vadd .i32 (.v 0) (.v 1) (.v 1) (some 2) false) 1 (tPlane []) { tCtx [(0, tTok 32 [9, 9]), (1, tTok 32 [4, 4])] with
    m := [(2, 1)] } fun c => (List.range 2).map fun e => laneAt (mget Tok.zero c.v 0).data e) = some [8, 9] := by decide +kernel
/-- R306, R308: VSEL takes a where d is not zero; VLI widens its immediate by the type. -/
theorem test_vsel_vli : tV0 (.vsel .i32 0 (.v 1) (.v 2) none) 32 2 [(0, tTok 32 [1, 0]), (1, tTok 32 [5, 5]), (2, tTok 32 [6, 6])] =
      some [5, 6] ∧
    tV0 (.vli .f32 (.v 0) 0x3F80) 32 1 [] = some [0x3F800000] ∧ tV0 (.vli .i32 (.v 0) 0xFFFF) 32 1 [] = some [2 ^ 32 - 1] := by decide +kernel
/-- R195: 1 + 1 is 2; 1 + 2^-24 rounds to 1 and is inexact. -/
theorem test_fadd : tV0 (.fadd .f32 (.v 0) (.v 1) (.v 1) none) 32 1 [(1, tTok 32 [0x3F800000])] = some [0x40000000] ∧
    tV0 (.fadd .f32 (.v 0) (.v 1) (.v 2) none) 32 1 [(1, tTok 32 [0x3F800000]), (2, tTok 32 [0x33800000])] = some [0x3F800000] ∧
    tFlags (.fadd .f32 (.v 0) (.v 1) (.v 2) none) [(1, tTok 32 [0x3F800000]), (2, tTok 32 [0x33800000])] = some 1 := by decide +kernel
/-- R195, R303: one rounding: (1 + 2^-12)² - (1 + 2^-11) is 2^-24. -/
theorem test_ffma : tV0 (.ffma .f32 0 (.v 1) (.v 1) none) 32 1 [(0, tTok 32 [0xBF801000]), (1, tTok 32 [0x3F800800])] =
    some [0x33800000] := by decide +kernel
/-- R196: 1 / 0 is infinity with DZ; the roots of 4 and -1. -/
theorem test_fdiv_fsqrt : tV0 (.fdiv .f32 (.v 0) (.v 1) .zero none) 32 1 [(1, tTok 32 [0xBF800000])] = some [0xFF800000] ∧
    tV0 (.fsqrt .f32 (.v 0) (.v 1) none) 32 2 [(1, tTok 32 [0x40800000, 0xBF800000])] = some [0x40000000, 0x7FC00000] ∧
    tFlags (.fsqrt .f32 (.v 0) (.v 1) none) [(1, tTok 32 [0xBF800000])] = some 16 := by decide +kernel
/-- R196: FMIN orders -0 below +0 and takes the operand that is no NaN; FEX2 of 3 is 8, FLG2 of 8 is 3. -/
theorem test_fmin_fex2 : tV0 (.fmin .f32 (.v 0) (.v 1) (.v 2) none) 32 2
      [(1, tTok 32 [0, 0x7FC00000]), (2, tTok 32 [0x80000000, 0x40000000])] = some [0x80000000, 0x40000000] ∧
    tV0 (.fex2 .f32 (.v 0) (.v 1) none) 32 1 [(1, tTok 32 [0x40400000])] = some [0x41000000] ∧
    tV0 (.flg2 .f32 (.v 0) (.v 1) none) 32 1 [(1, tTok 32 [0x41000000])] = some [0x40400000] := by decide +kernel
/-- R304: an unordered compare is true of a NaN alone; the class of -0 is bit 3. -/
theorem test_fcmp_fcls : tV0 (.fcmp .f32 (.v 0) (.v 1) .zero none .un) 32 2 [(1, tTok 32 [0x7FC00000, 0x3F800000])] =
      some [2 ^ 32 - 1, 0] ∧
    tV0 (.fcls .f32 (.v 0) (.v 1) none) 32 2 [(1, tTok 32 [0x80000000, 0xFF800000])] = some [8, 1] := by decide +kernel
/-- R309, R195: two F32 at a tie go to the even BF16; I32 to I8 saturation is left to the control word. -/
theorem test_cvt : tV0 (.cvt .bf16 .f32 (.v 0) (.v 1) none) 16 2 [(1, tTok 32 [0x3F808000, 0x3F818000])] = some [0x3F80, 0x3F82] ∧
    tV0 (.cvt .f32 .i32 (.v 0) (.v 1) none) 32 1 [(1, tTok 32 [2 ^ 32 - 3])] = some [0xC0400000] := by decide +kernel
/-- R312, R297: the sum of the lane numbers 0 to 23 fills every lane. -/
theorem test_rsum : tV0 (.rsum .i32 (.v 0) .lane none) 32 24 [] = some (List.replicate 24 276) := by decide +kernel
/-- R312: the greatest signed element of the active lanes. -/
theorem test_rmax : tV0 (.rmax .i32 (.v 0) (.v 1) none) 32 1 [(1, { Tok.zero with data := ofElems 32 (List.replicate 24 (2 ^ 32 - 5)) })] =
    some [2 ^ 32 - 5] := by decide +kernel
/-- R313: PERM takes the lane that b names, 0 from outside; LSHF moves lanes up; BCST spreads one. -/
theorem test_permutes : tV0 (.perm .i32 (.v 0) .lane (.v 1) none) 32 3 [(1, tTok 32 [23, 24, 5])] = some [23, 0, 5] ∧
    tV0 (.lshf .i32 (.v 0) .lane (.v 1) none) 32 4 [(1, tTok 32 [2])] = some [0, 0, 0, 1] ∧
    tV0 (.bcst .i32 (.v 0) .lane 23 none) 32 2 [] = some [23, 23] := by decide +kernel
/-- R216, R314: 5 + 6 mod 7; the handler's K holds q = 7. -/
theorem test_madd : tV0 (.madd (.v 0) (.v 1) (.v 2) none) 64 1 [(1, tTok 64 [5]), (2, tTok 64 [6])] = some [4] ∧
    tV0 (.msub (.v 0) (.v 1) (.v 2) none) 64 1 [(1, tTok 64 [5]), (2, tTok 64 [6])] = some [6] := by decide +kernel
/-- R315, R156: the poison mask as clean data, and as cleared. -/
theorem test_ptst : tV0 (.ptst .i32 (.v 0) (.v 1) none) 32 1 [(1, { Tok.zero with pois := 5 })] = some [5] ∧
    (tCtxAfter (.elementPclr .i32 (.v 0) (.v 1) none) 1 (tPlane []) (tCtx [(1, { Tok.zero with pois := 5 })]) fun c =>
      (mget Tok.zero c.v 0).pois) = some 0 := by decide +kernel
/-- R144, R146: a poisoned lane poisons the result's lane and raises no flag. -/
theorem test_lane_poison : (tCtxAfter (.fdiv .f32 (.v 0) (.v 1) .zero none) 1 (tPlane []) (tCtx [(1, { Tok.zero with
    data := ofElems 32 (List.replicate 24 0x3F800000)
    pois := BitVec.ofNat 24 (2 ^ 24 - 1) })]) fun c => ((mget Tok.zero c.v 0).pois.toNat, c.estat.toNat)) = some (2 ^ 24 - 1, 0) := by
  decide +kernel
/-- R168, R316: WAITF waits with too few tokens, and passes with EOS at hand; ADV takes the head. -/
theorem test_ports : (tCtxAfter (.waitf 0 2) 1 (tPlane []) { tCtx [] with ins := [(0, ⟨[tTok 32 [1]], 0⟩)] } fun c => c.fire.map (·.pc)) =
      some (some 0) ∧
    (tCtxAfter (.waitf 0 2) 1 (tPlane []) { tCtx [] with ins := [(0, ⟨[eosTok], 0⟩)] } fun c => c.fire.map (·.pc)) = some (some 1) ∧
    (tCtxAfter (.adv 0 1) 1 (tPlane []) { tCtx [] with ins := [(0, ⟨[tTok 32 [1], tTok 32 [2]], 0⟩)] } fun c =>
      (inPort c 0).q) = some [tTok 32 [2]] := by decide +kernel
/-- R319: EMIT publishes one token. -/
theorem test_emit : (tCtxAfter (.emit 0 (.v 3)) 1 (tPlane []) (tCtx [(3, tTok 32 [8])]) fun c => (outPort c 0).pub.map (·.data)) =
    some [ofElems 32 [8]] := by decide +kernel
/-- R322, R323: BR goes relative to its own address; LOOP counts lane 0 down and stops at the last round. -/
theorem test_br_loop : (tCtxAfter (.br 7) 1 (tPlane []) (tCtx []) fun c => c.fire.map (·.pc)) = some (some 7) ∧
    (tCtxAfter (.loop 0 3) 1 (tPlane []) (tCtx [(0, tTok 32 [2])]) fun c => (c.fire.map (·.pc), laneAt (mget Tok.zero c.v 0).data 0)) =
      some (some 3, 1) ∧
    (tCtxAfter (.loop 0 3) 1 (tPlane []) (tCtx [(0, tTok 32 [1])]) fun c => (c.fire.map (·.pc), laneAt (mget Tok.zero c.v 0).data 0)) =
      some (some 1, 0) := by decide +kernel
/-- R328: CTRW of M1 is read back; RDCT of TILEPOS gives row · 256 + column. -/
theorem test_control_registers : (tCtxAfter (.ctrw (.v 1) 0x011) 1 (tPlane []) (tCtx [(1, tTok 32 [0xFF000003])]) fun c =>
      mget (0 : LaneMask) c.m 1) = some 3 ∧
    tV0 (.rdct (.v 0) 0x026) 32 1 [] = some [1] := by decide +kernel
/-- R325, R384: an element TRAP freezes its context at the word. -/
theorem test_element_trap : (tCtxAfter (.elementTrap 3) 1 (tPlane []) (tCtx []) fun c => (c.frozen, c.fire.map (·.pc))) =
    some (some (.firing, 0), some 0) := by decide +kernel
/-- R326: EXIT with no token owed ends the firing. -/
theorem test_exit : (tCtxAfter .exit 1 (tPlane []) (tCtx []) fun c => (c.fire, c.lastFired)) = some (none, [(0, 0)]) := by decide +kernel
/-- R353, R357: WSWP exchanges the macros; ACCL clears one bank only. -/
theorem test_matrix : (tAfter .wswp { State.reset with
        cur := .elem 0 0 0
        leases := [(0, { oneTile 0 (tPlane []) with tiles := [(0, { Tile.zero with
          act := tPlane []
          ctx := [(0, tCtx [])]
          mat := { MState.zero with ld := { Macro.zero with w := [(5, 3)] } } })] })] } fun s =>
      (leaseOf s 0).bind fun ls => (tileOf ls 0).map fun x => (x.mat.act.w, x.mat.ld.w)) = some ([(5, 3)], []) ∧
    (tAfter (.accl 1) { State.reset with
        cur := .elem 0 0 0
        leases := [(0, { oneTile 0 (tPlane []) with tiles := [(0, { Tile.zero with
          act := tPlane []
          ctx := [(0, tCtx [])]
          mat := { MState.zero with acc := [(191, 5), (192, 6)] } })] })] } fun s =>
      (leaseOf s 0).bind fun ls => (tileOf ls 0).map fun x => (mget 0 x.mat.acc 191, mget 0 x.mat.acc 192)) = some (5, 0) := by decide +kernel
/-- R356: MMAI adds the products of a block with column 0 of the active macro: 2 · 3 + 4 · 5. -/
theorem test_mmai : (tAfter (.mmai (.v 1) (.v 2) 8 0) { State.reset with
      cur := .elem 0 0 0
      leases := [(0, { oneTile 0 (tPlane []) with tiles := [(0, { Tile.zero with
        act := tPlane []
        ctx := [(0, tCtx [(1, tTok 32 [2, 4])])]
        mat := { MState.zero with act := { Macro.zero with w := [(0, 3), (192, 5)] } } })] })] } fun s =>
    (leaseOf s 0).bind fun ls => (tileOf ls 0).map fun x => mget 0 x.mat.acc 0) = some 26 := by decide +kernel
/-- R361: a routed token leaves element output 0 for track 3. -/
theorem test_route : (tAfter (.route 24 3 0) { State.reset with
      cur := .sw 0 1
      leases := [(0, tTile 1 { tPlane [] with sw := [(0, BitVec.ofNat 16 (2 ^ 13 + 24 * 2 ^ 8 + 3 * 2 ^ 3))] }
        { tCtx [] with outs := [(0, ⟨[tTok 32 [8]], 0, []⟩)] })] } fun s =>
    (leaseOf s 0).bind fun ls => (tileOf ls 1).map fun x => (mfind x.tout 3, (outPort (ctxOf x 0) 0).pub)) =
    some (some (tTok 32 [8]), []) := by decide +kernel
/-- R178: FWL sets the closed edges. -/
theorem test_fwl : (tAfter (.fwl 5) { State.reset with
      cur := .sw 0 1
      leases := [(0, tTile 1 (tPlane []) (tCtx []))] } fun s =>
    (leaseOf s 0).bind fun ls => (tileOf ls 1).map fun x => x.fwl) = some 5 := by decide +kernel

/-! ### Single steps of memory, of leases and of the panel -/

/-- A part at device address `pa`. -/
def tPart (pa len : Nat) (st : PSt) (data : List Byte) : Part :=
  { lane := 0
    va := 0x5000
    len := len
    strad := false
    loc := .mem pa
    st := st
    data := data
    pois := List.replicate data.length false
    cmp := []
    cmpPois := false
    versioned := false
    code := 0 }

/-- A request under way to its serving point. -/
def tReq (iss : Issuer) (op : MOp) (p : Part) : Req :=
  { iss := iss
    op := op
    view := 0
    floor := 0
    after := []
    acq := false
    rel := false
    scope := .lease
    posted := false
    stage := .sent
    parts := [p]
    dst := .none
    chain := none
    pc := 0
    word := 0
    born := 0
    key := [] }

/-- The panel with a request 5 of lease 0, and memory that holds the bytes at `pa`. -/
def tMem (r : Req) (pa : Nat) (bytes : List Byte) : State :=
  memWr { State.reset with
    reqs := [(5, r)]
    leases := [(0, tLease (tRegs []))] } pa bytes (List.replicate bytes.length false)

/-- The request 5 after a step. -/
def tPartAfter (i : Instr) (s : State) : Option Part := tAfter i s fun t => (reqOf t 5).bind fun r => r.parts.head?

/-- R59, R83: bytes written are read back in order, low address first, and the next byte of the fresh block is 0. -/
theorem test_memory : memRd (memWr State.reset 0x1FE [1, 2, 3] [false, false, false]) 0x1FE 4 = ([1, 2, 3, 0], [false, false, false, false]) ∧
    (memRd (memWr State.reset 0x40 [7] [true]) 0x5F 2).2 = [true, false] := by decide +kernel
/-- R264: AMO.MAX is signed, AMO.MAXU is not; CAS writes only on equality. -/
theorem test_atomics : atomNew .max 4 0xFFFFFFFF 1 0 addF32 = some 1 ∧ atomNew .maxu 4 0xFFFFFFFF 1 0 addF32 = some 0xFFFFFFFF ∧
    atomNew .cas 4 5 9 6 addF32 = none ∧ atomNew .add 4 0xFFFFFFFF 2 0 addF32 = some 1 := by decide +kernel
/-- R130, R264: an AMO.ADD at its home returns the old value and writes the sum. -/
theorem test_atomic_at_home : (tAfter (.atomicAtHome 5 0) (tMem (tReq (.seq 0 false) (.atomic .add) (tPart 0x100 4 .home [2, 0, 0, 0])) 0x100
      [0xFF, 1, 0, 0]) fun t => (reqOf t 5).map fun r => (r.parts.map fun p => p.data, (memRd t 0x100 4).1)) =
    some ([[0xFF, 1, 0, 0]], [1, 2, 0, 0]) := by decide +kernel
/-- The third arrival of Example 3.4: COUNT equals TARGET, falls to 0, and GEN 7 becomes 8. -/
theorem test_sync_arrival : (tAfter (.syncArrival 5) (tMem (tReq (.seq 0 false) (.arrive 0x10000) (tPart 0x100 16 .home [])) 0x100
      (leBytes 16 (0x30000 + 0x20000 * 2 ^ 48 + 7 * 2 ^ 96))) fun t => some (syncWord t 0 (.mem 0x100)).1) =
    some (0x30000 + 0x0000000800000000 * 2 ^ 64) := by decide +kernel
/-- R262: a byte load with sign extension. -/
theorem test_load_reply : (tAfter (.memoryReply 5 .none) { State.reset with
      reqs := [(5, { tReq (.seq 0 false) .read (tPart 0x100 1 .done [0x80]) with
        stage := .performed
        dst := .x 7 1 true })]
      leases := [(0, tLease { tRegs [] with pend := [(7, 5)] })] } fun t => (leaseOf t 0).map fun ls => (xget ls.seq 7).toNat) =
    some (2 ^ 64 - 128) := by decide +kernel
/-- R122: a read of the open group is counted. -/
theorem test_chain_read : (tAfter (.chainRead 5) { State.reset with
      reqs := [(5, { tReq (.seq 0 false) .read (tPart 0x100 4 .new []) with
        stage := .chain
        chain := some ⟨2, 0, 0, 0⟩ })]
      leases := [(0, tLease (tRegs []))] } fun t => (leaseOf t 0).map fun ls => (trk ls 2).acc) = some 1 := by decide +kernel
/-- R164, R166: the enabled handler starts at its entry. -/
theorem test_firing_start : (tAfter (.firingStart 0 1) { State.reset with leases := [(0, tTile 1 (tPlane []) { Ctx.zero with hmask := 1 })] }
    fun t => (leaseOf t 0).bind fun ls => (tileOf ls 1).map fun x => (ctxOf x 0).fire.map fun f => (f.h, f.pc)) = some (some (0, 0)) := by
  decide +kernel
/-- R163, R256: a fabric cycle moves CYCLE on. -/
theorem test_fabric_cycle : (tAfter .fabricCycle (tSeq (tRegs [])) fun t => (leaseOf t 0).map fun ls => (t.fc, ls.seq.cycle)) =
    some (1, 1) := by decide +kernel
/-- R175, R272: the root's done is counted. -/
theorem test_root_done : (tAfter .rootDoneReceived { State.reset with
      cur := .seq 0 false
      leases := [(0, { tLease (tRegs []) with msgs := [⟨.rootDone, 1, 0, 0⟩] })] } fun t => (leaseOf t 0).map fun ls => ls.seq.donecnt) =
    some 1 := by decide +kernel
/-- R90: the reference tick counts up once every die's counter has stepped. -/
theorem test_tick : tAfter (.tickAdvance (BitVec.allOnes 160)) State.reset (fun t => some t.tick) = some 2 ∧
    tAfter (.tickAdvance 2) State.reset (fun t => some (t.tick, tickOf t 0, tickOf t 1)) = some (1, 1, 2) := by decide +kernel
/-- R401: a fatal error stops the panel and is reported. -/
theorem test_fatal : tAfter (.fatalError 2) State.reset (fun t => some (t.fatal, t.out.contains (.aer true))) = some (true, true) := by decide +kernel
/-- R55: TCSET of a legal range ends with STATUS 0, one with BASE 0 with STATUS 1; GO is set. -/
theorem test_tcset : tAfter .tcset { State.reset with
      marg0 := 0x140000
      marg1 := 0xA0000
      marg2 := 3 } (fun t => some (t.mcmd.toNat, t.tenantChecks)) = some (2 ^ 63 + 1, [⟨0x140000, 0xA0000, 3⟩]) ∧
    tAfter .tcset { State.reset with marg1 := 0xA0000 } (fun t => some t.mcmd.toNat) = some (2 ^ 63 + 256 + 1) := by decide +kernel
/-- R364: QOWN assigns a queue and keeps V, VF, number and weight. -/
theorem test_qown : tAfter (.qownWrite 9 (BitVec.ofNat 64 (2 ^ 63 + 5 * 2 ^ 32 + 7 * 2 ^ 16 + 3))) State.reset (fun t =>
    some ((queueOf t 9).v, (queueOf t 9).vf, (queueOf t 9).loc, (queueOf t 9).weight)) = some (true, 5, 7, 3) := by decide +kernel
/-- R46, R152: a host write with EP set is dropped and reported; without it the register takes its fields. -/
theorem test_register_write : tAfter (.registerWrite .pf 0x140010 77 true) State.reset (fun t => some ((vfOf t 1).vlimit, t.out)) =
      some (0, [.aer false]) ∧
    tAfter (.registerWrite .pf 0x140010 77 false) State.reset (fun t => some (vfOf t 1).vlimit) = some 77 := by decide +kernel
/-- R398: SELECT names the lease of the lease registers. -/
theorem test_select : tAfter (.select 12) State.reset (fun t => some t.lsel) = some 12 := by decide +kernel
/-- R82: an uncorrectable error of a register poisons it. -/
theorem test_ue : (tAfter (.uncorrectableError (.seqReg 0 9)) (tSeq (tRegs [])) fun t => (leaseOf t 0).map fun ls =>
    (xpois ls.seq 9, xpois ls.seq 8)) = some (true, false) := by decide +kernel
/-- R441: a device reset starts again from the tick 1 and without leases. -/
theorem test_device_reset : tAfter (.deviceReset ⟨true, true, 0, 0, 0, [], true, true, true, false⟩) { tSeq (tRegs []) with tick := 99 }
    (fun t => some (t.tick, t.leases.length, t.boot.up, t.boot.mode)) = some (1, 0, true, 0) := by decide +kernel
/-- R110: a commit waits until the tick of its home has passed C by three. -/
theorem test_commit_wait : tAfter .commitWaitEnd { tSeq (tRegs []) with
      tick := 12
      leases := [(0, { tLease { tRegs [] with op := .commit } with commit := some ⟨false, 1, false, 4, 9, [], 2, 10 * 256⟩ })] }
    (fun t => (leaseOf t 0).map fun ls => ls.seq.pc) = some 64 := by decide +kernel


/-- R360: a source that has delivered its EOS to a MERGE waits with what comes later until the other sources have ended; a token on an
incoming track that the new plane does not route is discarded at the swap (R359, R184). -/
theorem test_merge_and_swap : let sw : List (Nat × Nat) := [(0, 0x3830), (1, 0x6D30)]
    let x (seen : List Nat) : Tile := { Tile.zero with
      act := { tPlane [] with sw := sw.map fun e => (e.1, BitVec.ofNat 16 e.2) }
      tin := [(13, Tok.zero)]
      eosSeen := seen }
    let s (c : Agent) (y : Tile) : State := { State.reset with
      cur := c
      leases := [(0, { oneTile 1 (tPlane []) with tiles := [(1, y)] })] }
    let left (i : Instr) (c : Agent) (y : Tile) : Option Nat :=
      tAfter i (s c y) fun t => (leaseOf t 0).bind fun ls => (tileOf ls 1).map fun x => x.tin.length
    left (.merge 13 6 0) (.sw 0 1) (x [seenKey 0 6 0 13]) = some 1 ∧ left (.merge 13 6 0) (.sw 0 1) (x []) = some 0 ∧
    left (.merge 13 6 0) (.sw 0 1) (x [seenKey 0 6 0 13, seenKey 0 6 0 24]) = some 0 ∧
    (leaseOf (resort 0 1 (s (.sw 0 1) { Tile.zero with tin := [(13, Tok.zero)] }) (13, Tok.zero)) 0).map
      (fun ls => ((tileOf ls 1).map fun x => x.tin.length, ls.recs.map (·.cause))) = some (some 0, [cSTRAY]) := by decide +kernel
/-! ### States that meet the hypotheses of the statements: words of the sequencer -/

/-- A lease that is not paired, with its sequencer's turn. -/
theorem tSeq_solo (q : Seq) (rs : List (BitVec 5)) (h : ∀ r ∈ rs, xbusy q r = false) : SoloTurn (tSeq q) 0 (tLease q) rs :=
  ⟨⟨rfl, rfl, h⟩, rfl⟩

/-- The turn in a panel whose other fields are not those of reset. -/
theorem tTurn {s : State} {ls : Lease} (rs : List (BitVec 5)) (h1 : s.cur = .seq 0 false) (h2 : leaseOf s 0 = some ls)
    (h3 : ∀ r ∈ rs, xbusy ls.seq r = false) (h4 : ls.paired = false) : SoloTurn s 0 ls rs := ⟨⟨h1, h2, h3⟩, h4⟩

/-- The panel with a lease 0 whose sequencer has its turn. -/
def tWith (ls : Lease) : State :=
  { State.reset with
    cur := .seq 0 false
    leases := [(0, ls)] }

/-- A cached page: the first 64 KiB of tenant space are device addresses 0 on, readable and writable. -/
def tTlb : List (Nat × TlbEnt) := [(0, ⟨1, 3, 0, 0, true, true, true, 0, 0⟩)]

/-- A function whose two translation stages are enabled. -/
def tVf : Vf := { Vf.zero with root := BitVec.ofNat 64 (2 ^ 63), s2base := BitVec.ofNat 64 (2 ^ 63 + 2 ^ 48) }

/-- The panel with a lease that has this page, where the device memory behind it belongs to tenant 0; memory holds bytes at 0x200. -/
def tPagedOf (ls : Lease) (bytes : List Byte) : State :=
  memWr { State.reset with
    cur := .seq 0 false
    leases := [(0, { ls with tlb := tTlb })]
    vfs := [(0, tVf)]
    tenantChecks := [⟨0, 0x100000, 0⟩] } 0x200 bytes (List.replicate bytes.length false)
/-- The same for a lease with a sequencer. -/
def tPaged (q : Seq) (bytes : List Byte) : State := tPagedOf (tLease q) bytes

/-- What a read by the sequencer answers, if it succeeds with clean bytes. -/
def tSync : Sync → Bool
  | .ok _ p _ => !p.any id
  | _ => false

theorem witness_alu_register_results : SeqTurn (tSeq (tRegs [(31, 5)])) 0 false (tLease (tRegs [(31, 5)])) [0, 31, 31] ∧
    SeqTurn (tSeq (tRegs [])) 0 false (tLease (tRegs [])) [1, 0] := ⟨⟨rfl, rfl, by decide⟩, ⟨rfl, rfl, by decide⟩⟩

theorem witness_immediate_results : SeqTurn (tSeq (tRegs [(2, 7)])) 0 false (tLease (tRegs [(2, 7)])) [0, 2] := ⟨rfl, rfl, by decide⟩

/-- Targets at both ends of the region and just beyond it, with equal, unequal and poisoned registers. -/
theorem witness_branches : SeqTurn (tSeq (tRegs [(1, 4)])) 0 false (tLease (tRegs [(1, 4)])) [1, 2] ∧
    inRegion (tLease (tRegs [])) (64 + 4 * (BitVec.ofInt 16 (-16)).toInt).toNat = true ∧
    inRegion (tLease (tRegs [])) (64 + 4 * (239 : BitVec 16).toInt).toNat = true ∧
    inRegion (tLease (tRegs [])) (64 + 4 * (240 : BitVec 16).toInt).toNat = false ∧
    xpois { tRegs [] with xp := [1] } 1 = true ∧ xpois (tRegs []) 1 = false ∧
    (xget (tRegs [(1, 4)]) 1 == xget (tRegs [(1, 4)]) 2) = false ∧ (xget (tRegs []) 1 == xget (tRegs []) 2) = true :=
  ⟨⟨rfl, rfl, by decide⟩, by decide, by decide, by decide, by decide, by decide, by decide, by decide⟩

/-- Aligned and misaligned targets of JALR inside, at the last word of and beyond the region, and a poisoned one. -/
theorem witness_jumps : SeqTurn (tSeq (tRegs [(2, 1020)])) 0 false (tLease (tRegs [(2, 1020)])) [31, 0, 2] ∧
    inRegion (tLease (tRegs [])) 1020 = true ∧ inRegion (tLease (tRegs [])) 1024 = false ∧ 1020 % 4 = 0 ∧ 1022 % 4 ≠ 0 ∧
    xpois { tRegs [] with xp := [2] } 2 = true ∧ xpois (tRegs [(2, 1020)]) 2 = false :=
  ⟨⟨rfl, rfl, by decide⟩, by decide, by decide, by decide, by decide, by decide, by decide⟩

theorem witness_nop_ptest_pclr : SeqTurn (tSeq { tRegs [(2, 9)] with xp := [2] }) 0 false (tLease { tRegs [(2, 9)] with xp := [2] }) [0, 2] :=
  ⟨rfl, rfl, by decide⟩

/-- Numbers at the ends of the ranges: the first and last view words and stream counts, and those next to the table. -/
theorem witness_srd_reads : SoloTurn (tSeq (tRegs [])) 0 (tLease (tRegs [])) [7] ∧
    (∀ n ∈ [0x000, 0x004, 0x010, 0x011, 0x020, 0x023, 0x030, 0x036, 0x041, 0x047, 0x050, 0x060, 0x09F, 0x100, 0x104],
      sysRegAssigned n = true) ∧
    ∀ n ∈ [0x005, 0x012, 0x024, 0x037, 0x040, 0x048, 0x051, 0x05F, 0x0A0, 0x105, 0x3FF], sysRegAssigned n = false :=
  ⟨tSeq_solo _ _ (by decide), by decide, by decide⟩

theorem witness_swr_writes : SeqTurn (tSeq (tRegs [(1, 3)])) 0 false (tLease (tRegs [(1, 3)])) [1] ∧ xpois (tRegs [(1, 3)]) 1 = false ∧
    xpois { tRegs [] with xp := [1] } 1 = true ∧ sysRegAssigned 0x030 = true ∧ sysRegAssigned 0x031 = true ∧
    sysRegAssigned 0x036 = true ∧ sysRegAssigned 0x037 = false :=
  ⟨⟨rfl, rfl, by decide⟩, by decide, by decide, by decide, by decide, by decide, by decide⟩

/-- Handlers at the last word of the region. -/
theorem witness_fault_takes_trap : let q := { tRegs [] with tvec := 1020 }
    leaseOf (tSeq q) 0 = some (tLease q) ∧ (tLease q).mput = (tLease q).mdone ∧ (tLease q).recs = [] ∧ q.intrap = false ∧ q.tvec ≠ 0 ∧
      inRegion (tLease q) q.tvec = true := by decide +kernel

/-- A handler running, no handler, and a handler just outside the region. -/
theorem witness_fault_unhandled : leaseOf (tSeq { tRegs [] with intrap := true }) 0 = some (tLease { tRegs [] with intrap := true }) ∧
    (tLease (tRegs [])).seq.tvec = 0 ∧ inRegion (tLease { tRegs [] with tvec := 1024 }) 1024 = false := by decide +kernel

theorem witness_trap_instruction : let q := { tRegs [] with tvec := 4 }
    SeqTurn (tSeq q) 0 false (tLease q) [] ∧ (tLease q).mput = (tLease q).mdone ∧ (tLease q).recs = [] ∧ q.intrap = false ∧
      q.tvec ≠ 0 ∧ inRegion (tLease q) q.tvec = true :=
  ⟨⟨rfl, rfl, by decide⟩, by decide, by decide, by decide, by decide, by decide⟩

/-- Outside a handler; in one without and with an unfinished record, whose dword 7 reads clean. -/
theorem witness_eret_returns : SoloTurn (tSeq (tRegs [])) 0 (tLease (tRegs [])) [] ∧ (tRegs []).intrap = false ∧
    SoloTurn (tSeq { tRegs [] with intrap := true }) 0 (tLease { tRegs [] with intrap := true }) [] ∧
    (tLease { tRegs [] with intrap := true }).mput ≤ (tLease { tRegs [] with intrap := true }).mdone ∧
    (let s := tPagedOf { tLease { tRegs [] with intrap := true } with
        mput := 1
        mbox := 0x1000 } []
     (leaseOf s 0).map (fun ls => (decide (ls.mdone < ls.mput), ls.seq.op)) = some (true, .none) ∧
      tSync (vread 0 (some false) (lineRuns (0x1000 + 64 * (1 + 0 % 63) + 56) 8) [] [] s) = true) :=
  ⟨tSeq_solo _ _ (by decide), by decide, tSeq_solo _ _ (by decide), by decide, by decide +kernel⟩

theorem witness_halt_and_yield : SoloTurn (tSeq (tRegs [])) 0 (tLease (tRegs [])) [] ∧
    (let ls := tLease (tRegs [])
     ls.engines = [] ∧ ls.phStarted = false ∧ ls.state ≠ .stop ∧ usedTiles ls = [] ∧ sliceTakes ls = false) ∧
    (let ls := { tLease (tRegs []) with
      phStarted := true
      phEnded := false }
     SoloTurn (tWith ls) 0 ls [] ∧ ls.phStarted = true ∧ ls.phEnded = false) ∧
    (let ls := { tTile 1 (tPlane []) (tCtx []) with seq := tRegs [] }
     usedTiles ls = [1] ∧ ∃ x, tileOf ls 1 = some x ∧ ¬ (x.passed = true ∨ drained (tWith ls) 0 1 ls x = true)) :=
  ⟨tSeq_solo _ _ (by decide), by decide +kernel, ⟨tTurn _ rfl rfl (by decide) rfl, rfl, rfl⟩, by decide +kernel,
    ⟨_, rfl, by decide +kernel⟩⟩

theorem witness_fence_orders : SeqTurn (tSeq (tRegs [])) 0 false (tLease (tRegs [])) [] ∧ (tRegs []).op = .none ∧
    (tRegs []).ord.ports = [] ∧ (∀ id ∈ (tRegs []).ord.outW, ∀ r, reqOf (tSeq (tRegs [])) id = some r → r.stage.open_ = false) ∧
    (let o : OrdSt := { OrdSt.zero with outR := [3], outW := [4], lastR := 9 }
     nhas o.outR 3 = true ∧ nhas o.outW 4 = true ∧ nhas o.outR 4 = false) :=
  ⟨⟨rfl, rfl, by decide⟩, by decide, by decide, fun _ h => by simp [tRegs, Seq.zero, OrdSt.zero] at h, by decide⟩

/-- Addresses at the end of tenant space and beyond it, misaligned, under view 0 and under an empty view. -/
theorem witness_seq_accesses : let q := tRegs [(2, 2 ^ 56 - 8)]
    SeqTurn (tSeq q) 0 false (tLease q) [1, 2, 3] ∧ q.op = .none ∧ xpois q 2 = false ∧ (2 ^ 56 - 8) % 8 = 0 ∧ (2 ^ 56 - 8) % 8 + 7 ≠ 0 ∧
      viewCheck (tLease q) 0 .rw = none ∧ viewCheck (tLease { q with sview := 3 }) 3 .rd = some cSNAP ∧
      xpois { q with xp := [2] } 2 = true :=
  ⟨⟨rfl, rfl, by decide⟩, by decide, by decide, by decide, by decide, by decide +kernel, by decide +kernel, by decide⟩

/-- The view table empty, with all but entry 7 taken, and full. -/
theorem witness_views_open_and_close : let v (n : Nat) : List (Nat × View) := (List.range n).map fun j => (j + 1, ⟨0, 2, 0, 0, 0⟩)
    let l (n : Nat) : Lease := { tLease (tRegs []) with views := v n }
    SoloTurn (tWith (l 6)) 0 (l 6) [4] ∧ (tWith (l 6)).clockStopped = false ∧ (viewOf (l 6) 7).kind = 0 ∧
      (∀ m, m < 7 → 1 ≤ m → (viewOf (l 6) m).kind ≠ 0) ∧ (∀ m, m < 8 → 1 ≤ m → (viewOf (l 7) m).kind ≠ 0) ∧
      (viewOf { l 0 with views := [(1, ⟨0, 1, 0, 0, 0⟩)] } 1).kind = 1 ∧ (viewOf (l 1) 1).kind = 2 ∧ (viewOf (l 0) 1).kind = 0 :=
  ⟨tTurn _ rfl rfl (by decide) rfl, rfl, by decide, by decide, by decide, by decide, by decide, by decide⟩

/-- A line 4 with a pending version of view 2 and of shadow 3, of lease 0. -/
def tPend (slot : Nat) : List (Nat × Line) := [(4, { Line.zero with pend := [⟨0, 0, slot, 0, 0, 0⟩] })]

theorem witness_commits_begin : let l (k d : Nat) : Lease := { tLease (tRegs []) with views := [(2, ⟨0, k, d, 1, 0⟩)] }
    SoloTurn (tWith (l 2 0)) 0 (l 2 0) [4] ∧ (l 2 0).seq.op = .none ∧ seqQuiet (l 2 0).seq = true ∧ (viewOf (l 2 0) 2).doom = 0 ∧
      (viewOf (l 2 5) 2).doom ≠ 0 ∧ (viewOf (l 1 0) 2).kind = 1 ∧ (viewOf (l 1 0) 3).kind = 0 ∧
      writeSet (tWith (l 2 0)) 0 2 = [] ∧ writeSet { tWith (l 2 0) with lines := tPend 2 } 0 2 ≠ [] ∧
      writeSet { tWith (l 2 0) with lines := tPend 11 } 0 (8 + 3) ≠ [] ∧ (∀ e ∈ (l 2 0).engines, e.shadow ≠ 3) ∧
      (mget (⟨false, false⟩ : Shadow) { l 2 0 with shadows := [(3, ⟨true, true⟩)] }.shadows 3).doomed = true ∧
      (mget (⟨false, false⟩ : Shadow) (l 2 0).shadows 3).doomed = false ∧ (tWith (l 2 0)).clockStopped = false :=
  ⟨tTurn _ rfl rfl (by decide) rfl, rfl, by decide, by decide, by decide, by decide, by decide, by decide, by decide, by decide,
    by decide, by decide, by decide, rfl⟩

/-- An image of one granule with no tile and no section: 128 header bytes. -/
def tImage : List Byte := leBytes 4 0xC0A50160 ++ leBytes 2 1 ++ leBytes 2 0 ++ leBytes 2 1 ++ leBytes 2 1 ++ leBytes 2 1 ++ leBytes 2 0 ++
  leBytes 4 0 ++ leBytes 4 3 ++ List.replicate 20 0 ++ leBytes 4 128 ++ List.replicate 80 0

/-- Reading and placing an image succeeds. -/
def tImgOk (s : State) (va : Nat) : Bool :=
  match readImage s 0 (some false) va with
  | .ok x im ts s1 => x.w == 1 && x.h == 1 && decide (im.saveReq ≤ 4096 * 3) && ts.isEmpty && (match cfgTiles 0 va x im ts [] s1 with
      | .ok _ _ _ s2 => (leaseOf s2 0).isSome
      | _ => false)
  | _ => false

/-- Reading fails with a cause. -/
def tImgBad (s : State) (va : Nat) : Bool :=
  match readImage s 0 (some false) va with
  | .bad _ _ _ _ => true
  | _ => false

theorem witness_cfg_strm_grpw_1 : let q := tRegs [(2, 0x200)]
    SoloTurn (tPaged q tImage) 0 { tLease q with tlb := tTlb } [1, 2, 3] ∧ q.op = .none ∧
      xpois q 2 = false ∧ xpois q 3 = false ∧ 0x200 % 64 = 0 ∧ tImgOk (tPaged q tImage) 0x200 = true ∧ tImgBad (tPaged q []) 0x200 = true :=
  ⟨tTurn _ rfl rfl (by decide) rfl, rfl, by decide, by decide, by decide, by decide +kernel, by decide +kernel⟩

/-- Stream 5 in the list, bound and unbound; a word that binds it to memory with LEN 1, and one of a reserved kind. A group with no
arrival and one with. -/
theorem witness_cfg_strm_grpw_2 : let ls := { tLease (tRegs [(1, 0x40), (2, 5 + 2 ^ 6 + 2 ^ 16)]) with
      img := { Img.blank with
        seqlen := 1024
        strms := [⟨5, 1, 0, 16, 0⟩] }
      groups := [(0x41, ⟨2, 1, 0⟩)] }
    SoloTurn (tWith ls) 0 ls [1, 2] ∧ (∃ e ∈ ls.img.strms, e.id = (5 + 2 ^ 6 + 2 ^ 16) % 2 ^ 6) ∧ (5 + 2 ^ 6 + 2 ^ 16) / 2 ^ 6 % 4 = 1 ∧
      (5 + 2 ^ 6 + 2 ^ 16) / 2 ^ 8 % 2 ^ 8 = 0 ∧ (5 + 2 ^ 6 + 2 ^ 16) / 2 ^ 51 % 2 ^ 5 = 0 ∧ (5 + 2 ^ 6 + 2 ^ 16) / 2 ^ 59 % 2 ^ 5 = 0 ∧
      (mget Stream.zero ls.streams 5).bound = false ∧ 0x40 % 32 = 0 ∧ (5 + 3 * 2 ^ 6) / 2 ^ 6 % 4 = 3 ∧
      (mget (⟨0, 0, 0⟩ : Group) ls.groups (0x40 % 2 ^ 8)).arr = 0 ∧ (mget (⟨0, 0, 0⟩ : Group) ls.groups 0x41).arr ≠ 0 :=
  ⟨tTurn _ rfl rfl (by decide) rfl, ⟨_, List.mem_cons_self .., by decide⟩, by decide, by decide, by decide, by decide, by decide, by decide,
    by decide, by decide, by decide⟩

theorem witness_cswap_swaps : let q := tRegs [(1, 0x02020000)]
    SoloTurn (tSeq q) 0 (tLease q) [1] ∧ q.op = .none ∧ q.saved = none ∧ xpois q 1 = false ∧ xpois { q with xp := [1] } 1 = true ∧
      SoloTurn (tSeq { q with op := .cswap [] true false [] }) 0 (tLease { q with op := .cswap [] true false [] }) [1] ∧
      SoloTurn (tSeq { q with op := .cswap [1] true false [] }) 0 (tLease { q with op := .cswap [1] true false [] }) [1] ∧
      (tLease q).claim = false :=
  ⟨tSeq_solo _ _ (by decide), rfl, rfl, by decide, by decide, tSeq_solo _ _ (by decide), tSeq_solo _ _ (by decide), rfl⟩

theorem witness_go_waitd_drain : let ls := tLease (tRegs [])
    SoloTurn (tWith ls) 0 ls [1, 2] ∧ ls.rootGo = false ∧ ls.roots ≤ 1 ∧ 1 < { ls with roots := 2 }.roots ∧ ls.seq.donecnt = 0 ∧
      0 < { tRegs [] with donecnt := 1 }.donecnt ∧ ls.seq.saved = none ∧ ls.seq.op = .none ∧ ls.phStarted = false ∧ ls.round = none ∧
      (∀ m, m < 4 → ∃ v : Nat, (xget (tRegs [(2, v)]) 2).toNat % 4 = m) ∧
      roundDone (tTile 1 (tPlane []) { tCtx [] with entered := some 1 }) 1 = true ∧ roundDone (tTile 1 (tPlane []) (tCtx [])) 1 = false :=
  ⟨tTurn _ rfl rfl (by decide) rfl, rfl, by decide, by decide, rfl, by decide, rfl, rfl, rfl, rfl,
    fun m h => ⟨m, by interval_cases m <;> decide⟩, by decide +kernel, by decide +kernel⟩

/-- A copy of 64 bytes from 0x1000 to 0x2000: header, source and destination. -/
def tCopyDesc : List Byte := leBytes 8 64 ++ leBytes 8 0 ++ leBytes 8 (2 ^ 60 + 0x1000) ++ leBytes 8 64 ++ leBytes 8 (2 ^ 60 + 0x2000) ++
  leBytes 8 64

/-- A descriptor reads and is well formed. -/
def tEngOk : EngRes → Bool
  | .ok _ _ => true
  | _ => false

theorem witness_engines_issue_and_ewait : let q := tRegs [(2, 0x200), (3, 0x40)]
    let s := tPaged q tCopyDesc
    (∃ ls, leaseOf s 0 = some ls ∧ SoloTurn s 0 ls [1, 2, 3] ∧ ls.seq.op = .none ∧ ls.engines.length < 64) ∧ 0x200 % 16 = 0 ∧
      0x40 % 16 = 0 ∧ tEngOk (rdCopy s 0 0x200) = true ∧ tEngOk (rdCopy s 0 0x210) = false ∧
      mfind { tLease q with tstat := [(5, 2)] }.tstat 5 = some 2 ∧ mfind (tLease q).tstat 5 = none ∧ 0x40 < 2 ^ 56 :=
  ⟨⟨_, rfl, tTurn _ rfl rfl (by decide) rfl, rfl, by decide⟩, by decide, by decide, by decide +kernel, by decide +kernel, by decide,
    by decide, by decide⟩

/-- A launch record reads. -/
def tRecOk (s : State) (va : Nat) (tiles : Nat) : Bool :=
  match readRec s 0 va with
  | .ok r s1 => decide (4 * r.w * r.h + r.reserve = tiles) &&
      decide ((leaseOf s1 0).map (fun ls => ls.seq.pc) = (leaseOf s 0).map fun ls => ls.seq.pc)
  | _ => false

/-- A record of one granule; a tenant with and without quota left; all child numbers free, and all taken but 255; reserves of 3 and 4. -/
theorem witness_launch_and_join : let q := tRegs [(2, 0x200)]
    let s := tPaged q (leBytes 8 0x4000 ++ leBytes 8 (2 ^ 8 + 2 ^ 16) ++ List.replicate 112 0)
    let kids : List (Nat × Child) := (List.range 254).map fun j => (j + 1, ⟨none, none, false, 4⟩)
    (∃ ls, leaseOf s 0 = some ls ∧ SoloTurn s 0 ls [1, 2] ∧ ls.seq.op = .none ∧ freeChild ls = some 1 ∧ ls.lrec.reserve < 4 * 1 * 1) ∧
      xpois q 2 = false ∧ xpois { q with xp := [2] } 2 = true ∧ 0x200 % 64 = 0 ∧ 0x220 % 64 ≠ 0 ∧ tRecOk s 0x200 4 = true ∧
      (vfOf s 0).tquota < (vfOf s 0).tused + 4 * 1 * 1 + 0 ∧
      (vfOf { s with vfs := [(0, { Vf.zero with tquota := 4 })] } 0).tused + 4 * 1 * 1 + 0 ≤ (vfOf { s with vfs := [(0, { Vf.zero with tquota := 4 })] } 0).tquota ∧
      freeChild { tLease q with children := kids } = some 255 ∧
      freeChild { tLease q with children := kids ++ [(255, ⟨none, some 0, false, 4⟩)] } = none ∧
      reserveLeft { tLease q with lrec := { Rec.blank with reserve := 4 } } = 4 ∧
      reserveLeft { tLease q with
        lrec := { Rec.blank with reserve := 4 }
        children := [(1, ⟨none, none, true, 4⟩)] } < 4 ∧
      mfind (tLease q).children 5 = none :=
  ⟨⟨_, rfl, tTurn _ rfl rfl (by decide) rfl, rfl, by decide +kernel, by decide⟩, by decide, by decide, by decide, by decide,
    by decide +kernel, by decide +kernel, by decide +kernel, by decide +kernel, by decide +kernel, by decide +kernel, by decide +kernel, by decide⟩

/-! ### States that meet the hypotheses of the statements: words of elements -/

/-- The tile of `tElem`. -/
def tX (p : Plane) (c : Ctx) : Tile :=
  { Tile.zero with
    act := p
    ctx := [(0, c)] }

/-- The firing of `tCtx`. -/
def tFi : Firing := ⟨0, 0, [], [], 0, .none, false⟩

/-- Context 0 of tile `t` has its turn. -/
theorem tElem_turn (t : Nat) (p : Plane) (c : Ctx) (h : c.fire = some tFi) : ElemTurn (tElem t p c) 0 t 0 (tTile t p c) (tX p c) tFi := by
  have hl : leaseOf (tElem t p c) 0 = some (tTile t p c) := by simp [leaseOf, tElem, mfind]
  have ht : tileOf (tTile t p c) t = some (tX p c) := by simp [tileOf, tTile, oneTile, mfind, tX]
  have hc : ctxOf (tX p c) 0 = c := by simp [ctxOf, tX, mget, mfind]
  exact ⟨rfl, hl, ht, by rw [hc, h]⟩

/-- A context with tokens in V1 and V2, one token at port I0, and V3 poisoned. -/
def tOps : Ctx :=
  { tCtx [(1, tTok 32 [5]), (2, tTok 32 [6]), (3, { Tok.zero with pois := 1 })] with ins := [(0, ⟨[tTok 32 [7]], 0⟩)] }

/-- Operands from registers, a port, K, LANE and zero, with a register or the output port as destination. -/
theorem tLanes (ty : ETy) (d : Dst) (srcs : List Src) (ts : List Tok) (hd : d = .v 15 ∨ d = .o 0)
    (h : srcToks (tX (tPlane [7]) tOps) 0 tOps tFi ty srcs = .ok ts) :
    LaneReady (tElem 1 (tPlane [7]) tOps) 0 1 0 (tTile 1 (tPlane [7]) tOps) (tX (tPlane [7]) tOps) tFi ty d srcs ts := by
  refine ⟨tElem_turn _ _ _ rfl, ?_, ?_, h⟩
  · obtain rfl | rfl := hd <;> decide +kernel
  · obtain rfl | rfl := hd <;> decide +kernel

/-- Registers and the port's token as sources, at both destinations; operands of every other form. -/
theorem witness_integer_lanes :
    LaneReady (tElem 1 (tPlane [7]) tOps) 0 1 0 (tTile 1 (tPlane [7]) tOps) (tX (tPlane [7]) tOps) tFi .i32 (.v 15) [.v 1, .i 0]
      [tTok 32 [5], tTok 32 [7]] ∧
    LaneReady (tElem 1 (tPlane [7]) tOps) 0 1 0 (tTile 1 (tPlane [7]) tOps) (tX (tPlane [7]) tOps) tFi .i64 (.o 0) [.v 1, .i 0]
      [tTok 32 [5], tTok 32 [7]] ∧
    LaneReady (tElem 1 (tPlane [7]) tOps) 0 1 0 (tTile 1 (tPlane [7]) tOps) (tX (tPlane [7]) tOps) tFi .u32 (.v 15) [.v 15, .v 1, .zero]
      [Tok.zero, tTok 32 [5], Tok.zero] :=
  ⟨tLanes _ _ _ _ (.inl rfl) (by decide +kernel), tLanes _ _ _ _ (.inr rfl) (by decide +kernel), tLanes _ _ _ _ (.inl rfl) (by decide +kernel)⟩

theorem witness_bit_and_move_lanes :
    LaneReady (tElem 1 (tPlane [7]) tOps) 0 1 0 (tTile 1 (tPlane [7]) tOps) (tX (tPlane [7]) tOps) tFi .i8 (.v 15) [.v 1, .k]
      [tTok 32 [5], kTok (tPlane [7]) 0] ∧
    LaneReady (tElem 1 (tPlane [7]) tOps) 0 1 0 (tTile 1 (tPlane [7]) tOps) (tX (tPlane [7]) tOps) tFi .i16 (.o 0) [] [] ∧
    LaneReady (tElem 1 (tPlane [7]) tOps) 0 1 0 (tTile 1 (tPlane [7]) tOps) (tX (tPlane [7]) tOps) tFi .f32 (.v 15) [.v 15, .v 1, .v 2]
      [Tok.zero, tTok 32 [5], tTok 32 [6]] :=
  ⟨tLanes _ _ _ _ (.inl rfl) (by decide +kernel), tLanes _ _ _ _ (.inr rfl) (by decide +kernel), tLanes _ _ _ _ (.inl rfl) (by decide +kernel)⟩

theorem witness_float_lanes : tyF .bf16 = some Sys2Proof.Machine.bf16 ∧ tyF .f32 = some Sys2Proof.Machine.f32 ∧
    LaneReady (tElem 1 (tPlane [7]) tOps) 0 1 0 (tTile 1 (tPlane [7]) tOps) (tX (tPlane [7]) tOps) tFi .bf16 (.o 0) [.lane, .v 1]
      [laneTok .bf16, tTok 32 [5]] :=
  ⟨rfl, rfl, tLanes _ _ _ _ (.inr rfl) (by decide +kernel)⟩

/-- A finite value, a quiet and a signalling NaN, both zeros; operands of the four words. -/
theorem witness_rounding_and_conversions : decF Sys2Proof.Machine.f32 0x3F800000 = .fin false (2 ^ 23) (-23) ∧
    decF Sys2Proof.Machine.f32 0x7FC00000 = .nan false ∧ decF Sys2Proof.Machine.f32 0x7F800001 = .nan true ∧
    (∃ e, decF Sys2Proof.Machine.f32 0x80000000 = .fin true 0 e) ∧ convMode (tX (tPlane [7]) tOps) ≠ .sr ∧
    (LaneReady (tElem 1 (tPlane [7]) tOps) 0 1 0 (tTile 1 (tPlane [7]) tOps) (tX (tPlane [7]) tOps) tFi .f32 (.v 15) [.i 0] [tTok 32 [7]]) ∧
    (LaneReady (tElem 1 (tPlane [7]) tOps) 0 1 0 (tTile 1 (tPlane [7]) tOps) (tX (tPlane [7]) tOps) tFi .f16 (.o 0) [.v 1, .v 2]
      [tTok 32 [5], tTok 32 [6]]) :=
  ⟨by decide +kernel, by decide +kernel, by decide +kernel, ⟨_, rfl⟩, by decide +kernel, tLanes _ _ _ _ (.inl rfl) (by decide +kernel),
    tLanes _ _ _ _ (.inr rfl) (by decide +kernel)⟩

/-- The mask operand of PSET clean and poisoned. -/
theorem witness_reductions_and_permutes :
    (LaneReady (tElem 1 (tPlane [7]) tOps) 0 1 0 (tTile 1 (tPlane [7]) tOps) (tX (tPlane [7]) tOps) tFi .i32 (.v 15) [.v 1, .v 2]
      [tTok 32 [5], tTok 32 [6]]) ∧
    (LaneReady (tElem 1 (tPlane [7]) tOps) 0 1 0 (tTile 1 (tPlane [7]) tOps) (tX (tPlane [7]) tOps) tFi .i32 (.v 15) [.v 1, .v 3]
      [tTok 32 [5], { Tok.zero with pois := 1 }]) ∧
    (LaneReady (tElem 1 (tPlane [7]) tOps) 0 1 0 (tTile 1 (tPlane [7]) tOps) (tX (tPlane [7]) tOps) tFi .i16 (.o 0) [.lane] [laneTok .i16]) ∧
    Tok.zero.pois.getLsbD 0 = false ∧ ({ Tok.zero with pois := 1 } : Tok).pois.getLsbD 0 = true :=
  ⟨tLanes _ _ _ _ (.inl rfl) (by decide +kernel), tLanes _ _ _ _ (.inl rfl) (by decide +kernel), tLanes _ _ _ _ (.inr rfl) (by decide +kernel),
    by decide, by decide⟩

/-- K holds q = 7 in pair 0, in range; q = 0 is not; reduced operands; 49 = 4^3 / 7 rounded down is 9;
K clean and damaged. -/
theorem witness_modular_lanes :
    LaneReady (tElem 1 (tPlane [7]) tOps) 0 1 0 (tTile 1 (tPlane [7]) tOps) (tX (tPlane [7]) tOps) tFi .i64 (.v 15) [.v 1, .v 2]
      [tTok 32 [5], tTok 32 [6]] ∧ elemAt 64 (kTok (tPlane [7]) 0).data 0 = 7 ∧ elemAt 64 (kTok (tPlane []) 0).data 0 = 0 ∧
    LaneReady (tElem 1 (tPlane [7]) tOps) 0 1 0 (tTile 1 (tPlane [7]) tOps) (tX (tPlane [7]) tOps) tFi .i64 (.o 0) [.v 1, .v 2]
      [tTok 32 [5], tTok 32 [6]] ∧ (14 : BitVec 4).toNat < 15 ∧ activeOf tOps none = allLanes ∧ (9 : Nat) = 4 ^ (Nat.log2 7 + 1) / 7 ∧
    kBad (tX (tPlane [7]) tOps) tFi = false ∧ kBad (tX { tPlane [7] with bad := [hKbase (tPlane [7]) 0] } tOps) tFi = true :=
  ⟨tLanes _ _ _ _ (.inl rfl) (by decide +kernel), by decide +kernel, by decide +kernel, tLanes _ _ _ _ (.inr rfl) (by decide +kernel),
    by decide, by decide, by decide +kernel, by decide +kernel, by decide +kernel⟩

/-- A V tile's context with port I0 and O0 bound. Waits that pass, that do not, and counts beyond the depth of 4; an EOS at hand, sent and
not sent; room and none. -/
theorem witness_port_words : let c (q : List Tok) : Ctx := { tCtx [] with ins := [(0, ⟨q, 0⟩)] }
    let x (q : List Tok) : Tile := tX (tPlane []) (c q)
    let t4 : List Tok := [Tok.zero, Tok.zero, Tok.zero, Tok.zero]
    ElemTurn (tElem 1 (tPlane []) (c t4)) 0 1 0 (tTile 1 (tPlane []) (c t4)) (x t4) tFi ∧
      bound (tPlane []) 0 0 = true ∧ bound (tPlane []) 0 1 = false ∧ bound (tPlane []) 0 8 = true ∧ bound (tPlane []) 0 9 = false ∧
      depth (tPlane []) 0 0 = 4 ∧ depth (tPlane []) 0 8 = 4 ∧ (t4.take 4).length = 4 ∧ (t4.take 3).length ≠ 4 ∧
      isData eosTok = false ∧ dataAhead (inPort (c t4) 0).q = 4 ∧ dataAhead (inPort (c [Tok.zero]) 0).q < 2 ∧
      outFree (tPlane []) (c t4) 0 0 = 4 ∧ outFree (tPlane []) { c [] with outs := [(0, ⟨t4, 0, []⟩)] } 0 0 = 0 ∧
      nhas (c []).eosSent 0 = false ∧ nhas { c [] with eosSent := [0] }.eosSent 0 = true ∧ boundIn (tPlane []) 0 ≠ [] ∧
      srcTok (x t4) 0 (c t4) tFi .i32 (.v 2) = .ok Tok.zero ∧ dstBound (x t4) 0 (.v 3) = true ∧ dstFull (x t4) (c t4) 0 (.v 3) = false ∧
      t4[3]? = some Tok.zero ∧ (∀ w ∈ t4.take (3 + 1), isData w = true) ∧
      ((t4.take 2 ++ [eosTok]).take (31 + 1)).find? (fun w => !isData w) = some eosTok :=
  ⟨tElem_turn _ _ _ rfl, by decide +kernel⟩

/-- Targets at the window's ends and just outside; counts 1, 2 and -1 of LOOP; group entries with and without COUNT, of a named group;
rates met and not met. -/
theorem witness_firing_control_1 : let c := tCtx [(1, tTok 32 [1]), (2, tTok 32 [2]), (3, tTok 32 [2 ^ 32 - 1]), (4, { Tok.zero with pois := 1 })]
    let p : Plane := tPlane []
    ElemTurn (tElem 1 p c) 0 1 0 (tTile 1 p c) (tX p c) tFi ∧
      (hEntry p 0 : Int) ≤ 0 + 0 ∧ (0 : Int) + (99 : BitVec 11).toInt ≤ hWend p 0 ∧ ¬ ((0 : Int) + (100 : BitVec 11).toInt ≤ hWend p 0) ∧
      ¬ ((hEntry p 0 : Int) ≤ 0 + (BitVec.ofInt 11 (-1)).toInt) ∧
      srcTok (tX p c) 0 c tFi .i32 (.v 1) = .ok (tTok 32 [1]) ∧ laneAt (tTok 32 [1]).data 0 ≠ 0 ∧ laneAt Tok.zero.data 0 = 0 ∧
      (mget Tok.zero c.v 4).pois.getLsbD 0 = true ∧ (mget Tok.zero c.v 1).pois.getLsbD 0 = false ∧
      1 < (BitVec.ofNat 32 (laneAt (mget Tok.zero c.v 2).data 0)).toInt ∧ (BitVec.ofNat 32 (laneAt (mget Tok.zero c.v 3).data 0)).toInt ≤ 1 ∧
      (∀ g' gen, tFi.wait ≠ .gbar g' gen) ∧ (mget (⟨0, 0, 0⟩ : Group) (tTile 1 p c).groups (grpKey 1 9)).count = 0 ∧
      (∀ i, i < 8 → mget 0 tFi.adv i = hCR p 0 i) ∧ (∀ j, j < 4 → mget 0 tFi.pub j = hPR p 0 j) ∧ gated p 0 = false ∧ tFi.noRate = false :=
  ⟨tElem_turn _ _ _ rfl, by and_intros <;> first | decide +kernel | exact fun _ _ h => nomatch h⟩

/-- A context that names group 9 and is gated by go with handler 0 as its last; a go with one and with two rounds left; a rate that is
owed. A poisoned lane 0, every kind of control register, on a V tile and on an A tile. -/
theorem witness_firing_control_2 : let p : Plane := { tPlane [] with eb := [(1, BitVec.ofNat 32 (2 ^ 31 + 2 ^ 23)), (2, 9)] }
    let c : Ctx := { tCtx [] with
      goOpen := true
      goLeft := 2 }
    let ls : Lease := { tTile 1 p c with groups := [(9, ⟨2, 1, 4⟩)] }
    9 ∈ ctxGroups p 0 ∧ (mget (⟨0, 0, 0⟩ : Group) ls.groups (grpKey 1 9)).count ≠ 0 ∧ (mget (⟨0, 0, 0⟩ : Group) ls.groups (grpKey 1 9)).gen = 4 ∧
      (⟨.arrival, 1, 0, 9⟩ : Msg) ∉ ls.msgs ∧ gated p 0 = true ∧ c.goOpen = true ∧ tFi.h = doneH p 0 ∧ c.goCnt + 1 < c.goLeft ∧
      { c with goCnt := 1 }.goLeft ≤ { c with goCnt := 1 }.goCnt + 1 ∧
      mget 0 { tFi with adv := [(0, 1)] }.adv 0 ≠ hCR p 0 0 ∧ { tFi with adv := [(0, 1)] }.noRate = false ∧
      kindOf ls 1 ≠ 3 ∧ kindOf ls 3 = 3 ∧ hCtx p 0 = 0 ∧ dstBound (tX p c) 0 (.o 0) = true ∧ dstFull (tX p c) c 0 (.o 0) = false ∧
      srcTok (tX p c) 0 c tFi .i32 .zero = .ok Tok.zero ∧
      srcTok (tX p tOps) 0 tOps tFi .i32 (.v 3) = .ok { Tok.zero with pois := 1 } ∧
      cregAssigned 9 = true ∧ cregAssigned 10 = false := by decide +kernel

theorem witness_element_fault_freezes : ElemTurn (tElem 1 (tPlane []) tOps) 0 1 0 (tTile 1 (tPlane []) tOps) (tX (tPlane []) tOps) tFi ∧
    1 < replicaBase ∧ replicaBase ≤ replicaBase + 1 := ⟨tElem_turn _ _ _ rfl, by decide, by decide⟩

/-- An A tile. Descriptors clean, poisoned and with reserved bits; addresses at the top of tenant space; a gather with no lane, with lane 0
alone; a strided descriptor; chained and free extensions; a block of 22 bytes; an acquire and a release; a view that is not open. -/
theorem witness_address_tile_words : let v : List (Nat × Tok) := [(0, tTok 32 (List.replicate 24 (2 ^ 32 - 1))), (1, tTok 64 [2 ^ 56 - 96]),
      (2, tTok 32 [0, 2 ^ 24]), (3, { Tok.zero with pois := 2 }), (4, tTok 32 ([0, 0, 1] ++ List.replicate 21 0)), (5, tTok 64 [2 ^ 56])]
    let c := tCtx v
    let x := tX (tPlane []) c
    let ls := tTile 3 (tPlane []) c
    ElemTurn (tElem 3 (tPlane []) c) 0 3 0 ls x tFi ∧ (∀ i, tFi.wait ≠ .mem i) ∧ dstBound x 0 (.v 9) = true ∧ dstFull x (ctxOf x 0) 0 (.v 9) = false ∧
      postedOf (tElem 3 (tPlane []) c) 0 3 < 64 ∧ nsrcPois x c tFi none = false ∧
      nsrcPois x c tFi (some ⟨true, 1, 0, .panel, 0, 28⟩) = false ∧ nsrcPois x c tFi (some ⟨true, 1, 3, .sys, 0, 3⟩) = false ∧
      nsrcPois x { c with v := [(3, { Tok.zero with pois := 1 })] } tFi (some ⟨true, 1, 3, .sys, 0, 3⟩) = true ∧
      nsrcBad x tFi none = false ∧ nsrcBad x tFi (some ⟨true, 1, 0, .panel, 0, 28⟩) = false ∧
      srcTok x 0 c tFi .i32 (.v 1) = .ok (tTok 64 [2 ^ 56 - 96]) ∧ pair0P (tTok 64 [2 ^ 56 - 96]) = false ∧
      (pair0 (tTok 64 [2 ^ 56 - 96]) % 4 = 0 ∧ pair0 (tTok 64 [2 ^ 56 - 96]) + 96 ≤ 2 ^ 56) ∧
      viewCheck ls (extView none) .rd = none ∧ (viewCheck ls (extView (some ⟨true, 1, 3, .sys, 5, 3⟩)) .rd).isSome = true ∧ viewCheck ls (extView none) .wr = none ∧
      laneAt (tTok 32 [0, 2 ^ 24]).data 1 / 2 ^ 24 ≠ 0 ∧ laneAt Tok.zero.data 1 / 2 ^ 24 = 0 ∧ laneAt Tok.zero.data 23 / 2 ^ 10 = 0 ∧
      srcToks x 0 c tFi .i32 [.v 0, .v 1] = .ok [tTok 32 (List.replicate 24 (2 ^ 32 - 1)), tTok 64 [2 ^ 56 - 96]] ∧
      gathChecks ls x c tFi none .rd (tTok 32 (List.replicate 24 (2 ^ 32 - 1))) (tTok 64 [2 ^ 56 - 96]) none = none ∧
      gathChecks ls x c tFi none .wr (tTok 32 ([0, 0, 1] ++ List.replicate 21 0)) Tok.zero none = none ∧
      gathChecks ls x c tFi none .rd Tok.zero Tok.zero (some 4) = none ∧
      gathChecks ls x c tFi none .rd { Tok.zero with pois := 4 } Tok.zero none = some (cPADDR, 0, false) ∧ (some 7#4 : Bfp).isSome = true ∧
      pair0 (tTok 64 [2 ^ 56]) = 2 ^ 56 ∧ ls.paired = false ∧ Scope.lease ≠ .sys ∧ x.ord.outR = [] ∧ x.ord.outW = [] ∧
      aChecks ls 0 .rd true (((genLanes c.adesc (ctrVal x) 0).zipIdx).filterMap fun p => p.1.map fun a => a) 4 (fun _ => false) = none ∧
      ([-4, 2 ^ 56] : List Int).find? (fun a => true && decide (a % 4 ≠ 0)) = none ∧
      ([0, 2 ^ 56 - 2] : List Int).find? (fun a => true && decide (a % 4 ≠ 0)) = some (2 ^ 56 - 2) ∧
      ([0, 2 ^ 56 - 95] : List Int).find? (fun a => decide (a < 0 ∨ 2 ^ 56 < a + 96 ∨ 2 ^ 56 ≤ a)) = some (2 ^ 56 - 95) ∧
      ([0, 2 ^ 56 - 96] : List Int).find? (fun a => decide (a < 0 ∨ 2 ^ 56 < a + 96 ∨ 2 ^ 56 ≤ a)) = none ∧
      (gathLanes Tok.zero 0 none).find? (fun q => ({ Tok.zero with pois := 4 } : Tok).pois.getLsbD q.1) = some (2, 0) ∧
      gathChecks ls x c tFi none .rd { tTok 32 ([0, 0, 2 ^ 32 - 1] ++ List.replicate 21 0) with pois := 4 } Tok.zero none = none ∧
      ({ x.ord with ports := [3] } : OrdSt).ports ≠ [] ∧ x.ord.ports = [] ∧
      { OrdSt.zero with outR := [7] }.outR ≠ [] ∧ (8 : BitVec 4).getLsbD 3 = true :=
  ⟨tElem_turn _ _ _ rfl, (fun _ h => nomatch h), by decide +kernel⟩

/-- An S tile. Loads and stores at the last 96 bytes of its own store; all lanes skipped, and one lane; arrivals with and without a
group that the context names. -/
theorem witness_storage_tile_words : let p : Plane := { tPlane [] with eb := [(1, BitVec.ofNat 32 (2 ^ 23)), (2, 9)] }
    let c := tCtx [(0, tTok 32 [2 ^ 20 - 96]), (1, tTok 32 (List.replicate 24 (2 ^ 32 - 1))), (2, tTok 32 [16, 9])]
    let x := tX p c
    let ls : Lease := { tTile 2 p c with groups := [(9, ⟨2, 0, 0⟩)] }
    let ok (r : Except (Nat × Nat × Bool) (List Part)) : Bool := match r with
      | .ok _ => true
      | .error _ => false
    ElemTurn (tElem 2 p c) 0 2 0 (tTile 2 p c) x tFi ∧ (∀ i, tFi.wait ≠ .mem i) ∧ dstBound x 0 (.v 9) = true ∧ dstFull x (ctxOf x 0) 0 (.v 9) = false ∧
      postedOf (tElem 2 p c) 0 2 < 64 ∧ nsrcPois x (ctxOf x 0) tFi none = false ∧ nsrcBad x tFi none = false ∧
      srcTok x 0 c tFi .i32 (.v 0) = .ok (tTok 32 [2 ^ 20 - 96]) ∧
      ok (sChecks ls x 2 none .rd 4 96 true [(0, 2 ^ 20 - 96)]) = true ∧ ok (sChecks ls x 2 none .wr 4 96 true [(0, 2 ^ 20 - 96)]) = true ∧
      ok (sChecks ls x 2 none .rd 4 96 true [(0, 2 ^ 20 - 92)]) = false ∧ ok (sChecks ls x 2 none .rw 4 4 true []) = true ∧
      ok (sChecks ls x 2 none .rw 4 4 true [(3, 8)]) = true ∧ ok (sChecks ls x 2 none .rw 16 16 true [(0, 16)]) = true ∧
      ok (sChecks ls x 2 none .rd 16 16 true [(0, 16)]) = true ∧ 9 ∈ ctxGroups p 0 ∧
      (mget (⟨0, 0, 0⟩ : Group) ls.groups (grpKey 2 9)).count ≠ 0 ∧ laneAt (tTok 32 [16, 9]).data 1 % 256 = 9 ∧
      grpBusy (tElem 2 p c) 0 2 0 9 (.tile 2 16) = false :=
  ⟨tElem_turn _ _ _ rfl, (fun _ h => nomatch h), by decide +kernel⟩

/-- An M tile. A column at 191 and one beyond; sixteen K-blocks from a port, one from a register; K0 + NM1 at 15. -/
theorem witness_matrix_words : let c : Ctx := { tCtx [(1, tTok 32 [5]), (2, tTok 32 [15 + 191 * 16]), (3, tTok 32 [192 * 16]), (4, tTok 32 [15]),
      (5, tTok 32 [12 + 3 * 16])] with ins := [(0, ⟨[tTok 32 [1], tTok 32 [2], tTok 32 [3], tTok 32 [4]], 0⟩)] }
    let x := tX (tPlane []) c
    let ok (r : Except OpErr (List Tok)) : Bool := match r with
      | .ok _ => true
      | .error _ => false
    ElemTurn (tElem 0 (tPlane []) c) 0 0 0 (tTile 0 (tPlane []) c) x tFi ∧
      srcToks x 0 c tFi .i32 [.v 1, .v 2] = .ok [tTok 32 [5], tTok 32 [15 + 191 * 16]] ∧
      laneAt (tTok 32 [15 + 191 * 16]).data 0 / 16 % 256 = 191 ∧ 191 < laneAt (tTok 32 [192 * 16]).data 0 / 16 % 256 ∧
      bound (tPlane []) 0 0 = true ∧ ok (aBlocks x 0 c tFi (.i 0) 4) = true ∧ ok (aBlocks x 0 c tFi (.v 1) 1) = true ∧
      laneAt (tTok 32 [12 + 3 * 16]).data 0 % 16 + laneAt (tTok 32 [12 + 3 * 16]).data 0 / 16 % 16 ≤ 15 ∧
      laneAt (tTok 32 [15]).data 0 / 16 % 16 = 0 ∧ dstBound x 0 (.v 9) = true ∧ dstFull x (ctxOf x 0) 0 (.v 9) = false ∧
      srcToks x 0 c tFi .i32 [] = .ok [] :=
  ⟨tElem_turn _ _ _ rfl, by decide +kernel⟩

/-! ### States that meet the hypotheses of the statements: host registers, memory, versions -/

/-- Dwords stand in device memory. -/
def tDw (s : State) (l : List (Nat × Nat)) : State :=
  l.foldl (fun s e => memWr s e.1 (leBytes 8 e.2) (List.replicate 8 false)) s

/-- Tenant 0 owns the first MiB: stage 2 is the identity, from a table at 0x8000. Its tree at 0x4000 maps the first 64 KiB of tenant space to
GPA 0 on, and the next 64 KiB by radix tables at 0x5000, 0x6000 and 0x7000. -/
def tGuest : State :=
  { tDw State.reset [(0x8000, 2 ^ 63 + 2 ^ 62 + 2 ^ 61), (0x8008, 0x100000), (0x4000, 0xB7E3 * 2 ^ 48 + 2 * 2 ^ 8 + 2), (0x4018, 0x20000),
      (0x4040, 2 ^ 56), (0x4048, 3 * 2 ^ 56 + 0x10000), (0x4080, 3 * 2 ^ 56 + 0x10000), (0x4088, 3 * 2 ^ 56 + 0x10000), (0x4090, 0x5000),
      (0x5000, 2 ^ 63 + 0x6000), (0x6000, 2 ^ 63 + 0x7000)] with
    vfs := [(0, { Vf.zero with
      root := BitVec.ofNat 64 (2 ^ 63 + 0x4000)
      s2base := BitVec.ofNat 64 (2 ^ 63 + 2 ^ 48 + 0x8000) })]
    tenantChecks := [⟨0, 0x100000, 0⟩] }

/-- BASE, LEN and TENANT of a memory command. -/
def tArgs (b n t : Nat) (s : State) : State :=
  { s with
    marg0 := BitVec.ofNat 64 b
    marg1 := BitVec.ofNat 64 n
    marg2 := BitVec.ofNat 64 t }

/-- Ranges of one site block at the end of HBM, of 0 blocks, and beyond; tenants 255 and 256; a full table, a foreign overlap, a table that
holds the range; two blocks of scratch at the end of die 0's scratch; GO set. -/
theorem witness_memory_commands : let s := State.reset
    let u := 160 * 4096
    hbmEnd s.boot = 160 * stackCap 1 ∧ (hbmEnd s.boot - u) % u = 0 ∧ hbmEnd s.boot - u + u ≤ hbmEnd s.boot ∧ s.mcmd.getLsbD 63 = false ∧
      { s with mcmd := BitVec.ofNat 64 (2 ^ 63) }.mcmd.getLsbD 63 = true ∧ (tArgs 0 u 3 s).marg0.toNat = 0 ∧
      (tArgs u u 255 s).marg2.toNat % 2 ^ 12 < 256 ∧ ¬ (tArgs u u 256 s).marg2.toNat % 2 ^ 12 < 256 ∧ ¬ 512 ≤ s.tenantChecks.length ∧
      512 ≤ (List.replicate 512 (⟨0, u, 3⟩ : Grant)).length ∧ (∃ g ∈ [(⟨2 * u - 1, u, 4⟩ : Grant)], g.tenant ≠ 3 ∧ g.base < u + u ∧ u < g.base + g.len) ∧
      (∃ g ∈ [(⟨u, u, 3⟩ : Grant)], g.base = u ∧ g.len = u) ∧ (∀ g ∈ [(⟨u, 2 * u, 3⟩ : Grant)], ¬ (g.base = u ∧ g.len = u)) ∧
      inScratch s.boot (scratchBase + scratchSize - 4096) = true ∧ (scratchBase + scratchSize - 4096) % 2048 = 0 ∧
      scratchBase + scratchSize - 4096 + 4096 ≤ scratchBase + scratchSize ∧ 0x3000 % 4096 = 0 ∧ 0x2800 % 4096 ≠ 0 := by decide +kernel

/-- The last function; rings disabled and of 2 entries, with tails at and beyond the ring. -/
theorem witness_function_registers : 255 < 256 ∧ (vfOf State.reset 255).pool.toNat % 2 ^ 5 = 0 ∧
    ((1 : Word).toNat + 2 ^ 32 - (vfOf State.reset 255).phead) % 2 ^ 32 = 1 ∧
    ((2 : Word).toNat + 2 ^ 32 - { Vf.zero with pool := 1 }.phead) % 2 ^ 32 ≤ 2 ∧ 2 < ((3 : Word).toNat + 2 ^ 32 - 0) % 2 ^ 32 := by decide +kernel

/-- A parsed queue record with 16 entries. -/
def tQrec : QRec := ⟨0x1000, 0x2000, 0x10000, 0x20000, 1, 1, 4⟩

/-- A queue record in tenant memory at 0x200. -/
def tQueue (s : State) : State := tDw s [(0x200, 0x1000), (0x208, 0x2000), (0x210, 0x10000), (0x218, 0x20000), (0x220, 2 ^ 16 + 2 ^ 8 + 4)]

/-- What reading a queue record answers. -/
def tQr : QRead → Option Bool
  | .ok _ _ _ _ => some true
  | .bad _ _ => some false
  | .wait _ => none

/-- Queue 7 in every place of switching, assigned and not, a duplicate of it, no place left; tails at and beyond the ring; records that
read, and that do not. -/
theorem witness_queue_registers : let s : State := { State.reset with queues := [(7, { Queue.zero with
      v := true
      vf := 3
      loc := 2 })] }
    let at_ (st : QSt) (b : Bool) : Queue := { Queue.zero with
      v := true
      st := st
      busy := b }
    4095 < 4096 ∧ (∃ e ∈ s.queues, e.1 ≠ 9 ∧ e.2.v = true ∧ e.2.vf = (2 ^ 63 + 3 * 2 ^ 32 + 2 * 2 ^ 16) / 2 ^ 32 % 2 ^ 8 ∧
        e.2.loc = (2 ^ 63 + 3 * 2 ^ 32 + 2 * 2 ^ 16) / 2 ^ 16 % 2 ^ 8) ∧
      (¬ ∃ e ∈ s.queues, e.1 ≠ 7 ∧ e.2.v = true) ∧ (at_ .out true).busy = true ∧ (at_ .out false).st = .out ∧ (at_ .inn false).st = .inn ∧
      (s.queues.filter fun e => e.2.st != .out).length < 512 ∧
      512 ≤ (((List.range 512).map fun n => (n, at_ .inn false)).filter fun e => e.2.st != .out).length ∧
      queueOfVf s 3 2 = some (7, { Queue.zero with
        v := true
        vf := 3
        loc := 2 }) ∧ queueOfVf s 3 1 = none ∧ queueOf s 7 = { Queue.zero with
        v := true
        vf := 3
        loc := 2 } ∧
      ¬ 2 ^ tQrec.logrs < ((16 : Word).toNat + 2 ^ 32 - 0) % 2 ^ 32 ∧ 2 ^ tQrec.logrs < ((17 : Word).toNat + 2 ^ 32 - 0) % 2 ^ 32 ∧
      tQr (readQrec (tQueue tGuest) { Queue.zero with qrec := 0x200 }) = some true ∧
      tQr (readQrec tGuest { Queue.zero with qrec := 0x200 }) = some false ∧
      (let off : Queue := { Queue.zero with v := true, qrec := 0x200 }
       let g := { tQueue tGuest with queues := [(7, off)] }
       let on := updQueue g 7 fun q => { q with en := true, rd := .due }
       queueOfVf g 0 0 = some (7, off) ∧ off.en = false ∧ off = queueOf g 7 ∧ tQr (readQrec on (queueOf on 7)) = some true ∧
         (let busy := { g with queues := [(7, { off with st := .switchingIn, inn := true, rd := .done })] }
          (queueOf busy 7).st = .switchingIn ∧ (queueOf busy 7).rd = .done ∧ tQr (readQrec busy (queueOf busy 7)) = some true)) := by
  decide +kernel

/-- A fault token of lease 0 for the page behind the radix entry at 0x7000. -/
def tJob (st : JSt) : Job := ⟨0, 0, 0, 0x10000, .rd, 0x7000, true, false, false, none, st, 0, false⟩

/-- A host part under way, an atomic to the host, GO set and clear, a cached page in and outside the range, an ATS invalidation open, jobs
that wait for a PRI response and that are answered. -/
theorem witness_translation_control : let p : Part := { tPart 0 4 .new [1, 2, 3, 4] with loc := .host 0x40 }
    let s : State := { State.reset with
      reqs := [(5, tReq (.seq 0 false) .read p), (6, { tReq (.seq 0 false) (.atomic .add) p with stage := .withheld 9 })]
      leases := [(0, { tLease (tRegs []) with tlb := [(0, ⟨1, 3, 0, 0, true, true, true, 0, 0⟩), (3, ⟨1, 3, 0x30000, 0x30000, true, true, true, 0, 0⟩)] })]
      vfs := [(0, { Vf.zero with
        invctl := BitVec.ofNat 64 (2 ^ 63)
        atsOpen := true
        invPend := [5] })]
      jobs := [(9, tJob .priWait), (10, tJob (.answered true))] }
    (vfOf s 0).invctl.getLsbD 63 = true ∧ (vfOf s 1).invctl.getLsbD 63 = false ∧ (BitVec.ofNat 64 (2 ^ 63 + 3)).getLsbD 63 = true ∧
      (vfOf s 0).atsOpen = true ∧ (∃ id ∈ (vfOf s 0).invPend, (reqOf s id).map (·.stage) = some .sent) ∧ (vfOf s 1).invPend = [] ∧
      (mfind s.jobs 9).map (·.st) = some .priWait ∧ (mfind s.jobs 10).map (·.st) = some (.answered true) ∧ waitsAtRest s 10 = false ∧ waitsAtRest s 9 = false ∧ (tJob .priWait).lease ≠ 0xFFF ∧
      (reqOf s 5).map (fun r => r.parts[0]?) = some (some p) ∧ servable s 5 (tReq (.seq 0 false) .read p) p .new = true ∧
      (∀ id ∈ (vfOf s 0).atsPend, (reqOf s id).map (·.stage) ≠ some .sent) ∧ (BitVec.ofNat 64 3).getLsbD 63 = false := by decide +kernel

/-- What taking a frame answers. -/
def tFrame : FrameRes → Option (Option Nat)
  | .ok g _ => some (some g)
  | .none => some none
  | .bad _ => none

/-- The entry at 0x7000 zero (first touch), claimed, malformed, present, and of a page at the host; a ring of 2 entries at 0x9000 with a
frame, empty, and with a bad entry; an earlier fault that waits for a frame, and none; a leaf with PIN. -/
theorem witness_pager_steps : let j (st : JSt) : Job := tJob st
    let e (v : Nat) : State := tDw tGuest [(0x7000, v)]
    let ring (v : Nat) (t : Nat) : State := { tDw tGuest [(0x9000, v)] with vfs := [(0, { vfOf tGuest 0 with
      pool := BitVec.ofNat 64 (2 ^ 63 + 0x9000 + 1)
      ptail := t })] }
    mfind { tGuest with jobs := [(9, j .token)] }.jobs 9 = some (j .token) ∧ (j .waitB).st = .waitB ∧ (j .waitFrame).leaf = true ∧
      (jobEntry (e 0) (j .token)).map (·.1) = some 0 ∧ (jobEntry (e (2 ^ 60)) (j .token)).map (fun x => x.1.testBit 60) = some true ∧
      radixOk 3 (2 ^ 50) = false ∧ radixOk 3 0 = true ∧ radixOk 3 (2 ^ 62 + 0x3000) = true ∧ (2 ^ 63 : Nat).testBit 63 = true ∧
      (2 ^ 62 + 0x3000 : Nat).testBit 62 = true ∧ tFrame (takeFrame (ring 0x50000 1) 0) = some (some 0x50000) ∧
      tFrame (takeFrame (ring 0x50000 0) 0) = some none ∧ tFrame (takeFrame (ring 0x50001 1) 0) = none ∧
      (vfOf (ring 0x50000 1) 0).pool.getLsbD 63 = true ∧ (vfOf (ring 0x50000 1) 0).ptail ≠ (vfOf (ring 0x50000 1) 0).phead ∧
      ({ j .token with pin := true }.pin = true ∧ (j .token).pin = false) ∧ (j .copying).st = .copying ∧ { j .copying with frame := some 0x50000 }.frame = some 0x50000 ∧
      (∃ e ∈ [((8 : Nat), j .waitFrame)], e.2.tenant = (j .token).tenant ∧ e.2.st = .waitFrame ∧ (e.2.since < (j .token).since ∨
        (e.2.since = (j .token).since ∧ e.1 < 9))) ∧
      (match walkLoc tGuest 0 (vfOf tGuest 0) 0x50000 65536 .wr with
       | .ok _ => true
       | .error _ => false) = true := by decide +kernel

/-- Requests of lease 0 to a page that is cached, to one whose radix entry is absent, and to one that the tree does not cover. -/
theorem witness_memory_services_1 : let r (va : Nat) : Req := { tReq (.seq 0 false) .read { tPart 0 4 .new [] with
        va := va
        loc := .none } with stage := .issued }
    let s (va : Nat) : State := { tGuest with
      reqs := [(5, r va)]
      leases := [(0, tLease (tRegs []))] }
    let tr (va : Nat) : State × List (Part × Tr) := translateParts 0 .rd false (r va).parts (s va)
    (reqOf (s 0x100) 5 = some (r 0x100)) ∧ (leaseOf (s 0x100) 0 = some (tLease (tRegs []))) ∧ (tLease (tRegs [])).state = .run ∧
      (r 0x100).stage = .issued ∧ (r 0x100).op ≠ .pref ∧
      (tr 0x100).2.map (·.1.loc) = [.mem 0x100] ∧ (tr 0x100).2.all (fun e => e.2.isOk) = true ∧
      sliceFault (tr 0x100).1 (tLease (tRegs [])) (r 0x100) (tr 0x100).2 = none ∧
      (∀ p ∈ (tr 0x100).2.map (·.1), p.outside = false) ∧ (∃ p ∈ (tr 0x100).2.map (·.1), p.st ≠ .done) ∧
      ((tr 0x10004).2.find? fun e => !e.2.isOk).map (fun e => (e.1.va, decide (e.2 = .absent 0x7000 true false))) = some (0x10004, true) ∧
      sliceFault (tr 0x10004).1 (tLease (tRegs [])) (r 0x10004) (tr 0x10004).2 = none ∧ (leaseOf (tr 0x10004).1 0).isSome = true ∧
      (sliceFault (tr 0x20000).1 (tLease (tRegs [])) (r 0x20000) (tr 0x20000).2).map (fun e => (e.1, e.2.1.va)) = some (cTRANS, 0x20000) := by
  decide +kernel

/-- A part alone at its unit: hit and missed in the LLC, in an unscrubbed and in a scrubbed block, being zeroed, of a refused
tenant, at the first byte of die scratch, in a tile store; a copy that serves it. -/
theorem witness_memory_services_2 : let r (op : MOp) (st : PSt) (lc : Loc) : Req := tReq (.seq 0 false) op { tPart 0x1000 4 st [1, 2, 3, 4] with loc := lc }
    let s (op : MOp) (st : PSt) (lc : Loc) : State := { State.reset with
      reqs := [(5, r op st lc)]
      leases := [(0, tTile 2 (tPlane []) (tCtx []))]
      tenantChecks := [⟨0, 0x100000, 0⟩]
      scratchGrants := [⟨scratchBase, 4096, 0⟩] }
    let q := r .write .new (.mem 0x1000)
    let t := s .write .new (.mem 0x1000)
    reqOf t 5 = some q ∧ unitParts q 0 = [0] ∧ q.stage = .sent ∧ q.after = [] ∧ (0x1000 : Nat) < scratchBase ∧ dieHeld t q 0x1000 = false ∧
      q.flush = false ∧ heldLine t 5 q.iss (.mem 0x1000) = false ∧ tenantRefusal t q = none ∧
      (tenantRefusal { t with tenantChecks := [] } q).map (·.va) = some 0x5000 ∧
      unitScrubbed t 0 (.mem 0x1000) = false ∧ unitZeroing t 0 (.mem 0x1000) = false ∧ (∀ z ∈ t.zq, z.isAt 0 (unitLoc (.mem 0x1000)) = false) ∧
      unitClear { t with scrubbed := [1] } 0 (.mem 0x1000) = true ∧ unitOpen { t with scrubbed := [1] } 0 (.mem 0x1000) = true ∧
      unitOpen { t with scrubbed := [1], zeroing := [1] } 0 (.mem 0x1000) = false ∧ 0x1000 % 128 + 4 ≤ 128 ∧ llcHit t 0x1000 = false ∧
      llcHit (llcInstall t 0x1000) 0x1000 = true ∧ q.op ≠ .read ∧
      (copyFor { t with copies := [⟨0, 0, 32, 1, 0, 0⟩] } (r .read .new (.mem 0x1000)) 0x1000).isSome = true ∧
      (r .read .missed (.mem 0x1000)).parts[0]?.map (·.st) = some .missed ∧
      tenantRefusal (s .write .new (.mem scratchBase)) (r .write .new (.mem scratchBase)) = none ∧ scratchBase ≤ scratchBase ∧
      unitScrubbed t 0 (.mem scratchBase) = false ∧ dieHeld t q scratchBase = false ∧
      unitScrubbed t 0 (.tile 2 16) = false ∧ unitZeroing t 0 (.tile 2 16) = false ∧
      nhas { Tile.zero with scrubbed := [0] }.scrubbed (16 / 2048) = true := by decide +kernel

/-- A load, an atomic and an element access that are performed, of a lease that takes replies and of one that does not; a faulted posted
access of tile 1 and of a replica's tile; a read that waits at a peer. -/
theorem witness_memory_replies : let d : Part := tPart 0x1000 4 .done [1, 2, 3, 4]
    let perf (iss : Issuer) (op : MOp) (dst : RDst) : Req := { tReq iss op d with
      stage := .performed
      dst := dst }
    let q := { tRegs [] with
      pend := [(7, 5)]
      op := .amo 5 }
    let c := { tCtx [] with fire := some { tFi with wait := .mem 5 } }
    let s (r : Req) (st : LState) : State := { State.reset with
      reqs := [(5, r)]
      leases := [(0, { tTile 1 (tPlane []) c with
        seq := q
        state := st })] }
    let l1 := perf (.seq 0 false) .read (.x 7 4 false)
    reqOf (s l1 .run) 5 = some l1 ∧ takesReplies (s l1 .run) l1.iss = true ∧ takesReplies (s l1 .away) l1.iss = false ∧ l1.chain = none ∧
      l1.key = [] ∧ mfind q.pend 7 = some 5 ∧ (perf (.seq 0 false) (.atomic .cas) (.x 7 4 false)).op = .atomic .cas ∧ q.op = .amo 5 ∧
      ({ d with code := 2 }.code = 2 ∧ d.code ≠ 2) ∧ (ctxOf (tX (tPlane []) c) 0).fire = some { tFi with wait := .mem 5 } ∧
      (perf (.elem 0 1 0) .read (.tok (.v 3) 0 Tok.zero none)).dst = .tok (.v 3) 0 Tok.zero none ∧
      { l1 with
        stage := .faulted cPERM 0x5000 false
        iss := .elem 0 1 0
        posted := true }.posted = true ∧ (ctxOf (tX (tPlane []) c) 0).frozen = none ∧ 1 < replicaBase ∧
      (couplerOf { State.reset with couplers := [(3, { Coupler.zero with up := true })] } 3).up = true ∧
      { tReq (.seq 0 false) .read { d with
        loc := .peer 3 0x40
        st := .new } with stage := .sent }.parts[0]?.map (·.loc) = some (.peer 3 0x40) := by decide +kernel

/-- Reads and ordered requests of the open group, 1 and 32,767 groups ahead, and 32,768 ahead; 254 and 255 reads accepted; reads owed, done
and too many. -/
theorem witness_chain_trackers : let r (op : MOp) (st : RSt) (n rc : Nat) : Req := { tReq (.elem 0 3 0) op (tPart 0x1000 4 .new []) with
      stage := st
      chain := some ⟨2, n, rc, 0⟩ }
    let ls (t : Tracker) : Lease := { tLease (tRegs []) with trackers := [(2, t)] }
    let s (q : Req) (t : Tracker) : State := { State.reset with
      reqs := [(5, q)]
      leases := [(0, ls t)] }
    let dist (op : MOp) (n : Nat) : Nat := if op.isWrite then (n + 65536 - 1) % 65536 else (n + 1 + 65536 - 1) % 65536
    reqOf (s (r .read .chain 0 0) Tracker.zero) 5 = some (r .read .chain 0 0) ∧ leaseOf (s (r .read .chain 0 0) Tracker.zero) 0 = some (ls Tracker.zero) ∧
      trk (ls Tracker.zero) 2 = Tracker.zero ∧ dist .read 0 = 0 ∧ dist .read 1 = 1 ∧ dist .read 32767 = 32767 ∧ dist .read 32768 = 32768 ∧
      dist .write 1 = 0 ∧ dist .write 32768 = 32767 ∧ MOp.write.isWrite = true ∧ MOp.read.isWrite = false ∧ MOp.step.isWrite = true ∧
      (trk (ls ⟨1, 254, 0, false, 0, none⟩) 2).acc < 255 ∧ ¬ (trk (ls ⟨1, 255, 0, false, 0, none⟩) 2).acc < 255 ∧
      (trk (ls ⟨1, 3, 3, false, 0, none⟩) 2).done = 3 ∧ (trk (ls ⟨1, 3, 2, false, 0, none⟩) 2).done ≠ 3 ∧
      (trk (ls ⟨1, 3, 3, true, 0, some 5⟩) 2).busy = some 5 := by decide +kernel

/-- A sync word clean and poisoned, armed and not; a group whose last, and whose next to last member arrives; an atomic at its home. -/
theorem witness_sync_and_atomics : let p : Part := tPart 0x1000 16 .home []
    let r (op : MOp) : Req := tReq (.elem 0 2 1) op p
    let s (op : MOp) : State := { State.reset with
      reqs := [(5, r op)]
      leases := [(0, { tTile 2 (tPlane []) (tCtx []) with groups := [(9, ⟨2, 0, 0⟩)] })] }
    reqOf (s (.arrive 5)) 5 = some (r (.arrive 5)) ∧ (r (.arrive 5)).parts[0]? = some p ∧ servable (s (.arrive 5)) 5 (r (.arrive 5)) p .home = true ∧
      (syncWord (s (.arrive 5)) 0 (.mem 0x1000)).2 = false ∧ (syncWord { s (.arrive 5) with
        mpois := [128]
        scrubbed := [1] } 0 (.mem 0x1000)).2 = true ∧
      (mget (⟨0, 0, 0⟩ : Group) { tTile 2 (tPlane []) (tCtx []) with groups := [(9, ⟨2, 0, 0⟩)] }.groups 9).count = 2 ∧
      (({ Tile.zero with grecs := [⟨16, 9, [(2, 0)], 7, false⟩] }.grecs.filter fun (e : GRec) => !(e.off == 16 && e.g == 9)).length) < 8 ∧
      (2, 1) ∉ [((2 : Nat), (0 : Nat))] ∧ unitParts (r (.atomic .add)) 0 = [0] ∧ (∀ q ∈ (r (.atomic .add)).parts, sameUnit (.atomic .add) q p = true → q.st ≠ .new) ∧
      p.versioned = false ∧ (255 : Nat) < 2 ^ (8 * 1) := by decide +kernel

/-- A versioned line 32 with two versions, unlocked and locked; views as old as a version and older than all; a pending version of the
request's own; doomed views, and one opened after the request; the unit scrubbed. -/
theorem witness_versioned_accesses : let p (st : PSt) : Part := { tPart 0x1000 4 st [1, 2, 3, 4] with versioned := true }
    let r (op : MOp) (v : Nat) (st : PSt) : Req := { tReq (.seq 0 false) op (p st) with view := v }
    let line (lk : Option Lock) (pd : List Pend) : Line := { Line.zero with
      ts := 9 * 256
      old := [⟨5 * 256, 0, 0, 0⟩]
      trunc := 5 * 256
      lock := lk
      pend := pd }
    let s (op : MOp) (v : Nat) (st : PSt) (lk : Option Lock) (pd : List Pend) (sts doom : Nat) : State := { State.reset with
      reqs := [(5, r op v st)]
      leases := [(0, { tLease (tRegs []) with views := [(2, ⟨sts, 2, doom, 0, 0⟩)] })]
      vfs := [(0, { Vf.zero with vlimit := 10 })]
      scrubbed := [1]
      lines := [(32, line lk pd)] }
    let a := s .read 2 .home none [] (9 * 256) 0
    sameView 5 (reqView a (r .read 2 .home)) = true ∧ sameView 5 (⟨0, 2, 0, 0, 6⟩ : View) = false ∧ sameView 5 View.zero = false ∧
      unitOpen a 0 (.mem 0x1000) = true ∧ heldLine a 5 (.seq 0 false) (.mem 0x1000) = false ∧ (r .read 2 .home).flush = false ∧
      reqOf a 5 = some (r .read 2 .home) ∧ unitParts (r .read 2 .home) 0 = [0] ∧ (r .read 2 .home).stage = .sent ∧ (r .read 2 .home).after = [] ∧
      locked a 0x1000 = false ∧ locked (s .read 2 .home (some ⟨1, 0, 0, 0, false⟩) [] 0 0) 0x1000 = true ∧
      (snapRead a 32 (9 * 256)).isSome = true ∧ (snapRead a 32 (5 * 256)).isSome = true ∧ snapRead a 32 (5 * 256 - 1) = none ∧
      (findPend (lineOf (s .read 2 .home none [⟨0, 0, 2, 0, 0, 0⟩] 0 0) 32) 0 2).isSome = true ∧ findPend (lineOf a 32) 0 2 = none ∧
      (reqView a (r .read 2 .home)).doom = 0 ∧ (reqView (s .read 2 .home none [] 0 4) (r .read 2 .home)).doom = 4 ∧
      isPaired a (r .write 0 .home) = false ∧ a.clockStopped = false ∧ (reqView a (r .write 2 .home)).writes < 16384 ∧
      slotFree a (issTenant a (.seq 0 false)) (stackOf a.boot 0x1000) = true := by decide +kernel

/-- A write set of line 4, locked by none, with a version as new as the view and with a newer one; poison in it; C not yet and just past by
three ticks. -/
theorem witness_commit_phases : let cm (ph : Nat) (cl : Bool) : Commit := ⟨false, 2, cl, 4, 1, [4], ph, 10 * 256⟩
    let ls (ph : Nat) (cl : Bool) (d : Nat) : Lease := { tLease { tRegs [] with op := .commit } with
      views := [(2, ⟨9 * 256, 2, d, 1, 0⟩)]
      commit := some (cm ph cl) }
    let s (ph : Nat) (cl : Bool) (d ts q tick : Nat) : State := { tWith (ls ph cl d) with
      tick := tick
      lines := [(4, { Line.zero with
        ts := ts
        pend := [⟨0, 0, 2, 0, BitVec.ofNat 4 q, 0⟩] })] }
    (s 0 true 0 0 0 20).cur = .seq 0 false ∧ leaseOf (s 0 true 0 0 0 20) 0 = some (ls 0 true 0) ∧ writeSet (s 0 true 0 0 0 20) 0 2 = [4] ∧
      (∀ n ∈ writeSet (s 0 true 0 0 0 20) 0 2, (lineOf (s 0 true 0 0 0 20) n).lock = none) ∧
      (∀ n ∈ writeSet (s 0 true 0 (9 * 256) 0 20) 0 2, (lineOf (s 0 true 0 (9 * 256) 0 20) n).ts ≤ 9 * 256) ∧
      (∃ n ∈ writeSet (s 0 true 0 (9 * 256 + 1) 0 20) 0 2, 9 * 256 < (lineOf (s 0 true 0 (9 * 256 + 1) 0 20) n).ts) ∧
      ((findPend (lineOf (s 0 true 0 0 2 20) 4) 0 2).map fun p => decide (p.pois ≠ 0)) = some true ∧ (viewOf (ls 0 true 5) 2).doom ≠ 0 ∧
      (viewOf (ls 0 true 0) 2).doom = 0 ∧ (cm 0 true).shadow = false ∧ (cm 1 true).phase = 1 ∧ tickOf (s 2 true 0 0 0 12) 0 < (10 * 256) / 256 + 3 ∧
      (10 * 256) / 256 + 3 ≤ tickOf (s 2 true 0 0 0 13) 0 ∧ (ls 0 true 0).paired = false ∧ mwf (s 0 true 0 0 0 20).lines = true := by decide +kernel

/-! ### States that meet the hypotheses of the statements: firings, the switch, rounds, leases, the panel -/

/-- A lease of the given tiles of one granule. -/
def tTiles (l : List (Nat × Tile)) : Lease :=
  { freshLease { Img.blank with
      seqlen := 1024
      roles := l.map (·.1) } Rec.blank with tiles := l }

/-- The panel with lease 0. -/
def tPanel (ls : Lease) : State := { State.reset with leases := [(0, ls)] }

/-- A plane with a controller of a kind, two children and one counter from 0 to `stop`. -/
def tCtlPlane (kind stop : Nat) : Plane :=
  { tPlane [] with cb := [(0, BitVec.ofNat 32 (kind * 2 ^ 30 + 2 ^ 23 + 2 ^ 20)), (11, BitVec.ofNat 32 stop), (12, 1)] }

/-- A handler that is due and runnable, due and not runnable, and not due; chains with and without a position; children 0 and 1 of every
kind, all done and not; each message; the arrival that completes a group and one before it. -/
theorem witness_firings_and_controllers : let x : Tile := tX (tPlane []) { Ctx.zero with hmask := 1 }
    let ls (y : Tile) : Lease := { tTiles [(1, y)] with
      msgs := [⟨.go, 1, 0, 0⟩, ⟨.done, 1, 1, 0⟩, ⟨.permit, 1, 1, 0⟩, ⟨.ctxGo, 1, 0, 3⟩, ⟨.arrival, 1, 0, 9⟩, ⟨.phase, 1, 0, 0⟩, ⟨.rootDone, 1, 0, 0⟩]
      groups := [(9, ⟨2, 1, 0xFFFF⟩)] }
    let c (k : Nat) (stop : Nat) : Tile := { x with act := tCtlPlane k stop }
    leaseOf (tPanel (ls x)) 0 = some (ls x) ∧ tileOf (ls x) 1 = some x ∧ leaseLive (tPanel (ls x)) (ls x) = true ∧ x.passed = false ∧
      turnOf x = some 0 ∧ (ctxOf x 0).fire = none ∧ dueOf (ls x) x 0 = some 0 ∧ runnable x 0 0 = true ∧
      dueOf { ls x with markerMode := true } x 0 = none ∧ x.ctl.open_ = false ∧
      cNctr (tCtlPlane 1 2) = 1 ∧ cStride (tCtlPlane 1 2) 0 = 1 ∧ tripsOf (tCtlPlane 1 2) 0 = 2 ∧ tripsOf (tCtlPlane 1 0) 0 = 0 ∧
      (∀ k, k < 4 → cKind (c k 2).act = k) ∧ cNch (tCtlPlane 1 2) = 2 ∧ 0 + 1 < cNch (tCtlPlane 1 2) ∧ cNch (tCtlPlane 1 2) ≤ 1 + 1 ∧
      (∀ k, k < cNch (tCtlPlane 3 2) → k = 1 ∨ 1 ≤ mget 0 ({ (c 3 2) with ctl := ⟨true, false, [], [(0, 1)], [], 0⟩ } : Tile).ctl.done k) ∧
      (¬ ∀ k, k < cNch (tCtlPlane 3 2) → k = 1 ∨ 1 ≤ mget 0 (c 3 2).ctl.done k) ∧
      ((ls x).msgs.find? fun m => m.kind == .go && m.tile == 1) = some ⟨.go, 1, 0, 0⟩ ∧
      ((ls x).msgs.find? fun m => m.kind == .done && m.tile == 1 && m.sub == 1) = some ⟨.done, 1, 1, 0⟩ ∧
      ((ls x).msgs.find? fun m => m.kind == .permit && m.tile == 1 && m.sub == 1) = some ⟨.permit, 1, 1, 0⟩ ∧
      ((ls x).msgs.find? fun m => m.kind == .ctxGo && m.tile == 1 && m.sub == 0) = some ⟨.ctxGo, 1, 0, 3⟩ ∧
      ((ls x).msgs.find? fun m => m.kind == .arrival && m.tile == 1 && m.sub == 0 && m.val == 9) = some ⟨.arrival, 1, 0, 9⟩ ∧
      ((ls x).msgs.find? fun m => m.kind == .phase && m.tile == 1) = some ⟨.phase, 1, 0, 0⟩ ∧
      ((ls x).msgs.find? fun m => m.kind == .rootDone) = some ⟨.rootDone, 1, 0, 0⟩ ∧ (ctxOf x 0).goOpen = false ∧
      (mget (⟨0, 0, 0⟩ : Group) (ls x).groups (grpKey 1 9)).arr + 1 = (mget (⟨0, 0, 0⟩ : Group) (ls x).groups (grpKey 1 9)).count ∧
      (⟨3, 1, 0⟩ : Group).arr + 1 < (⟨3, 1, 0⟩ : Group).count ∧ (1 : Nat) < replicaBase ∧ firingBad x.act 0 0 = none ∧
      firingBad { x.act with bad := [65538] } 0 0 = some (2, 2) ∧ firingBad { x.act with bad := [131095] } 0 0 = some (3, 23) ∧
      Tile.gone.passed = true ∧ (∀ i, i < 40 → wordBad (tCtlPlane 1 2) 3 i = false) ∧ wordBad { tCtlPlane 1 2 with bad := [196647] } 3 39 = true ∧
      ∀ i, i < 39 → wordBad { tCtlPlane 1 2 with bad := [196647] } 3 i = false := by decide +kernel

/-- A runnable handler that is not the due one: the due one's input is empty. -/
theorem witness_firings_not_due : let p : Plane := { tPlane [] with ht := [(0, 0), (1, 1), (2, BitVec.ofNat 32 (2 ^ 31)), (5, BitVec.ofNat 32 (2 ^ 31 + 2 ^ 20))] }
    let x : Tile := tX p { Ctx.zero with hmask := 3 }
    dueOf (tTiles [(1, x)]) x 0 = some 0 ∧ runnable x 0 0 = false ∧ runnable x 0 1 = true ∧ turnOf x = some 0 := by decide +kernel

/-- A route with room and without; a hop over an open and over a closed edge of the source; tokens that a port accepts and refuses, with
room, without, and diverted; a port that is not bound; a credit due; a fabric cycle of a live lease; damaged route and port words; a hop within
a die, over a crossing that is set, over one that is not, and with an incarnation that has passed. -/
theorem witness_switch_and_tracks : let r (a b : Nat) : BitVec 16 := BitVec.ofNat 16 (2 ^ 13 + a * 2 ^ 8 + b * 2 ^ 3)
    let k := tTok 32 [8]
    let p (b : Nat) : Plane := { tPlane [] with
      sw := [(0, r 24 3), (1, r 12 16)]
      pb := [(0, BitVec.ofNat 32 (2 ^ 31 + 3 * 2 ^ 26 + 2 ^ 18)), (1, BitVec.ofNat 32 b), (16, BitVec.ofNat 32 (2 ^ 31 + 3 * 2 ^ 26))] }
    let c : Ctx := { tCtx [] with outs := [(0, ⟨[k], 1, []⟩)] }
    let x : Tile := { tX (p 0) c with
      tout := [(4, k)]
      inl := [(0, k), (1, k)] }
    let y : Tile := tX (p 0) Ctx.zero
    let ls : Lease := tTiles [(0, x), (1, y)]
    let s : State := { tPanel ls with cur := .sw 0 0 }
    leaseOf s 0 = some ls ∧ tileOf ls 0 = some x ∧ tileOf ls 1 = some y ∧ leaseLive s ls = true ∧ srcHead x 24 0 = some k ∧ isData k = true ∧
      destsOf x.act 24 0 = [(3, 0)] ∧ dstRoom x 3 0 = true ∧ dstRoom { x with tout := [(3, k)] } 3 0 = false ∧
      onTrack x 4 = [(0, k)] ∧ cutOn x.act 4 = false ∧ holdOn x.act 4 = false ∧ edgeClosed x (4 / 4) = false ∧
      edgeClosed { x with fwl := 4 } (4 / 4) = true ∧ neighbour ls 0 (4 / 4) = some 1 ∧ neighbour ls 0 (0 / 4) = none ∧ edgeClosed y (landTrack 4 / 4) = false ∧
      routeBad x.act 24 0 = false ∧ routeBad { x.act with bad := [262144] } 24 0 = true ∧
      [0, 1].find? (wordBad x.act 2) = none ∧ [0, 1].find? (wordBad { x.act with bad := [131073] } 2) = some 1 ∧
      (tileDie { ls with col := 15 } 0 = 0 ∧ tileDie { ls with col := 15 } 1 = 1) ∧
      crossed { s with crossings := [(linkSite 0 1, [(0, 1)])] } 0 1 = true ∧ crossed { s with crossings := [] } 0 1 = false ∧ (k.inc = mget 0 s.incarn 0) ∧
      { k with inc := 1 }.inc ≠ mget 0 s.incarn 0 ∧
      y.passed = false ∧ bufferAt y (landTrack 4) = none ∧ tileDie ls 0 = tileDie ls 1 ∧ destsOf y.act (landTrack 4) 0 ≠ [] ∧
      mfind y.tin (landTrack 4) = none ∧ mfind x.inl (8 * 0 + 0) = some k ∧ bound x.act 0 0 = true ∧ bound x.act 0 1 = false ∧
      accepts x.act 0 0 k = true ∧ accepts x.act 0 0 { k with tag := 1 } = false ∧ (pbb (p (2 ^ 31)) 0 0).testBit 31 = true ∧
      (pbb (p 0) 0 0).testBit 31 = false ∧ trackRoom x 0 = true ∧ (inPort c 0).q.length < depth x.act 0 0 ∧
      depth x.act 0 0 ≤ (inPort { c with ins := [(0, ⟨[k, k, k, k], 0⟩)] } 0).q.length ∧ 0 < (outPort c 0).due ∧ s.fatal = false ∧
      fcTurns s 0 = true := by decide +kernel

/-- A round at a context that is idle and holds the marker, at a frozen one, and at a closed one that has passed the marker or not; a tile whose planes may be swapped, one whose new plane is
refused, one with tokens left, one that is busy; contexts that may close with and without tokens left, and with a poisoned EOS; a phase that ends; a
tile to pass; poisoned markers. -/
theorem witness_rounds_swaps_ends : let mk : Tok := markerTok 3 false
    let p : Plane := { tPlane [] with eb := [(0, 0)] }
    let idle (q : List Tok) (cl : Bool) : Tile := tX p { Ctx.zero with
      ins := [(0, ⟨q, 0⟩)]
      closed := cl }
    let ls (x : Tile) : Lease := { tTiles [(1, x)] with
      round := some ⟨3, false, false, false, none⟩
      phStarted := true
      finalPh := true
      seq := { tRegs [] with op := .cswap [1] true true } }
    let x := idle [mk] false
    let e := idle [eosTok] false
    let d := idle [] true
    leaseOf (tPanel (ls x)) 0 = some (ls x) ∧ tileOf (ls x) 1 = some x ∧ leaseLive (tPanel (ls x)) (ls x) = true ∧ x.passed = false ∧
      (ctxOf x 0).entered ≠ some 3 ∧ markPois x.act (ctxOf x 0) 0 3 = false ∧ markPois x.act (ctxOf (idle [{ mk with pois := 1 }] false) 0) 0 3 = true ∧ (ctxOf x 0).closed = false ∧
      (ctxOf x 0).fire = none ∧ (ctxOf x 0).frozen = none ∧ runnables x 0 = [] ∧ boundIn x.act 0 = [0] ∧
      (∀ n, (ctxOf x 0).entered = some n → ∀ p ∈ [0], ∀ t ∈ (inPort (ctxOf x 0) p).q, isMark t = true → markNo t ≠ n) ∧
      firstMark (inPort (ctxOf x 0) 0) = some 3 ∧ (ctxOf (idle [mk] true) 0).closed = true ∧ nhas [1] 1 = true ∧
      suspendable (ls x) x 0 { Ctx.zero with frozen := some (.close, 0) } = true ∧ markNo mk = 3 ∧
      ([0].findSome? fun p => ((inPort (ctxOf (idle [mk] true) 0) p).q.find? isMark).map fun m => (p, m)) = some (0, mk) ∧
      (∀ p ∈ boundIn e.act 0, ∀ t, (inPort (ctxOf e 0) p).q.find? isEos = some t → t.pois = 0) ∧
      (∃ t, (inPort (ctxOf (idle [{ eosTok with pois := 1 }] false) 0) 0).q.find? isEos = some t ∧ t.pois ≠ 0) ∧
      (∃ m ∈ (inPort { ctxOf x 0 with entered := some 3 } 0).q, isMark m = true ∧ markNo m = 3) ∧ d.kept = [] ∧ (ctxOf (idle [mk] true) 0).entered = none ∧
      drained (tPanel (ls d)) 0 1 (ls d) d = true ∧ swapBad (ls d) [1] [] 1 d = none ∧
      (swapBad (ls d) [1] [] 1 { d with shd := { Plane.zero with sw := [(0, BitVec.ofNat 16 (2 ^ 13 + 28 * 2 ^ 8))] } }).isSome = true ∧
      drained (tPanel (ls x)) 0 1 (ls x) (idle [tTok 32 [1]] false) = false ∧
      stuckTile (tPanel (ls x)) 0 1 (ls x) (idle [tTok 32 [1]] false) = true ∧ stuckTile (tPanel (ls x)) 0 1 (ls x) x = false ∧
      mayClose (ls e) e 0 = true ∧ aheadEos (ctxOf e 0) 0 = [] ∧ aheadEos (ctxOf (idle [tTok 32 [1], eosTok] false) 0) 0 ≠ [] ∧
      mayClose (ls e) (idle [tTok 32 [1], eosTok] false) 0 = true ∧ boundOut p 0 = [0] ∧ 1 ≤ outFree p (ctxOf e 0) 0 0 ∧
      (ls d).phEnded = false ∧ (∀ m ∈ (ls d).msgs, m.kind ≠ .phase) ∧ phaseDone (tPanel (ls d)) 0 (ls d) = true ∧
      (∀ m ∈ (ls d).msgs, m.tile ≠ 1) ∧ allClosed d = true ∧ d.tout = [] ∧ d.tin = [] ∧ d.inl = [] ∧ d.ebs = [] ∧ kindOf (ls d) 1 ≠ 2 := by
  decide +kernel

/-- What an engine meets at a place: a tile store, device memory, a cause, or a page that is absent. -/
def tEngAt : EngAt → Option (Option Loc)
  | .at lc _ _ => some (some lc)
  | .bad _ _ => some none
  | .wait _ _ => none

/-- A copy of 64 bytes from space and address to space and address, with ticket 4. -/
def tCopy (s a d b : Nat) : EngOp :=
  { ticket := 4
    shadow := 3
    sync := some 0x3000
    after := []
    kind := .copy 64 ⟨s, a, [(64, 1)]⟩ ⟨d, b, [(64, 1)]⟩ }

/-- A collective of one member on this panel. -/
def tColl : EngOp :=
  { ticket := 4
    shadow := 3
    sync := none
    after := []
    kind := .coll 7 0 0 1 0 0 16 [(0, none)] ⟨0, 0x1000, [(64, 1)]⟩ ⟨0, 0x2000, [(64, 1)]⟩
    left := some []
    src := (List.range 64).map fun i => (i, 5, false) }

/-- Streams into I0 and out of O0 of tile 1: a token that has come, a marker, the last token asked for and all delivered, an empty view, a
peer's token of the tenant and of another; data, marker and EOS at the output, with LEN reached and not. -/
theorem witness_streams_and_engines : let k := tTok 32 [8]
    let st (kind n len : Nat) : Stream := { Stream.zero with
      bound := true
      started := true
      kind := kind
      base := if kind = 2 then 3 else 0x1000
      len := len
      k := n }
    let ls (x : Stream) (q : List Tok) : Lease := { tTiles [(1, tX (tPlane []) { tCtx [] with outs := [(0, ⟨q, 0, []⟩)] })] with
      img := { Img.blank with
        roles := [1]
        strms := [⟨5, 1, 0, 16, 0⟩, ⟨6, 1, 0, 24, 0⟩] }
      streams := [(5, x), (6, x)]
      tlb := tTlb }
    let l := ls (st 1 2 3) [k]
    let s : State := { tPanel l with
      tenantChecks := [⟨0, 0x100000, 0⟩]
      couplers := [(3, { Coupler.zero with
        up := true
        tmap := [(9, 0x8000)]
        chans := [(0, [(9, k)])] })] }
    leaseOf s 0 = some l ∧ entOf l 5 = some ⟨5, 1, 0, 16, 0⟩ ∧ leaseLive s l = true ∧ strmIn ⟨5, 1, 0, 16, 0⟩ = true ∧ entryFree l ⟨5, 1, 0, 16, 0⟩ = true ∧
      { st 1 2 3 with buf := some k }.buf = some k ∧ (st 1 2 3).req = none ∧ { st 1 2 3 with mark := some k }.mark = some k ∧ inHold l = false ∧
      (st 1 3 3).len ≤ (st 1 3 3).k ∧ (st 1 2 3).k < (st 1 2 3).len ∧ viewCheck l (st 1 2 3).view .rd = none ∧ viewCheck l 4 .rd = some cSNAP ∧
      chanHead s (st 2 0 0) = some (3, 0, 9, k) ∧ localTenant s 3 9 = some 0 ∧ localTenant s 3 8 ≠ some 0 ∧ l.paired = false ∧
      entOf l 6 = some ⟨6, 1, 0, 24, 0⟩ ∧ strmOut ⟨6, 1, 0, 24, 0⟩ = true ∧ outHeads l ⟨6, 1, 0, 24, 0⟩ = some [k] ∧ isData k = true ∧
      outHeads (ls (st 1 2 3) [eosTok]) ⟨6, 1, 0, 24, 0⟩ = some [eosTok] ∧ isEos eosTok = true ∧ isMark (markerTok 3 false) = true ∧
      (couplerOf s 3).up = true ∧ (st 1 2 3).stopped = false := by
  decide +kernel

/-- Operations that have failed, have not begun, have a line left, work at a line with one read at a tile store, at a place that is not there, at a
page that is absent; with all of it read and a destination in device memory, in a tile store, refused, absent; one whose lines are done, with an
arrival due and none, with a port to flush, with a withheld address. Collectives that meet, and one whose member differs. -/
theorem witness_engine_steps : let ls (o : EngOp) : Lease := { tTile 2 (tPlane []) (tCtx []) with
      img := { (tTile 2 (tPlane []) (tCtx [])).img with ssplit := 2 ^ 20 }
      engines := [o] }
    let s (o : EngOp) : State := { tGuest with leases := [(0, ls o)] }
    let c (rd : List (Nat × Nat)) (got : List (Nat × Byte × Bool)) : EngCur := ⟨64, rd, none, got⟩
    let w (o : EngOp) (rd : List (Nat × Nat)) : EngOp := { o with left := some [], cur := [c rd []] }
    let done (o : EngOp) : EngOp := { o with left := some [], cur := [] }
    let at_ (o : EngOp) (sp a : Nat) (x : Acc) : Option (Option Loc) := tEngAt (engAt (bump (s o)) 0 sp a x)
    let o := tCopy 1 0 0 0x2000
    leaseOf (s o) 0 = some (ls o) ∧ (s o).fatal = false ∧ (ls o).state = .run ∧ engOp (s o) 0 4 = some o ∧ o.after = [] ∧ o.job = none ∧ o.fail = none ∧
      { o with fail := some (cTRANS, 5) }.fail = some (cTRANS, 5) ∧ o.left = none ∧ o.cur = [] ∧ { o with left := some [64] }.left = some [64] ∧
      (w o [(0, 64)]).cur = [c [(0, 64)] []] ∧ at_ o (o.at 0).1 (o.at 0).2 .rd = some (some (.tile 2 0)) ∧
      at_ o ((tCopy 1 (2 ^ 32) 0 0).at 0).1 ((tCopy 1 (2 ^ 32) 0 0).at 0).2 .rd = some none ∧
      at_ o ((tCopy 0 0x10000 0 0).at 0).1 ((tCopy 0 0x10000 0 0).at 0).2 .rd = none ∧ o.rowsOf 64 = [] ∧ o.gathering = false ∧ tColl.gathering = true ∧
      (tdIn o.kind.dst 64).length = 64 ∧ at_ o 0 0x2000 .wr = some (some (.mem 0x2000)) ∧ at_ o 1 0 .wr = some (some (.tile 2 0)) ∧
      at_ o 0 0x20000 .wr = some none ∧ at_ o 0 0x10000 .wr = none ∧ engHeld (s o) 0 4 (.mem 0x2000) = false ∧ (done o).cur = [] ∧ (done o).ports = [] ∧
      { done o with ports := [3] }.ports ≠ [] ∧ (done o).out = [] ∧ { done o with out := [5] }.out ≠ [] ∧ (done o).withheld = none ∧
      (done o).arrived.length < arrivalCount (tdSize o.kind.dst) ∧ arrivalCount (tdSize o.kind.dst) ≤ { done o with arrived := [0] }.arrived.length ∧
      at_ o 0 0x3000 .rw = some (some (.mem 0x3000)) ∧ ((membersIn (bump (s tColl)) 0 7 [(0, none)]).map fun m => (m.1, m.2.op)) = [(0, tColl)] ∧
      (membersIn (bump (s tColl)) 0 7 [(0, none)]).filter (fun m => collDiffers (bump (s tColl)) 0 7 m.2) = [] ∧ tColl.res = none ∧
      collBytes tColl = some (List.replicate 64 (5, false)) ∧
      (let d := { tColl with kind := .coll 7 0 1 1 0 0 16 [(0, none)] ⟨0, 0x1000, [(64, 1)]⟩ ⟨0, 0x2000, [(64, 1)]⟩ }
       (membersIn (bump (s d)) 0 7 [(0, none)]).filter (fun m => collDiffers (bump (s d)) 0 7 m.2) ≠ []) := by
  decide +kernel

/-- What mapping of save pages answers. -/
def tSmap : SmapRes → Option Bool
  | .ok _ => some true
  | .bad _ _ _ _ => some false
  | .wait _ => none

/-- A lease in every state: limits reached and not; a drain young and 100 us old, of every purpose; a cut complete and not; a save area
large enough and too small, its page mapped, refused and absent; an area that checks and one that does not; an end that reports. -/
theorem witness_lease_states_1 : let base (st : LState) (p : Purpose) : Lease := { tLease (tRegs []) with
      img := { Img.blank with
        seqlen := 1024
        saveReq := 4096 }
      lrec := { Rec.blank with
        tlimit := 2
        qos := 1 }
      state := st
      purpose := p
      cuttable := true
      wdog := 2 * Config.fcPerUs
      slice := Config.fcPerUs
      saveBase := 0x3000
      smap := (List.range 32).map fun i => (96 + i, 0x3000 + 128 * i) }
    let held : Option Round := some ⟨1, true, true, false, none⟩
    let s (ls : Lease) : State := { tGuest with
      leases := [(0, ls)]
      wall := Config.parkLimit + Config.drainLimit
      jobs := [(9, tJob .token)] }
    let r := base .run .none
    let d := base .drain .park
    leaseOf (s r) 0 = some r ∧ r.commit = none ∧ savable r = true ∧ (parkDue (s r) 0).isSome = true ∧ watchdogDue r = true ∧
      watchdogDue { r with wdog := 2 * Config.fcPerUs - 1 } = false ∧ (s d).wall - { d with drainAt := Config.parkLimit + 1 }.drainAt < Config.drainLimit ∧
      Config.drainLimit ≤ (s d).wall - { d with drainAt := Config.parkLimit }.drainAt ∧ roundFree d = true ∧
      roundFree { d with round := held } = false ∧ cutDone (s { d with round := held }) 0 { d with round := held } = true ∧
      cutDone (s { d with
        round := held
        seq := { tRegs [] with op := .commit } }) 0 { d with
        round := held
        seq := { tRegs [] with op := .commit } } = false ∧
      (base .save .park).engines = [] ∧ 4096 + saveLen (base .save .park) ≤ 4096 * (base .save .park).img.savesz ∧
      4096 * (base .save .park).img.savesz < 4096 + saveLen { base .save .park with img := { Img.blank with saveReq := 8192 } } ∧
      tSmap (smapPages 0 [3] (s (base .save .park))) = some true ∧ tSmap (smapPages 0 [16] (s { base .save .park with smap := [] })) = none ∧
      tSmap (smapPages 0 [32] (s { base .save .park with smap := [] })) = some false ∧
      areaGood (s (base .restore .park)) 0 (base .restore .park) = false ∧
      areaGood { tDw (s (base .restore .park)) [(0x3038, 2 ^ 63), (0x3030, (crc64 []).toNat)] with leases := [(0, base .restore .park)] } 0
        (base .restore .park) = true ∧
      rollbackWaits (s (base .restore .checkpoint)) 0 (base .restore .checkpoint) = false ∧
      areaStale { s (base .restore .checkpoint) with awaitSave := [(0, r)] } 0 (base .restore .checkpoint) = true ∧
      (base .held .park).state = .held ∧ r.placed = true ∧ sliceOver r = true ∧ sliceOver { r with slice := Config.fcPerUs - 1 } = false := by decide +kernel

/-- A stopped lease that ends with 0 and with a cause, as a child and for its queue; a page missing for its completion entry is not. A head
that is aged and may start, and none. -/
theorem witness_lease_states_2 : let ls (e : Nat) (p : Option (Nat × Nat)) : Lease := { tLease (tRegs []) with
      state := .stop
      endc := e
      parent := p
      queue := 7
      saveBase := 0x3000 }
    let s (l : Lease) : State := { tGuest with
      leases := [(0, l)]
      queues := [(7, { Queue.zero with
        v := true
        st := .inn
        en := true
        aged := true
        headRec := some Rec.blank
        parsed := some tQrec })] }
    leaseOf (s (ls 0 none)) 0 = some (ls 0 none) ∧ endWaits (s (ls 0 none)) 0 (ls 0 none) = false ∧ (ls 0 none).commit = none ∧
      (leaseOf (discardAll (s (ls 0 none)) 0 (ls 0 none)) 0).isSome = true ∧ (ls 0 (some (3, 1))).parent = some (3, 1) ∧
      (retireTask (discardAll (s (ls 0 none)) 0 (ls 0 none)) 7 0 0).1.isSome = true ∧ (s (ls 0 none)).fatal = false := by decide +kernel

/-- A waiting record with 62 and with 63 unfinished ones; a trap that is due with a handler at the region's end, none, and one outside; a
pair to checkpoint, with and without versions in shadow 3; twins at the exit that agree and differ; a lone request for 1 us and less. -/
theorem witness_records_traps_pairs : let q (tv : Nat) : Seq := { tRegs [] with tvec := tv }
    let ls (n : Nat) : Lease := { tLease (q 1020) with
      recs := [FRec.zero]
      mput := n }
    let pr (st : LState) (p : Purpose) (w : Bool) : Lease := { tLease (q 0) with
      paired := true
      state := st
      purpose := p
      ckWanted := w }
    let rq (rep : Bool) (va : Nat) : Req := { tReq (.seq 0 rep) .read { tPart 0x1000 4 .new [] with va := va } with
      stage := .exit
      key := [1, 2] }
    let two (va : Nat) : State := { tPanel (pr .run .none false) with
      reqs := [(5, rq false 0x5000), (6, rq true va)]
      wall := Config.twinLimit }
    leaseOf (tWith (ls 62)) 0 = some (ls 62) ∧ (tWith (ls 62)).cur = .seq 0 false ∧ (ls 62).mput - (ls 62).mdone < 63 ∧ 63 ≤ (ls 63).mput - (ls 63).mdone ∧
      (ls 62).mdone < (ls 62).mput ∧ (q 1020).intrap = false ∧ (q 1020).stopped = false ∧ (q 1020).op = .none ∧ (q 1020).tvec ≠ 0 ∧
      inRegion (ls 62) 1020 = true ∧ inRegion (ls 62) 1024 = false ∧ (ls 0).mput ≤ (ls 0).mdone ∧ transactionOpen (pr .run .none true) = false ∧
      (pr .run .none true).ckWanted = true ∧ (pr .run .none true).commit = none ∧ logDue (pr .run .none false) = false ∧
      (mget (⟨false, false⟩ : Shadow) (pr .save .checkpoint false).shadows 3).doomed = false ∧ writeSet (tWith (pr .save .checkpoint false)) 0 11 = [] ∧
      writeSet { tWith (pr .save .checkpoint false) with lines := tPend 11 } 0 11 ≠ [] ∧
      reqOf (two 0x5000) 5 = some (rq false 0x5000) ∧ twinOf (two 0x5000) 5 (rq false 0x5000) = some (6, rq true 0x5000) ∧
      sameRequest (rq false 0x5000) (rq true 0x5000) = true ∧ sameRequest (rq false 0x5000) (rq true 0x5004) = false ∧
      logged (pr .run .none false) (rq false 0x5000) = none ∧ logFull (pr .run .none false) 0xFFFF = false ∧
      twinOf { two 0x5000 with reqs := [(5, rq false 0x5000)] } 5 (rq false 0x5000) = none ∧
      twinsOf { two 0x5000 with reqs := [(5, rq false 0x5000)] } 5 (rq false 0x5000) = [] ∧ Config.twinLimit ≤ { pr .run .none false with fcs := Config.twinLimit }.fcs - (rq false 0).bornFc ∧
      { pr .run .none false with fcs := Config.twinLimit }.fcs - { rq false 0 with bornFc := 1 }.bornFc < Config.twinLimit ∧ leaseLive (two 0) (pr .run .none false) = true := by decide +kernel

/-- A log of `n` entries of one exit. -/
theorem tLog_count (n : Nat) (e : LogEnt) (ls : Lease) : logCount { ls with log := List.replicate n e } e.exit = n := by
  simp [logCount]

/-- A log that is full. -/
theorem witness_pair_log_full : logFull { tLease (tRegs []) with log := List.replicate 32768 ⟨0xFFFF, [1, 2], [], [], true⟩ } 0xFFFF = true := by
  unfold logFull
  rw [decide_eq_true_eq]
  exact Nat.le_of_eq (tLog_count 32768 ⟨0xFFFF, [1, 2], [], [], true⟩ (tLease (tRegs []))).symm

/-- Ticks next to the horizon and to the stop; a panel frozen and not; temperatures at the trip point and below; dies that may be reset and
may not, in each of its steps, with leases that stand on it; units that are being zeroed. -/
theorem witness_clocks_dies_units : let l := { tLease (tRegs []) with
      col := 16
      cuttable := true }
    let s : State := tPanel l
    leaseOf s 0 = some l ∧ ¬ (s.clockStopped = true ∨ Config.stopTick ≤ s.tick) ∧ Config.stopTick ≤ { s with tick := Config.stopTick }.tick ∧
      s.tick + 1 ≠ Config.stopTick ∧ Config.horizonTick ≤ { s with tick := Config.horizonTick }.tick ∧ s.tick < Config.horizonTick ∧ s.rebasing = false ∧
      { s with rebasing := true }.rebasing = true ∧ s.fatal = false ∧ s.dump.ctl.getLsbD 0 = false ∧ ¬ s.pwrTthr < 105 ∧ s.pwrTthr < 106 ∧
      dieRefused s 0 = true ∧ dieRefused s 1 = false ∧ dieRefused { s with leases := [(0, { l with lrec := { Rec.blank with pin := true } })] } 1 = true ∧
      stillOn s 1 = true ∧ stillOn s 2 = false ∧ moveUnderWay s = false ∧ moveUnderWay (tPanel { l with purpose := .move }) = true ∧
      (s.leases.find? fun e => onDie e.2 1 && movable s e.1 e.2 false).isSome = true ∧
      (∀ e ∈ s.reqs, awaitsDie s 1 e.2 = false) ∧ 25000 ≤ 25000 - s.dieSince ∧
      mwf s.reqs = true ∧ nhas { s with zeroing := [3] }.zeroing 3 = true ∧ 3 * 4096 < scratchBase ∧ (3 * 4096 + 4095) / 4096 = 3 ∧
      scratchBase ≤ scratchBase / 2048 * 2048 ∧ (scratchBase + 2047) / 2048 = scratchBase / 2048 ∧
      nhas { Tile.zero with zeroing := [0] }.zeroing 0 = true ∧ (unknownPart { tReq (.seq 0 false) (.atomic .add) { tPart 0x1000 4 .new [] with code := 3 } with
        stage := .issued }).map (·.va) = some 0x5000 := by decide +kernel

/-- Lanes 0 and 23, registers 1 and 31, the last byte of a store; a line clean and dirty in the LLC; an old and a pending version; a request whose
side fields can be damaged and one that is performed. -/
theorem witness_errors_poison_in_place : let x : Tile := tX (tPlane []) { tCtx [] with ins := [(0, ⟨[tTok 32 [1]], 0⟩)] }
    let ls : Lease := tTiles [(2, x)]
    let s : State := { tPanel ls with lines := [(32, { Line.zero with old := [⟨0, 0, 0, 0⟩], pend := [⟨0, 0, 11, 0, 0, 0⟩] })], reqs := [(5, tReq (.seq 0 false) .read (tPart 0x1000 4 .new []))] }
    leaseOf s 0 = some ls ∧ tileOf ls 2 = some x ∧ 23 < 24 ∧ 15 < 16 ∧ (inPort (ctxOf x 0) 0).q[0]? = some (tTok 32 [1]) ∧ 2 ^ 20 - 1 < 2 ^ 20 ∧
      kindOf ls 2 = 2 ∧ 0x1000 < hbmEnd s.boot ∧ llcIsDirty s 0x1000 = false ∧ llcIsDirty (llcDirty (llcInstall s 0x1000) 0x1000) 0x1000 = true ∧
      inScratch s.boot (scratchBase + scratchSize - 1) = true ∧ inScratch s.boot (scratchBase + 160 * scratchSize) = false ∧
      (lineOf s (0x1000 / 128)).old[0]? = some ⟨0, 0, 0, 0⟩ ∧
      (findPend (lineOf s (0x1000 / 128)) 0 11).isSome = true ∧ (reqOf s 5).map sideOpen = some true ∧
      sideOpen (tReq (.seq 0 false) .read (tPart 0x1000 4 .done [])) = false ∧ { ls with paired := true }.paired = true ∧ 39 < sectionLen 3 ∧
      llcHit (llcInstall s 0x1000) 0x1000 = true ∧ llcHit s 0x1000 = false := by decide +kernel

/-- Couplers present and absent, up and down; senders mapped and not; offsets in the window, beyond it, and to a place that is no memory; a
request that waits at the peer; channel 65,535; boots that succeed and fail; indices left in a run and none. -/
theorem witness_couplers_and_boot : let c : Coupler := { Coupler.zero with
      up := true
      expLen := 0x1000
      tmap := [(9, 0x8002)] }
    let s : State := { State.reset with couplers := [(15, c), (14, { c with expBase := hostBase })] }
    couplerLive s.boot 15 = true ∧ couplerLive s.boot 16 = false ∧ (couplerOf s 15).up = true ∧ (couplerOf s 3).up = false ∧
      localTenant s 15 9 = some 2 ∧ localTenant s 15 8 = none ∧ 0xFFF < (couplerOf s 15).expLen ∧ (couplerOf s 15).expLen ≤ 0x1000 ∧
      locOf s.boot ((couplerOf s 15).expBase + 0xFFF) = some (.mem 0xFFF) ∧ locOf s.boot ((couplerOf s 14).expBase + 0) = some (.host 0) ∧
      (atPeer 3 { tReq (.seq 0 false) .read { tPart 0 4 .new [] with loc := .peer 3 0x40 } with stage := .sent }).map (·.va) = some 0x5000 ∧
      mapUsable 0 = true ∧ s.boot.svnFloor ≤ s.boot.fwSvn ∧ s.boot.count < 3 ∧ s.boot.mode ≠ 3 ∧ { s.boot with mode := 3 }.mode = 3 ∧
      (takeIndex s).isSome = true ∧ (takeIndex { s with boot := { s.boot with rpmbOk := false } }).isNone = true ∧ s.boot.otsRun = 0 ∧
      { s.boot with
        otsRun := 1
        otsNext := 1024 }.otsRun ≤ 1024 := by decide +kernel

/-- A well-formed instruction of every kind of code. -/
theorem witness_decode_of_encode : (Instr.add 1 2 3).wf = true ∧ (encode (.add 1 2 3)).isSome = true ∧
    (Instr.gath .f32 (.v 2) (.v 3) .lane none (some ⟨true, 5, 1, .panel, 2, 28⟩)).wf = true ∧
    (encode (.gath .f32 (.v 2) (.v 3) .lane none (some ⟨true, 5, 1, .panel, 2, 28⟩))).isSome = true ∧ (encode (.fwl 5)).isSome = true := by decide

/-- Each kind of turn at the head of the agenda. -/
theorem witness_step_runs_decoded : let q : Seq := { tRegs [] with icache := [(64, 0)] }
    let ls (q : Seq) : Lease := { tTile 1 { tPlane [] with sw := [(0, 0)] } (tCtx []) with
      img := { Img.blank with
        roles := [1]
        seqlen := 1024 }
      seq := q
      tlb := tTlb }
    let s (t : Turn) (q : Seq) : State := { State.reset with
      agenda := [t]
      leases := [(0, ls q)]
      vfs := [(0, tVf)]
      tenantChecks := [⟨0, 0x100000, 0⟩] }
    fullService (s (.seq 0 false) q) = true ∧ leaseOf (s (.seq 0 false) q) 0 = some (ls q) ∧ seqMayIssue (s (.seq 0 false) q) (ls q) q = true ∧
      q.op = .none ∧ trapDue (ls q) q = false ∧ (ls q).img.seqlen ≠ 0 ∧ inRegion (ls q) 64 = true ∧ inRegion (ls q) 1024 = false ∧
      mfind q.icache 64 = some 0 ∧ decodeSeq 0 = .ok .nop ∧ decodeSeq 0x0000000A = .error .illegalOp ∧
      mfind (tRegs []).icache 64 = none ∧
      tSync (vread 0 none [(64, 4)] [] [] { s (.seq 0 false) (tRegs []) with
        agenda := []
        cur := .seq 0 false }) = true ∧ mfind q.icache (64 + 2 ^ 60) = none ∧ wordBad (tPlane []) 0 0 = false ∧
      wordBad { tPlane [] with bad := [0] } 0 0 = true ∧ stalledWord { tCtx [] with fire := some { tFi with wait := .stall } } = true ∧
      seqMayIssue (s (.seq 0 false) q) (ls q) { q with op := .drain 1 } = true ∧
      trapDue { ls q with mput := 1 } q = true ∧ inStep (ls q) = true ∧ leaseLive (s (.elem 0 1 0) q) (ls q) = true ∧
      canIssue (tCtx []) = true ∧ turnOf (tX (tPlane []) (tCtx [])) = some 0 ∧ hEntry (tPlane []) 0 ≤ 0 ∧ 0 ≤ hWend (tPlane []) 0 ∧
      (0xC0000000 : Word).toNat / 2 ^ 30 = 3 ∧ reservedOp 0 0x3B = true ∧ implemented 1 0 1 = true ∧ implemented 1 2 0 = false ∧
      decodeSw (mget 0 [(0, (0 : BitVec 16))] 0) = .ok .switchNop := by decide +kernel

theorem witness_step_keeps_stores : State.reset.storesWf = true ∧ (match step State.reset with
    | .next _ => true
    | _ => false) = true := ⟨by decide +kernel, rfl⟩

theorem witness_step_keeps_tables : mwf State.reset.reqs = true ∧ mwf State.reset.lines = true ∧
    mwf [(4, Line.zero), (7, Line.zero)] = true ∧ mwf [(7, Line.zero), (4, Line.zero)] = false := by decide +kernel

/-- Ranges that end at, and begin at, the border between HBM and die scratch. -/
theorem witness_memory_reads_back : ([true, false] : List Bool).length = ([1, 2] : List Byte).length ∧ scratchBase - 2 + 2 ≤ scratchBase ∧
    scratchBase ≤ scratchBase := by decide +kernel


end Sys2Proof
end

section
/-! SUPPORT. The branches and jumps of the sequencer (R260, R261) and the words NOP, PTEST and PCLR (R156, R287). -/

namespace Sys2Proof.Claims

open Sys2Proof Sys2Proof.Machine

/-- A jump to an address inside the program region sets the PC there, after the link (R254, R261). -/
theorem goto_inside (s : State) (l : Nat) (rep : Bool) {ls : Lease} {d : Nat} (hd : inRegion ls d = true) (link : Seq → Seq) :
    goto s l rep ls d link = updSeq s l rep fun q => { seqNext (link q) with pc := d } := if_pos hd

/-- A jump to an address outside the program region faults, whatever its link (R254, R261). -/
theorem goto_outside (s : State) (l : Nat) (rep : Bool) {ls : Lease} {d : Nat} (hd : inRegion ls d = false) (link : Seq → Seq) :
    goto s l rep ls d link = seqFault s l rep cBRANCH d := if_neg (by simp [hd])

/-- A change of the PC leaves every register write as it is. -/
theorem Writes.withPc {q q' : Seq} {xd : BitVec 5} {v : Dword} {p : Bool} (h : Writes q q' xd v p) (d : Nat) :
    Writes q { q' with pc := d } xd v p := by
  obtain ⟨hself, hother, hrest⟩ := h
  refine ⟨hself, hother, ?_⟩
  rw [SameBesides] at hrest ⊢
  rw [hrest]

section Turn
variable {s : State} {l : Nat} {rep : Bool} {ls : Lease}

/-- Setting the PC after a word does nothing else. -/
theorem seqMoves_to (h : leaseOf s l = some ls) (d : Nat) :
    SeqMoves s (updSeq s l rep fun q => { seqNext q with pc := d }) l rep ls d :=
  ⟨_, onlySeq_upd h _, fun _ => ⟨rfl, rfl⟩, rfl, rfl, rfl⟩

/-- Moving to the next word does nothing else. -/
theorem seqSteps_next (h : leaseOf s l = some ls) : SeqSteps s (updSeq s l rep seqNext) l rep ls :=
  ⟨_, onlySeq_upd h _, fun _ => ⟨rfl, rfl⟩, rfl, rfl, rfl⟩

/-- A jump without a link inside the program region only moves. -/
theorem seqMoves_goto (h : leaseOf s l = some ls) {d : Nat} (hd : inRegion ls d = true) :
    SeqMoves s (goto s l rep ls d id) l rep ls d := by
  rw [goto_inside s l rep hd]
  exact seqMoves_to h d

/-! ### Branches -/

/-- What R260 says of branch `i` whose condition has the value `c`. -/
def BranchesOn (s : State) (l : Nat) (rep : Bool) (ls : Lease) (xa xb : BitVec 5) (off : BitVec 16) (i : Instr) (c : Bool) : Prop :=
  let q := seqOf ls rep
  let dest := brTarget q (signed off)
  (xpois q xa = true ∨ xpois q xb = true → exec i s = .next (seqFault s l rep cPCTL 0)) ∧
  (xpois q xa = false → xpois q xb = false →
    (c = false → Gives i s fun t => SeqMoves s t l rep ls (q.pc + 4)) ∧
    (c = true → inRegion ls dest = true → Gives i s fun t => SeqMoves s t l rep ls dest) ∧
    (c = true → inRegion ls dest = false → exec i s = .next (seqFault s l rep cBRANCH dest)))

/-- A branch with a poisoned source faults whether or not it would be taken. -/
theorem branch_poisoned {xa xb : BitVec 5} (h : SeqTurn s l rep ls [xa, xb])
    (hp : xpois (seqOf ls rep) xa = true ∨ xpois (seqOf ls rep) xb = true) (f : Dword → Dword → Bool) (off : BitVec 16) :
    branch f xa xb off s = .next (seqFault s l rep cPCTL 0) := by
  rw [branch, onSeq_run h _ (List.Subset.refl _), if_pos (by simpa using hp)]

/-- A branch with clean sources jumps when its condition holds and moves on otherwise. -/
theorem branch_clean {xa xb : BitVec 5} (h : SeqTurn s l rep ls [xa, xb])
    (ha : xpois (seqOf ls rep) xa = false) (hb : xpois (seqOf ls rep) xb = false) (f : Dword → Dword → Bool) (off : BitVec 16) :
    branch f xa xb off s = .next (if f (xget (seqOf ls rep) xa) (xget (seqOf ls rep) xb)
      then goto s l rep ls (brTarget (seqOf ls rep) (signed off)) id else updSeq s l rep seqNext) := by
  rw [branch, onSeq_run h _ (List.Subset.refl _), if_neg (by simp [ha, hb])]

/-- A word that runs as the branch on condition `f` does what R260 says. -/
theorem branchesOn_of {xa xb : BitVec 5} (h : SeqTurn s l rep ls [xa, xb]) (f : Dword → Dword → Bool) {i : Instr} {off : BitVec 16}
    (hi : exec i s = branch f xa xb off s) {c : Bool} (hc : f (xget (seqOf ls rep) xa) (xget (seqOf ls rep) xb) = c) :
    BranchesOn s l rep ls xa xb off i c := by
  refine ⟨fun hp => hi.trans (branch_poisoned h hp f off), fun ha hb => ?_⟩
  have hrun := hi.trans (branch_clean h ha hb f off)
  rw [hc] at hrun
  refine ⟨?untaken, ?taken, ?outside⟩
  case untaken =>
    rintro rfl
    exact ⟨_, hrun, seqSteps_next h.lease⟩
  case taken =>
    rintro rfl hd
    exact ⟨_, hrun, seqMoves_goto h.lease hd⟩
  case outside =>
    rintro rfl hd
    exact hrun.trans (congrArg _ (goto_outside s l rep hd id))

/-! ### Jumps -/

/-- The jump is taken: the clean link PC + 4 is in register `x`, the PC is `d`, and nothing else of the state changes. -/
def Links (s u : State) (l : Nat) (rep : Bool) (ls : Lease) (x : BitVec 5) (d : Nat) : Prop :=
  ∃ q', OnlySeq s u l rep ls q' ∧ Writes (seqOf ls rep) q' x (BitVec.ofNat 64 ((seqOf ls rep).pc + 4)) false ∧ q'.pc = d

/-- A jump with a link inside the program region. -/
theorem links_goto (h : leaseOf s l = some ls) {d : Nat} (hd : inRegion ls d = true) (x : BitVec 5) :
    Links s (goto s l rep ls d fun q => xset q x (BitVec.ofNat 64 (q.pc + 4)) false) l rep ls x d := by
  rw [goto_inside s l rep hd]
  exact ⟨_, onlySeq_upd h _, (writes_xset _ x _ _).withPc d, rfl⟩

/-- JMP runs as a jump without a link. -/
theorem exec_jmp {rs : List (BitVec 5)} (h : SeqTurn s l rep ls rs) (off : BitVec 26) :
    exec (.jmp off) s = .next (goto s l rep ls (brTarget (seqOf ls rep) (signed off)) id) := by
  change execJmp off s = _
  rw [execJmp, onSeq_run h _ (List.nil_subset _)]

/-- JAL runs as a jump with its link in X31. -/
theorem exec_jal {rs : List (BitVec 5)} (h : SeqTurn s l rep ls rs) (hrs : [31] ⊆ rs) (off : BitVec 26) :
    exec (.jal off) s = .next (goto s l rep ls (brTarget (seqOf ls rep) (signed off))
      fun q => xset q 31 (BitVec.ofNat 64 (q.pc + 4)) false) := by
  change execJal off s = _
  rw [execJal, onSeq_run h _ hrs]

/-- JALR tests poison, then the alignment of its target, and then jumps with its link in `xd`. -/
theorem exec_jalr {rs : List (BitVec 5)} {xd xa : BitVec 5} (h : SeqTurn s l rep ls rs) (hrs : [xd, xa] ⊆ rs) (i : BitVec 16) :
    exec (.jalr xd xa i) s = .next (
      let t := (xget (seqOf ls rep) xa + simm i).toNat
      if xpois (seqOf ls rep) xa then seqFault s l rep cPCTL 0
      else if t % 4 ≠ 0 then seqFault s l rep cBRANCH t
      else goto s l rep ls t fun q => xset q xd (BitVec.ofNat 64 (q.pc + 4)) false) := by
  change execJalr xd xa i s = _
  rw [execJalr, onSeq_run h _ hrs]

/-- JALR from a poisoned register. -/
theorem exec_jalr_poisoned {rs : List (BitVec 5)} {xd xa : BitVec 5} (h : SeqTurn s l rep ls rs) (hrs : [xd, xa] ⊆ rs)
    (i : BitVec 16) (hp : xpois (seqOf ls rep) xa = true) :
    exec (.jalr xd xa i) s = .next (seqFault s l rep cPCTL 0) :=
  (exec_jalr h hrs i).trans (congrArg _ (if_pos hp))

/-- JALR to an aligned target. -/
theorem exec_jalr_aligned {rs : List (BitVec 5)} {xd xa : BitVec 5} (h : SeqTurn s l rep ls rs) (hrs : [xd, xa] ⊆ rs)
    (i : BitVec 16) (hp : xpois (seqOf ls rep) xa = false) (ht : (xget (seqOf ls rep) xa + simm i).toNat % 4 = 0) :
    exec (.jalr xd xa i) s = .next (goto s l rep ls (xget (seqOf ls rep) xa + simm i).toNat
      fun q => xset q xd (BitVec.ofNat 64 (q.pc + 4)) false) := by
  simp only [exec_jalr h hrs i, hp, Bool.false_eq_true, if_false, ht, ne_eq, not_true_eq_false]

/-- JALR to a misaligned target. -/
theorem exec_jalr_misaligned {rs : List (BitVec 5)} {xd xa : BitVec 5} (h : SeqTurn s l rep ls rs) (hrs : [xd, xa] ⊆ rs)
    (i : BitVec 16) (hp : xpois (seqOf ls rep) xa = false) (ht : (xget (seqOf ls rep) xa + simm i).toNat % 4 ≠ 0) :
    exec (.jalr xd xa i) s = .next (seqFault s l rep cBRANCH (xget (seqOf ls rep) xa + simm i).toNat) := by
  simp only [exec_jalr h hrs i, hp, Bool.false_eq_true, if_false, ht, ne_eq, not_false_eq_true, if_true]

/-! ### Words that never fault -/

/-- NOP runs as a bare move. -/
theorem exec_nop {rs : List (BitVec 5)} (h : SeqTurn s l rep ls rs) : exec .nop s = .next (updSeq s l rep seqNext) := by
  change execNop s = _
  rw [execNop, onSeq_run h _ (List.nil_subset _)]

/-- PTEST runs as a register result. -/
theorem exec_ptest {xd xa : BitVec 5} (h : SeqTurn s l rep ls [xd, xa]) :
    exec (.ptest xd xa) s = .next (aluDone s l rep xd (if xpois (seqOf ls rep) xa then 1 else 0) false) := by
  change execPtest xd xa s = _
  rw [execPtest, onSeq_run h _ (List.Subset.refl _)]

/-- PCLR runs as a register result. -/
theorem exec_pclr {xd xa : BitVec 5} (h : SeqTurn s l rep ls [xd, xa]) :
    exec (.pclr xd xa) s = .next (aluDone s l rep xd (xget (seqOf ls rep) xa) false) := by
  change execPclr xd xa s = _
  rw [execPclr, onSeq_run h _ (List.Subset.refl _)]

end Turn

/-! ### The statements -/

/-- Settles O3: the six branches differ only in the condition that the shared branch tests. -/
theorem branches : Obligations.branches := by
  intro s l rep ls xa xb off h
  exact ⟨branchesOn_of h (fun a b => a == b) rfl rfl, branchesOn_of h (fun a b => a != b) rfl rfl,
    branchesOn_of h (fun a b => a.slt b) rfl rfl, branchesOn_of h (fun a b => b.sle a) rfl rfl,
    branchesOn_of h (fun a b => a.ult b) rfl rfl, branchesOn_of h (fun a b => b.ule a) rfl rfl⟩

/-- Settles O4, by the target: inside the program region, outside it, and for JALR also misaligned. -/
theorem jumps : Obligations.jumps := by
  intro s l rep ls xd xa off i h
  have h31 : [31] ⊆ [31, xd, xa] := by simp
  have hda : [xd, xa] ⊆ [31, xd, xa] := List.subset_cons_self _ _
  refine ⟨fun hd => ⟨?jmp, ?jal⟩, fun hd => ⟨?jmpOut, ?jalOut⟩, exec_jalr_poisoned h hda i, fun hp => ⟨fun ht hd => ?jalr, ?jalrFault⟩⟩
  case jmp => exact ⟨_, exec_jmp h off, seqMoves_goto h.lease hd⟩
  case jal => exact ⟨_, exec_jal h h31 off, links_goto h.lease hd 31⟩
  case jmpOut => exact (exec_jmp h off).trans (congrArg _ (goto_outside s l rep hd _))
  case jalOut => exact (exec_jal h h31 off).trans (congrArg _ (goto_outside s l rep hd _))
  case jalr => exact ⟨_, exec_jalr_aligned h hda i hp ht, links_goto h.lease hd xd⟩
  case jalrFault =>
    intro hbad
    by_cases ht : (xget (seqOf ls rep) xa + simm i).toNat % 4 = 0
    · have hd := hbad.resolve_left (not_not_intro ht)
      exact (exec_jalr_aligned h hda i hp ht).trans (congrArg _ (goto_outside s l rep hd _))
    · exact exec_jalr_misaligned h hda i hp ht

/-- Settles O5: NOP is a bare move; PTEST and PCLR are register results that test nothing. -/
theorem nopPtestPclr : Obligations.nop_ptest_pclr := by
  intro s l rep ls xd xa h
  exact ⟨⟨_, exec_nop h, seqSteps_next h.lease⟩, ⟨_, exec_ptest h, seqResult_aluDone h.lease _ _ _⟩,
    ⟨_, exec_pclr h, seqResult_aluDone h.lease _ _ _⟩⟩

end Sys2Proof.Claims
end

section
/-! SUPPORT. Decoding an encoded instruction gives it back (R219 to R237). An encoded word is taken apart once per form into its
fields; the decoder is then run on any word with these fields. -/

namespace Sys2Proof.Claims

open Sys2Proof Sys2Proof.Machine

/-- A field of a word by its value. -/
theorem fld_eq {w lo n : Nat} {v : BitVec n} (h : w / 2 ^ lo % 2 ^ n = v.toNat) : fld w lo n = v :=
  BitVec.eq_of_toNat_eq h

/-- A field of a word by the number that its bits make. -/
theorem fld_eq_ofNat {w lo n v : Nat} (h : w / 2 ^ lo % 2 ^ n = v % 2 ^ n) : fld w lo n = BitVec.ofNat n v :=
  BitVec.eq_of_toNat_eq (by simpa [fld] using h)

/-- The fields at the low end of a sum whose other terms stand above them. -/
theorem fld_add_mul {lo n k hi v : Nat} (h : lo + n ≤ k) : fld (hi * 2 ^ k + v) lo n = fld v lo n := by
  obtain ⟨j, rfl⟩ := Nat.exists_eq_add_of_le h
  refine fld_eq_ofNat ?_
  have : hi * 2 ^ (lo + n + j) + v = v + 2 ^ lo * (2 ^ n * (2 ^ j * hi)) := by ring
  rw [this, Nat.add_mul_div_left _ _ (by positivity), Nat.add_mul_mod_self_left]

/-- A bit at the low end of a sum whose other terms stand above it. -/
theorem bitOf_add_mul {lo k hi v : Nat} (h : lo < k) : bitOf (hi * 2 ^ k + v) lo = bitOf v lo := by
  have := congrArg BitVec.toNat (fld_add_mul (hi := hi) (v := v) (lo := lo) (n := 1) h)
  simp only [fld, BitVec.toNat_ofNat, pow_one] at this
  simp only [bitOf, this]

/-- A part of a field. -/
theorem fld_of_fld {w lo n : Nat} {v : BitVec n} (h : fld w lo n = v) {j k : Nat} (hk : j + k ≤ n) :
    fld w (lo + j) k = fld v.toNat j k := by
  obtain ⟨i, rfl⟩ := Nat.exists_eq_add_of_le hk
  refine fld_eq_ofNat ?_
  rw [← h, fld, BitVec.toNat_ofNat, pow_add _ (j + k), pow_add _ j, mul_assoc, Nat.mod_mul_right_div_self, Nat.mod_mul_right_mod,
    Nat.div_div_eq_div_mul, pow_add]

/-- A bit of a field. -/
theorem bitOf_of_fld {w lo n : Nat} {v : BitVec n} (h : fld w lo n = v) {j : Nat} (hj : j < n) : bitOf w (lo + j) = bitOf v.toNat j := by
  have := congrArg BitVec.toNat (fld_of_fld h (k := 1) hj)
  simp only [fld, BitVec.toNat_ofNat, pow_one] at this
  simp only [bitOf, this]

/-- The low end of a word: its fields and bits below bit `k` are those of `v`. -/
structure LowBits (w k v : Nat) : Prop where
  fld : ∀ lo n, lo + n ≤ k → Sys2Proof.fld w lo n = Sys2Proof.fld v lo n
  bit : ∀ lo, lo < k → bitOf w lo = bitOf v lo
  mod : ∀ j, j ≤ k → w % 2 ^ j = v % 2 ^ j

theorem LowBits.of_eq {w k hi v : Nat} (h : w = hi * 2 ^ k + v) : LowBits w k v where
  fld lo n hk := by rw [h, fld_add_mul hk]
  bit lo hk := by rw [h, bitOf_add_mul hk]
  mod j hj := by
    obtain ⟨i, rfl⟩ := Nat.exists_eq_add_of_le hj
    rw [h, show hi * 2 ^ (j + i) + v = v + 2 ^ j * (2 ^ i * hi) by ring, Nat.add_mul_mod_self_left]

/-! ### Operand codes -/

@[simp] theorem decTy_encTy (t : ETy) : decTy (BitVec.ofNat 3 (encTy t)) = t := by cases t <;> rfl
@[simp] theorem decScope_encScope (sc : Scope) : decScope (BitVec.ofNat 3 (encScope sc)) = some sc := by cases sc <;> rfl
@[simp] theorem decMSize_encMSize (z : MSize) : decMSize (BitVec.ofNat 2 (encMSize z)) = z := by cases z <;> rfl
@[simp] theorem decASize_encASize (z : ASize) : decASize (BitVec.ofNat 2 (encASize z)) = some z := by cases z <;> rfl
@[simp] theorem decCond_encCond (c : Cond) : decCond (BitVec.ofNat 3 (encCond c)) = some c := by cases c <;> rfl

@[simp] theorem encTy_lt (t : ETy) : encTy t < 8 := by cases t <;> decide
@[simp] theorem encScope_lt (sc : Scope) : encScope sc < 8 := by cases sc <;> decide
@[simp] theorem encMSize_lt (z : MSize) : encMSize z < 4 := by cases z <;> decide
@[simp] theorem encASize_lt (z : ASize) : encASize z < 4 := by cases z <;> decide
@[simp] theorem encCond_lt (c : Cond) : encCond c < 8 := by cases c <;> decide
@[simp] theorem encCFmt_lt (f : CFmt) : encCFmt f < 16 := by cases f <;> decide
@[simp] theorem b2n_lt (b : Bool) : b2n b < 2 := by cases b <;> decide

@[simp] theorem encSrc_lt (a : Src) : encSrc a < 32 := by cases a <;> simp only [encSrc] <;> omega
@[simp] theorem encDst_lt (d : Dst) : encDst d < 32 := by cases d <;> simp only [encDst] <;> omega
@[simp] theorem encMsk_lt (m : Msk) : encMsk m < 8 := by cases m <;> simp only [encMsk] <;> omega

@[simp] theorem decSrc_encSrc (a : Src) : decSrc (BitVec.ofNat 5 (encSrc a)) = some a := by
  cases a with
  | v n =>
    have h : n.toNat < 16 := n.isLt
    simp [decSrc, encSrc, Nat.mod_eq_of_lt (by omega : n.toNat < 32), h]
  | i n =>
    have h : n.toNat < 8 := n.isLt
    simp [decSrc, encSrc, Nat.mod_eq_of_lt (by omega : 16 + n.toNat < 32), show 16 + n.toNat < 24 by omega]
  | k => rfl
  | lane => rfl
  | zero => rfl

@[simp] theorem decDst_encDst (d : Dst) : decDst (BitVec.ofNat 5 (encDst d)) = some d := by
  cases d with
  | v n =>
    have h : n.toNat < 16 := n.isLt
    simp [decDst, encDst, Nat.mod_eq_of_lt (by omega : n.toNat < 32), h]
  | o n =>
    have h : n.toNat < 4 := n.isLt
    simp [decDst, encDst, Nat.mod_eq_of_lt (by omega : 24 + n.toNat < 32), show 16 ≤ 24 + n.toNat by omega, show 24 + n.toNat < 28 by omega]

@[simp] theorem decV_setWidth (d : BitVec 4) : decV (d.setWidth 5) = some d := by
  have h : d.toNat < 16 := d.isLt
  simp [decV, Nat.mod_eq_of_lt (by omega : d.toNat < 32), h]

@[simp] theorem decIn_ofNat (p : BitVec 3) : decIn (BitVec.ofNat 5 (16 + p.toNat)) = some p := by
  have h : p.toNat < 8 := p.isLt
  simp [decIn, Nat.mod_eq_of_lt (by omega : 16 + p.toNat < 32), show 16 + p.toNat < 24 by omega]

@[simp] theorem decOut_ofNat (p : BitVec 2) : decOut (BitVec.ofNat 5 (24 + p.toNat)) = some p := by
  have h : p.toNat < 4 := p.isLt
  simp [decOut, Nat.mod_eq_of_lt (by omega : 24 + p.toNat < 32), show 24 + p.toNat < 28 by omega]

/-- The mask bits of a class-00 word, whatever OPX holds. -/
theorem decMsk_encMsk (m : Msk) {opx : Nat} (h : opx < 8) :
    decMsk (fld (encMsk m * 8 + opx) 5 1) (fld (encMsk m * 8 + opx) 3 2) = some m := by
  cases m with
  | none =>
    rw [fld_eq_ofNat (v := 0) (by simp only [encMsk]; omega), fld_eq_ofNat (v := 0) (by simp only [encMsk]; omega)]
    rfl
  | some n =>
    rw [fld_eq_ofNat (v := 1) (by simp only [encMsk]; omega), fld_eq_ofNat (v := n.toNat) (by simp only [encMsk]; omega)]
    simp [decMsk]

/-- The extension word decodes to the extension that it encodes (R234). -/
theorem decExt_encExt {e : Ext} (h : e.ok = true) : decExt (encExt e) = some e := by
  have hb := b2n_lt e.ch
  have hs := encScope_lt e.scope
  have h30 : fld (encExt e) 30 2 = 3 := fld_eq_ofNat (v := 3) (by simp only [encExt]; omega)
  have h0 : fld (encExt e) 0 12 = 0 := fld_eq_ofNat (v := 0) (by simp only [encExt]; omega)
  have h20 : fld (encExt e) 20 3 = BitVec.ofNat 3 (encScope e.scope) := fld_eq_ofNat (by simp only [encExt]; omega)
  have h25 : fld (encExt e) 25 4 = e.cls := fld_eq (by simp only [encExt]; omega)
  have h23 : fld (encExt e) 23 2 = e.mark := fld_eq (by simp only [encExt]; omega)
  have h17 : fld (encExt e) 17 3 = e.view := fld_eq (by simp only [encExt]; omega)
  have h12 : fld (encExt e) 12 5 = e.nsrc := fld_eq (by simp only [encExt]; omega)
  have hch : bitOf (encExt e) 29 = e.ch := by
    rw [bitOf, show encExt e / 2 ^ 29 % 2 = b2n e.ch by simp only [encExt]; omega]
    cases e.ch <;> rfl
  simp [decExt, h30, h0, h20, h25, h23, h17, h12, hch, need, h]

theorem encExt_lt (e : Ext) : encExt e < 2 ^ 32 := by
  have hb := b2n_lt e.ch
  have hs := encScope_lt e.scope
  simp only [encExt]; omega

/-! ### Words that decode -/

/-- Decoding the encoding of `i`, where `i` is well formed and has one, gives `i` back. -/
def RoundTrips (i : Instr) : Prop := ∀ c, i.wf = true → encode i = some c → c.decode = .ok i

/-- A sequencer word comes back when the table of majors gives its instruction. -/
theorem roundTrips_seq {n : Nat} {i : Instr} (he : encode i = codeS n) (hn : n < 2 ^ 32) (h : decSeqRaw n = some i) :
    RoundTrips i := by
  intro c hw hc
  obtain rfl : Code.seq (BitVec.ofNat 32 n) = c := Option.some.inj (he.symm.trans hc)
  rw [Code.decode, decodeSeq, BitVec.toNat_ofNat, Nat.mod_eq_of_lt hn, h]
  exact if_pos hw

/-- A switch word comes back when the table of kinds gives its instruction. -/
theorem roundTrips_sw {kind rest : Nat} {i : Instr} (he : encode i = codeW kind rest) (hk : kind < 8) (hr : rest < 2 ^ 13)
    (h : ∀ w, w / 2 ^ 13 = kind → LowBits w 13 rest → decSwRaw w = some i) : RoundTrips i := by
  intro c hw hc
  obtain rfl : Code.sw (BitVec.ofNat 16 (kind * 2 ^ 13 + rest)) = c := Option.some.inj (he.symm.trans hc)
  rw [Code.decode, decodeSw, BitVec.toNat_ofNat, Nat.mod_eq_of_lt (by omega), h _ (by omega) (.of_eq rfl)]
  exact if_pos hw

/-- A word of form A (R219): major, three registers, and the function field below them. -/
structure FormA (w maj : Nat) (d a b : BitVec 5) (fn : Nat) : Prop where
  major : w / 2 ^ 26 = maj
  d : fld w 21 5 = d
  a : fld w 16 5 = a
  b : fld w 11 5 = b
  low : LowBits w 11 fn

theorem formA_encA {maj fn : Nat} (d a b : BitVec 5) (hf : fn < 2048) :
    FormA (encA maj d.toNat a.toNat b.toNat fn) maj d a b fn where
  major := by simp only [encA]; omega
  d := fld_eq (by simp only [encA]; omega)
  a := fld_eq (by simp only [encA]; omega)
  b := fld_eq (by simp only [encA]; omega)
  low := .of_eq (hi := maj * 2 ^ 15 + d.toNat * 2 ^ 10 + a.toNat * 2 ^ 5 + b.toNat) (by simp only [encA]; omega)

theorem roundTrips_formA {maj fn : Nat} {d a b : BitVec 5} {i : Instr} (he : encode i = codeS (encA maj d.toNat a.toNat b.toNat fn))
    (hm : maj < 64) (hf : fn < 2048) (h : ∀ w, FormA w maj d a b fn → decSeqRaw w = some i) : RoundTrips i :=
  roundTrips_seq he (by simp only [encA]; omega) (h _ (formA_encA d a b hf))

/-- A word of form I or B (R219): major, two registers, and 16 bits below them. -/
structure FormI (w maj : Nat) (d a : BitVec 5) (imm : Nat) : Prop where
  major : w / 2 ^ 26 = maj
  d : fld w 21 5 = d
  a : fld w 16 5 = a
  low : LowBits w 16 imm

theorem formI_encI {maj imm : Nat} (d a : BitVec 5) (hi : imm < 2 ^ 16) : FormI (encI maj d.toNat a.toNat imm) maj d a imm where
  major := by simp only [encI]; omega
  d := fld_eq (by simp only [encI]; omega)
  a := fld_eq (by simp only [encI]; omega)
  low := .of_eq (hi := maj * 2 ^ 10 + d.toNat * 2 ^ 5 + a.toNat) (by simp only [encI]; omega)

theorem roundTrips_formI {maj imm : Nat} {d a : BitVec 5} {i : Instr} (he : encode i = codeS (encI maj d.toNat a.toNat imm))
    (hm : maj < 64) (hi : imm < 2 ^ 16) (h : ∀ w, FormI w maj d a imm → decSeqRaw w = some i) : RoundTrips i :=
  roundTrips_seq he (by simp only [encI]; omega) (h _ (formI_encI d a hi))

@[simp] theorem fld_toNat_self {n : Nat} (v : BitVec n) : fld v.toNat 0 n = v := fld_eq (by simp [Nat.mod_eq_of_lt v.isLt])


/-! ### Sequencer words (R219 to R227) -/

/-- The register forms of the ALU (R223). -/
theorem roundTrips_alu {d a b : BitVec 5} {fn : Nat} {i : Instr} (he : encode i = codeS (encA 1 d.toNat a.toNat b.toNat fn))
    (hf : fn < 2048) (h : ∀ w, fld w 21 5 = d → fld w 16 5 = a → fld w 11 5 = b → w % 2048 = fn → decAlu w = some i) :
    RoundTrips i :=
  roundTrips_formA he (by decide) hf fun w hw => by
    have := h w hw.d hw.a hw.b ((hw.low.mod 11 le_rfl).trans (Nat.mod_eq_of_lt hf))
    simpa only [decSeqRaw, hw.major]

/-- The words with a 16-bit immediate or offset (R220). -/
theorem roundTrips_imm {d a : BitVec 5} {v : BitVec 16} {maj : Nat} {i : Instr}
    (he : encode i = codeS (encI maj d.toNat a.toNat v.toNat)) (hm : maj < 64)
    (h : ∀ w, FormI w maj d a v.toNat → fld w 0 16 = v → decSeqRaw w = some i) : RoundTrips i :=
  roundTrips_formI he hm v.isLt fun w hw => h w hw ((hw.low.fld 0 16 le_rfl).trans (fld_toNat_self v))

/-- The shifts by an immediate (R220). -/
theorem roundTrips_shift {d a : BitVec 5} {v : BitVec 6} {maj : Nat} {i : Instr}
    (he : encode i = codeS (encI maj d.toNat a.toNat v.toNat)) (hm : maj < 64)
    (h : ∀ w, FormI w maj d a v.toNat → fld w 6 10 = 0 → fld w 0 6 = v → decSeqRaw w = some i) : RoundTrips i :=
  roundTrips_formI he hm (by omega) fun w hw =>
    h w hw ((hw.low.fld 6 10 le_rfl).trans (fld_eq_ofNat (v := 0) (by omega))) ((hw.low.fld 0 6 (by decide)).trans (fld_toNat_self v))

/-- The jumps with a 26-bit offset (R220). -/
theorem roundTrips_jump {v : BitVec 26} {maj : Nat} {i : Instr} (he : encode i = codeS (maj * 2 ^ 26 + v.toNat)) (hm : maj < 64)
    (h : ∀ w, w / 2 ^ 26 = maj → fld w 0 26 = v → decSeqRaw w = some i) : RoundTrips i :=
  roundTrips_seq he (by omega) (h _ (by omega) (fld_eq (by omega)))

/-- The system group (R222): its 16 low bits are `k` over the function. -/
theorem roundTrips_sys {d a : BitVec 5} {k : BitVec 10} {n : Nat} {i : Instr} (fn : Nat) (he : encode i = codeS n)
    (hn : n = encI 0 d.toNat a.toNat (k.toNat * 64 + fn)) (hf : fn < 64)
    (h : ∀ w, fld w 21 5 = d → fld w 16 5 = a → fld w 6 10 = k → LowBits w 16 (k.toNat * 64 + fn) → w % 64 = fn → decSys w = some i) :
    RoundTrips i :=
  roundTrips_formI (hn ▸ he) (by decide) (by omega) fun w hw => by
    have hk : fld w 6 10 = k := (hw.low.fld 6 10 le_rfl).trans (fld_eq (by omega))
    have := h w hw.d hw.a hk hw.low ((hw.low.mod 6 (by decide)).trans (by omega))
    simpa only [decSeqRaw, hw.major]

/-- The atomics (R224). -/
theorem roundTrips_amo {d a b : BitVec 5} {z : ASize} {sc : Scope} {fn : Nat} {i : Instr}
    (he : encode i = codeS (encA 0x22 d.toNat a.toNat b.toNat (encASize z * 128 + encScope sc * 16 + fn))) (hf : fn < 16)
    (h : ∀ w, fld w 21 5 = d → fld w 16 5 = a → fld w 11 5 = b → fld w 9 2 = 0 → decASize (fld w 7 2) = some z →
      decScope (fld w 4 3) = some sc → w % 16 = fn → decAmo w = some i) : RoundTrips i := by
  have hz := encASize_lt z
  have hs := encScope_lt sc
  refine roundTrips_formA he (by decide) (by omega) fun w hw => ?_
  have h9 : fld w 9 2 = 0 := (hw.low.fld 9 2 le_rfl).trans (fld_eq_ofNat (v := 0) (by omega))
  have h7 : fld w 7 2 = BitVec.ofNat 2 (encASize z) := (hw.low.fld 7 2 (by decide)).trans (fld_eq_ofNat (by omega))
  have h4 : fld w 4 3 = BitVec.ofNat 3 (encScope sc) := (hw.low.fld 4 3 (by decide)).trans (fld_eq_ofNat (by omega))
  have := h w hw.d hw.a hw.b h9 (by rw [h7, decASize_encASize]) (by rw [h4, decScope_encScope])
    ((hw.low.mod 4 (by decide)).trans (by omega))
  simpa only [decSeqRaw, hw.major]

/-- The fields of a word of the version group (R225): register, view, bits 7 and 6, function. -/
structure FormV (w : Nat) (d : BitVec 5) (n : BitVec 3) (o7 o6 : Bool) (fn : Nat) : Prop where
  d : fld w 21 5 = d
  zero : fld w 11 10 = 0
  n : fld w 8 3 = n
  o7 : bitOf w 7 = o7
  o6 : bitOf w 6 = o6
  fn : w % 64 = fn

theorem bitOf_eq {w lo : Nat} {b : Bool} (h : w / 2 ^ lo % 2 = b2n b) : bitOf w lo = b := by
  rw [bitOf, h]; cases b <;> rfl

theorem roundTrips_ver {d : BitVec 5} {n : BitVec 3} {o7 o6 : Bool} {v : Nat} {i : Instr} (fn : Nat)
    (he : encode i = codeS (encA 0x28 d.toNat 0 0 v)) (hv : v = n.toNat * 256 + b2n o7 * 128 + b2n o6 * 64 + fn) (hf : fn < 64)
    (h : ∀ w, FormV w d n o7 o6 fn → decVer w = some i) : RoundTrips i := by
  have h7 := b2n_lt o7
  have h6 := b2n_lt o6
  have hw : encA 0x28 d.toNat 0 0 v < 2 ^ 32 := by simp only [encA]; omega
  refine roundTrips_seq he hw ?_
  have hm : encA 0x28 d.toNat 0 0 v / 2 ^ 26 = 0x28 := by simp only [encA]; omega
  have := h (encA 0x28 d.toNat 0 0 v) {
    d := fld_eq (by simp only [encA]; omega)
    zero := fld_eq_ofNat (v := 0) (by simp only [encA]; omega)
    n := fld_eq (by simp only [encA]; omega)
    o7 := bitOf_eq (by simp only [encA]; omega)
    o6 := bitOf_eq (by simp only [encA]; omega)
    fn := by simp only [encA]; omega }
  simpa only [decSeqRaw, hm]

/-- The lease group (R226). -/
theorem roundTrips_lease {d a b : BitVec 5} {fin : Bool} {v : Nat} {i : Instr} (fn : Nat)
    (he : encode i = codeS (encA 0x30 d.toNat a.toNat b.toNat v)) (hv : v = b2n fin * 64 + fn) (hf : fn < 64)
    (h : ∀ w, fld w 21 5 = d → fld w 16 5 = a → fld w 11 5 = b → fld w 7 4 = 0 → bitOf w 6 = fin → w % 64 = fn →
      decLease w = some i) : RoundTrips i := by
  have hb := b2n_lt fin
  refine roundTrips_formA he (by decide) (by omega) fun w hw => ?_
  have := h w hw.d hw.a hw.b ((hw.low.fld 7 4 le_rfl).trans (fld_eq_ofNat (v := 0) (by omega)))
    ((hw.low.bit 6 (by decide)).trans (bitOf_eq (by omega))) ((hw.low.mod 6 (by decide)).trans (by omega))
  simpa only [decSeqRaw, hw.major]

/-- The engine words (R227). -/
theorem roundTrips_eng {d a b : BitVec 5} {y : Bool} {sh : BitVec 2} {maj : Nat}
    {f : BitVec 5 → BitVec 5 → BitVec 5 → Bool → BitVec 2 → Instr}
    (he : encode (f d a b y sh) = codeS (encA maj d.toNat a.toNat b.toNat (b2n y * 4 + sh.toNat))) (hm : maj < 64)
    (h : ∀ w, w / 2 ^ 26 = maj → decSeqRaw w = decEng w f) : RoundTrips (f d a b y sh) := by
  have hb := b2n_lt y
  refine roundTrips_formA he hm (by omega) fun w hw => ?_
  have h3 : fld w 3 8 = 0 := (hw.low.fld 3 8 le_rfl).trans (fld_eq_ofNat (v := 0) (by omega))
  have h2 : bitOf w 2 = y := (hw.low.bit 2 (by decide)).trans (bitOf_eq (by omega))
  have h0 : fld w 0 2 = sh := (hw.low.fld 0 2 (by decide)).trans (fld_eq (by omega))
  simp [h w hw.major, decEng, need, h3, h2, h0, hw.d, hw.a, hw.b]

/-- The words whose low 11 or 16 bits are a fixed function (R226, R227). -/
theorem roundTrips_fixed {d a b : BitVec 5} {maj fn : Nat} {i : Instr} (he : encode i = codeS (encA maj d.toNat a.toNat b.toNat fn))
    (hm : maj < 64) (hf : fn < 2048) (h : ∀ w, FormA w maj d a b fn → fld w 0 11 = BitVec.ofNat 11 fn →
      (b = 0 → w % 2 ^ 16 = fn ∧ fld w 0 16 = BitVec.ofNat 16 fn) → decSeqRaw w = some i) : RoundTrips i :=
  roundTrips_seq he (by simp only [encA]; omega) (h _ (formA_encA d a b hf) (fld_eq_ofNat (by simp only [encA]; omega))
    fun hb => by
      subst hb
      exact ⟨by simp only [encA, show BitVec.toNat (0 : BitVec 5) = 0 from rfl]; omega, fld_eq_ofNat (by simp only [encA, show BitVec.toNat (0 : BitVec 5) = 0 from rfl]; omega)⟩)

/-- LD and ST (R220). -/
theorem roundTrips_mem {d a : BitVec 5} {z : MSize} {sg o : Bool} {off : BitVec 12} {v maj : Nat} {i : Instr}
    (he : encode i = codeS (encI maj d.toNat a.toNat v)) (hm : maj < 64)
    (hv : v = encMSize z * 2 ^ 14 + b2n sg * 2 ^ 13 + b2n o * 2 ^ 12 + off.toNat)
    (h : ∀ w, w / 2 ^ 26 = maj → fld w 21 5 = d → fld w 16 5 = a → decMSize (fld w 14 2) = z → bitOf w 13 = sg → bitOf w 12 = o →
      fld w 0 12 = off → decSeqRaw w = some i) : RoundTrips i := by
  have hz := encMSize_lt z
  have hs := b2n_lt sg
  have ho := b2n_lt o
  refine roundTrips_formI he hm (by omega) fun w hw => h w hw.major hw.d hw.a ?size ?sgn ?ord ?off
  case size => rw [hw.low.fld 14 2 le_rfl, fld_eq_ofNat (v := encMSize z) (by omega), decMSize_encMSize]
  case sgn => exact (hw.low.bit 13 (by decide)).trans (bitOf_eq (by omega))
  case ord => exact (hw.low.bit 12 (by decide)).trans (bitOf_eq (by omega))
  case off => exact (hw.low.fld 0 12 (by decide)).trans (fld_eq (by omega))


/-! ### Operation words (R228 to R236) -/

/-- An operation word of six fields (R228). -/
structure FormO (w cls op ty d a b m : Nat) : Prop where
  cls : w / 2 ^ 30 = cls
  op : w / 2 ^ 24 % 64 = op
  ty : fld w 21 3 = BitVec.ofNat 3 ty
  d : fld w 16 5 = BitVec.ofNat 5 d
  a : fld w 11 5 = BitVec.ofNat 5 a
  b : fld w 6 5 = BitVec.ofNat 5 b
  low : LowBits w 6 m

/-- The sum of the six fields has these fields, and fits a word. -/
theorem formO_encO {cls op ty d a b m : Nat} (hc : cls < 4) (ho : op < 64) (ht : ty < 8) (hd : d < 32) (ha : a < 32) (hb : b < 32)
    (hm : m < 64) : encO cls op ty d a b m < 2 ^ 32 ∧ FormO (encO cls op ty d a b m) cls op ty d a b m := by
  refine ⟨by simp only [encO]; omega, ?_, ?_, fld_eq_ofNat ?_, fld_eq_ofNat ?_, fld_eq_ofNat ?_, fld_eq_ofNat ?_,
    .of_eq (hi := cls * 2 ^ 24 + op * 2 ^ 18 + ty * 2 ^ 15 + d * 2 ^ 10 + a * 2 ^ 5 + b) ?_⟩
  all_goals simp only [encO]; omega

/-- The decoder's reading of an operation word. -/
theorem FormO.fields {w cls op ty d a b m : Nat} (h : FormO w cls op ty d a b m) :
    opFields w = ⟨decTy (BitVec.ofNat 3 ty), BitVec.ofNat 5 d, BitVec.ofNat 5 a, BitVec.ofNat 5 b, fld m 5 1, fld m 3 2, fld m 0 3⟩ := by
  rw [opFields, h.ty, h.d, h.a, h.b, h.low.fld 5 1 le_rfl, h.low.fld 3 2 (by decide), h.low.fld 0 3 (by decide)]

/-- A class-00 word comes back when the table of class 00 gives its instruction. -/
theorem roundTrips_class0 {op ty d a b opx : Nat} {m : Msk} {i : Instr} (he : encode i = enc0 op ty d a b m opx)
    (ho : op < 64) (ht : ty < 8) (hd : d < 32) (ha : a < 32) (hb : b < 32) (hx : opx < 8)
    (h : ∀ w m5 m43, fld w 21 3 = BitVec.ofNat 3 ty → decMsk m5 m43 = some m →
      opFields w = ⟨decTy (BitVec.ofNat 3 ty), BitVec.ofNat 5 d, BitVec.ofNat 5 a, BitVec.ofNat 5 b, m5, m43, BitVec.ofNat 3 opx⟩ →
      decClass0 w op = some i) : RoundTrips i := by
  intro c hw hc
  obtain rfl := Option.some.inj (he.symm.trans hc)
  have hm := encMsk_lt m
  obtain ⟨hlt, hform⟩ := formO_encO (cls := 0) (m := encMsk m * 8 + opx) (by decide) ho ht hd ha hb (by omega)
  rw [Code.decode, decodeOp, BitVec.toNat_ofNat, Nat.mod_eq_of_lt hlt]
  have hopx : fld (encMsk m * 8 + opx) 0 3 = BitVec.ofNat 3 opx := fld_eq_ofNat (by omega)
  simp only [hform.cls, hform.op, h _ _ _ hform.ty (decMsk_encMsk m hx) (hopx ▸ hform.fields)]
  exact if_pos hw

section Class0
variable {t : ETy} {d : Dst} {v : BitVec 4} {a b : Src} {m : Msk} {op : Nat}

theorem roundTrips_bin {f : ETy → Dst → Src → Src → Msk → Instr}
    (he : encode (f t d a b m) = enc0 op (encTy t) (encDst d) (encSrc a) (encSrc b) m 0) (ho : op < 64)
    (h : ∀ w, decClass0 w op = decBin (opFields w) f) : RoundTrips (f t d a b m) :=
  roundTrips_class0 he ho (encTy_lt t) (encDst_lt d) (encSrc_lt a) (encSrc_lt b) (by decide) fun w _ _ _ hm hx => by
    simp [h, decBin, hx, hm, need]

theorem roundTrips_un {f : ETy → Dst → Src → Msk → Instr} (he : encode (f t d a m) = enc0 op (encTy t) (encDst d) (encSrc a) 0 m 0)
    (ho : op < 64) (h : ∀ w, decClass0 w op = decUn (opFields w) f) : RoundTrips (f t d a m) :=
  roundTrips_class0 he ho (encTy_lt t) (encDst_lt d) (encSrc_lt a) (by decide) (by decide) fun w _ _ _ hm hx => by
    simp [h, decUn, hx, hm, need]

theorem roundTrips_acc {f : ETy → BitVec 4 → Src → Src → Msk → Instr}
    (he : encode (f t v a b m) = enc0 op (encTy t) v.toNat (encSrc a) (encSrc b) m 0) (ho : op < 64)
    (h : ∀ w, decClass0 w op = decAcc (opFields w) f) : RoundTrips (f t v a b m) :=
  roundTrips_class0 he ho (encTy_lt t) (by omega) (encSrc_lt a) (encSrc_lt b) (by decide) fun w _ _ _ hm hx => by
    simp [h, decAcc, hx, hm, need]

theorem roundTrips_sat {sat : Bool} {f : ETy → Dst → Src → Src → Msk → Bool → Instr}
    (he : encode (f t d a b m sat) = enc0 op (encTy t) (encDst d) (encSrc a) (encSrc b) m (b2n sat)) (ho : op < 64)
    (h : ∀ w, decClass0 w op = decSat (opFields w) f) : RoundTrips (f t d a b m sat) := by
  have hs := b2n_lt sat
  refine roundTrips_class0 he ho (encTy_lt t) (encDst_lt d) (encSrc_lt a) (encSrc_lt b) (by omega) fun w _ _ _ hm hx => ?_
  simp only [h, decSat, hx, hm, decTy_encTy, decDst_encDst, decSrc_encSrc]
  cases sat <;> rfl

theorem roundTrips_cmp {c : Cond} {f : ETy → Dst → Src → Src → Msk → Cond → Instr}
    (he : encode (f t d a b m c) = enc0 op (encTy t) (encDst d) (encSrc a) (encSrc b) m (encCond c)) (ho : op < 64)
    (h : ∀ w, decClass0 w op = decCmp (opFields w) f) : RoundTrips (f t d a b m c) :=
  roundTrips_class0 he ho (encTy_lt t) (encDst_lt d) (encSrc_lt a) (encSrc_lt b) (encCond_lt c) fun w _ _ _ hm hx => by
    simp [h, decCmp, hx, hm]

/-- The modular operations, of type I64 only (R314). -/
theorem roundTrips_mod {f : Dst → Src → Src → Msk → Instr} (he : encode (f d a b m) = enc0 op 6 (encDst d) (encSrc a) (encSrc b) m 0)
    (ho : op < 64) (h : ∀ w, decClass0 w op = decTyped (opFields w) .i64 f) : RoundTrips (f d a b m) :=
  roundTrips_class0 he ho (by decide) (encDst_lt d) (encSrc_lt a) (encSrc_lt b) (by decide) fun w _ _ _ hm hx => by
    simp [h, decTyped, hx, hm, need, show decTy 6#3 = .i64 from rfl]

theorem roundTrips_bfp {f : Dst → Src → BitVec 4 → Msk → Instr} (he : encode (f d a v m) = enc0 op 1 (encDst d) (encSrc a) v.toNat m 0)
    (ho : op < 64) (h : ∀ w, decClass0 w op = decBfpOp (opFields w) f) : RoundTrips (f d a v m) :=
  roundTrips_class0 he ho (by decide) (encDst_lt d) (encSrc_lt a) (by omega) (by decide) fun w _ _ _ hm hx => by
    have hv : v.toNat % 32 = v.toNat := Nat.mod_eq_of_lt (by omega)
    simp [h, decBfpOp, hx, hm, need, show decTy 1#3 = .f32 from rfl, hv, show v.toNat < 16 from v.isLt]

end Class0

/-- CVT (R231): the code of a format stands over TY and OPX. -/
theorem roundTrips_cvt (df sf : CFmt) (d : Dst) (a : Src) (m : Msk) : RoundTrips (.cvt df sf d a m) := by
  have hsf := encCFmt_lt sf
  have hx : 4 * (encCFmt df / 8) < 8 := by have := encCFmt_lt df; omega
  refine roundTrips_class0 (op := 0x27) rfl (by decide) (by omega) (encDst_lt d) (encSrc_lt a) (by omega) hx fun w _ _ hty hm hf => ?_
  have hty : w / 2 ^ 21 % 8 = encCFmt df % 8 := by simpa [fld] using congrArg BitVec.toNat hty
  simp only [decClass0, hf, hty, hm, decDst_encDst, decSrc_encSrc]
  cases df <;> cases sf <;> rfl

/-- An operation word whose low 16 bits below `d` are `r`. -/
theorem roundTrips_vli (t : ETy) (d : Dst) (v : BitVec 16) : RoundTrips (.vli t d v) := by
  intro c hw hc
  obtain rfl := Option.some.inj hc
  have ht := encTy_lt t
  have hd := encDst_lt d
  rw [Code.decode, decodeOp, BitVec.toNat_ofNat, Nat.mod_eq_of_lt (by simp only [encO]; omega)]
  have hcls : (encO 0 0x16 (encTy t) (encDst d) 0 0 0 + v.toNat) / 2 ^ 30 = 0 := by simp only [encO]; omega
  have hop : (encO 0 0x16 (encTy t) (encDst d) 0 0 0 + v.toNat) / 2 ^ 24 % 64 = 0x16 := by simp only [encO]; omega
  have hty : fld (encO 0 0x16 (encTy t) (encDst d) 0 0 0 + v.toNat) 21 3 = BitVec.ofNat 3 (encTy t) :=
    fld_eq_ofNat (by simp only [encO]; omega)
  have hdst : fld (encO 0 0x16 (encTy t) (encDst d) 0 0 0 + v.toNat) 16 5 = BitVec.ofNat 5 (encDst d) :=
    fld_eq_ofNat (by simp only [encO]; omega)
  have himm : fld (encO 0 0x16 (encTy t) (encDst d) 0 0 0 + v.toNat) 0 16 = v := fld_eq (by simp only [encO]; omega)
  simp only [hcls, hop, decClass0, opFields, hty, hdst, himm, decTy_encTy, decDst_encDst]
  exact if_pos hw

/-- A class-01 word (R232): the fields `d` and `a`, and 11 bits below them. -/
structure FormP (w d a low : Nat) : Prop where
  ty : fld w 21 3 = 0
  d : fld w 16 5 = BitVec.ofNat 5 d
  a : fld w 11 5 = BitVec.ofNat 5 a
  low : fld w 0 11 = BitVec.ofNat 11 low

/-- A class-01 word comes back when the table of class 01 gives its instruction. -/
theorem roundTrips_class1 {op d a b m low : Nat} {i : Instr} (he : encode i = codeO (encO 1 op 0 d a b m + low))
    (hb : op < 64 ∧ d < 32 ∧ a < 32) (hlow : b * 64 + m + low < 2048)
    (h : ∀ w, FormP w d a (b * 64 + m + low) → decClass1 w op = some i) : RoundTrips i := by
  obtain ⟨ho, hd, ha⟩ := hb
  intro c hw hc
  obtain rfl := Option.some.inj (he.symm.trans hc)
  have hform : FormP (encO 1 op 0 d a b m + low) d a (b * 64 + m + low) := by
    refine ⟨fld_eq_ofNat (v := 0) ?_, fld_eq_ofNat ?_, fld_eq_ofNat ?_, fld_eq_ofNat ?_⟩
    all_goals simp only [encO]; omega
  have hcls : (encO 1 op 0 d a b m + low) / 2 ^ 30 = 1 := by simp only [encO]; omega
  have hop : (encO 1 op 0 d a b m + low) / 2 ^ 24 % 64 = op := by simp only [encO]; omega
  rw [Code.decode, decodeOp, BitVec.toNat_ofNat, Nat.mod_eq_of_lt (by simp only [encO]; omega)]
  simp only [hcls, hop, h _ hform]
  exact if_pos hw

/-- A class-01 word without an offset. -/
theorem roundTrips_class1_fields {op d a b m : Nat} {i : Instr} (he : encode i = codeO (encO 1 op 0 d a b m))
    (hb : op < 64 ∧ d < 32 ∧ a < 32) (hlow : b * 64 + m < 2048)
    (h : ∀ w, FormP w d a (b * 64 + m) → decClass1 w op = some i) : RoundTrips i :=
  roundTrips_class1 (low := 0) (by rw [Nat.add_zero]; exact he) hb (by rwa [Nat.add_zero]) (by simpa only [Nat.add_zero] using h)

/-- A port word with a count (R232). -/
theorem FormP.count {w d a : Nat} {n : BitVec 6} (h : FormP w d a (0 * 64 + n.toNat)) : fld w 6 5 = 0 ∧ fld w 0 6 = n := by
  have hl : (BitVec.ofNat 11 (0 * 64 + n.toNat)).toNat = n.toNat := by simp; omega
  exact ⟨(fld_of_fld h.low (j := 6) le_rfl).trans (fld_eq_ofNat (v := 0) (by rw [hl]; omega)),
    (fld_of_fld h.low (j := 0) (by decide)).trans (fld_eq (by rw [hl]; omega))⟩


/-! The memory, storage and matrix words (R233), with their extension word. -/

/-- EXT of a class-10 word (R234). -/
def extBit (x : Option Ext) : Nat := b2n x.isSome * 32
/-- The word that follows a class-10 word (R234). -/
def extWord (x : Option Ext) : Option Word := x.map fun e => BitVec.ofNat 32 (encExt e)

theorem codeX_eq (n : Nat) (x : Option Ext) : codeX n x = some (.op (BitVec.ofNat 32 (n + extBit x)) (extWord x)) := by
  cases x <;> rfl

@[simp] theorem toNat_lt_32 (v : BitVec 4) : v.toNat < 32 := by omega
@[simp] theorem in_lt_32 (p : BitVec 3) : 16 + p.toNat < 32 := by omega
@[simp] theorem out_lt_32 (p : BitVec 2) : 24 + p.toNat < 32 := by omega
@[simp] theorem loc_lt_32 (l : Bool) : b2n l * 16 < 32 := by cases l <;> decide

theorem decOptExt_some (w : Word) : decOptExt true (some w) = (decExt w.toNat).map some := rfl

/-- The extension word is read exactly when EXT is set. -/
theorem decOptExt_extWord {x : Option Ext} (h : okExt x = true) : decOptExt x.isSome (extWord x) = some x := by
  cases x with
  | none => rfl
  | some e =>
    have hw : (BitVec.ofNat 32 (encExt e)).toNat = encExt e := by rw [BitVec.toNat_ofNat, Nat.mod_eq_of_lt (encExt_lt e)]
    have hd : decExt (BitVec.ofNat 32 (encExt e)).toNat = some e := hw.symm ▸ decExt_encExt h
    generalize hv : BitVec.ofNat 32 (encExt e) = v at hd
    rw [extWord, Option.map_some, hv, Option.isSome_some, decOptExt_some, hd, Option.map_some]

/-- A class-10 word (R233): its fields, the extension that it reads, and `m`, the five bits below EXT. -/
structure FormX (w ty d a b m : Nat) (x : Option Ext) : Prop where
  ty : (opFields w).ty = decTy (BitVec.ofNat 3 ty)
  d : (opFields w).d = BitVec.ofNat 5 d
  a : (opFields w).a = BitVec.ofNat 5 a
  b : (opFields w).b = BitVec.ofNat 5 b
  ext : decOptExt ((opFields w).m5 == 1#1) (extWord x) = some x
  low : LowBits w 5 m
  m : fld w 0 6 = BitVec.ofNat 6 (m + extBit x)
  m5 : (opFields w).m5 = BitVec.ofNat 1 (b2n x.isSome)

/-- A class-10 word comes back when the table of class 10 gives its instruction. -/
theorem roundTrips_class2 {op ty d a b m : Nat} {x : Option Ext} {i : Instr} (he : encode i = codeX (encO 2 op ty d a b m) x)
    (hx : i.wf = true → okExt x = true) (hbnd : op < 64 ∧ ty < 8 ∧ d < 32 ∧ a < 32 ∧ b < 32) (hm : i.wf = true → m < 32)
    (h : ∀ w, FormX w ty d a b m x → i.wf = true → decClass2 w op (extWord x) = some i) : RoundTrips i := by
  obtain ⟨ho, ht, hd, ha, hb⟩ := hbnd
  intro c hw hc
  have hm := hm hw
  obtain rfl := Option.some.inj ((codeX_eq _ x).symm.trans (he.symm.trans hc))
  have hbit := b2n_lt x.isSome
  obtain ⟨hlt, hform⟩ := formO_encO (cls := 2) (m := m + extBit x) (by decide) ho ht hd ha hb (by rw [extBit]; omega)
  have heq : encO 2 op ty d a b m + extBit x = encO 2 op ty d a b (m + extBit x) := Nat.add_assoc _ _ _
  rw [heq, Code.decode, decodeOp, BitVec.toNat_ofNat, Nat.mod_eq_of_lt hlt]
  generalize encO 2 op ty d a b (m + extBit x) = w at hform
  have hm5 : fld (m + extBit x) 5 1 = BitVec.ofNat 1 (b2n x.isSome) := fld_eq_ofNat (by rw [extBit]; omega)
  have hext : decOptExt (BitVec.ofNat 1 (b2n x.isSome) == 1#1) (extWord x) = some x := by
    rw [← decOptExt_extWord (hx hw)]; cases x <;> rfl
  have hlow (lo n : Nat) (hn : lo + n ≤ 5) : fld (m + extBit x) lo n = fld m lo n := by
    rw [extBit, Nat.add_comm]; exact fld_add_mul (k := 5) hn
  have hf : FormX w ty d a b m x := by
    refine ⟨?_, ?_, ?_, ?_, ?_, ⟨fun lo n hn => ?_, fun lo hn => ?_, fun j hj => ?_⟩, ?_, ?_⟩
    case refine_6 => rw [hform.low.fld lo n (by omega), hlow lo n hn]
    case refine_7 => rw [hform.low.bit lo (by omega), extBit, Nat.add_comm]; exact bitOf_add_mul (k := 5) hn
    case refine_8 => rw [hform.low.mod j (by omega)]; exact (LowBits.of_eq (k := 5) (Nat.add_comm _ _)).mod j hj
    case refine_9 => rw [hform.low.fld 0 6 (by decide)]; exact fld_eq_ofNat (by rw [extBit]; omega)
    all_goals rw [hform.fields]
    all_goals simp only [hm5, hext]
  simp only [hform.cls, hform.op, h w hf hw]
  exact if_pos hw

/-- A class-10 word without an extension word. -/
theorem roundTrips_class2_alone {op ty d a b m : Nat} {i : Instr} (he : encode i = codeO (encO 2 op ty d a b m))
    (hbnd : op < 64 ∧ ty < 8 ∧ d < 32 ∧ a < 32 ∧ b < 32) (hm : i.wf = true → m < 32)
    (h : ∀ w, FormX w ty d a b m none → i.wf = true → decClass2 w op none = some i) : RoundTrips i :=
  roundTrips_class2 (x := none) he (fun _ => rfl) hbnd hm h


/-- The local bit of a class-10 word (R233). -/
theorem FormX.loc {w ty d a b : Nat} {l : Bool} {x : Option Ext} (h : FormX w ty d a b (b2n l * 16) x) :
    fld w 0 4 = 0 ∧ bitOf w 4 = l :=
  ⟨(h.low.fld 0 4 (by decide)).trans (fld_eq_ofNat (v := 0) (by omega)), (h.low.bit 4 (by decide)).trans (bitOf_eq (by have := b2n_lt l; omega))⟩

theorem encBfp_lt {ty : ETy} {f : Bfp} (h : okBfp ty f = true) : encBfp f < 32 := by
  cases f with
  | none => decide
  | some v => simp [okBfp, okWidth] at h; simp only [encBfp]; omega

/-- The BFP bit and width of a memory form (R233). -/
theorem FormX.bfp {w ty d a b : Nat} {t : ETy} {f : Bfp} {x : Option Ext} (h : FormX w ty d a b (encBfp f) x) (hf : okBfp t f = true) :
    bitOf w 0 = false ∧ decBfp (bitOf w 4) (fld w 1 3) = some f := by
  rw [h.low.bit 0 (by decide), h.low.bit 4 (by decide), h.low.fld 1 3 (by decide)]
  cases f with
  | none => exact ⟨rfl, rfl⟩
  | some v =>
    obtain ⟨hlo, hhi⟩ : 2 ≤ v.toNat ∧ v.toNat ≤ 8 := by simpa [okWidth] using (Bool.and_eq_true_iff.mp hf).1
    have h0 : bitOf (encBfp (some v)) 0 = false := bitOf_eq (by simp [encBfp, b2n])
    have h4 : bitOf (encBfp (some v)) 4 = true := bitOf_eq (by simp only [encBfp, b2n, if_true]; omega)
    have h1 : fld (encBfp (some v)) 1 3 = BitVec.ofNat 3 (v.toNat - 1) := fld_eq_ofNat (by simp only [encBfp]; omega)
    have hne : ¬ BitVec.ofNat 3 (v.toNat - 1) = 0#3 := by rw [← BitVec.toNat_inj]; simp; omega
    have hv : BitVec.ofNat 4 ((v.toNat - 1) % 8 + 1) = v := BitVec.eq_of_toNat_eq (by simp; omega)
    exact ⟨h0, by simp [decBfp, h4, h1, hne, hv]⟩

theorem width_lt {v : BitVec 4} {n : BitVec 2} (h : okWidth v = true) : (v.toNat - 1) * 4 + n.toNat < 32 := by
  obtain ⟨_, _⟩ : 2 ≤ v.toNat ∧ v.toNat ≤ 8 := by simpa [okWidth] using h
  omega

/-- The width of MMA and MMAI (R331). -/
theorem FormX.width {w ty d a b : Nat} {v : BitVec 4} {n : BitVec 2} {x : Option Ext}
    (h : FormX w ty d a b ((v.toNat - 1) * 4 + n.toNat) x) (hv : okWidth v = true) :
    BitVec.ofNat 4 ((fld w 2 3).toNat + 1) = v ∧ fld w 0 2 = n := by
  obtain ⟨hlo, hhi⟩ : 2 ≤ v.toNat ∧ v.toNat ≤ 8 := by simpa [okWidth] using hv
  rw [h.low.fld 2 3 le_rfl, h.low.fld 0 2 (by decide), fld_eq_ofNat (v := v.toNat - 1) (by omega)]
  exact ⟨BitVec.eq_of_toNat_eq (by simp; omega), fld_eq (by omega)⟩

/-! ### The statement -/

/-- Settles O55, form by form: each case names the fields of its encoding and runs the decoder's table on them. -/
theorem decodeOfEncode : Obligations.decode_of_encode := by
  intro i
  change RoundTrips i
  cases i
  case nop | halt | eret | yieldTurn => exact roundTrips_seq rfl (by decide) rfl
  case trap k =>
    exact roundTrips_sys (d := 0) (a := 0) (k := k) 2 rfl (by simp [encI]) (by decide) fun w hd ha hk _ hf => by
      simp [decSys, hd, ha, hk, hf, need]
  case srd d k =>
    exact roundTrips_sys (d := d) (a := 0) (k := k) 4 rfl (by simp [encI]; omega) (by decide) fun w hd ha hk _ hf => by
      simp [decSys, hd, ha, hk, hf, need]
  case swr a k =>
    exact roundTrips_sys (d := 0) (a := a) (k := k) 5 rfl (by simp [encI]; omega) (by decide) fun w hd ha hk _ hf => by
      simp [decSys, hd, ha, hk, hf, need]
  case ptest d a =>
    exact roundTrips_sys (d := d) (a := a) (k := 0) 7 rfl (by simp [encI, encA]) (by decide) fun w hd ha hk _ hf => by
      simp [decSys, hd, ha, hk, hf, need]
  case pclr d a =>
    exact roundTrips_sys (d := d) (a := a) (k := 0) 8 rfl (by simp [encI, encA]) (by decide) fun w hd ha hk _ hf => by
      simp [decSys, hd, ha, hk, hf, need]
  case add d a b | sub d a b | mul d a b | mulh d a b | mulhu d a b | div d a b | divu d a b | rem d a b | remu d a b | and d a b |
      or d a b | xor d a b | shl d a b | shr d a b | sha d a b | slt d a b | sltu d a b | min d a b | max d a b | minu d a b |
      maxu d a b =>
    exact roundTrips_alu rfl (by decide) fun w hd ha hb hf => by simp only [decAlu, hd, ha, hb, hf]
  case clz d a | popc d a =>
    exact roundTrips_alu (b := 0) rfl (by decide) fun w hd ha hb hf => by simp [decAlu, hd, ha, hb, hf, need]
  case addi d a v | andi d a v | ori d a v | xori d a v | slti d a v | sltiu d a v | jalr d a v | beq d a v | bne d a v | blt d a v |
      bge d a v | bltu d a v | bgeu d a v =>
    exact roundTrips_imm rfl (by decide) fun w hw hv => by simp only [decSeqRaw, hw.major, hw.d, hw.a, hv]
  case lih d v =>
    exact roundTrips_imm (a := 0) rfl (by decide) fun w hw hv => by simp only [decSeqRaw, hw.major, hw.d, hw.a, hv]; rfl
  case lik d p v =>
    have hp : (p.setWidth 5).toNat = p.toNat := by simp; omega
    have he : encode (.lik d p v) = codeS (encI 0x0C d.toNat (p.setWidth 5).toNat v.toNat) := by rw [hp]; rfl
    refine roundTrips_imm he (by decide) fun w hw hv => ?_
    have h18 : fld w 18 3 = 0 := (fld_of_fld hw.a (j := 2) le_rfl).trans (fld_eq_ofNat (v := 0) (by omega))
    have h16 : fld w 16 2 = p := (fld_of_fld hw.a (j := 0) (by decide)).trans (fld_eq (by omega))
    simp only [decSeqRaw, hw.major, hw.d, hv, h18, h16]; rfl
  case fence k sc =>
    have hs := encScope_lt sc
    have hk : (BitVec.ofNat 10 (encScope sc * 16 + k.toNat)).toNat = encScope sc * 16 + k.toNat := by simp; omega
    refine roundTrips_sys (d := 0) (a := 0) (k := .ofNat 10 (encScope sc * 16 + k.toNat)) 6 rfl ?_ (by decide) fun w hd ha h _ hf => ?_
    · rw [hk]; simp only [encI, BitVec.ofNat_eq_ofNat, BitVec.toNat_ofNat]; omega
    · have h13 : fld w 13 3 = 0 := (fld_of_fld h (j := 7) le_rfl).trans (fld_eq_ofNat (v := 0) (by omega))
      have h10 : fld w 10 3 = BitVec.ofNat 3 (encScope sc) := (fld_of_fld h (j := 4) (by decide)).trans (fld_eq_ofNat (by omega))
      have h6 : fld w 6 4 = k := (fld_of_fld h (j := 0) (by decide)).trans (fld_eq (by omega))
      simp [decSys, hd, ha, h13, h10, h6, hf, need]
  case shli d a v | shri d a v | shai d a v =>
    exact roundTrips_shift rfl (by decide) fun w hw h6 h0 => by simp only [decSeqRaw, hw.major, hw.d, hw.a, h6, h0]; rfl
  case jmp v | jal v => exact roundTrips_jump rfl (by decide) fun w hm hv => by simp only [decSeqRaw, hm, hv]
  case ld d a z sg o v =>
    exact roundTrips_mem rfl (by decide) rfl fun w hm hd ha hz hs ho hv => by simp only [decSeqRaw, hm, hd, ha, hz, hs, ho, hv]
  case st d a z o v =>
    exact roundTrips_mem (z := z) (sg := false) (o := o) (off := v) rfl (by decide) (by simp [b2n]) fun w hm hd ha hz hs ho hv => by
      simp only [decSeqRaw, hm, hd, ha, hz, hs, ho, hv]; rfl
  case amoAdd d a b z sc | amoAnd d a b z sc | amoOr d a b z sc | amoXor d a b z sc | amoMin d a b z sc | amoMax d a b z sc |
      amoMinu d a b z sc | amoMaxu d a b z sc | amoXchg d a b z sc | amoCas d a b z sc =>
    exact roundTrips_amo rfl (by decide) fun w hd ha hb h9 hz hs hf => by simp [decAmo, hd, ha, hb, h9, hz, hs, hf, need]
  case snap d =>
    exact roundTrips_ver (n := 0) (o7 := false) (o6 := false) 0 rfl (by simp [b2n]) (by decide) fun w hw => by
      simp [decVer, hw.d, hw.zero, hw.n, hw.o7, hw.o6, hw.fn, need]
  case txb d =>
    exact roundTrips_ver (n := 0) (o7 := false) (o6 := false) 2 rfl (by simp [b2n]) (by decide) fun w hw => by
      simp [decVer, hw.d, hw.zero, hw.n, hw.o7, hw.o6, hw.fn, need]
  case srel n =>
    exact roundTrips_ver (d := 0) (n := n) (o7 := false) (o6 := false) 1 rfl (by simp [b2n]) (by decide) fun w hw => by
      simp [decVer, hw.d, hw.zero, hw.n, hw.o7, hw.o6, hw.fn, need]
  case txa n =>
    exact roundTrips_ver (d := 0) (n := n) (o7 := false) (o6 := false) 4 rfl (by simp [b2n]) (by decide) fun w hw => by
      simp [decVer, hw.d, hw.zero, hw.n, hw.o7, hw.o6, hw.fn, need]
  case txc d n c =>
    exact roundTrips_ver (n := n) (o7 := false) (o6 := c) 3 rfl (by simp [b2n]) (by decide) fun w hw => by
      simp [decVer, hw.d, hw.zero, hw.n, hw.o7, hw.o6, hw.fn, need]
  case txs d n =>
    exact roundTrips_ver (n := n) (o7 := false) (o6 := false) 5 rfl (by simp [b2n]) (by decide) fun w hw => by
      simp [decVer, hw.d, hw.zero, hw.n, hw.o7, hw.o6, hw.fn, need]
  case publ d sh c x =>
    have hn : (BitVec.ofNat 3 sh.toNat).toNat = sh.toNat := by simp; omega
    refine roundTrips_ver (n := .ofNat 3 sh.toNat) (o7 := x) (o6 := c) 6 rfl (by rw [hn]) (by decide) fun w hw => ?_
    have h8 : fld w 8 2 = sh := (fld_of_fld hw.n (j := 0) (by decide)).trans (fld_eq (by omega))
    have h10 : bitOf w 10 = false := (bitOf_of_fld hw.n (j := 2) (by decide)).trans (bitOf_eq (by rw [b2n]; simp; omega))
    simp [decVer, hw.d, hw.zero, h8, h10, hw.o7, hw.o6, hw.fn, need]
  case cfg d a b => 
    exact roundTrips_lease (fin := false) 0 rfl rfl (by decide) fun w hd ha hb h7 h6 hf => by
      simp [decLease, hd, ha, hb, h7, h6, hf, need]
  case cswap a fin =>
    exact roundTrips_lease (d := 0) (b := 0) (fin := fin) 1 rfl rfl (by decide) fun w hd ha hb h7 h6 hf => by
      simp [decLease, hd, ha, hb, h7, h6, hf, need]
  case go =>
    exact roundTrips_lease (d := 0) (a := 0) (b := 0) (fin := false) 2 rfl rfl (by decide) fun w hd ha hb h7 h6 hf => by
      simp [decLease, hd, ha, hb, h7, h6, hf, need]
  case waitd d =>
    exact roundTrips_lease (a := 0) (b := 0) (fin := false) 3 rfl rfl (by decide) fun w hd ha hb h7 h6 hf => by
      simp [decLease, hd, ha, hb, h7, h6, hf, need]
  case drain d a =>
    exact roundTrips_lease (b := 0) (fin := false) 4 rfl rfl (by decide) fun w hd ha hb h7 h6 hf => by
      simp [decLease, hd, ha, hb, h7, h6, hf, need]
  case strm a b =>
    exact roundTrips_lease (d := 0) (fin := false) 5 rfl rfl (by decide) fun w hd ha hb h7 h6 hf => by
      simp [decLease, hd, ha, hb, h7, h6, hf, need]
  case grpw a b =>
    exact roundTrips_lease (d := 0) (fin := false) 6 rfl rfl (by decide) fun w hd ha hb h7 h6 hf => by
      simp [decLease, hd, ha, hb, h7, h6, hf, need]
  case ecopy d a b y sh | egath d a b y sh | ecoll d a b y sh =>
    exact roundTrips_eng rfl (by decide) fun w hm => by simp only [decSeqRaw, hm]
  case ewait d a b =>
    exact roundTrips_fixed rfl (by decide) (by decide) fun w hw h0 _ => by simp only [decSeqRaw, hw.major, hw.d, hw.a, hw.b, h0]; rfl
  case launch d a | launchr d a =>
    refine roundTrips_fixed (b := 0) rfl (by decide) (by decide) fun w hw _ h0 => ?_
    obtain ⟨hf, _⟩ := h0 rfl
    simp only [decSeqRaw, hw.major, hw.d, hw.a, hf]
  case join d a =>
    refine roundTrips_fixed (b := 0) rfl (by decide) (by decide) fun w hw _ h0 => ?_
    obtain ⟨_, hf⟩ := h0 rfl
    simp only [decSeqRaw, hw.major, hw.d, hw.a, hf]; rfl
  case elementNop => 
    intro c hw hc
    obtain rfl := Option.some.inj hc
    rfl
  case vadd t d a b m s | vsub t d a b m s | vmul t d a b m s => exact roundTrips_sat rfl (by decide) fun _ => rfl
  case vmulh t d a b m | vmin t d a b m | vmax t d a b m | vand t d a b m | vor t d a b m | vxor t d a b m | vshl t d a b m |
      vshr t d a b m | vsha t d a b m | fadd t d a b m | fsub t d a b m | fmul t d a b m | fmin t d a b m | fmax t d a b m |
      fdiv t d a b m | scl t d a b m | perm t d a b m | bperm t d a b m | lshf t d a b m | shuf t d a b m | pfil t d a b m |
      pset t d a b m =>
    exact roundTrips_bin rfl (by decide) fun _ => rfl
  case vmac t d a b m | vsel t d a b m | ffma t d a b m | ffms t d a b m => exact roundTrips_acc rfl (by decide) fun _ => rfl
  case vabs t d a m | vneg t d a m | vnot t d a m | vpopc t d a m | vclz t d a m | fabs t d a m | fneg t d a m | fsqrt t d a m |
      frsq t d a m | fex2 t d a m | flg2 t d a m | fcls t d a m | rsum t d a m | rmax t d a m | rmin t d a m | ptst t d a m |
      elementPclr t d a m =>
    exact roundTrips_un rfl (by decide) fun _ => rfl
  case vcmp t d a b m c | fcmp t d a b m c => exact roundTrips_cmp rfl (by decide) fun _ => rfl
  case vmov d a m =>
    exact roundTrips_class0 (op := 0x15) rfl (by decide) (by decide) (encDst_lt d) (encSrc_lt a) (by decide) (by decide)
      fun w _ _ _ hm hx => by simp [decClass0, decUn, hx, hm, need, show decTy 0#3 = .i32 from rfl]
  case vli t d v => exact roundTrips_vli t d v
  case cvt df sf d a m => exact roundTrips_cvt df sf d a m
  case bfpk d a v m | bfup d a v m => exact roundTrips_bfp rfl (by decide) fun _ => rfl
  case bcst t d a v m =>
    exact roundTrips_class0 (op := 0x31) rfl (by decide) (encTy_lt t) (encDst_lt d) (encSrc_lt a) (by omega) (by decide)
      fun w _ _ _ hm hx => by simp [decClass0, hx, hm, need]
  case mmul d a b m | madd d a b m | msub d a b m => exact roundTrips_mod rfl (by decide) fun _ => rfl
  case nttb v a b m =>
    exact roundTrips_class0 (op := 0x36) rfl (by decide) (by decide) (by omega) (encSrc_lt a) (encSrc_lt b) (by decide)
      fun w _ _ _ hm hx => by simp [decClass0, hx, hm, need, show decTy 6#3 = .i64 from rfl]
  case exit =>
    exact roundTrips_class1_fields rfl (by simp) (by omega) fun w hw => by simp [decClass1, hw.ty, hw.d, hw.a, hw.low, need]
  case waitf p n | adv p n =>
    exact roundTrips_class1_fields rfl (by simp) (by omega) fun w hw => by
      obtain ⟨h6, h0⟩ := hw.count
      simp [decClass1, hw.ty, hw.d, hw.a, h6, h0, need]
  case waite p n | pub p n =>
    exact roundTrips_class1_fields rfl (by simp) (by omega) fun w hw => by
      obtain ⟨h6, h0⟩ := hw.count
      simp [decClass1, hw.ty, hw.d, hw.a, h6, h0, need]
  case peek d p n =>
    exact roundTrips_class1_fields rfl (by simp) (by omega) fun w hw => by
      obtain ⟨h6, h0⟩ := hw.count
      simp [decClass1, hw.ty, hw.d, hw.a, h6, h0, need]
  case emit p x =>
    have hx := encSrc_lt x
    refine roundTrips_class1_fields rfl (by simp) (by omega) fun w hw => ?_
    have hl : (BitVec.ofNat 11 (encSrc x * 64 + 0)).toNat = encSrc x * 64 := by simp; omega
    have h6 : fld w 6 5 = BitVec.ofNat 5 (encSrc x) := (fld_of_fld hw.low (j := 6) le_rfl).trans (fld_eq_ofNat (by rw [hl]; omega))
    have h0 : fld w 0 6 = 0 := (fld_of_fld hw.low (j := 0) (by decide)).trans (fld_eq_ofNat (v := 0) (by rw [hl]; omega))
    simp [decClass1, hw.ty, hw.d, hw.a, h6, h0, need]
  case eos p =>
    cases p with
    | none => exact roundTrips_class1_fields rfl (by simp) (by omega) fun w hw => by simp [decClass1, hw.ty, hw.d, hw.a, hw.low, need]
    | some p =>
      have hp : ¬ BitVec.ofNat 5 (24 + p.toNat) = 30#5 := by rw [← BitVec.toNat_inj]; simp; omega
      exact roundTrips_class1_fields rfl (by simp) (by omega) fun w hw => by simp [decClass1, hw.ty, hw.d, hw.a, hw.low, need, hp]
  case br o =>
    exact roundTrips_class1 rfl (by simp) (by omega) fun w hw => by simp [decClass1, hw.ty, hw.d, hw.a, hw.low, need]
  case bz x o | bnz x o | ctrw x o =>
    exact roundTrips_class1 rfl (by simp) (by omega) fun w hw => by simp [decClass1, hw.ty, hw.d, hw.a, hw.low, need]
  case loop d o =>
    exact roundTrips_class1 rfl (by simp) (by omega) fun w hw => by simp [decClass1, hw.ty, hw.d, hw.a, hw.low, need]
  case rdct d o =>
    exact roundTrips_class1 rfl (by simp) (by omega) fun w hw => by simp [decClass1, hw.ty, hw.d, hw.a, hw.low, need]
  case gbar g | elementTrap g =>
    refine roundTrips_class1 rfl (by simp) (by omega) fun w hw => ?_
    have hl : (BitVec.ofNat 11 (0 * 64 + 0 + g.toNat)).toNat = g.toNat := by simp; omega
    have h8 : fld w 8 3 = 0 := (fld_of_fld hw.low (j := 8) le_rfl).trans (fld_eq_ofNat (v := 0) (by rw [hl]; omega))
    have h0 : fld w 0 8 = g := (fld_of_fld hw.low (j := 0) (by decide)).trans (fld_eq (by rw [hl]; omega))
    simp [decClass1, hw.ty, hw.d, hw.a, h8, h0, need]
  case tdl a | pref a =>
    exact roundTrips_class2_alone rfl (by simp) (fun _ => by decide) fun w hw _ => by
      simp [decClass2, hw.ty, hw.d, hw.a, hw.b, hw.m, extBit, b2n, need, show decTy 0#3 = .i32 from rfl]
  case wld a b =>
    exact roundTrips_class2_alone rfl (by simp) (fun _ => by decide) fun w hw _ => by
      simp [decClass2, hw.ty, hw.d, hw.a, hw.b, hw.m, extBit, b2n, need, show decTy 0#3 = .i32 from rfl]
  case wswp =>
    exact roundTrips_class2_alone rfl (by simp) (fun _ => by decide) fun w hw _ => by
      simp [decClass2, hw.ty, hw.d, hw.a, hw.b, hw.m, extBit, b2n, need, show decTy 0#3 = .i32 from rfl]
  case mma a b v n | mmai a b v n =>
    exact roundTrips_class2_alone rfl (by simp) width_lt fun w hw hwf => by
      obtain ⟨hv, hn⟩ := hw.width hwf
      simp [decClass2, hw.ty, hw.d, hw.a, hw.b, hw.m5, hv, hn, b2n, need, show decTy 0#3 = .i32 from rfl]
  case acrd t d g n =>
    exact roundTrips_class2_alone rfl (by simp; omega) (fun _ => by omega) fun w hw _ => by
      have h2 : fld w 2 4 = 0 := (fld_of_fld hw.m (j := 2) le_rfl).trans (fld_eq_ofNat (v := 0) (by simp [extBit, b2n]; omega))
      have h0 : fld w 0 2 = n := (hw.low.fld 0 2 (by decide)).trans (fld_toNat_self n)
      have hg : g.toNat % 32 = g.toNat := Nat.mod_eq_of_lt (by omega)
      simp [decClass2, hw.ty, hw.d, hw.a, hw.b, h2, h0, hg, need, show g.toNat < 8 from g.isLt]
  case accl n =>
    exact roundTrips_class2_alone rfl (by simp) (fun _ => by omega) fun w hw _ => by
      have h2 : fld w 2 4 = 0 := (fld_of_fld hw.m (j := 2) le_rfl).trans (fld_eq_ofNat (v := 0) (by simp [extBit, b2n]; omega))
      have h0 : fld w 0 2 = n := (hw.low.fld 0 2 (by decide)).trans (fld_toNat_self n)
      simp [decClass2, hw.ty, hw.d, hw.a, hw.b, h2, h0, need, show decTy 0#3 = .i32 from rfl]
  case gen t d k x =>
    exact roundTrips_class2 rfl (fun h => (Bool.and_eq_true_iff.mp h).2) (by simp) (fun _ => by omega) fun w hw _ => by
      have h0 : fld w 0 4 = k := (hw.low.fld 0 4 (by decide)).trans (fld_toNat_self k)
      have h4 : bitOf w 4 = false := (hw.low.bit 4 (by decide)).trans (bitOf_eq (by simp only [b2n]; simp; omega))
      simp [decClass2, hw.ty, hw.d, hw.a, hw.b, hw.ext, h0, h4, need]
  case gath t d a b f x =>
    refine roundTrips_class2 rfl (fun h => (Bool.and_eq_true_iff.mp h).2) (by simp) (fun h => encBfp_lt (Bool.and_eq_true_iff.mp h).1) fun w hw hwf => ?_
    obtain ⟨h0, hf⟩ := hw.bfp (Bool.and_eq_true_iff.mp hwf).1
    simp [decClass2, hw.ty, hw.d, hw.a, hw.b, hw.ext, h0, hf, need]
  case scat v a b f x =>
    refine roundTrips_class2 rfl (fun h => (Bool.and_eq_true_iff.mp h).2) (by simp) (fun h => encBfp_lt (Bool.and_eq_true_iff.mp h).1) fun w hw hwf => ?_
    obtain ⟨h0, hf⟩ := hw.bfp (Bool.and_eq_true_iff.mp hwf).1
    simp [decClass2, hw.ty, hw.d, hw.a, hw.b, hw.ext, h0, hf, need, show decTy 0#3 = .i32 from rfl]
  case ldm t d a f x =>
    refine roundTrips_class2 rfl (fun h => (Bool.and_eq_true_iff.mp h).2) (by simp) (fun h => encBfp_lt (Bool.and_eq_true_iff.mp h).1) fun w hw hwf => ?_
    obtain ⟨h0, hf⟩ := hw.bfp (Bool.and_eq_true_iff.mp hwf).1
    simp [decClass2, hw.ty, hw.d, hw.a, hw.b, hw.ext, h0, hf, need]
  case stm v a f x =>
    refine roundTrips_class2 rfl (fun h => (Bool.and_eq_true_iff.mp h).2) (by simp) (fun h => encBfp_lt (Bool.and_eq_true_iff.mp h).1) fun w hw hwf => ?_
    obtain ⟨h0, hf⟩ := hw.bfp (Bool.and_eq_true_iff.mp hwf).1
    simp [decClass2, hw.ty, hw.d, hw.a, hw.b, hw.ext, h0, hf, need, show decTy 0#3 = .i32 from rfl]
  case ordStep e =>
    refine roundTrips_class2 (x := some e) rfl ?_ (by simp) (fun _ => by decide) fun w hw hwf => ?_
    · intro h; simp [Instr.wf] at h; exact h.1.1.2
    · have h0 : fld w 0 4 = 0 := hw.low.fld 0 4 (by decide)
      have h4 : bitOf w 4 = false := hw.low.bit 4 (by decide)
      simp [decClass2, hw.ty, hw.d, hw.a, hw.b, hw.ext, h0, h4, need, show decTy 0#3 = .i32 from rfl]
  case ordFence k e =>
    refine roundTrips_class2 (x := some e) rfl ?_ (by simp) (fun _ => by omega) fun w hw hwf => ?_
    · intro h; simp [Instr.wf] at h; simp [okExt, Ext.ok, h]
    · have h0 : fld w 0 4 = k := (hw.low.fld 0 4 (by decide)).trans (fld_eq (by omega))
      have h4 : bitOf w 4 = true := (hw.low.bit 4 (by decide)).trans (bitOf_eq (by simp only [b2n]; simp; omega))
      simp [decClass2, hw.ty, hw.d, hw.a, hw.b, hw.ext, h0, h4, need, show decTy 0#3 = .i32 from rfl]
  case ldt t d a l x =>
    exact roundTrips_class2 rfl id (by simp) (fun _ => by simp) fun w hw _ => by
      obtain ⟨h0, hl⟩ := hw.loc
      simp [decClass2, hw.ty, hw.d, hw.a, hw.b, hw.ext, h0, hl, need]
  case stt v a l x =>
    exact roundTrips_class2 rfl id (by simp) (fun _ => by simp) fun w hw _ => by
      obtain ⟨h0, hl⟩ := hw.loc
      simp [decClass2, hw.ty, hw.d, hw.a, hw.b, hw.ext, h0, hl, need, show decTy 0#3 = .i32 from rfl]
  case aadd t a b l x | amin t a b l x | amax t a b l x | aand t a b l x | aor t a b l x | axor t a b l x =>
    exact roundTrips_class2 rfl (fun h => (Bool.and_eq_true_iff.mp h).2) (by simp) (fun _ => by simp) fun w hw _ => by
      obtain ⟨h0, hl⟩ := hw.loc
      simp [decClass2, hw.ty, hw.d, hw.a, hw.b, hw.ext, h0, hl, need]
  case afad t d a b l x | axch t d a b l x | acas t d a b l x =>
    exact roundTrips_class2 rfl (fun h => (Bool.and_eq_true_iff.mp h).2) (by simp) (fun _ => by simp) fun w hw _ => by
      obtain ⟨h0, hl⟩ := hw.loc
      simp [decClass2, hw.ty, hw.d, hw.a, hw.b, hw.ext, h0, hl, need]
  case syna a b l g x =>
    have hl := b2n_lt l
    have hg := b2n_lt g
    exact roundTrips_class2 rfl id (by simp) (fun _ => by omega) fun w hw _ => by
      have h0 : fld w 0 3 = 0 := (hw.low.fld 0 3 (by decide)).trans (fld_eq_ofNat (v := 0) (by omega))
      have h3 : bitOf w 3 = g := (hw.low.bit 3 (by decide)).trans (bitOf_eq (by omega))
      have h4 : bitOf w 4 = l := (hw.low.bit 4 (by decide)).trans (bitOf_eq (by omega))
      simp [decClass2, hw.ty, hw.d, hw.a, hw.b, hw.ext, h0, h3, h4, need, show decTy 0#3 = .i32 from rfl]
  case synw d a b l x =>
    exact roundTrips_class2 rfl id (by simp) (fun _ => by simp) fun w hw _ => by
      obtain ⟨h0, hl⟩ := hw.loc
      simp [decClass2, hw.ty, hw.d, hw.a, hw.b, hw.ext, h0, hl, need, show decTy 0#3 = .i32 from rfl]
  case switchNop => 
    intro c hw hc
    obtain rfl := Option.some.inj hc
    rfl
  case route a d k | fork a d k | merge a d k =>
    exact roundTrips_sw rfl (by decide) (by omega) fun w hk hw => by
      have h0 : bitOf w 0 = false := (hw.bit 0 (by decide)).trans (bitOf_eq (by simp only [b2n]; simp; omega))
      have ha : fld w 8 5 = a := (hw.fld 8 5 le_rfl).trans (fld_eq (by omega))
      have hd : fld w 3 5 = d := (hw.fld 3 5 (by decide)).trans (fld_eq (by omega))
      have hc : fld w 1 2 = k := (hw.fld 1 2 (by decide)).trans (fld_eq (by omega))
      simp only [decSwRaw, hk, h0, ha, hd, hc]; rfl
  case cut t v | dly t v =>
    exact roundTrips_sw rfl (by decide) (by omega) fun w hk hw => by
      have h12 : bitOf w 12 = false := (hw.bit 12 (by decide)).trans (bitOf_eq (by simp only [b2n]; simp; omega))
      have ht : fld w 8 4 = t := (hw.fld 8 4 (by decide)).trans (fld_eq (by omega))
      have hv : fld w 0 8 = v := (hw.fld 0 8 (by decide)).trans (fld_eq (by omega))
      simp only [decSwRaw, hk, h12, ht, hv]; rfl
  case hold t =>
    exact roundTrips_sw rfl (by decide) (by omega) fun w hk hw => by
      have h12 : bitOf w 12 = false := (hw.bit 12 (by decide)).trans (bitOf_eq (by simp only [b2n]; simp; omega))
      have ht : fld w 8 4 = t := (hw.fld 8 4 (by decide)).trans (fld_eq (by omega))
      have hv : fld w 0 8 = 0 := (hw.fld 0 8 (by decide)).trans (fld_eq_ofNat (v := 0) (by omega))
      simp only [decSwRaw, hk, h12, ht, hv]; rfl
  case fwl k =>
    exact roundTrips_sw rfl (by decide) (by omega) fun w hk hw => by
      have h0 : fld w 0 9 = 0 := (hw.fld 0 9 (by decide)).trans (fld_eq_ofNat (v := 0) (by omega))
      have hc : fld w 9 4 = k := (hw.fld 9 4 le_rfl).trans (fld_eq (by omega))
      simp only [decSwRaw, hk, h0, hc]; rfl
  all_goals exact fun c _ hc => nomatch hc
end Sys2Proof.Claims
end

section
/-! SUPPORT. The ALU of the sequencer (R258, R259): the values that the laws of the sequencer leave out, and the two statements. -/

namespace Sys2Proof.Claims

open Sys2Proof Sys2Proof.Machine

/-- MIN (R258). -/
theorem vMin_eq (a b : Dword) : vMin a b = if a.sle b then a else b := by simp [vMin, Sys2Proof.signed, BitVec.sle]; congr

/-- MAX (R258). -/
theorem vMax_eq (a b : Dword) : vMax a b = if a.sle b then b else a := by simp [vMax, Sys2Proof.signed, BitVec.sle]; congr

/-- MINU (R258). -/
theorem vMinu_eq (a b : Dword) : vMinu a b = if a.ule b then a else b := by simp [vMinu, BitVec.ule]

/-- MAXU (R258). -/
theorem vMaxu_eq (a b : Dword) : vMaxu a b = if a.ule b then b else a := by simp [vMaxu, BitVec.ule]

/-- The first index that a search over `0, 1, …` finds, or their number where it finds none. -/
theorem find_range_spec (p : Nat → Bool) (n : Nat) :
    ((List.range n).find? p).getD n ≤ n ∧ (∀ i, i < ((List.range n).find? p).getD n → p i = false) ∧
      (((List.range n).find? p).getD n < n → p (((List.range n).find? p).getD n) = true) := by
  cases h : (List.range n).find? p with
  | none =>
    simp only [List.find?_eq_none, List.mem_range, Bool.not_eq_true] at h
    exact ⟨le_rfl, h, fun hn => absurd hn (lt_irrefl n)⟩
  | some k =>
    obtain ⟨hk, hn, hlt⟩ := List.find?_range_eq_some.mp h
    simp only [List.mem_range] at hn
    exact ⟨hn.le, fun i hi => by simpa using hlt i hi, fun _ => hk⟩

/-- CLZ counts the zero bits above the highest one bit (R258). -/
theorem clz64_spec (a : Dword) :
    clz64 a ≤ 64 ∧ (∀ i, i < clz64 a → a.getLsbD (63 - i) = false) ∧ (clz64 a < 64 → a.getLsbD (63 - clz64 a) = true) :=
  find_range_spec (fun i => a.getLsbD (63 - i)) 64

/-- The number of elements with a property, as a sum. -/
theorem length_filter_eq_sum {α : Type} (p : α → Bool) (l : List α) : (l.filter p).length = (l.map fun i => (p i).toNat).sum := by
  induction l with
  | nil => rfl
  | cons a r ih => cases h : p a <;> simp [h, ih, Nat.add_comm]

/-- POPC counts the one bits (R258). -/
theorem popc64_eq (a : Dword) : popc64 a = ((List.range 64).map fun i => (a.getLsbD i).toNat).sum :=
  length_filter_eq_sum _ _

/-- Bits `[16p+15:16p]` replaced by an immediate (R259). -/
theorem lik_bit (a : Dword) (p : BitVec 2) (i : BitVec 16) {k : Nat} (hk : k < 64) :
    ((a &&& ~~~BitVec.ofNat 64 (0xFFFF * 2 ^ (16 * p.toNat))) ||| (zimm i <<< (16 * p.toNat))).getLsbD k =
      if k / 16 = p.toNat then i.getLsbD (k % 16) else a.getLsbD k := by
  have hm : (BitVec.ofNat 64 (0xFFFF * 2 ^ (16 * p.toNat))).getLsbD k = decide (k / 16 = p.toNat) := by
    rw [BitVec.getLsbD_ofNat, decide_eq_true hk, Bool.true_and, show 0xFFFF = 2 ^ 16 - 1 from rfl, Nat.testBit_mul_two_pow,
      Nat.testBit_two_pow_sub_one]
    by_cases h : k / 16 = p.toNat
    · simp only [h, decide_true, Bool.and_eq_true, decide_eq_true_eq]; omega
    · simp only [h, decide_false, Bool.and_eq_false_iff, decide_eq_false_iff_not]; omega
  simp only [BitVec.getLsbD_or, BitVec.getLsbD_and, BitVec.getLsbD_not, hm, hk, BitVec.getLsbD_shiftLeft, zimm, BitVec.getLsbD_setWidth]
  by_cases h : k / 16 = p.toNat
  · have h1 : ¬ k < 16 * p.toNat := by omega
    have h2 : k - 16 * p.toNat = k % 16 := by omega
    have h3 : k % 16 < 64 := by omega
    simp [h, h1, h2, h3]
  · have h1 : k < 16 * p.toNat ∨ i.getLsbD (k - 16 * p.toNat) = false := by
      by_cases h1 : k < 16 * p.toNat
      · exact .inl h1
      · exact .inr (BitVec.getLsbD_of_ge _ _ (by omega))
    rcases h1 with h1 | h1 <;> simp [h, h1]

/-- LIH runs as a register result (R259). -/
theorem exec_lih {s : State} {l : Nat} {rep : Bool} {ls : Lease} {rs : List (BitVec 5)} {xd : BitVec 5} (h : SeqTurn s l rep ls rs)
    (hs : [xd] ⊆ rs) (i : BitVec 16) : exec (.lih xd i) s = .next (aluDone s l rep xd (simm i <<< 16) false) := by
  change execLih xd i s = _
  rw [execLih, onSeq_run h _ hs]

/-- LIK runs as a register result (R259). -/
theorem exec_lik {s : State} {l : Nat} {rep : Bool} {ls : Lease} {rs : List (BitVec 5)} {xd : BitVec 5} (h : SeqTurn s l rep ls rs)
    (hs : [xd] ⊆ rs) (p : BitVec 2) (i : BitVec 16) : exec (.lik xd p i) s = .next (aluDone s l rep xd
      ((xget (seqOf ls rep) xd &&& ~~~BitVec.ofNat 64 (0xFFFF * 2 ^ (16 * p.toNat))) ||| (zimm i <<< (16 * p.toNat)))
      (xpois (seqOf ls rep) xd)) := by
  change execLik xd p i s = _
  rw [execLik, onSeq_run h _ hs]

/-- Settles O1: each form is the shared two-source or one-source word with its value. -/
theorem aluRegisterResults : Obligations.alu_register_results := by
  refine ⟨fun s l rep ls xd xa xb h => ?two, fun s l rep ls xd xa h => ?one⟩
  case two =>
    have two {f v} (hv : f (xget (seqOf ls rep) xa) (xget (seqOf ls rep) xb) = v) := alu2_gives h (List.Subset.refl _) (f := f) hv
    exact ⟨two rfl, two rfl, two (vMul_eq _ _), two (vMulh_eq _ _), two rfl, two (vDiv_eq _ _), two (vDivu_eq _ _), two (vRem_eq _ _),
      two (vRemu_eq _ _), two rfl, two rfl, two rfl, two (vShl_eq _ _), two (vShr_eq _ _), two (vSha_eq _ _), two (vSlt_eq _ _),
      two (vSltu_eq _ _), two (vMin_eq _ _), two (vMax_eq _ _), two (vMinu_eq _ _), two (vMaxu_eq _ _)⟩
  case one =>
    obtain ⟨hle, hzero, hone⟩ := clz64_spec (xget (seqOf ls rep) xa)
    exact ⟨⟨_, hle, hzero, hone, alu1_gives (f := fun a => BitVec.ofNat 64 (clz64 a)) h (List.Subset.refl _) rfl⟩,
      alu1_gives (f := fun a => BitVec.ofNat 64 (popc64 a)) h (List.Subset.refl _) (congrArg (BitVec.ofNat 64) (popc64_eq _))⟩

/-- A shift amount of an immediate shift is below 64. -/
theorem zimm_shift (sh : BitVec 6) : (zimm sh).toNat % 64 = sh.toNat := by simp [zimm]; omega

/-- Settles O2: each form is the shared word with its extended immediate. -/
theorem immediateResults : Obligations.immediate_results := by
  intro s l rep ls xd xa i sh p h
  have hd : [xd] ⊆ [xd, xa] := by simp
  have imm {f b v} (hv : f (xget (seqOf ls rep) xa) b = v) := aluI_gives h (List.Subset.refl _) (f := f) hv
  refine ⟨imm rfl, imm rfl, imm rfl, imm rfl, imm ?shl, imm ?shr, imm ?sha, imm (vSlt_eq _ _), imm (vSltu_eq _ _), ?lih, ?lik⟩
  case shl => rw [vShl_eq, zimm_shift]
  case shr => rw [vShr_eq, zimm_shift]
  case sha => rw [vSha_eq, zimm_shift]
  case lih => exact ⟨_, exec_lih h hd i, seqResult_aluDone h.lease _ _ _⟩
  case lik => exact ⟨_, exec_lik h hd p i, _, seqResult_aluDone h.lease _ _ _, fun k hk => lik_bit _ p i hk⟩

end Sys2Proof.Claims
end

section
/-! SUPPORT. What the writes of a unit of the device leave of every lease: all but its views and shadows, which the zeroing of a
unit may doom (R59); and what a fault of a sequencer instruction and the return from a trap do to its lease (R289 to R291, R385). -/

namespace Sys2Proof.Claims

open Sys2Proof Sys2Proof.Machine

/-! ### Leases but for their views -/

/-- A lease that may differ in its views and shadows. -/
def ViewsOnly (ls ls' : Lease) : Prop := ls' = { ls with views := ls'.views, shadows := ls'.shadows }

theorem ViewsOnly.refl (ls : Lease) : ViewsOnly ls ls := rfl

theorem ViewsOnly.trans {a b c : Lease} (h : ViewsOnly a b) (h' : ViewsOnly b c) : ViewsOnly a c := by
  unfold ViewsOnly at *
  rw [h', h]

/-- Every lease is there as before, but for its views and shadows. -/
def LeasesButViews (s t : State) : Prop := ∀ l ls, leaseOf s l = some ls → ∃ ls', leaseOf t l = some ls' ∧ ViewsOnly ls ls'

theorem LeasesButViews.refl (s : State) : LeasesButViews s s := fun _ ls h => ⟨ls, h, .refl ls⟩

theorem LeasesButViews.of_leases {s t : State} (h : t.leases = s.leases) : LeasesButViews s t := fun l ls hl =>
  ⟨ls, by rw [leaseOf, h]; exact hl, .refl ls⟩

theorem LeasesButViews.trans {s t u : State} (h : LeasesButViews s t) (h' : LeasesButViews t u) : LeasesButViews s u := by
  intro l ls hl
  obtain ⟨a, ha, hv⟩ := h l ls hl
  obtain ⟨b, hb, hw⟩ := h' l a ha
  exact ⟨b, hb, hv.trans hw⟩

theorem LeasesButViews.foldl {α : Type} {s t : State} {f : State → α → State} (h : LeasesButViews s t)
    (hf : ∀ s a, LeasesButViews s (f s a)) (as : List α) : LeasesButViews s (as.foldl f t) :=
  foldl_keeps (LeasesButViews s) f (fun t a ht => ht.trans (hf t a)) as h

theorem leasesButViews_updLease (s : State) (l : Nat) {f : Lease → Lease} (hf : ∀ ls, ViewsOnly ls (f ls)) :
    LeasesButViews s (updLease s l f) := by
  intro j ls hj
  by_cases h : j = l
  · subst h
    exact ⟨f ls, leaseOf_updLease f hj, hf ls⟩
  · exact ⟨ls, (leaseOf_updLease_ne s f h).trans hj, .refl ls⟩

@[simp] theorem setLine_leases (s : State) (n : Nat) (y : Line) : (setLine s n y).leases = s.leases := by
  unfold setLine
  refine foldl_keeps (fun t : State => t.leases = s.leases) _ (fun t a h => ?_) _ rfl
  split <;> exact h

@[simp] theorem discardPend_leases (s : State) (l slot : Nat) : (discardPend s l slot).leases = s.leases := by
  unfold discardPend
  refine foldl_keeps (fun t : State => t.leases = s.leases) _ (fun t a h => ?_) _ rfl
  dsimp only
  split
  · rw [setLine_leases]; exact h
  · exact h

theorem leasesButViews_doomView (s : State) (l n code : Nat) : LeasesButViews s (doomView s l n code) :=
  (leasesButViews_updLease s l (f := fun ls => { ls with views := mmod ls.views n fun v => { v with doom := code } })
    fun _ => rfl).trans (.of_leases (discardPend_leases _ _ _))

theorem leasesButViews_doomShadow (s : State) (l n : Nat) : LeasesButViews s (doomShadow s l n) :=
  (leasesButViews_updLease s l (f := fun ls => { ls with shadows := mput ls.shadows n ⟨true, false⟩ })
    fun _ => rfl).trans (.of_leases (discardPend_leases _ _ _))

/-- Zeroing a unit dooms what it takes the pending versions of, and changes nothing else of a lease (R59). -/
theorem leasesButViews_zeroUnit (s : State) (pa : Nat) : LeasesButViews s (zeroUnit s pa) := by
  unfold zeroUnit
  dsimp only
  split
  · refine LeasesButViews.foldl ?_ (fun t e => ?_) _
    · exact .of_leases rfl
    refine LeasesButViews.trans ((LeasesButViews.refl t).foldl (fun u p => ?_) e.2.pend) (.of_leases (setLine_leases _ _ _))
    split
    · exact leasesButViews_doomView _ _ _ _
    · exact leasesButViews_doomShadow _ _ _
  · exact .of_leases rfl

theorem showHbm_leases (s : State) (n : Nat) : (showHbm s n).leases = s.leases :=
  foldl_keeps (fun t : State => t.leases = s.leases) showSector (fun t k h => by unfold showSector; split <;> exact h) _ rfl

theorem llcInstall_leases (s : State) (pa : Nat) : (llcInstall s pa).leases = s.leases := by
  unfold llcInstall
  dsimp only
  split
  · rfl
  · split
    · rfl
    · split
      · exact showHbm_leases _ _
      · rfl

theorem llcUse_leases (wr : Bool) (s : State) (n : Nat) : (llcUse wr s n).leases = s.leases := by
  unfold llcUse
  dsimp only
  split
  · rfl
  · split <;> exact llcInstall_leases _ _

theorem leasesButViews_unitsReady (wr : Bool) (s : State) (pa n : Nat) : LeasesButViews s (unitsReady wr s pa n) :=
  (LeasesButViews.refl s).foldl (f := zeroNow (unitSize pa))
    (fun t k => (leasesButViews_zeroUnit t (k * unitSize pa)).trans (.of_leases rfl)) _

theorem leasesButViews_memPut (s : State) (pa : Nat) (bs : List Byte) (ps : List Bool) : LeasesButViews s (memPut s pa bs ps) :=
  ((leasesButViews_unitsReady true s pa _).foldl (fun t k => .of_leases (llcUse_leases true t k)) _).trans (.of_leases rfl)

theorem leasesButViews_devWr (s : State) (tag : HostTag) (lc : Loc) (bs : List Byte) (ps : List Bool) :
    LeasesButViews s (devWr s tag lc bs ps) := by
  cases lc with
  | mem pa => exact leasesButViews_memPut s pa bs ps
  | _ => exact .of_leases rfl

theorem leasesButViews_smapWr (s : State) (ls : Lease) (va : Nat) (bs : List Byte) : LeasesButViews s (smapWr s ls va bs) := by
  unfold smapWr
  split
  · split
    · exact leasesButViews_devWr _ _ _ _ _
    · exact .refl s
  · exact .refl s

/-! ### Records and traps -/

/-- Record `PUT` enters the mailbox (R387): the count of records grows, and the record stands among those posted. -/
theorem leaseOf_postRec {s : State} {l : Nat} {ls : Lease} (h : leaseOf s l = some ls) (r : FRec) :
    ∃ ls', ViewsOnly ls ls' ∧
      leaseOf (postRec s l r) l = some { ls' with mput := ls.mput + 1, posted := mput ls'.posted ls.mput r } := by
  unfold postRec
  rw [h]
  dsimp only
  obtain ⟨a, ha, hva⟩ := leasesButViews_smapWr s ls (ls.mbox + 64 * (1 + ls.mput % 63))
    ((recDwords l ls.mput ls r).map (leBytes 8)).flatten l ls h
  obtain ⟨b, hb, hvb⟩ := leasesButViews_smapWr _ ls ls.mbox (leBytes 4 ((ls.mput + 1) % 2 ^ 32)) l a ha
  exact ⟨b, hva.trans hvb, leaseOf_updLease _ hb⟩

theorem leaseOf_countPoison (s : State) (t c l : Nat) : leaseOf (countPoison s t c) l = leaseOf s l := by
  unfold countPoison
  split <;> rfl

theorem leaseOf_pfEvent (s : State) (c t l d b a1 a2 j : Nat) : leaseOf (pfEvent s c t l d b a1 a2) j = leaseOf s j := by
  rw [pfEvent_frame]; rfl

/-- An unhandled trap stops the sequencer and marks its lease (R291). -/
theorem leaseOf_unhandled {s : State} {l : Nat} {ls : Lease} (h : leaseOf s l = some ls) (rep : Bool) (c : Nat) :
    leaseOf (unhandled s l rep c) l =
      some { setSeq ls rep { seqOf ls rep with stopped := true } with unhandled := true } := by
  rw [unhandled, h, leaseOf_pfEvent]
  exact leaseOf_updLease _ (leaseOf_updSeq rep _ h)

/-- It signals the host (R291). -/
theorem msix_mem_unhandled {s : State} {l : Nat} {ls : Lease} (h : leaseOf s l = some ls) (rep : Bool) (c : Nat) :
    Out.msix (.vf ls.tenant) 0 ∈ (unhandled s l rep c).out := by
  rw [unhandled, h]
  exact mem_pfEvent_out (List.mem_append_right _ (List.mem_singleton.mpr rfl)) _ _ _ _ _ _ _

/-- The record of a fault of a sequencer instruction (R385). -/
def seqRec (s : State) (ls : Lease) (rep : Bool) (cause faddr : Nat) : FRec :=
  { FRec.zero with
    source := 0, cause := cause, faddr := faddr, pc := (seqOf ls rep).pc, opword := (seqOf ls rep).word
    time := stamp (tickOf s (anchorDie ls)) (anchorDie ls) }

/-- The state in which the trap of a primary's fault is taken: the record is in the mailbox or waits for it (R387). -/
def faultPosted (s : State) (l : Nat) (ls : Lease) (cause : Nat) (r : FRec) : State :=
  if ls.mput - ls.mdone < 63 && ls.recs.isEmpty then postRec (countPoison s ls.tenant cause) l r
  else updLease (countPoison s ls.tenant cause) l fun ls => { ls with recs := ls.recs ++ [r] }

/-- A fault of the primary, by what its record is. -/
theorem seqFaultG_primary {s : State} {l : Nat} {ls : Lease} (h : leaseOf s l = some ls) (cause faddr : Nat) (g : FRec → FRec) :
    seqFaultG s l false cause faddr g =
      let r := g (seqRec s ls false cause faddr)
      let t := faultPosted s l ls cause r
      if ls.seq.intrap then unhandled t l false cause
      else takeTrap t l false ls.seq.pc (match leaseOf t l with
        | some ls1 => mget r ls1.posted ls1.mdone
        | none => r) := by
  rw [seqFaultG, h]; rfl

/-- The lease once the record is posted or waits: its sequencer, tenant, image and launch record are as before. -/
theorem leaseOf_faultPosted {s : State} {l : Nat} {ls : Lease} (h : leaseOf s l = some ls) (cause : Nat) (r : FRec) :
    ∃ ls', leaseOf (faultPosted s l ls cause r) l = some ls' ∧ ls'.seq = ls.seq ∧ ls'.tenant = ls.tenant ∧ ls'.img = ls.img ∧
      ls'.lrec = ls.lrec ∧ ls'.unhandled = ls.unhandled := by
  have hc : leaseOf (countPoison s ls.tenant cause) l = some ls := (leaseOf_countPoison _ _ _ _).trans h
  unfold faultPosted
  split
  · obtain ⟨a, hv, ha⟩ := leaseOf_postRec hc r
    refine ⟨_, ha, ?_⟩
    rw [hv]
    exact ⟨rfl, rfl, rfl, rfl, rfl⟩
  · exact ⟨_, leaseOf_updLease _ hc, rfl, rfl, rfl, rfl, rfl⟩

/-- With nothing before it the record enters the mailbox as the one to be handled next. -/
theorem leaseOf_faultPosted_empty {s : State} {l : Nat} {ls : Lease} (h : leaseOf s l = some ls) (hm : ls.mput = ls.mdone)
    (hr : ls.recs = []) (cause : Nat) (r : FRec) :
    ∃ ls', leaseOf (faultPosted s l ls cause r) l = some ls' ∧ ls'.seq = ls.seq ∧ ls'.img = ls.img ∧ ls'.lrec = ls.lrec ∧
      ls'.mput = ls.mput + 1 ∧ ∀ d, mget d ls'.posted ls'.mdone = r := by
  have hc : leaseOf (countPoison s ls.tenant cause) l = some ls := (leaseOf_countPoison _ _ _ _).trans h
  have hif : (decide (ls.mput - ls.mdone < 63) && ls.recs.isEmpty) = true := by simp [hm, hr]
  rw [faultPosted, if_pos hif]
  obtain ⟨a, hv, ha⟩ := leaseOf_postRec hc r
  refine ⟨_, ha, ?_⟩
  rw [hv]
  refine ⟨rfl, rfl, rfl, rfl, fun d => ?_⟩
  simp only [mget, hm, mfind_mput_self, Option.getD_some]

theorem inRegion_congr {a b : Lease} (hi : b.img = a.img) (hl : b.lrec = a.lrec) (x : Nat) : inRegion b x = inRegion a x := by
  rw [inRegion, inRegion, hi, hl]

/-- The sequencer once it has taken the trap of record `r` at `epc` (R290). -/
def trapped (q : Seq) (epc : Nat) (r : FRec) : Seq :=
  { q with
    epc := epc
    ecause := BitVec.ofNat 26 (r.code * 2 ^ 16 + r.source * 256 + r.cause)
    eaddr := BitVec.ofNat 64 r.faddr
    intrap := true
    saved := keepOp q
    op := .none
    pc := q.tvec }

/-- A fault takes the trap of its own record where no older one waits and a handler inside the program region is set (R290, R388). -/
theorem leaseOf_seqFaultG_trap {s : State} {l : Nat} {ls : Lease} (h : leaseOf s l = some ls) (hm : ls.mput = ls.mdone)
    (hr : ls.recs = []) (hi : ls.seq.intrap = false) (ht : ls.seq.tvec ≠ 0) (hin : inRegion ls ls.seq.tvec = true)
    (cause faddr : Nat) (g : FRec → FRec) :
    ∃ ls', leaseOf (seqFaultG s l false cause faddr g) l = some ls' ∧ ls'.mput = ls.mput + 1 ∧
      ls'.seq = trapped ls.seq ls.seq.pc (g (seqRec s ls false cause faddr)) := by
  obtain ⟨a, ha, hq, himg, hrec, hput, hget⟩ := leaseOf_faultPosted_empty h hm hr cause (g (seqRec s ls false cause faddr))
  rw [seqFaultG_primary h]
  dsimp only
  rw [if_neg (by simp [hi]), ha]
  dsimp only
  rw [hget, takeTrap_eq (rep := false) ha (by rw [seqOf, if_neg Bool.false_ne_true, hq]; exact ht)
    (by rw [seqOf, if_neg Bool.false_ne_true, hq]; exact hi)
    (show inRegion a a.seq.tvec = true by rw [inRegion_congr himg hrec, hq]; exact hin)]
  refine ⟨_, leaseOf_updSeq false _ ha, hput, ?_⟩
  change trapped a.seq _ _ = _
  rw [hq]

/-- An unhandled fault stops the sequencer where it stands and signals the host (R291). -/
theorem seqFaultG_unhandled {s : State} {l : Nat} {ls : Lease} (h : leaseOf s l = some ls)
    (hu : ls.seq.intrap = true ∨ ls.seq.tvec = 0 ∨ inRegion ls ls.seq.tvec = false) (cause faddr : Nat) (g : FRec → FRec) :
    ∃ t ls' c, leaseOf t l = some ls' ∧ ls'.seq = ls.seq ∧ ls'.tenant = ls.tenant ∧
      seqFaultG s l false cause faddr g = unhandled t l false c := by
  obtain ⟨a, ha, hq, htn, hi, hl, _⟩ := leaseOf_faultPosted h cause (g (seqRec s ls false cause faddr))
  rw [seqFaultG_primary h]
  dsimp only
  by_cases hint : ls.seq.intrap = true
  · exact ⟨_, a, cause, ha, hq, htn, if_pos hint⟩
  · rw [if_neg hint, ha]
    dsimp only
    refine ⟨_, a, _, ha, hq, htn, takeTrap_unhandled ha ?_ _ _⟩
    change a.seq.tvec = 0 ∨ a.seq.intrap = true ∨ inRegion a a.seq.tvec = false
    rw [hq, inRegion_congr hi hl]
    exact hu.elim (fun h => absurd h hint) fun h => h.imp id .inr

/-- The return from a trap writes DONE to the mailbox and sets the PC to EPC (R289). -/
theorem leaseOf_eretDone {s : State} {l : Nat} {ls : Lease} (h : leaseOf s l = some ls) (ls0 : Lease) :
    ∃ ls', leaseOf (eretDone s l ls0) l = some ls' ∧ ls'.seq = trapReturn ls.seq := by
  unfold eretDone
  dsimp only
  obtain ⟨b, hb, hv⟩ := leasesButViews_smapWr _ ls0 (ls0.mbox + 8)
    (leBytes 4 ((if ls0.mdone < ls0.mput then doneAfter ls0 63 (ls0.mdone + 1) else ls0.mdone) % 2 ^ 32)) l _
    (leaseOf_updLease (fun ls => { ls with
      mdone := if ls0.mdone < ls0.mput then doneAfter ls0 63 (ls0.mdone + 1) else ls0.mdone
      posted := ls.posted.filter fun e => (if ls0.mdone < ls0.mput then doneAfter ls0 63 (ls0.mdone + 1) else ls0.mdone) ≤ e.1 }) h)
  refine ⟨_, leaseOf_updSeq false _ hb, ?_⟩
  change trapReturn b.seq = _
  rw [hv]

/-! ### Words of a lease that is not paired -/

section Solo
variable {s : State} {l : Nat} {ls : Lease} {rs : List (BitVec 5)}

/-- A word that a pair would run once runs its body. -/
theorem onPair_solo (h : SoloTurn s l ls rs) (replay : Option (State → Nat → State)) (rs' : List (BitVec 5)) (hs : rs' ⊆ rs)
    (f : Nat → Lease → Seq → State) : onPair replay s rs' f = .next (f l ls ls.seq) := by
  rw [onPair, onSeq_run h.turn _ hs, h.solo]
  rfl

theorem onTwins_solo (h : SoloTurn s l ls rs) (rs' : List (BitVec 5)) (hs : rs' ⊆ rs) (f : Nat → Lease → Seq → State) :
    onTwins s rs' f = .next (f l ls ls.seq) := onPair_solo h none rs' hs f

theorem onShared_solo (h : SoloTurn s l ls rs) (rs' : List (BitVec 5)) (hs : rs' ⊆ rs) (f : Nat → Lease → Seq → State) :
    onShared s rs' f = .next (f l ls ls.seq) := onPair_solo h (some fun s _ => s) rs' hs f

/-- SRD reads a listed number, and faults on any other (R257). -/
theorem exec_srd_solo {xd : BitVec 5} (h : SoloTurn s l ls [xd]) (n : BitVec 10) :
    exec (.srd xd n) s = .next (if sysRegAssigned n.toNat
      then aluDone s l false xd (BitVec.ofNat 64 (sysReg s l ls ls.seq n.toNat)) false
      else seqFault s l false cILLEGAL 0) := by
  change execSrd xd n s = _
  exact onTwins_solo h [xd] (List.Subset.refl _) _

theorem srd_gives {xd : BitVec 5} {n : BitVec 10} (h : SoloTurn s l ls [xd]) {k v : Nat} (ha : sysRegAssigned k = true)
    (hv : sysReg s l ls ls.seq k = v) (hn : n.toNat = k) :
    Gives (.srd xd n) s fun t => SeqResult s t l false ls xd (BitVec.ofNat 64 v) false := by
  refine ⟨_, exec_srd_solo h n, ?_⟩
  rw [hn, if_pos ha, hv]
  exact seqResult_aluDone h.turn.lease _ _ _

end Solo

/-- The view-state word of view `v` (R256). -/
theorem sysReg_view (s : State) (l : Nat) (ls : Lease) (q : Seq) {v : Nat} (h1 : 1 ≤ v) (h7 : v ≤ 7) :
    sysRegAssigned (0x040 + v) = true ∧
      sysReg s l ls q (0x040 + v) = (viewOf ls v).sts * 2 ^ 16 + (viewOf ls v).kind * 2 ^ 12 + (viewOf ls v).doom := by
  interval_cases v <;> exact ⟨rfl, rfl⟩

/-- The count of stream `k` (R256). -/
theorem sysReg_stream (s : State) (l : Nat) (ls : Lease) (q : Seq) {k : Nat} (h : k < 64) :
    sysRegAssigned (0x060 + k) = true ∧ sysReg s l ls q (0x060 + k) = (mget Stream.zero ls.streams k).scnt := by
  interval_cases k <;> exact ⟨rfl, rfl⟩

/-! ### The statements -/

/-- Settles O6, number by number. -/
theorem srdReads : Obligations.srd_reads := by
  intro s l ls xd n h
  have rd {k v : Nat} (ha : sysRegAssigned k = true) (hv : sysReg s l ls ls.seq k = v) (hn : n.toNat = k) := srd_gives h ha hv hn
  refine ⟨rd rfl rfl, rd rfl rfl, rd rfl rfl, rd rfl rfl, rd rfl rfl, rd rfl rfl, rd rfl rfl, rd rfl rfl, rd rfl rfl, rd rfl rfl,
    rd rfl rfl, rd rfl rfl, rd rfl rfl, rd rfl rfl, rd rfl rfl, rd rfl rfl, fun v h1 h7 => ?view, fun k hk => ?stream,
    fun k hk => rd ?listed rfl, fun ha => ?fault⟩
  case view => exact rd (sysReg_view s l ls ls.seq h1 h7).1 (sysReg_view s l ls ls.seq h1 h7).2
  case stream => exact rd (sysReg_stream s l ls ls.seq hk).1 (sysReg_stream s l ls ls.seq hk).2
  case listed => revert k; decide
  case fault =>
    rw [exec_srd_solo h, if_neg (by simp [ha])]

/-- A write of a system register changes the fields of the four writable ones alone (R257). -/
theorem sysRegWr_eq (q : Seq) (n : Nat) (v : Dword) :
    sysRegWr q n v =
      { q with
        sview := if n = 0x020 then v.toNat % 8 else q.sview
        tvec := if n = 0x030 then v.toNat % 2 ^ 56 / 4 * 4 else q.tvec
        epc := if n = 0x031 then v.toNat % 2 ^ 56 / 4 * 4 else q.epc
        tscr := if n = 0x036 then v else q.tscr } := by
  unfold sysRegWr
  split
  case h_5 _ h1 h2 h3 h4 => rw [if_neg h1, if_neg h2, if_neg h3, if_neg h4]
  all_goals rfl

/-- SWR tests the number, then the source, then writes (R257). -/
theorem exec_swr {s : State} {l : Nat} {rep : Bool} {ls : Lease} {xa : BitVec 5} (h : SeqTurn s l rep ls [xa]) (n : BitVec 10) :
    exec (.swr xa n) s = .next (if !sysRegAssigned n.toNat then seqFault s l rep cILLEGAL 0
      else if xpois (seqOf ls rep) xa then seqFault s l rep cPCTL 0
      else updSeq s l rep fun q => seqNext (sysRegWr q n.toNat (xget q xa))) := by
  change execSwr xa n s = _
  exact onSeq_run h [xa] (List.Subset.refl _) _

/-- Settles O7: the tests of SWR in their order, then the write. -/
theorem swrWrites : Obligations.swr_writes := by
  intro s l rep ls xa n h
  refine ⟨fun ha => ?illegal, fun ha hp => ?poison, fun ha hp => ?writes⟩
  case illegal => rw [exec_swr h, if_pos (by simp [ha])]
  case poison => rw [exec_swr h, if_neg (by simp [ha]), if_pos hp]
  case writes =>
    have hrun := exec_swr h n
    rw [if_neg (by simp [ha]), if_neg (by simp [hp])] at hrun
    refine ⟨_, hrun, _, onlySeq_upd h.lease _, ?_⟩
    rw [sysRegWr_eq]
    exact ⟨rfl, rfl, rfl, rfl, rfl, rfl⟩

/-- Settles O8: the record is posted as the one to be handled next, and the trap is its own. -/
theorem faultTakesTrap : Obligations.fault_takes_trap := by
  intro s l ls cause faddr hl hm hr hi ht hin
  obtain ⟨a, ha, hput, hq⟩ := leaseOf_seqFaultG_trap hl hm hr hi ht hin cause faddr id
  refine ⟨a, ha, ?_⟩
  rw [hq, hput]
  refine ⟨rfl, ?_, rfl, rfl, rfl, rfl, rfl, rfl, rfl, rfl, rfl⟩
  simp [trapped, seqRec, FRec.zero]

/-- Settles O9, with the cause with which the trap was not taken. -/
theorem faultUnhandled : Obligations.fault_unhandled := by
  intro s l ls cause faddr hl hu
  obtain ⟨t, a, c, ha, hq, htn, hf⟩ := seqFaultG_unhandled hl hu cause faddr id
  dsimp only
  rw [seqFault, hf]
  refine ⟨⟨_, leaseOf_unhandled ha false c, rfl, ?_⟩, htn ▸ msix_mem_unhandled ha false c⟩
  change { a.seq with stopped := true } = _
  rw [hq]

/-- TRAP is a fault with its code (R288). -/
theorem exec_trap {s : State} {l : Nat} {rep : Bool} {ls : Lease} (h : SeqTurn s l rep ls []) (k : BitVec 10) :
    exec (.trap k) s = .next (seqFaultG s l rep cTRAP 0 fun r => { r with code := k.toNat }) := by
  change execTrap k s = _
  exact onSeq_run h [] (List.nil_subset _) _

/-- Settles O10: TRAP is a fault whose record holds its code. -/
theorem trapInstruction : Obligations.trap_instruction := by
  intro s l ls k h hm hr hi ht hin
  obtain ⟨a, ha, _, hq⟩ := leaseOf_seqFaultG_trap h.lease hm hr hi ht hin cTRAP 0 fun r => { r with code := k.toNat }
  refine ⟨_, exec_trap h k, a, ha, ?_⟩
  rw [hq]
  refine ⟨rfl, ?_, rfl, rfl, rfl, rfl, rfl⟩
  simp [trapped, seqRec, FRec.zero, cTRAP]

/-- Settles O11, by the tests of ERET in their order and what the read of dword 7 answers. -/
theorem eretReturns : Obligations.eret_returns := by
  intro s l ls h
  have hrun := onTwins_solo h [] (List.nil_subset _) fun l ls q =>
    let va := ls.mbox + 64 * (1 + ls.mdone % 63) + 56
    if !q.intrap then seqFault s l false cILLEGAL 0
    else if ls.mput ≤ ls.mdone then eretDone s l ls
    else if (match q.op with
        | .page _ => true
        | _ => false) then s
    else match vread l (some false) (lineRuns va 8) [] [] s with
      | .busy s1 => s1
      | .wait j s1 => updSeq s1 l false fun q => { q with op := .page j }
      | .fault c a s1 => seqFault s1 l false c a
      | .ok b p s1 =>
        if p.any id then seqFault s1 l false cPCTL va
        else eretDone (finishRecord s1 l ls (mget FRec.zero ls.posted ls.mdone) (leNat b)) l ls
  refine ⟨fun hi => hrun.trans ?out, fun hi hm => ⟨_, hrun, ?none⟩, fun hi hm hop => ?some⟩
  case out => simp only [hi, Bool.not_false, if_true]
  case none =>
    simp only [hi, Bool.not_true, Bool.false_eq_true, if_false, if_pos hm]
    obtain ⟨a, ha, hq⟩ := leaseOf_eretDone h.turn.lease ls
    refine ⟨a, ha, ?_⟩
    rw [hq]
    exact ⟨rfl, rfl, rfl, rfl, rfl, rfl⟩
  case some =>
    simp only [hi, Bool.not_true, Bool.false_eq_true, if_false, if_neg (Nat.not_le.mpr hm), hop] at hrun
    refine ⟨fun b p s1 hv hp => hrun.trans ?_, fun b p s1 hv hp => hrun.trans ?_, fun c a s1 hv => hrun.trans ?_⟩
    · rw [hv]; simp only [hp, Bool.false_eq_true, if_false]
    · rw [hv]; simp only [hp, if_true]
    · rw [hv]

/-- HALT waits for the engines, then for the phase (R292). -/
theorem exec_halt_solo {s : State} {l : Nat} {ls : Lease} (h : SoloTurn s l ls []) :
    exec .halt s = .next (if !ls.engines.isEmpty then s else if ls.phStarted && !ls.phEnded then s else endLaunch s l) := by
  change execHalt s = _
  exact onTwins_solo h [] (List.nil_subset _) _

/-- A used tile of the lease is not drained yet. -/
def tileBusy (s : State) (l : Nat) (ls : Lease) (t : Nat) : Bool :=
  match tileOf ls t with
  | some x => !x.passed && !drained s l t ls x
  | none => false

/-- YIELD waits for the engines and for the tiles (R293). -/
theorem exec_yieldTurn_solo {s : State} {l : Nat} {ls : Lease} (h : SoloTurn s l ls []) :
    exec .yieldTurn s = .next (if !ls.engines.isEmpty || (usedTiles ls).any (tileBusy s l ls) then s
      else if !ls.markerMode && sliceTakes ls then takeSlice (updSeq s l false seqNext) l else updSeq s l false seqNext) := by
  change execYieldTurn s = _
  exact onTwins_solo h [] (List.nil_subset _) _

/-- No used tile is busy: each is passed or drained. -/
theorem any_tileBusy_eq_false {s : State} {l : Nat} {ls : Lease} : (usedTiles ls).any (tileBusy s l ls) = false ↔
    ∀ t ∈ usedTiles ls, ∀ x, tileOf ls t = some x → x.passed = true ∨ drained s l t ls x = true := by
  rw [List.any_eq_false]
  refine forall₂_congr fun t _ => ?_
  unfold tileBusy
  cases tileOf ls t with
  | none => simp
  | some x => cases h : x.passed <;> simp [h]

/-- Settles O12, by the tests of HALT and of YIELD. -/
theorem haltAndYield : Obligations.halt_and_yield := by
  intro s l ls h
  have halt := exec_halt_solo h
  have yld := exec_yieldTurn_solo h
  refine ⟨fun he hp hs => ?halt, fun hw => ?haltWaits, fun he hq hs => ?yield, fun hw => ?yieldWaits⟩
  case halt =>
    rw [if_neg (by simp [he]), if_neg (by rcases hp with hp | hp <;> simp [hp])] at halt
    refine ⟨_, halt, ?_⟩
    have h' := onlyLease_upd h.turn.lease fun ls => if ls.state == .stop then ls else { ls with state := .stop, endc := 0 }
    rwa [if_neg (by simpa using hs)] at h'
  case haltWaits =>
    rw [halt]
    rcases hw with he | ⟨hs, hd⟩
    · rw [if_pos (by simpa using he)]
    · simp [hs, hd]
  case yield =>
    rw [if_neg (by simp [he, any_tileBusy_eq_false.mpr hq]), if_neg (by simp [hs])] at yld
    exact ⟨_, yld, seqSteps_next h.turn.lease⟩
  case yieldWaits =>
    rw [yld, if_pos]
    rcases hw with he | hq
    · simp [he]
    · simp [Bool.eq_true_of_not_eq_false (mt any_tileBusy_eq_false.mp hq)]

end Sys2Proof.Claims
end

section
/-! SUPPORT. The edges of fences (R119, R126), and the accesses that a sequencer issues (R262 to R264). -/

namespace Sys2Proof.Claims

open Sys2Proof Sys2Proof.Machine

/-! ### Edges -/

/-- Edges of one scope `c` alone. -/
def EdgesOf (c : Nat) (e : Edges) : Prop := ∀ x ∈ e, x.2 = c

theorem EdgesOf.mget {c : Nat} {e : Edges} (h : EdgesOf c e) (i : Nat) : max c (mget 0 e i) = c := by
  have hle : ∀ e : Edges, EdgesOf c e → Machine.mget 0 e i ≤ c := by
    intro e
    induction e with
    | nil => intro _; exact Nat.zero_le c
    | cons x e ih =>
      intro h
      obtain ⟨j, v⟩ := x
      have hv : v = c := h (j, v) (List.mem_cons_self ..)
      rw [Machine.mget, mfind]
      split
      · exact hv.le
      · exact ih fun y hy => h y (List.mem_cons_of_mem _ hy)
  exact max_eq_left (hle e h)

theorem edgesOf_nil (c : Nat) : EdgesOf c [] := fun _ h => absurd h List.not_mem_nil

theorem EdgesOf.mput {c : Nat} {e : Edges} (h : EdgesOf c e) (i : Nat) : EdgesOf c (mput e i c) := fun x hx =>
  (mem_mins hx).elim (fun hx => by rw [hx]) fun hx => h x (mem_mdel hx)

theorem EdgesOf.eAdd {c : Nat} {e : Edges} (h : EdgesOf c e) (ids : NSet) : EdgesOf c (eAdd e ids c) :=
  foldl_keeps (EdgesOf c) _ (fun e i he => by rw [he.mget]; exact he.mput i) ids h

theorem EdgesOf.eUnion {c : Nat} {a b : Edges} (ha : EdgesOf c a) (hb : EdgesOf c b) : EdgesOf c (eUnion a b) := by
  induction b generalizing a with
  | nil => exact ha
  | cons x b ih =>
    have hx : x.2 = c := hb x (List.mem_cons_self ..)
    rw [Machine.eUnion, List.foldl_cons, hx]
    exact ih (ha.eAdd [x.1]) fun y hy => hb y (List.mem_cons_of_mem _ hy)

/-- Edges of scope `c` from the requests `ids`: of two from one request the wider stays (R118). -/
theorem mfind_eAdd (e : Edges) (ids : NSet) (c id : Nat) :
    mfind (eAdd e ids c) id = if nhas ids id then some (max c (mget 0 e id)) else mfind e id := by
  induction ids generalizing e with
  | nil => rfl
  | cons i ids ih =>
    change mfind (eAdd (mput e i (max c (mget 0 e i))) ids c) id = _
    rw [ih, nhas_cons]
    by_cases hi : i = id
    · subst hi
      simp [mget, mfind_mput_self]
    · simp [hi, mget, mfind_mput_ne _ _ (Ne.symm hi)]

theorem mfind_eUnion {a b : Edges} {c : Nat} (hb : EdgesOf c b) (id : Nat) :
    mfind (eUnion a b) id = if (mfind b id).isSome then some (max c (mget 0 a id)) else mfind a id := by
  induction b generalizing a with
  | nil => rfl
  | cons x b ih =>
    obtain ⟨i, v⟩ := x
    have hv : v = c := hb (i, v) (List.mem_cons_self ..)
    subst hv
    change mfind (eUnion (eAdd a [i] v) b) id = _
    rw [ih fun y hy => hb y (List.mem_cons_of_mem _ hy), mfind]
    by_cases hi : i = id
    · simp [mfind_eAdd, mget, nhas, hi]
    · simp [mfind_eAdd, mget, nhas, hi]

/-- Edges of scope `c` from `ids`, where `b` says so. -/
theorem isSome_mfind_eAdd_nil (ids : NSet) (c id : Nat) : (mfind (eAdd [] ids c) id).isSome = nhas ids id := by
  rw [mfind_eAdd]
  cases nhas ids id <;> rfl

/-- The edges of a fence from those of two sets of requests that its kinds name (R126). -/
def fenceEdges (c : Nat) (k : BitVec 4) (a b : Nat) (outA outB : NSet) : Edges :=
  eUnion (if k.getLsbD a then eAdd [] outA c else []) (if k.getLsbD b then eAdd [] outB c else [])

theorem edgesOf_ite (c : Nat) (b : Bool) (ids : NSet) : EdgesOf c (if b then eAdd [] ids c else []) := by
  cases b with
  | false => exact edgesOf_nil c
  | true => exact (edgesOf_nil c).eAdd ids

theorem isSome_mfind_ite (c : Nat) (b : Bool) (ids : NSet) (id : Nat) :
    (mfind (if b then eAdd [] ids c else []) id).isSome = (b && nhas ids id) := by
  cases b with
  | false => rfl
  | true => exact isSome_mfind_eAdd_nil ids c id

theorem mfind_eUnion_fenceEdges (e : Edges) (c : Nat) (k : BitVec 4) (a b : Nat) (outA outB : NSet) (id : Nat) :
    mfind (eUnion e (fenceEdges c k a b outA outB)) id =
      if (k.getLsbD a && nhas outA id) || (k.getLsbD b && nhas outB id) then some (max c (mget 0 e id)) else mfind e id := by
  have hs : (mfind (fenceEdges c k a b outA outB) id).isSome = ((k.getLsbD a && nhas outA id) || (k.getLsbD b && nhas outB id)) := by
    rw [fenceEdges, mfind_eUnion (edgesOf_ite c _ outB), ← isSome_mfind_ite c, ← isSome_mfind_ite c, Bool.or_comm]
    cases (mfind (if k.getLsbD b then eAdd [] outB c else []) id).isSome <;> rfl
  have he : EdgesOf c (fenceEdges c k a b outA outB) := (edgesOf_ite c _ outA).eUnion (edgesOf_ite c _ outB)
  rw [mfind_eUnion he, hs]

/-! ### Fences of a sequencer -/

/-- What a SYS fence waits for where the writes are performed and no host port carried one (R135): nothing. -/
theorem sysWait_none {s : State} {i : Issuer} {ids : NSet} (hp : (ordOf s i).ports = [])
    (ho : ∀ id ∈ ids, ∀ r, reqOf s id = some r → r.stage.open_ = false) : sysWait s i ids = (s, none) := by
  have hs : stillOpen s ids = [] := by
    refine List.filter_eq_nil_iff.mpr fun id hid => ?_
    cases h : reqOf s id with
    | none => simp
    | some r => simp [ho id hid r h]
  simp [sysWait, hs, hp]

theorem ordOf_seq {s : State} {l : Nat} {ls : Lease} (h : leaseOf s l = some ls) (rep : Bool) :
    ordOf s (.seq l rep) = (seqOf ls rep).ord := by rw [ordOf, h]

/-- A FENCE with nothing to wait for orders the accesses and moves on (R126, R266). -/
theorem exec_fence {s : State} {l : Nat} {rep : Bool} {ls : Lease} (h : SeqTurn s l rep ls []) (hop : (seqOf ls rep).op = .none)
    (k : BitVec 4) (sc : Scope) (hw : sc ≠ .sys ∨ ((seqOf ls rep).ord.ports = [] ∧
      ∀ id ∈ (seqOf ls rep).ord.outW, ∀ r, reqOf s id = some r → r.stage.open_ = false)) :
    exec (.fence k sc) s = .next (updSeq s l rep fun q => seqNext { q with ord := fenceOrd k sc q.ord }) := by
  change execFence k sc s = _
  rw [execFence, onSeq_run h [] (List.nil_subset _), hop]
  have hnone : (if sc = .sys then sysWait s (.seq l rep) (seqOf ls rep).ord.outW else (s, none)) = (s, none) := by
    split
    · obtain ⟨hp, ho⟩ := hw.resolve_left (not_not_intro ‹_›)
      exact sysWait_none (by rw [ordOf_seq h.lease]; exact hp) ho
    · rfl
  dsimp only
  rw [hnone]

/-- Settles O13: the fence moves on with the edges that it adds, which `mfind_eUnion_fenceEdges` reads back. -/
theorem fenceOrders : Obligations.fence_orders := by
  refine ⟨fun s l rep ls k sc h hop hw => ?runs, fun k sc o id => ?edges⟩
  case runs => exact ⟨_, exec_fence h hop k sc hw, _, onlySeq_upd h.lease _, rfl, rfl, rfl, rfl⟩
  case edges =>
    exact ⟨mfind_eUnion_fenceEdges o.preR (encScope sc) k 3 1 o.outR o.outW id,
      mfind_eUnion_fenceEdges o.preW (encScope sc) k 2 0 o.outR o.outW id, rfl, rfl, rfl⟩

/-! ### Accesses of a sequencer -/

section Access
variable {s : State} {l : Nat} {rep : Bool} {ls : Lease}

/-- A request of a sequencer changes that sequencer's ordering state alone among the leases. -/
theorem leaseOf_addReq_seq (h : leaseOf s l = some ls) {r : Req} (hi : r.iss = .seq l rep) :
    ∃ o, leaseOf (addReq s r).1 l = some (setSeq ls rep { seqOf ls rep with ord := o }) := by
  unfold addReq
  dsimp only
  rw [hi]
  exact ⟨_, leaseOf_updSeq rep _ (s := { s with reqs := _, nextId := _ }) h⟩

/-- A sequencer access of part `p` is sent, and its word waits for it (R262 to R264). -/
def SeqSent (s t : State) (l : Nat) (rep : Bool) (ls : Lease) (op : MOp) (acq rel : Bool) (p : Part) (d : RDst) : Prop :=
  ∃ r p', reqOf t s.nextId = some r ∧ t.nextId = s.nextId + 1 ∧ r.iss = .seq l rep ∧ r.op = op ∧ r.view = (seqOf ls rep).sview ∧
    r.stage = (if ls.paired then .exit else .issued) ∧ r.parts = [p'] ∧ p'.va = p.va ∧ p'.len = p.len ∧ p'.data = p.data ∧
    p'.pois = p.pois ∧ p'.cmp = p.cmp ∧ p'.cmpPois = p.cmpPois ∧ r.acq = acq ∧ r.rel = rel ∧ r.dst = d ∧ t.mem = s.mem ∧
    ∃ ls', leaseOf t l = some ls' ∧ (seqOf ls' rep).op = .addr s.nextId ∧ (seqOf ls' rep).pc = (seqOf ls rep).pc ∧
      (seqOf ls' rep).x = (seqOf ls rep).x ∧ (seqOf ls' rep).xp = (seqOf ls rep).xp

theorem seqIssue_eq (op : MOp) (sc : Scope) (acq rel : Bool) (p : Part) (d : RDst) :
    ∃ r : Req, seqIssue s l rep ls (seqOf ls rep) op sc acq rel p d =
        updSeq (addReq s r).1 l rep (fun q => { q with op := .addr s.nextId }) ∧ r.iss = .seq l rep ∧ r.op = op ∧
      r.view = (seqOf ls rep).sview ∧ r.stage = (if ls.paired then .exit else .issued) ∧ r.parts = [p] ∧ r.acq = acq ∧
      r.rel = rel ∧ r.dst = d :=
  ⟨_, rfl, rfl, rfl, rfl, rfl, rfl, rfl, rfl, rfl⟩

theorem seqSent_seqIssue (h : leaseOf s l = some ls) (op : MOp) (sc : Scope) (acq rel : Bool) (p : Part) (d : RDst) :
    SeqSent s (seqIssue s l rep ls (seqOf ls rep) op sc acq rel p d) l rep ls op acq rel p d := by
  obtain ⟨r, heq, hi, hop, hv, hst, hp, ha, hr, hd⟩ := seqIssue_eq (s := s) (l := l) (rep := rep) (ls := ls) op sc acq rel p d
  obtain ⟨o, ho⟩ := leaseOf_addReq_seq h hi
  obtain ⟨a, f, b, w, t, hq⟩ := reqOf_addReq s r
  have hf := addReq_frame s r
  rw [heq]
  refine ⟨_, p, hq, (congrArg State.nextId hf :), hi, hop, hv, hst, hp, rfl, rfl, rfl, rfl, rfl, rfl, ha, hr, hd,
    (congrArg State.mem hf :), ?_⟩
  refine ⟨_, leaseOf_updSeq rep _ ho, ?_⟩
  rw [seqOf_setSeq, seqOf_setSeq]
  exact ⟨rfl, rfl, rfl, rfl⟩

/-- The checks of R263 in their order, of an access whose word does what `seqAccess` does. -/
theorem seqAccess_checked (h : leaseOf s l = some ls) (hop : (seqOf ls rep).op = .none) {i : Instr} {xaP : Bool} {va k : Nat}
    {op : MOp} {sc : Scope} {acq rel : Bool} {p : Part} {d : RDst}
    (hi : exec i s = .next (seqAccess s l rep ls (seqOf ls rep) xaP va k op sc acq rel p d)) :
    (xaP = true → exec i s = .next (seqFault s l rep cPADDR va)) ∧
    (xaP = false → va % k ≠ 0 → exec i s = .next (seqFault s l rep cALIGN va)) ∧
    (xaP = false → va % k = 0 → 2 ^ 56 ≤ va → exec i s = .next (seqFault s l rep cTRANS va)) ∧
    (xaP = false → va % k = 0 → va < 2 ^ 56 → ∀ c, viewCheck ls (seqOf ls rep).sview op.acc = some c →
      exec i s = .next (seqFault s l rep c va)) ∧
    (xaP = false → va % k = 0 → va < 2 ^ 56 → viewCheck ls (seqOf ls rep).sview op.acc = none →
      Gives i s fun t => SeqSent s t l rep ls op acq rel p d) := by
  rw [seqAccess, if_neg (not_not_intro hop)] at hi
  have step (c : Option Nat) : seqCheck ls (seqOf ls rep) xaP va k op.acc = c → exec i s = .next (match c with
      | some c => seqFault s l rep c va
      | none => seqIssue s l rep ls (seqOf ls rep) op sc acq rel p d) := by
    rintro rfl
    exact hi
  unfold seqCheck at step
  refine ⟨fun h1 => step (some _) ?_, fun h1 h2 => step (some _) ?_, fun h1 h2 h3 => step (some _) ?_,
    fun h1 h2 h3 c hc => step (some c) ?_, fun h1 h2 h3 hc => ⟨_, step none ?_, seqSent_seqIssue h ..⟩⟩
  · rw [if_pos h1]
  · rw [if_neg (by simp [h1]), if_pos h2]
  · rw [if_neg (by simp [h1]), if_neg (by simp [h2]), if_pos h3]
  · rw [if_neg (by simp [h1]), if_neg (by simp [h2]), if_neg (Nat.not_le.mpr h3), hc]
  · rw [if_neg (by simp [h1]), if_neg (by simp [h2]), if_neg (Nat.not_le.mpr h3), hc]

/-- An AMO is an access at its address, which its register receives (R264). -/
theorem exec_amo {xd xa xb : BitVec 5} (h : SeqTurn s l rep ls [xd, xa, xb]) (op : AOp) (az : ASize) (sc : Scope) :
    amo op xd xa xb az sc s = .next (seqAccess s l rep ls (seqOf ls rep) (xpois (seqOf ls rep) xa) (xget (seqOf ls rep) xa).toNat
      (ASize.bytes az) (.atomic op) sc true true
      { mkPart 0 (xget (seqOf ls rep) xa).toNat (ASize.bytes az) with
        data := leBytes (ASize.bytes az) (xget (seqOf ls rep) xb).toNat
        pois := List.replicate (ASize.bytes az) (xpois (seqOf ls rep) xb)
        cmp := leBytes (ASize.bytes az) (xget (seqOf ls rep) xd).toNat, cmpPois := xpois (seqOf ls rep) xd }
      (.x xd (ASize.bytes az) (op == .min || op == .max))) :=
  onSeq_run h [xd, xa, xb] (List.Subset.refl _) _

theorem exec_ld {xd xa : BitVec 5} {rs : List (BitVec 5)} (h : SeqTurn s l rep ls rs) (hs : [xd, xa] ⊆ rs) (sz : MSize)
    (sg ord : Bool) (off : BitVec 12) : exec (.ld xd xa sz sg ord off) s = .next
      (seqAccess s l rep ls (seqOf ls rep) (xpois (seqOf ls rep) xa) (effAddr (xget (seqOf ls rep) xa) off) (MSize.bytes sz) .read
        .panel ord false (mkPart 0 (effAddr (xget (seqOf ls rep) xa) off) (MSize.bytes sz)) (.x xd (MSize.bytes sz) sg)) := by
  change execLd xd xa sz sg ord off s = _
  exact onSeq_run h [xd, xa] hs _

theorem exec_st {xd xa : BitVec 5} {rs : List (BitVec 5)} (h : SeqTurn s l rep ls rs) (hs : [xd, xa] ⊆ rs) (sz : MSize)
    (ord : Bool) (off : BitVec 12) : exec (.st xd xa sz ord off) s = .next
      (seqAccess s l rep ls (seqOf ls rep) (xpois (seqOf ls rep) xa) (effAddr (xget (seqOf ls rep) xa) off) (MSize.bytes sz) .write
        .panel false ord { mkPart 0 (effAddr (xget (seqOf ls rep) xa) off) (MSize.bytes sz) with
          data := leBytes (MSize.bytes sz) (xget (seqOf ls rep) xd).toNat
          pois := List.replicate (MSize.bytes sz) (xpois (seqOf ls rep) xd) } .none) := by
  change execSt xd xa sz ord off s = _
  exact onSeq_run h [xd, xa] hs _

end Access

/-- Settles O14, each word by the checks that all of them share. -/
theorem seqAccesses : Obligations.seq_accesses := by
  intro s l rep ls xd xa xb sz az sg ord off sc h hop
  have sent {i : Instr} {xaP : Bool} {va k : Nat} {op : MOp} {sc : Scope} {acq rel : Bool} {p : Part} {d : RDst} :=
    seqAccess_checked h.lease hop (i := i) (xaP := xaP) (va := va) (k := k) (op := op) (sc := sc) (acq := acq) (rel := rel)
      (p := p) (d := d)
  have hs : [xd, xa] ⊆ [xd, xa, xb] := fun _ hr => List.mem_append_left [xb] hr
  have atomic (i : Instr) (op : AOp) (hi : exec i s = amo op xd xa xb az sc s) := sent (i := i) (hi.trans (exec_amo h op az sc))
  exact ⟨sent (exec_ld h hs sz sg ord off), sent (exec_st h hs sz ord off), atomic (.amoAdd xd xa xb az sc) .add rfl,
    atomic (.amoAnd xd xa xb az sc) .and rfl, atomic (.amoOr xd xa xb az sc) .or rfl, atomic (.amoXor xd xa xb az sc) .xor rfl,
    atomic (.amoMin xd xa xb az sc) .min rfl, atomic (.amoMax xd xa xb az sc) .max rfl,
    atomic (.amoMinu xd xa xb az sc) .minu rfl, atomic (.amoMaxu xd xa xb az sc) .maxu rfl,
    atomic (.amoXchg xd xa xb az sc) .xchg rfl, atomic (.amoCas xd xa xb az sc) .cas rfl⟩

end Sys2Proof.Claims
end

section
/-! SUPPORT. The words of the version group: what they leave of their lease (R97, R103, R104, R108, R132, R267, R268). -/

namespace Sys2Proof.Claims

open Sys2Proof Sys2Proof.Machine

/-! ### Views of a lease -/

theorem viewOf_mput_self (ls : Lease) (n : Nat) (v : View) : viewOf { ls with views := mput ls.views n v } n = v := by
  simp [viewOf, mget]

theorem viewOf_mput_ne (ls : Lease) {n m : Nat} (v : View) (h : m ≠ n) :
    viewOf { ls with views := mput ls.views n v } m = viewOf ls m := by
  simp [viewOf, mget, mfind_mput_ne _ _ h]

theorem viewOf_mdel_self (ls : Lease) (n : Nat) : viewOf { ls with views := mdel ls.views n } n = View.zero := by
  simp [viewOf, mget, mfind_mdel_self]

theorem viewOf_mdel_ne (ls : Lease) {n m : Nat} (h : m ≠ n) : viewOf { ls with views := mdel ls.views n } m = viewOf ls m := by
  simp [viewOf, mget, mfind_mdel_ne _ h]

/-- An entry that is not empty is listed. -/
theorem mfind_views {ls : Lease} {n : Nat} (h : (viewOf ls n).kind ≠ 0) : mfind ls.views n = some (viewOf ls n) := by
  unfold viewOf mget at *
  cases hv : mfind ls.views n with
  | none => rw [hv] at h; exact absurd rfl h
  | some v => rfl

theorem viewOf_mmod_self {ls : Lease} {n : Nat} (f : View → View) (h : (viewOf ls n).kind ≠ 0) :
    viewOf { ls with views := mmod ls.views n f } n = f (viewOf ls n) := by
  rw [viewOf, mget, mfind_mmod_self _ _ _ _ (mfind_views h)]
  rfl

theorem viewOf_mmod_ne (ls : Lease) {n m : Nat} (f : View → View) (h : m ≠ n) :
    viewOf { ls with views := mmod ls.views n f } m = viewOf ls m := by
  rw [viewOf, mget, mfind_mmod_ne _ _ h]
  rfl

/-- The lowest empty entry (R97). -/
theorem freeView_eq_some {ls : Lease} {n : Nat} (h1 : 1 ≤ n) (h7 : n ≤ 7) (h0 : (viewOf ls n).kind = 0)
    (hlow : ∀ m, 1 ≤ m → m < n → (viewOf ls m).kind ≠ 0) : freeView ls = some n := by
  rw [freeView, List.find?_eq_some_iff_append]
  refine ⟨by simpa using h0, (List.range (n - 1)).map (· + 1), ((List.range (7 - n)).map (· + (n + 1))), ?_, fun m hm => ?_⟩
  · interval_cases n <;> rfl
  · obtain ⟨j, hj, rfl⟩ := List.mem_map.mp hm
    have hj := List.mem_range.mp hj
    simpa using hlow (j + 1) (by omega) (by omega)

theorem freeView_eq_none {ls : Lease} (h : ∀ n, 1 ≤ n → n ≤ 7 → (viewOf ls n).kind ≠ 0) : freeView ls = none := by
  rw [freeView, List.find?_eq_none]
  intro m hm
  obtain ⟨j, hj, rfl⟩ := List.mem_map.mp hm
  have hj := List.mem_range.mp hj
  simpa using h (j + 1) (by omega) (by omega)

/-! ### Versions of lines -/

/-- A state that differs at most in the versions of lines and in what their slots count (R94, R95). -/
def LinesOnly (s t : State) : Prop := t = { s with lines := t.lines, poolUsed := t.poolUsed, vfs := t.vfs }

theorem LinesOnly.trans {s t u : State} (h : LinesOnly s t) (h' : LinesOnly t u) : LinesOnly s u := by
  unfold LinesOnly at *
  rw [h', h]

theorem linesOnly_setLine (s : State) (n : Nat) (y : Line) : LinesOnly s (setLine s n y) := by
  unfold setLine
  refine LinesOnly.trans (foldl_keeps (LinesOnly s) _ (fun t a ht => ?_) _ (show LinesOnly s s from rfl)) rfl
  split
  · exact ht.trans rfl
  · exact ht

theorem linesOnly_discardPend (s : State) (l slot : Nat) : LinesOnly s (discardPend s l slot) := by
  unfold discardPend
  refine foldl_keeps (LinesOnly s) _ (fun t a ht => ?_) _ (show LinesOnly s s from rfl)
  dsimp only
  split
  · exact ht.trans (linesOnly_setLine _ _ _)
  · exact ht

theorem LinesOnly.tickOf {s t : State} (h : LinesOnly s t) (d : Nat) : tickOf t d = tickOf s d := by rw [h]; rfl

/-! ### Leases after the words -/

section
variable {s : State} {l : Nat} {ls : Lease}

theorem leaseOf_discardPend (s : State) (l slot j : Nat) : leaseOf (discardPend s l slot) j = leaseOf s j := by
  rw [leaseOf, discardPend_leases, leaseOf]

theorem leaseOf_sharedDone (h : leaseOf s l = some ls) (xd : BitVec 5) (v : Nat) :
    leaseOf (sharedDone s l xd v) l = some { ls with seq := seqNext (xset ls.seq xd (BitVec.ofNat 64 v) false) } :=
  leaseOf_updSeq false _ h

theorem leaseOf_emptyView (h : leaseOf s l = some ls) (n : Nat) :
    leaseOf (emptyView s l n) l = some { ls with views := mdel ls.views n } := leaseOf_updLease _ h

theorem leaseOf_doomView (h : leaseOf s l = some ls) (n c : Nat) :
    leaseOf (doomView s l n c) l = some { ls with views := mmod ls.views n fun v => { v with doom := c } } := by
  rw [doomView, leaseOf_discardPend]
  exact leaseOf_updLease _ h

/-- Register `xd` after a word that gives it `v`, clean. -/
theorem result_seqNext_xset (q : Seq) (xd : BitVec 5) (v : Dword) (hxd : xd ≠ 0) :
    xget (seqNext (xset q xd v false)) xd = v ∧ xpois (seqNext (xset q xd v false)) xd = false := by
  rw [xget_seqNext, xpois_seqNext]
  exact ⟨xget_xset_self q v false hxd, xpois_xset_self q v false hxd⟩

/-- SNAP and TXB (R97). -/
theorem openView_solo {xd : BitVec 5} (h : SoloTurn s l ls [xd]) (kind : Nat) :
    openView kind xd s = .next (match (if s.clockStopped then none else freeView ls) with
      | some n => sharedDone (updLease s l fun ls =>
          { ls with views := mput ls.views n ⟨stamp (tickOf s (anchorDie ls) - 2) 0xFF, kind, 0, 0, s.nextId⟩ }) l xd n
      | none => sharedDone s l xd 0) := by
  rw [openView, onTwins_solo h [xd] (List.Subset.refl _)]
  cases (if s.clockStopped then none else freeView ls) with
  | none => rfl
  | some n =>
    have hv : updLease s l (fun a => { a with views := mput a.views n ⟨stamp (tickOf s (anchorDie ls) - 2) 0xFF, kind, 0, 0, s.nextId⟩ }) =
        updLease s l (fun a => { a with views := mput a.views n ⟨stamp (tickOf s (anchorDie a) - 2) 0xFF, kind, 0, 0, s.nextId⟩ }) := by
      have hl : mfind s.leases l = some ls := h.turn.lease
      simp only [updLease, mmod, hl]
    exact congrArg (fun t => Host.Outcome.next (sharedDone t l xd n)) hv

theorem exec_srel_solo (h : SoloTurn s l ls []) (n : BitVec 3) :
    exec (.srel n) s = .next (updSeq (emptyView (discardPend s l n.toNat) l n.toNat) l false seqNext) := by
  change execSrel n s = _
  exact onTwins_solo h [] (List.nil_subset _) _

theorem exec_txa_solo (h : SoloTurn s l ls []) (n : BitVec 3) :
    exec (.txa n) s = .next (if (viewOf ls n.toNat).kind = 0 then seqFault s l false cSNAP n.toNat
      else if (viewOf ls n.toNat).kind = 1 then seqFault s l false cPERM n.toNat
      else updSeq (if (viewOf ls n.toNat).doom = 0 then doomView s l n.toNat 5 else s) l false seqNext) := by
  change execTxa n s = _
  exact onTwins_solo h [] (List.nil_subset _) _

theorem exec_txs_solo {xd : BitVec 5} (h : SoloTurn s l ls [xd]) (n : BitVec 3) :
    exec (.txs xd n) s = .next (sharedDone s l xd (viewWord (viewOf ls n.toNat))) := by
  change execTxs xd n s = _
  exact onTwins_solo h [xd] (List.Subset.refl _) _

end

theorem SoloTurn.mono {s : State} {l : Nat} {ls : Lease} {rs rs' : List (BitVec 5)} (h : SoloTurn s l ls rs) (hs : rs' ⊆ rs) :
    SoloTurn s l ls rs' := ⟨⟨h.turn.cur, h.turn.lease, fun r hr => h.turn.ready r (hs hr)⟩, h.solo⟩

/-- Settles O15, word by word. -/
theorem viewsOpenAndClose : Obligations.views_open_and_close := by
  refine ⟨fun s l ls xd h => ?opens, fun s l ls xd n h => ?closes⟩
  case opens =>
    have hlease := h.turn.lease
    have all (i : Instr) (kind : Nat) (hi : exec i s = openView kind xd s) :
        (∀ n, s.clockStopped = false → 1 ≤ n → n ≤ 7 → (viewOf ls n).kind = 0 → (∀ m, 1 ≤ m → m < n → (viewOf ls m).kind ≠ 0) →
          Gives i s fun t => ∃ ls', leaseOf t l = some ls' ∧
            (xd ≠ 0 → xget ls'.seq xd = BitVec.ofNat 64 n ∧ xpois ls'.seq xd = false) ∧ ls'.seq.pc = ls.seq.pc + 4 ∧
            viewOf ls' n = ⟨stamp (tickOf s (anchorDie ls) - 2) 0xFF, kind, 0, 0, s.nextId⟩ ∧
            ∀ m, m ≠ n → viewOf ls' m = viewOf ls m) ∧
        (s.clockStopped = true ∨ (∀ n, 1 ≤ n → n ≤ 7 → (viewOf ls n).kind ≠ 0) →
          Gives i s fun t => SeqResult s t l false ls xd 0 false) := by
      have hrun := hi.trans (openView_solo h kind)
      refine ⟨fun n hc h1 h7 h0 hlow => ?_, fun hn => ?_⟩
      · rw [hc, if_neg Bool.false_ne_true, freeView_eq_some h1 h7 h0 hlow] at hrun
        refine ⟨_, hrun, _, leaseOf_sharedDone (leaseOf_updLease _ hlease) xd n, result_seqNext_xset _ xd _, ?_,
          viewOf_mput_self ls n _, fun m hm => viewOf_mput_ne ls _ hm⟩
        simp
      · have hnone : (if s.clockStopped then none else freeView ls) = none := by
          rcases hn with hc | hn
          · rw [if_pos hc]
          · rw [freeView_eq_none hn, ite_self]
        rw [hnone] at hrun
        exact ⟨_, hrun, seqResult_aluDone hlease _ _ _⟩
    exact ⟨all (.snap xd) 1 rfl, all (.txb xd) 2 rfl⟩
  case closes =>
    have h0 : SoloTurn s l ls [] := h.mono (List.nil_subset _)
    have hlease := h.turn.lease
    have hdel := leaseOf_emptyView ((leaseOf_discardPend s l n.toNat l).trans hlease) n.toNat
    have htxa := exec_txa_solo h0 n
    refine ⟨⟨_, exec_srel_solo h0 n, _, leaseOf_updSeq false _ hdel, ?srel, fun m hm => viewOf_mdel_ne ls hm, rfl⟩,
      fun hk => ?empty, fun hk => ?snapshot, fun hk => ?doom, ⟨_, exec_txs_solo h n, seqResult_aluDone hlease _ _ _⟩⟩
    case srel => exact congrArg View.kind (viewOf_mdel_self ls n.toNat)
    case empty => rw [htxa, if_pos hk]
    case snapshot => rw [htxa, if_neg (by simp [hk]), if_pos hk]
    case doom =>
      rw [if_neg (by simp [hk]), if_neg (by simp [hk])] at htxa
      refine ⟨_, htxa, ?_⟩
      by_cases hd : (viewOf ls n.toNat).doom = 0
      · rw [if_pos hd, if_pos hd]
        exact ⟨_, leaseOf_updSeq false _ (leaseOf_doomView hlease n.toNat 5), viewOf_mmod_self (ls := ls) _ (by simp [hk]),
          fun m hm => viewOf_mmod_ne ls _ hm, rfl⟩
      · rw [if_neg hd, if_neg hd]
        exact ⟨_, leaseOf_updSeq false _ hlease, rfl, fun m _ => rfl, rfl⟩

/-! ### Commits -/

/-- The ordering state once a TXC or PUBL has returned with status `st` at tick `t`: behind a fence of all kinds, and after a COMMITTED
with that tick as the floor (R132, R268). -/
def returnedOrd (t st : Nat) (o : OrdSt) : OrdSt :=
  if st = 0 then { fenceOrd 15 .panel o with floor := max (fenceOrd 15 .panel o).floor t } else fenceOrd 15 .panel o

theorem floor_fenceOrd_all (o : OrdSt) : max o.lastR o.lastW ≤ (fenceOrd 15 .panel o).floor := le_max_right o.floor _

theorem floor_returnedOrd (t st : Nat) (o : OrdSt) : max o.lastR o.lastW ≤ (returnedOrd t st o).floor := by
  unfold returnedOrd
  split
  · exact (floor_fenceOrd_all o).trans (le_max_left _ _)
  · exact floor_fenceOrd_all o

theorem tick_le_floor_returnedOrd (t : Nat) (o : OrdSt) : t ≤ (returnedOrd t 0 o).floor := le_max_right _ _

section
variable {s : State} {l : Nat} {ls : Lease}

/-- The end of a TXC or PUBL that waits for nothing (R132, R268). -/
theorem leaseOf_fencedDone (h : leaseOf s l = some ls) (xd : BitVec 5) (st : Nat) :
    ∃ r, leaseOf (fencedDone s l xd st) l = some { ls with
      seq := seqNext (xset { ls.seq with ord := returnedOrd (tickOf s (anchorDie ls)) st ls.seq.ord } xd (BitVec.ofNat 64 st) false)
      seqR := r } := by
  refine ⟨{ ls.seqR with ord := returnedOrd (tickOf s (anchorDie ls)) st ls.seqR.ord },
    (leaseOf_sharedDone (leaseOf_updLease _ (leaseOf_updLease _ h)) xd st).trans ?_⟩
  by_cases h0 : st = 0
  · subst h0; rfl
  · simp only [returnedOrd, h0, decide_false, Bool.false_eq_true, if_false]

/-- The lease after a TXC or PUBL that gave `st`. -/
def Gave (s t : State) (l : Nat) (ls : Lease) (xd : BitVec 5) (st : Nat) : Prop := ∃ ls', leaseOf t l = some ls' ∧
  (xd ≠ 0 → xget ls'.seq xd = BitVec.ofNat 64 st ∧ xpois ls'.seq xd = false) ∧ ls'.seq.pc = ls.seq.pc + 4 ∧
  ls'.seq.ord = returnedOrd (tickOf s (anchorDie ls)) st ls.seq.ord

theorem ord_xset (q : Seq) (xd : BitVec 5) (v : Dword) (p : Bool) : (xset q xd v p).ord = q.ord := by
  unfold xset
  split <;> rfl

/-- What a TXC or PUBL gives, in a state `t` of the same time whose lease has the same sequencer at the same place. -/
theorem gave_fencedDone {t : State} {ls1 : Lease} (h : leaseOf t l = some ls1) (hq : ls1.seq = ls.seq)
    (ha : tickOf t (anchorDie ls1) = tickOf s (anchorDie ls)) (xd : BitVec 5) (st : Nat) :
    Gave s (fencedDone t l xd st) l ls xd st := by
  obtain ⟨r, hr⟩ := leaseOf_fencedDone h xd st
  refine ⟨_, hr, result_seqNext_xset _ xd _, ?_, ?_⟩
  · rw [hq]; simp
  · rw [← ha, ← hq]; exact ord_xset _ xd _ false

/-- A commit or publication is under way, under its ticket (R104, R108). -/
def Began (s t : State) (l : Nat) (ls : Lease) (xd : BitVec 5) (clean shadow : Bool) (slot : Nat) : Prop :=
  ∃ ls', leaseOf t l = some ls' ∧ ls'.seq.op = .commit ∧
    ls'.commit = some ⟨shadow, slot, clean, xd, tickOf s (anchorDie ls), [], 0, 0⟩ ∧ ls'.seq.pc = ls.seq.pc

theorem began_startCommit (h : leaseOf s l = some ls) (hp : ls.paired = false) (xd : BitVec 5) (clean shadow : Bool) (slot : Nat) :
    Began s (startCommit s l ls shadow slot clean xd) l ls xd clean shadow slot := by
  refine ⟨_, leaseOf_updSeq false _ (leaseOf_updLease _ h), ?_, rfl, rfl⟩
  change (if ls.paired && slot == 11 then _ else SeqOp.commit) = _
  rw [hp]
  rfl

theorem exec_txc_solo {xd : BitVec 5} (h : SoloTurn s l ls [xd]) (hop : ls.seq.op = .none) (n : BitVec 3) (clean : Bool) :
    exec (.txc xd n clean) s = .next (if (viewOf ls n.toNat).kind = 0 then seqFault s l false cSNAP n.toNat
      else if (viewOf ls n.toNat).kind = 1 then seqFault s l false cPERM n.toNat
      else if !seqQuiet ls.seq then s
      else if (viewOf ls n.toNat).doom ≠ 0 then fencedDone (emptyView s l n.toNat) l xd (viewOf ls n.toNat).doom
      else if writeSet s l n.toNat = [] then fencedDone (emptyView s l n.toNat) l xd 0
      else if s.clockStopped then fencedDone (emptyView (discardPend s l n.toNat) l n.toNat) l xd 2
      else startCommit s l ls false n.toNat clean xd) := by
  change execTxc xd n clean s = _
  rw [execTxc, onPair_solo h _ [xd] (List.Subset.refl _)]
  dsimp only
  rw [if_neg (by rw [hop]; exact SeqOp.noConfusion)]

/-- A shadow is emptied and its pending versions are discarded (R108). -/
def clearShadow (s : State) (l k : Nat) : State :=
  updLease (discardPend s l (8 + k)) l fun ls => { ls with shadows := mdel ls.shadows k }

theorem leaseOf_clearShadow (h : leaseOf s l = some ls) (k : Nat) :
    leaseOf (clearShadow s l k) l = some { ls with shadows := mdel ls.shadows k } :=
  leaseOf_updLease _ ((leaseOf_discardPend _ _ _ _).trans h)

theorem tickOf_clearShadow (s : State) (l k d : Nat) : tickOf (clearShadow s l k) d = tickOf s d :=
  (linesOnly_discardPend s l (8 + k)).tickOf d

theorem exec_publ_solo {xd : BitVec 5} (h : SoloTurn s l ls [xd]) (hop : ls.seq.op = .none) (k : BitVec 2) (clean discard : Bool) :
    exec (.publ xd k clean discard) s = .next (
      if !seqQuiet ls.seq || ls.engines.any (fun e => e.shadow == k.toNat && e.pending s l) then s
      else if discard then fencedDone (clearShadow s l k.toNat) l xd 0
      else if (mget ⟨false, false⟩ ls.shadows k.toNat).doomed then fencedDone (clearShadow s l k.toNat) l xd 2
      else if writeSet s l (8 + k.toNat) = [] then fencedDone s l xd 0
      else if s.clockStopped then fencedDone (clearShadow s l k.toNat) l xd 2
      else startCommit s l ls true (8 + k.toNat) clean xd) := by
  change execPubl xd k clean discard s = _
  rw [execPubl, onShared_solo h [xd] (List.Subset.refl _)]
  dsimp only
  rw [if_neg (by rw [hop]; exact SeqOp.noConfusion), if_neg (by simp [h.solo])]
  rfl

end

/-- Settles O16: the tests of TXC and of PUBL in their order, and what each branch leaves of the lease. -/
theorem commitsBegin : Obligations.commits_begin := by
  intro s l ls xd n k clean discard h hop
  have hl := h.turn.lease
  have txc := exec_txc_solo h hop n clean
  have publ := exec_publ_solo h hop k clean discard
  have hemp := leaseOf_emptyView hl n.toNat
  have hclr := leaseOf_clearShadow hl k.toNat
  have htick := tickOf_clearShadow s l k.toNat (anchorDie ls)
  have gave {i : Instr} {t : State} {st : Nat} (hi : exec i s = .next t) (hg : Gave s t l ls xd st) :
      Gives i s fun t => ∃ ls', leaseOf t l = some ls' ∧
        (xd ≠ 0 → xget ls'.seq xd = BitVec.ofNat 64 st ∧ xpois ls'.seq xd = false) ∧ ls'.seq.pc = ls.seq.pc + 4 :=
    have ⟨ls', h1, h2, h3, _⟩ := hg
    ⟨t, hi, ls', h1, h2, h3⟩
  refine ⟨fun hk => ?empty, fun hk => ?snapshot, fun hk hquiet => ?txc, fun hquiet he => ?publ⟩
  case empty => rw [txc, if_pos hk]
  case snapshot => rw [txc, if_neg (by simp [hk]), if_pos hk]
  case txc =>
    rw [if_neg (by simp [hk]), if_neg (by simp [hk]), if_neg (by simp [hquiet])] at txc
    refine ⟨fun hd => ?doomed, fun hd hw => ?nothing, fun hd hw hc => ?begins⟩
    case doomed =>
      rw [if_pos hd] at txc
      exact gave txc (gave_fencedDone hemp rfl rfl xd _)
    case nothing =>
      rw [if_neg (not_not_intro hd), if_pos hw] at txc
      have hg : Gave s _ l ls xd 0 := gave_fencedDone hemp rfl rfl xd 0
      obtain ⟨ls', h1, h2, h3, ho⟩ := hg
      refine ⟨_, txc, ⟨ls', h1, h2, h3⟩, ls', h1, ?_, ?_⟩
      · rw [ho]; exact tick_le_floor_returnedOrd _ _
      · rw [ho]; exact floor_returnedOrd _ _ _
    case begins =>
      rw [if_neg (not_not_intro hd), if_neg hw, if_neg (by simp [hc])] at txc
      exact ⟨_, txc, began_startCommit hl h.solo xd clean false n.toNat⟩
  case publ =>
    have hany : (ls.engines.any fun e => e.shadow == k.toNat && e.pending s l) = false := by
      rw [List.any_eq_false]
      intro e hmem
      simp [he e hmem]
    rw [hquiet, hany, if_neg (by simp)] at publ
    refine ⟨fun hd => ?discards, fun hd hdoom => ?doomed, fun hd hdoom hw => ?nothing, fun hd hdoom hw hc => ?begins⟩
    case discards =>
      rw [if_pos hd] at publ
      exact gave publ (gave_fencedDone hclr rfl htick xd 0)
    case doomed =>
      rw [if_neg (by simp [hd]), if_pos hdoom] at publ
      exact gave publ (gave_fencedDone hclr rfl htick xd 2)
    case nothing =>
      rw [if_neg (by simp [hd]), if_neg (by simp [hdoom]), if_pos hw] at publ
      exact gave publ (gave_fencedDone hl rfl rfl xd 0)
    case begins =>
      rw [if_neg (by simp [hd]), if_neg (by simp [hdoom]), if_neg hw, if_neg (by simp [hc])] at publ
      exact ⟨_, publ, began_startCommit hl h.solo xd clean true (8 + k.toNat)⟩

end Sys2Proof.Claims
end

section
/-! SUPPORT. The words of the lease group (R269 to R276): what CFG, STRM, GRPW, GO, WAITD and DRAIN leave of their lease. -/

namespace Sys2Proof.Claims

open Sys2Proof Sys2Proof.Machine

/-! ### CFG -/

/-- The used tiles that a rectangle names, by its fields (R269). -/
theorem rectTiles_eq (ls : Lease) (v : Nat) : rectTiles ls v = ls.img.roles.filter fun t => decide (v % 2 ^ 8 ≤ keyCol ls t ∧
    keyCol ls t ≤ v / 2 ^ 16 % 2 ^ 8 ∧ v / 2 ^ 8 % 2 ^ 8 ≤ keyRow ls t ∧ keyRow ls t ≤ v / 2 ^ 24 % 2 ^ 8) := by
  refine List.filter_congr fun t _ => ?_
  simp [inRect, bits_eq, Bool.and_assoc]

/-- A read that succeeds with clean bytes continues with them. -/
theorem rdThen_ok {s s1 : State} {l va n : Nat} {own : Option Bool} {b : List Byte} {p : List Bool}
    (h : vread l own (lineRuns va n) [] [] s = .ok b p s1) (hp : p.any id = false) (k : List Byte → State → ImgRes) :
    rdThen s l own va n k = k b s1 := by
  rw [rdThen, h]
  exact if_neg (by simp [hp])

/-- Tile `k` has no record: its shadow plane becomes empty (R270). -/
theorem cfgTiles_absent (l va : Nat) (x : Hdr) (im : Img) {ts : List TRec} {k : Nat}
    (h : ts.find? (fun t => t.row * (2 * x.w) + t.col == k) = none) (r : List Nat) (s : State) :
    cfgTiles l va x im ts (k :: r) s = cfgTiles l va x im ts r
      (updTile (updTile s l k fun t => { t with shd := .zero }) l (k + replicaBase) fun t => { t with shd := .zero }) := by
  rw [cfgTiles, h]

/-- Tile `k` has a record whose sections read: its shadow plane is what they hold, unless the body is refused (R270). -/
theorem cfgTiles_present {l va : Nat} {x : Hdr} {im : Img} {ts : List TRec} {k : Nat} {t : TRec} {pb bb eb : List Byte}
    {pp bp ep : List Bool} {s s1 s2 s3 : State} {ls : Lease}
    (h : ts.find? (fun t => t.row * (2 * x.w) + t.col == k) = some t)
    (h1 : vread l (some false) (lineRuns (va + t.progoff) (4 * t.nprog)) [] [] s = .ok pb pp s1) (p1 : pp.any id = false)
    (h2 : vread l (some false) (lineRuns (va + t.cfgoff) (4 * bodyWords t)) [] [] s1 = .ok bb bp s2) (p2 : bp.any id = false)
    (h3 : vread l (some false) (lineRuns (va + t.eboff) (8 * t.neb)) [] [] s2 = .ok eb ep s3) (p3 : ep.any id = false)
    (hl : leaseOf s3 l = some ls) (r : List Nat) :
    (∀ id, bodyBad ls.img.ssplit t bb eb = some id → cfgTiles l va x im ts (k :: r) s = .bad cCONFIG 0 id s3) ∧
    (bodyBad ls.img.ssplit t bb eb = none → cfgTiles l va x im ts (k :: r) s = cfgTiles l va x im ts r
      (updTile (updTile s3 l k fun u => { u with shd := planeOf t pb bb eb }) l (k + replicaBase) fun u =>
        { u with shd := planeOf t pb bb eb })) := by
  rw [cfgTiles, h]
  dsimp only
  rw [rdThen_ok h1 p1, rdThen_ok h2 p2, rdThen_ok h3 p3, hl]
  exact ⟨fun id hid => by rw [hid], fun hn => by rw [hn]⟩

theorem cfg_runs {s : State} {l : Nat} {ls : Lease} {xd xa xb : BitVec 5} (h : SoloTurn s l ls [xd, xa, xb])
    (hop : ls.seq.op = .none) :
    let q := ls.seq
    let va := (xget q xa).toNat
    let named := rectTiles ls (xget q xb).toNat
    let refused (s1 : State) (c a id : Nat) : Prop :=
      exec (.cfg xd xa xb) s = .next (seqFaultG s1 l false c a fun r => { r with cfgid := id })
    (xpois q xa = true → exec (.cfg xd xa xb) s = .next (seqFault s l false cPADDR va)) ∧
    (xpois q xa = false → va % 64 ≠ 0 → exec (.cfg xd xa xb) s = .next (seqFault s l false cALIGN va)) ∧
    (xpois q xa = false → va % 64 = 0 → xpois q xb = true → exec (.cfg xd xa xb) s = .next (seqFault s l false cPCTL va)) ∧
    (xpois q xa = false → va % 64 = 0 → xpois q xb = false →
      (∀ c a id s1, readImage s l (some false) va = .bad c a id s1 → refused s1 c a id) ∧
      ∀ x im ts s1, readImage s l (some false) va = .ok x im ts s1 →
        (x.w ≠ ls.img.w ∨ x.h ≠ ls.img.h → refused s1 cCONFIG 0 2) ∧
        (x.w = ls.img.w → x.h = ls.img.h →
          (ls.img.saveReq ≤ 4096 * ls.img.savesz → 4096 * ls.img.savesz < im.saveReq → refused s1 cCONFIG 0 5) ∧
          (im.saveReq ≤ 4096 * ls.img.savesz → (∀ t ∈ ts, nhas ls.img.roles (t.row * (2 * x.w) + t.col) = true) →
            (∀ c a id s2, cfgTiles l va x im ts named s1 = .bad c a id s2 → refused s2 c a id) ∧
            ∀ x' im' ts' s2 ls2, cfgTiles l va x im ts named s1 = .ok x' im' ts' s2 → leaseOf s2 l = some ls2 →
              Gives (.cfg xd xa xb) s fun t => SeqResult s2 t l false ls2 xd (BitVec.ofNat 64 named.length) false))) := by
  have hrun : execCfg xd xa xb s = _ := onTwins_solo h [xd, xa, xb] (List.Subset.refl _) _
  dsimp only at hrun ⊢
  rw [hop] at hrun
  dsimp only at hrun
  rw [if_neg Bool.false_ne_true] at hrun
  refine ⟨fun hp => ?poison, fun hp ha => ?align, fun hp ha hb => ?rect, fun hp ha hb => ?reads⟩
  case poison => rw [if_pos hp] at hrun; exact hrun
  all_goals rw [if_neg (by simp [hp])] at hrun
  case align => rw [if_pos ha] at hrun; exact hrun
  all_goals rw [if_neg (by simp [ha])] at hrun
  case rect => rw [if_pos hb] at hrun; exact hrun
  case reads =>
    rw [if_neg (by simp [hb])] at hrun
    refine ⟨fun c a id s1 hbad => ?_, fun x im ts s1 hok => ?_⟩
    · rw [hbad] at hrun; exact hrun
    rw [hok] at hrun
    dsimp only at hrun
    refine ⟨fun hs => ?size, fun hw hh => ⟨fun h1 h2 => ?save, fun h2 hr => ?tiles⟩⟩
    case size =>
      rw [if_pos (by rcases hs with hs | hs <;> simp [hs])] at hrun
      exact hrun
    all_goals rw [if_neg (by simp [hw, hh])] at hrun
    case save =>
      rw [if_pos (by simp [h1, h2])] at hrun
      exact hrun
    case tiles =>
      have hfind : ts.find? (fun t => !nhas ls.img.roles (t.row * (2 * x.w) + t.col)) = none := by
        rw [List.find?_eq_none]
        intro t ht
        simp [hr t ht]
      rw [if_neg (by simp only [Bool.and_eq_true, decide_eq_true_eq]; omega), hfind] at hrun
      refine ⟨fun c a id s2 hc => ?_, fun x' im' ts' s2 ls2 hc hl2 => ?_⟩
      · dsimp only at hrun
        rw [hc] at hrun
        exact hrun
      · dsimp only at hrun
        rw [hc] at hrun
        exact ⟨_, hrun, seqResult_aluDone hl2 _ _ _⟩

/-! ### STRM and GRPW -/

/-- Lease `l` has the same streams and the same place in its program in `t` as in `s`. -/
def KeepsStreams (s t : State) (l : Nat) : Prop :=
  ∀ ls, leaseOf s l = some ls → ∃ ls', leaseOf t l = some ls' ∧ ls'.streams = ls.streams ∧ ls'.seq.pc = ls.seq.pc

theorem KeepsStreams.refl (s : State) (l : Nat) : KeepsStreams s s l := fun ls h => ⟨ls, h, rfl, rfl⟩

theorem KeepsStreams.trans {s t u : State} {l : Nat} (h : KeepsStreams s t l) (h' : KeepsStreams t u l) : KeepsStreams s u l := by
  intro ls hl
  obtain ⟨a, ha, h1, h2⟩ := h ls hl
  obtain ⟨b, hb, h3, h4⟩ := h' a ha
  exact ⟨b, hb, h3.trans h1, h4.trans h2⟩

theorem mfind_mmap {α : Type} (m : List (Nat × α)) (f : Nat → α → α) (k : Nat) : mfind (mmap m f) k = (mfind m k).map (f k) := by
  induction m with
  | nil => rfl
  | cons e m ih =>
    obtain ⟨j, v⟩ := e
    change mfind ((j, f j v) :: mmap m f) k = _
    rw [mfind, mfind, ih]
    split
    · subst_vars; rfl
    · rfl

theorem keepsStreams_settle (s : State) (l id t : Nat) : KeepsStreams s (settle s id t) l := by
  intro ls h
  have hf := mfind_mmap s.leases (fun _ ls =>
    { ls with
      seq := { ls.seq with ord := dropOrd id t ls.seq.ord }
      seqR := { ls.seqR with ord := dropOrd id t ls.seqR.ord }
      goFloor := if nhas ls.goAfter id then max ls.goFloor t else ls.goFloor
      goAfter := ndel ls.goAfter id
      engines := ls.engines.map fun e =>
        if nhas e.after id then { e with after := ndel e.after id, floor := max e.floor t } else e
      tiles := mmap ls.tiles fun _ x => { x with ord := dropOrd id t x.ord } }) l
  rw [show mfind s.leases l = some ls from h] at hf
  exact ⟨_, hf, rfl, rfl⟩

theorem keepsStreams_updCtx (s : State) (l t k : Nat) (f : Ctx → Ctx) : KeepsStreams s (updCtx s l t k f) l := fun _ h =>
  ⟨_, leaseOf_updLease _ h, rfl, rfl⟩

theorem keepsStreams_dropUntaken (s : State) (l : Nat) (ls : Lease) (e : StrmEnt) (x : Stream) :
    KeepsStreams s (dropUntaken s l ls e x) l := by
  unfold dropUntaken
  split
  · split
    · exact fun ls h => ⟨ls, h, rfl, rfl⟩
    · exact .refl s l
  · exact foldl_keeps (KeepsStreams s · l) _ (fun u t hu => hu.trans (keepsStreams_updCtx u l t e.ctx _)) _ (.refl s l)

theorem keepsStreams_dropStrmReq (s : State) (l : Nat) (x : Stream) : KeepsStreams s (dropStrmReq s x) l := by
  unfold dropStrmReq
  split
  · exact KeepsStreams.trans (fun ls h => ⟨ls, h, rfl, rfl⟩) (keepsStreams_settle _ l _ 0)
  · exact .refl s l

/-- What a control word asks of a stream port (R274). -/
theorem newStrm_eq (s : State) (a w : Nat) (old : Stream) :
    (newStrm s a w old).scnt = 0 ∧ (newStrm s a w old).bound = decide (w / 2 ^ 6 % 4 ≠ 0) ∧ (newStrm s a w old).started = false ∧
      (w / 2 ^ 6 % 4 ≠ 0 → (newStrm s a w old).kind = w / 2 ^ 6 % 4 ∧ (newStrm s a w old).base = a ∧
        (newStrm s a w old).len = w / 2 ^ 16 % 2 ^ 32 ∧ (newStrm s a w old).tag.toNat = w / 2 ^ 48 % 2 ^ 3 ∧
        (newStrm s a w old).view = w / 2 ^ 56 % 2 ^ 3) := by
  unfold newStrm
  dsimp only
  rw [bits_eq w 6 2]
  split
  · next h => exact ⟨rfl, (decide_eq_false (not_not_intro h)).symm, rfl, fun hn => absurd h hn⟩
  · next h =>
    refine ⟨rfl, (decide_eq_true h).symm, rfl, fun _ => ⟨rfl, rfl, bits_eq w 16 32, ?_, bits_eq w 56 3⟩⟩
    rw [BitVec.toNat_ofNat, bits_eq, Nat.mod_mod]

/-- The test of STRM beside that of the stream list. -/
def strmBad (s : State) (ls : Lease) (a w : Nat) : Bool :=
  decide (bits w 6 2 = 3) || decide (bits w 8 8 ≠ 0) || decide (bits w 51 5 ≠ 0) || decide (bits w 59 5 ≠ 0) ||
    (decide (bits w 6 2 ≠ 0) && (mget Stream.zero ls.streams (bits w 0 6)).bound) ||
    (decide (bits w 6 2 = 2) && !couplerLive s.boot (a % 16))

theorem strmBad_eq_false (s : State) (ls : Lease) (a w : Nat) : strmBad s ls a w = false ↔
    w / 2 ^ 6 % 4 ≠ 3 ∧ w / 2 ^ 8 % 2 ^ 8 = 0 ∧ w / 2 ^ 51 % 2 ^ 5 = 0 ∧ w / 2 ^ 59 % 2 ^ 5 = 0 ∧
      (w / 2 ^ 6 % 4 = 0 ∨ (mget Stream.zero ls.streams (w % 2 ^ 6)).bound = false) ∧
      (w / 2 ^ 6 % 4 = 2 → couplerLive s.boot (a % 16) = true) := by
  simp only [strmBad, bits_eq, Bool.or_eq_false_iff, Bool.and_eq_false_iff, decide_eq_false_iff_not, Bool.not_eq_false',
    Nat.pow_zero, Nat.div_one, not_not, ne_eq, imp_iff_not_or, and_assoc]
  rfl

theorem strm_runs {s : State} {l : Nat} {ls : Lease} {xa xb : BitVec 5} (h : SoloTurn s l ls [xa, xb]) :
    exec (.strm xa xb) s = .next (
      let w := (xget ls.seq xb).toNat
      let a := (xget ls.seq xa).toNat
      let old := mget Stream.zero ls.streams (bits w 0 6)
      if xpois ls.seq xa then seqFault s l false cPADDR a
      else if xpois ls.seq xb then seqFault s l false cPCTL 0
      else match ls.img.strms.find? fun e => e.id == bits w 0 6 with
        | none => seqFault s l false cCONFIG 0
        | some e =>
          if strmBad s ls a w then seqFault s l false cCONFIG 0
          else if bits w 6 2 = 1 && a % 32 ≠ 0 then seqFault s l false cALIGN a
          else
            let s1 := dropStrmReq (if old.bound then dropUntaken s l ls e old else s) old
            updSeq (updLease s1 l fun ls => { ls with streams := mput ls.streams (bits w 0 6) (newStrm s a w old) }) l false
              seqNext) := by
  have hrun : execStrm xa xb s = _ := onTwins_solo h [xa, xb] (List.Subset.refl _) _
  exact hrun

/-- A binding that STRM makes or ends is that of its stream alone (R274). -/
theorem leaseOf_strm {s : State} {l : Nat} {ls : Lease} (h : leaseOf s l = some ls) (e : StrmEnt) (old x : Stream) (id : Nat) :
    ∃ ls', leaseOf (updSeq (updLease (dropStrmReq (if old.bound then dropUntaken s l ls e old else s) old) l fun ls =>
        { ls with streams := mput ls.streams id x }) l false seqNext) l = some ls' ∧ mfind ls'.streams id = some x ∧
      (∀ j, j ≠ id → mfind ls'.streams j = mfind ls.streams j) ∧ ls'.seq.pc = ls.seq.pc + 4 := by
  have hk : KeepsStreams s (dropStrmReq (if old.bound then dropUntaken s l ls e old else s) old) l := by
    refine KeepsStreams.trans ?_ (keepsStreams_dropStrmReq _ l old)
    split
    · exact keepsStreams_dropUntaken s l ls e old
    · exact .refl s l
  obtain ⟨a, ha, hs, hpc⟩ := hk ls h
  refine ⟨_, leaseOf_updSeq false _ (leaseOf_updLease _ ha), mfind_mput_self _ _ _, fun j hj => ?_, ?_⟩
  · exact (mfind_mput_ne _ _ hj).trans (by rw [hs])
  · exact congrArg (· + 4) hpc

/-- Settles O17: the tests of CFG, of STRM and of GRPW in their order. -/
theorem cfgStrmGrpw : Obligations.cfg_strm_grpw := by
  refine ⟨fun s l ls xd xa xb h hop => ?cfg, fun s l va x im ts k r => ?tiles, fun s l ls xa xb h => ⟨?p1, ?p2, ?strm, ?p3, ?grpw⟩⟩
  case cfg =>
    have hcfg := cfg_runs h hop
    dsimp only at hcfg
    rw [rectTiles_eq] at hcfg
    exact hcfg
  case tiles =>
    exact ⟨rfl, fun ha => cfgTiles_absent l va x im ha r s, fun t pb bb eb pp bp ep s1 s2 s3 ls hf h1 p1 h2 p2 h3 p3 hl =>
      cfgTiles_present (im := im) hf h1 p1 h2 p2 h3 p3 hl r⟩
  case p1 => exact fun hp => by rw [strm_runs h]; exact congrArg _ (if_pos hp)
  case p2 => exact fun hp hb => by rw [strm_runs h]; exact congrArg _ ((if_neg (by simp [hp])).trans (if_pos hb))
  case strm =>
    intro hpa hpb
    have hrun := strm_runs h
    dsimp only at hrun
    rw [if_neg (by simp [hpa]), if_neg (by simp [hpb]), bits_eq _ 0 6, Nat.pow_zero, Nat.div_one] at hrun
    refine ⟨fun hl => ?illegal, fun hl hk ha => ?align, fun hl hk => ?binds⟩
    case illegal =>
      rw [hrun]
      cases hf : ls.img.strms.find? fun e => e.id == (xget ls.seq xb).toNat % 2 ^ 6 with
      | none => rfl
      | some e =>
        have hbad : strmBad s ls (xget ls.seq xa).toNat (xget ls.seq xb).toNat = true := by
          by_contra hb
          refine hl ⟨⟨e, List.mem_of_find?_eq_some hf, by simpa using List.find?_some hf⟩, ?_⟩
          exact (strmBad_eq_false s ls _ _).mp (Bool.eq_false_of_not_eq_true hb)
        exact congrArg _ (if_pos hbad)
    all_goals
      obtain ⟨⟨e, he, hid⟩, hrest⟩ := hl
      have hfound : (ls.img.strms.find? fun e => e.id == (xget ls.seq xb).toNat % 2 ^ 6).isSome :=
        List.find?_isSome.mpr ⟨e, he, by simpa using hid⟩
      obtain ⟨e', he'⟩ := Option.isSome_iff_exists.mp hfound
      rw [he', (strmBad_eq_false s ls _ _).mpr hrest] at hrun
      dsimp only at hrun
      rw [if_neg Bool.false_ne_true] at hrun
    case align =>
      rw [if_pos (by rw [bits_eq]; simp only [Bool.and_eq_true, decide_eq_true_eq]; exact ⟨hk, ha⟩)] at hrun
      exact hrun
    case binds =>
      rw [if_neg (by rw [bits_eq]; simpa using hk)] at hrun
      obtain ⟨ls', h1, h2, h3, h4⟩ := leaseOf_strm h.turn.lease e' (mget Stream.zero ls.streams ((xget ls.seq xb).toNat % 2 ^ 6))
        (newStrm s (xget ls.seq xa).toNat (xget ls.seq xb).toNat (mget Stream.zero ls.streams ((xget ls.seq xb).toNat % 2 ^ 6)))
        ((xget ls.seq xb).toNat % 2 ^ 6)
      obtain ⟨n1, n2, n3, n4⟩ := newStrm_eq s (xget ls.seq xa).toNat (xget ls.seq xb).toNat
        (mget Stream.zero ls.streams ((xget ls.seq xb).toNat % 2 ^ 6))
      exact ⟨_, hrun, ls', _, h1, h2, n1, n2, n3, n4, h3, h4⟩
  all_goals
    have hrun : execGrpw xa xb s = _ := onTwins_solo h [xa, xb] (List.Subset.refl _) _
    dsimp only at hrun
  case p3 =>
    intro hp
    rw [if_pos (by rcases hp with hp | hp <;> simp [hp])] at hrun
    exact hrun
  case grpw =>
    intro hpa hpb
    rw [if_neg (by simp [hpa, hpb]), bits_eq _ 0 8, Nat.pow_zero, Nat.div_one, bits_eq _ 0 16, Nat.pow_zero, Nat.div_one] at hrun
    refine ⟨fun he => ?busy, fun he => ?sets⟩
    case busy => rw [if_pos he] at hrun; exact hrun
    case sets =>
      rw [if_neg (not_not_intro he)] at hrun
      refine ⟨_, hrun, _, leaseOf_updSeq false _ (leaseOf_updLease _ h.turn.lease), ?_, fun j hj => ?_, rfl⟩
      · change mget (⟨0, 0, 0⟩ : Group) (if ls.paired then _ else _) _ = _
        rw [h.solo]
        exact mget_mset_self _ _ _ _
      · change mget (⟨0, 0, 0⟩ : Group) (if ls.paired then _ else _) _ = _
        rw [h.solo]
        exact mget_mset_ne _ _ _ hj

end Sys2Proof.Claims
end

section
/-! SUPPORT. GO, WAITD and DRAIN (R272, R273): the streams that they start or mark, and the contexts that a round reaches (R180). -/

namespace Sys2Proof.Claims

open Sys2Proof Sys2Proof.Machine

/-! ### Collections changed entry by entry -/

theorem mfind_mmod {α : Type} (m : List (Nat × α)) (k : Nat) (f : α → α) (j : Nat) :
    mfind (mmod m k f) j = if j = k then (mfind m j).map f else mfind m j := by
  by_cases h : j = k
  · subst h
    rw [if_pos rfl]
    cases hv : mfind m j with
    | none => rw [mmod, hv]; exact hv
    | some v => rw [mfind_mmod_self _ _ _ _ hv]; rfl
  · rw [if_neg h, mfind_mmod_ne _ _ h]

/-- A rising list gives the value of each of its entries. -/
theorem mfind_of_mem {α : Type} {m : List (Nat × α)} (hw : mwf m = true) {k : Nat} {v : α} (h : (k, v) ∈ m) : mfind m k = some v := by
  induction m with
  | nil => exact absurd h List.not_mem_nil
  | cons e m ih =>
    obtain ⟨j, w⟩ := e
    rw [mwf_cons, Bool.and_eq_true] at hw
    rw [mfind]
    rcases List.mem_cons.mp h with h | h
    · cases h; exact if_pos rfl
    · have hk : j ≠ k := by
        rintro rfl
        have := ih hw.2 h
        rw [mfind_of_above hw.1] at this
        exact nomatch this
      rw [if_neg hk]
      exact ih hw.2 h

/-! ### Streams of the stream list -/

/-- Stream `id` is an input of the lease (R247). -/
def isInput (es : List StrmEnt) (id : Nat) : Bool := es.any fun e => e.id == id && decide (e.port < 24)

theorem isInput_cons (e : StrmEnt) (es : List StrmEnt) (id : Nat) :
    isInput (e :: es) id = (e.id == id && strmIn e || isInput es id) := rfl

/-- The bound input streams start (R272). -/
theorem mfind_startStreams (es : List StrmEnt) (m : List (Nat × Stream)) (id : Nat) :
    mfind (es.foldl (fun m e => if strmIn e then mmod m e.id fun x => if x.bound then { x with started := true } else x else m) m) id =
      (mfind m id).map fun x => if isInput es id && x.bound then { x with started := true } else x := by
  induction es generalizing m with
  | nil => simp [isInput]
  | cons e es ih =>
    rw [List.foldl_cons, ih, isInput_cons]
    by_cases hin : strmIn e = true
    · rw [if_pos hin, mfind_mmod]
      by_cases hid : id = e.id
      · subst hid
        cases mfind m e.id with
        | none => simp
        | some x => cases hb : x.bound <;> simp [hin, hb]
      · simp [hid, Ne.symm hid]
    · simp [hin]

/-- The marker of a round is put on the input streams (R180). -/
theorem mfind_markStreams (es : List StrmEnt) (m : List (Nat × Stream)) (mk : Tok) (id : Nat) :
    mfind (es.foldl (fun m e => if strmIn e then mput m e.id { mget Stream.zero m e.id with mark := some mk } else m) m) id =
      if isInput es id then some { mget Stream.zero m id with mark := some mk } else mfind m id := by
  induction es generalizing m with
  | nil => simp [isInput]
  | cons e es ih =>
    rw [List.foldl_cons, ih, isInput_cons]
    by_cases hin : strmIn e = true
    · rw [if_pos hin]
      by_cases hid : id = e.id
      · subst hid
        simp [mget, hin]
      · simp [mget, mfind_mput_ne _ _ hid, Ne.symm hid]
    · simp [hin]

/-- A round reaches the contexts that bind no input (R180). -/
theorem mget_markContexts (a : Plane) (n : Nat) (ks : List Nat) (m : List (Nat × Ctx)) (k : Nat) :
    mget Ctx.zero (ks.foldl (fun m k =>
        let c := mget Ctx.zero m k
        mput m k { c with mark := if boundIn a k = [] then some n else c.mark }) m) k =
      if k ∈ ks then { mget Ctx.zero m k with mark := if boundIn a k = [] then some n else (mget Ctx.zero m k).mark }
      else mget Ctx.zero m k := by
  induction ks generalizing m with
  | nil => rfl
  | cons j ks ih =>
    rw [List.foldl_cons, ih]
    dsimp only
    by_cases hj : k = j
    · subst hj
      by_cases hb : boundIn a k = [] <;> simp [mget, hb]
    · simp [mget, mfind_mput_ne _ _ hj, hj]

/-! ### GO and WAITD -/

theorem xset_donecnt (q : Seq) (n : BitVec 5) (v : Dword) (p : Bool) : (xset q n v p).donecnt = q.donecnt := by
  unfold xset
  split <;> rfl

theorem onlyLease_upd2 {s t : State} {l : Nat} {ls : Lease} (h : OnlyLease s t l ls) (f : Lease → Lease) :
    OnlyLease s (updLease t l f) l (f ls) := by
  obtain ⟨hl, ho, hs⟩ := h
  refine ⟨leaseOf_updLease f hl, fun j hj => (leaseOf_updLease_ne t f hj).trans (ho j hj), ?_⟩
  rw [hs]
  rfl

theorem setSeq_setSeq (ls : Lease) (rep : Bool) (q q' : Seq) : setSeq (setSeq ls rep q) rep q' = setSeq ls rep q' := by
  cases rep <;> rfl

theorem onlySeq_upd2 {s t : State} {l : Nat} {rep : Bool} {ls : Lease} {q : Seq} (h : OnlySeq s t l rep ls q) (f : Seq → Seq) :
    OnlySeq s (updSeq t l rep f) l rep ls (f q) := by
  have h' := onlyLease_upd2 h fun ls => setSeq ls rep (f (seqOf ls rep))
  rw [seqOf_setSeq, setSeq_setSeq] at h'
  exact h'

section
variable {s : State} {l : Nat} {ls : Lease}

theorem bothTiles_solo (h : ls.paired = false) (ts : List Nat) : bothTiles ls ts = ts := by simp [bothTiles, h]

theorem leaseOf_wakes (b : Bool) (t : State) (j : Nat) : leaseOf (if b then wakeShunter t else t) j = leaseOf t j := by
  cases b <;> rfl

/-- A word that gives `v` in a state whose lease stands at the same place. -/
theorem gave_sharedDone {t : State} {ls1 : Lease} (h : leaseOf t l = some ls1) (hpc : ls1.seq.pc = ls.seq.pc) (xd : BitVec 5) (v : Nat) :
    ∃ ls', leaseOf (sharedDone t l xd v) l = some ls' ∧
      (xd ≠ 0 → xget ls'.seq xd = BitVec.ofNat 64 v ∧ xpois ls'.seq xd = false) ∧ ls'.seq.pc = ls.seq.pc + 4 := by
  refine ⟨_, leaseOf_sharedDone h xd v, result_seqNext_xset _ xd _, ?_⟩
  simp [hpc]

/-- GO of a lease without an open go and with at most one root (R272). -/
theorem go_sends (h : SoloTurn s l ls []) (hg : ls.rootGo = false) (hr : (rootTiles ls).length ≤ 1) :
    Gives .go s fun t => ∃ ls', leaseOf t l = some ls' ∧
       ls'.seq.pc = ls.seq.pc + 4 ∧ ls'.phStarted = true ∧ ls'.phEnded = false ∧ ls'.finalPh = ls.finNext ∧
       ls'.msgs = ls.msgs ++ (rootTiles ls).map (fun u => ⟨.go, u, 0, 0⟩) ++ (usedTiles ls).map (fun u => ⟨.phase, u, 0, 0⟩) ∧
       (∀ id, mfind ls'.streams id =
         (mfind ls.streams id).map fun x => if isInput ls.img.strms id && x.bound then { x with started := true } else x) ∧
       (ls'.rootGo = !(rootTiles ls).isEmpty) ∧ tickOf s (anchorDie ls) ≤ ls'.goFloor := by
  have hrun : execGo s = _ := onTwins_solo h [] (List.nil_subset _) _
  dsimp only at hrun
  rw [if_neg (by simp [hg]), if_neg (by omega), bothTiles_solo h.solo] at hrun
  refine ⟨_, hrun, _, leaseOf_updSeq false _ ((leaseOf_wakes _ _ _).trans (leaseOf_updLease _ (leaseOf_updLease _ h.turn.lease))),
    rfl, rfl, rfl, rfl, rfl, fun id => mfind_startStreams ls.img.strms ls.streams id, ?_, le_max_right _ _⟩
  change (!((rootTiles ls).map fun u => (⟨.go, u, 0, 0⟩ : Msg)).isEmpty) = _
  rw [List.isEmpty_map]

end

/-! ### DRAIN -/

section
variable {s : State} {l : Nat} {ls : Lease}

/-- A tile that a round reaches (R180). -/
def markTile (n : Nat) (x : Tile) : Tile :=
  { x with
    eosSeen := x.eosSeen.filter (· < 3 * 16384)
    ctx := (ctxs x.act).foldl (fun m k =>
      let c := mget Ctx.zero m k
      mput m k { c with mark := if boundIn x.act k = [] then some n else c.mark }) x.ctx }

/-- A round that is injected reaches the input streams and the contexts that bind no input (R180). -/
theorem leaseOf_injectRound (h : leaseOf s l = some ls) (n : Nat) (hold : Bool) :
    ∃ ls', leaseOf (injectRound s l n hold false) l = some ls' ∧ ls'.markerMode = true ∧ ls'.seq = ls.seq ∧
      ls'.round = some ⟨n, hold, false, false, none⟩ ∧
      (∀ id, mfind ls'.streams id = if isInput ls.img.strms id then
        some { mget Stream.zero ls.streams id with mark := some (markerTok n hold) } else mfind ls.streams id) ∧
      ∀ t x, tileOf ls t = some x → ∃ x', tileOf ls' t = some x' ∧ x'.act = x.act ∧
        ∀ k, ctxOf x' k = if k ∈ ctxs x.act then
          { ctxOf x k with mark := if boundIn x.act k = [] then some n else (ctxOf x k).mark } else ctxOf x k := by
  refine ⟨_, leaseOf_updLease _ h, rfl, rfl, rfl, fun id => mfind_markStreams ls.img.strms ls.streams (markerTok n hold) id,
    fun t x hx => ⟨markTile n x, ?_, rfl, mget_markContexts x.act n (ctxs x.act) x.ctx⟩⟩
  refine (mfind_mmap ls.tiles (fun _ => markTile n) t).trans ?_
  rw [show mfind ls.tiles t = some x from hx]
  rfl

/-- A released round leaves no context held or marked (R182). -/
theorem leaseOf_releaseRound (h : leaseOf s l = some ls) :
    ∃ ls', leaseOf (releaseRound s l) l = some ls' ∧ ls'.seq = ls.seq ∧ ls'.markerMode = false ∧ ls'.round = none ∧
      ∀ e ∈ ls'.tiles, ∀ c ∈ e.2.ctx, c.2.hold = false ∧ c.2.mark = none := by
  refine ⟨_, leaseOf_updLease _ h, rfl, rfl, rfl, fun e he c hc => ?_⟩
  obtain ⟨e, _, rfl⟩ := List.mem_map.mp he
  obtain ⟨c, _, rfl⟩ := List.mem_map.mp hc
  exact ⟨rfl, rfl⟩

/-- What DRAIN in mode `m` does once its operand is read (R273). -/
def drainMode (s : State) (l : Nat) (ls : Lease) (xd : BitVec 5) (m : Nat) : State :=
  match m with
  | 0 => if !ls.phStarted || ls.phEnded then sharedDone (floorNow s l true) l xd 0 else s
  | 3 =>
    match ls.round with
    | some r => if r.isHold && !r.shunter && ls.markerMode then sharedDone (releaseRound s l) l xd 0 else sharedDone s l xd 0
    | none => if ls.markerMode then sharedDone (releaseRound s l) l xd 0 else sharedDone s l xd 0
  | m =>
    if (match ls.round with
        | some r => r.shunter || !r.complete
        | none => false) then s
    else
      updSeq (injectRound s l ((ls.mround + 1) % 2 ^ 16) (m == 2) false) l false fun q =>
        { q with op := .drain ((ls.mround + 1) % 2 ^ 16) }

/-- RELEASE frees the contexts: of a HOLD round of the program, or in marker mode without a round (R182). -/
def releases (ls : Lease) : Bool :=
  ls.markerMode && match ls.round with
    | some r => r.isHold && !r.shunter
    | none => true

theorem drainMode_release (xd : BitVec 5) :
    drainMode s l ls xd 3 = if releases ls then sharedDone (releaseRound s l) l xd 0 else sharedDone s l xd 0 := by
  unfold drainMode releases
  cases ls.round with
  | none => simp
  | some r => simp [Bool.and_comm]

theorem releases_of (hm : ls.markerMode = true)
    (hr : ls.round = none ∨ ∃ r, ls.round = some r ∧ r.isHold = true ∧ r.shunter = false) : releases ls = true := by
  rcases hr with hr | ⟨r, hr, h1, h2⟩
  · simp [releases, hm, hr]
  · simp [releases, hm, hr, h1, h2]

theorem drainMode_round {m : Nat} (hm : m = 1 ∨ m = 2) (hr : ls.round = none) (xd : BitVec 5) :
    drainMode s l ls xd m = updSeq (injectRound s l ((ls.mround + 1) % 2 ^ 16) (m == 2) false) l false fun q =>
        { q with op := .drain ((ls.mround + 1) % 2 ^ 16) } := by
  unfold drainMode
  rw [hr]
  rcases hm with rfl | rfl <;> rfl

/-- The end of DRAIN's round `n` (R180, R273). -/
def drainEnd (s : State) (l : Nat) (ls : Lease) (xd : BitVec 5) (n : Nat) : State :=
  if roundDone ls n then
    sharedDone (updLease s l fun ls =>
      { ls with
        mround := n
        round := match ls.round with
          | some r => if r.isHold then some { r with complete := true } else none
          | none => none }) l xd n
  else s

theorem exec_drain_starts {xd xa : BitVec 5} (h : SoloTurn s l ls [xd, xa]) (hop : ls.seq.op = .none) (hs : ls.seq.saved = none) :
    exec (.drain xd xa) s = .next (if xpois ls.seq xa then seqFault s l false cPCTL 0
      else drainMode s l ls xd ((xget ls.seq xa).toNat % 4)) := by
  have hrun : execDrain xd xa s = _ := onTwins_solo h [xd, xa] (List.Subset.refl _) _
  have hres : resumed ls.seq = none := by rw [resumed, hs]
  dsimp only at hrun
  rw [hop, hres, bits_eq _ 0 2, Nat.pow_zero, Nat.div_one] at hrun
  exact hrun

theorem exec_drain_waits {xd xa : BitVec 5} (h : SoloTurn s l ls [xd, xa]) {n : Nat} (hop : ls.seq.op = .drain n) :
    exec (.drain xd xa) s = .next (drainEnd s l ls xd n) := by
  have hrun : execDrain xd xa s = _ := onTwins_solo h [xd, xa] (List.Subset.refl _) _
  dsimp only at hrun
  rw [hop] at hrun
  exact hrun

end

/-- Settles O19: the tests of GO, WAITD and DRAIN, and what each branch leaves of the lease. -/
theorem goWaitdDrain : Obligations.go_waitd_drain := by
  refine ⟨fun s l ls xd h => ⟨?goOpen, ?goRoots, fun hg hr => go_sends (h.mono (List.nil_subset _)) hg hr, ?waitd⟩,
    fun s l ls xd xa h hs => ⟨?poisoned, ?starts, ?waits⟩⟩
  case goOpen =>
    intro hg
    have hrun : execGo s = _ := onTwins_solo h [] (List.nil_subset _) _
    dsimp only at hrun
    rwa [if_pos hg] at hrun
  case goRoots =>
    intro hg hr
    have hrun : execGo s = _ := onTwins_solo h [] (List.nil_subset _) _
    dsimp only at hrun
    rwa [if_neg (by simp [hg]), if_pos hr] at hrun
  case waitd =>
    have hrun : execWaitd xd s = _ := onTwins_solo h [xd] (List.Subset.refl _) _
    refine ⟨fun hd => ?done, fun hd hg => ?open_, fun hd hg => ?zero⟩
    case done =>
      rw [if_pos hd] at hrun
      refine ⟨_, hrun, _, onlySeq_upd2 (onlySeq_upd h.turn.lease _) _, ?_, result_seqNext_xset _ xd _, fun n hn => ?_, ?_⟩
      · exact xset_donecnt _ xd _ false
      · rw [xget_seqNext, xpois_seqNext, xget_xset_ne _ _ _ hn, xpois_xset_ne _ _ _ hn]
        exact ⟨rfl, rfl⟩
      · rw [seqNext_pc, xset_pc]
        rfl
    case open_ =>
      rw [if_neg (by omega), if_pos hg] at hrun
      exact hrun
    case zero =>
      rw [if_neg (by omega), if_neg (by simp [hg])] at hrun
      exact ⟨_, hrun, seqResult_aluDone h.turn.lease _ _ _⟩
  case poisoned =>
    intro hop hp
    rw [exec_drain_starts h hop hs, if_pos hp]
  case starts =>
    intro hop hp
    have hrun := exec_drain_starts h hop hs
    have hl := h.turn.lease
    rw [if_neg (by simp [hp])] at hrun
    refine ⟨fun hm hph => ?ended, fun hm hst hen => ?running, fun hm hr => ?round, fun hm => ?release⟩
    case ended =>
      rw [hm, drainMode, if_pos (by rcases hph with hph | hph <;> simp [hph])] at hrun
      exact ⟨_, hrun, gave_sharedDone (leaseOf_updLease _ hl) rfl xd 0⟩
    case running =>
      rw [hm, drainMode, if_neg (by simp [hst, hen])] at hrun
      exact hrun
    case round =>
      rw [drainMode_round hm hr] at hrun
      obtain ⟨a, ha, hmm, hq, hround, hstr, htile⟩ := leaseOf_injectRound hl ((ls.mround + 1) % 2 ^ 16)
        ((xget ls.seq xa).toNat % 4 == 2)
      refine ⟨_, hrun, _, leaseOf_updSeq false _ ha, rfl, hmm, (congrArg Seq.pc hq :), hround, fun id hid => ?_, fun id hid => ?_,
        fun t x hx hw => ?_⟩
      · exact congrArg (fun o => (Option.getD o Stream.zero).mark) ((hstr id).trans (if_pos hid))
      · exact (hstr id).trans (if_neg (by simpa [isInput] using hid))
      · obtain ⟨x', hx', hact, hctx⟩ := htile t x (mfind_of_mem hw hx)
        refine ⟨x', hx', hact, fun k hk hb => ?_, fun k hb => ?_⟩
        · rw [hctx k, if_pos hk]
          exact if_pos hb
        · rw [hctx k]
          by_cases hk : k ∈ ctxs x.act
          · rw [if_pos hk]
            exact if_neg hb
          · rw [if_neg hk]
    case release =>
      rw [hm, drainMode_release] at hrun
      by_cases hrel : releases ls = true
      · rw [if_pos hrel] at hrun
        obtain ⟨a, ha, hq, h1, h2, h3⟩ := leaseOf_releaseRound hl
        exact ⟨_, hrun, gave_sharedDone ha (congrArg Seq.pc hq) xd 0, fun _ _ => ⟨_, leaseOf_sharedDone ha xd 0, h1, h2, h3⟩⟩
      · rw [if_neg hrel] at hrun
        exact ⟨_, hrun, gave_sharedDone hl rfl xd 0, fun hmm hr => absurd (releases_of hmm hr) hrel⟩
  case waits =>
    intro n hop
    have hrun := exec_drain_waits h hop
    have hl := h.turn.lease
    refine ⟨fun hd => ?_, fun hd => ?_⟩
    · rw [drainEnd, if_pos hd] at hrun
      exact ⟨_, hrun, gave_sharedDone (leaseOf_updLease _ hl) rfl xd n, _, leaseOf_sharedDone (leaseOf_updLease _ hl) xd n, rfl⟩
    · rw [drainEnd, if_neg (by simp [hd])] at hrun
      exact hrun

end Sys2Proof.Claims
end

section
/-! SUPPORT. Engine operations, EWAIT, child launches and JOIN (R277, R284 to R286): the tests of each word in their order. -/

namespace Sys2Proof.Claims

open Sys2Proof Sys2Proof.Machine

section
variable {s : State} {l : Nat} {ls : Lease}

/-! ### Engine operations -/

/-- The descriptor of an engine operation is read: it starts, or waits for one of 64 places (R277). -/
def engPlace (s : State) (l : Nat) (ls : Lease) (xd : BitVec 5) (sync : Option Nat) (shadow : Nat) (kind : EngKind) : State :=
  if 64 ≤ ls.engines.length then updSeq s l false fun q => { q with op := .engine kind }
  else engStart s l ls.seq ls xd sync shadow kind

/-- What the issue of an engine operation leaves of the lease (R277, R133). -/
def EngBegan (t : State) (l : Nat) (ls ls1 : Lease) (xd : BitVec 5) (sync : Option Nat) (shadow : Nat) (kind : EngKind) : Prop :=
  ∃ ls' e, leaseOf t l = some ls' ∧ ls'.ticket = nextTicket ls.ticket ∧ ls'.seq.pc = ls1.seq.pc + 4 ∧
    (xd ≠ 0 → xget ls'.seq xd = BitVec.ofNat 64 (nextTicket ls.ticket) ∧ xpois ls'.seq xd = false) ∧
    mfind ls'.tstat (nextTicket ls.ticket) = some 2 ∧ ls'.engines = ls1.engines ++ [e] ∧ e.ticket = nextTicket ls.ticket ∧
    e.shadow = shadow ∧ e.sync = sync ∧ e.after = nunion ls.seq.ord.outR ls.seq.ord.outW ∧
    e.floor = max ls.seq.ord.floor (max ls.seq.ord.lastR ls.seq.ord.lastW) ∧ e.kind = kind

theorem engBegan_engStart {ls1 : Lease} (h : leaseOf s l = some ls1) (xd : BitVec 5) (sync : Option Nat) (shadow : Nat)
    (kind : EngKind) : EngBegan (engStart s l ls.seq ls xd sync shadow kind) l ls ls1 xd sync shadow kind := by
  refine ⟨_, _, leaseOf_sharedDone (leaseOf_updLease _ h) xd _, rfl, ?_, result_seqNext_xset _ xd _, mfind_mput_self _ _ _, rfl, rfl,
    rfl, rfl, rfl, rfl, rfl⟩
  simp

/-- The issue of an engine operation, past the tests (R277). -/
theorem engIssue_solo {xd xa xb : BitVec 5} (h : SoloTurn s l ls [xd, xa, xb]) (rd : State → Nat → Nat → EngRes) (sync : Bool)
    (k : BitVec 2) : engIssue rd xd xa xb sync k s = .next (
      let va := (xget ls.seq xa).toNat
      let sw := (xget ls.seq xb).toNat
      let sy := if sync then some sw else none
      match ls.seq.op with
      | .page _ => s
      | .engine kind => engPlace s l ls xd sy k.toNat kind
      | _ =>
        if xpois ls.seq xa then seqFault s l false cPADDR va
        else if sync && xpois ls.seq xb then seqFault s l false cPADDR sw
        else if va % 16 ≠ 0 then seqFault s l false cALIGN va
        else if sync && sw % 16 ≠ 0 then seqFault s l false cALIGN sw
        else match rd s l va with
          | .bad c a s1 => seqFault s1 l false c a
          | .wait j s1 => updSeq s1 l false fun q => { q with op := .page j }
          | .busy s1 => s1
          | .ok kind s1 => engPlace s1 l ls xd sy k.toNat kind) := by
  have hrun : engIssue rd xd xa xb sync k s = _ := onShared_solo h [xd, xa, xb] (List.Subset.refl _) _
  rw [h.solo] at hrun
  exact hrun

theorem engine_runs {xd xa xb : BitVec 5} (h : SoloTurn s l ls [xd, xa, xb]) {i : Instr} {rd : State → Nat → Nat → EngRes}
    {sync : Bool} {k : BitVec 2} (hi : exec i s = engIssue rd xd xa xb sync k s) :
    let q := ls.seq
    let va := (xget q xa).toNat
    let sw := (xget q xb).toNat
    let sy := if sync then some sw else none
    let waiting (s1 : State) (kind : EngKind) : State := updSeq s1 l false fun q => { q with op := .engine kind }
    (∀ kind, q.op = .engine kind → (64 ≤ ls.engines.length → exec i s = .next (waiting s kind)) ∧
      (ls.engines.length < 64 → Gives i s fun t => EngBegan t l ls ls xd sy k.toNat kind)) ∧
    (q.op = .none →
      (xpois q xa = true → exec i s = .next (seqFault s l false cPADDR va)) ∧
      (xpois q xa = false → sync = true → xpois q xb = true → exec i s = .next (seqFault s l false cPADDR sw)) ∧
      (xpois q xa = false → (sync = true → xpois q xb = false) →
        (va % 16 ≠ 0 → exec i s = .next (seqFault s l false cALIGN va)) ∧
        (va % 16 = 0 → sync = true → sw % 16 ≠ 0 → exec i s = .next (seqFault s l false cALIGN sw)) ∧
        (va % 16 = 0 → (sync = true → sw % 16 = 0) →
          (∀ c a s1, rd s l va = .bad c a s1 → exec i s = .next (seqFault s1 l false c a)) ∧
          (∀ kind s1, rd s l va = .ok kind s1 → 64 ≤ ls.engines.length → exec i s = .next (waiting s1 kind)) ∧
          (∀ kind s1 ls1, rd s l va = .ok kind s1 → ls.engines.length < 64 → leaseOf s1 l = some ls1 →
            Gives i s fun t => EngBegan t l ls ls1 xd sy k.toNat kind)))) := by
  have hrun := hi.trans (engIssue_solo h rd sync k)
  dsimp only at hrun ⊢
  refine ⟨fun kind hop => ?placed, fun hop => ?checks⟩
  case placed =>
    rw [hop] at hrun
    refine ⟨fun hn => hrun.trans (congrArg _ (if_pos hn)), fun hn => ⟨_, hrun.trans (congrArg _ (if_neg (by omega))), ?_⟩⟩
    exact engBegan_engStart h.turn.lease xd _ _ kind
  case checks =>
    rw [hop] at hrun
    dsimp only at hrun
    refine ⟨fun hp => ?_, fun hp hs hb => ?_, fun hp hb => ⟨fun ha => ?_, fun ha hs hw => ?_, fun ha hw => ?_⟩⟩
    · rwa [if_pos hp] at hrun
    · rwa [if_neg (by simp [hp]), if_pos (by simp [hs, hb])] at hrun
    all_goals rw [if_neg (by simp [hp]), if_neg (by simpa using hb)] at hrun
    · rwa [if_pos ha] at hrun
    · rwa [if_neg (by simp [ha]), if_pos (by simp [hs, hw])] at hrun
    · rw [if_neg (by simp [ha]), if_neg (by simpa using hw)] at hrun
      refine ⟨fun c a s1 hr => ?_, fun kind s1 hr hn => ?_, fun kind s1 ls1 hr hn hl => ?_⟩
      all_goals rw [hr] at hrun
      · exact hrun
      · exact hrun.trans (congrArg _ (if_pos hn))
      · exact ⟨_, hrun.trans (congrArg _ (if_neg (by omega))), engBegan_engStart hl xd _ _ kind⟩

/-! ### Requests as they enter -/

/-- Request `r` as it stands once it is added (R119, R126). -/
def entered (s : State) (r : Req) : Req := (reqOf (addReq s r).1 s.nextId).getD r

theorem reqOf_addReq_entered (s : State) (r : Req) : reqOf (addReq s r).1 s.nextId = some (entered s r) := by
  obtain ⟨a, f, b, w, t, h⟩ := reqOf_addReq s r
  rw [entered, h]
  rfl

theorem entered_eq (s : State) (r : Req) : ∃ a f b w t,
    entered s r = { r with after := a, floor := f, born := s.wall, bornFc := b, flush := w, left := t } := by
  obtain ⟨a, f, b, w, t, h⟩ := reqOf_addReq s r
  exact ⟨a, f, b, w, t, by rw [entered, h]; rfl⟩

/-- What a request asks stays as it is added. -/
theorem entered_fields (s : State) (r : Req) : (entered s r).iss = r.iss ∧ (entered s r).op = r.op ∧ (entered s r).view = r.view ∧
    (entered s r).acq = r.acq ∧ (entered s r).scope = r.scope ∧ (entered s r).posted = r.posted ∧ (entered s r).stage = r.stage ∧
    (entered s r).parts = r.parts ∧ (entered s r).dst = r.dst ∧ (entered s r).chain = r.chain := by
  obtain ⟨a, f, b, w, t, h⟩ := entered_eq s r
  rw [h]
  exact ⟨rfl, rfl, rfl, rfl, rfl, rfl, rfl, rfl, rfl, rfl⟩

/-! ### EWAIT -/

/-- EWAIT of a sequencer that waits for nothing (R284). -/
theorem ewait_runs {xd xa xb : BitVec 5} (h : SoloTurn s l ls [xd, xa, xb]) (hop : ls.seq.op = .none) :
    let q := ls.seq
    let n := (xget q xa).toNat % 2 ^ 16
    let ea := (xget q xb).toNat
    let gave (t : State) (v : Nat) : Prop := ∃ ls', leaseOf t l = some ls' ∧
      (xd ≠ 0 → xget ls'.seq xd = BitVec.ofNat 64 v ∧ xpois ls'.seq xd = false) ∧ ls'.seq.pc = q.pc + 4
    (xpois q xa = true → exec (.ewait xd xa xb) s = .next (seqFault s l false cPCTL 0)) ∧
    (xpois q xa = false → xb = 0 →
      (mfind ls.tstat n = none → Gives (.ewait xd xa xb) s fun t => gave t 3) ∧
      (mfind ls.tstat n = some 0 → Gives (.ewait xd xa xb) s fun t => gave t 0 ∧
        ∃ ls', leaseOf t l = some ls' ∧ tickOf s (anchorDie ls) ≤ ls'.seq.ord.floor) ∧
      (mfind ls.tstat n = some 1 → Gives (.ewait xd xa xb) s fun t => gave t 1) ∧
      (mfind ls.tstat n = some 2 → exec (.ewait xd xa xb) s = .next s)) ∧
    (xpois q xa = false → xb ≠ 0 →
      (xpois q xb = true → exec (.ewait xd xa xb) s = .next (seqFault s l false cPADDR ea)) ∧
      (xpois q xb = false → ea % 16 ≠ 0 → exec (.ewait xd xa xb) s = .next (seqFault s l false cALIGN ea)) ∧
      (xpois q xb = false → ea % 16 = 0 → 2 ^ 56 ≤ ea → exec (.ewait xd xa xb) s = .next (seqFault s l false cTRANS ea)) ∧
      (xpois q xb = false → ea % 16 = 0 → ea < 2 ^ 56 → Gives (.ewait xd xa xb) s fun t =>
        ∃ r p, reqOf t s.nextId = some r ∧ r.op = .swait n ∧ r.acq = true ∧ r.scope = .panel ∧ r.parts = [p] ∧ p.va = ea ∧
          p.len = 16)) := by
  have hrun : execEwait xd xa xb s = _ := onShared_solo h [xd, xa, xb] (List.Subset.refl _) _
  have hl := h.turn.lease
  dsimp only at hrun ⊢
  rw [hop, bits_eq _ 0 16, Nat.pow_zero, Nat.div_one] at hrun
  dsimp only at hrun
  refine ⟨fun hp => ?poisoned, fun hp hb => ?ticket, fun hp hb => ?sync⟩
  case poisoned => rwa [if_pos hp] at hrun
  case ticket =>
    rw [if_neg (by simp [hp]), if_pos hb] at hrun
    refine ⟨fun hn => ?_, fun hn => ?_, fun hn => ?_, fun hn => ?_⟩ <;> rw [hn] at hrun
    · exact ⟨_, hrun, gave_sharedDone hl rfl xd 3⟩
    · refine ⟨_, hrun, gave_sharedDone (leaseOf_updLease _ hl) rfl xd 0, _, leaseOf_sharedDone (leaseOf_updLease _ hl) xd 0, ?_⟩
      change _ ≤ (xset _ xd 0 false).ord.floor
      rw [ord_xset]
      exact le_max_right _ _
    · exact ⟨_, hrun, gave_sharedDone hl rfl xd 1⟩
    · exact hrun
  case sync =>
    rw [if_neg (by simp [hp]), if_neg hb] at hrun
    refine ⟨fun hbp => ?_, fun hbp ha => ?_, fun hbp ha h56 => ?_, fun hbp ha h56 => ?_⟩
    · rwa [if_pos hbp] at hrun
    all_goals rw [if_neg (by simp [hbp])] at hrun
    · rwa [if_pos ha] at hrun
    all_goals rw [if_neg (by simp [ha])] at hrun
    · rwa [if_pos h56] at hrun
    · rw [if_neg (by omega)] at hrun
      obtain ⟨-, hop, -, hacq, hsc, -, -, hparts, -⟩ := entered_fields s _
      exact ⟨_, hrun, _, _, reqOf_addReq_entered s _, hop, hacq, hsc, hparts, rfl, rfl⟩

/-! ### Child launches -/

/-- What a child launch does with record `r` that it has read (R285, R377). -/
def launchWith (s : State) (l : Nat) (ls : Lease) (fromRes : Bool) (xd : BitVec 5) (va : Nat) (r : Rec) : State :=
  if !fromRes && (vfOf s ls.tenant).tquota < (vfOf s ls.tenant).tused + 4 * r.w * r.h + r.reserve then sharedDone s l xd (2 ^ 63 + 1)
  else match freeChild ls with
    | none => sharedDone s l xd (2 ^ 63 + 2)
    | some n =>
      if fromRes && ls.lrec.reserve < 4 * r.w * r.h then seqFault s l false cCONFIG va
      else if fromRes && reserveLeft ls < 4 * r.w * r.h then updSeq s l false fun q => { q with op := .launch r }
      else
        let s2 := if fromRes then s else updVf s ls.tenant fun v => { v with tused := v.tused + 4 * r.w * r.h + r.reserve }
        let s3 := updLease s2 l fun ls => { ls with children := mput ls.children n ⟨none, none, fromRes, 4 * r.w * r.h⟩ }
        sharedDone { s3 with cands := s3.cands ++ [⟨some l, ls.queue, ls.tenant, n, r, fromRes, ls.paired⟩] } l xd n

theorem launch_runs {xd xa : BitVec 5} (h : SoloTurn s l ls [xd, xa]) (hop : ls.seq.op = .none) {i : Instr} {fromRes : Bool}
    (hi : exec i s = launchChild fromRes xd xa s) :
    let va := (xget ls.seq xa).toNat
    (xpois ls.seq xa = true → exec i s = .next (seqFault s l false cPADDR va)) ∧
    (xpois ls.seq xa = false → va % 64 ≠ 0 → exec i s = .next (seqFault s l false cALIGN va)) ∧
    (xpois ls.seq xa = false → va % 64 = 0 → ∀ r s1, readRec s l va = .ok r s1 →
      exec i s = .next (launchWith s1 l ls fromRes xd va r)) := by
  have hrun : launchChild fromRes xd xa s = _ := onShared_solo h [xd, xa] (List.Subset.refl _) _
  dsimp only at hrun ⊢
  rw [hop, h.solo] at hrun
  dsimp only at hrun
  rw [if_neg Bool.false_ne_true] at hrun
  have hrun := hi.trans hrun
  refine ⟨fun hp => ?_, fun hp ha => ?_, fun hp ha r s1 hr => ?_⟩
  · rwa [if_pos hp] at hrun
  all_goals rw [if_neg (by simp [hp])] at hrun
  · rwa [if_pos ha] at hrun
  · rw [if_neg (by simp [ha]), hr] at hrun
    rw [launchWith, h.solo]
    exact hrun

theorem join_runs {xd xa : BitVec 5} (h : SoloTurn s l ls [xd, xa]) : exec (.join xd xa) s = .next (
    let n := (xget ls.seq xa).toNat % 2 ^ 8
    if xpois ls.seq xa then seqFault s l false cPCTL 0
    else match mfind ls.children n with
      | none => seqFault s l false cJOIN n
      | some c => match c.ended with
        | some st => sharedDone (updLease s l fun ls => { ls with children := mdel ls.children n }) l xd st
        | none => s) := by
  have hrun : execJoin xd xa s = _ := onShared_solo h [xd, xa] (List.Subset.refl _) _
  dsimp only at hrun
  rw [bits_eq _ 0 8, Nat.pow_zero, Nat.div_one] at hrun
  exact hrun

/-- A child that is launched takes number `c` and joins the candidates (R285). -/
theorem launchWith_queues {s1 : State} {ls1 : Lease} (hl : leaseOf s1 l = some ls1) (hpc : ls1.seq.pc = ls.seq.pc) {fromRes : Bool}
    {r : Rec} {c va : Nat} (hq : fromRes = true ∨ (vfOf s1 ls.tenant).tused + 4 * r.w * r.h + r.reserve ≤ (vfOf s1 ls.tenant).tquota)
    (hc : freeChild ls = some c) (hr : fromRes = true → 4 * r.w * r.h ≤ ls.lrec.reserve ∧ 4 * r.w * r.h ≤ reserveLeft ls) (xd : BitVec 5) :
    (∃ ls', leaseOf (launchWith s1 l ls fromRes xd va r) l = some ls' ∧ (xd ≠ 0 → xget ls'.seq xd = BitVec.ofNat 64 c) ∧
      ls'.seq.pc = ls.seq.pc + 4) ∧
    (launchWith s1 l ls fromRes xd va r).cands = s1.cands ++ [⟨some l, ls.queue, ls.tenant, c, r, fromRes, ls.paired⟩] := by
  rw [launchWith, if_neg (by rcases hq with hq | hq <;> simp [hq]), hc]
  dsimp only
  rw [if_neg (by simp only [Bool.and_eq_true, decide_eq_true_eq]; rintro ⟨hf, hlt⟩; exact absurd (hr hf).1 (by omega)),
    if_neg (by simp only [Bool.and_eq_true, decide_eq_true_eq]; rintro ⟨hf, hlt⟩; exact absurd (hr hf).2 (by omega))]
  have hkeep : leaseOf (if fromRes then s1 else updVf s1 ls.tenant fun v => { v with tused := v.tused + 4 * r.w * r.h + r.reserve }) l =
      some ls1 := by cases fromRes <;> exact hl
  have hcands : (if fromRes then s1 else updVf s1 ls.tenant fun v => { v with tused := v.tused + 4 * r.w * r.h + r.reserve }).cands =
      s1.cands := by cases fromRes <;> rfl
  refine ⟨?_, congrArg (· ++ [_]) hcands⟩
  obtain ⟨ls', h1, h2, h3⟩ := gave_sharedDone (ls := ls) (xd := xd) (v := c) (t := { updLease (if fromRes then s1
    else updVf s1 ls.tenant fun v => { v with tused := v.tused + 4 * r.w * r.h + r.reserve }) l fun ls =>
      { ls with children := mput ls.children c ⟨none, none, fromRes, 4 * r.w * r.h⟩ } with cands := _ }) (leaseOf_updLease _ hkeep) hpc
  exact ⟨ls', h1, fun hx => (h2 hx).1, h3⟩

end

/-- Settles O20: the three operations by the tests that they share, and EWAIT by its own. -/
theorem enginesIssueAndEwait : Obligations.engines_issue_and_ewait :=
  ⟨fun _ _ _ xd xa xb sync k h => ⟨engine_runs h (i := .ecopy xd xa xb sync k) (rd := rdCopy) rfl,
    engine_runs h (i := .egath xd xa xb sync k) (rd := rdGath) rfl, engine_runs h (i := .ecoll xd xa xb sync k) (rd := rdColl) rfl⟩,
    fun _ _ _ _ _ _ h hop => ewait_runs h hop⟩

/-- Settles O21: the tests of the launches, what a launch does with its record, and the tests of JOIN. -/
theorem launchAndJoin : Obligations.launch_and_join := by
  intro s l ls xd xa h hop
  have hlaunch := launch_runs h hop (i := .launch xd xa) (fromRes := false) rfl
  have hlaunchr := launch_runs h hop (i := .launchr xd xa) (fromRes := true) rfl
  have hjoin := join_runs h
  have hl := h.turn.lease
  refine ⟨fun i hi => ?tests, fun hp ha r s1 ls1 hr hl1 hpc => ?reads, fun hp => ?poisoned, fun hp => ?join⟩
  case tests =>
    rcases List.mem_cons.mp hi with rfl | hi
    · exact ⟨hlaunch.1, hlaunch.2.1⟩
    · rw [List.mem_singleton.mp hi]
      exact ⟨hlaunchr.1, hlaunchr.2.1⟩
  case reads =>
    have hrun := hlaunch.2.2 hp ha r s1 hr
    have hrunr := hlaunchr.2.2 hp ha r s1 hr
    have gave (v : Nat) : ∃ ls', leaseOf (sharedDone s1 l xd v) l = some ls' ∧
        (xd ≠ 0 → xget ls'.seq xd = BitVec.ofNat 64 v) ∧ ls'.seq.pc = ls.seq.pc + 4 :=
      have ⟨ls', h1, h2, h3⟩ := gave_sharedDone (ls := ls) hl1 hpc xd v
      ⟨ls', h1, fun hx => (h2 hx).1, h3⟩
    refine ⟨fun hq => ?quota, fun hq hc => ?numbers, fun c hq hc => ⟨_, hrun, launchWith_queues hl1 hpc (fromRes := false) (.inr hq) hc (fun hf => absurd hf Bool.false_ne_true) xd⟩,
      fun c hc hlt => ?reserve, fun c hc hle hlt => ?waits, fun c hc hle hle2 =>
        ⟨_, hrunr, launchWith_queues hl1 hpc (fromRes := true) (.inl rfl) hc (fun _ => ⟨hle, hle2⟩) xd⟩⟩
    case quota =>
      rw [launchWith, if_pos (by simpa using hq)] at hrun
      exact ⟨_, hrun, gave _⟩
    case numbers =>
      rw [launchWith, if_neg (by simpa using hq), hc] at hrun
      exact ⟨_, hrun, gave _⟩
    all_goals
      rw [launchWith, if_neg (by simp), hc] at hrunr
      dsimp only at hrunr
    case reserve => rwa [if_pos (by simpa using hlt)] at hrunr
    case waits => rwa [if_neg (by simpa using hle), if_pos (by simpa using hlt)] at hrunr
  case poisoned =>
    rw [hjoin]
    exact congrArg _ (if_pos hp)
  case join =>
    dsimp only at hjoin
    rw [if_neg (by simp [hp])] at hjoin
    refine ⟨fun hn => ?_, fun c hc he => ?_, fun c st hc he => ?_⟩
    · rwa [hn] at hjoin
    · rw [hc] at hjoin
      dsimp only at hjoin
      rwa [he] at hjoin
    · rw [hc] at hjoin
      dsimp only at hjoin
      rw [he] at hjoin
      dsimp only at hjoin
      have hl' := leaseOf_updLease (fun a => { a with children := mdel a.children ((xget ls.seq xa).toNat % 2 ^ 8) }) hl
      obtain ⟨ls', h1, h2, h3⟩ := gave_sharedDone (ls := ls) hl' rfl xd st
      exact ⟨_, hjoin, ⟨ls', h1, fun hx => (h2 hx).1, h3⟩, _, leaseOf_sharedDone hl' xd st, mfind_mdel_self _ _⟩

end Sys2Proof.Claims
end

section
/-! SUPPORT. Words that act on each element, and words that give a token (R144, R145, R191, R302 to R308). -/

namespace Sys2Proof.Claims

open Sys2Proof Sys2Proof.Machine

/-! ### Integers of the element types -/

theorem intOf_tyI (ty : ETy) (v : Nat) : intOf (tyI ty) v = num ty v := by cases ty <;> rfl

theorem intBits_tyI (ty : ETy) (v : Int) : intBits (tyI ty) v = enc ty v := rfl

theorem satInt_tyI (ty : ETy) (v : Int) : satInt (tyI ty) v = clamp ty v := by cases ty <;> rfl

/-- An integer result is the exact value, clamped or wrapped (R192, R302). -/
theorem intRes_eq (ty : ETy) (sat : Bool) (v : Int) : intRes ty sat v = (enc ty (if sat then clamp ty v else v), 0) := by
  rw [intRes, satInt_tyI, intBits_tyI]

theorem elementwise_congr {i : Instr} {ty : ETy} {tag : BitVec 3} {d : Dst} {srcs : List Src} {m : Msk} {g g' : List Nat → Nat × Flg}
    (hi : ∀ s, exec i s = elemOp ty tag d srcs m g s) (hg : ∀ l, g l = g' l) : Elementwise i ty tag d srcs m g' :=
  (funext hg : g = g') ▸ elementwise_of hi

theorem intBin_elementwise {i : Instr} {ty : ETy} {d : Dst} {a b : Src} {m : Msk} {sat : Bool} {v : Int → Int → Int}
    (hi : ∀ s, exec i s = intBin ty d a b m sat v s) : Elementwise i ty 0 d [a, b] m fun l =>
      (enc ty (if sat then clamp ty (v (num ty (l.getD 0 0)) (num ty (l.getD 1 0))) else v (num ty (l.getD 0 0)) (num ty (l.getD 1 0))), 0) :=
  elementwise_congr hi fun l => by rw [intRes_eq, intOf_tyI, intOf_tyI]; rfl

theorem intBin_elementwise_exact {i : Instr} {ty : ETy} {d : Dst} {a b : Src} {m : Msk} (v : Int → Int → Int)
    (hi : ∀ s, exec i s = intBin ty d a b m false v s) : Elementwise i ty 0 d [a, b] m fun l =>
      (enc ty (v (num ty (l.getD 0 0)) (num ty (l.getD 1 0))), 0) := intBin_elementwise hi

theorem intUn_elementwise {i : Instr} {ty : ETy} {d : Dst} {a : Src} {m : Msk} {v : Int → Int}
    (hi : ∀ s, exec i s = intUn ty d a m v s) : Elementwise i ty 0 d [a] m fun l => (enc ty (v (num ty (l.getD 0 0))), 0) :=
  elementwise_congr hi fun l => by rw [intRes_eq, intOf_tyI]; rfl

/-- Settles O22: every word is an elementwise one, of the exact value that the rule names. -/
theorem integerLanes : Obligations.integer_lanes := by
  intro ty d v a b m sat
  refine ⟨intBin_elementwise fun _ => rfl, intBin_elementwise fun _ => rfl, intBin_elementwise fun _ => rfl, ?mulh,
    intBin_elementwise_exact min fun _ => rfl, intBin_elementwise_exact max fun _ => rfl, ?abs,
    intUn_elementwise fun _ => rfl, ?mac⟩
  case mulh =>
    have h := intBin_elementwise_exact (i := .vmulh ty d a b m) (fun x y => Int.fdiv (x * y) (2 ^ tyW ty)) fun _ => rfl
    have hdiv (z : Int) : Int.fdiv z (2 ^ tyW ty) = z / 2 ^ tyW ty := Int.fdiv_eq_ediv_of_nonneg _ (by positivity)
    simpa only [hdiv] using h
  case abs =>
    have h : Elementwise (.vabs ty d a m) ty 0 d [a] m fun l => (enc ty ((num ty (l.getD 0 0)).natAbs : Int), 0) :=
      intUn_elementwise (v := fun x => (x.natAbs : Int)) fun _ => rfl
    simpa only [Int.natCast_natAbs] using h
  case mac =>
    refine elementwise_congr (fun s => show exec (.vmac ty v a b m) s = execVmac ty v a b m s from rfl) fun l => ?_
    rw [intRes_eq, intOf_tyI, intOf_tyI, intOf_tyI]
    rfl

/-! ### Tokens of lane words -/

theorem laneAt_mergeLanes (m : LaneMask) (old : Tok) (data : Payload) (pois : LaneMask) (tag : BitVec 3) (aux : BitVec 8) {j : Nat}
    (hj : j < 24) : laneAt (mergeLanes m old data pois tag aux).data j = if m.getLsbD j then laneAt data j else laneAt old.data j := by
  have hlane (x : Payload) : laneAt x j % 2 ^ 32 = laneAt x j := by simp [laneAt, elemAt, bits_eq]
  rw [laneAt, mergeLanes, elemAt_ofElems (by simpa using hj) (by omega), List.getElem_map, List.getElem_range]
  split <;> exact hlane _

@[simp] theorem tag_mergeLanes (m : LaneMask) (old : Tok) (data : Payload) (pois : LaneMask) (tag : BitVec 3) (aux : BitVec 8) :
    (mergeLanes m old data pois tag aux).tag = tag := rfl

@[simp] theorem aux_mergeLanes (m : LaneMask) (old : Tok) (data : Payload) (pois : LaneMask) (tag : BitVec 3) (aux : BitVec 8) :
    (mergeLanes m old data pois tag aux).aux = aux := rfl

theorem pois_mergeLanes (m : LaneMask) (old : Tok) (data : Payload) (pois : LaneMask) (tag : BitVec 3) (aux : BitVec 8) {j : Nat}
    (hj : j < 24) : (mergeLanes m old data pois tag aux).pois.getLsbD j = if m.getLsbD j then pois.getLsbD j else old.pois.getLsbD j := by
  simp only [mergeLanes, BitVec.getLsbD_or, BitVec.getLsbD_and, BitVec.getLsbD_not, hj]
  cases m.getLsbD j <;> simp

section
variable {i : Instr} {ty : ETy} {d : Dst} {srcs : List Src} {m : Msk} {whole : Bool}
  {f : Tile → Ctx → Firing → LaneMask → Tok → List Tok → Except Nat (EOut × (Ctx → Ctx))} {s : State} {l t k : Nat} {ls : Lease}
  {x : Tile} {fi : Firing} {ts : List Tok}

/-- A lane word whose operation succeeds writes its destination and adds its flags (R298, R300). -/
theorem laneOp_gives (hi : exec i s = laneOp ty d srcs m whole f s) (h : LaneReady s l t k ls x fi ty d srcs ts) {o : EOut}
    (hf : f x (ctxOf x k) fi (activeOf (ctxOf x k) m) (dstOld (ctxOf x k) d) ts = .ok (o, id)) :
    Gives i s fun s' => ElemResult s s' l t k ls x fi d
      (mergeLanes (if whole then allLanes else activeOf (ctxOf x k) m) (dstOld (ctxOf x k) d) o.data o.pois o.tag o.aux) o.fl := by
  obtain ⟨ht, hp, hr, hs⟩ := h
  have hrun : laneOp ty d srcs m whole f s = _ := onElem_run ht _
  rw [hp, hs] at hrun
  dsimp only at hrun
  rw [if_neg (by simp), hr, if_neg (by simp), hf] at hrun
  exact ⟨_, hi.trans hrun, elemResult_of ht⟩

/-- One whose operation finds a cause faults with it (R299). -/
theorem laneOp_faults (hi : exec i s = laneOp ty d srcs m whole f s) (h : LaneReady s l t k ls x fi ty d srcs ts) {cause : Nat}
    (hf : f x (ctxOf x k) fi (activeOf (ctxOf x k) m) (dstOld (ctxOf x k) d) ts = .error cause) :
    exec i s = .next (wordFault s l t k ls x (ctxOf x k) fi cause 0) := by
  obtain ⟨ht, hp, hr, hs⟩ := h
  have hrun : laneOp ty d srcs m whole f s = _ := onElem_run ht _
  rw [hp, hs] at hrun
  dsimp only at hrun
  rw [if_neg (by simp), hr, if_neg (by simp), hf] at hrun
  exact hi.trans hrun

end

/-- A word that writes the active lanes of the token that `f` gives (R145, R298). -/
theorem wholeToken_of {i : Instr} {ty : ETy} {d : Dst} {srcs : List Src} {m : Msk}
    {f : Tile → Ctx → Firing → LaneMask → Tok → List Tok → Except Nat (EOut × (Ctx → Ctx))}
    {P : Tile → Firing → LaneMask → List Tok → Tok → Flg → Prop} (hi : ∀ s, exec i s = laneOp ty d srcs m false f s)
    (hf : ∀ x c fi on old ts, ∃ (r : Tok) (fl : Flg), f x c fi on old ts = .ok (⟨r.data, r.pois, r.tag, r.aux, fl⟩, id) ∧
      P x fi on ts r fl) : WholeToken i ty d srcs m P := by
  intro s l t k ls x fi ts h
  obtain ⟨r, fl, ho, hP⟩ := hf x (ctxOf x k) fi (activeOf (ctxOf x k) m) (dstOld (ctxOf x k) d) ts
  obtain ⟨s', hs', hres⟩ := laneOp_gives (hi s) h ho
  rw [if_neg Bool.false_ne_true] at hres
  exact ⟨s', hs', _, r, _, hres, hP, tag_mergeLanes _ _ _ _ _ _, aux_mergeLanes _ _ _ _ _ _,
    fun j hj => ⟨laneAt_mergeLanes _ _ _ _ _ _ hj, pois_mergeLanes _ _ _ _ _ _ hj⟩⟩

/-! ### Bits of elements -/

theorem length_filter_testBit (w x : Nat) : ((List.range w).filter fun i => x.testBit i).length =
    ((List.range w).map fun i => (x.testBit i).toNat).sum := by
  generalize List.range w = is
  induction is with
  | nil => rfl
  | cons i is ih => cases h : x.testBit i <;> simp [h, ih, Nat.add_comm]

theorem sub_bitLen (w x : Nat) : w - bitLen x = if x = 0 then w else w - 1 - Nat.log2 x := by
  unfold bitLen
  split
  · rfl
  · omega

/-- A token without its incarnation, as a lane word gives it. -/
theorem elemAt_lt (w : Nat) (x : Payload) (e : Nat) : elemAt w x e % 2 ^ w = elemAt w x e := by simp [elemAt, bits_eq]

theorem width_fits (ty : ETy) {e : Nat} (he : e < tyN ty) : tyW ty * (e + 1) ≤ 768 := by
  have h := Nat.mul_le_mul_left (tyW ty) (Nat.succ_le_of_lt he)
  exact h.trans (Nat.mul_div_le 768 (tyW ty))

theorem vli_value (ty : ETy) (imm : BitVec 16) : vliElem ty imm % 2 ^ tyW ty = match ty with
    | .i32 => (imm.signExtend 32).toNat | .i64 => (imm.signExtend 64).toNat | .f32 => imm.toNat * 2 ^ 16
    | .i8 => imm.toNat % 2 ^ 8 | .u32 => imm.toNat | .i16 => imm.toNat | .bf16 => imm.toNat | .f16 => imm.toNat := by
  have h := imm.isLt
  have h32 := (imm.signExtend 32).isLt
  have h64 := (imm.signExtend 64).isLt
  cases ty <;> simp only [vliElem, tyW] <;> omega

/-- Settles O23: the elementwise words by their functions, the moves by the tokens that they give. -/
theorem bitAndMoveLanes : Obligations.bit_and_move_lanes := by
  refine ⟨fun ty d a b m c => ?bits, fun ty d v a b m imm => ⟨?mov, ?imm, ?sel⟩⟩
  case bits =>
    refine ⟨elementwise_of fun _ => rfl, elementwise_of fun _ => rfl, elementwise_of fun _ => rfl, elementwise_of fun _ => rfl,
      elementwise_of fun _ => rfl, elementwise_of fun _ => rfl, ?sha, ?popc, ?clz,
      fun l => ones ty (cmpInt c (num ty (l.getD 0 0)) (num ty (l.getD 1 0))), ?cmp, fun l => ?holds⟩
    case sha =>
      refine elementwise_congr (fun s => show exec (.vsha ty d a b m) s = execVsha ty d a b m s from rfl) fun l => ?_
      rw [Int.fdiv_eq_ediv_of_nonneg _ (by positivity)]
      rfl
    case popc =>
      refine elementwise_congr (fun s => show exec (.vpopc ty d a m) s = execVpopc ty d a m s from rfl) fun l => ?_
      rw [length_filter_testBit]
      rfl
    case clz =>
      refine elementwise_congr (fun s => show exec (.vclz ty d a m) s = execVclz ty d a m s from rfl) fun l => ?_
      rw [sub_bitLen]
      rfl
    case cmp =>
      refine elementwise_congr (fun s => show exec (.vcmp ty d a b m c) s = execVcmp ty d a b m c s from rfl) fun l => ?_
      rw [intOf_tyI, intOf_tyI]
      rfl
    case holds =>
      have hones : ∀ p : Prop, [Decidable p] → (p → ones ty (decide p) = 2 ^ tyW ty - 1) ∧ (¬ p → ones ty (decide p) = 0) := fun p _ =>
        ⟨fun hp => by rw [decide_eq_true hp]; rfl, fun hp => by rw [decide_eq_false hp]; rfl⟩
      cases c with
      | un => exact ⟨False.elim, fun _ => rfl⟩
      | _ => exact hones _
  case mov => exact wholeToken_of (fun _ => rfl) fun x c fi on old ts => ⟨ts.getD 0 Tok.zero, 0, rfl, rfl, rfl⟩
  case imm =>
    refine wholeToken_of (fun _ => rfl) fun x c fi on old ts =>
      ⟨⟨ofElems (tyW ty) (List.replicate (tyN ty) (vliElem ty imm)), 0, tyTag ty, 0, 0⟩, 0, rfl, rfl, rfl, rfl, rfl, fun e he => ?_⟩
    rw [elemAt_ofElems (by simpa using he) (width_fits ty he), List.getElem_replicate]
    exact vli_value ty imm
  case sel =>
    intro s l t k ls x fi p y z h
    have hrun : exec (.vsel ty v a b m) s = execVsel ty v a b m s := rfl
    obtain ⟨s', hs', hres⟩ := laneOp_gives hrun h rfl
    rw [if_pos rfl, mergeLanes_allLanes] at hres
    refine ⟨s', hs', _, hres, rfl, fun e he => ?_⟩
    rw [elemAt_ofElems (by simpa using he) (width_fits ty he), List.getElem_map, List.getElem_range, elemAt_lt]
    by_cases hon : elemOn (tyW ty) (activeOf (ctxOf x k) m) e = true
    · rw [if_pos hon, if_pos hon]
      by_cases hz : elemAt (tyW ty) p.data e = 0
      · rw [if_pos hz]
        exact congrArg (fun u : Tok => elemAt (tyW ty) u.data e) (if_neg (not_not_intro hz))
      · rw [if_neg hz]
        exact congrArg (fun u : Tok => elemAt (tyW ty) u.data e) (if_pos hz)
    · rw [if_neg hon, if_neg hon]

/-! ### Floating-point words -/

theorem fpOp_elementwise {i : Instr} {ty : ETy} {f : FFmt} {d : Dst} {srcs : List Src} {m : Msk} {g : FFmt → List Nat → Nat × Flg}
    (hf : tyF ty = some f) (hi : ∀ s, exec i s = fpOp ty d srcs m g s) : Elementwise i ty (tyTag ty) d srcs m (g f) :=
  elementwise_congr hi fun l => by rw [hf]

/-- Settles O24: each word acts in the format of its type. -/
theorem floatLanes : Obligations.float_lanes := by
  intro ty f d v a b m c hf
  refine ⟨fpOp_elementwise (g := fun f l => fAdd f (arg l 0) (arg l 1)) hf fun _ => rfl,
    fpOp_elementwise (g := fun f l => fSub f (arg l 0) (arg l 1)) hf fun _ => rfl,
    fpOp_elementwise (g := fun f l => fMul f (arg l 0) (arg l 1)) hf fun _ => rfl,
    fpOp_elementwise (g := fun f l => fDiv f (arg l 0) (arg l 1)) hf fun _ => rfl,
    fpOp_elementwise (g := fun f l => fFma f (arg l 1) (arg l 2) (arg l 0)) hf fun _ => rfl,
    fpOp_elementwise (g := fun f l => fFms f (arg l 1) (arg l 2) (arg l 0)) hf fun _ => rfl,
    fpOp_elementwise (g := fun f l => fMinMax f false (arg l 0) (arg l 1)) hf fun _ => rfl,
    fpOp_elementwise (g := fun f l => fMinMax f true (arg l 0) (arg l 1)) hf fun _ => rfl,
    fpOp_elementwise (g := fun f l => fAbs f (arg l 0)) hf fun _ => rfl,
    fpOp_elementwise (g := fun f l => fNeg f (arg l 0)) hf fun _ => rfl,
    fpOp_elementwise (g := fun f l => fSqrt f (arg l 0)) hf fun _ => rfl,
    fpOp_elementwise (g := fun f l => fRsq f (arg l 0)) hf fun _ => rfl,
    fpOp_elementwise (g := fun f l => fEx2 f (arg l 0)) hf fun _ => rfl,
    fpOp_elementwise (g := fun f l => fLg2 f (arg l 0)) hf fun _ => rfl, ?fcmp, ?fcls⟩
  case fcmp =>
    refine elementwise_congr (fun s => show exec (.fcmp ty d a b m c) s = execFcmp ty d a b m c s from rfl) fun l => ?_
    rw [hf]
    rfl
  case fcls =>
    refine elementwise_congr (fun s => show exec (.fcls ty d a m) s = execFcls ty d a m s from rfl) fun l => ?_
    rw [hf]
    rfl

end Sys2Proof.Claims
end

section
/-! SUPPORT. Reductions and permutes (R211, R212, R312, R313, R315): the pairwise tree, the greatest and least elements, lanes moved one
by one. -/

namespace Sys2Proof.Claims

open Sys2Proof Sys2Proof.Machine

/-! ### The pairwise tree of R211 -/

section
variable (add : Nat → Nat → Nat × Flg)

/-- One node: an absent leaf adds nothing and raises nothing. -/
def treeNode : Option Nat → Option Nat → Option Nat × Flg
  | none, y => (y, 0)
  | x, none => (x, 0)
  | some a, some b => (some (add a b).1, (add a b).2)

theorem sumLevel_single (x : Option Nat) : sumLevel add [x] = ([x], 0) := by rw [sumLevel]

theorem sumLevel_cons₂ (x y : Option Nat) (r : List (Option Nat)) : sumLevel add (x :: y :: r) =
    ((treeNode add x y).1 :: (sumLevel add r).1, (treeNode add x y).2 ||| (sumLevel add r).2) := by
  cases x <;> cases y <;> rfl

theorem pairTree_succ (n : Nat) (l : List (Option Nat)) : pairTree add (n + 1) l =
    let x := pairTree add n (l.take (2 ^ n))
    let y := pairTree add n (l.drop (2 ^ n))
    ((treeNode add x.1 y.1).1, (treeNode add x.1 y.1).2 ||| x.2 ||| y.2) := by
  rw [pairTree]
  dsimp only
  generalize pairTree add n (l.take (2 ^ n)) = x
  generalize pairTree add n (l.drop (2 ^ n)) = y
  obtain ⟨x, fx⟩ := x
  obtain ⟨y, fy⟩ := y
  cases x <;> cases y <;> simp [treeNode]

/-- A level taken in two parts, the first with an even number of places. -/
theorem sumLevel_split (k : Nat) (l : List (Option Nat)) :
    (sumLevel add (l.take (2 * k))).1 = (sumLevel add l).1.take k ∧ (sumLevel add (l.drop (2 * k))).1 = (sumLevel add l).1.drop k ∧
      (sumLevel add l).2 = (sumLevel add (l.take (2 * k))).2 ||| (sumLevel add (l.drop (2 * k))).2 := by
  induction k generalizing l with
  | zero => simp [sumLevel]
  | succ k ih =>
    match l with
    | [] => simp [sumLevel]
    | [x] => simp [sumLevel, Nat.mul_succ]
    | x :: y :: r =>
      obtain ⟨h1, h2, h3⟩ := ih r
      rw [Nat.mul_succ, List.take_succ_cons, List.take_succ_cons, List.drop_succ_cons, List.drop_succ_cons, sumLevel_cons₂,
        sumLevel_cons₂, h1, h2]
      refine ⟨rfl, rfl, ?_⟩
      rw [h3, ← BitVec.or_assoc]

theorem sumLevel_length (l : List (Option Nat)) : (sumLevel add l).1.length = (l.length + 1) / 2 := by
  match l with
  | [] => rfl
  | [x] => simp [sumLevel_single]
  | x :: y :: r =>
    rw [sumLevel_cons₂, List.length_cons, sumLevel_length r, List.length_cons, List.length_cons]
    omega

/-- The tree of one more level is the tree over the level's nodes. -/
theorem pairTree_level (n : Nat) (l : List (Option Nat)) : (pairTree add (n + 1) l).1 = (pairTree add n (sumLevel add l).1).1 := by
  induction n generalizing l with
  | zero =>
    match l with
    | [] => rfl
    | [x] => rw [pairTree_succ, sumLevel_single]; cases x <;> rfl
    | x :: y :: r => rw [pairTree_succ, sumLevel_cons₂]; rfl
  | succ n ih =>
    obtain ⟨h1, h2, -⟩ := sumLevel_split add (2 ^ n) l
    rw [pairTree_succ add (n + 1), pairTree_succ add n (sumLevel add l).1]
    dsimp only
    rw [Nat.pow_succ', ih, ih, h1, h2]

/-- Its flags are those of the level and of the tree over it, where no place is left out. -/
theorem pairTree_level_flags (n : Nat) {l : List (Option Nat)} (hl : l.length ≤ 2 ^ (n + 1)) :
    (pairTree add (n + 1) l).2 = (sumLevel add l).2 ||| (pairTree add n (sumLevel add l).1).2 := by
  induction n generalizing l with
  | zero =>
    match l, hl with
    | [], _ => rfl
    | [x], _ =>
      rw [pairTree_succ, sumLevel_single, Nat.pow_zero, List.take_succ_cons]
      cases x <;> simp [pairTree, treeNode]
    | [x, y], _ =>
      rw [pairTree_succ, sumLevel_cons₂, Nat.pow_zero, List.take_succ_cons]
      simp [pairTree, sumLevel]
  | succ n ih =>
    obtain ⟨h1, h2, h3⟩ := sumLevel_split add (2 ^ n) l
    have ht : (l.take (2 * 2 ^ n)).length ≤ 2 ^ (n + 1) := by rw [List.length_take, Nat.pow_succ']; exact min_le_left _ _
    have hd : (l.drop (2 * 2 ^ n)).length ≤ 2 ^ (n + 1) := by
      rw [List.length_drop]
      have : 2 ^ (n + 1 + 1) = 2 ^ (n + 1) + 2 * 2 ^ n := by rw [Nat.pow_succ' (n := n + 1), Nat.pow_succ' (n := n)]; ring
      omega
    rw [pairTree_succ add (n + 1), pairTree_succ add n (sumLevel add l).1]
    dsimp only
    rw [Nat.pow_succ', pairTree_level, pairTree_level, ih ht, ih hd, h1, h2, h3]
    ac_rfl

theorem pairTree_singleton (n : Nat) (x : Option Nat) : pairTree add n [x] = (x, 0) := by
  have hnil : ∀ n, pairTree add n [] = (none, 0) := by
    intro n
    induction n with
    | zero => rfl
    | succ n ih => rw [pairTree_succ, List.take_nil, List.drop_nil, ih]; simp [treeNode]
  induction n with
  | zero => rfl
  | succ n ih =>
    rw [pairTree_succ, List.take_of_length_le (by simpa using Nat.one_le_two_pow),
      List.drop_of_length_le (by simpa using Nat.one_le_two_pow), ih, hnil]
    cases x <;> simp [treeNode]

/-- The model's tree, value by value. -/
theorem sumTree_fst (n : Nat) (l : List (Option Nat)) : (sumTree add n l).1 = (pairTree add n l).1 := by
  induction n generalizing l with
  | zero => rfl
  | succ n ih =>
    match l with
    | [] => rw [pairTree_level, ← ih]; rfl
    | [x] => rw [pairTree_singleton]; rfl
    | x :: y :: r => rw [pairTree_level, ← ih]; rfl

theorem sumTree_snd (n : Nat) {l : List (Option Nat)} (hl : l.length ≤ 2 ^ n) : (sumTree add n l).2 = (pairTree add n l).2 := by
  induction n generalizing l with
  | zero => rfl
  | succ n ih =>
    match l, hl with
    | [], _ =>
      rw [pairTree_level_flags add n (by simp), ← ih (by simp [sumLevel])]
      rfl
    | [x], _ => rw [pairTree_singleton]; rfl
    | x :: y :: r, hl =>
      rw [pairTree_level_flags add n hl, ← ih]
      · rfl
      · rw [sumLevel_length]
        rw [Nat.pow_succ'] at hl
        omega

/-! Without flags at the nodes there are none. -/

theorem treeNode_flags_zero (h : ∀ a b, (add a b).2 = 0) (x y : Option Nat) : (treeNode add x y).2 = 0 := by
  match x, y with
  | none, _ => rfl
  | some _, none => rfl
  | some a, some b => exact h a b

theorem sumLevel_flags_zero (h : ∀ a b, (add a b).2 = 0) (l : List (Option Nat)) : (sumLevel add l).2 = 0 := by
  match l with
  | [] => rfl
  | [x] => rw [sumLevel_single]
  | x :: y :: r => rw [sumLevel_cons₂, treeNode_flags_zero add h, sumLevel_flags_zero h r, BitVec.or_self]

theorem sumTree_flags_zero (h : ∀ a b, (add a b).2 = 0) (n : Nat) (l : List (Option Nat)) : (sumTree add n l).2 = 0 := by
  induction n generalizing l with
  | zero => rfl
  | succ n ih =>
    have hstep : ((sumLevel add l).2 ||| (sumTree add n (sumLevel add l).1).2) = 0 := by
      rw [sumLevel_flags_zero add h, ih, BitVec.or_self]
    match l with
    | [] => exact hstep
    | [x] => rfl
    | x :: y :: r => exact hstep

theorem pairTree_flags_zero (h : ∀ a b, (add a b).2 = 0) (n : Nat) (l : List (Option Nat)) : (pairTree add n l).2 = 0 := by
  induction n generalizing l with
  | zero => rfl
  | succ n ih =>
    rw [pairTree_succ]
    dsimp only
    rw [treeNode_flags_zero add h, ih, ih, BitVec.or_self, BitVec.or_self]

end

/-! ### Reductions -/

/-- The leaves of a reduction: the elements of active lanes (R312). -/
def leavesOf (ty : ETy) (on : LaneMask) (u : Tok) : List (Option Nat) :=
  (List.range (tyN ty)).map fun e => if elemOn (tyW ty) on e then some (elemAt (tyW ty) u.data e) else none

/-- A reduction fills the active lanes with the element that `f` gives for the leaves (R312). -/
theorem reduceOp_fills {i : Instr} {ty : ETy} {d : Dst} {a : Src} {m : Msk} {f : List (Option Nat) → Nat × Flg}
    {P : List (Option Nat) → Nat → Flg → Prop} (hi : ∀ s, exec i s = reduceOp ty d a m f s)
    (hP : ∀ q, q.length = tyN ty → P q (f q).1 (f q).2) :
    WholeToken i ty d [a] m fun _ _ on ts r fl =>
      ∃ v fv, P (leavesOf ty on (ts.getD 0 Tok.zero)) v fv ∧ r.tag = tyTag ty ∧ r.aux = 0 ∧
        (∀ e, e < tyN ty → elemAt (tyW ty) r.data e = v % 2 ^ tyW ty) ∧
        (if ((ts.getD 0 Tok.zero).pois &&& on) = 0 then r.pois = 0 ∧ fl = fv else r.pois = allLanes ∧ fl = 0) := by
  refine wholeToken_of hi fun x c fi on old ts => ?_
  let q := leavesOf ty on (ts.getD 0 Tok.zero)
  let pz : Bool := ((ts.getD 0 Tok.zero).pois &&& on) != 0
  refine ⟨⟨ofElems (tyW ty) (List.replicate (tyN ty) (f q).1), if pz then allLanes else 0, tyTag ty, 0, 0⟩,
    if pz then 0 else (f q).2, rfl, (f q).1, (f q).2, hP q (by simp [q, leavesOf]), rfl, rfl, fun e he => ?_, ?_⟩
  · rw [elemAt_ofElems (by simpa using he) (width_fits ty he), List.getElem_replicate]
  · by_cases hz : ((ts.getD 0 Tok.zero).pois &&& on) = 0
    · rw [if_pos hz]
      have hpz : pz = false := by simpa [pz] using hz
      rw [hpz]
      exact ⟨rfl, rfl⟩
    · rw [if_neg hz]
      have hpz : pz = true := by simpa [pz] using hz
      rw [hpz]
      exact ⟨rfl, rfl⟩

/-- Is a value a NaN, and is it a signalling one (R194)? -/
def isNan (v : FV) : Bool := match v with | .nan _ => true | _ => false
def isSignalling (v : FV) : Bool := match v with | .nan true => true | _ => false

/-- The NaNs of a type. -/
def nanOf (ty : ETy) (v : Nat) : Bool :=
  match tyF ty with
  | some f => isNan (decF f v)
  | none => false

theorem anyNan_single (v : FV) : anyNan [v] = isNan v := by cases v <;> rfl

theorem sigFlag_map (f : FFmt) (vs : List Nat) :
    sigFlag (vs.map (decF f)) = if vs.any (fun v => isSignalling (decF f v)) then fNV else 0 := by
  have h : ∀ v : FV, (v == .nan true) = isSignalling v := by
    intro v
    match v with
    | .nan true => rfl
    | .nan false => rfl
    | .inf _ => rfl
    | .fin .. => rfl
  simp [sigFlag, flagIf, List.any_map, h, Function.comp_def]

theorem floatWidth (ty : ETy) {f : FFmt} (h : tyF ty = some f) : tyN ty ≤ 2 ^ 6 := by
  cases ty with
  | f32 | bf16 | f16 => decide
  | _ => exact nomatch h

/-- The elements that are there, of which a reduction takes the signalling NaNs (R194). -/
def signallingOf (ty : ETy) (q : List (Option Nat)) : Flg :=
  match tyF ty with
  | some f => if (q.filterMap id).any (fun v => isSignalling (decF f v)) then fNV else 0
  | none => 0

/-- The sum of two elements of a type. -/
def sumOf (ty : ETy) (p q : Nat) : Nat × Flg :=
  match tyF ty with
  | some f => fAdd f p q
  | none => ((p + q) % 2 ^ tyW ty, 0)

/-- What RSUM gives for its leaves (R211, R312). -/
theorem rsum_value (ty : ETy) {q : List (Option Nat)} (hq : q.length = tyN ty) :
    let r : Nat × Flg := match tyF ty with
      | some f => (canonNan f ((sumTree (sumOf ty) 6 q).1.getD 0), (sumTree (sumOf ty) 6 q).2 ||| sigFlag ((q.filterMap id).map (decF f)))
      | none => ((sumTree (sumOf ty) 6 q).1.getD 0, (sumTree (sumOf ty) 6 q).2)
    r.2 = (pairTree (sumOf ty) 6 q).2 ||| signallingOf ty q ∧
      r.1 = match tyF ty with
        | some f => if nanOf ty ((pairTree (sumOf ty) 6 q).1.getD 0) then f.nan else (pairTree (sumOf ty) 6 q).1.getD 0
        | none => (pairTree (sumOf ty) 6 q).1.getD 0 := by
  rw [sumTree_fst]
  unfold signallingOf nanOf
  cases hf : tyF ty with
  | none =>
    have hz : ∀ a b, (sumOf ty a b).2 = 0 := fun a b => by rw [sumOf, hf]
    exact ⟨by simp [sumTree_flags_zero _ hz, pairTree_flags_zero _ hz], rfl⟩
  | some f =>
    dsimp only
    rw [sumTree_snd _ 6 (hq ▸ floatWidth ty hf), sigFlag_map, canonNan, anyNan_single]
    exact ⟨rfl, rfl⟩

/-! ### The greatest and the least element -/

/-- The element that a fold keeps is one of the list, and its key is at no other's side. -/
theorem foldl_best (key : Nat → Int) (r : List Nat) (v : Nat) :
    let b := r.foldl (fun b x => if decide (key b < key x) then x else b) v
    b ∈ v :: r ∧ ∀ u ∈ v :: r, key u ≤ key b := by
  induction r generalizing v with
  | nil => exact ⟨List.mem_singleton_self v, fun u hu => by rw [List.mem_singleton.mp hu]; rfl⟩
  | cons x r ih =>
    obtain ⟨hmem, hle⟩ := ih (if decide (key v < key x) then x else v)
    dsimp only at hmem hle ⊢
    rw [List.foldl_cons]
    have hv : key v ≤ key (if decide (key v < key x) then x else v) ∧ key x ≤ key (if decide (key v < key x) then x else v) := by
      split
      · next h => exact ⟨(by simpa using h : key v < key x).le, le_refl _⟩
      · next h => exact ⟨le_refl _, by simpa using h⟩
    have hbest := hle _ (List.mem_cons_self ..)
    refine ⟨?_, fun u hu => ?_⟩
    · rcases List.mem_cons.mp hmem with h | h
      · rw [h]
        split
        · exact List.mem_cons_of_mem _ (List.mem_cons_self ..)
        · exact List.mem_cons_self ..
      · exact List.mem_cons_of_mem _ (List.mem_cons_of_mem _ h)
    · rcases List.mem_cons.mp hu with rfl | hu
      · exact hv.1.trans hbest
      · rcases List.mem_cons.mp hu with rfl | hu
        · exact hv.2.trans hbest
        · exact hle u (List.mem_cons_of_mem _ hu)

theorem mem_filterMap_id {q : List (Option Nat)} {u : Nat} : u ∈ q.filterMap id ↔ some u ∈ q := by simp

/-- RMAX and RMIN of an integer type (R212). -/
theorem extreme_int {ty : ETy} (hf : tyF ty = none) (big : Bool) (q : List (Option Nat)) :
    (extreme ty big q).2 = 0 ∧
    ((∀ u ∈ q, u = none) → num ty (extreme ty big q).1 = if big then (if ty = .u32 then 0 else -(2 ^ (tyW ty - 1)))
      else (if ty = .u32 then 2 ^ 32 - 1 else 2 ^ (tyW ty - 1) - 1)) ∧
    ((∃ u ∈ q, u ≠ none) → some (extreme ty big q).1 ∈ q ∧
      ∀ u, some u ∈ q → if big then num ty u ≤ num ty (extreme ty big q).1 else num ty (extreme ty big q).1 ≤ num ty u) := by
  unfold extreme
  rw [hf]
  dsimp only
  cases hvs : q.filterMap id with
  | nil =>
    refine ⟨rfl, fun _ => ?_, fun ⟨u, hu, hne⟩ => ?_⟩
    · cases ty with
      | f32 | bf16 | f16 => exact nomatch hf
      | _ => cases big <;> decide +kernel
    · obtain ⟨v, rfl⟩ := Option.ne_none_iff_exists'.mp hne
      exact absurd (mem_filterMap_id.mpr hu) (by rw [hvs]; exact List.not_mem_nil)
  | cons v r =>
    refine ⟨rfl, fun hnone => ?_, fun _ => ?_⟩
    · have hv : some v ∈ q := mem_filterMap_id.mp (by rw [hvs]; exact List.mem_cons_self ..)
      exact nomatch hnone _ hv
    · have hbest := foldl_best (fun x => if big then num ty x else -num ty x) r v
      have hfold : ∀ b x : Nat, (if (if big then decide (intOf (tyI ty) b < intOf (tyI ty) x)
          else decide (intOf (tyI ty) x < intOf (tyI ty) b)) then x else b) =
          if decide ((if big then num ty b else -num ty b) < (if big then num ty x else -num ty x)) then x else b := by
        intro b x
        rw [intOf_tyI, intOf_tyI]
        cases big <;> simp
      simp only [hfold]
      dsimp only at hbest
      rw [← hvs] at hbest
      refine ⟨mem_filterMap_id.mp hbest.1, fun u hu => ?_⟩
      have hu := hbest.2 u (mem_filterMap_id.mpr hu)
      cases big with
      | true => simpa using hu
      | false => simpa using hu

/-- RMAX and RMIN of a floating-point type (R194, R212). -/
theorem extreme_float {ty : ETy} {f : FFmt} (hf : tyF ty = some f) (big : Bool) (q : List (Option Nat)) :
    (extreme ty big q).2 = signallingOf ty q ∧
    ((∀ u, some u ∈ q → nanOf ty u = true) → (extreme ty big q).1 = f.nan) ∧
    ∀ u r, (q.filterMap id).filter (fun w => !nanOf ty w) = u :: r →
      (extreme ty big q).1 = r.foldl (fun b w => (fMinMax f big b w).1) u := by
  have hnan : ∀ v, anyNan [decF f v] = nanOf ty v := fun v => by rw [anyNan_single, nanOf, hf]
  unfold extreme signallingOf
  rw [hf]
  dsimp only
  rw [sigFlag_map]
  simp only [hnan]
  refine ⟨?_, fun hall => ?_, fun u r hur => by rw [hur]⟩
  · cases (q.filterMap id).filter fun w => !nanOf ty w <;> rfl
  · have hnil : (q.filterMap id).filter (fun w => !nanOf ty w) = [] := by
      refine List.filter_eq_nil_iff.mpr fun u hu => ?_
      simp [hall u (mem_filterMap_id.mp hu)]
    rw [hnil]

/-- What RSUM leaves, from its leaves (R211, R312). -/
def SumIs (ty : ETy) (q : List (Option Nat)) (v : Nat) (fv : Flg) : Prop :=
  fv = (pairTree (sumOf ty) 6 q).2 ||| signallingOf ty q ∧
    v = match tyF ty with
      | some f => if nanOf ty ((pairTree (sumOf ty) 6 q).1.getD 0) then f.nan else (pairTree (sumOf ty) 6 q).1.getD 0
      | none => (pairTree (sumOf ty) 6 q).1.getD 0

/-- What RMAX and RMIN leave (R194, R212). -/
def MostIs (ty : ETy) (big : Bool) (q : List (Option Nat)) (v : Nat) (fv : Flg) : Prop :=
  fv = signallingOf ty q ∧
    match tyF ty with
    | none =>
      ((∀ u ∈ q, u = none) → num ty v = if big then (if ty = .u32 then 0 else -(2 ^ (tyW ty - 1)))
        else (if ty = .u32 then 2 ^ 32 - 1 else 2 ^ (tyW ty - 1) - 1)) ∧
      ((∃ u ∈ q, u ≠ none) → some v ∈ q ∧ ∀ u, some u ∈ q → if big then num ty u ≤ num ty v else num ty v ≤ num ty u)
    | some f =>
      ((∀ u, some u ∈ q → nanOf ty u = true) → v = f.nan) ∧
      ∀ u r, (q.filterMap id).filter (fun w => !nanOf ty w) = u :: r → v = r.foldl (fun b w => (fMinMax f big b w).1) u

theorem extreme_is (ty : ETy) (big : Bool) (q : List (Option Nat)) :
    MostIs ty big q (extreme ty big q).1 (extreme ty big q).2 := by
  cases hf : tyF ty with
  | none =>
    obtain ⟨hfl, hv⟩ := extreme_int hf big q
    refine ⟨hfl.trans ?_, ?_⟩
    · rw [signallingOf, hf]
    · rw [hf]; exact hv
  | some f =>
    obtain ⟨hfl, hv⟩ := extreme_float hf big q
    refine ⟨hfl, ?_⟩
    rw [hf]; exact hv

/-! ### Lanes and elements of a payload -/

theorem testBit_elemAt (w : Nat) (x : Payload) (e i : Nat) : (elemAt w x e).testBit i = (decide (i < w) && x.getLsbD (w * e + i)) := by
  rw [elemAt, bits_eq, Nat.testBit_mod_two_pow, Nat.testBit_div_two_pow, Nat.add_comm, BitVec.testBit_toNat]

/-- Two payloads that agree on the bits of a lane agree on the lane. -/
theorem laneAt_congr {x y : Payload} {j : Nat} (h : ∀ b, b / 32 = j → x.getLsbD b = y.getLsbD b) : laneAt x j = laneAt y j := by
  refine Nat.eq_of_testBit_eq fun i => ?_
  rw [laneAt, laneAt, testBit_elemAt, testBit_elemAt]
  by_cases hi : i < 32
  · rw [h (32 * j + i) (by omega)]
  · simp [hi]

/-- A bit of packed elements is one of the element at its place. -/
theorem getLsbD_ofElems {w : Nat} {l : List Nat} {b : Nat} (hw : 0 < w) (hb : b / w < l.length) (hl : w * l.length ≤ 768) :
    (ofElems w l).getLsbD b = l[b / w].testBit (b % w) := by
  have hfit : w * (b / w + 1) ≤ 768 := (Nat.mul_le_mul_left w hb).trans hl
  have h := congrArg (fun n => n.testBit (b % w)) (elemAt_ofElems (w := w) hb hfit)
  simp only [testBit_elemAt, Nat.testBit_mod_two_pow, Nat.mod_lt b hw, decide_true, Bool.true_and] at h
  rw [Nat.div_add_mod] at h
  exact h

theorem tyW_pos (ty : ETy) : 0 < tyW ty := by cases ty <;> decide
theorem tyW_mul_tyN (ty : ETy) : tyW ty * tyN ty = 768 := by cases ty <;> decide

/-- The element of a bit. -/
theorem bit_elem (ty : ETy) {b : Nat} (hb : b < 768) : b / tyW ty < tyN ty := by
  rw [Nat.div_lt_iff_lt_mul (tyW_pos ty), Nat.mul_comm, tyW_mul_tyN]
  exact hb

/-- A bit of packed elements of a type. -/
theorem getLsbD_ofElems_ty (ty : ETy) (f : Nat → Nat) {b : Nat} (hb : b < 768) :
    (ofElems (tyW ty) ((List.range (tyN ty)).map f)).getLsbD b = (f (b / tyW ty)).testBit (b % tyW ty) := by
  rw [getLsbD_ofElems (tyW_pos ty) (by simpa using bit_elem ty hb) (by simp [tyW_mul_tyN]), List.getElem_map, List.getElem_range]

theorem testBit_elemAt_mod (w : Nat) (hw : 0 < w) (x : Payload) (b : Nat) : (elemAt w x (b / w)).testBit (b % w) = x.getLsbD b := by
  rw [testBit_elemAt, decide_eq_true (Nat.mod_lt b hw), Bool.true_and, Nat.div_add_mod]

/-- The element of a bit is active when the element of its lane is (R191). -/
theorem elemOn_bit (ty : ETy) (m : LaneMask) (b : Nat) : elemOn (tyW ty) m (b / tyW ty) = elemOn (tyW ty) m (laneElem (tyW ty) (b / 32)) := by
  have hpair : b / 32 / 2 = b / 64 := by omega
  cases ty with
  | i64 => simp only [elemOn, elemLanes, laneElem, tyW, if_true, hpair]
  | i8 =>
    have h1 : 8 * (b / 8) / 32 = 8 * (32 * (b / 32) / 8) / 32 := by omega
    simp [elemOn, elemLanes, laneElem, tyW, h1]
  | bf16 | f16 | i16 =>
    have h1 : 16 * (b / 16) / 32 = 16 * (32 * (b / 32) / 16) / 32 := by omega
    simp [elemOn, elemLanes, laneElem, tyW, h1]
  | _ => simp [elemOn, elemLanes, laneElem, tyW]

theorem laneAt_ofElems (f : Nat → Nat) {j : Nat} (hj : j < 24) : laneAt (ofElems 32 ((List.range 24).map f)) j = f j % 2 ^ 32 := by
  rw [laneAt, elemAt_ofElems (by simpa using hj) (by omega), List.getElem_map, List.getElem_range]

theorem laneAt_lt (x : Payload) (j : Nat) : laneAt x j < 2 ^ 32 := by
  rw [laneAt, elemAt, bits_eq]
  exact Nat.mod_lt _ (Nat.two_pow_pos 32)

theorem laneAt_mod (x : Payload) (j : Nat) : laneAt x j % 2 ^ 32 = laneAt x j := Nat.mod_eq_of_lt (laneAt_lt x j)

/-! ### Permutes -/

section
variable {i : Instr} {ty : ETy} {d : Dst} {srcs : List Src} {m : Msk} {s : State} {l t k : Nat} {ls : Lease} {x : Tile} {fi : Firing}
  {ts : List Tok}

/-- What a permute leaves in its destination: lanes `data` with poison `pois` where the element is active (R191, R313). -/
def Permutes (i : Instr) (ty : ETy) (d : Dst) (m : Msk) (s : State) (l t k : Nat) (ls : Lease) (x : Tile) (fi : Firing)
    (data : Nat → Nat) (pois : Nat → Bool) : Prop :=
  let old := dstOld (ctxOf x k) d
  let on (j : Nat) : Bool := elemOn (tyW ty) (activeOf (ctxOf x k) m) (laneElem (tyW ty) j)
  Gives i s fun s' => ∃ tok, ElemResult s s' l t k ls x fi d tok 0 ∧ tok.tag = tyTag ty ∧ tok.aux = 0 ∧
    ∀ j, j < 24 → laneAt tok.data j = (if on j then data j else laneAt old.data j) ∧
      tok.pois.getLsbD j = if on j then pois j else old.pois.getLsbD j

/-- A permute lane by lane (R313). -/
theorem permOp_permutes {f : List Tok → Nat → Nat × Bool} (hi : exec i s = permOp ty d srcs m f s)
    (h : LaneReady s l t k ls x fi ty d srcs ts) (hlt : ∀ j, (f ts j).1 < 2 ^ 32) :
    Permutes i ty d m s l t k ls x fi (fun j => (f ts j).1) (fun j => (f ts j).2) := by
  obtain ⟨s', hs', hres⟩ := laneOp_gives hi h rfl
  rw [if_pos rfl, mergeLanes_allLanes] at hres
  refine ⟨s', hs', _, hres, rfl, rfl, fun j hj => ⟨?_, ?_⟩⟩
  · dsimp only
    rw [List.map_map, laneAt_ofElems _ hj, Function.comp_apply, maskOf_bit _ hj]
    split
    · exact Nat.mod_eq_of_lt (hlt j)
    · exact laneAt_mod _ j
  · dsimp only
    rw [maskOf_bit _ hj, List.getD_eq_getElem _ _ (by simpa using hj), List.getElem_map, List.getElem_range, maskOf_bit _ hj]
    split <;> rfl

end

theorem laneOr_eq (u : Tok) (j : Int) :
    laneOr u j = if 0 ≤ j ∧ j < 24 then (laneAt u.data j.toNat, u.pois.getLsbD j.toNat) else (0, false) := by
  simp [laneOr]

theorem laneOr_lt (u : Tok) (j : Int) : (laneOr u j).1 < 2 ^ 32 := by
  rw [laneOr_eq]
  split
  · exact laneAt_lt _ _
  · exact Nat.two_pow_pos 32

/-- A lane in range, or a clean zero, is a word. -/
theorem lane_lt (u : Tok) (j : Int) :
    (if 0 ≤ j ∧ j < 24 then (laneAt u.data j.toNat, u.pois.getLsbD j.toNat) else (0, false)).1 < 2 ^ 32 := laneOr_eq u j ▸ laneOr_lt u j

/-- The token of the moved lanes. -/
def lanesTok (f : Nat → Nat) : Tok := { Tok.zero with data := ofElems 32 ((List.range 24).map f) }

/-- A permute, with a token that holds the moved lanes. -/
theorem Permutes.token {i : Instr} {ty : ETy} {d : Dst} {m : Msk} {s : State} {l t k : Nat} {ls : Lease} {x : Tile} {fi : Firing}
    {data : Nat → Nat} {pois : Nat → Bool} (h : Permutes i ty d m s l t k ls x fi data pois) (hlt : ∀ j, data j < 2 ^ 32) :
    (∀ j, j < 24 → laneAt (lanesTok data).data j = data j) ∧
    let on (j : Nat) : Bool := elemOn (tyW ty) (activeOf (ctxOf x k) m) (laneElem (tyW ty) j)
    Gives i s fun s' => ∃ tok, ElemResult s s' l t k ls x fi d tok 0 ∧ tok.tag = tyTag ty ∧ tok.aux = 0 ∧
      ∀ j, j < 24 →
        laneAt tok.data j = (if on j then laneAt (lanesTok data).data j else laneAt (dstOld (ctxOf x k) d).data j) ∧
        tok.pois.getLsbD j = if on j then pois j else (dstOld (ctxOf x k) d).pois.getLsbD j := by
  have hr : ∀ j, j < 24 → laneAt (lanesTok data).data j = data j := fun j hj =>
    (laneAt_ofElems data hj).trans (Nat.mod_eq_of_lt (hlt j))
  obtain ⟨s', hs', tok, hres, htag, haux, hl⟩ := h
  refine ⟨hr, s', hs', tok, hres, htag, haux, fun j hj => ?_⟩
  rw [hr j hj]
  exact hl j hj

/-- A permute by lanes gives each lane of an active element what `g` says (R191, R313). -/
theorem permOp_lanes {i : Instr} {ty : ETy} {d : Dst} {srcs : List Src} {m : Msk} {f g : List Tok → Nat → Nat × Bool}
    (hi : ∀ s, exec i s = permOp ty d srcs m f s) (hfg : ∀ ts j, f ts j = g ts j) (hlt : ∀ ts j, (g ts j).1 < 2 ^ 32)
    (s : State) (l t k : Nat) (ls : Lease) (x : Tile) (fi : Firing) (ts : List Tok) (h : LaneReady s l t k ls x fi ty d srcs ts) :
    let on (j : Nat) : Bool := elemOn (tyW ty) (activeOf (ctxOf x k) m) (laneElem (tyW ty) j)
    Gives i s fun s' => ∃ (tok r : Tok), ElemResult s s' l t k ls x fi d tok 0 ∧ tok.tag = tyTag ty ∧ tok.aux = 0 ∧
      (∀ j, j < 24 → laneAt r.data j = (g ts j).1) ∧
      ∀ j, j < 24 →
        laneAt tok.data j = (if on j then laneAt r.data j else laneAt (dstOld (ctxOf x k) d).data j) ∧
        tok.pois.getLsbD j = if on j then (g ts j).2 else (dstOld (ctxOf x k) d).pois.getLsbD j := by
  obtain rfl : f = g := funext fun ts => funext (hfg ts)
  obtain ⟨hr, s', hs', tok, hres, htag, haux, hl⟩ := (permOp_permutes (hi s) h (hlt ts)).token (hlt ts)
  exact ⟨s', hs', tok, lanesTok _, hres, htag, haux, hr, hl⟩

/-! ### Permutes of bytes and of elements -/

theorem elemAt_byte (x : Payload) (q : Nat) : elemAt 8 x q = laneAt x (q / 4) / 2 ^ (8 * (q % 4)) % 2 ^ 8 := by
  refine Nat.eq_of_testBit_eq fun i => ?_
  rw [testBit_elemAt, Nat.testBit_mod_two_pow, Nat.testBit_div_two_pow, laneAt, testBit_elemAt]
  by_cases hi : i < 8
  · have h1 : 8 * (q % 4) + i < 32 := by omega
    have h2 : 32 * (q / 4) + (8 * (q % 4) + i) = 8 * q + i := by omega
    have h3 : i + 8 * (q % 4) = 8 * (q % 4) + i := by omega
    simp [hi, h3, h1, h2]
  · simp [hi]

/-- Byte `q` of a byte permute: the byte that `v` names, with the poison of its lane, or a clean zero (R313). -/
def pickByte (u v : Tok) (q : Nat) : Nat × Bool :=
  let k := elemAt 8 v.data q % 128
  if k < 96 then (elemAt 8 u.data k, u.pois.getLsbD (k / 4)) else (0, false)

theorem pickByte_lt (u v : Tok) (q : Nat) : (pickByte u v q).1 < 2 ^ 8 := by
  unfold pickByte
  dsimp only
  split
  · rw [elemAt, bits_eq]; exact Nat.mod_lt _ (Nat.two_pow_pos 8)
  · exact Nat.two_pow_pos 8

theorem pickByte_poison (u v : Tok) (q : Nat) : (pickByte u v q).2 =
    (decide (elemAt 8 v.data q % 128 < 96) && u.pois.getLsbD (elemAt 8 v.data q % 128 / 4)) := by
  unfold pickByte
  by_cases hq : elemAt 8 v.data q % 128 < 96 <;> simp [hq]

/-- Four bytes, the first lowest. -/
theorem foldr_bytes (bs : List (Nat × Bool)) (h : ∀ b ∈ bs, b.1 < 2 ^ 8) :
    bs.foldr (fun v a => a * 256 + v.1) 0 = (bs.map (·.1)).foldr (fun v a => a * 2 ^ 8 + v % 2 ^ 8) 0 := by
  induction bs with
  | nil => rfl
  | cons b bs ih =>
    rw [List.foldr_cons, List.map_cons, List.foldr_cons, ih fun b' hb' => h b' (List.mem_cons_of_mem _ hb'),
      Nat.mod_eq_of_lt (h b (List.mem_cons_self ..))]
    norm_num

/-- The lane of four bytes of a byte permute. -/
def pickLane (u v : Tok) (j : Nat) : Nat := ((List.range 4).map fun i => pickByte u v (4 * j + i)).foldr (fun v a => a * 256 + v.1) 0

theorem pickLane_eq (u v : Tok) (j : Nat) : pickLane u v j =
    ((List.range 4).map fun i => (pickByte u v (4 * j + i)).1).foldr (fun v a => a * 2 ^ 8 + v % 2 ^ 8) 0 := by
  rw [pickLane, foldr_bytes, List.map_map]
  · rfl
  · intro b hb
    obtain ⟨i, -, rfl⟩ := List.mem_map.mp hb
    exact pickByte_lt u v _

theorem pickLane_lt (u v : Tok) (j : Nat) : pickLane u v j < 2 ^ 32 := by
  rw [pickLane_eq]
  exact ofElems_lt 8 ((List.range 4).map fun i => (pickByte u v (4 * j + i)).1)

theorem pickLane_byte (u v : Tok) (q : Nat) : pickLane u v (q / 4) / 2 ^ (8 * (q % 4)) % 2 ^ 8 = (pickByte u v q).1 := by
  have hq : q % 4 < ((List.range 4).map fun i => (pickByte u v (4 * (q / 4) + i)).1).length := by
    simpa using Nat.mod_lt q (by decide : 0 < 4)
  rw [pickLane_eq, foldr_pack_elem 8 _ (q % 4) hq, List.getElem_map, List.getElem_range, Nat.div_add_mod,
    Nat.mod_eq_of_lt (pickByte_lt u v q)]

theorem exec_bperm {ty : ETy} {d : Dst} {a b : Src} {m : Msk} (s : State) :
    exec (.bperm ty d a b m) s = permOp ty d [a, b] m (fun ts j => (pickLane (ts.getD 0 Tok.zero) (ts.getD 1 Tok.zero) j,
      ((List.range 4).map fun i => pickByte (ts.getD 0 Tok.zero) (ts.getD 1 Tok.zero) (4 * j + i)).any (·.2) ||
        (ts.getD 1 Tok.zero).pois.getLsbD j)) s := rfl

/-- The elements that lie in lane `j` (R191). -/
theorem any_laneElems (ty : ETy) (P : Nat → Bool) {j : Nat} (hj : j < 24) :
    ((List.range (if tyW ty = 64 then 1 else 32 / tyW ty)).any fun i => P (laneElem (tyW ty) j + i)) =
      (List.range (tyN ty)).any fun e => (elemLanes (tyW ty) e).contains j && P e := by
  have hto : ∀ i, i < (if tyW ty = 64 then 1 else 32 / tyW ty) →
      laneElem (tyW ty) j + i < tyN ty ∧ j ∈ elemLanes (tyW ty) (laneElem (tyW ty) j + i) := by
    intro i hi
    cases ty <;> simp [tyW, tyN, laneElem, elemLanes] at hi ⊢ <;> omega
  have hfrom : ∀ e, e < tyN ty → j ∈ elemLanes (tyW ty) e →
      ∃ i, i < (if tyW ty = 64 then 1 else 32 / tyW ty) ∧ laneElem (tyW ty) j + i = e := by
    intro e he hm
    refine ⟨e - laneElem (tyW ty) j, ?_⟩
    cases ty <;> simp [tyW, tyN, laneElem, elemLanes] at he hm ⊢ <;> omega
  rw [Bool.eq_iff_iff, List.any_eq_true, List.any_eq_true]
  constructor
  · rintro ⟨i, hi, hP⟩
    obtain ⟨h1, h2⟩ := hto i (List.mem_range.mp hi)
    exact ⟨_, List.mem_range.mpr h1, by simp [h2, hP]⟩
  · rintro ⟨e, he, hP⟩
    rw [Bool.and_eq_true, List.contains_iff_mem] at hP
    obtain ⟨i, hi, rfl⟩ := hfrom e (List.mem_range.mp he) hP.1
    exact ⟨i, List.mem_range.mpr hi, hP.2⟩

/-- BPERM takes each byte from the one that its index names (R313). -/
theorem bperm_permutes {ty : ETy} {d : Dst} {a b : Src} {m : Msk} {s : State} {l t k : Nat} {ls : Lease} {x : Tile} {fi : Firing}
    {ts : List Tok} (h : LaneReady s l t k ls x fi ty d [a, b] ts) :
    let byte (q : Nat) : Nat := elemAt 8 (ts.getD 1 Tok.zero).data q % 128
    let on (j : Nat) : Bool := elemOn (tyW ty) (activeOf (ctxOf x k) m) (laneElem (tyW ty) j)
    Gives (.bperm ty d a b m) s fun s' => ∃ (tok r : Tok), ElemResult s s' l t k ls x fi d tok 0 ∧ tok.tag = tyTag ty ∧ tok.aux = 0 ∧
      (∀ q, q < 96 → elemAt 8 r.data q = if byte q < 96 then elemAt 8 (ts.getD 0 Tok.zero).data (byte q) else 0) ∧
      ∀ j, j < 24 →
        laneAt tok.data j = (if on j then laneAt r.data j else laneAt (dstOld (ctxOf x k) d).data j) ∧
        tok.pois.getLsbD j = if on j then (ts.getD 1 Tok.zero).pois.getLsbD j || (List.range 4).any fun i =>
          decide (byte (4 * j + i) < 96) && (ts.getD 0 Tok.zero).pois.getLsbD (byte (4 * j + i) / 4)
          else (dstOld (ctxOf x k) d).pois.getLsbD j := by
  have hlt := fun j => pickLane_lt (ts.getD 0 Tok.zero) (ts.getD 1 Tok.zero) j
  obtain ⟨hr, s', hs', tok, hres, htag, haux, hl⟩ := (permOp_permutes (exec_bperm s) h hlt).token hlt
  refine ⟨s', hs', tok, lanesTok _, hres, htag, haux, fun q hq => ?_, fun j hj => ⟨(hl j hj).1, (hl j hj).2.trans ?_⟩⟩
  · rw [elemAt_byte, hr (q / 4) (by omega), pickLane_byte, pickByte]
    split <;> rfl
  · rw [List.any_map, Bool.or_comm]
    simp only [Function.comp_def, pickByte_poison]

/-- SHUF interleaves the elements of its sources (R313). -/
theorem shuf_permutes {ty : ETy} {d : Dst} {a b : Src} {m : Msk} {s : State} {l t k : Nat} {ls : Lease} {x : Tile} {fi : Firing}
    {ts : List Tok} (h : LaneReady s l t k ls x fi ty d [a, b] ts) :
    let on (j : Nat) : Bool := elemOn (tyW ty) (activeOf (ctxOf x k) m) (laneElem (tyW ty) j)
    Gives (.shuf ty d a b m) s fun s' => ∃ (tok r : Tok), ElemResult s s' l t k ls x fi d tok 0 ∧ tok.tag = tyTag ty ∧ tok.aux = 0 ∧
      (∀ e, e < tyN ty → elemAt (tyW ty) r.data e = elemAt (tyW ty) (ts.getD (e % 2) Tok.zero).data (e / 2)) ∧
      ∀ j, j < 24 →
        laneAt tok.data j = (if on j then laneAt r.data j else laneAt (dstOld (ctxOf x k) d).data j) ∧
        tok.pois.getLsbD j = if on j then (List.range (tyN ty)).any fun e => (elemLanes (tyW ty) e).contains j &&
          elemPois (tyW ty) (ts.getD (e % 2) Tok.zero).pois (e / 2) else (dstOld (ctxOf x k) d).pois.getLsbD j := by
  have hrun : exec (.shuf ty d a b m) s = execShuf ty d a b m s := rfl
  have hfrom : ∀ e, (if e % 2 = 0 then ts.getD 0 Tok.zero else ts.getD 1 Tok.zero) = ts.getD (e % 2) Tok.zero := by
    intro e
    rcases Nat.mod_two_eq_zero_or_one e with he | he <;> simp [he]
  obtain ⟨s', hs', hres⟩ := laneOp_gives hrun h rfl
  rw [if_pos rfl, mergeLanes_allLanes] at hres
  simp only [hfrom] at hres
  refine ⟨s', hs', _, { Tok.zero with data := ofElems (tyW ty) ((List.range (tyN ty)).map fun e =>
    elemAt (tyW ty) (ts.getD (e % 2) Tok.zero).data (e / 2)) }, hres, rfl, rfl, fun e he => ?_, fun j hj => ⟨?_, ?_⟩⟩
  · rw [elemAt_ofElems (by simpa using he) (width_fits ty he), List.getElem_map, List.getElem_range, elemAt_lt]
  · dsimp only
    by_cases hon : elemOn (tyW ty) (activeOf (ctxOf x k) m) (laneElem (tyW ty) j) = true
    · rw [if_pos hon]
      refine laneAt_congr fun b hb => ?_
      rw [getLsbD_ofElems_ty ty _ (by omega), getLsbD_ofElems_ty ty _ (by omega), elemOn_bit, hb, if_pos hon]
    · rw [if_neg hon]
      refine laneAt_congr fun b hb => ?_
      rw [getLsbD_ofElems_ty ty _ (by omega), elemOn_bit, hb, if_neg hon, testBit_elemAt_mod _ (tyW_pos ty)]
  · dsimp only
    rw [BitVec.getLsbD_or, BitVec.getLsbD_and, BitVec.getLsbD_and, BitVec.getLsbD_not, maskOf_bit _ hj, maskOf_bit _ hj,
      any_laneElems ty (fun e => elemPois (tyW ty) (ts.getD (e % 2) Tok.zero).pois (e / 2)) hj]
    by_cases hon : elemOn (tyW ty) (activeOf (ctxOf x k) m) (laneElem (tyW ty) j) = true
    · simp [hon]
    · simp [hon, hj]

/-- PSET adds poison, unless its mask is poisoned (R315). -/
theorem pset_runs {ty : ETy} {d : Dst} {a b : Src} {m : Msk} {s : State} {l t k : Nat} {ls : Lease} {x : Tile} {fi : Firing} {y z : Tok}
    (h : LaneReady s l t k ls x fi ty d [a, b] [y, z]) :
    (z.pois.getLsbD 0 = true → exec (.pset ty d a b m) s = .next (wordFault s l t k ls x (ctxOf x k) fi cPCTL 0)) ∧
    (z.pois.getLsbD 0 = false → Gives (.pset ty d a b m) s fun s' => ∃ tok, ElemResult s s' l t k ls x fi d tok 0 ∧
      tok.tag = tyTag ty ∧ tok.aux = 0 ∧ ∀ j, j < 24 → if (activeOf (ctxOf x k) m).getLsbD j then
        laneAt tok.data j = laneAt y.data j ∧ tok.pois.getLsbD j = (y.pois.getLsbD j || (laneAt z.data 0).testBit j)
      else laneAt tok.data j = laneAt (dstOld (ctxOf x k) d).data j ∧ tok.pois.getLsbD j = (dstOld (ctxOf x k) d).pois.getLsbD j) := by
  have hrun : exec (.pset ty d a b m) s = execPset ty d a b m s := rfl
  refine ⟨fun hp => laneOp_faults hrun h (if_pos hp), fun hp => ?_⟩
  obtain ⟨s', hs', hres⟩ := laneOp_gives hrun h (o := ⟨y.data, y.pois ||| BitVec.ofNat 24 (laneAt z.data 0), tyTag ty, 0, 0⟩)
    (if_neg (by simpa using hp))
  rw [if_neg Bool.false_ne_true] at hres
  refine ⟨s', hs', _, hres, tag_mergeLanes _ _ _ _ _ _, aux_mergeLanes _ _ _ _ _ _, fun j hj => ?_⟩
  rw [laneAt_mergeLanes _ _ _ _ _ _ hj, pois_mergeLanes _ _ _ _ _ _ hj]
  by_cases hon : (activeOf (ctxOf x k) m).getLsbD j = true
  · rw [if_pos hon, if_pos hon, if_pos hon, BitVec.getLsbD_or, BitVec.getLsbD_ofNat, decide_eq_true hj, Bool.true_and]
    exact ⟨rfl, rfl⟩
  · rw [if_neg hon, if_neg hon, if_neg hon]
    exact ⟨rfl, rfl⟩

/-- Settles O26: reductions by what their trees give, permutes and poison operations lane by lane. -/
theorem reductionsAndPermutes : Obligations.reductions_and_permutes := by
  refine ⟨fun ty d a m => ⟨?sum, ?max, ?min⟩, fun ty d a b n m => ⟨?perm, ?lshf, ?bcst, ?bperm, fun s l t k ls x fi ts h => shuf_permutes h,
    ?ptst, ?pclr, ?pfil, fun s l t k ls x fi y z h => pset_runs h⟩⟩
  case sum =>
    exact reduceOp_fills (P := SumIs ty) (fun s => show exec (.rsum ty d a m) s = execRsum ty d a m s from rfl) fun q hq => rsum_value ty hq
  case max =>
    exact reduceOp_fills (P := MostIs ty true) (fun s => show exec (.rmax ty d a m) s = execRmax ty d a m s from rfl) fun q _ => extreme_is ty true q
  case min =>
    exact reduceOp_fills (P := MostIs ty false) (fun s => show exec (.rmin ty d a m) s = execRmin ty d a m s from rfl) fun q _ => extreme_is ty false q
  case perm =>
    exact permOp_lanes (fun s => show exec (.perm ty d a b m) s = execPerm ty d a b m s from rfl)
      (fun ts j => congrArg (fun v : Nat × Bool => (v.1, v.2 || _)) (laneOr_eq _ _)) fun ts j => lane_lt _ _
  case lshf =>
    exact permOp_lanes (fun s => show exec (.lshf ty d a b m) s = execLshf ty d a b m s from rfl)
      (fun ts j => congrArg (fun v : Nat × Bool => (v.1, v.2 || _)) (laneOr_eq _ _)) fun ts j => lane_lt _ _
  case bcst =>
    exact permOp_lanes (fun s => show exec (.bcst ty d a n m) s = execBcst ty d a n m s from rfl)
      (fun ts j => laneOr_eq _ _) fun ts j => lane_lt _ _
  case bperm => exact fun s l t k ls x fi ts h => bperm_permutes h
  case ptst =>
    refine wholeToken_of (fun s => show exec (.ptst ty d a m) s = execPtst ty d a m s from rfl) fun x c fi on old ts =>
      ⟨⟨ofElems 32 (List.replicate 24 (ts.getD 0 Tok.zero).pois.toNat), 0, 0, 0, 0⟩, 0, rfl, rfl, rfl, rfl, fun j hj => ⟨?_, by simp⟩⟩
    have hp : (ts.getD 0 Tok.zero).pois.toNat < 2 ^ 32 := (ts.getD 0 Tok.zero).pois.isLt.trans (by decide)
    rw [laneAt, elemAt_ofElems (by simpa using hj) (by omega), List.getElem_replicate, Nat.mod_eq_of_lt hp]
  case pclr =>
    exact wholeToken_of (fun s => show exec (.elementPclr ty d a m) s = execElementPclr ty d a m s from rfl) fun x c fi on old ts =>
      ⟨⟨(ts.getD 0 Tok.zero).data, 0, tyTag ty, 0, 0⟩, 0, rfl, rfl, rfl, rfl, fun j hj => ⟨rfl, by simp⟩⟩
  case pfil => 
    refine wholeToken_of (fun s => show exec (.pfil ty d a b m) s = execPfil ty d a b m s from rfl) fun x c fi on old ts =>
      ⟨⟨ofElems 32 ((List.range 24).map fun i => laneAt (if (ts.getD 0 Tok.zero).pois.getLsbD i then (ts.getD 1 Tok.zero).data else (ts.getD 0 Tok.zero).data) i),
        (ts.getD 0 Tok.zero).pois &&& (ts.getD 1 Tok.zero).pois, tyTag ty, 0, 0⟩, 0, rfl, rfl, rfl, rfl, fun j hj => ⟨?_, BitVec.getLsbD_and⟩⟩
    rw [laneAt_ofElems _ hj, laneAt_mod]

end Sys2Proof.Claims
end

section
/-! SUPPORT. Modular operations (R216, R314): the arithmetic, and the words over pairs. -/

namespace Sys2Proof.Claims

open Sys2Proof Sys2Proof.Machine

/-! ### The arithmetic of R216 -/

theorem toNat_ofInt64 {z : Int} (h0 : 0 ≤ z) (h1 : z < 2 ^ 64) : (BitVec.ofInt 64 z).toNat = z.toNat := by
  rw [BitVec.toNat_ofInt, Int.emod_eq_of_lt h0 (by exact_mod_cast h1)]

/-- The quotient that MMUL guesses is at most three below what is left after it (Barrett). -/
theorem barrett_quotient {A q x mu t : Nat} (hA : 0 < A) (hAq : A ≤ q) (hqA : q < 2 * A) (hx : x < q * q) (hmu : mu = 4 * A * A / q)
    (ht : t = x / A * mu / (4 * A)) : t * q ≤ x ∧ x < (t + 3) * q := by
  have hq : 0 < q := hA.trans_le hAq
  have ha : x / A * A ≤ x := Nat.div_mul_le_self x A
  have ha' : x < (x / A + 1) * A := by rw [Nat.mul_comm]; exact Nat.lt_mul_div_succ x hA
  have hm : mu * q ≤ 4 * A * A := hmu ▸ Nat.div_mul_le_self _ q
  have hm' : 4 * A * A < (mu + 1) * q := by rw [hmu, Nat.mul_comm _ q]; exact Nat.lt_mul_div_succ _ hq
  have hti : t * (4 * A) ≤ x / A * mu := ht ▸ Nat.div_mul_le_self _ _
  have hti' : x / A * mu < (t + 1) * (4 * A) := by rw [ht, Nat.mul_comm _ (4 * A)]; exact Nat.lt_mul_div_succ _ (by omega)
  generalize x / A = a at *
  have hasmall : a < 4 * A := by
    have : a * A < 4 * A * A := by nlinarith
    exact lt_of_mul_lt_mul_right this (Nat.zero_le A)
  constructor
  · have : t * q * (4 * A) ≤ x * (4 * A) := by
      calc t * q * (4 * A) = t * (4 * A) * q := by ring
        _ ≤ a * mu * q := Nat.mul_le_mul_right q hti
        _ = a * (mu * q) := by ring
        _ ≤ a * (4 * A * A) := Nat.mul_le_mul_left a hm
        _ = a * A * (4 * A) := by ring
        _ ≤ x * (4 * A) := Nat.mul_le_mul_right _ ha
    exact le_of_mul_le_mul_right this (by omega)
  · have haA : a * A ≤ (t + 2) * q := by
      have : a * A * (4 * A) ≤ (t + 2) * q * (4 * A) := by
        calc a * A * (4 * A) = a * (4 * A * A) := by ring
          _ ≤ a * ((mu + 1) * q) := Nat.mul_le_mul_left a hm'.le
          _ = a * mu * q + a * q := by ring
          _ ≤ (t + 1) * (4 * A) * q + 4 * A * q := Nat.add_le_add (Nat.mul_le_mul_right q hti'.le) (Nat.mul_le_mul_right q hasmall.le)
          _ = (t + 2) * q * (4 * A) := by ring
      exact le_of_mul_le_mul_right this (by omega)
    calc x < a * A + A := by rw [← Nat.succ_mul]; exact ha'
      _ ≤ (t + 2) * q + q := Nat.add_le_add haA hAq
      _ = (t + 3) * q := by ring

/-- Two conditional subtractions reduce what is below three times the modulus. -/
theorem reduce_twice {q x t : Nat} (h : t * q ≤ x) (h3 : x < (t + 3) * q) (hq : q < 2 ^ 62) :
    let z : Int := (x : Int) - (t : Int) * q
    let z1 : Int := if (q : Int) ≤ z then z - q else z
    let z2 : Int := if (q : Int) ≤ z1 then z1 - q else z1
    (BitVec.ofInt 64 z2).toNat = x % q := by
  obtain ⟨u, rfl⟩ := Nat.exists_eq_add_of_le h
  have hu : u < 3 * q := by rw [Nat.add_mul] at h3; omega
  have hz : ((t * q + u : Nat) : Int) - (t : Int) * q = u := by push_cast; ring
  have hmod : (t * q + u) % q = u % q := by rw [Nat.add_comm, Nat.add_mul_mod_self_right]
  intro z z1 z2
  rw [hmod]
  have hcases : (u < q ∧ z2 = u) ∨ (q ≤ u ∧ u < 2 * q ∧ z2 = ((u - q : Nat) : Int)) ∨
      (2 * q ≤ u ∧ z2 = ((u - 2 * q : Nat) : Int)) := by
    simp only [z2, z1, z, hz]
    rcases Nat.lt_or_ge u q with h1 | h1
    · left
      rw [if_neg (show ¬(q : Int) ≤ u by omega), if_neg (show ¬(q : Int) ≤ u by omega)]
      exact ⟨h1, rfl⟩
    · right
      rw [if_pos (show (q : Int) ≤ u by omega)]
      rcases Nat.lt_or_ge u (2 * q) with h2 | h2
      · left
        rw [if_neg (show ¬(q : Int) ≤ u - q by omega)]
        exact ⟨h1, h2, by omega⟩
      · right
        rw [if_pos (show (q : Int) ≤ u - q by omega)]
        exact ⟨h2, by omega⟩
  rcases hcases with ⟨h1, h2⟩ | ⟨h1, h1', h2⟩ | ⟨h1, h2⟩
  · rw [h2, toNat_ofInt64 (by omega) (by omega), Int.toNat_natCast, Nat.mod_eq_of_lt h1]
  · rw [h2, toNat_ofInt64 (by omega) (by omega), Int.toNat_natCast, Nat.mod_eq_sub_mod h1, Nat.mod_eq_of_lt (by omega)]
  · rw [h2, toNat_ofInt64 (by omega) (by omega), Int.toNat_natCast, Nat.mod_eq_sub_mod (by omega), Nat.mod_eq_sub_mod (by omega),
      Nat.mod_eq_of_lt (by omega)]
    omega

/-- MMUL of reduced operands is the reduced product (R216). -/
theorem mMul_eq {q mu p r : Nat} (h2 : 2 ≤ q) (hq : q < 2 ^ 62) (hp : p < q) (hr : r < q) (hmu : mu = 4 ^ (Nat.log2 q + 1) / q) :
    mMul q mu p r = p * r % q := by
  have hne : q ≠ 0 := by omega
  have hk : bitLen q = Nat.log2 q + 1 := if_neg hne
  have hx : p * r < q * q := Nat.mul_lt_mul'' hp hr
  have hpow : 2 ^ (Nat.log2 q + 1 + 1) = 4 * 2 ^ Nat.log2 q := by rw [Nat.pow_succ, Nat.pow_succ]; ring
  have hmu' : mu = 4 * 2 ^ Nat.log2 q * 2 ^ Nat.log2 q / q := by
    have : 4 ^ (Nat.log2 q + 1) = 4 * 2 ^ Nat.log2 q * 2 ^ Nat.log2 q := by
      rw [Nat.pow_succ, show 4 = 2 * 2 from rfl, Nat.mul_pow]; ring
    rw [hmu, this]
  obtain ⟨hlo, hhi⟩ := barrett_quotient (Nat.two_pow_pos _) (Nat.log2_self_le hne)
    (by rw [← Nat.pow_succ']; exact Nat.lt_log2_self) hx hmu' rfl
  have h := reduce_twice hlo hhi hq
  rw [mMul, hk, Nat.add_sub_cancel, hpow]
  exact h

theorem mAdd_eq {q p r : Nat} (hq : q < 2 ^ 62) (hp : p < q) (hr : r < q) : mAdd q p r = (p + r) % q := by
  unfold mAdd
  split
  · next h => rw [Nat.mod_eq_of_lt (by omega : p + r - q < 2 ^ 64), Nat.mod_eq_sub_mod h, Nat.mod_eq_of_lt (by omega)]
  · next h => rw [Nat.mod_eq_of_lt (by omega : p + r < 2 ^ 64), Nat.mod_eq_of_lt (by omega : p + r < q)]

theorem mSub_eq {q p r : Nat} (hq : q < 2 ^ 62) (hp : p < q) (hr : r < q) : mSub q p r = (p + q - r) % q := by
  unfold mSub
  split
  · next h => rw [Nat.mod_eq_sub_mod (by omega), Nat.mod_eq_of_lt (by omega)]; omega
  · next h => rw [toNat_ofInt64 (by omega) (by omega), Nat.mod_eq_of_lt (by omega)]; omega

/-! ### The words -/

theorem mOk_iff (q : Nat) : mOk q = true ↔ 2 ≤ q ∧ q < 2 ^ 62 := by simp [mOk]

/-- An element of an elementwise result (R145, R191). -/
theorem elementwise_elem {w : Nat} (act : LaneMask) (old : Tok) (ts : List Tok) (g : List Nat → Nat × Flg) {e : Nat}
    (he : e < 768 / w) (hw : w * (e + 1) ≤ 768) : elemAt w (elementwise w act old ts g).1 e =
      if elemOn w act e then (g (ts.map fun t => elemAt w t.data e)).1 % 2 ^ w else elemAt w old.data e := by
  rw [elementwise]
  dsimp only
  rw [elemAt_ofElems (by simpa using he) hw, List.getElem_map, List.getElem_map, List.getElem_range]
  split
  · exact Nat.mod_mod _ _
  · rw [elemAt, bits_eq, Nat.mod_mod]

/-- The flags of an elementwise result are those of its clean active elements (R144). -/
theorem elementwise_flags (w : Nat) (act : LaneMask) (old : Tok) (ts : List Tok) (g : List Nat → Nat × Flg) (i : Nat) :
    (elementwise w act old ts g).2.2.2.getLsbD i = (List.range (768 / w)).any fun e =>
      elemOn w act e && !ts.any (fun t => elemPois w t.pois e) && (g (ts.map fun t => elemAt w t.data e)).2.getLsbD i := by
  rw [elementwise]
  dsimp only
  rw [orFlags_bit, List.map_map, List.any_map]
  congr 1
  funext e
  dsimp only [Function.comp_apply]
  by_cases hon : elemOn w act e = true
  · rw [if_pos hon, hon]
    by_cases hp : ts.any (fun t => elemPois w t.pois e) = true
    · rw [if_pos hp, hp]; simp
    · rw [if_neg hp, Bool.eq_false_iff.mpr hp]; simp
  · rw [if_neg hon]
    simp [hon]

theorem elementwise_flags_zero {w : Nat} {act : LaneMask} {old : Tok} {ts : List Tok} {g : List Nat → Nat × Flg}
    (h : ∀ l, (g l).2 = 0) : (elementwise w act old ts g).2.2.2 = 0 := by
  refine BitVec.eq_of_getLsbD_eq fun i _ => ?_
  rw [elementwise_flags]
  simp [h]

/-- Where every element raises the same flags, one clean active element raises them. -/
theorem elementwise_flags_const {w : Nat} {act : LaneMask} {old : Tok} {ts : List Tok} {g : List Nat → Nat × Flg} {fl : Flg}
    (h : ∀ l, (g l).2 = fl) {e : Nat} (he : e < 768 / w) (hon : elemOn w act e = true)
    (hp : ts.any (fun t => elemPois w t.pois e) = false) : (elementwise w act old ts g).2.2.2 = fl := by
  refine BitVec.eq_of_getLsbD_eq fun i _ => ?_
  rw [elementwise_flags, Bool.eq_iff_iff, List.any_eq_true]
  simp only [h]
  exact ⟨fun ⟨_, _, hx⟩ => (Bool.and_eq_true _ _ ▸ hx).2, fun hi => ⟨e, List.mem_range.mpr he, by simp [hon, hp, hi]⟩⟩

/-- What one element of a modular operation gives (R216, R314). -/
def modElem (x : Tile) (fi : Firing) (g : Nat → Nat → Nat → Nat → Nat → Nat) (l : List Nat) : Nat × Flg :=
  if mOk (kPair x fi 0) then (g (kPair x fi 0) (kPair x fi 1) (kPair x fi 2) (arg l 0) (arg l 1), 0) else (0, fNV)

section
variable {x : Tile} {fi : Firing} {g : Nat → Nat → Nat → Nat → Nat → Nat}

theorem modElem_ok (h : 2 ≤ kPair x fi 0 ∧ kPair x fi 0 < 2 ^ 62) (l : List Nat) :
    modElem x fi g l = (g (kPair x fi 0) (kPair x fi 1) (kPair x fi 2) (arg l 0) (arg l 1), 0) := if_pos ((mOk_iff _).mpr h)

theorem modElem_bad (h : ¬(2 ≤ kPair x fi 0 ∧ kPair x fi 0 < 2 ^ 62)) (l : List Nat) : modElem x fi g l = (0, fNV) :=
  if_neg fun hok => h ((mOk_iff _).mp hok)

end

/-- The result of a modular operation from what its elements give. -/
def pairOut (old : Tok) (r : Payload × LaneMask × LaneMask × Flg) : EOut :=
  ⟨r.1, (r.2.1 &&& r.2.2.1) ||| (old.pois &&& ~~~r.2.2.1), 0, 0, r.2.2.2⟩

/-- The result of a modular operation. -/
def modOut (x : Tile) (fi : Firing) (act : LaneMask) (old : Tok) (ts : List Tok) (g : Nat → Nat → Nat → Nat → Nat → Nat) : EOut :=
  pairOut old (elementwise 64 act old ts (modElem x fi g))

theorem modOut_def (x : Tile) (fi : Firing) (act : LaneMask) (old : Tok) (ts : List Tok) (g : Nat → Nat → Nat → Nat → Nat → Nat) :
    modOut x fi act old ts g = pairOut old (elementwise 64 act old ts fun l =>
      if mOk (kPair x fi 0) then (g (kPair x fi 0) (kPair x fi 1) (kPair x fi 2) (arg l 0) (arg l 1), 0) else (0, fNV)) := rfl

/-- A modular operation as a lane word (R314). -/
theorem modOp_eq (d : Dst) (a b : Src) (m : Msk) (g : Nat → Nat → Nat → Nat → Nat → Nat) (s : State) : modOp d a b m g s =
    laneOp .i64 d [a, b] m true
      (fun x _ fi act old ts => if kBad x fi then .error cPCTL else .ok (modOut x fi act old ts g, id)) s := by
  rw [modOp]
  refine congrArg (fun f => laneOp .i64 d [a, b] m true f s) ?_
  refine funext fun x => funext fun c => funext fun fi => funext fun act => funext fun old => funext fun ts => ?_
  rw [modOut_def]
  dsimp only
  generalize elementwise 64 act old ts _ = r
  obtain ⟨data, pois, on, fl⟩ := r
  rfl

theorem modOut_elem (x : Tile) (fi : Firing) (act : LaneMask) (old : Tok) (ts : List Tok) (g : Nat → Nat → Nat → Nat → Nat → Nat)
    {e : Nat} (he : e < 12) (hon : elemOn 64 act e = true) :
    elemAt 64 (modOut x fi act old ts g).data e = (modElem x fi g (ts.map fun t => elemAt 64 t.data e)).1 % 2 ^ 64 := by
  rw [modOut, pairOut, elementwise_elem _ _ _ _ (by simpa using he) (by omega), if_pos hon]

section
variable {x : Tile} {fi : Firing} {act : LaneMask} {old : Tok} {ts : List Tok} {g : Nat → Nat → Nat → Nat → Nat → Nat}

theorem modOut_flags_ok (h : 2 ≤ kPair x fi 0 ∧ kPair x fi 0 < 2 ^ 62) : (modOut x fi act old ts g).fl = 0 :=
  elementwise_flags_zero (g := modElem x fi g) fun l => by rw [modElem_ok h]

theorem modOut_flags_bad (h : ¬(2 ≤ kPair x fi 0 ∧ kPair x fi 0 < 2 ^ 62)) {e : Nat} (he : e < 12) (hon : elemOn 64 act e = true)
    (hp : ts.any (fun t => elemPois 64 t.pois e) = false) : (modOut x fi act old ts g).fl = fNV :=
  elementwise_flags_const (g := modElem x fi g) (fun l => by rw [modElem_bad h]) (by simpa using he) hon hp

end

/-- MMUL, MADD and MSUB over pairs (R314). -/
theorem modOp_words {i : Instr} {d : Dst} {a b : Src} {m : Msk} {g : Nat → Nat → Nat → Nat → Nat}
    (hi : ∀ s, exec i s = modOp d a b m (fun q mu _ p r => g q mu p r) s) (s : State) (l t k : Nat) (ls : Lease) (x : Tile) (fi : Firing)
    (y z : Tok) (h : LaneReady s l t k ls x fi .i64 d [a, b] [y, z]) :
    let K (j : Nat) : Nat := elemAt 64 (kTok x.act fi.h).data j
    let on := activeOf (ctxOf x k) m
    let ok (q : Nat) : Prop := 2 ≤ q ∧ q < 2 ^ 62
    (kBad x fi = true → exec i s = .next (wordFault s l t k ls x (ctxOf x k) fi cPCTL 0)) ∧
    (kBad x fi = false → Gives i s fun s' => ∃ tok fl, ElemResult s s' l t k ls x fi d tok fl ∧ tok.tag = 0 ∧
      (∀ e, e < 12 → elemOn 64 on e = true →
        (ok (K 0) → elemAt 64 tok.data e = g (K 0) (K 1) (elemAt 64 y.data e) (elemAt 64 z.data e) % 2 ^ 64) ∧
        (¬ ok (K 0) → elemAt 64 tok.data e = 0)) ∧
      (ok (K 0) → fl = 0) ∧
      (¬ ok (K 0) → (∃ e, e < 12 ∧ elemOn 64 on e = true ∧ elemPois 64 (y.pois ||| z.pois) e = false) → fl = fNV)) := by
  intro K on ok
  refine ⟨fun hk => laneOp_faults ((hi s).trans (modOp_eq ..)) h (if_pos hk), fun hk => ?_⟩
  obtain ⟨s', hs', hres⟩ := laneOp_gives ((hi s).trans (modOp_eq ..)) h (if_neg (by rw [hk]; exact Bool.false_ne_true))
  rw [if_pos rfl, mergeLanes_allLanes] at hres
  refine ⟨s', hs', _, _, hres, rfl, fun e he hon => ⟨fun hok => ?_, fun hok => ?_⟩, fun hok => ?_, fun hok ⟨e, he, hon, hp⟩ => ?_⟩
  · dsimp only
    rw [modOut_elem _ _ _ _ _ _ he hon, modElem_ok hok]
    rfl
  · dsimp only
    rw [modOut_elem _ _ _ _ _ _ he hon, modElem_bad hok, Nat.zero_mod]
  · exact modOut_flags_ok hok
  · refine modOut_flags_bad hok he hon ?_
    simp [elemPois, elemLanes] at hp ⊢
    tauto

theorem elemOn_allLanes {e : Nat} (he : e < 12) : elemOn 64 allLanes e = true := by
  have h : ∀ e : Fin 12, elemOn 64 allLanes e = true := by decide
  exact h ⟨e, he⟩

/-- A lane word whose operation also changes the context. -/
theorem laneOp_run {i : Instr} {ty : ETy} {d : Dst} {srcs : List Src} {m : Msk} {whole : Bool}
    {f : Tile → Ctx → Firing → LaneMask → Tok → List Tok → Except Nat (EOut × (Ctx → Ctx))} {s : State} {l t k : Nat} {ls : Lease}
    {x : Tile} {fi : Firing} {ts : List Tok} (hi : exec i s = laneOp ty d srcs m whole f s)
    (h : LaneReady s l t k ls x fi ty d srcs ts) {o : EOut} {g : Ctx → Ctx}
    (hf : f x (ctxOf x k) fi (activeOf (ctxOf x k) m) (dstOld (ctxOf x k) d) ts = .ok (o, g)) :
    exec i s = .next (fireAt (updCtx s l t k fun c => addFlags (dstPut (g c) d
      (mergeLanes (if whole then allLanes else activeOf (ctxOf x k) m) (dstOld (ctxOf x k) d) o.data o.pois o.tag o.aux)) o.fl)
      l t k (fi.pc + 1)) := by
  obtain ⟨ht, hp, hr, hs⟩ := h
  have hrun : laneOp ty d srcs m whole f s = _ := onElem_run ht _
  rw [hp, hs] at hrun
  dsimp only at hrun
  rw [if_neg (by simp), hr, if_neg (by simp), hf] at hrun
  exact hi.trans hrun

/-- The second half of a butterfly, in the register after the first; its poison is that of the first (R314). -/
def nttbSecond (old2 : Tok) (r r2 : Payload × LaneMask × LaneMask × Flg) : Tok :=
  mergeLanes allLanes old2 r2.1 ((r.2.1 &&& r.2.2.1) ||| (old2.pois &&& ~~~r.2.2.1)) 0 0

/-- The halves of a butterfly (R216). -/
def nttbSum (q mu w p r : Nat) : Nat := mAdd q p (mMul q mu w r)
def nttbDiff (q mu w p r : Nat) : Nat := mSub q p (mMul q mu w r)

theorem nttbHalf_def (x : Tile) (fi : Firing) (f : Nat → Nat → Nat) (g : Nat → Nat → Nat → Nat → Nat → Nat)
    (h : ∀ mu w p r, g (kPair x fi 0) mu w p r = f p (mMul (kPair x fi 0) mu w r)) : modElem x fi g = fun l =>
      if mOk (kPair x fi 0) then (f (arg l 0) (mMul (kPair x fi 0) (kPair x fi 1) (kPair x fi 2) (arg l 1)), 0) else (0, fNV) := by
  funext l
  rw [modElem, h]

/-- NTTB as a lane word (R314). -/
theorem execNttb_eq (v : BitVec 4) (a b : Src) (m : Msk) (s : State) : execNttb v a b m s =
    laneOp .i64 (.v v) [a, b] m true (fun x c fi act old ts =>
      if kBad x fi then .error cPCTL
      else .ok (modOut x fi act old ts nttbSum, fun c' => dstPut c' (.v (v + 1)) (nttbSecond (dstOld c (.v (v + 1)))
        (elementwise 64 act old ts (modElem x fi nttbSum)) (elementwise 64 act (dstOld c (.v (v + 1))) ts (modElem x fi nttbDiff))))) s := by
  rw [execNttb]
  refine congrArg (fun f => laneOp .i64 (.v v) [a, b] m true f s) ?_
  refine funext fun x => funext fun c => funext fun fi => funext fun act => funext fun old => funext fun ts => ?_
  rw [modOut, nttbHalf_def x fi (mAdd (kPair x fi 0)) nttbSum fun _ _ _ _ => rfl,
    nttbHalf_def x fi (mSub (kPair x fi 0)) nttbDiff fun _ _ _ _ => rfl]
  dsimp only
  generalize elementwise 64 act old ts _ = r
  generalize elementwise 64 act (dstOld c (.v (v + 1))) ts _ = r2
  obtain ⟨data, pois, on, fl⟩ := r
  obtain ⟨data2, pois2, on2, fl2⟩ := r2
  rfl

/-- A change of the context with which its firing goes on at `pc`. -/
theorem onlyCtx_fireAt {s : State} {l t k : Nat} {ls : Lease} {x : Tile} {fi : Firing} (h : ElemTurn s l t k ls x fi) (f : Ctx → Ctx)
    (pc : Nat) : OnlyCtx s (fireAt (updCtx s l t k f) l t k pc) l t k ls x
      { f (ctxOf x k) with fire := (f (ctxOf x k)).fire.map fun fi => { fi with pc := pc, wait := .none, ord := fi.ord + 1 } } :=
  onlyCtx_upd2 (onlyCtx_upd h.lease h.tile f) _

theorem nttbSecond_elem {x : Tile} {fi : Firing} (hok : 2 ≤ kPair x fi 0 ∧ kPair x fi 0 < 2 ^ 62) (old2 y z : Tok) {e : Nat} (he : e < 12)
    (r : Payload × LaneMask × LaneMask × Flg) :
    elemAt 64 (nttbSecond old2 r (elementwise 64 allLanes old2 [y, z] (modElem x fi nttbDiff))).data e =
      nttbDiff (kPair x fi 0) (kPair x fi 1) (kPair x fi 2) (elemAt 64 y.data e) (elemAt 64 z.data e) % 2 ^ 64 := by
  rw [nttbSecond, mergeLanes_allLanes]
  dsimp only
  rw [elementwise_elem _ _ _ _ (by simpa using he) (by omega), if_pos (elemOn_allLanes he), modElem_ok hok]
  rfl

/-- Two registers written one after the other. -/
theorem twoPuts {v : BitVec 4} (hv : v.toNat < 15) (c : Ctx) (t1 t2 : Tok) (fl : Flg) :
    let c' := addFlags (dstPut (dstPut c (.v (v + 1)) t2) (.v v) t1) fl
    mget Tok.zero c'.v v.toNat = t1 ∧ mget Tok.zero c'.v (v.toNat + 1) = t2 ∧ c'.fire = c.fire := by
  have hv1 : (v + 1).toNat = v.toNat + 1 := by bv_omega
  refine ⟨mget_mset_self _ _ _ _, (mget_mset_ne _ _ _ (by omega)).trans ?_, rfl⟩
  rw [← hv1]
  exact mget_mset_self _ _ _ _

/-- The context that NTTB leaves: both halves of the butterfly (R216, R314). -/
theorem nttb_gives {v : BitVec 4} {a b : Src} {m : Msk} {s : State} {l t k : Nat} {ls : Lease} {x : Tile} {fi : Firing} {y z : Tok}
    (hv : v.toNat < 15) (h : LaneReady s l t k ls x fi .i64 (.v v) [a, b] [y, z])
    (hok : 2 ≤ kPair x fi 0 ∧ kPair x fi 0 < 2 ^ 62) (hk : kBad x fi = false) (hact : activeOf (ctxOf x k) m = allLanes) :
    Gives (.nttb v a b m) s fun s' => ∃ c', OnlyCtx s s' l t k ls x c' ∧ c'.fire = some (moved fi 1) ∧
      ∀ e, e < 12 →
        elemAt 64 (mget Tok.zero c'.v v.toNat).data e =
          mAdd (kPair x fi 0) (elemAt 64 y.data e) (mMul (kPair x fi 0) (kPair x fi 1) (kPair x fi 2) (elemAt 64 z.data e)) % 2 ^ 64 ∧
        elemAt 64 (mget Tok.zero c'.v (v.toNat + 1)).data e =
          mSub (kPair x fi 0) (elemAt 64 y.data e) (mMul (kPair x fi 0) (kPair x fi 1) (kPair x fi 2) (elemAt 64 z.data e)) % 2 ^ 64 := by
  have hrun := laneOp_run ((show exec (.nttb v a b m) s = execNttb v a b m s from rfl).trans (execNttb_eq ..)) h (if_neg (by rw [hk]; exact Bool.false_ne_true))
  rw [if_pos rfl, mergeLanes_allLanes, hact] at hrun
  have hfst : ∀ e, e < 12 → elemAt 64 (modOut x fi allLanes (dstOld (ctxOf x k) (.v v)) [y, z] nttbSum).data e =
      nttbSum (kPair x fi 0) (kPair x fi 1) (kPair x fi 2) (elemAt 64 y.data e) (elemAt 64 z.data e) % 2 ^ 64 := fun e he => by
    rw [modOut_elem _ _ _ _ _ _ he (elemOn_allLanes he), modElem_ok hok]
    rfl
  have hsnd := fun e he => nttbSecond_elem hok (dstOld (ctxOf x k) (.v (v + 1))) y z (e := e) he
    (elementwise 64 allLanes (dstOld (ctxOf x k) (.v v)) [y, z] (modElem x fi nttbSum))
  generalize modOut x fi allLanes (dstOld (ctxOf x k) (.v v)) [y, z] nttbSum = o at hrun hfst
  generalize nttbSecond _ _ _ = u at hrun hsnd
  obtain ⟨h1, h2, h3⟩ := twoPuts hv (ctxOf x k) { data := o.data, pois := o.pois, tag := o.tag, aux := o.aux, inc := 0 } u o.fl
  refine ⟨_, hrun, _, onlyCtx_fireAt h.turn _ _, ?_, fun e he => ⟨?_, ?_⟩⟩
  · dsimp only
    rw [h3, h.turn.fire]
    rfl
  · dsimp only
    rw [h1]
    exact hfst e he
  · dsimp only
    rw [h2]
    exact hsnd e he

/-- Settles O27: the arithmetic of R216 exactly, and its words over pairs. -/
theorem modularLanes : Obligations.modular_lanes := by
  intro d v a b m
  refine ⟨modOp_words (g := mMul) fun s => rfl, modOp_words (g := fun q _ p r => mAdd q p r) fun s => rfl,
    modOp_words (g := fun q _ p r => mSub q p r) fun s => rfl,
    fun q p r ⟨_, hq⟩ hp hr => ⟨mAdd_eq hq hp hr, mSub_eq hq hp hr⟩, fun q mu p r ⟨h2, hq⟩ hp hr hmu => mMul_eq h2 hq hp hr hmu,
    fun s l t k ls x fi y z hv h hok hk hact => nttb_gives hv h hok hk hact⟩

end Sys2Proof.Claims
end

section
/-! SUPPORT. Words of class 01: ports, branches, loops, barriers, the end of a firing and the control registers (R167 to R171, R316 to
R328). -/

namespace Sys2Proof.Claims

open Sys2Proof Sys2Proof.Machine

/-! ### A firing that goes on -/

section
variable {s : State} {l t k : Nat} {ls : Lease} {x : Tile} {fi : Firing} (h : ElemTurn s l t k ls x fi)
include h

/-- The firing moves to `pc` and nothing else happens. -/
theorem elemMoves_fireAt (pc : Nat) : ElemMoves s (fireAt s l t k pc) l t k ls x fi pc := by
  have honly := onlyCtx_upd h.lease h.tile (k := k) fun c =>
    { c with fire := c.fire.map fun f => { f with pc := pc, wait := .none, ord := f.ord + 1 } }
  rw [h.fire] at honly
  exact honly

/-- A word whose body moves the firing. -/
theorem elemMoves_of {i : Instr} {pc : Nat} (hrun : exec i s = .next (fireAt s l t k pc)) :
    Gives i s fun s' => ElemMoves s s' l t k ls x fi pc := ⟨_, hrun, elemMoves_fireAt h pc⟩

/-- A word whose body changes its context and moves the firing. -/
theorem onlyCtx_of {i : Instr} {f : Ctx → Ctx} {pc : Nat} {P : Ctx → Prop} (hrun : exec i s = .next (fireAt (updCtx s l t k f) l t k pc))
    (hP : P { f (ctxOf x k) with fire := (f (ctxOf x k)).fire.map fun fi => { fi with pc := pc, wait := .none, ord := fi.ord + 1 } }) :
    Gives i s fun s' => ∃ c', OnlyCtx s s' l t k ls x c' ∧ P c' := ⟨_, hrun, _, onlyCtx_fireAt h f pc, hP⟩

end

/-! ### Ports -/

theorem inPort_of_ins {c : Ctx} {m : List (Nat × InPort)} {p : Nat} {i : InPort} (h : c.ins = mput m p i) : inPort c p = i := by
  simp [inPort, mget, h]

theorem inPort_of_ins_ne {c c' : Ctx} {p j : Nat} {i : InPort} (h : c'.ins = mput c.ins p i) (hj : j ≠ p) : inPort c' j = inPort c j := by
  simp [inPort, mget, h, mfind_mput_ne _ _ hj]

theorem outPort_of_outs {c : Ctx} {m : List (Nat × OutPort)} {j : Nat} {o : OutPort} (h : c.outs = mput m j o) : outPort c j = o := by
  simp [outPort, mget, h]

theorem mget_countUp (m : List (Nat × Nat)) (p n : Nat) : mget 0 (countUp m p n) p = mget 0 m p + n := mget_mset_self _ _ _ _

theorem publish_pub (c : Ctx) (j n : Nat) (inc : BitVec 8) : (outPort (publish c j n inc) j).pub =
    (outPort c j).pub ++ (List.range n).map fun i => { mget Tok.zero (outPort c j).tail i with inc := inc } := by
  rw [outPort_of_outs (c := publish c j n inc) rfl]

section
variable {s : State} {l t k : Nat} {ls : Lease} {x : Tile} {fi : Firing} (h : ElemTurn s l t k ls x fi)
include h

/-- WAITF of a bound port (R316). -/
theorem waitf_runs {p : BitVec 3} {n : BitVec 6} (hb : bound x.act k p.toNat = true) :
    let c := ctxOf x k
    let ahead := (inPort c p.toNat).q.take n.toNat
    (depth x.act k p.toNat < n.toNat → exec (.waitf p n) s = .next (wordFault s l t k ls x c fi cOVERFLOW 0 fun r =>
      { r with port := p.toNat, cnta := n.toNat, cntb := dataAhead (inPort c p.toNat).q })) ∧
    (n.toNat ≤ depth x.act k p.toNat →
      (ahead.length = n.toNat ∨ (∃ u ∈ ahead, isData u = false) →
        Gives (.waitf p n) s fun s' => ElemMoves s s' l t k ls x fi (fi.pc + 1)) ∧
      (ahead.length ≠ n.toNat → (∀ u ∈ ahead, isData u = true) → exec (.waitf p n) s = .next s)) := by
  intro c ahead
  have hrun : execWaitf p n s = _ := onElem_run h _
  dsimp only at hrun
  rw [if_neg (by simp [hb])] at hrun
  refine ⟨fun hd => ?_, fun hd => ⟨fun hgo => ?_, fun hlen hall => ?_⟩⟩
  · rw [if_pos hd] at hrun
    exact hrun
  · rw [if_neg (by omega), if_pos (by simpa [ahead] using hgo)] at hrun
    exact elemMoves_of h hrun
  · rw [if_neg (by omega), if_neg (by simpa [ahead] using And.intro hlen hall)] at hrun
    exact hrun

/-- WAITE of a bound port (R316). -/
theorem waite_runs {o : BitVec 2} {n : BitVec 6} (hb : bound x.act k (8 + o.toNat) = true) :
    let c := ctxOf x k
    let free := outFree x.act c k o.toNat
    (depth x.act k (8 + o.toNat) < n.toNat → exec (.waite o n) s = .next (wordFault s l t k ls x c fi cOVERFLOW 0 fun r =>
      { r with port := 8 + o.toNat, cnta := n.toNat, cntb := free })) ∧
    (n.toNat ≤ depth x.act k (8 + o.toNat) →
      (n.toNat ≤ free → Gives (.waite o n) s fun s' => ElemMoves s s' l t k ls x fi (fi.pc + 1)) ∧
      (free < n.toNat → exec (.waite o n) s = .next s)) := by
  intro c free
  have hrun : execWaite o n s = _ := onElem_run h _
  dsimp only at hrun
  rw [if_neg (by simp [hb])] at hrun
  refine ⟨fun hd => ?_, fun hd => ⟨fun hgo => ?_, fun hno => ?_⟩⟩
  · rw [if_pos hd] at hrun
    exact hrun
  · rw [if_neg (by omega), if_pos hgo] at hrun
    exact elemMoves_of h hrun
  · rw [if_neg (by omega), if_neg (by simpa [free] using hno)] at hrun
    exact hrun

/-- ADV of a bound port (R169, R317). -/
theorem adv_runs {p : BitVec 3} {n : BitVec 6} (hb : bound x.act k p.toNat = true) :
    let c := ctxOf x k
    (dataAhead (inPort c p.toNat).q < n.toNat → exec (.adv p n) s = .next (wordFault s l t k ls x c fi cOVERFLOW 0 fun r =>
      { r with port := p.toNat, cnta := n.toNat, cntb := dataAhead (inPort c p.toNat).q })) ∧
    (n.toNat ≤ dataAhead (inPort c p.toNat).q → Gives (.adv p n) s fun s' => ∃ c' f, OnlyCtx s s' l t k ls x c' ∧
      c'.fire = some f ∧ f.pc = fi.pc + 1 ∧ mget 0 f.adv p.toNat = mget 0 fi.adv p.toNat + n.toNat ∧
      inPort c' p.toNat = advMany x.act k p.toNat n.toNat (inPort c p.toNat) ∧
      ∀ j, j ≠ p.toNat → inPort c' j = inPort c j) := by
  intro c
  have hrun : execAdv p n s = _ := onElem_run h _
  dsimp only at hrun
  rw [if_neg (by simp [hb])] at hrun
  refine ⟨fun hd => ?_, fun hd => ?_⟩
  · rw [if_pos hd] at hrun
    exact hrun
  · rw [if_neg (Nat.not_lt.mpr hd)] at hrun
    refine ⟨_, hrun, _, { moved fi 1 with adv := countUp fi.adv p.toNat n.toNat }, onlyCtx_fireAt h _ _, ?_, rfl, mget_countUp _ _ _, inPort_of_ins rfl,
      fun j hj => inPort_of_ins_ne (c := c) rfl hj⟩
    dsimp only
    rw [h.fire]
    rfl

/-- PUB of a bound port (R318, R321). -/
theorem pub_runs {o : BitVec 2} {n : BitVec 6} (hb : bound x.act k (8 + o.toNat) = true) :
    let c := ctxOf x k
    let free := outFree x.act c k o.toNat
    (nhas c.eosSent o.toNat = true → exec (.pub o n) s = .next (wordFault s l t k ls x c fi cSTRAY 0 fun r => { r with port := 8 + o.toNat })) ∧
    (nhas c.eosSent o.toNat = false → free < n.toNat → exec (.pub o n) s = .next (wordFault s l t k ls x c fi cOVERFLOW 0 fun r =>
      { r with port := 8 + o.toNat, cnta := n.toNat, cntb := free })) ∧
    (nhas c.eosSent o.toNat = false → n.toNat ≤ free → Gives (.pub o n) s fun s' => ∃ c' f, OnlyCtx s s' l t k ls x c' ∧
      c'.fire = some f ∧ f.pc = fi.pc + 1 ∧ mget 0 f.pub o.toNat = mget 0 fi.pub o.toNat + n.toNat ∧
      (outPort c' o.toNat).pub = (outPort c o.toNat).pub ++
        (List.range n.toNat).map fun j => { mget Tok.zero (outPort c o.toNat).tail j with inc := incOf s ls t }) := by
  intro c free
  have hrun : execPub o n s = _ := onElem_run h _
  dsimp only at hrun
  rw [if_neg (by simp [hb])] at hrun
  refine ⟨fun he => ?_, fun he hf => ?_, fun he hf => ?_⟩
  · rw [if_pos he] at hrun
    exact hrun
  · rw [if_neg (by rw [he]; exact Bool.false_ne_true), if_pos hf] at hrun
    exact hrun
  · rw [if_neg (by rw [he]; exact Bool.false_ne_true), if_neg (by simpa [free] using hf)] at hrun
    refine ⟨_, hrun, _, { moved fi 1 with pub := countUp fi.pub o.toNat n.toNat }, onlyCtx_fireAt h _ _, ?_, rfl,
      mget_countUp _ _ _, publish_pub _ _ _ _⟩
    dsimp only [publish]
    rw [h.fire]
    rfl

/-- EMIT of a bound port (R320, R321). -/
theorem emit_gives {o : BitVec 2} {a : Src} {u : Tok} (hb : bound x.act k (8 + o.toNat) = true)
    (hu : srcTok x k (ctxOf x k) fi .i32 a = .ok u) (he : nhas (ctxOf x k).eosSent o.toNat = false)
    (hf : outFree x.act (ctxOf x k) k o.toNat ≠ 0) :
    Gives (.emit o a) s fun s' => ∃ c' f, OnlyCtx s s' l t k ls x c' ∧ c'.fire = some f ∧ f.pc = fi.pc + 1 ∧
      mget 0 f.pub o.toNat = mget 0 fi.pub o.toNat + 1 ∧
      (outPort c' o.toNat).pub = (outPort (ctxOf x k) o.toNat).pub ++ [{ u with inc := incOf s ls t }] := by
  have hrun : execEmit o a s = _ := onElem_run h _
  dsimp only at hrun
  rw [if_neg (by simp [hb]), hu] at hrun
  dsimp only at hrun
  rw [if_neg (by rw [he]; exact Bool.false_ne_true), if_neg hf] at hrun
  refine ⟨_, hrun, _, { moved fi 1 with pub := countUp fi.pub o.toNat 1 }, onlyCtx_fireAt h _ _, ?_, rfl,
    mget_countUp fi.pub o.toNat 1, (publish_pub _ _ _ _).trans ?_⟩
  · dsimp only [publish, dstPut]
    rw [h.fire]
    rfl
  · rw [dstPut]
    simp [outPort, mget, mfind_mput_self]

/-- PEEK of a bound port with room (R319): what it finds. -/
theorem peek_runs {d : Dst} {p : BitVec 3} {slot : BitVec 6} (hb : bound x.act k p.toNat = true) (hd : dstBound x k d = true)
    (hf : dstFull x (ctxOf x k) k d = false) :
    (∀ u, (inPort (ctxOf x k) p.toNat).q[slot.toNat]? = some u →
      (∀ w ∈ (inPort (ctxOf x k) p.toNat).q.take (slot.toNat + 1), isData w = true) →
      Gives (.peek d p slot) s fun s' => ∃ c', OnlyCtx s s' l t k ls x c' ∧ dstOld c' d = { u with inc := 0 } ∧
        c'.pkst = 0 ∧ c'.fire = some (moved fi 1)) ∧
    (∀ u, ((inPort (ctxOf x k) p.toNat).q.take (slot.toNat + 1)).find? (fun w => !isData w) = some u →
      Gives (.peek d p slot) s fun s' => ∃ c', OnlyCtx s s' l t k ls x c' ∧
        dstOld c' d = { Tok.zero with tag := 7, aux := BitVec.ofNat 8 (u.aux.toNat % 8) } ∧
        c'.pkst = (if isEos u then 1 else 2) ∧ c'.fire = some (moved fi 1)) := by
  have hrun : execPeek d p slot s = _ := onElem_run h _
  dsimp only at hrun
  rw [if_neg (by simp [hb, hd]), hf] at hrun
  have hput : ∀ (v : Tok) (st : BitVec 2) (s' : State), exec (.peek d p slot) s = .next s' →
      s' = fireAt (updCtx s l t k fun c => { dstPut c d v with pkst := st }) l t k (fi.pc + 1) →
      Gives (.peek d p slot) s fun s' => ∃ c', OnlyCtx s s' l t k ls x c' ∧ dstOld c' d = v ∧ c'.pkst = st ∧
        c'.fire = some (moved fi 1) := by
    rintro v st s' hs rfl
    refine onlyCtx_of h hs ⟨?_, rfl, ?_⟩
    · cases d with
      | v n => exact dstPut_old (ctxOf x k) (.v n) v
      | o j => exact dstPut_old (ctxOf x k) (.o j) v
    · cases d with
      | v n => dsimp only [dstPut]; rw [h.fire]; rfl
      | o j => dsimp only [dstPut]; rw [h.fire]; rfl
  refine ⟨fun u hu hall => ?_, fun u hu => ?_⟩
  · have hnone : ((inPort (ctxOf x k) p.toNat).q.take (slot.toNat + 1)).find? (fun w => !isData w) = none :=
      List.find?_eq_none.mpr fun w hw => by simp [hall w hw]
    rw [hnone, hu] at hrun
    exact hput _ _ _ hrun rfl
  · rw [hu] at hrun
    exact hput _ _ _ hrun rfl

/-- A port word on a port that is not bound faults (R316 to R320). -/
theorem unbound_in {p : BitVec 3} {n : BitVec 6} (hb : bound x.act k p.toNat = false) :
    ∀ i ∈ [Instr.waitf p n, Instr.adv p n], exec i s = .next (wordFault s l t k ls x (ctxOf x k) fi cCONFIG 0) := by
  have hw : execWaitf p n s = _ := onElem_run h _
  have ha : execAdv p n s = _ := onElem_run h _
  dsimp only at hw ha
  rw [if_pos (by simp [hb])] at hw ha
  exact List.forall_mem_cons.mpr ⟨hw, List.forall_mem_singleton.mpr ha⟩

theorem unbound_out {o : BitVec 2} {n : BitVec 6} {a : Src} (hb : bound x.act k (8 + o.toNat) = false) :
    ∀ i ∈ [Instr.waite o n, Instr.pub o n, Instr.emit o a], exec i s = .next (wordFault s l t k ls x (ctxOf x k) fi cCONFIG 0) := by
  have hw : execWaite o n s = _ := onElem_run h _
  have hp : execPub o n s = _ := onElem_run h _
  have he : execEmit o a s = _ := onElem_run h _
  dsimp only at hw hp he
  rw [if_pos (by simp [hb])] at hw hp he
  exact List.forall_mem_cons.mpr ⟨hw, List.forall_mem_cons.mpr ⟨hp, List.forall_mem_singleton.mpr he⟩⟩

end

/-! ### EOS -/

theorem ctxOf_freeEb (x : Tile) (b : EdgeBuf) (k : Nat) : ctxOf (freeEb x b) k = ctxOf x k := by
  unfold freeEb
  dsimp only [ctxOf]
  split
  · simp only [tileWr_frame]
  · rfl

theorem ctxOf_foldl_freeEb (bs : List EdgeBuf) (x : Tile) (k : Nat) : ctxOf (bs.foldl freeEb x) k = ctxOf x k := by
  induction bs generalizing x with
  | nil => rfl
  | cons b bs ih => exact (ih _).trans (ctxOf_freeEb x b k)

/-- The context `k` of tile `t` of lease `l` is `c`. -/
def CtxIs (s : State) (l t k : Nat) (c : Ctx) : Prop := ∃ ls x, leaseOf s l = some ls ∧ tileOf ls t = some x ∧ ctxOf x k = c

section
variable {s : State} {l t k : Nat} {c : Ctx}

theorem CtxIs.upd (h : CtxIs s l t k c) (f : Ctx → Ctx) : CtxIs (updCtx s l t k f) l t k (f c) := by
  obtain ⟨ls, x, hl, ht, rfl⟩ := h
  obtain ⟨x', ⟨ls', ⟨hl', -⟩, ht', -⟩, hc, -⟩ := onlyCtx_upd hl ht (k := k) f
  exact ⟨ls', x', hl', ht', hc⟩

/-- The end of edge buffers changes no context. -/
theorem CtxIs.freeEdges (h : CtxIs s l t k c) (u j : Nat) : CtxIs (freeEdges s l u j) l t k c := by
  obtain ⟨ls, x, hl, ht, rfl⟩ := h
  have hm := mfind_mmap ls.tiles (fun v y => (y.ebs.filter fun b => (reaches ls (hopFuel ls) v (bits b.endp 5 5)).contains (u, j)).foldl freeEb y) t
  rw [show mfind ls.tiles t = some x from ht] at hm
  exact ⟨_, _, leaseOf_updLease _ hl, hm, ctxOf_foldl_freeEb _ x k⟩

theorem CtxIs.send (h : CtxIs s l t k c) (m : Msg) : CtxIs (send s l m) l t k c := by
  obtain ⟨ls, x, hl, ht, hc⟩ := h
  exact ⟨_, x, leaseOf_updLease _ hl, ht, hc⟩

/-- A done changes no context. -/
theorem CtxIs.sendDone (h : CtxIs s l t k c) (u j : Nat) : CtxIs (sendDone s l u j) l t k c := by
  obtain ⟨ls, -, hl, -⟩ := id h
  unfold Machine.sendDone
  rw [hl]
  dsimp only
  cases parentOf ls u j false with
  | none => exact h
  | some p => exact h.send _

theorem CtxIs.finishGo (h : CtxIs s l t k c) : CtxIs (finishGo s l t k) l t k { c with goOpen := false, goCnt := 0 } :=
  (h.upd _).sendDone t k

theorem ElemTurn.ctxIs {ls : Lease} {x : Tile} {fi : Firing} (h : ElemTurn s l t k ls x fi) : CtxIs s l t k (ctxOf x k) :=
  ⟨ls, x, h.lease, h.tile, rfl⟩

end

section
variable {s : State} {l t k : Nat} {ls : Lease} {x : Tile} {fi : Firing} (h : ElemTurn s l t k ls x fi)
include h

/-- EOS of one port (R321). -/
theorem eos_runs {o : BitVec 2} (hb : bound x.act k (8 + o.toNat) = true) :
    (nhas (ctxOf x k).eosSent o.toNat = true → exec (.eos (some o)) s = .next (wordFault s l t k ls x (ctxOf x k) fi cSTRAY 0 fun r =>
      { r with port := 8 + o.toNat })) ∧
    (nhas (ctxOf x k).eosSent o.toNat = false → outFree x.act (ctxOf x k) k o.toNat ≠ 0 → boundIn x.act k ≠ [] →
      Gives (.eos (some o)) s fun s' => ∃ ls' x', leaseOf s' l = some ls' ∧ tileOf ls' t = some x' ∧
        (outPort (ctxOf x' k) o.toNat).pub = (outPort (ctxOf x k) o.toNat).pub ++ [{ eosTok with inc := incOf s ls t }] ∧
        nhas (ctxOf x' k).eosSent o.toNat = true ∧ (ctxOf x' k).fire = some (moved fi 1)) := by
  have hrun : execEos (some o) s = _ := onElem_run h _
  dsimp only at hrun
  rw [List.find?_singleton, List.find?_singleton, if_neg (by simp [hb])] at hrun
  dsimp only at hrun
  refine ⟨fun he => ?_, fun he hf hin => ?_⟩
  · rw [if_pos he] at hrun
    exact hrun
  · rw [if_neg (by rw [he]; exact Bool.false_ne_true)] at hrun
    dsimp only at hrun
    rw [if_neg (by simpa using hf), if_neg (fun h => absurd h (by simp [hin])), if_neg (List.cons_ne_nil _ _)] at hrun
    obtain ⟨ls', x', hl', ht', hc'⟩ := ((h.ctxIs.upd _).freeEdges t k).upd
      fun c => { c with fire := c.fire.map fun fi' => { fi' with pc := fi.pc + 1, wait := .none, ord := fi'.ord + 1 } }
    refine ⟨_, hrun, ls', x', hl', ht', ?_, ?_, ?_⟩
    · rw [hc', outPort_of_outs (j := o.toNat) rfl]
    · rw [hc']
      exact (nhas_nadd _ _ _).trans (by simp)
    · rw [hc', List.foldl_cons, List.foldl_nil]
      dsimp only [publishTok]
      rw [h.fire]
      rfl

end

/-- Settles O28: each port word by what it finds at its port. -/
theorem portWords : Obligations.port_words := by
  intro s l t k ls x fi p o n d a h
  refine ⟨fun i hi hb => unbound_in h hb i hi, fun i hi hb => unbound_out h hb i hi,
    fun hb => ⟨(waitf_runs h hb).1, (waitf_runs h hb).2, (adv_runs h hb).1, (adv_runs h hb).2⟩, fun hb => ?_,
    fun hb hd hf slot => (peek_runs h hb hd hf).1, fun hb hd hf slot => (peek_runs h hb hd hf).2⟩
  obtain ⟨hshort, hwait⟩ := waite_runs h (n := n) hb
  obtain ⟨hstray, hfull, hpub⟩ := pub_runs h (n := n) hb
  obtain ⟨hstray', heos⟩ := eos_runs h hb
  exact ⟨hshort, fun he => ⟨hstray he, hstray' he⟩, hfull, hwait, hpub, fun u hu he hf => emit_gives h hb hu he hf, heos⟩

end Sys2Proof.Claims
end

section
/-! SUPPORT. The control of a firing: branches, loops, group barriers, its end, and the control registers (R167, R322 to R328). -/

namespace Sys2Proof.Claims

open Sys2Proof Sys2Proof.Machine

/-! ### Branches -/

/-- Lane 0 after it has been replaced. -/
theorem laneAt_setLane0 (x : Payload) (v : BitVec 32) : laneAt ((x >>> 32 <<< 32) ||| v.zeroExtend 768) 0 = v.toNat := by
  refine Nat.eq_of_testBit_eq fun i => ?_
  rw [laneAt, testBit_elemAt, BitVec.testBit_toNat]
  by_cases hi : i < 32
  · simp [hi, show i < 768 by omega]
  · simp [hi, BitVec.getLsbD_of_ge v i (by omega)]

/-- A branch target within the handler's window (R322). -/
def BranchInside (x : Tile) (fi : Firing) (off : BitVec 11) : Prop :=
  (hEntry x.act fi.h : Int) ≤ fi.pc + off.toInt ∧ fi.pc + off.toInt ≤ hWend x.act fi.h

section
variable {s : State} {l t k : Nat} {ls : Lease} {x : Tile} {fi : Firing}

theorem outside_iff (off : BitVec 11) :
    (decide ((fi.pc : Int) + off.toInt < hEntry x.act fi.h) || decide ((hWend x.act fi.h : Int) < fi.pc + off.toInt)) = true ↔
      ¬BranchInside x fi off := by
  simp only [BranchInside, Bool.or_eq_true, decide_eq_true_eq]
  omega

variable (h : ElemTurn s l t k ls x fi)
include h

/-- A word that branches goes to the target, or faults where that is outside (R322). -/
theorem branch_taken {i : Instr} {off : BitVec 11} {cond : Prop}
    (hrun : cond → exec i s = .next (branchTo s l t k ls x (ctxOf x k) fi off)) :
    (cond → BranchInside x fi off → Gives i s fun s' => ElemMoves s s' l t k ls x fi (fi.pc + off.toInt).toNat) ∧
    (cond → ¬BranchInside x fi off → exec i s = .next (wordFault s l t k ls x (ctxOf x k) fi cBRANCH 0)) := by
  refine ⟨fun hc hin => elemMoves_of h ((hrun hc).trans ?_), fun hc hout => (hrun hc).trans ?_⟩
  · rw [branchTo]
    rw [if_neg fun ho => (outside_iff off).mp ho hin]
  · rw [branchTo]
    rw [if_pos ((outside_iff off).mpr hout)]

/-- BZ (`z`) and BNZ (R322). -/
theorem branchIf_runs {i : Instr} {z : Bool} {a : Src} {off : BitVec 11} {u : Tok} (hi : exec i s = branchIf z a off s)
    (hu : srcTok x k (ctxOf x k) fi .i32 a = .ok u) :
    (u.pois.getLsbD 0 = true → exec i s = .next (wordFault s l t k ls x (ctxOf x k) fi cPCTL 0)) ∧
    (u.pois.getLsbD 0 = false →
      ((laneAt u.data 0 == 0) = z → exec i s = .next (branchTo s l t k ls x (ctxOf x k) fi off)) ∧
      ((laneAt u.data 0 == 0) ≠ z → Gives i s fun s' => ElemMoves s s' l t k ls x fi (fi.pc + 1))) := by
  have hrun : branchIf z a off s = _ := onElem_run h _
  rw [← hi, hu] at hrun
  dsimp only at hrun
  refine ⟨fun hp => ?_, fun hp => ⟨fun hz => ?_, fun hz => ?_⟩⟩
  · rw [if_pos hp] at hrun
    exact hrun
  · rw [if_neg (by rw [hp]; exact Bool.false_ne_true), if_pos (by simpa using hz)] at hrun
    exact hrun
  · rw [if_neg (by rw [hp]; exact Bool.false_ne_true), if_neg (by simpa using hz)] at hrun
    exact elemMoves_of h hrun

/-- LOOP (R323). -/
theorem loop_runs {d : BitVec 4} {off : BitVec 11} :
    let tk := mget Tok.zero (ctxOf x k).v d.toNat
    let n := (BitVec.ofNat 32 (laneAt tk.data 0)).toInt
    (tk.pois.getLsbD 0 = true → exec (.loop d off) s = .next (wordFault s l t k ls x (ctxOf x k) fi cPCTL 0)) ∧
    (tk.pois.getLsbD 0 = false →
      (1 < n → ¬BranchInside x fi off → exec (.loop d off) s = .next (wordFault s l t k ls x (ctxOf x k) fi cBRANCH 0)) ∧
      ((n ≤ 1 ∨ BranchInside x fi off) → Gives (.loop d off) s fun s' => ∃ c', OnlyCtx s s' l t k ls x c' ∧
        laneAt (mget Tok.zero c'.v d.toNat).data 0 = (BitVec.ofInt 32 (if 1 < n then n - 1 else 0)).toNat ∧
        c'.fire = some { moved fi 0 with pc := if 1 < n then (fi.pc + off.toInt).toNat else fi.pc + 1 })) := by
  intro tk n
  have hrun : execLoop d off s = _ := onElem_run h _
  dsimp only at hrun
  have hset : ∀ (v : BitVec 32) (pc : Nat), exec (.loop d off) s = .next (fireAt (updCtx s l t k fun c => setLane0 c d v) l t k pc) →
      Gives (.loop d off) s fun s' => ∃ c', OnlyCtx s s' l t k ls x c' ∧
        laneAt (mget Tok.zero c'.v d.toNat).data 0 = v.toNat ∧ c'.fire = some { moved fi 0 with pc := pc } := by
    intro v pc hs
    refine onlyCtx_of h hs ⟨?_, ?_⟩
    · exact (congrArg (fun u : Tok => laneAt u.data 0) (mget_mset_self _ _ _ _)).trans (laneAt_setLane0 _ v)
    · dsimp only [setLane0, dstPut]
      rw [h.fire]
      rfl
  refine ⟨fun hp => ?_, fun hp => ⟨fun hn hout => ?_, fun hor => ?_⟩⟩
  · rw [if_pos hp] at hrun
    exact hrun
  · rw [if_neg (by rw [hp]; exact Bool.false_ne_true), if_pos hn, if_pos ((outside_iff off).mpr hout)] at hrun
    exact hrun
  · rw [if_neg (by rw [hp]; exact Bool.false_ne_true)] at hrun
    by_cases hn : 1 < n
    · have hin : BranchInside x fi off := hor.resolve_left (by omega)
      rw [if_pos hn, if_neg fun ho => (outside_iff off).mp ho hin] at hrun
      rw [if_pos hn, if_pos hn]
      exact hset _ _ hrun
    · rw [if_neg hn] at hrun
      rw [if_neg hn, if_neg hn]
      exact hset _ _ hrun

/-! ### Barriers, traps and words that are no operation -/

/-- GBAR (R177, R324): the arrival, and the wait for the generation. -/
theorem gbar_runs {g : BitVec 8} :
    let e := mget (⟨0, 0, 0⟩ : Group) ls.groups (grpKey t g.toNat)
    ((∀ g' gen, fi.wait ≠ .gbar g' gen) →
      (e.count = 0 ∨ g.toNat ∉ ctxGroups x.act k → exec (.gbar g) s = .next (wordFault s l t k ls x (ctxOf x k) fi cCONFIG 0)) ∧
      (e.count ≠ 0 → g.toNat ∈ ctxGroups x.act k → Gives (.gbar g) s fun s' => ∃ ls' x', leaseOf s' l = some ls' ∧
        ls'.msgs = ls.msgs ++ [⟨.arrival, t, k, g.toNat⟩] ∧ tileOf ls' t = some x' ∧
        (ctxOf x' k).fire = some { fi with wait := .gbar g.toNat e.gen })) ∧
    (∀ g' gen, fi.wait = .gbar g' gen → (⟨.arrival, t, k, g.toNat⟩ : Msg) ∉ ls.msgs →
      (e.gen = gen → exec (.gbar g) s = .next s) ∧
      (e.gen ≠ gen → Gives (.gbar g) s fun s' => ElemMoves s s' l t k ls x fi (fi.pc + 1))) := by
  intro e
  have hrun : execGbar g s = _ := onElem_run h _
  dsimp only at hrun
  refine ⟨fun hw => ?_, fun g' gen hw hm => ?_⟩
  · have hfresh : execGbar g s = .next (if (e.count = 0 || !(ctxGroups x.act k).contains g.toNat) = true
        then wordFault s l t k ls x (ctxOf x k) fi cCONFIG 0
        else updCtx (send s l ⟨.arrival, t, k, g.toNat⟩) l t k fun c =>
          { c with fire := c.fire.map fun f => { f with wait := .gbar g.toNat e.gen } }) := by
      rw [hrun]
      split
      · next hg => exact absurd hg (hw _ _)
      · rfl
    refine ⟨fun hbad => ?_, fun hc hin => ?_⟩
    · rw [if_pos (by simpa using hbad)] at hfresh
      exact hfresh
    · rw [if_neg (by simp [hc, hin])] at hfresh
      have hm := onlyCtx_upd (k := k) (leaseOf_updLease (fun ls => { ls with msgs := ls.msgs ++ [⟨.arrival, t, k, g.toNat⟩] }) h.lease)
        h.tile fun c => { c with fire := c.fire.map fun f => { f with wait := .gbar g.toNat e.gen } }
      obtain ⟨x', ⟨ls', ⟨hl', -⟩, ht', -, hls'⟩, hc', -⟩ := hm
      refine ⟨_, hfresh, ls', x', hl', ?_, ht', ?_⟩
      · rw [hls']
      · rw [hc']
        dsimp only
        rw [h.fire]
        rfl
  · rw [hw] at hrun
    dsimp only at hrun
    rw [if_neg (by simpa using hm)] at hrun
    refine ⟨fun hgen => ?_, fun hgen => ?_⟩
    · rw [if_pos hgen] at hrun
      exact hrun
    · rw [if_neg hgen] at hrun
      exact elemMoves_of h hrun

/-- Words that only fault (R235, R244, R325). -/
theorem faulting_words (code : BitVec 8) (w : Word) :
    exec (.elementTrap code) s = .next (wordFault s l t k ls x (ctxOf x k) fi cTRAP 0 fun r => { r with code := code.toNat }) ∧
    exec (.nonInstr w) s = .next (wordFault s l t k ls x (ctxOf x k) fi cNONINSTR 0) ∧
    exec (.illegalOp w) s = .next (wordFault s l t k ls x (ctxOf x k) fi cILLEGAL 0) := by
  have htrap : execElementTrap code s = _ := onElem_run h _
  have hnon : execNonInstr w s = _ := onElem_run h _
  refine ⟨htrap, hnon, ?_⟩
  show execIllegalOp w s = _
  rw [execIllegalOp, h.cur]
  exact onElem_run h _

end

/-! ### The end of a firing -/

/-- The counts of a firing are those of its handler's rates (R167). -/
def RatesMet (x : Plane) (fi : Firing) : Prop := (∀ i, i < 8 → mget 0 fi.adv i = hCR x fi.h i) ∧ ∀ j, j < 4 → mget 0 fi.pub j = hPR x fi.h j

theorem rateBad_none {x : Plane} {fi : Firing} : rateBad x fi = none ↔ RatesMet x fi := by
  simp [rateBad, RatesMet, List.find?_eq_none]

theorem rateBad_some {x : Plane} {fi : Firing} {p n r : Nat} (h : rateBad x fi = some (p, n, r)) : n ≠ r := by
  simpa using List.find?_some h

section
variable {s : State} {l t k : Nat} {ls : Lease} {x : Tile} {fi : Firing} (h : ElemTurn s l t k ls x fi)
include h

/-- EXIT with the rates met ends the firing (R167, R326). -/
theorem exit_ends (hm : RatesMet x.act fi) : exec .exit s = .next (endFiring s l t k x fi) := by
  have hrun : execExit s = _ := onElem_run h _
  have hnone : (if fi.noRate = true then none else rateBad x.act fi) = none := by
    rw [rateBad_none.mpr hm, ite_self]
  rw [hnone] at hrun
  exact hrun

/-- EXIT with a count that differs faults (R167). -/
theorem exit_faults (hr : fi.noRate = false) (hm : ¬RatesMet x.act fi) :
    ∃ p n r, exec .exit s = .next (wordFault s l t k ls x (ctxOf x k) fi cRATE 0 fun q => { q with port := p, cnta := n, cntb := r }) ∧ n ≠ r := by
  have hrun : execExit s = _ := onElem_run h _
  rw [if_neg (by rw [hr]; exact Bool.false_ne_true)] at hrun
  cases hb : rateBad x.act fi with
  | none => exact absurd (rateBad_none.mp hb) hm
  | some e =>
    obtain ⟨p, n, r⟩ := e
    rw [hb] at hrun
    exact ⟨p, n, r, hrun, rateBad_some hb⟩

/-- What the end of a firing does to its context (R166, R174, R326). -/
theorem endFiring_runs :
    let c := ctxOf x k
    ((gated x.act k = false ∨ c.goOpen = false ∨ fi.h ≠ doneH x.act k) →
      ∃ c', OnlyCtx s (endFiring s l t k x fi) l t k ls x c' ∧ c'.fire = none ∧ c'.lastFired = mput c.lastFired (hPrio x.act fi.h) fi.h) ∧
    (gated x.act k = true → c.goOpen = true → fi.h = doneH x.act k →
      (c.goCnt + 1 < c.goLeft → ∃ c', OnlyCtx s (endFiring s l t k x fi) l t k ls x c' ∧ c'.fire = none ∧
        c'.lastFired = mput c.lastFired (hPrio x.act fi.h) fi.h ∧ c'.goCnt = c.goCnt + 1 ∧ c'.goOpen = true) ∧
      (c.goLeft ≤ c.goCnt + 1 → ∃ ls' x', leaseOf (endFiring s l t k x fi) l = some ls' ∧ tileOf ls' t = some x' ∧
        (ctxOf x' k).fire = none ∧ (ctxOf x' k).lastFired = mput c.lastFired (hPrio x.act fi.h) fi.h ∧ (ctxOf x' k).goOpen = false)) := by
  intro c
  have hend := onlyCtx_upd h.lease h.tile (k := k) fun c => { c with fire := .none, lastFired := mput c.lastFired (hPrio x.act fi.h) fi.h }
  rw [endFiring]
  refine ⟨fun hno => ?_, fun hg ho hh => ⟨fun hlt => ?_, fun hle => ?_⟩⟩
  · rw [if_neg (by rcases hno with hno | hno | hno <;> simp [c, hno])]
    exact ⟨_, hend, rfl, rfl⟩
  · rw [if_pos (by simp [c, hg, ho, hh]), if_neg (by simpa [c] using hlt)]
    exact ⟨_, onlyCtx_upd2 hend _, rfl, rfl, rfl, ho⟩
  · rw [if_pos (by simp [c, hg, ho, hh]), if_pos hle]
    obtain ⟨ls', x', hl', ht', hc'⟩ := (h.ctxIs.upd _).finishGo
    refine ⟨ls', x', hl', ht', ?_⟩
    rw [hc']
    exact ⟨rfl, rfl, rfl⟩

end

/-! ### Control registers -/

/-- The number of a counter that the tile has, or of another register. -/
theorem cregAbsent_false {ls : Lease} {t n : Nat} (h : n < 4 ∨ 9 < n ∨ kindOf ls t = 3) : cregAbsent ls t n = false := by
  rcases h with h | h | h
  · simp [cregAbsent, h]
  · have : ¬n ≤ 9 := by omega
    simp [cregAbsent, this]
  · simp [cregAbsent, h]

theorem creg_counter (ls : Lease) (x : Tile) (t k : Nat) (c : Ctx) {j : Nat} (hj : j < 10) :
    creg ls x t k c j = if cKind x.act = 0 then 0 else (mget (0 : Word) x.ctr j).toNat := by
  unfold creg
  rw [if_pos hj]

theorem creg_mask (ls : Lease) (x : Tile) (t k : Nat) (c : Ctx) {j : Nat} (hj : j < 4) :
    creg ls x t k c (0x10 + j) = (mget (0 : LaneMask) c.m j).toNat := by
  unfold creg
  rw [if_neg (by omega), if_pos (by simp; omega), Nat.add_sub_cancel_left]

theorem creg_miss (ls : Lease) (x : Tile) (t k : Nat) (c : Ctx) {i : Nat} (hi : i < 16) :
    creg ls x t k c (0x30 + i) = if hCtx x.act i = k then mget 0 c.miss i else 0 := by
  unfold creg
  rw [if_neg (by omega), if_neg (by simp; omega), if_pos (by simp; omega), Nat.add_sub_cancel_left]

theorem cregWr_mask (x : Tile) (k : Nat) (c : Ctx) (v : Nat) {j : Nat} (hj : j < 4) :
    cregWr x k c (0x10 + j) v = { c with m := mset 0 c.m j (BitVec.ofNat 24 v) } := by
  unfold cregWr
  rw [if_pos (by simp; omega), Nat.add_sub_cancel_left]

theorem cregWr_miss (x : Tile) (k : Nat) (c : Ctx) (v : Nat) {i : Nat} (hi : i < 16) (hk : hCtx x.act i = k) :
    cregWr x k c (0x30 + i) v = { c with miss := mset 0 c.miss i (v % 2 ^ 16) } := by
  unfold cregWr
  rw [if_neg (by simp; omega), if_pos (by simp; omega), Nat.add_sub_cancel_left, if_pos hk]

theorem mmod_congr {α : Type} {m : List (Nat × α)} {k : Nat} {v : α} {f g : α → α} (h : mfind m k = some v) (hfg : f v = g v) :
    mmod m k f = mmod m k g := by
  unfold mmod
  rw [h]
  dsimp only
  rw [hfg]

/-- Two changes of a context that agree on it are one. -/
theorem updCtx_congr {s : State} {l t k : Nat} {ls : Lease} {x : Tile} {f g : Ctx → Ctx} (hl : leaseOf s l = some ls)
    (ht : tileOf ls t = some x) (h : f (ctxOf x k) = g (ctxOf x k)) : updCtx s l t k f = updCtx s l t k g := by
  refine congrArg (fun m => { s with leases := m }) (mmod_congr (show mfind s.leases l = some ls from hl) ?_)
  refine congrArg (fun m => { ls with tiles := m }) (mmod_congr (show mfind ls.tiles t = some x from ht) ?_)
  rw [h]

theorem addFlags_zero (c : Ctx) : addFlags c 0 = c := by simp [addFlags]

section
variable {s : State} {l t k : Nat} {ls : Lease} {x : Tile} {fi : Firing} (h : ElemTurn s l t k ls x fi)
include h

/-- RDCT of a register that is there (R327, R328). -/
theorem rdct_gives {d : Dst} {n : BitVec 11} {v : Nat} (habs : cregAbsent ls t n.toNat = false)
    (hv : creg ls x t k (ctxOf x k) n.toNat = v) (hb : dstBound x k d = true) (hf : dstFull x (ctxOf x k) k d = false) :
    Gives (.rdct d n) s fun s' => ElemResult s s' l t k ls x fi d { Tok.zero with data := BitVec.ofNat 768 (v % 2 ^ 32) } 0 := by
  have hrun : execRdct d n s = _ := onElem_run h _
  rw [habs, hb, hf, updCtx_congr h.lease h.tile (g := fun c =>
    dstPut c d { Tok.zero with data := BitVec.ofNat 768 (v % 2 ^ 32) }) (by rw [hv])] at hrun
  have hres := elemResult_of (d := d) (tok := { Tok.zero with data := BitVec.ofNat 768 (v % 2 ^ 32) }) (fl := 0) h
  simp only [addFlags_zero] at hres
  exact ⟨_, hrun, hres⟩

/-- A read of one register (R327, R328). -/
theorem rdct_reads {d : Dst} {n : BitVec 11} {m v : Nat} (habs : m < 4 ∨ 9 < m ∨ kindOf ls t = 3)
    (hv : creg ls x t k (ctxOf x k) m = v) :
    n.toNat = m → dstBound x k d = true → dstFull x (ctxOf x k) k d = false →
      Gives (.rdct d n) s fun s' => ElemResult s s' l t k ls x fi d { Tok.zero with data := BitVec.ofNat 768 (v % 2 ^ 32) } 0 := by
  rintro rfl hb hf
  exact rdct_gives h (cregAbsent_false habs) hv hb hf

/-- CTRW with a poisoned lane 0 faults (R327). -/
theorem ctrw_faults {a : Src} {n : BitVec 11} {u : Tok} (hu : srcTok x k (ctxOf x k) fi .i32 a = .ok u) (hp : u.pois.getLsbD 0 = true) :
    exec (.ctrw a n) s = .next (wordFault s l t k ls x (ctxOf x k) fi cPCTL 0) := by
  have hrun : execCtrw a n s = _ := onElem_run h _
  rw [hu] at hrun
  dsimp only at hrun
  rw [if_pos hp] at hrun
  exact hrun

/-- A write of one register (R327, R328). -/
theorem ctrw_writes {a : Src} {n : BitVec 11} {u : Tok} (hu : srcTok x k (ctxOf x k) fi .i32 a = .ok u) (hp : u.pois.getLsbD 0 = false)
    {m : Nat} {c1 : Ctx} {P : Ctx → Prop} (hw : cregWr x k (ctxOf x k) m (laneAt u.data 0) = c1)
    (hframe : c1 = { ctxOf x k with m := c1.m, estat := c1.estat, hmask := c1.hmask, skip := c1.skip, miss := c1.miss })
    (hP : P { c1 with fire := some (moved fi 1) }) :
    n.toNat = m → Gives (.ctrw a n) s fun s' => ∃ c', OnlyCtx s s' l t k ls x c' ∧ P c' ∧
      c' = { ctxOf x k with m := c'.m, estat := c'.estat, hmask := c'.hmask, skip := c'.skip, miss := c'.miss, fire := some (moved fi 1) } := by
  rintro rfl
  have hrun : execCtrw a n s = _ := onElem_run h _
  rw [hu] at hrun
  dsimp only at hrun
  rw [if_neg (by rw [hp]; exact Bool.false_ne_true)] at hrun
  have honly := onlyCtx_fireAt h (fun c => cregWr x k c n.toNat (laneAt u.data 0)) (fi.pc + 1)
  have hfire : c1.fire = some fi := by rw [hframe]; exact h.fire
  rw [hw, hfire] at honly
  exact ⟨_, hrun, _, honly, hP, by rw [hframe]; rfl⟩

end

/-- BZ and BNZ as the obligation states them (R322). -/
theorem branches_run {s : State} {l t k : Nat} {ls : Lease} {x : Tile} {fi : Firing} (h : ElemTurn s l t k ls x fi) {a : Src}
    {off : BitVec 11} {u : Tok} (hu : srcTok x k (ctxOf x k) fi .i32 a = .ok u) :
    let c := ctxOf x k
    let taken (i : Instr) (cond : Prop) : Prop :=
      (cond → BranchInside x fi off → Gives i s fun s' => ElemMoves s s' l t k ls x fi (fi.pc + off.toInt).toNat) ∧
      (cond → ¬BranchInside x fi off → exec i s = .next (wordFault s l t k ls x c fi cBRANCH 0))
    (u.pois.getLsbD 0 = true → exec (.bz a off) s = .next (wordFault s l t k ls x c fi cPCTL 0) ∧
      exec (.bnz a off) s = .next (wordFault s l t k ls x c fi cPCTL 0)) ∧
    (u.pois.getLsbD 0 = false →
      taken (.bz a off) (laneAt u.data 0 = 0) ∧ taken (.bnz a off) (laneAt u.data 0 ≠ 0) ∧
      (laneAt u.data 0 ≠ 0 → Gives (.bz a off) s fun s' => ElemMoves s s' l t k ls x fi (fi.pc + 1)) ∧
      (laneAt u.data 0 = 0 → Gives (.bnz a off) s fun s' => ElemMoves s s' l t k ls x fi (fi.pc + 1))) := by
  obtain ⟨hz, hz'⟩ := branchIf_runs h (show exec (.bz a off) s = branchIf true a off s from rfl) hu
  obtain ⟨hn, hn'⟩ := branchIf_runs h (show exec (.bnz a off) s = branchIf false a off s from rfl) hu
  refine ⟨fun hp => ⟨hz hp, hn hp⟩, fun hp => ⟨branch_taken h fun hc => (hz' hp).1 ?_, branch_taken h fun hc => (hn' hp).1 ?_,
    fun hc => (hz' hp).2 ?_, fun hc => (hn' hp).2 ?_⟩⟩
  all_goals simp [hc]

/-- Settles O29: the control of a firing word by word, then the control registers one by one. -/
theorem firingControl : Obligations.firing_control := by
  refine ⟨fun s l t k ls x fi a off d g code h => ⟨?nop, ?br, fun u hu => branches_run h hu, (loop_runs h).1, (loop_runs h).2,
    (gbar_runs h).1, (gbar_runs h).2, (faulting_words h code 0).1, fun w => (faulting_words h code w).2, ?exit, ?gated, ?rates⟩,
    fun s l t k ls x fi d a n h => ⟨?absent, ?counters, fun j hj => ?masks, ?_, ?_, ?_, ?_, ?_, ?_, ?_, ?_, fun i hi => ?miss,
      fun u hu => ⟨ctrw_faults h hu, fun hp => ⟨fun j hj => ?wmask, ?westat, ?whmask, ?wskip, fun i hi hk => ?wmiss⟩⟩⟩⟩
  case nop =>
    have hrun : execElementNop s = _ := onElem_run h _
    exact elemMoves_of h hrun
  case br =>
    have hrun : execBr off s = _ := onElem_run h _
    exact branch_taken h fun _ => hrun
  case exit =>
    intro ha hp hno
    exact ⟨_, exit_ends h ⟨ha, hp⟩, (endFiring_runs h).1 hno⟩
  case gated =>
    intro ha hp hg ho hh
    obtain ⟨hgo, hdone⟩ := (endFiring_runs h).2 hg ho hh
    exact ⟨fun hlt => ⟨_, exit_ends h ⟨ha, hp⟩, hgo hlt⟩, fun hle => ⟨_, exit_ends h ⟨ha, hp⟩, hdone hle⟩⟩
  case rates =>
    intro hr hbad
    refine exit_faults h hr fun ⟨ha, hp⟩ => ?_
    rcases hbad with ⟨i, hi, hne⟩ | ⟨j, hj, hne⟩
    · exact hne (ha i hi)
    · exact hne (hp j hj)
  case absent =>
    intro h4 h9 hk
    have hrun : execRdct d n s = _ := onElem_run h _
    rw [if_pos (by simp [cregAbsent, h4, h9, hk])] at hrun
    exact hrun
  case counters => exact fun j hj hor => rdct_reads h (hor.imp_right .inr) (creg_counter _ _ _ _ _ hj)
  case masks => exact rdct_reads h (.inr (.inl (by omega))) (creg_mask _ _ _ _ _ hj)
  case miss => exact rdct_reads h (.inr (.inl (by omega))) (creg_miss _ _ _ _ _ hi)
  case wmask => exact ctrw_writes h hu hp (cregWr_mask _ _ _ _ hj) rfl (mget_mset_self _ _ _ _)
  case wmiss => exact ctrw_writes h hu hp (cregWr_miss _ _ _ _ hi hk) rfl (mget_mset_self _ _ _ _)
  case westat => exact ctrw_writes h hu hp rfl rfl rfl
  case whmask => exact ctrw_writes h hu hp rfl rfl rfl
  case wskip => exact ctrw_writes h hu hp rfl rfl rfl
  all_goals exact rdct_reads h (.inr (.inl (by omega))) rfl

end Sys2Proof.Claims
end

section
/-! SUPPORT. The fault of a word (R384, R385) and the words of matrix tiles (R351 to R357). -/

namespace Sys2Proof.Claims

open Sys2Proof Sys2Proof.Machine

/-! ### A fault of a word -/

/-- A record of a tile of a replica is not written (R418). -/
theorem raise_replica {s : State} {l t : Nat} {r : FRec} (hr : r.tile = some t) (ht : replicaBase ≤ t) : raise s l r = s := by
  unfold raise
  cases leaseOf s l with
  | none => rfl
  | some ls => rw [hr]; exact if_pos (decide_eq_true ht)

/-- A record touches no memory. -/
theorem raise_mem (s : State) (l : Nat) (r : FRec) : (raise s l r).mem = s.mem := by
  have hc : ∀ t c, (countPoison s t c).mem = s.mem := by
    intro t c
    unfold countPoison
    split <;> rfl
  unfold raise
  cases leaseOf s l with
  | none => rfl
  | some ls =>
    cases r.tile with
    | none => exact hc _ _
    | some t =>
      dsimp only
      split
      · rfl
      · exact hc _ _

/-- The record of a fault of a word (R385). -/
def faultRec (ls : Lease) (x : Tile) (t k : Nat) (c : Ctx) (fi : Firing) (cause faddr : Nat) : FRec :=
  { FRec.zero with
    source := 1, cause := cause, opidx := fi.pc, ctx := k, handler := fi.h, tile := some t, opword := curWord x fi,
    cfgid := 7 * 2 ^ 28 + keyRow ls t * 2 ^ 20 + keyCol ls t * 2 ^ 12 + fi.pc,
    faddr := faddr, ports := portFill c, freezes := true }

theorem wordFault_eq (s : State) (l t k : Nat) (ls : Lease) (x : Tile) (c : Ctx) (fi : Firing) (cause faddr : Nat) :
    wordFault s l t k ls x c fi cause faddr =
      raise (updCtx s l t k fun c => { c with frozen := some (.firing, 0) }) l (faultRec ls x t k c fi cause faddr) := rfl

/-- Settles O30: the context freezes, and the record waits at its source unless the tile is of a replica. -/
theorem elementFaultFreezes : Obligations.element_fault_freezes := by
  intro s l t k ls x fi cause faddr h
  obtain ⟨x', ⟨ls', ⟨hl', -, hs⟩, ht', -, hls'⟩, hc, hco, -⟩ := onlyCtx_upd h.lease h.tile (k := k)
    fun c => { c with frozen := some (.firing, 0) }
  have hseq : ls'.seq = ls.seq := by rw [hls']
  have hrecs : ls'.recs = ls.recs := by rw [hls']
  rw [wordFault_eq]
  by_cases hr : replicaBase ≤ t
  · rw [raise_replica rfl hr]
    exact ⟨ls', x', hl', ht', hc, hco, hseq, by rw [hs], fun hlt => absurd hlt (Nat.not_lt.mpr hr), fun _ => hrecs⟩
  · have hraise := leaseOf_raise hl' (faultRec ls x t k (ctxOf x k) fi cause faddr) fun u hu => by
      rw [← Option.some.inj hu]; exact Nat.not_le.mp hr
    obtain ⟨w, hw⟩ := hraise
    refine ⟨_, x', hw, ht', hc, hco, hseq, (raise_mem _ _ _).trans (by rw [hs]), fun _ => ?_, fun hge => absurd hge hr⟩
    exact ⟨_, congrArg (· ++ _) hrecs, rfl, rfl, rfl, rfl, rfl, rfl, rfl, rfl, rfl⟩

/-! ### The state of a matrix tile -/

/-- The matrix state of tile `t` satisfies `P`, and its context has moved on. -/
def MatIs (s : State) (l t k : Nat) (fi : Firing) (P : MState → Prop) : Prop :=
  ∃ ls x, leaseOf s l = some ls ∧ tileOf ls t = some x ∧ P x.mat ∧ (ctxOf x k).fire = some (moved fi 1)

section
variable {s : State} {l t k : Nat} {ls : Lease} {x : Tile} {fi : Firing}

theorem matIs_matDone (h : ElemTurn s l t k ls x fi) {m : MState} {P : MState → Prop} (hP : P m) : MatIs (matDone s l t k fi m) l t k fi P := by
  have hl := leaseOf_updLease (fun ls => { ls with tiles := mmod ls.tiles t fun x => { x with mat := m } }) h.lease
  have ht := mfind_mmod_self ls.tiles t (fun x => { x with mat := m }) x h.tile
  obtain ⟨x', ⟨ls', ⟨hl', -⟩, ht', -⟩, hc, -, hx⟩ := onlyCtx_upd (k := k) hl ht fun c =>
    { c with fire := c.fire.map fun f => { f with pc := fi.pc + 1, wait := .none, ord := f.ord + 1 } }
  refine ⟨ls', x', hl', ht', ?_, ?_⟩
  · rw [hx]
    exact hP
  · rw [hc]
    exact congrArg (Option.map _) h.fire

/-- Flags leave the matrix state. -/
theorem MatIs.flags {P : MState → Prop} (h : MatIs s l t k fi P) (fl : Flg) :
    MatIs (updCtx s l t k fun c => addFlags c fl) l t k fi P := by
  obtain ⟨ls, x, hl, ht, hP, hf⟩ := h
  obtain ⟨x', ⟨ls', ⟨hl', -⟩, ht', -⟩, hc, -, hx⟩ := onlyCtx_upd (k := k) hl ht fun c => addFlags c fl
  refine ⟨ls', x', hl', ht', ?_, ?_⟩
  · rw [hx]
    exact hP
  · rw [hc]
    exact hf

end

/-! ### Tables written place by place -/

theorem mfind_filter {α : Type} (m : List (Nat × α)) (p : Nat → Bool) (k : Nat) :
    mfind (m.filter fun e => p e.1) k = if p k then mfind m k else none := by
  induction m with
  | nil => simp [mfind]
  | cons e m ih =>
    obtain ⟨j, v⟩ := e
    by_cases hj : p j = true
    · rw [List.filter_cons, if_pos hj, mfind, mfind, ih]
      by_cases hjk : j = k
      · subst hjk; simp [hj]
      · simp [hjk]
    · rw [List.filter_cons, if_neg hj, ih, mfind]
      by_cases hjk : j = k
      · subst hjk; simp [hj]
      · simp [hjk]

theorem nhas_filter (s : NSet) (p : Nat → Bool) (k : Nat) : nhas (s.filter p) k = (p k && nhas s k) := by
  rw [Bool.eq_iff_iff]
  simp [nhas, and_comm]

theorem nhas_foldl_nadd (f : Nat → Nat) (l : List Nat) (s : NSet) (k : Nat) :
    nhas (l.foldl (fun q j => nadd q (f j)) s) k = (nhas s k || l.any fun j => f j == k) := by
  induction l generalizing s with
  | nil => simp
  | cons j l ih => rw [List.foldl_cons, ih, nhas_nadd, List.any_cons, ← Bool.or_assoc, Bool.or_comm (f j == k)]

section
variable {α : Type} [DecidableEq α] (d : α)

theorem mget_foldl_mset_ne (key : Nat → Nat) (v : Nat → α) (l : List Nat) (m : List (Nat × α)) {q : Nat} (h : ∀ i ∈ l, key i ≠ q) :
    mget d (l.foldl (fun m i => mset d m (key i) (v i)) m) q = mget d m q := by
  induction l generalizing m with
  | nil => rfl
  | cons i l ih =>
    rw [List.foldl_cons, ih _ fun j hj => h j (List.mem_cons_of_mem _ hj), mget_mset_ne _ _ _ (h i (List.mem_cons_self ..)).symm]

theorem mget_foldl_mset {key : Nat → Nat} (hkey : ∀ i j, key i = key j → i = j) (v : Nat → α) {l : List Nat} (m : List (Nat × α)) {i : Nat}
    (hi : i ∈ l) : mget d (l.foldl (fun m i => mset d m (key i) (v i)) m) (key i) = v i := by
  induction l generalizing m with
  | nil => exact absurd hi (List.not_mem_nil)
  | cons j l ih =>
    rw [List.foldl_cons]
    by_cases hmem : i ∈ l
    · exact ih _ hmem
    · obtain rfl : i = j := (List.mem_cons.mp hi).resolve_right hmem
      rw [mget_foldl_mset_ne d key v l _ fun j hj he => hmem (by rw [← hkey _ _ he]; exact hj), mget_mset_self]

end

theorem bits_zero (x n : Nat) : bits x 0 n = x % 2 ^ n := by rw [bits_eq, Nat.pow_zero, Nat.div_one]

/-- The values of the places below `n`, each with its place. -/
theorem zipIdx_range {α : Type} (g : Nat → α) (n : Nat) : ((List.range n).map g).zipIdx = (List.range n).map fun j => (g j, j) :=
  List.ext_getElem (by simp) fun i _ _ => by simp

/-- What MMA and MMAI do with their A blocks, each with the number of its K-block. -/
def mmaState (s : State) (l t k : Nat) (x : Tile) (fi : Firing) (step : Macro → Nat → Nat → Nat × Flg → Nat × Tok → Nat × Flg)
    (w n : Nat) (blocks : List (Nat × Tok)) : State :=
  let m := x.mat.act
  let bank := 192 * n
  let bad := blocks.any fun e => e.2.pois != 0 || m.pois.getLsbD e.1
  let rs := (List.range 192).map fun j => blocks.foldl (step m w j) ((mget (0 : Word) x.mat.acc (bank + j)).toNat, (0 : Flg))
  let acc := (rs.zipIdx).foldl (fun q e => mset 0 q (bank + e.2) (BitVec.ofNat 32 e.1.1)) x.mat.acc
  let ps := if bad then (List.range 192).foldl (fun q j => nadd q (bank + j)) x.mat.accPois else x.mat.accPois
  let fl := if bad then 0 else orFlags ((rs.zipIdx).map fun e => if nhas x.mat.accPois (bank + e.2) then 0 else e.1.2)
  updCtx (matDone s l t k fi { x.mat with acc := acc, accPois := ps }) l t k fun c => addFlags c fl

section
variable {s : State} {l t k : Nat} {ls : Lease} {x : Tile} {fi : Firing} (h : ElemTurn s l t k ls x fi)
include h

theorem wswp_gives : Gives .wswp s fun s' => MatIs s' l t k fi fun m => m = { x.mat with act := x.mat.ld, ld := x.mat.act } := by
  have hrun : execWswp s = _ := onElem_run h _
  exact ⟨_, hrun, matIs_matDone h rfl⟩

/-- ACCL clears its bank and keeps the others (R357). -/
theorem accl_gives {n : BitVec 2} : Gives (.accl n) s fun s' => MatIs s' l t k fi fun m =>
    (∀ q, q / 192 = n.toNat → mget (0 : Word) m.acc q = 0 ∧ nhas m.accPois q = false) ∧
    (∀ q, q / 192 ≠ n.toNat → mget (0 : Word) m.acc q = mget 0 x.mat.acc q ∧ nhas m.accPois q = nhas x.mat.accPois q) ∧
    m.act = x.mat.act ∧ m.ld = x.mat.ld := by
  have hrun : execAccl n s = _ := onElem_run h _
  refine ⟨_, hrun, matIs_matDone h ⟨fun q hq => ?_, fun q hq => ?_, rfl, rfl⟩⟩
  · rw [mget, mfind_filter x.mat.acc (fun q => q / 192 != n.toNat), nhas_filter]
    simp [hq]
  · rw [mget, mfind_filter x.mat.acc (fun q => q / 192 != n.toNat), nhas_filter]
    simp [hq, mget]

/-- WLD writes one column of one K-block (R352). -/
theorem wld_runs {a b : Src} {u v : Tok} (hs : srcToks x k (ctxOf x k) fi .i32 [a, b] = .ok [u, v]) :
    let kb := laneAt v.data 0 % 16
    let j := laneAt v.data 0 / 16 % 256
    (v.pois.getLsbD 0 = true → exec (.wld a b) s = .next (wordFault s l t k ls x (ctxOf x k) fi cPCTL 0)) ∧
    (v.pois.getLsbD 0 = false → 191 < j → exec (.wld a b) s = .next (wordFault s l t k ls x (ctxOf x k) fi cCONFIG 0)) ∧
    (v.pois.getLsbD 0 = false → j ≤ 191 → Gives (.wld a b) s fun s' => MatIs s' l t k fi fun m => m.act = x.mat.act ∧ m.acc = x.mat.acc ∧
      (∀ i, i < 24 → mget (0 : Byte) m.ld.w (192 * (24 * kb + i) + j) = BitVec.ofNat 8 (laneAt u.data i)) ∧
      mget (0 : Byte) m.ld.e (192 * kb + j) = u.aux ∧ (u.pois ≠ 0 → m.ld.pois.getLsbD kb = true)) := by
  intro kb j
  have hrun : execWld a b s = _ := onElem_run h _
  rw [hs] at hrun
  dsimp only at hrun
  rw [show [u, v].getD 0 Tok.zero = u from rfl, show [u, v].getD 1 Tok.zero = v from rfl] at hrun
  have hkb : bits (laneAt v.data 0) 0 4 = kb := bits_zero _ _
  have hj : bits (laneAt v.data 0) 4 8 = j := bits_eq _ _ _
  rw [hkb, hj] at hrun
  refine ⟨fun hp => ?_, fun hp hlt => ?_, fun hp hle => ?_⟩
  · rw [if_pos hp] at hrun
    exact hrun
  · rw [if_neg (by rw [hp]; exact Bool.false_ne_true), if_pos hlt] at hrun
    exact hrun
  · rw [if_neg (by rw [hp]; exact Bool.false_ne_true), if_neg (Nat.not_lt.mpr hle)] at hrun
    refine ⟨_, hrun, matIs_matDone h ⟨rfl, rfl, fun i hi => ?_, mget_mset_self _ _ _ _, fun hu => ?_⟩⟩
    · exact mget_foldl_mset 0 (fun i i' he => by omega) _ _ (List.mem_range.mpr hi)
    · have hk : kb < 16 := Nat.mod_lt _ (by decide)
      dsimp only
      rw [if_pos (by simpa using hu), BitVec.getLsbD_or, BitVec.getLsbD_ofNat, Nat.testBit_two_pow_self, decide_eq_true hk]
      simp

/-- What MMA and MMAI leave in the matrix state (R354 to R356). -/
theorem mmaState_is {step : Macro → Nat → Nat → Nat × Flg → Nat × Tok → Nat × Flg} {w n : Nat} (blocks : List (Nat × Tok)) :
    MatIs (mmaState s l t k x fi step w n blocks) l t k fi fun m =>
      (∀ j, j < 192 → mget (0 : Word) m.acc (192 * n + j) =
        BitVec.ofNat 32 (blocks.foldl (step x.mat.act w j) ((mget (0 : Word) x.mat.acc (192 * n + j)).toNat, 0)).1) ∧
      (∀ q, q / 192 ≠ n → mget (0 : Word) m.acc q = mget 0 x.mat.acc q) ∧ m.act = x.mat.act ∧ m.ld = x.mat.ld ∧
      ∀ j, j < 192 → nhas m.accPois (192 * n + j) = (nhas x.mat.accPois (192 * n + j) ||
        blocks.any fun e => e.2.pois != 0 || x.mat.act.pois.getLsbD e.1) := by
  refine MatIs.flags (matIs_matDone h ⟨fun j hj => ?_, fun q hq => ?_, rfl, rfl, fun j hj => ?_⟩) _
  · dsimp only
    rw [zipIdx_range, List.foldl_map]
    exact mget_foldl_mset (l := List.range 192) 0 (key := fun i => 192 * n + i) (fun i i' he => Nat.add_left_cancel he)
      (fun i => BitVec.ofNat 32 (blocks.foldl (step x.mat.act w i) ((mget (0 : Word) x.mat.acc (192 * n + i)).toNat, 0)).1) _
      (List.mem_range.mpr hj)
  · dsimp only
    rw [zipIdx_range, List.foldl_map]
    refine mget_foldl_mset_ne 0 (fun i => 192 * n + i) _ _ _ fun i hi he => hq ?_
    have := List.mem_range.mp hi
    omega
  · dsimp only
    split
    · next hbad => 
      rw [nhas_foldl_nadd, hbad, Bool.or_true, Bool.or_eq_true]
      exact .inr (List.any_eq_true.mpr ⟨j, List.mem_range.mpr hj, by simp⟩)
    · next hbad => rw [Bool.eq_false_iff.mpr hbad, Bool.or_false]

/-- The sums of a bank (R355, R356). -/
theorem mmaOp_gives {i : Instr} {step : Macro → Nat → Nat → Nat × Flg → Nat × Tok → Nat × Flg} {a b : Src} {w : BitVec 4} {n : BitVec 2}
    (hi : exec i s = mmaOp step a b w n s) {bv : Tok} {ts : List Tok} (hb : srcTok x k (ctxOf x k) fi .i32 b = .ok bv)
    (hp : bv.pois.getLsbD 0 = false) (hk : laneAt bv.data 0 % 16 + laneAt bv.data 0 / 16 % 16 ≤ 15)
    (hn : laneAt bv.data 0 / 16 % 16 = 0 ∨ ∃ p, a = .i p) (ha : ∀ p, a = .i p → bound x.act k p.toNat = true)
    (hts : aBlocks x k (ctxOf x k) fi a (laneAt bv.data 0 / 16 % 16 + 1) = .ok ts) :
    let blocks := (ts.zipIdx).map fun e => (laneAt bv.data 0 % 16 + e.2, e.1)
    Gives i s fun s' => MatIs s' l t k fi fun m =>
      (∀ j, j < 192 → mget (0 : Word) m.acc (192 * n.toNat + j) =
        BitVec.ofNat 32 (blocks.foldl (step x.mat.act w.toNat j) ((mget (0 : Word) x.mat.acc (192 * n.toNat + j)).toNat, 0)).1) ∧
      (∀ q, q / 192 ≠ n.toNat → mget (0 : Word) m.acc q = mget 0 x.mat.acc q) ∧ m.act = x.mat.act ∧ m.ld = x.mat.ld ∧
      ∀ j, j < 192 → nhas m.accPois (192 * n.toNat + j) = (nhas x.mat.accPois (192 * n.toNat + j) ||
        blocks.any fun e => e.2.pois != 0 || x.mat.act.pois.getLsbD e.1) := by
  have hk0 : bits (laneAt bv.data 0) 0 4 = laneAt bv.data 0 % 16 := bits_zero _ _
  have hnm : bits (laneAt bv.data 0) 4 4 = laneAt bv.data 0 / 16 % 16 := bits_eq _ _ _
  have hrun : exec i s = .next (mmaState s l t k x fi step w.toNat n.toNat
      ((ts.zipIdx).map fun e => (laneAt bv.data 0 % 16 + e.2, e.1))) := by
    have hrun : mmaOp step a b w n s = _ := onElem_run h _
    rw [← hi, hb] at hrun
    dsimp only at hrun
    rw [hk0, hnm, hp] at hrun
    cases a with
    | i p =>
      dsimp only at hrun
      rw [if_neg (by simp [ha p rfl]), if_neg Bool.false_ne_true, if_neg (by simpa using hk), hts] at hrun
      exact hrun
    | _ =>
      dsimp only at hrun
      rw [if_neg Bool.false_ne_true, if_neg Bool.false_ne_true, if_neg (by simpa using ⟨hk, by simpa using hn⟩), hts] at hrun
      exact hrun
  exact ⟨_, hrun, mmaState_is h _⟩

end

/-- ACRD reads 24 entries of a bank (R357). -/
theorem acrd_gives {s : State} {l t k : Nat} {ls : Lease} {x : Tile} {fi : Firing} {ty : ETy} {d : Dst} {seg : BitVec 3} {n : BitVec 2}
    (h : LaneReady s l t k ls x fi ty d [] []) : Gives (.acrd ty d seg n) s fun s' => ∃ tok, ElemResult s s' l t k ls x fi d tok 0 ∧
      tok.tag = tyTag ty ∧ ∀ i, i < 24 →
        laneAt tok.data i = (mget (0 : Word) x.mat.acc (192 * n.toNat + 24 * seg.toNat + i)).toNat ∧
        tok.pois.getLsbD i = nhas x.mat.accPois (192 * n.toNat + 24 * seg.toNat + i) := by
  have hi : exec (.acrd ty d seg n) s = execAcrd ty d seg n s := rfl
  obtain ⟨s', hs', hres⟩ := laneOp_gives hi h rfl
  have hall : ∀ i, i < 24 → (activeOf (ctxOf x k) none).getLsbD i = true := fun i hi => by
    have hb : ∀ i : Fin 24, allLanes.getLsbD i = true := by decide
    exact hb ⟨i, hi⟩
  rw [if_neg Bool.false_ne_true] at hres
  refine ⟨s', hs', _, hres, tag_mergeLanes _ _ _ _ _ _, fun i hi => ⟨?_, ?_⟩⟩
  · rw [laneAt_mergeLanes _ _ _ _ _ _ hi, if_pos (hall i hi), laneAt_ofElems _ hi]
    exact Nat.mod_eq_of_lt (BitVec.isLt _)
  · rw [pois_mergeLanes _ _ _ _ _ _ hi, if_pos (hall i hi), maskOf_bit _ hi]

/-- Settles O33: each word by the matrix state that it leaves. -/
theorem matrixWords : Obligations.matrix_words := by
  intro s l t k ls x fi ty d a b w seg n h
  refine ⟨wswp_gives h, accl_gives h, fun u v hs => wld_runs h hs, fun hr => acrd_gives hr, fun bv ts hb => ?_⟩
  intro k0 nm hp hk hn ha hts
  have hmma : exec (.mma a b w n) s = mmaOp mmaStep a b w n s := rfl
  have hmmai : exec (.mmai a b w n) s = mmaOp mmaiStep a b w n s := rfl
  exact ⟨mmaOp_gives h hmma hb hp hk hn ha hts, mmaOp_gives h hmmai hb hp hk hn ha hts⟩

end Sys2Proof.Claims
end

section
/-! SUPPORT. Accesses of elements (R115, R336), and the words of storage tiles (R335, R345 to R350). -/

namespace Sys2Proof.Claims

open Sys2Proof Sys2Proof.Machine

/-! ### The issue of an access -/

section
variable {s : State} {l t k : Nat} {ls : Lease} {x : Tile} {fi : Firing}

/-- A request of an element changes the ordering state of its tile alone among the leases. -/
theorem leaseOf_addReq_elem (hl : leaseOf s l = some ls) (ht : tileOf ls t = some x) {r : Req} (hi : r.iss = .elem l t k) :
    ∃ ls' o, leaseOf (addReq s r).1 l = some ls' ∧ ls' = { ls with tiles := ls'.tiles } ∧ tileOf ls' t = some { x with ord := o } := by
  unfold addReq
  dsimp only
  rw [hi]
  exact ⟨_, _, leaseOf_updLease (s := { s with reqs := _, nextId := _ }) _ hl, rfl, mfind_mmod_self _ _ _ _ ht⟩

/-- What the issue of an access enters, and what becomes of its firing (R121, R127, R336). -/
theorem elemIssue_eq {e : Option Ext} {posted : Bool} (hb : nsrcBad x fi e = false) (hp : postedOf s l t < 64) (op : MOp)
    (parts : List Part) (dst : RDst) (after : Edges) : ∃ (r : Req) (g : Ctx → Ctx),
    elemIssue s l t k ls x (ctxOf x k) fi op parts dst e posted after = updCtx (addReq s r).1 l t k g ∧
    (∀ c, c.fire = some fi → (g c).fire = some (if posted then moved fi (opLen e) else { fi with wait := .mem s.nextId })) ∧
    r.iss = .elem l t k ∧ r.op = op ∧ r.parts = parts ∧ r.dst = dst ∧ r.view = extView e ∧ r.posted = posted ∧
    (isWaitOp op = false → (∀ p ∈ parts, p.loc = .none) → r.chain = chainOf x (ctxOf x k) fi e ∧
      r.acq = e.elim false (fun y => y.mark.getLsbD 0) ∧ r.rel = e.elim false (fun y => y.mark.getLsbD 1) ∧
      r.scope = e.elim .panel fun y => y.scope) := by
  unfold elemIssue
  rw [if_neg (by rw [hb]; exact Bool.false_ne_true), if_neg (by simp [hp])]
  have hgo : ∀ r : Req, ∃ g : Ctx → Ctx, (if posted then fireAt (addReq s r).1 l t k (fi.pc + opLen e)
      else updCtx (addReq s r).1 l t k fun c => { c with fire := c.fire.map fun f => { f with wait := .mem s.nextId } }) =
        updCtx (addReq s r).1 l t k g ∧
      ∀ c, c.fire = some fi → (g c).fire = some (if posted then moved fi (opLen e) else { fi with wait := .mem s.nextId }) := by
    intro r
    cases posted with
    | true =>
      exact ⟨fun c => { c with fire := c.fire.map fun f => { f with pc := fi.pc + opLen e, wait := .none, ord := f.ord + 1 } }, rfl,
        fun c hc => by dsimp only; rw [hc]; rfl⟩
    | false =>
      exact ⟨fun c => { c with fire := c.fire.map fun f => { f with wait := .mem s.nextId } }, rfl, fun c hc => by dsimp only; rw [hc]; rfl⟩
  obtain ⟨g, hg, hfire⟩ := hgo _
  refine ⟨_, g, hg, hfire, rfl, rfl, rfl, rfl, rfl, rfl, fun hw hn => ?_⟩
  have hhere : (parts != [] && parts.all fun p => p.loc != .none) = false := by
    cases parts with
    | nil => rfl
    | cons p ps => simp [hn p (List.mem_cons_self ..)]
  dsimp only
  rw [hhere, hw]
  cases e with
  | none => exact ⟨rfl, rfl, rfl, rfl⟩
  | some y => exact ⟨rfl, rfl, rfl, rfl⟩

/-- A request of a context that has been entered, with what becomes of its firing. -/
theorem asked_addReq (h : ElemTurn s l t k ls x fi) {r : Req} (hiss : r.iss = .elem l t k) {g : Ctx → Ctx} {n : Nat}
    (hfire : ∀ c, c.fire = some fi → (g c).fire = some (if r.posted then moved fi n else { fi with wait := .mem s.nextId })) :
    Asked s (updCtx (addReq s r).1 l t k g) l t k ls fi r.op r.parts r.dst r.view r.posted n := by
  obtain ⟨ls1, o, hl1, hls1, ht1⟩ := leaseOf_addReq_elem h.lease h.tile hiss
  obtain ⟨a, f, b, w, u, hq⟩ := reqOf_addReq s r
  obtain ⟨x', ⟨ls', ⟨hl', -⟩, ht', -, hls'⟩, hc, -⟩ := onlyCtx_upd (k := k) hl1 ht1 g
  have hseq : ls'.seq = ls.seq := by rw [hls', hls1]
  have hframe := addReq_frame s r
  refine ⟨_, ls', x', hq, (congrArg State.nextId hframe :), hiss, rfl, rfl, rfl, rfl, rfl, (congrArg State.mem hframe :), hl', hseq, ht', ?_⟩
  rw [hc]
  exact hfire _ h.fire

/-- An access is asked for, with what its extension names. -/
theorem elemIssue_asked (h : ElemTurn s l t k ls x fi) {e : Option Ext} {posted : Bool} (hb : nsrcBad x fi e = false)
    (hp : postedOf s l t < 64) (op : MOp) (parts : List Part) (dst : RDst) (after : Edges) :
    let s' := elemIssue s l t k ls x (ctxOf x k) fi op parts dst e posted after
    Asked s s' l t k ls fi op parts dst (extView e) posted (opLen e) ∧
    (isWaitOp op = false → (∀ p ∈ parts, p.loc = .none) → ∃ r, reqOf s' s.nextId = some r ∧ r.chain = chainOf x (ctxOf x k) fi e ∧
      r.acq = e.elim false (fun y => y.mark.getLsbD 0) ∧ r.rel = e.elim false (fun y => y.mark.getLsbD 1) ∧
      r.scope = e.elim .panel fun y => y.scope) := by
  obtain ⟨r, g, heq, hfire, hiss, rfl, rfl, rfl, hview, rfl, hext⟩ :=
    elemIssue_eq (k := k) (ls := ls) (posted := posted) hb hp op parts dst after
  obtain ⟨a, f, b, w, u, hq⟩ := reqOf_addReq s r
  dsimp only
  rw [heq, ← hview]
  exact ⟨asked_addReq h hiss hfire, fun hw hn => ⟨_, hq, hext hw hn⟩⟩

end

/-- An access that has been asked for stays so when its tile changes outside its contexts. -/
theorem Asked.tile {s s' : State} {l t k : Nat} {ls : Lease} {fi : Firing} {op : MOp} {parts : List Part} {dst : RDst} {view n : Nat}
    {posted : Bool} (h : Asked s s' l t k ls fi op parts dst view posted n) {f : Tile → Tile} (hf : ∀ x, ctxOf (f x) k = ctxOf x k) :
    Asked s (updTile s' l t f) l t k ls fi op parts dst view posted n := by
  obtain ⟨r, ls', x', hq, hid, hiss, hop, hparts, hdst, hview, hposted, hmem, hl, hseq, ht, hfire⟩ := h
  refine ⟨r, _, _, hq, hid, hiss, hop, hparts, hdst, hview, hposted, hmem, leaseOf_updLease _ hl, hseq, mfind_mmod_self _ _ _ _ ht, ?_⟩
  rw [hf]
  exact hfire

/-! ### Words of storage tiles -/

theorem waiting_eq_false {fi : Firing} (h : ∀ i, fi.wait ≠ .mem i) : waiting fi = false := by
  unfold waiting
  split
  · next i hi => exact absurd hi (h i)
  · rfl

theorem opLen_eq (e : Option Ext) : opLen e = if e.isSome then 2 else 1 := rfl

/-- The parts of an atomic with its data and comparands (R346). -/
def filledParts (ps : List Part) (dat cmp : Tok) : List Part := ps.map fun p =>
  { p with
    data := leBytes 4 (laneAt dat.data (p.lane / 4)), pois := List.replicate 4 (dat.pois.getLsbD (p.lane / 4))
    cmp := leBytes 4 (laneAt cmp.data (p.lane / 4)), cmpPois := cmp.pois.getLsbD (p.lane / 4) }

/-- The lanes of an atomic: those whose offset is not all ones (R346). -/
def atomicLanes (u : Tok) : List (Nat × Nat) :=
  (List.range 24).filterMap fun i => if laneAt u.data i = 0xFFFFFFFF then none else some (i, laneAt u.data i)

theorem mem_atomicLanes {u : Tok} {p : Nat × Nat} (h : p ∈ atomicLanes u) : p.1 < 24 ∧ laneAt u.data p.1 ≠ 0xFFFFFFFF := by
  obtain ⟨i, hi, hp⟩ := List.mem_filterMap.mp h
  split at hp
  · exact nomatch hp
  · next hne =>
    cases hp
    exact ⟨List.mem_range.mp hi, hne⟩

section
variable {s : State} {l t k : Nat} {ls : Lease} {x : Tile} {fi : Firing} {e : Option Ext} (h : ElemTurn s l t k ls x fi)
  (hw : ∀ i, fi.wait ≠ .mem i) (hpo : postedOf s l t < 64) (hnp : nsrcPois x (ctxOf x k) fi e = false) (hnb : nsrcBad x fi e = false)
include h hpo hnp hnb

theorem ldt_gives {ty : ETy} {d : Dst} {a : Src} {loc : Bool} (hw : ∀ i, fi.wait ≠ .mem i) (hd : dstBound x k d = true)
    (hf : dstFull x (ctxOf x k) k d = false) {u : Tok} {ps : List Part}
    (hu : srcTok x k (ctxOf x k) fi ty a = .ok u) (hp : u.pois.getLsbD 0 = false)
    (hps : sChecks ls x t e .rd 4 96 loc [(0, laneAt u.data 0)] = .ok ps) :
    Gives (.ldt ty d a loc e) s fun s' => Asked s s' l t k ls fi .read ps (.tok d (tyTag ty) Tok.zero none) (extView e) false
      (if e.isSome then 2 else 1) := by
  have hrun : execLdt ty d a loc e s = _ := onElem_run h _
  rw [waiting_eq_false hw, hd, hu] at hrun
  dsimp only at hrun
  rw [if_neg Bool.false_ne_true, if_neg (by simp), if_neg (by rw [show lanePois u 0 = false from hp, hnp]; simp), hps, hf] at hrun
  exact ⟨_, hrun, (elemIssue_asked h hnb hpo ..).1⟩

theorem stt_gives {v : BitVec 4} {a : Src} {loc : Bool} {u : Tok} {ps : List Part}
    (hu : srcTok x k (ctxOf x k) fi .i32 a = .ok u) (hp : u.pois.getLsbD 0 = false)
    (hps : sChecks ls x t e .wr 4 96 loc [(0, laneAt u.data 0)] = .ok ps) :
    Gives (.stt v a loc e) s fun s' => Asked s s' l t k ls fi .write (ps.map fun p =>
      { p with
        data := ((leBytes 96 (mget Tok.zero (ctxOf x k).v v.toNat).data.toNat).drop p.lane).take p.len
        pois := (((List.range 96).map fun j => (mget Tok.zero (ctxOf x k).v v.toNat).pois.getLsbD (j / 4)).drop p.lane).take p.len })
      .none (extView e) true (if e.isSome then 2 else 1) := by
  have hrun : execStt v a loc e s = _ := onElem_run h _
  rw [hu] at hrun
  dsimp only at hrun
  rw [if_neg (by rw [show lanePois u 0 = false from hp, hnp]; simp), hps] at hrun
  exact ⟨_, hrun, (elemIssue_asked h hnb hpo ..).1⟩

/-- The atomics of a storage tile (R346). -/
theorem sAtomic_gives {i : Instr} {op : AOp} {ty : ETy} {d : Option Dst} {cmp : Option (BitVec 4)} {a b : Src} {loc : Bool}
    (hi : exec i s = sAtomic op ty d cmp a b loc e s) (hw : ∀ i, fi.wait ≠ .mem i) (hd : ∀ d', d = some d' → dstBound x k d' = true)
    (hf : ∀ d', d = some d' → dstFull x (ctxOf x k) k d' = false) {u w : Tok} {ps : List Part}
    (hs : srcToks x k (ctxOf x k) fi ty [a, b] = .ok [u, w])
    (hp : ∀ i, i < 24 → laneAt u.data i ≠ 0xFFFFFFFF → u.pois.getLsbD i = false)
    (hps : sChecks ls x t e .rw 4 4 loc (atomicLanes u) = .ok ps) :
    Gives i s fun s' => Asked s s' l t k ls fi (.atomic op)
      (filledParts ps w (cmp.elim Tok.zero fun n => mget Tok.zero (ctxOf x k).v n.toNat))
      (d.elim .none fun d => .tok d (tyTag ty) (dstOld (ctxOf x k) d) none) (extView e) d.isNone (if e.isSome then 2 else 1) := by
  have hrun : sAtomic op ty d cmp a b loc e s = _ := onElem_run h _
  have hnone : (atomicLanes u).find? (fun p => lanePois u p.1) = none := List.find?_eq_none.mpr fun p hm => by
    obtain ⟨h1, h2⟩ := mem_atomicLanes hm
    rw [lanePois, hp _ h1 h2]
    exact Bool.false_ne_true
  have hd' : (d.map (dstBound x k)).getD true = true := by
    cases d with
    | none => rfl
    | some d => exact hd d rfl
  rw [waiting_eq_false hw, hd', hs] at hrun
  dsimp only at hrun
  rw [if_neg Bool.false_ne_true, if_neg (by simp), show [u, w].getD 0 Tok.zero = u from rfl, show [u, w].getD 1 Tok.zero = w from rfl] at hrun
  unfold atomicLanes at hnone hps
  rw [hnone, hps] at hrun
  dsimp only at hrun
  rw [if_neg (by rw [hnp]; exact Bool.false_ne_true)] at hrun
  cases d with
  | none =>
    refine ⟨_, hi.trans hrun, ?_⟩
    cases cmp with
    | none => exact (elemIssue_asked h hnb hpo ..).1
    | some n => exact (elemIssue_asked h hnb hpo ..).1
  | some d =>
    dsimp only at hrun
    rw [if_neg (by rw [hf d rfl]; exact Bool.false_ne_true)] at hrun
    refine ⟨_, hi.trans hrun, ?_⟩
    cases cmp with
    | none => exact (elemIssue_asked h hnb hpo ..).1
    | some n => exact (elemIssue_asked h hnb hpo ..).1

/-- SYNA, alone and as a member of a group (R348, R349). -/
theorem syna_gives {a b : Src} {loc grp : Bool} {u w : Tok} {ps : List Part} (hs : srcToks x k (ctxOf x k) fi .i32 [a, b] = .ok [u, w])
    (hp : u.pois.getLsbD 0 = false) (hpw : w.pois.getLsbD 0 = false) (hps : sChecks ls x t e .rw 16 16 loc [(0, laneAt u.data 0)] = .ok ps)
    (hg : grp = true → w.pois.getLsbD 1 = false ∧ laneAt w.data 1 % 256 ∈ ctxGroups x.act k ∧
      (mget (⟨0, 0, 0⟩ : Group) ls.groups (grpKey t (laneAt w.data 1 % 256))).count ≠ 0 ∧
      ∀ p ∈ ps, grpBusy s l t k (laneAt w.data 1 % 256) p.loc = false) :
    Gives (.syna a b loc grp e) s fun s' => Asked s s' l t k ls fi
      (if grp then .grp (laneAt w.data 1 % 256) (laneAt w.data 0) else .arrive (laneAt w.data 0))
      (ps.map fun p => { p with pois := [x.poisStore] }) .none (extView e) true (if e.isSome then 2 else 1) := by
  have hrun : execSyna a b loc grp e s = _ := onElem_run h _
  rw [hs] at hrun
  dsimp only at hrun
  rw [show [u, w].getD 0 Tok.zero = u from rfl, show [u, w].getD 1 Tok.zero = w from rfl,
    if_neg (by rw [show lanePois u 0 = false from hp, show lanePois w 0 = false from hpw, hnp]; simp), hps, hnb] at hrun
  have h1 : (grp && lanePois w 1) = false := by
    cases grp with
    | false => rfl
    | true => exact (hg rfl).1
  have h2 : (grp && (!(ctxGroups x.act k).contains (laneAt w.data 1 % 256) ||
      (mget ⟨0, 0, 0⟩ ls.groups (grpKey t (laneAt w.data 1 % 256))).count == 0)) = false := by
    cases grp with
    | false => rfl
    | true =>
      obtain ⟨-, hin, hc, -⟩ := hg rfl
      simp [hin, hc]
  have h3 : (decide (64 ≤ postedOf s l t) || (grp && ps.any fun p => grpBusy s l t k (laneAt w.data 1 % 256) p.loc)) = false := by
    rw [decide_eq_false (Nat.not_le.mpr hpo)]
    cases grp with
    | false => rfl
    | true =>
      obtain ⟨-, -, -, hb⟩ := hg rfl
      simpa using hb
  dsimp only at hrun
  rw [h1, if_neg Bool.false_ne_true, h2, if_neg Bool.false_ne_true, if_neg (by rw [h3]; exact Bool.false_ne_true),
    if_neg Bool.false_ne_true] at hrun
  exact ⟨_, hrun, (elemIssue_asked h hnb hpo ..).1.tile fun _ => rfl⟩

theorem synw_gives {d : Dst} {a b : Src} {loc : Bool} (hw : ∀ i, fi.wait ≠ .mem i) (hd : dstBound x k d = true)
    (hf : dstFull x (ctxOf x k) k d = false) {u w : Tok} {ps : List Part} (hs : srcToks x k (ctxOf x k) fi .i32 [a, b] = .ok [u, w])
    (hp : u.pois.getLsbD 0 = false) (hpw : w.pois.getLsbD 0 = false) (hps : sChecks ls x t e .rd 16 16 loc [(0, laneAt u.data 0)] = .ok ps) :
    Gives (.synw d a b loc e) s fun s' => Asked s s' l t k ls fi (.swait (laneAt w.data 0 % 2 ^ 16)) ps (.tok d 0 Tok.zero none)
      (extView e) false (if e.isSome then 2 else 1) := by
  have hrun : execSynw d a b loc e s = _ := onElem_run h _
  rw [waiting_eq_false hw, hd, hs] at hrun
  dsimp only at hrun
  rw [if_neg Bool.false_ne_true, if_neg (by simp), show [u, w].getD 0 Tok.zero = u from rfl, show [u, w].getD 1 Tok.zero = w from rfl,
    if_neg (by rw [show lanePois u 0 = false from hp, hnp]; simp), if_neg (by rw [show lanePois w 0 = false from hpw]; simp), hps, hf] at hrun
  exact ⟨_, hrun, (elemIssue_asked h hnb hpo ..).1⟩

end

/-- Settles O32: each word, with its operands there and its checks passed, asks for its access. -/
theorem storageTileWords : Obligations.storage_tile_words := by
  intro s l t k ls x fi ty d v a b loc e h hw hd hf hpo hnp hnb
  have hposts {i : Instr} (op : AOp) (hi : exec i s = sAtomic op ty none none a b loc e s) {u w : Tok} {ps : List Part}
      (hs : srcToks x k (ctxOf x k) fi ty [a, b] = .ok [u, w])
      (hp : ∀ i, i < 24 → laneAt u.data i ≠ 0xFFFFFFFF → u.pois.getLsbD i = false)
      (hps : sChecks ls x t e .rw 4 4 loc (atomicLanes u) = .ok ps) :=
    sAtomic_gives h hpo hnp hnb hi hw (fun _ hd' => nomatch hd') (fun _ hd' => nomatch hd') hs hp hps
  have hwaits {i : Instr} (op : AOp) (cmp : Option (BitVec 4)) {d' : Dst} (hd' : dstBound x k d' = true) (hf' : dstFull x (ctxOf x k) k d' = false)
      (hi : exec i s = sAtomic op ty (some d') cmp a b loc e s) {u w : Tok} {ps : List Part}
      (hs : srcToks x k (ctxOf x k) fi ty [a, b] = .ok [u, w])
      (hp : ∀ i, i < 24 → laneAt u.data i ≠ 0xFFFFFFFF → u.pois.getLsbD i = false)
      (hps : sChecks ls x t e .rw 4 4 loc (atomicLanes u) = .ok ps) :=
    sAtomic_gives h hpo hnp hnb hi hw (fun _ he => Option.some.inj he ▸ hd') (fun _ he => Option.some.inj he ▸ hf') hs hp hps
  refine ⟨fun u ps hu hp hps => ldt_gives h hpo hnp hnb hw hd hf hu hp hps, fun u ps hu hp hps => stt_gives h hpo hnp hnb hu hp hps,
    fun u w ps hs hp hps => hposts (addOp ty) rfl hs hp hps, fun u w ps hs hp hps => hposts (minOp ty) rfl hs hp hps,
    fun u w ps hs hp hps => hposts (maxOp ty) rfl hs hp hps, fun u w ps hs hp hps => hposts .and rfl hs hp hps,
    fun u w ps hs hp hps => hposts .or rfl hs hp hps, fun u w ps hs hp hps => hposts .xor rfl hs hp hps,
    fun u w ps hs hp hps => hwaits (addOp ty) none hd hf rfl hs hp hps, fun u w ps hs hp hps => hwaits .xchg none hd hf rfl hs hp hps,
    fun u w ps hs hp hps => hwaits .cas (some v) (d' := .v v) rfl rfl rfl hs hp hps, fun u w ps hs hp hpw => ?sync⟩
  case sync =>
    exact ⟨fun hps h1 hg hc hb => syna_gives h hpo hnp hnb (grp := true) hs hp hpw hps fun _ => ⟨h1, hg, hc, hb⟩,
      fun hps => syna_gives h hpo hnp hnb (grp := false) hs hp hpw hps (fun hg => nomatch hg),
      fun hps => synw_gives h hpo hnp hnb hw hd hf hs hp hpw hps⟩

end Sys2Proof.Claims
end

section
/-! SUPPORT. Words of address tiles (R333, R334, R338 to R344): the order of their checks, and the requests that they send. -/

namespace Sys2Proof.Claims

open Sys2Proof Sys2Proof.Machine

/-! ### The checks 2 to 4 of R334 -/

theorem oddAddr_eq (al : Bool) : (fun a : Int => al && decide (a % 4 ≠ 0)) = fun a => al && a % 4 != 0 :=
  funext fun _ => congrArg (al && ·) (by rw [Bool.eq_iff_iff, decide_eq_true_eq, bne_iff_ne])

/-- Outside the address space (R32, R334). -/
def farAddr (len : Nat) (a : Int) : Bool := decide (a < 0 ∨ 2 ^ 56 < a + len ∨ 2 ^ 56 ≤ a)

theorem farAddr_eq (len : Nat) : farAddr len = fun a : Int => a < 0 || (2 ^ 56 : Int) ≤ a || (2 ^ 56 : Int) < a + len := by
  funext a
  rw [farAddr, Bool.eq_iff_iff]
  simp only [decide_eq_true_eq, Bool.or_eq_true]
  tauto

section
variable (ls : Lease) (v len : Nat) (acc : Acc) (al : Bool) (as : List Int) (st : Int → Bool)

theorem aChecks_misaligned {a : Int} (h : as.find? (fun a => al && decide (a % 4 ≠ 0)) = some a) :
    aChecks ls v acc al as len st = some (cALIGN, addrNat a, st a) := by
  rw [oddAddr_eq] at h
  unfold aChecks
  rw [h]

theorem aChecks_far {a : Int} (h : as.find? (fun a => al && decide (a % 4 ≠ 0)) = none) (hfar : as.find? (farAddr len) = some a) :
    aChecks ls v acc al as len st = some (cTRANS, if a < 0 ∨ 2 ^ 56 ≤ a then addrNat a else 2 ^ 56, st a) := by
  rw [oddAddr_eq] at h
  rw [farAddr_eq] at hfar
  unfold aChecks
  rw [h, hfar]
  simp

theorem aChecks_near (h : as.find? (fun a => al && decide (a % 4 ≠ 0)) = none) (hfar : as.find? (farAddr len) = none) :
    aChecks ls v acc al as len st = as.head?.bind fun a => (viewCheck ls v acc).map fun c => (c, addrNat a, st a) := by
  rw [oddAddr_eq] at h
  rw [farAddr_eq] at hfar
  unfold aChecks
  rw [h, hfar]
  cases as <;> rfl

end

/-- The checks 2 to 4 of R334 in their order, each with its address. -/
theorem aChecks_order (ls : Lease) (v len : Nat) (acc : Acc) (al : Bool) (as : List Int) (st : Int → Bool) :
    let odd (a : Int) : Bool := al && decide (a % 4 ≠ 0)
    (∀ a, as.find? odd = some a → aChecks ls v acc al as len st = some (cALIGN, addrNat a, st a)) ∧
    (as.find? odd = none → (∀ a, as.find? (farAddr len) = some a →
        aChecks ls v acc al as len st = some (cTRANS, if a < 0 ∨ 2 ^ 56 ≤ a then addrNat a else 2 ^ 56, st a)) ∧
      (as.find? (farAddr len) = none →
        (∀ a q, as.head? = some a → viewCheck ls v acc = some q → aChecks ls v acc al as len st = some (q, addrNat a, st a)) ∧
        (as = [] ∨ viewCheck ls v acc = none → aChecks ls v acc al as len st = none))) := by
  refine ⟨fun a h => aChecks_misaligned _ _ _ _ _ _ _ h, fun h => ⟨fun a hfar => aChecks_far _ _ _ _ _ _ _ h hfar, fun hfar => ⟨?_, ?_⟩⟩⟩
  · intro a q ha hq
    rw [aChecks_near _ _ _ _ _ _ _ h hfar, ha, hq]
    rfl
  · intro hor
    rw [aChecks_near _ _ _ _ _ _ _ h hfar]
    rcases hor with rfl | hv
    · rfl
    · rw [hv]
      cases as <;> rfl

theorem addrNat_natCast {a : Nat} (h : a < 2 ^ 64) : addrNat (a : Int) = a := by
  rw [addrNat, toNat_ofInt64 (by omega) (by omega), Int.toNat_natCast]

theorem strad_natCast {n : Nat} (h : 1 ≤ n) (a : Nat) : strad n (a : Int) = decide (a / 128 ≠ (a + n - 1) / 128) := by
  have hsub : ((a : Int) + n - 1) = ((a + n - 1 : Nat) : Int) := by omega
  rw [strad, decide_eq_true h, hsub, Bool.true_and, Bool.eq_iff_iff]
  simp only [bne_iff_ne, decide_eq_true_eq, ne_eq, not_iff_not]
  omega

theorem pair0_lt (u : Tok) : pair0 u < 2 ^ 64 := by
  rw [pair0, elemAt, bits_eq]
  exact Nat.mod_lt _ (Nat.two_pow_pos 64)

/-- The checks of an access at one address (R334). -/
theorem aChecks_single {ls : Lease} {v len : Nat} {acc : Acc} {al : Bool} {st : Int → Bool} {ea : Nat} (hea : ea < 2 ^ 64) :
    (al = true → ea % 4 ≠ 0 → aChecks ls v acc al [(ea : Int)] len st = some (cALIGN, ea, st ea)) ∧
    ((al = true → ea % 4 = 0) →
      (2 ^ 56 < ea + len → aChecks ls v acc al [(ea : Int)] len st = some (cTRANS, max ea (2 ^ 56), st ea)) ∧
      (1 ≤ len → ea + len ≤ 2 ^ 56 → aChecks ls v acc al [(ea : Int)] len st = (viewCheck ls v acc).map fun q => (q, ea, st ea))) := by
  refine ⟨fun hal hodd => ?_, fun heven => ⟨fun hfar => ?_, fun hlen hnear => ?_⟩⟩
  · rw [aChecks_misaligned (a := (ea : Int)), addrNat_natCast hea]
    rw [List.find?_singleton, if_pos]
    rw [hal, Bool.true_and, decide_eq_true_eq]
    omega
  all_goals
    have heven' : [(ea : Int)].find? (fun a => al && decide (a % 4 ≠ 0)) = none := by
      rw [List.find?_singleton, if_neg]
      rw [Bool.and_eq_true, decide_eq_true_eq]
      rintro ⟨hal, hodd⟩
      have := heven hal
      omega
  · rw [aChecks_far (a := (ea : Int)) _ _ _ _ _ _ _ heven', addrNat_natCast hea]
    · split <;> simp <;> omega
    · rw [List.find?_singleton, if_pos]
      rw [farAddr, decide_eq_true_eq]
      omega
  · rw [aChecks_near _ _ _ _ _ _ _ heven', List.head?_cons, Option.bind_some, addrNat_natCast hea]
    rw [List.find?_singleton, if_neg]
    rw [farAddr, decide_eq_true_eq]
    omega

/-! ### Gathers and scatters (R342) -/

/-- The index of a lane of a gather, and the lanes that it may use. -/
def gathIndex (iv : Tok) (i : Nat) : Int := (BitVec.ofNat 32 (laneAt iv.data i)).toInt
def gathUses (f : Bfp) : List Nat := if f.isSome then [0] else List.range 24

theorem filterMap_skip {α β : Type} (p : α → Prop) [DecidablePred p] (g : α → β) (l : List α) :
    l.filterMap (fun i => if p i then none else some (g i)) = (l.filter fun i => !decide (p i)).map g := by
  induction l with
  | nil => rfl
  | cons i l ih => by_cases h : p i <;> simp [h, ih]

theorem gathLanes_eq (iv : Tok) (b : Nat) (f : Bfp) : gathLanes iv b f =
    ((gathUses f).filter fun i => decide (0 ≤ gathIndex iv i)).map fun i => (i, (b : Int) + gathLen f * gathIndex iv i) := by
  have hneg : ∀ i, (!decide (idxAt iv i < 0)) = decide (0 ≤ gathIndex iv i) := fun i => by
    rw [Bool.eq_iff_iff, Bool.not_eq_true', decide_eq_false_iff_not, decide_eq_true_eq, not_lt]
    rfl
  cases f with
  | none =>
    refine (filterMap_skip (fun i => idxAt iv i < 0) (fun i => (i, (b : Int) + 4 * idxAt iv i)) (List.range 24)).trans ?_
    simp only [hneg]
    rfl
  | some w =>
    rw [gathLanes, gathUses]
    simp only [← hneg]
    by_cases hi : idxAt iv 0 < 0
    · simp [hi]
    · rw [if_neg hi, Int.mul_comm]
      simp [hi]
      rfl

section
variable {ls : Lease} {x : Tile} {c : Ctx} {fi : Firing} {e : Option Ext} {acc : Acc} {iv bv : Tok} {f : Bfp}

/-- A poisoned base (R149, R342). -/
theorem gathChecks_base (hb : pair0P bv = true) (hne : gathLanes iv (pair0 bv) f ≠ []) :
    gathChecks ls x c fi e acc iv bv f = some (cPADDR, addrNat (((gathLanes iv (pair0 bv) f).map (·.2)).headD 0),
      strad (gathLen f) (((gathLanes iv (pair0 bv) f).map (·.2)).headD 0)) := by
  unfold gathChecks
  exact if_pos (by simp [hb, hne])

/-- A poisoned index of a lane that is not skipped (R149, R342). -/
theorem gathChecks_index (hb : pair0P bv = false ∨ gathLanes iv (pair0 bv) f = []) {p : Nat × Int}
    (hp : (gathLanes iv (pair0 bv) f).find? (fun q => iv.pois.getLsbD q.1) = some p) :
    gathChecks ls x c fi e acc iv bv f = some (cPADDR, addrNat p.2, strad (gathLen f) p.2) := by
  have hg : gathPois iv (pair0 bv) f = some p.2 := congrArg (Option.map Prod.snd) hp
  unfold gathChecks
  dsimp only
  rw [if_neg (by rcases hb with hb | hb <;> simp [hb]), hg]

theorem gathPois_none (h : ∀ p ∈ gathLanes iv (pair0 bv) f, iv.pois.getLsbD p.1 = false) : gathPois iv (pair0 bv) f = none := by
  have hn : (gathLanes iv (pair0 bv) f).find? (fun q => iv.pois.getLsbD q.1) = none :=
    List.find?_eq_none.mpr fun p hp => by rw [h p hp]; exact Bool.false_ne_true
  exact congrArg (Option.map Prod.snd) hn

theorem gathChecks_chain (h : ∀ p ∈ gathLanes iv (pair0 bv) f, iv.pois.getLsbD p.1 = false)
    (hb : pair0P bv = false ∨ gathLanes iv (pair0 bv) f = []) (hn : nsrcPois x c fi e = true) :
    gathChecks ls x c fi e acc iv bv f = some (cPADDR, addrNat (((gathLanes iv (pair0 bv) f).map (·.2)).headD 0),
      strad (gathLen f) (((gathLanes iv (pair0 bv) f).map (·.2)).headD 0)) := by
  unfold gathChecks
  dsimp only
  rw [if_neg (by rcases hb with hb | hb <;> simp [hb]), gathPois_none h]
  exact if_pos hn

theorem gathChecks_clean (h : ∀ p ∈ gathLanes iv (pair0 bv) f, iv.pois.getLsbD p.1 = false)
    (hb : pair0P bv = false ∨ gathLanes iv (pair0 bv) f = []) (hn : nsrcPois x c fi e = false) :
    gathChecks ls x c fi e acc iv bv f =
      aChecks ls (extView e) acc f.isNone ((gathLanes iv (pair0 bv) f).map (·.2)) (gathLen f) (strad (gathLen f)) := by
  unfold gathChecks
  dsimp only
  rw [if_neg (by rcases hb with hb | hb <;> simp [hb]), gathPois_none h]
  exact if_neg (by rw [hn]; exact Bool.false_ne_true)

end

/-! ### Accesses of one address: LDM and STM (R341) -/

/-- The bytes of an access: a token, or a block (R203, R341). -/
def accLen (f : Bfp) : Nat := match f with
  | some w => 1 + 3 * w.toNat
  | none => 96

theorem accLen_pos (f : Bfp) : 1 ≤ accLen f := by
  cases f with
  | none => exact (by decide : 1 ≤ 96)
  | some w => exact Nat.le_add_right 1 _

theorem length_leBytes (n v : Nat) : (leBytes n v).length = n := by
  induction n generalizing v with
  | zero => rfl
  | succ n ih => rw [leBytes, List.length_cons, ih]

/-- What STM stores: a token's lanes, or a block (R203, R341). -/
def accImage (u : Tok) (f : Bfp) : List Byte × List Bool := match f with
  | some w => bfpOut u w.toNat
  | none => (leBytes 96 u.data.toNat, (List.range 96).map fun j => u.pois.getLsbD (j / 4))

theorem length_accImage (u : Tok) (f : Bfp) : (accImage u f).1.length = accLen f := by
  cases f with
  | none => exact length_leBytes _ _
  | some w => exact length_leBytes _ _

theorem loc_lineParts {lane va n : Nat} {p : Part} (h : p ∈ lineParts lane va n) : p.loc = .none := by
  obtain ⟨r, -, rfl⟩ := List.mem_map.mp h
  rfl

theorem loc_writeParts {lane va : Nat} {bs : List Byte} {ps : List Bool} {p : Part} (h : p ∈ writeParts lane va bs ps) : p.loc = .none := by
  obtain ⟨q, hq, rfl⟩ := List.mem_map.mp h
  exact loc_lineParts (p := q) hq

theorem loc_mkParts {α : Type} {g : α → Part} {l : List α} {p : Part} (h : p ∈ l.map g) (hg : ∀ a, (g a).loc = .none) : p.loc = .none := by
  obtain ⟨a, -, rfl⟩ := List.mem_map.mp h
  exact hg a

theorem loc_flatten {α : Type} {g : α → List Part} {l : List α} {p : Part} (h : p ∈ (l.map g).flatten)
    (hg : ∀ a q, q ∈ g a → q.loc = .none) : p.loc = .none := by
  obtain ⟨ps, hps, hp⟩ := List.mem_flatten.mp h
  obtain ⟨a, -, rfl⟩ := List.mem_map.mp hps
  exact hg a p hp

section
variable {s : State} {l t k : Nat} {ls : Lease} {x : Tile} {fi : Firing} {e : Option Ext}

/-- The outcome of an access that faults where a check fails and goes on otherwise. -/
def checkOutcome (s : State) (l t k : Nat) (ls : Lease) (x : Tile) (fi : Firing) (e : Option Ext) (chk : Option (Nat × Nat × Bool))
    (go : State) : State :=
  match chk with
  | some f => accFault s l t k ls x (ctxOf x k) fi e f
  | none => go

/-- The outcome of an access whose operands may be poisoned. -/
def accessOutcome (s : State) (l t k : Nat) (ls : Lease) (x : Tile) (fi : Firing) (e : Option Ext) (bad : Bool) (ea : Nat) (st : Bool)
    (chk : Option (Nat × Nat × Bool)) (go : State) : State :=
  if bad then accFault s l t k ls x (ctxOf x k) fi e (cPADDR, ea, st)
  else checkOutcome s l t k ls x fi e chk go

variable (h : ElemTurn s l t k ls x fi)
include h

theorem exec_ldm (hw : ∀ i, fi.wait ≠ .mem i) {ty : ETy} {d : Dst} {a : Src} {f : Bfp} (hd : dstBound x k d = true)
    (hf : dstFull x (ctxOf x k) k d = false) {u : Tok} (hu : srcTok x k (ctxOf x k) fi ty a = .ok u) :
    exec (.ldm ty d a f e) s = .next (accessOutcome s l t k ls x fi e (pair0P u || nsrcPois x (ctxOf x k) fi e) (pair0 u)
      (strad (accLen f) (pair0 u)) (aChecks ls (extView e) .rd f.isNone [(pair0 u : Int)] (accLen f) (strad (accLen f)))
      (elemIssue s l t k ls x (ctxOf x k) fi .read (lineParts 0 (pair0 u) (accLen f))
        (.tok d (if f.isSome then 6 else tyTag ty) Tok.zero f) e false [])) := by
  have hrun : execLdm ty d a f e s = _ := onElem_run h _
  rw [waiting_eq_false hw, hd, hu] at hrun
  dsimp only at hrun
  rw [if_neg Bool.false_ne_true, if_neg (by simp), hf] at hrun
  simp only [Bool.false_eq_true, if_false] at hrun
  cases f with
  | none => exact hrun
  | some w => exact hrun

theorem exec_stm {v : BitVec 4} {a : Src} {f : Bfp} {u : Tok} (hu : srcTok x k (ctxOf x k) fi .i32 a = .ok u) :
    exec (.stm v a f e) s = .next (accessOutcome s l t k ls x fi e (pair0P u || nsrcPois x (ctxOf x k) fi e) (pair0 u)
      (strad (accLen f) (pair0 u)) (aChecks ls (extView e) .wr f.isNone [(pair0 u : Int)] (accLen f) (strad (accLen f)))
      (elemIssue s l t k ls x (ctxOf x k) fi .write (writeParts 0 (pair0 u) (accImage (mget Tok.zero (ctxOf x k).v v.toNat) f).1
        (accImage (mget Tok.zero (ctxOf x k).v v.toNat) f).2) .none e true [])) := by
  have hrun : execStm v a f e s = _ := onElem_run h _
  rw [hu] at hrun
  rw [← length_accImage (mget Tok.zero (ctxOf x k).v v.toNat) f]
  cases f with
  | none => exact hrun
  | some w => exact hrun

omit h in
/-- The checks of R334 in their order, of a word whose access is of one address. -/
theorem access_checked {i : Instr} {acc : Acc} {f : Bfp} {u : Tok} {go : State}
    (hi : exec i s = .next (accessOutcome s l t k ls x fi e (pair0P u || nsrcPois x (ctxOf x k) fi e) (pair0 u)
      (strad (accLen f) (pair0 u)) (aChecks ls (extView e) acc f.isNone [(pair0 u : Int)] (accLen f) (strad (accLen f))) go)) :
    let ea := pair0 u
    let crosses : Bool := decide (ea / 128 ≠ (ea + accLen f - 1) / 128)
    let fails (cause addr : Nat) : Prop := exec i s = .next (accFault s l t k ls x (ctxOf x k) fi e (cause, addr, crosses))
    (pair0P u = true ∨ nsrcPois x (ctxOf x k) fi e = true → fails cPADDR ea) ∧
    (pair0P u = false → nsrcPois x (ctxOf x k) fi e = false →
      (f = none → ea % 4 ≠ 0 → fails cALIGN ea) ∧
      ((f = none → ea % 4 = 0) →
        (2 ^ 56 < ea + accLen f → fails cTRANS (max ea (2 ^ 56))) ∧
        (ea + accLen f ≤ 2 ^ 56 →
          (∀ q, viewCheck ls (extView e) acc = some q → fails q ea) ∧
          (viewCheck ls (extView e) acc = none → exec i s = .next go)))) := by
  intro ea crosses fails
  have hst : strad (accLen f) (pair0 u) = crosses := strad_natCast (accLen_pos f) _
  unfold accessOutcome at hi
  rw [hst] at hi
  obtain ⟨hodd, heven⟩ := aChecks_single (ls := ls) (v := extView e) (len := accLen f) (acc := acc) (al := f.isNone)
    (st := strad (accLen f)) (pair0_lt u)
  rw [hst] at hodd heven
  have hnone : f.isNone = true → f = none := fun hf => Option.isNone_iff_eq_none.mp hf
  refine ⟨fun hb => ?_, fun hb hn => ?_⟩
  · rw [if_pos (by simpa using hb)] at hi
    exact hi
  · rw [if_neg (by simp [hb, hn])] at hi
    refine ⟨fun hf ho => ?_, fun he => ?_⟩
    · rw [hodd (by rw [hf]; rfl) ho] at hi
      exact hi
    · obtain ⟨hfar, hnear⟩ := heven fun hf => he (hnone hf)
      refine ⟨fun hlt => ?_, fun hle => ⟨fun q hq => ?_, fun hv => ?_⟩⟩
      · rw [hfar hlt] at hi
        exact hi
      · rw [hnear (accLen_pos f) hle, hq] at hi
        exact hi
      · rw [hnear (accLen_pos f) hle, hv] at hi
        exact hi

/-- The access that a word sends, with what its extension names. -/
theorem askedExt_elemIssue {posted : Bool} (hb : nsrcBad x fi e = false) (hp : postedOf s l t < 64) {op : MOp} (hop : isWaitOp op = false)
    {parts : List Part} (hloc : ∀ p ∈ parts, p.loc = .none) (dst : RDst) :
    AskedExt s (elemIssue s l t k ls x (ctxOf x k) fi op parts dst e posted []) l t k ls x fi e op parts dst posted := by
  obtain ⟨hasked, hext⟩ := elemIssue_asked h (posted := posted) hb hp op parts dst []
  exact ⟨hasked, hext hop hloc⟩

theorem exec_gath (hw : ∀ i, fi.wait ≠ .mem i) {ty : ETy} {d : Dst} {a b : Src} {f : Bfp} (hd : dstBound x k d = true)
    (hf : dstFull x (ctxOf x k) k d = false) {ts : List Tok} (hs : srcToks x k (ctxOf x k) fi ty [a, b] = .ok ts) :
    let iv := ts.getD 0 Tok.zero
    let bv := ts.getD 1 Tok.zero
    let lanes := gathLanes iv (pair0 bv) f
    exec (.gath ty d a b f e) s = .next (checkOutcome s l t k ls x fi e (gathChecks ls x (ctxOf x k) fi e .rd iv bv f)
      (elemIssue s l t k ls x (ctxOf x k) fi .read
        (f.elim (lanes.map fun p => mkPart (4 * p.1) p.2.toNat 4) fun w => (lanes.map fun p => lineParts 0 p.2.toNat (bfpBytes w.toNat)).flatten)
        (.tok d (if f.isSome then 6 else tyTag ty) Tok.zero (if lanes = [] then none else f)) e false [])) := by
  intro iv bv lanes
  have hrun : execGath ty d a b f e s = _ := onElem_run h _
  rw [waiting_eq_false hw, hd, hs] at hrun
  dsimp only at hrun
  rw [if_neg Bool.false_ne_true, if_neg (by simp), hf] at hrun
  simp only [Bool.false_eq_true, if_false] at hrun
  cases f with
  | none =>
    rw [ite_self]
    exact hrun
  | some w => exact hrun

theorem exec_scat {v : BitVec 4} {a b : Src} {f : Bfp} {ts : List Tok} (hs : srcToks x k (ctxOf x k) fi .i32 [a, b] = .ok ts) :
    let iv := ts.getD 0 Tok.zero
    let bv := ts.getD 1 Tok.zero
    let lanes := gathLanes iv (pair0 bv) f
    let u := mget Tok.zero (ctxOf x k).v v.toNat
    exec (.scat v a b f e) s = .next (checkOutcome s l t k ls x fi e (gathChecks ls x (ctxOf x k) fi e .wr iv bv f)
      (elemIssue s l t k ls x (ctxOf x k) fi .write
        (f.elim (lanes.map fun p =>
            { mkPart (4 * p.1) p.2.toNat 4 with data := leBytes 4 (laneAt u.data p.1), pois := List.replicate 4 (u.pois.getLsbD p.1) })
          fun w => (lanes.map fun p => writeParts 0 p.2.toNat (bfpOut u w.toNat).1 (bfpOut u w.toNat).2).flatten) .none e true [])) := by
  intro iv bv lanes u
  have hrun : execScat v a b f e s = _ := onElem_run h _
  rw [hs] at hrun
  cases f with
  | none => exact hrun
  | some w => exact hrun

omit h in
/-- A word whose checks either fault or let it go on. -/
theorem check_runs {i : Instr} {chk : Option (Nat × Nat × Bool)} {go : State} (hi : exec i s = .next (checkOutcome s l t k ls x fi e chk go)) :
    (∀ q, chk = some q → exec i s = .next (accFault s l t k ls x (ctxOf x k) fi e q)) ∧ (chk = none → exec i s = .next go) :=
  ⟨fun q hq => by rw [hq] at hi; exact hi, fun hn => by rw [hn] at hi; exact hi⟩

end

/-! ### GEN (R339) -/

/-- A counter of the chain as the rule reads it. -/
def genCtr (x : Tile) (j : Nat) : Int := if cKind x.act ≠ 0 ∧ j < cNctr x.act then (mget (0 : Word) x.ctr j).toInt else 0

theorem ctrVal_eq (x : Tile) : ctrVal x = genCtr x := by
  funext j
  rw [ctrVal, genCtr]
  by_cases h : cKind x.act ≠ 0 ∧ j < cNctr x.act
  · rw [if_pos h, if_pos (by simpa using h)]
    rfl
  · rw [if_neg h, if_neg (by simpa using h)]

/-- A padded coordinate outside its limits. -/
def genOut (D : Payload) (j : Nat) (z : Int) : Prop := adPaden D j = true ∧ (z < adLo D j ∨ adHi D j < z)

/-- Lane `i` of a generated access is padded (R339). -/
def genPad (D : Payload) (x : Tile) (cn i : Nat) : Prop :=
  (∃ j, j < 10 ∧ j ≠ cn ∧ genOut D j (genCtr x j)) ∨ genOut D cn (genCtr x cn + i)

/-- The lanes of GEN: padded, or at the position of the chain (R339). -/
theorem genLanes_spec (D : Payload) (x : Tile) (cn : Nat) :
    (genLanes D (ctrVal x) cn).length = 24 ∧ ∀ i, i < 24 →
      (genPad D x cn i → (genLanes D (ctrVal x) cn)[i]? = some none) ∧
      (¬genPad D x cn i → (genLanes D (ctrVal x) cn)[i]? =
        some (some ((adBase D : Int) + ((List.range 10).map fun j => genCtr x j * adS D j).sum + i * adS D cn))) := by
  rw [ctrVal_eq]
  unfold genLanes
  refine ⟨by simp, fun i hi => ?_⟩
  have hpad : (((List.range 10).any fun j => j != cn && (adPaden D j && (decide (genCtr x j < adLo D j) || decide (adHi D j < genCtr x j)))) ||
      (adPaden D cn && (decide (genCtr x cn + (i : Int) < adLo D cn) || decide (adHi D cn < genCtr x cn + (i : Int))))) = true ↔ genPad D x cn i := by
    simp [genPad, genOut]
  dsimp only
  rw [List.getElem?_map, List.getElem?_range hi, Option.map_some]
  refine ⟨fun hp => ?_, fun hp => ?_⟩
  · rw [if_pos (hpad.mpr hp)]
  · rw [if_neg fun h => hp (hpad.mp h), genBase, List.sum_eq_foldl]

/-- The parts of a generated access: one where its lanes are contiguous, or one for each lane (R339). -/
def genParts (one : Bool) (lanes : List (Nat × Int)) : List Part :=
  if one then
    (match lanes with
     | p :: _ => lineParts (4 * p.1) p.2.toNat (4 * lanes.length)
     | [] => [])
  else lanes.map fun p => mkPart (4 * p.1) p.2.toNat 4

theorem genParts_eq (z : Int) (lanes : List (Nat × Int)) : genParts (z == 4) lanes =
    if z = 4 then (lanes.head?.map fun p => lineParts (4 * p.1) p.2.toNat (4 * lanes.length)).getD []
    else lanes.map fun p => mkPart (4 * p.1) p.2.toNat 4 := by
  unfold genParts
  by_cases h : z = 4
  · rw [if_pos h, if_pos (by simpa using h)]
    cases lanes <;> rfl
  · rw [if_neg h, if_neg (by simpa using h)]

theorem loc_genParts {one : Bool} {lanes : List (Nat × Int)} {p : Part} (h : p ∈ genParts one lanes) : p.loc = .none := by
  unfold genParts at h
  cases one with
  | false =>
    rw [if_neg Bool.false_ne_true] at h
    obtain ⟨q, -, rfl⟩ := List.mem_map.mp h
    rfl
  | true =>
    rw [if_pos rfl] at h
    cases lanes with
    | nil => exact absurd h List.not_mem_nil
    | cons q r => exact loc_lineParts h

/-! ### Flushes of host ports (R135) -/

/-- Does the request come from a context of the tile? -/
def ofTile (l t : Nat) (i : Issuer) : Bool := match i with
  | .elem l' t' _ => l' == l && t' == t
  | _ => false

theorem ofTile_iff (l t : Nat) (i : Issuer) : ofTile l t i = true ↔ ∃ j, i = .elem l t j := by
  cases i with
  | elem l' t' k => simp [ofTile]
  | _ => simp [ofTile]

/-- A flush of the tile that is under way. -/
def ownFlush (l t : Nat) (q : Nat × Req) : Bool := q.2.isFlush && q.2.stage.open_ && ofTile l t q.2.iss

theorem any_ownFlush (l t : Nat) (m : List (Nat × Req)) : m.any (ownFlush l t) = true ↔
    ∃ i q j, (i, q) ∈ m ∧ q.isFlush = true ∧ q.stage.open_ = true ∧ q.iss = .elem l t j := by
  rw [List.any_eq_true]
  constructor
  · rintro ⟨⟨i, q⟩, hm, hq⟩
    rw [ownFlush, Bool.and_eq_true, Bool.and_eq_true, ofTile_iff] at hq
    obtain ⟨⟨hf, ho⟩, j, hj⟩ := hq
    exact ⟨i, q, j, hm, hf, ho, hj⟩
  · rintro ⟨i, q, j, hm, hf, ho, hj⟩
    refine ⟨(i, q), hm, ?_⟩
    rw [ownFlush, Bool.and_eq_true, Bool.and_eq_true, ofTile_iff]
    exact ⟨⟨hf, ho⟩, j, hj⟩

section
variable {s : State} {l t k : Nat} {ls : Lease} {x : Tile} {fi : Firing} {e : Option Ext} (h : ElemTurn s l t k ls x fi)
include h

theorem exec_gen (hw : ∀ i, fi.wait ≠ .mem i) {ty : ETy} {d : Dst} {cn : BitVec 4} (hd : dstBound x k d = true)
    (hf : dstFull x (ctxOf x k) k d = false) :
    let D := (ctxOf x k).adesc
    let lanes := (genLanes D (ctrVal x) cn.toNat).zipIdx.filterMap fun p => p.1.map fun a => (p.2, a)
    let st (a : Int) : Bool := adS D cn.toNat == 4 && strad (4 * lanes.length) ((lanes.map (·.2)).headD a)
    exec (.gen ty d cn e) s = .next (if nsrcPois x (ctxOf x k) fi e
      then accFault s l t k ls x (ctxOf x k) fi e (cPADDR, addrNat ((lanes.map (·.2)).headD 0), st 0)
      else checkOutcome s l t k ls x fi e (aChecks ls (extView e) .rd true (lanes.map (·.2)) 4 st)
        (elemIssue s l t k ls x (ctxOf x k) fi .read
          (genParts (adS D cn.toNat == 4) lanes)
          (.tok d (tyTag ty) { Tok.zero with data := ofElems 32 (List.replicate 24 (laneAt D 22)) } none) e false [])) := by
  intro D lanes st
  have hrun : execGen ty d cn e s = _ := onElem_run h _
  rw [waiting_eq_false hw, hd] at hrun
  rw [if_neg Bool.false_ne_true, if_neg (by simp), hf] at hrun
  simp only [Bool.false_eq_true, if_false] at hrun
  exact hrun

/-- TDL (R338). -/
theorem tdl_runs {a : Src} {u : Tok} (hu : srcTok x k (ctxOf x k) fi .i32 a = .ok u) :
    (u.pois ≠ 0 → exec (.tdl a) s = .next (wordFault s l t k ls x (ctxOf x k) fi cPADDR 0)) ∧
    (u.pois = 0 → laneAt u.data 1 / 2 ^ 24 ≠ 0 ∨ laneAt u.data 23 / 2 ^ 10 ≠ 0 →
      exec (.tdl a) s = .next (wordFault s l t k ls x (ctxOf x k) fi cCONFIG 0)) ∧
    (u.pois = 0 → laneAt u.data 1 / 2 ^ 24 = 0 → laneAt u.data 23 / 2 ^ 10 = 0 → Gives (.tdl a) s fun s' =>
      ∃ ls' x', leaseOf s' l = some ls' ∧ tileOf ls' t = some x' ∧ x'.ra = mdel x.ra k ∧
        ctxOf x' k = { ctxOf x k with adesc := u.data, fire := some (moved fi 1) }) := by
  have hrun : execTdl a s = _ := onElem_run h _
  rw [hu] at hrun
  dsimp only at hrun
  have h1 : bits (laneAt u.data 1) 24 8 = laneAt u.data 1 / 2 ^ 24 := by
    rw [bits_eq, Nat.mod_eq_of_lt]
    have := laneAt_lt u.data 1
    omega
  have h23 : bits (laneAt u.data 23) 10 22 = laneAt u.data 23 / 2 ^ 10 := by
    rw [bits_eq, Nat.mod_eq_of_lt]
    have := laneAt_lt u.data 23
    omega
  rw [h1, h23] at hrun
  refine ⟨fun hp => ?_, fun hp hbad => ?_, fun hp hok hok' => ?_⟩
  · rw [if_pos hp] at hrun
    exact hrun
  · rw [if_neg (by simpa using hp), if_pos (by simpa using hbad)] at hrun
    exact hrun
  · rw [if_neg (by simpa using hp), if_neg (by rw [hok, hok']; simp)] at hrun
    obtain ⟨x1, ⟨ls1, ⟨hl1, -⟩, ht1, -⟩, hc1, -, hx1⟩ := onlyCtx_upd h.lease h.tile (k := k) fun c => { c with adesc := u.data }
    have hl2 := leaseOf_updLease (fun ls => { ls with tiles := mmod ls.tiles t fun x => { x with ra := mdel x.ra k } }) hl1
    have ht2 := mfind_mmod_self ls1.tiles t (fun x => { x with ra := mdel x.ra k }) x1 ht1
    obtain ⟨x', ⟨ls', ⟨hl', -⟩, ht', -⟩, hc', -, hx'⟩ := onlyCtx_upd (k := k) hl2 ht2 fun c =>
      { c with fire := c.fire.map fun f => { f with pc := fi.pc + 1, wait := .none, ord := f.ord + 1 } }
    refine ⟨_, hrun, ls', x', hl', ht', ?_, ?_⟩
    · rw [hx', hx1]
    · have hc2 : ctxOf { x1 with ra := mdel x1.ra k } k = ctxOf x1 k := rfl
      rw [hc', hc2, hc1]
      dsimp only
      rw [h.fire]
      rfl

/-- PREF (R343). -/
theorem pref_runs {a : Src} {u : Tok} (hu : srcTok x k (ctxOf x k) fi .i32 a = .ok u) :
    (pair0P u = true ∨ 2 ^ 56 ≤ pair0 u ∨ ls.paired = true → Gives (.pref a) s fun s' => ElemMoves s s' l t k ls x fi (fi.pc + 1)) ∧
    (pair0P u = false → pair0 u < 2 ^ 56 → ls.paired = false → Gives (.pref a) s fun s' =>
      Asked s s' l t k ls fi .pref [mkPart 0 (pair0 u / 128 * 128) 128] .none 0 true 1) := by
  have hrun : execPref a s = _ := onElem_run h _
  rw [hu] at hrun
  dsimp only at hrun
  refine ⟨fun hor => ?_, fun hb hlt hp => ?_⟩
  · by_cases hout : (pair0P u || decide (2 ^ 56 ≤ pair0 u)) = true
    · rw [if_pos hout] at hrun
      exact elemMoves_of h hrun
    · have hp : ls.paired = true := by
        rw [Bool.or_eq_true, decide_eq_true_eq] at hout
        tauto
      rw [if_neg hout, if_pos hp] at hrun
      exact elemMoves_of h hrun
  · rw [if_neg (by rw [hb, Bool.false_or, decide_eq_true_eq]; omega), if_neg (by rw [hp]; exact Bool.false_ne_true)] at hrun
    refine ⟨_, hrun, asked_addReq h (r := prefReq l t k fi.pc (curWord x fi) (pair0 u)) rfl fun c hc => ?_⟩
    dsimp only
    rw [hc]
    rfl

/-- ORD step (R121, R344). -/
theorem ordStep_runs {y : Ext} (hp : postedOf s l t < 64) :
    (nsrcPois x (ctxOf x k) fi (some y) = true → exec (.ordStep y) s = .next (accFault s l t k ls x (ctxOf x k) fi (some y)
      (cPADDR, laneAt (nsrcTok x (ctxOf x k) fi y).data 0 % 2 ^ 16, false))) ∧
    (nsrcPois x (ctxOf x k) fi (some y) = false → nsrcBad x fi (some y) = false → Gives (.ordStep y) s fun s' =>
      AskedExt s s' l t k ls x fi (some y) .step [] .none true) := by
  have hrun : execOrdStep y s = _ := onElem_run h _
  rw [bits_zero] at hrun
  refine ⟨fun hn => ?_, fun hn hb => ?_⟩
  · rw [if_pos hn] at hrun
    exact hrun
  · rw [if_neg (by rw [hn]; exact Bool.false_ne_true)] at hrun
    exact ⟨_, hrun, askedExt_elemIssue h hb hp rfl (fun p hp => absurd hp List.not_mem_nil) _⟩

/-- ORD fence (R126, R135, R344). -/
theorem ordFence_runs {kinds : BitVec 4} {y : Ext} :
    let rd : Prop := kinds.getLsbD 3 = true ∨ kinds.getLsbD 2 = true
    let wr : Prop := y.scope = .sys ∨ kinds.getLsbD 1 = true ∨ kinds.getLsbD 0 = true
    let flushes : Prop := ∃ i q j, (i, q) ∈ s.reqs ∧ q.isFlush = true ∧ q.stage.open_ = true ∧ q.iss = .elem l t j
    (rd → x.ord.outR ≠ [] → exec (.ordFence kinds y) s = .next s) ∧ (wr → x.ord.outW ≠ [] → exec (.ordFence kinds y) s = .next s) ∧
    ((rd → x.ord.outR = []) → (wr → x.ord.outW = []) →
      (y.scope = .sys → x.ord.ports ≠ [] → exec (.ordFence kinds y) s = .next (sysFlush s (.elem l t k)).1) ∧
      (y.scope = .sys → x.ord.ports = [] → flushes → exec (.ordFence kinds y) s = .next s) ∧
      ((y.scope = .sys → x.ord.ports = [] ∧ ¬ flushes) → Gives (.ordFence kinds y) s fun s' =>
        ∃ ls' x', leaseOf s' l = some ls' ∧ tileOf ls' t = some x' ∧ x'.ord = fenceOrd kinds y.scope x.ord ∧
          ctxOf x' k = { ctxOf x k with fire := some (moved fi 2) })) := by
  intro rd wr flushes
  have hrun : exec (.ordFence kinds y) s = .next (
      if ((kinds.getLsbD 3 || kinds.getLsbD 2) && x.ord.outR != []) ||
          ((y.scope == .sys || kinds.getLsbD 1 || kinds.getLsbD 0) && x.ord.outW != []) then s
      else if y.scope == .sys && x.ord.ports != [] then (sysFlush s (.elem l t k)).1
      else if y.scope == .sys && s.reqs.any (ownFlush l t) then s
      else fireAt (updOrd s (.elem l t k) (fenceOrd kinds y.scope)) l t k (fi.pc + 2)) := by
    have hrun : execOrdFence kinds y s = _ := onElem_run h _
    exact hrun
  have hrd : (kinds.getLsbD 3 || kinds.getLsbD 2) = true ↔ rd := by simp [rd]
  have hwr : (y.scope == .sys || kinds.getLsbD 1 || kinds.getLsbD 0) = true ↔ wr := by simp [wr, or_assoc]
  have hfl : s.reqs.any (ownFlush l t) = true ↔ flushes := any_ownFlush _ _ _
  refine ⟨fun hr hne => hrun.trans ?_, fun hw hne => hrun.trans ?_, fun hR hW => ?_⟩
  · rw [if_pos (by rw [hrd.mpr hr]; simp [hne])]
  · rw [if_pos (by rw [hwr.mpr hw]; simp [hne])]
  · have hno : ¬(((kinds.getLsbD 3 || kinds.getLsbD 2) && x.ord.outR != []) ||
        ((y.scope == .sys || kinds.getLsbD 1 || kinds.getLsbD 0) && x.ord.outW != [])) = true := by
      rw [Bool.or_eq_true, Bool.and_eq_true, Bool.and_eq_true, hrd, hwr, bne_iff_ne, bne_iff_ne]
      rintro (⟨hr, hne⟩ | ⟨hw, hne⟩)
      · exact hne (hR hr)
      · exact hne (hW hw)
    rw [if_neg hno] at hrun
    refine ⟨fun hsys hports => hrun.trans ?_, fun hsys hports hf => hrun.trans ?_, fun hdone => ?_⟩
    · rw [if_pos (by simp [hsys, hports])]
    · rw [if_neg (by simp [hports]), if_pos (by rw [hfl.mpr hf]; simp [hsys])]
    · have h1 : ¬(y.scope == .sys && x.ord.ports != []) = true := by
        rw [Bool.and_eq_true, beq_iff_eq, bne_iff_ne]
        exact fun ⟨hs, hp⟩ => hp (hdone hs).1
      have h2 : ¬(y.scope == .sys && s.reqs.any (ownFlush l t)) = true := by
        rw [Bool.and_eq_true, beq_iff_eq, hfl]
        exact fun ⟨hs, hf⟩ => (hdone hs).2 hf
      rw [if_neg h1, if_neg h2] at hrun
      have hl1 := leaseOf_updLease (fun ls =>
        { ls with tiles := mmod ls.tiles t fun x => { x with ord := fenceOrd kinds y.scope x.ord } }) h.lease
      have ht1 := mfind_mmod_self ls.tiles t (fun x => { x with ord := fenceOrd kinds y.scope x.ord }) x h.tile
      obtain ⟨x', ⟨ls', ⟨hl', -⟩, ht', -⟩, hc', -, hx'⟩ := onlyCtx_upd (k := k) hl1 ht1 fun c =>
        { c with fire := c.fire.map fun f => { f with pc := fi.pc + 2, wait := .none, ord := f.ord + 1 } }
      refine ⟨_, hrun, ls', x', hl', ht', ?_, ?_⟩
      · rw [hx']
      · rw [hc']
        rw [show ctxOf { x with ord := fenceOrd kinds y.scope x.ord } k = ctxOf x k from rfl]
        dsimp only
        rw [h.fire]
        rfl

end

/-- Settles O31: each word with its checks in their order, then the checks themselves. -/
theorem addressTileWords : Obligations.address_tile_words := by
  refine ⟨fun s l t k ls x fi ty d v a b cn kinds f e y h hw hd hf hpo => ⟨fun u hu => tdl_runs h hu, fun u hu => ?ldm, fun u hu => ?stm,
    fun hf' ts hs => ?gath, fun hf' ts hs => ?gathBlocks, fun hf' ts hs => ?scat, fun hf' ts hs => ?scatBlocks, ?gen,
    fun u hu => pref_runs h hu, (ordStep_runs h hpo).1, (ordStep_runs h hpo).2, ordFence_runs h⟩,
    fun ls v len acc al as st => aChecks_order ls v len acc al as st, fun ls x c fi e acc iv bv f => ?checks⟩
  case ldm =>
    obtain ⟨hp, hc⟩ := access_checked (exec_ldm h hw hd hf hu)
    refine ⟨hp, fun hb hn => ⟨(hc hb hn).1, fun he => ⟨((hc hb hn).2 he).1, fun hle => ⟨(((hc hb hn).2 he).2 hle).1, fun hv hnb => ?_⟩⟩⟩⟩
    exact ⟨_, (((hc hb hn).2 he).2 hle).2 hv, askedExt_elemIssue h hnb hpo rfl (fun p hp => loc_lineParts hp) _⟩
  case stm =>
    obtain ⟨hp, hc⟩ := access_checked (exec_stm h hu)
    refine ⟨hp, fun hb hn => ⟨(hc hb hn).1, fun he => ⟨((hc hb hn).2 he).1, fun hle => ⟨(((hc hb hn).2 he).2 hle).1, fun hv hnb => ?_⟩⟩⟩⟩
    exact ⟨_, (((hc hb hn).2 he).2 hle).2 hv, askedExt_elemIssue h hnb hpo rfl (fun p hp => loc_writeParts hp) _⟩
  case gath =>
    subst hf'
    obtain ⟨hq, hgo⟩ := check_runs (exec_gath h hw (f := none) hd hf hs)
    refine ⟨hq, fun hc hnb => ⟨_, hgo hc, ?_⟩⟩
    rw [ite_self]
    exact askedExt_elemIssue h hnb hpo rfl (fun p hp => loc_mkParts hp fun _ => rfl) _
  case gathBlocks =>
    obtain ⟨w, rfl⟩ := Option.isSome_iff_exists.mp hf'
    obtain ⟨hq, hgo⟩ := check_runs (exec_gath h hw (f := some w) hd hf hs)
    exact ⟨hq, fun hc hnb => ⟨_, hgo hc, askedExt_elemIssue h hnb hpo rfl (fun p hp => loc_flatten hp fun _ _ => loc_lineParts) _⟩⟩
  case scat =>
    subst hf'
    obtain ⟨hq, hgo⟩ := check_runs (exec_scat h (f := none) hs)
    exact ⟨hq, fun hc hnb => ⟨_, hgo hc, askedExt_elemIssue h hnb hpo rfl (fun p hp => loc_mkParts hp fun _ => rfl) _⟩⟩
  case scatBlocks =>
    obtain ⟨w, rfl⟩ := Option.isSome_iff_exists.mp hf'
    obtain ⟨hq, hgo⟩ := check_runs (exec_scat h (f := some w) hs)
    exact ⟨hq, fun hc hnb => ⟨_, hgo hc, askedExt_elemIssue h hnb hpo rfl (fun p hp => loc_flatten hp fun _ _ => loc_writeParts) _⟩⟩
  case gen =>
    obtain ⟨hlen, hlanes⟩ := genLanes_spec (ctxOf x k).adesc x cn.toNat
    have hrun := exec_gen h hw (ty := ty) (cn := cn) (e := e) hd hf
    refine ⟨hlen, hlanes, fun hn => ?_, fun hn => ?_⟩
    · dsimp only at hrun
      rw [if_pos hn] at hrun
      exact hrun
    · dsimp only at hrun
      rw [if_neg (by rw [hn]; exact Bool.false_ne_true)] at hrun
      obtain ⟨hq, hgo⟩ := check_runs hrun
      refine ⟨hq, fun hc hnb => ⟨_, hgo hc, ?_⟩⟩
      dsimp only
      rw [← genParts_eq]
      exact askedExt_elemIssue h hnb hpo rfl (fun p hp => loc_genParts hp) _
  case checks =>
    exact ⟨gathLanes_eq _ _ _, fun hb hne => gathChecks_base hb hne, fun hb p hp => gathChecks_index (.inl hb) hp, fun hp =>
      ⟨fun hn hb => gathChecks_chain hp hb hn, fun hb hn => gathChecks_clean hp hb hn⟩⟩

end Sys2Proof.Claims
end

section
/-! SUPPORT. Host registers: memory commands (R55) and the translation blocks (R46, R62, R153). -/

namespace Sys2Proof.Claims

open Sys2Proof Sys2Proof.Machine

/-! ### Memory commands -/

/-- The state in which a command has ended with a status (R55). -/
def cmdEnded (u : State) (op st : Nat) : State := { u with mcmd := BitVec.ofNat 64 (2 ^ 63 + st * 256 + op) }

theorem goodRange_iff (u lo hi b n : Nat) :
    goodRange u lo hi b n = true ↔ b ≠ 0 ∧ n ≠ 0 ∧ b % u = 0 ∧ n % u = 0 ∧ lo ≤ b ∧ b + n ≤ hi := by
  simp [goodRange, and_assoc]

theorem foreignOverlap_iff (gs : List Grant) (b n t : Nat) :
    foreignOverlap gs b n t = true ↔ ∃ g ∈ gs, g.tenant ≠ t ∧ g.base < b + n ∧ b < g.base + g.len := by
  simp [foreignOverlap, overlaps]

theorem argTenant_eq (s : State) : argTenant s = s.marg2.toNat % 2 ^ 12 := bits_zero _ _

section
variable {s : State}

/-- A command that adds an entry: its checks in their order (R55). -/
theorem adds_runs {i : Instr} {op : Nat} {bad full foreign : Bool} {u : State}
    (hi : exec i s = .next (if bad then cmdEnded s op 1 else if full then cmdEnded s op 2 else if foreign then cmdEnded s op 4 else cmdEnded u op 0))
    {legal full' foreign' : Prop} (hl : bad = true ↔ ¬legal) (hf : full = true ↔ full') (ho : foreign = true ↔ foreign') :
    (¬legal → exec i s = .next (cmdEnded s op 1)) ∧ (legal → full' → exec i s = .next (cmdEnded s op 2)) ∧
    (legal → ¬full' → foreign' → exec i s = .next (cmdEnded s op 4)) ∧
    (legal → ¬full' → ¬foreign' → exec i s = .next (cmdEnded u op 0)) := by
  refine ⟨fun h1 => ?_, fun h1 h2 => ?_, fun h1 h2 h3 => ?_, fun h1 h2 h3 => ?_⟩
  · rw [hi, if_pos (hl.mpr h1)]
  · rw [hi, if_neg (fun h => hl.mp h h1), if_pos (hf.mpr h2)]
  · rw [hi, if_neg (fun h => hl.mp h h1), if_neg (fun h => h2 (hf.mp h)), if_pos (ho.mpr h3)]
  · rw [hi, if_neg (fun h => hl.mp h h1), if_neg (fun h => h2 (hf.mp h)), if_neg (fun h => h3 (ho.mp h))]

/-- A command that removes an entry (R55). -/
theorem removes_runs {i : Instr} {op : Nat} {gs : List Grant} {u : State}
    (hi : exec i s = .next (if gs.any (sameRange s) then cmdEnded u op 0 else cmdEnded s op 3)) :
    ((∃ g ∈ gs, g.base = s.marg0.toNat ∧ g.len = s.marg1.toNat) → exec i s = .next (cmdEnded u op 0)) ∧
    ((∀ g ∈ gs, ¬(g.base = s.marg0.toNat ∧ g.len = s.marg1.toNat)) → exec i s = .next (cmdEnded s op 3)) := by
  have hany : gs.any (sameRange s) = true ↔ ∃ g ∈ gs, g.base = s.marg0.toNat ∧ g.len = s.marg1.toNat := by
    simp [sameRange, argBase, argLen]
  refine ⟨fun h => ?_, fun h => ?_⟩
  · rw [hi, if_pos (hany.mpr h)]
  · rw [hi, if_neg fun ha => ?_]
    obtain ⟨g, hg, he⟩ := hany.mp ha
    exact h g hg he

end

/-- The unit of a byte on one side of the scratch window, before and after its range (R32, R59). -/
theorem unit_in_range {b n pa : Nat} (hb : b % unitSize b = 0) (hn : n % unitSize b = 0) (hside : pa < scratchBase ↔ b < scratchBase) :
    (decide (b / unitSize b ≤ pa / unitSize pa) && decide (pa / unitSize pa < (b + n) / unitSize b) &&
      decide (pa / unitSize pa * unitSize b < scratchBase) == decide (b < scratchBase)) = decide (b ≤ pa ∧ pa < b + n) := by
  have hu : unitSize pa = unitSize b := by
    unfold unitSize
    by_cases h : b < scratchBase
    · rw [if_pos h, if_pos (hside.mpr h)]
    · rw [if_neg h, if_neg fun hp => h (hside.mp hp)]
  rw [hu]
  have hbase : (pa / unitSize b * unitSize b < scratchBase) ↔ b < scratchBase := by
    rw [← hside]
    unfold unitSize scratchBase
    split <;> omega
  have hw : 0 < unitSize b := by unfold unitSize; split <;> decide
  have hdvd : unitSize b ∣ b := Nat.dvd_of_mod_eq_zero hb
  have h1 : b / unitSize b ≤ pa / unitSize b ↔ b ≤ pa := by
    rw [Nat.le_div_iff_mul_le hw, Nat.div_mul_cancel hdvd]
  have h2 : pa / unitSize b < (b + n) / unitSize b ↔ pa < b + n := by
    rw [Nat.div_lt_iff_lt_mul hw, Nat.div_mul_cancel (Nat.dvd_add hdvd (Nat.dvd_of_mod_eq_zero hn))]
  rw [Bool.eq_iff_iff]
  simp [hbase, h1, h2]

/-- A range that SCRUB takes lies in whole units (R55, R59). -/
def ScrubRange (s : State) (b n : Nat) : Prop :=
  (b % 4096 = 0 ∧ n % 4096 = 0 ∧ b + n ≤ hbmEnd s.boot) ∨
    (inScratch s.boot b = true ∧ b % 2048 = 0 ∧ n % 2048 = 0 ∧ b + n ≤ dieBase b + scratchSize)

theorem ScrubRange.units {s : State} {b n : Nat} (h : ScrubRange s b n) : b % unitSize b = 0 ∧ n % unitSize b = 0 := by
  unfold unitSize
  rcases h with ⟨hb, hn, -⟩ | ⟨hin, hb, hn, -⟩
  · split <;> omega
  · have hge : ¬b < scratchBase := by
      simp only [inScratch, Bool.and_eq_true, decide_eq_true_eq] at hin
      omega
    rw [if_neg hge]
    exact ⟨hb, hn⟩

theorem scrubs_iff (s : State) (b n : Nat) :
    ((b % 4096 == 0 && n % 4096 == 0 && decide (b + n ≤ hbmEnd s.boot)) ||
      (inScratch s.boot b && b % 2048 == 0 && n % 2048 == 0 && decide (b + n ≤ dieBase b + scratchSize))) = true ↔ ScrubRange s b n := by
  simp [ScrubRange, and_assoc]

theorem scrubOp_runs (s : State) : (¬ScrubRange s s.marg0.toNat s.marg1.toNat → scrubOp s = cmdEnded s 5 1) ∧
    (ScrubRange s s.marg0.toNat s.marg1.toNat → scrubOp s = cmdEnded (unscrubRange s s.marg0.toNat s.marg1.toNat) 5 0) := by
  unfold scrubOp
  refine ⟨fun h => ?_, fun h => ?_⟩
  · exact if_neg fun hb => h ((scrubs_iff _ _ _).mp hb)
  · exact if_pos ((scrubs_iff _ _ _).mpr h)

theorem nhas_unscrubRange (s : State) {b n pa : Nat} (h : ScrubRange s b n) (hside : pa < scratchBase ↔ b < scratchBase) :
    nhas (unscrubRange s b n).scrubbed (pa / unitSize pa) = (nhas s.scrubbed (pa / unitSize pa) && !decide (b ≤ pa ∧ pa < b + n)) := by
  obtain ⟨hb, hn⟩ := h.units
  rw [unscrubRange]
  dsimp only
  rw [nhas_filter, Bool.and_comm, ← unit_in_range hb hn hside]

section
variable {s : State} (h : s.mcmd.getLsbD 63 = false)
include h

/-- A command runs while GO reads 0 (R55). -/
theorem mcmd_idle (u : State) : (if mcmdBusy s then s else u) = u := if_neg (by rw [mcmdBusy, h]; exact Bool.false_ne_true)

theorem exec_tcset : exec .tcset s = .next (
    if !goodRange ((liveStacks s.boot).length * 4096) 0 (hbmEnd s.boot) (argBase s) (argLen s) || decide (256 ≤ argTenant s)
    then cmdEnded s 1 1
    else if decide (512 ≤ s.tenantChecks.length) then cmdEnded s 1 2
    else if foreignOverlap s.tenantChecks (argBase s) (argLen s) (argTenant s) then cmdEnded s 1 4
    else cmdEnded { s with tenantChecks := s.tenantChecks ++ [⟨argBase s, argLen s, argTenant s⟩] } 1 0) := by
  simp only [decide_eq_true_eq]
  exact congrArg Host.Outcome.next (mcmd_idle h (tcsetOp s))

theorem exec_dsgrant : exec .dsgrant s = .next (
    if !inScratch s.boot (argBase s) || !goodRange 2048 (dieBase (argBase s)) (dieBase (argBase s) + scratchSize) (argBase s) (argLen s) ||
      decide (256 ≤ argTenant s)
    then cmdEnded s 3 1
    else if decide (64 ≤ (grantsOf s (argBase s)).length) then cmdEnded s 3 2
    else if foreignOverlap s.scratchGrants (argBase s) (argLen s) (argTenant s) then cmdEnded s 3 4
    else cmdEnded { s with scratchGrants := s.scratchGrants ++ [⟨argBase s, argLen s, argTenant s⟩] } 3 0) := by
  simp only [decide_eq_true_eq]
  exact congrArg Host.Outcome.next (mcmd_idle h (dsgrantOp s))

theorem exec_tcclr : exec .tcclr s = .next (if s.tenantChecks.any (sameRange s)
    then cmdEnded { s with tenantChecks := s.tenantChecks.filter fun g => !sameRange s g } 2 0 else cmdEnded s 2 3) :=
  congrArg Host.Outcome.next (mcmd_idle h (tcclrOp s))

theorem exec_dsrevoke : exec .dsrevoke s = .next (if s.scratchGrants.any (sameRange s)
    then cmdEnded { s with scratchGrants := s.scratchGrants.filter fun g => !sameRange s g } 4 0 else cmdEnded s 4 3) :=
  congrArg Host.Outcome.next (mcmd_idle h (dsrevokeOp s))

theorem exec_scrub : exec .scrub s = .next (scrubOp s) := congrArg Host.Outcome.next (mcmd_idle h (scrubOp s))

theorem exec_poolsz : exec .poolsz s = .next (cmdEnded { s with boot := { s.boot with nextPool := argTenant s % 4 } } 6 0) :=
  congrArg Host.Outcome.next (mcmd_idle h (poolszOp s))

end

theorem sameRange_eq (s : State) : sameRange s = fun g => decide (g.base = s.marg0.toNat ∧ g.len = s.marg1.toNat) := by
  funext g
  rw [Bool.eq_iff_iff]
  simp [sameRange, argBase, argLen]

/-- Settles O34: each command by its checks in their order; what it leaves besides. -/
theorem memoryCommands : Obligations.memory_commands := by
  intro s
  refine ⟨fun hgo => ⟨?_, ?_, ?_, ?_, fun hs => ?_, fun hs => ?_, ?_⟩, fun hgo i hi => ?_, ⟨_, rfl, rfl, fun j hj => ?_⟩⟩
  · have hrun := exec_tcset hgo
    rw [argTenant_eq] at hrun
    refine adds_runs hrun ?_ decide_eq_true_iff (foreignOverlap_iff _ _ _ _)
    rw [Bool.or_eq_true, Bool.not_eq_true', ← Bool.not_eq_true, goodRange_iff, decide_eq_true_eq]
    exact (not_and_or.trans (or_congr_right Nat.not_lt)).symm
  · have hrun := exec_dsgrant hgo
    rw [argTenant_eq] at hrun
    refine adds_runs hrun ?_ decide_eq_true_iff (foreignOverlap_iff _ _ _ _)
    rw [Bool.or_eq_true, Bool.or_eq_true, Bool.not_eq_true', Bool.not_eq_true', ← Bool.not_eq_true, ← Bool.not_eq_true, goodRange_iff,
      decide_eq_true_eq, or_assoc]
    exact (not_and_or.trans (or_congr_right (not_and_or.trans (or_congr_right Nat.not_lt)))).symm
  · have hrun := exec_tcclr hgo
    have h := removes_runs hrun
    rw [sameRange_eq] at h
    exact h
  · have hrun := exec_dsrevoke hgo
    have h := removes_runs hrun
    rw [sameRange_eq] at h
    exact h
  · exact (exec_scrub hgo).trans (congrArg Host.Outcome.next ((scrubOp_runs s).1 hs))
  · refine ⟨_, (exec_scrub hgo).trans (congrArg Host.Outcome.next ((scrubOp_runs s).2 hs)), rfl, fun pa hside => ?_⟩
    exact nhas_unscrubRange s hs hside
  · have hrun := exec_poolsz hgo
    rw [argTenant_eq] at hrun
    exact hrun
  · simp only [List.mem_cons, List.not_mem_nil, or_false] at hi
    obtain rfl | rfl | rfl | rfl | rfl | rfl := hi
    all_goals exact congrArg Host.Outcome.next (if_pos hgo)
  · dsimp only
    rw [BitVec.getLsbD_and, BitVec.getLsbD_ofNat, Nat.testBit_two_pow_sub_one, decide_eq_true hj, Bool.true_and]
    rw [show (j != 63) = decide (j < 63) from by rw [Bool.eq_iff_iff]; simp; omega]

/-! Registers of the translation blocks -/

/-- A host write inside block `v` (R46) writes the register at its offset. -/
theorem pfWrite_block (s : State) {v k : Nat} (hv : v < 256) (hk : k < 0x40) (val : Dword) :
    pfWrite s (0x100000 + 0x40 * v + k) val = writeBlock s v k val := by
  rw [pfWrite, if_pos (by simp; omega)]
  congr 1 <;> omega

theorem exec_writeBlock (s : State) {v k : Nat} (hv : v < 256) (hk : k < 0x40) (val : Dword) :
    exec (.registerWrite .pf (0x100000 + k + 0x40 * v) val false) s = .next (writeBlock s v k val) := by
  rw [show 0x100000 + k + 0x40 * v = 0x100000 + 0x40 * v + k by omega, ← pfWrite_block s hv hk val]
  rfl

theorem exec_writeVlimit (s : State) {v : Nat} (hv : v < 256) (val : Dword) :
    exec (.registerWrite .pf (0x140000 + 16 * v) val false) s =
      .next (updVf s v fun x => { x with vlimit := val.toNat % 2 ^ 32 }) := by
  show Host.Outcome.next (pfWrite s (0x140000 + 16 * v) val) = _
  rw [pfWrite, if_neg (by simp; omega), if_pos (by simp; omega), show (0x140000 + 16 * v - 0x140000) / 16 = v by omega, bits_zero]

theorem exec_writeTquota (s : State) {v : Nat} (hv : v < 256) (val : Dword) :
    exec (.registerWrite .pf (0x160000 + 16 * v) val false) s =
      .next (updVf s v fun x => { x with tquota := val.toNat % 2 ^ 32 }) := by
  show Host.Outcome.next (pfWrite s (0x160000 + 16 * v) val) = _
  rw [pfWrite, if_neg (by simp; omega), if_neg (by simp; omega), if_neg (by simp; omega), if_pos (by simp; omega),
    show (0x160000 + 16 * v - 0x160000) / 16 = v by omega, bits_zero]

theorem ringSize_eq (x : Vf) : ringSize x =
    if 1 ≤ x.pool.toNat % 2 ^ 5 ∧ x.pool.toNat % 2 ^ 5 ≤ 20 then 2 ^ (x.pool.toNat % 2 ^ 5) else 0 := by
  rw [ringSize, bits_zero]
  split <;> split <;> simp_all
  omega

/-- What a write of POOL leaves of a block: the ring is empty (R62). -/
def emptied (val : Dword) (x : Vf) : Vf := { x with pool := masked val (2 ^ 63 + (2 ^ 48 - 2 ^ 12) + 31), phead := 0, ptail := 0 }

/-- Settles O35: each write by the register at its offset. -/
theorem functionRegisters : Obligations.function_registers := by
  intro s v val tail ok hv
  have hnot : ¬ 256 ≤ v := by omega
  have htail : exec (.poollvlTailWrite v tail) s = if ringSize (vfOf s v) < (tail.toNat + 2 ^ 32 - (vfOf s v).phead) % 2 ^ 32
      then .next s else .next (updVf s v fun x => { x with ptail := tail.toNat }) := by
    show execPoollvlTailWrite v tail s = _
    simp [execPoollvlTailWrite, hnot]
  rw [ringSize_eq] at htail
  have hpool : exec (.poolWrite v val) s =
      .next { updVf s v (emptied val) with tabFrames := s.tabFrames.filter fun e => e.1 % 4096 != v } := if_neg hnot
  have hblock := vfOf_updVf s v (emptied val)
  refine ⟨exec_writeBlock s hv (by decide : 0 < 0x40) val, exec_writeBlock s hv (by decide : 8 < 0x40) val,
    exec_writeBlock s hv (by decide : 0x10 < 0x40) val, exec_writeBlock s hv (by decide : 0x18 < 0x40) val,
    exec_writeVlimit s hv val, exec_writeTquota s hv val, fun fn o => rfl, ⟨_, hpool, ?_, ?_, ?_, ?_, ?_⟩,
    fun h => htail.trans (if_pos h), fun h => htail.trans (if_neg (by omega)),
    ⟨_, congrArg Host.Outcome.next (if_neg hnot), ?_, fun u hu => vfOf_updVf_ne s _ hu, rfl⟩⟩
  · exact congrArg Vf.pool hblock
  · exact congrArg Vf.phead hblock
  · exact congrArg Vf.ptail hblock
  · intro e he
    have hkept := (List.mem_filter.mp he).2
    exact bne_iff_ne.mp hkept
  · exact fun u hu => vfOf_updVf_ne s (emptied val) hu
  · exact vfOf_updVf s v _

/-! Queue registers -/

theorem queueOf_queueError (s : State) (g c : Nat) : queueOf (queueError s g c) g = { queueOf s g with error := true, errc := c } :=
  queueOf_updQueue s g fun q => { q with error := true, errc := c }

/-- A tail beyond the ring of the record read last (R372). -/
theorem tailOver_iff (q : Queue) (tail prog : Nat) :
    tailOver q tail prog = true ↔ ∃ r, q.parsed = some r ∧ 2 ^ r.logrs < (tail + 2 ^ 32 - prog) % 2 ^ 32 := by
  rw [tailOver]
  cases hr : q.parsed with
  | none => simp
  | some r => simp

/-- Another queue has the same function and local number (R364). -/
theorem ownedTwice_iff (s : State) (g vf j : Nat) (v : Bool) :
    (v && s.queues.any fun e => e.1 != g && e.2.v && e.2.vf == vf && e.2.loc == j) = true ↔
      v = true ∧ ∃ e ∈ s.queues, e.1 ≠ g ∧ e.2.v = true ∧ e.2.vf = vf ∧ e.2.loc = j := by
  simp [and_assoc]

theorem exec_qown (s : State) {g : Nat} (val : Dword) (hg : g < 4096) :
    let n := val.toNat
    let va := if (queueOf s g).inn then (queueOf s g).v else n.testBit 63
    let dup : Prop := va = true ∧
      ∃ e ∈ s.queues, e.1 ≠ g ∧ e.2.v = true ∧ e.2.vf = n / 2 ^ 32 % 2 ^ 8 ∧ e.2.loc = n / 2 ^ 16 % 2 ^ 8
    (dup → exec (.qownWrite g val) s = .next s) ∧
    (¬ dup → exec (.qownWrite g val) s = .next (updQueue s g fun q =>
      { q with v := va, vf := n / 2 ^ 32 % 2 ^ 8, loc := n / 2 ^ 16 % 2 ^ 8, weight := n % 2 ^ 8 })) := by
  have hin : decide (4096 ≤ g) = false := decide_eq_false (by omega)
  intro n va dup
  have hrun : exec (.qownWrite g val) s = execQownWrite g val s := rfl
  rw [execQownWrite] at hrun
  simp only [hin, Bool.false_or, bits_eq, ownedTwice_iff, Nat.pow_zero, Nat.div_one] at hrun
  exact ⟨fun h => hrun.trans (if_pos h), fun h => hrun.trans (if_neg h)⟩

theorem exec_qswIn (s : State) {g : Nat} (b : Bool) (hg : g < 4096) :
    exec (.qswInWrite g b) s =
      if (queueOf s g).busy then .next s
      else if b = true ∧ (queueOf s g).st = .out then
        if 512 ≤ (s.queues.filter fun e => e.2.st != .out).length then .next (pfEvent s 0x05 0xFFF 0xFFF 0xFF 0 g 0)
        else .next (updQueue s g fun q => { q with inn := true, busy := true, st := .switchingIn })
      else if b = false ∧ (queueOf s g).st = .inn then
        .next (updQueue s g fun q => { q with inn := false, busy := true, st := .switchingOut })
      else .next s := by
  have hin : decide (4096 ≤ g) = false := decide_eq_false (by omega)
  show execQswInWrite g b s = _
  rw [execQswInWrite]
  simp only [hin, Bool.false_or, Bool.and_eq_true, Bool.not_eq_true', decide_eq_true_eq]

/-- What a switch-in leaves of the queue (R381). -/
def switchedIn (r : QRec) (t p : Nat) (q : Queue) : Queue :=
  { q with
    st := .inn
    busy := false
    parsed := some r
    rd := .done
    tail := q.heldTail.getD t
    heldTail := none
    progress := p
    head := if q.rd == .done then (p + (q.head + 2 ^ 32 - q.progress)) % 2 ^ 32 else p
    headRec := if q.rd == .done then q.headRec else none
    depsOk := q.rd == .done && q.depsOk }

theorem switchedIn_done (r : QRec) (t p : Nat) {q : Queue} (h : q.rd = .done) : (switchedIn r t p q).headRec = q.headRec ∧
    (switchedIn r t p q).head = (p + (q.head + 2 ^ 32 - q.progress)) % 2 ^ 32 := by
  have hrd : (q.rd == QRd.done) = true := by rw [h]; rfl
  exact ⟨if_pos hrd, if_pos hrd⟩

theorem switchIn_ok {s s1 : State} {g : Nat} {r : QRec} {t p : Nat} (hst : (queueOf s g).st = .switchingIn)
    (hread : readQrec s (queueOf s g) = .ok r t p s1) :
    ∃ u, exec (.queueSwitchInComplete g) s = .next u ∧ (queueOf u g = switchedIn r t p (queueOf s1 g) ∨
      queueOf u g = { switchedIn r t p (queueOf s1 g) with error := true, errc := cOVERFLOW }) := by
  have hself := queueOf_updQueue s1 g (switchedIn r t p)
  refine ⟨if (queueOf s g).heldTail.isSome &&
      tailOver (queueOf (updQueue s1 g (switchedIn r t p)) g) (queueOf (updQueue s1 g (switchedIn r t p)) g).tail p
    then queueError (updQueue s1 g (switchedIn r t p)) g cOVERFLOW else updQueue s1 g (switchedIn r t p), ?_, ?_⟩
  · show execQueueSwitchInComplete g s = _
    rw [execQueueSwitchInComplete]
    dsimp only
    rw [if_neg (not_not_intro hst), hread]
    rfl
  · split
    · exact .inr ((queueOf_queueError _ g cOVERFLOW).trans (by rw [hself]))
    · exact .inl hself

/-- What a write of TAIL does to queue `h`, which reads as `p` (R365, R372, R381). -/
def tailWritten (s : State) (h : Nat) (p : Queue) (tail : Nat) : State :=
  match p.st with
  | .inn =>
    let s1 := updQueue s h fun q => { q with tail := tail }
    if tailOver p tail p.progress then queueError s1 h cOVERFLOW else s1
  | .out =>
    let s1 := saveTail (updQueue s h fun q => { q with stail := tail }) h
    if tailOver p tail p.sprog then queueError s1 h cOVERFLOW else s1
  | _ => updQueue s h fun q => { q with heldTail := some tail }

theorem exec_queueTail {s : State} {v j h : Nat} {p : Queue} (tail : Word) (hq : queueOfVf s v j = some (h, p)) :
    exec (.queueTailWrite v j tail) s = .next (tailWritten s h p tail.toNat) := by
  show execQueueTailWrite v j tail s = _
  unfold execQueueTailWrite tailWritten
  rw [hq]
  cases hst : p.st <;> simp only [hst]

theorem exec_qctlEn {s : State} {v j h : Nat} {p : Queue} (b : Bool) (hq : queueOfVf s v j = some (h, p)) :
    exec (.qctlEnWrite v j b) s = if b && !p.en then .next (loadQrec (updQueue s h fun q => { q with en := true, rd := .due }) h)
      else .next (updQueue s h fun q => { q with en := b }) := by
  show execQctlEnWrite v j b s = _
  rw [execQctlEnWrite, hq]

/-- The record of an enabled queue is read where that is due, and the head becomes PROGRESS (R365). -/
theorem loadQrec_ok {s s1 : State} {g : Nat} {r : QRec} {t c : Nat} (hen : (queueOf s g).en = true) (hrd : (queueOf s g).rd = .due)
    (hread : readQrec s (queueOf s g) = .ok r t c s1) :
    loadQrec s g = updQueue s1 g fun q => { q with parsed := some r, rd := .done, head := q.progress, headRec := none, depsOk := false } := by
  have hdue : ((queueOf s g).en && (queueOf s g).rd == .due) = true := by rw [hen, hrd]; rfl
  rw [loadQrec]
  refine (if_pos hdue).trans ?_
  rw [hread]

/-- Settles O36: each register by the queue's state. -/
theorem queueRegisters : Obligations.queue_registers := by
  intro s g v j val tail hg
  refine ⟨(exec_qown s val hg).1, (exec_qown s val hg).2, fun hb b => ?_, fun hb hst hfull => ?_, fun hb hst hroom => ?_,
    fun hb hst => ?_, fun hst => ⟨fun r t p s1 hread => ?_, fun c s1 hread => ?_⟩, fun hnone => ?_, fun h p hq => ?_⟩
  · rw [exec_qswIn s b hg, if_pos hb]
  · rw [exec_qswIn s true hg, if_neg (by simp [hb]), if_pos ⟨rfl, hst⟩, if_pos hfull]
  · rw [exec_qswIn s true hg, if_neg (by simp [hb]), if_pos ⟨rfl, hst⟩, if_neg (by omega)]
  · rw [exec_qswIn s false hg, if_neg (by simp [hb]), if_neg (by simp), if_pos ⟨rfl, hst⟩]
  · obtain ⟨u, hrun, hu⟩ := switchIn_ok hst hread
    refine ⟨u, hrun, ?_⟩
    have hdone := switchedIn_done r t p (q := queueOf s1 g)
    dsimp only
    obtain hu | hu := hu <;> rw [hu] <;> exact ⟨rfl, rfl, rfl, rfl, rfl, hdone⟩
  · refine ⟨queueError (updQueue s1 g fun q => { q with st := .out, inn := false, busy := false }) g c, ?_, ?_⟩
    · show execQueueSwitchInComplete g s = _
      rw [execQueueSwitchInComplete]
      dsimp only
      rw [if_neg (not_not_intro hst), hread]
    · dsimp only
      rw [queueOf_queueError, queueOf_updQueue]
      exact ⟨rfl, rfl, rfl, rfl⟩
  · refine ⟨?_, ?_, fun b => ?_⟩
    · show execQueueTailWrite v j tail s = _
      rw [execQueueTailWrite, hnone]
    · show execErrclr v j s = _
      rw [execErrclr, hnone]
    · show execQctlEnWrite v j b s = _
      rw [execQctlEnWrite, hnone]
  · have htail := exec_queueTail tail hq
    refine ⟨fun hst hfit => ?_, fun hst hfull => ?_, fun hst hfit => ?_, fun hst hfull => ?_, fun hst => ?_, ?_, ?_, ?_⟩
    · rw [htail, tailWritten, hst]
      exact congrArg Host.Outcome.next (if_neg fun hover => hfit ((tailOver_iff _ _ _).mp hover))
    · rw [htail, tailWritten, hst]
      exact congrArg Host.Outcome.next (if_pos ((tailOver_iff _ _ _).mpr hfull))
    · rw [htail, tailWritten, hst]
      exact congrArg Host.Outcome.next (if_neg fun hover => hfit ((tailOver_iff _ _ _).mp hover))
    · rw [htail, tailWritten, hst]
      exact congrArg Host.Outcome.next (if_pos ((tailOver_iff _ _ _).mpr hfull))
    · obtain hst | hst := hst <;> rw [htail, tailWritten, hst]
    · exact (exec_qctlEn false hq).trans (if_neg (by simp))
    · intro hen hp s0 r t c s1 hread
      have hself : queueOf s0 h = { queueOf s h with en := true, rd := .due } :=
        queueOf_updQueue s h fun q => { q with en := true, rd := .due }
      rw [exec_qctlEn true hq, if_pos (by rw [hen]; rfl)]
      exact congrArg Host.Outcome.next (loadQrec_ok (by rw [hself]) (by rw [hself]) hread)
    · show execErrclr v j s = _
      rw [execErrclr, hq]
      simp only [beq_iff_eq]

end Sys2Proof.Claims
end

section
/-! SUPPORT. Words written out, the state after reset, and device memory read back (R2, R59, R83, R147, R219 to R237). -/

namespace Sys2Proof.Claims

open Sys2Proof Sys2Proof.Machine

/-- Settles O54: each word is decoded. -/
theorem decodedWords : Obligations.decoded_words := by
  refine ⟨?_, ?_, ?_, ?_, ?_, ?_, ?_, ?_, ?_, ?_, ?_, ?_⟩ <;> decide

theorem memRd_reset (pa n : Nat) : memRd State.reset pa n = (List.replicate n 0, List.replicate n false) := by
  have hempty : ∀ k, nhas State.reset.scrubbed k = false := fun _ => rfl
  simp only [memRd, bankRd, memBank, hempty, Bool.false_eq_true, if_false, Bool.false_and]
  rw [List.map_const', List.map_const', List.length_range]

theorem tickOf_reset (d : Nat) : tickOf State.reset d = 1 := by
  show 1 + (if (0 : BitVec 256).getLsbD d then 1 else 0) = 1
  simp

/-- Settles O59: each part of the reset state. -/
theorem resetState : Obligations.reset_state :=
  ⟨rfl, rfl, rfl, memRd_reset, fun d _ => tickOf_reset d, fun _ => rfl, fun _ => rfl, fun _ => rfl, fun _ => rfl,
    rfl, rfl, rfl, rfl, rfl, rfl, rfl, rfl, rfl, rfl, rfl, rfl, rfl⟩

/-! Zeroing of units -/

theorem mem_unitsOf {u a n k : Nat} : k ∈ unitsOf u a n ↔ n ≠ 0 ∧ a / u ≤ k ∧ k ≤ (a + n - 1) / u := by
  rw [unitsOf]
  by_cases hn : n = 0
  · simp [hn]
  · have hle : a / u ≤ (a + n - 1) / u := Nat.div_le_div_right (by omega)
    rw [if_neg hn, List.mem_map]
    refine ⟨fun ⟨i, hi, hk⟩ => ?_, fun ⟨_, hlo, hhi⟩ => ⟨k - a / u, List.mem_range.mpr (by omega), by omega⟩⟩
    have := List.mem_range.mp hi
    omega

/-- The unit of an address that a range touches is among the range's units. -/
theorem div_mem_unitsOf {u a n x : Nat} (hx : a ≤ x ∧ x < a + n) : x / u ∈ unitsOf u a n :=
  mem_unitsOf.mpr ⟨by omega, Nat.div_le_div_right hx.1, Nat.div_le_div_right (by omega)⟩

theorem rdByte_dropRange (m : List Host.Cell) (lo hi x : Nat) :
    rdByte (dropRange m lo hi) x = if lo ≤ x ∧ x < hi then 0 else rdByte m x := by
  rw [rdByte, rdByte, mget, mget, dropRange, mfind_filter m fun k => !(lo ≤ k && k < hi)]
  by_cases h : lo ≤ x ∧ x < hi
  · rw [if_pos h, if_neg (by simp [h.1, h.2])]
    rfl
  · rw [if_neg h, if_pos (by rw [← Bool.decide_and, decide_eq_false h]; rfl)]

section
variable (u : Nat) (hu : 0 < u)
include hu

theorem in_unit_iff (k x : Nat) : (k * u ≤ x ∧ x < k * u + u) ↔ x / u = k := by
  rw [Nat.div_eq_iff hu]
  omega

theorem rdByte_zeroed (ks : List Nat) (b : Bank) (x : Nat) :
    rdByte (ks.foldl (bankZero u) b).mem x = if x / u ∈ ks then 0 else rdByte b.mem x := by
  induction ks generalizing b with
  | nil => simp
  | cons k ks ih =>
    rw [List.foldl_cons, ih, bankZero, rdByte_dropRange]
    simp only [in_unit_iff u hu, List.mem_cons]
    by_cases hk : x / u = k <;> simp [hk]

end

theorem nhas_scr_zeroed (u : Nat) (ks : List Nat) (b : Bank) (k : Nat) :
    nhas (ks.foldl (bankZero u) b).scr k = (decide (k ∈ ks) || nhas b.scr k) := by
  induction ks generalizing b with
  | nil => simp
  | cons j ks ih =>
    rw [List.foldl_cons, ih, bankZero]
    dsimp only
    rw [nhas_nadd]
    by_cases hk : k = j
    · simp [hk]
    · have hne : (j == k) = false := beq_false_of_ne (Ne.symm hk)
      simp [hk, hne]

/-- A unit of `m` sectors that is zeroed holds no poisoned sector. -/
theorem nhas_pois_zeroed (m : Nat) (hm : 0 < m) (ks : List Nat) (b : Bank) (j : Nat) :
    nhas (ks.foldl (bankZero (32 * m)) b).pois j = (!decide (j / m ∈ ks) && nhas b.pois j) := by
  induction ks generalizing b with
  | nil => simp
  | cons k ks ih =>
    have hlo : k * (32 * m) / 32 = k * m := by
      rw [show k * (32 * m) = 32 * (k * m) by ring, Nat.mul_div_cancel_left _ (by decide)]
    have hhi : (k * (32 * m) + 32 * m) / 32 = k * m + m := by
      rw [show k * (32 * m) + 32 * m = 32 * (k * m + m) by ring, Nat.mul_div_cancel_left _ (by decide)]
    rw [List.foldl_cons, ih, bankZero]
    dsimp only
    rw [nhas_filter, hlo, hhi]
    have hin := in_unit_iff m hm k j
    by_cases hk : j / m = k
    · obtain ⟨hge, hlt⟩ := hin.mpr hk
      simp [hk, hge, hlt]
    · have hout : ¬ (k * m ≤ j ∧ j < k * m + m) := fun h => hk (hin.mp h)
      simp only [← Bool.decide_and, hout, decide_false, Bool.not_false, Bool.true_and, List.mem_cons, hk, false_or]

/-! Poison of sectors -/

/-- Bytes of sector `k` among those written from `a` on. -/
def inSector (a k : Nat) (ps : List Bool) : List (Bool × Nat) := ps.zipIdx.filter fun e => (a + e.2) / 32 == k

theorem poisonedIn_iff (a k : Nat) (ps : List Bool) :
    ((inSector a k ps).any (·.1)) = true ↔ ∃ i, ps[i]? = some true ∧ (a + i) / 32 = k := by
  rw [inSector, List.any_eq_true]
  constructor
  · rintro ⟨⟨p, i⟩, he, hp⟩
    obtain ⟨hmem, hk⟩ := List.mem_filter.mp he
    have hp : p = true := hp
    subst hp
    exact ⟨i, List.mem_zipIdx_iff_getElem?.mp hmem, beq_iff_eq.mp hk⟩
  · rintro ⟨i, hi, hk⟩
    exact ⟨(true, i), List.mem_filter.mpr ⟨List.mem_zipIdx_iff_getElem?.mpr hi, beq_iff_eq.mpr hk⟩, rfl⟩

theorem countP_sector (a k n : Nat) :
    (List.range n).countP (fun i => (a + i) / 32 == k) = min (a + n) (32 * k + 32) - max a (32 * k) := by
  induction n with
  | zero => simp
  | succ n ih =>
    rw [List.range_succ, List.countP_append, ih, List.countP_singleton]
    by_cases hk : (a + n) / 32 = k
    · rw [if_pos (beq_iff_eq.mpr hk)]
      omega
    · rw [if_neg fun h => hk (beq_iff_eq.mp h)]
      omega

/-- A sector is written whole when all its 32 bytes are. -/
theorem length_inSector (a k : Nat) (ps : List Bool) :
    (inSector a k ps).length = 32 ↔ a ≤ k * 32 ∧ k * 32 + 32 ≤ a + ps.length := by
  rw [inSector, ← List.countP_eq_length_filter]
  have hidx : ps.zipIdx.countP (fun e => (a + e.2) / 32 == k) = (List.range ps.length).countP fun i => (a + i) / 32 == k := by
    rw [List.range_eq_range', ← List.zipIdx_map_snd 0 ps, List.countP_map]
    rfl
  rw [hidx, countP_sector]
  omega

/-- The bit of sector `j` after a write: set, cleared or kept by what reaches it (R83, R147). -/
def sectorBit (a : Nat) (ps : List Bool) (old : Bool) (j : Nat) : Bool :=
  if (inSector a j ps).any (·.1) then true else if (inSector a j ps).length == 32 then false else old

/-- The poison bits after sector `k` alone is written. -/
def sectorMark (a : Nat) (ps : List Bool) (acc : NSet) (k : Nat) : NSet :=
  if (inSector a k ps).any (·.1) then nadd acc k else if (inSector a k ps).length == 32 then ndel acc k else acc

theorem nhas_sectorMark (a : Nat) (ps : List Bool) (acc : NSet) (k j : Nat) :
    nhas (sectorMark a ps acc k) j = if j = k then sectorBit a ps (nhas acc j) j else nhas acc j := by
  by_cases hk : j = k
  · subst hk
    rw [if_pos rfl, sectorMark, sectorBit]
    split
    · rw [nhas_nadd, beq_self_eq_true, Bool.true_or]
    · split
      · rw [nhas_ndel, beq_self_eq_true, Bool.not_true, Bool.false_and]
      · rfl
  · have hne : (k == j) = false := beq_false_of_ne (Ne.symm hk)
    rw [if_neg hk, sectorMark]
    split
    · rw [nhas_nadd, hne, Bool.false_or]
    · split
      · rw [nhas_ndel, hne, Bool.not_false, Bool.true_and]
      · rfl

theorem nhas_sectorMarks (a : Nat) (ps : List Bool) (ks : List Nat) (acc : NSet) (j : Nat) :
    nhas (ks.foldl (sectorMark a ps) acc) j = if j ∈ ks then sectorBit a ps (nhas acc j) j else nhas acc j := by
  induction ks generalizing acc with
  | nil => simp
  | cons k ks ih =>
    have htwice : ∀ b, sectorBit a ps (sectorBit a ps b j) j = sectorBit a ps b j := by
      intro b
      rw [sectorBit, sectorBit]
      split <;> [rfl; split <;> rfl]
    rw [List.foldl_cons, ih, nhas_sectorMark]
    by_cases hk : j = k
    · have hin : j ∈ k :: ks := hk ▸ List.mem_cons_self
      rw [if_pos hk, if_pos hin, htwice, ite_self]
    · rw [if_neg hk]
      simp only [List.mem_cons, hk, false_or]

/-- A sector that no written byte reaches keeps its bit. -/
theorem sectorBit_out {a x : Nat} {ps : List Bool} (old : Bool) (h : ∀ i, i < ps.length → (a + i) / 32 ≠ x) :
    sectorBit a ps old x = old := by
  rw [sectorBit, if_neg, if_neg]
  · rw [beq_iff_eq, length_inSector]
    rintro ⟨hlo, hhi⟩
    exact h (x * 32 - a) (by omega) (by omega)
  · rw [poisonedIn_iff]
    rintro ⟨i, hi, hx⟩
    exact h i (List.getElem?_eq_some_iff.mp hi).1 hx

theorem nhas_poisAfter (pois : NSet) (a j : Nat) (ps : List Bool) :
    nhas (poisAfter pois a ps) j = sectorBit a ps (nhas pois j) j := by
  refine (nhas_sectorMarks a ps (unitsOf 32 a ps.length) pois j).trans ?_
  split
  · rfl
  · next hout =>
    refine (sectorBit_out _ fun i hi hj => hout ?_).symm
    exact hj ▸ div_mem_unitsOf ⟨by omega, by omega⟩

/-! Banks -/

/-- Byte `x` of a bank, as a read returns it (R59). -/
def shownByte (u : Nat) (b : Bank) (x : Nat) : Byte := if nhas b.scr (x / u) then rdByte b.mem x else 0
/-- The poison with which it is read (R59, R84). -/
def shownPois (u : Nat) (b : Bank) (x : Nat) : Bool := nhas b.scr (x / u) && nhas b.pois (x / 32)

theorem bankRd_eq (u : Nat) (b : Bank) (a n : Nat) :
    bankRd u b a n = ((List.range n).map fun i => shownByte u b (a + i), (List.range n).map fun i => shownPois u b (a + i)) := rfl

/-- The units that a write zeroes first (R59). -/
def fresh (u : Nat) (b : Bank) (a n : Nat) : List Nat := (unitsOf u a n).filter fun k => !nhas b.scr k

theorem mem_fresh {u : Nat} {b : Bank} {a n k : Nat} : k ∈ fresh u b a n ↔ k ∈ unitsOf u a n ∧ nhas b.scr k = false := by
  rw [fresh, List.mem_filter, Bool.not_eq_true']

section
variable (u : Nat) (b : Bank) (a : Nat) (bs : List Byte) (ps : List Bool)

theorem nhas_scr_bankWr (k : Nat) :
    nhas (bankWr u b a bs ps).scr k = (decide (k ∈ fresh u b a bs.length) || nhas b.scr k) := nhas_scr_zeroed u _ b k

theorem rdByte_bankWr (hu : 0 < u) {x : Nat} (hx : x < a ∨ a + bs.length ≤ x) :
    rdByte (bankWr u b a bs ps).mem x = if x / u ∈ fresh u b a bs.length then 0 else rdByte b.mem x :=
  (rdByte_wrBytes_out _ a x bs hx).trans (rdByte_zeroed u hu _ b x)

theorem nhas_pois_bankWr {m : Nat} (hm : 0 < m) (j : Nat) : nhas (bankWr (32 * m) b a bs ps).pois j =
    sectorBit a ps (!decide (j / m ∈ fresh (32 * m) b a bs.length) && nhas b.pois j) j :=
  (nhas_poisAfter _ a j ps).trans (congrArg (sectorBit a ps · j) (nhas_pois_zeroed m hm _ b j))

/-- A write shows in the units it touches: the bytes written, the others as they read before (R59). -/
theorem shownByte_bankWr (hu : 0 < u) (x : Nat) : shownByte u (bankWr u b a bs ps) x =
    if a ≤ x ∧ x < a + bs.length then bs.getD (x - a) 0 else shownByte u b x := by
  rw [shownByte, nhas_scr_bankWr]
  by_cases hx : a ≤ x ∧ x < a + bs.length
  · have hin : x / u ∈ unitsOf u a bs.length := div_mem_unitsOf hx
    have hscr : (decide (x / u ∈ fresh u b a bs.length) || nhas b.scr (x / u)) = true := by
      cases hs : nhas b.scr (x / u)
      · rw [decide_eq_true (mem_fresh.mpr ⟨hin, hs⟩)]; rfl
      · rw [Bool.or_true]
    have hlt : x - a < bs.length := by omega
    have hrd := rdByte_wrBytes_in ((fresh u b a bs.length).foldl (bankZero u) b).mem a (x - a) bs hlt
    rw [Nat.add_sub_cancel' hx.1] at hrd
    rw [if_pos hscr, if_pos hx, List.getD_eq_getElem bs 0 hlt]
    exact hrd
  · rw [if_neg hx, rdByte_bankWr u b a bs ps hu (by omega), shownByte]
    by_cases hf : x / u ∈ fresh u b a bs.length
    · rw [if_pos hf, ite_self, (mem_fresh.mp hf).2, if_neg Bool.false_ne_true]
    · rw [if_neg hf, decide_eq_false hf, Bool.false_or]

theorem shownPois_bankWr {m : Nat} (hm : 0 < m) (hlen : ps.length = bs.length) (x : Nat) :
    shownPois (32 * m) (bankWr (32 * m) b a bs ps) x = sectorBit a ps (shownPois (32 * m) b x) (x / 32) := by
  rw [shownPois, nhas_scr_bankWr, nhas_pois_bankWr b a bs ps hm, shownPois, Nat.div_div_eq_div_mul]
  by_cases hf : x / (32 * m) ∈ fresh (32 * m) b a bs.length
  · rw [decide_eq_true hf, (mem_fresh.mp hf).2]
    rfl
  · rw [decide_eq_false hf, Bool.false_or, Bool.not_false, Bool.true_and]
    cases hs : nhas b.scr (x / (32 * m))
    · rw [Bool.false_and, Bool.false_and, sectorBit_out]
      intro i hi hx
      refine hf (mem_fresh.mpr ⟨?_, hs⟩)
      rw [← Nat.div_div_eq_div_mul, ← hx, Nat.div_div_eq_div_mul]
      exact div_mem_unitsOf ⟨by omega, by omega⟩
    · rw [Bool.true_and, Bool.true_and]

/-- A write leaves what is read with another unit size where none of its units is touched. -/
theorem shown_far {m v x : Nat} (hm : 0 < m) (hx : x < a ∨ a + bs.length ≤ x)
    (hfar : ∀ k ∈ unitsOf (32 * m) a bs.length, k ≠ x / v ∧ k ≠ x / (32 * m)) :
    shownByte v (bankWr (32 * m) b a bs ps) x = shownByte v b x ∧
    shownPois v (bankWr (32 * m) b a bs ps) x = (nhas b.scr (x / v) && sectorBit a ps (nhas b.pois (x / 32)) (x / 32)) := by
  have hv : x / v ∉ fresh (32 * m) b a bs.length := fun h => (hfar _ (mem_fresh.mp h).1).1 rfl
  have hu : x / (32 * m) ∉ fresh (32 * m) b a bs.length := fun h => (hfar _ (mem_fresh.mp h).1).2 rfl
  rw [shownByte, shownPois, nhas_scr_bankWr, decide_eq_false hv, Bool.false_or, rdByte_bankWr _ b a bs ps (by omega) hx, if_neg hu,
    nhas_pois_bankWr b a bs ps hm, Nat.div_div_eq_div_mul, decide_eq_false hu]
  exact ⟨rfl, rfl⟩

end

theorem unitSize_hbm {pa : Nat} (h : pa < scratchBase) : unitSize pa = 4096 := if_pos h

theorem unitSize_scratch {pa : Nat} (h : ¬ pa < scratchBase) : unitSize pa = 2048 := if_neg h

theorem unitSize_sectors (pa : Nat) : ∃ m, 0 < m ∧ unitSize pa = 32 * m := by
  by_cases h : pa < scratchBase
  · exact ⟨128, by decide, unitSize_hbm h⟩
  · exact ⟨64, by decide, unitSize_scratch h⟩

theorem memRd_one (s : State) (a : Nat) :
    memRd s a 1 = ([shownByte (unitSize a) (memBank s) a], [shownPois (unitSize a) (memBank s) a]) := rfl

section
variable (s : State) {pa : Nat} {bs : List Byte} (ps : List Bool) (hlen : ps.length = bs.length)
  (hside : pa + bs.length ≤ scratchBase ∨ scratchBase ≤ pa)
include hlen hside

theorem shown_memWr (x : Nat) :
    shownByte (unitSize x) (memBank (memWr s pa bs ps)) x =
      (if pa ≤ x ∧ x < pa + bs.length then bs.getD (x - pa) 0 else shownByte (unitSize x) (memBank s) x) ∧
    shownPois (unitSize x) (memBank (memWr s pa bs ps)) x =
      sectorBit pa ps (shownPois (unitSize x) (memBank s) x) (x / 32) := by
  obtain ⟨m, hm, hu⟩ := unitSize_sectors pa
  have hbank : memBank (memWr s pa bs ps) = bankWr (32 * m) (memBank s) pa bs ps := by rw [← hu]; rfl
  rw [hbank]
  by_cases hx : x < scratchBase ↔ pa < scratchBase
  · have hux : unitSize x = 32 * m := by
      rw [← hu, unitSize, unitSize]
      simp only [hx]
    rw [hux]
    exact ⟨shownByte_bankWr _ _ pa bs ps (by omega) x, shownPois_bankWr _ pa bs ps hm hlen x⟩
  · obtain ⟨hout, hfar, hsec⟩ : (x < pa ∨ pa + bs.length ≤ x) ∧
        (∀ k ∈ unitsOf (32 * m) pa bs.length, k ≠ x / unitSize x ∧ k ≠ x / (32 * m)) ∧
        ∀ i, i < bs.length → (pa + i) / 32 ≠ x / 32 := by
      have hbase : scratchBase = 8796093022208 := rfl
      rw [← hu]
      refine ⟨by omega, fun k hk => ?_, by omega⟩
      obtain ⟨hn, hlo, hhi⟩ := mem_unitsOf.mp hk
      by_cases hp : pa < scratchBase
      · rw [unitSize_hbm hp] at hlo hhi ⊢
        rw [unitSize_scratch (by omega)]
        omega
      · rw [unitSize_scratch hp] at hlo hhi ⊢
        rw [unitSize_hbm (by omega)]
        omega
    have h := shown_far (memBank s) pa bs ps (v := unitSize x) hm hout hfar
    rw [if_neg (by omega), h.1, h.2, shownPois, sectorBit_out _ (hlen ▸ hsec), sectorBit_out _ (hlen ▸ hsec)]
    exact ⟨rfl, rfl⟩

end

/-- Settles O60: bytes and sectors of the units touched, and of the others. -/
theorem memoryReadsBack : Obligations.memory_reads_back := by
  intro s pa bs ps hlen hside t
  have hshown := shown_memWr s ps hlen hside
  refine ⟨?_, fun a => ⟨fun hout => ?_, fun hmarked => ?_, fun hclean hwhole => ?_, fun hclean hpart => ?_⟩⟩
  · refine List.ext_getElem (by simp [memRd, bankRd]) fun i _ hi => ?_
    have hx := (hshown (pa + i)).1
    rw [if_pos ⟨by omega, by omega⟩, Nat.add_sub_cancel_left, List.getD_eq_getElem bs 0 hi] at hx
    have hunit : unitSize (pa + i) = unitSize pa := by
      rw [unitSize, unitSize]
      simp only [show pa + i < scratchBase ↔ pa < scratchBase by omega]
    rw [← hx, hunit]
    simp only [memRd, bankRd_eq, List.getElem_map, List.getElem_range]
    rfl
  · rw [memRd_one, memRd_one, (hshown a).1, if_neg (by omega)]
  · rw [memRd_one, (hshown a).2, sectorBit, if_pos ((poisonedIn_iff _ _ _).mpr hmarked)]
  · rw [memRd_one, (hshown a).2, sectorBit, if_neg (mt (poisonedIn_iff _ _ _).mp hclean), if_pos]
    exact beq_iff_eq.mpr ((length_inSector _ _ _).mpr (hlen ▸ hwhole))
  · rw [memRd_one, memRd_one, (hshown a).2, sectorBit, if_neg (mt (poisonedIn_iff _ _ _).mp hclean), if_neg]
    exact fun h => hpart (hlen ▸ (length_inSector _ _ _).mp (beq_iff_eq.mp h))

end Sys2Proof.Claims
end

section
/-! SUPPORT. What a step runs: the turn at the head of the agenda, fetched and decoded (R164, R228, R244, R254, R359, R388). -/

namespace Sys2Proof.Claims

open Sys2Proof Sys2Proof.Machine

/-- What a fetch leads to. -/
def ran : Fetched → Res
  | .run i s => exec i s
  | .audit d s => execCreditAuditWindow d s
  | .idle s => .next s

/-- The state in which the turn at the head of the agenda has been taken. -/
def taken (s : State) (rest : List Turn) (a : Agent) : State := { s with agenda := rest, cur := a }

section
variable {s : State} {rest : List Turn}

theorem step_turn {t : Turn} (h : s.agenda = t :: rest) : step s = ran (fetchTurn (taken s rest .none) t) := by
  rw [step, h]
  rfl

variable (hfull : fullService s = true)
include hfull

theorem step_event {i : Instr} (h : s.agenda = .event i :: rest) : step s = exec i (taken s rest .none) := by
  have hserved : (fullService (taken s rest .none) || alwaysServed (taken s rest .none) i) = true := Bool.or_eq_true_iff.mpr (.inl hfull)
  rw [step_turn h, fetchTurn, if_pos hserved, ran]

theorem step_audit {d : Nat} (h : s.agenda = .audit d :: rest) : step s = exec (.creditAuditWindow d) (taken s rest .none) := by
  rw [step_turn h]
  exact congrArg ran (if_pos hfull)

theorem step_own {l : Nat} {i : Instr} (h : s.agenda = .own l i :: rest) : step s = exec i (taken s rest (.seq l false)) := by
  rw [step_turn h]
  exact congrArg ran (if_pos hfull)

theorem step_seq {l : Nat} {rep : Bool} (h : s.agenda = .seq l rep :: rest) :
    step s = ran (fetchSeq (taken s rest (.seq l rep)) l rep) := by
  rw [step_turn h]
  exact congrArg ran (if_pos hfull)

theorem step_elem {l t k : Nat} (h : s.agenda = .elem l t k :: rest) :
    step s = ran (fetchElem (taken s rest (.elem l t k)) l t k) := by
  rw [step_turn h]
  exact congrArg ran (if_pos hfull)

theorem step_sw {l t j : Nat} (h : s.agenda = .sw l t j :: rest) :
    step s = ran (fetchSw (taken s rest (.sw l t)) l t j) := by
  rw [step_turn h]
  exact congrArg ran (if_pos hfull)

end

/-! Sequencers -/

section
variable {u : State} {l : Nat} {rep : Bool} {ls : Lease} (hls : leaseOf u l = some ls)
  (hmay : seqMayIssue u ls (seqOf ls rep) = true)
include hls hmay

theorem fetchSeq_trap (hdue : trapDue ls ls.seq = true) (hrep : rep = false) (hstep : inStep ls = true) :
    fetchSeq u l rep = .run .trapTaken u := by
  have hnot : ¬ (!seqMayIssue u ls (seqOf ls rep)) = true := by rw [hmay]; decide
  have hnow : (trapDue ls ls.seq && !rep && inStep ls) = true := by rw [hdue, hrep, hstep]; rfl
  rw [fetchSeq, hls]
  exact (if_neg hnot).trans (if_pos hnow)

end

/-- What a sequencer's turn comes to where no trap is due (R254). -/
def fetchWord (u : State) (l : Nat) (rep : Bool) (ls : Lease) : Fetched :=
  if ls.img.seqlen = 0 then .run .halt u
  else if !inRegion ls (seqOf ls rep).pc then .idle (seqFault (setWord u l rep 0) l rep cBRANCH (seqOf ls rep).pc)
  else match mfind (seqOf ls rep).icache (seqOf ls rep).pc with
    | some w => runSeqWord l rep w u
    | none => fetchMiss u l rep (seqOf ls rep)

section
variable {u : State} {l : Nat} {rep : Bool} {ls : Lease} (hls : leaseOf u l = some ls)

include hls

theorem fetchSeq_word (hmay : seqMayIssue u ls (seqOf ls rep) = true) (hdue : trapDue ls ls.seq = false)
    (hop : ∀ n, (seqOf ls rep).op ≠ .page n) : fetchSeq u l rep = fetchWord u l rep ls := by
  have hnot : ¬ (!seqMayIssue u ls (seqOf ls rep)) = true := by rw [hmay]; decide
  rw [fetchSeq, hls]
  refine (if_neg hnot).trans ?_
  rw [hdue]
  dsimp only
  rw [Bool.false_and, Bool.false_and, Bool.false_and, Bool.false_and, Bool.false_and, if_neg Bool.false_ne_true, if_neg Bool.false_ne_true]
  split
  · next n hpage => exact absurd hpage (hop n)
  · rfl

end

section
variable {u : State} {l : Nat} {rep : Bool} {ls : Lease}

theorem fetchWord_halt (h : ls.img.seqlen = 0) : fetchWord u l rep ls = .run .halt u := if_pos h

variable (hlen : ls.img.seqlen ≠ 0)
include hlen

theorem fetchWord_out (h : inRegion ls (seqOf ls rep).pc = false) :
    fetchWord u l rep ls = .idle (seqFault (setWord u l rep 0) l rep cBRANCH (seqOf ls rep).pc) :=
  (if_neg hlen).trans (if_pos (by rw [h]; rfl))

variable (hin : inRegion ls (seqOf ls rep).pc = true)
include hin

theorem fetchWord_hit {w : Word} (h : mfind (seqOf ls rep).icache (seqOf ls rep).pc = some w) :
    fetchWord u l rep ls = runSeqWord l rep w u := by
  rw [fetchWord, if_neg hlen, if_neg (by rw [hin]; decide), h]

theorem fetchWord_miss (h : mfind (seqOf ls rep).icache (seqOf ls rep).pc = none) :
    fetchWord u l rep ls = fetchMiss u l rep (seqOf ls rep) := by
  rw [fetchWord, if_neg hlen, if_neg (by rw [hin]; decide), h]

end

theorem runSeqWord_ok {l : Nat} {rep : Bool} {w : Word} {i : Instr} (s : State) (h : decodeSeq w = .ok i) :
    runSeqWord l rep w s = .run i (setWord s l rep w) := by
  rw [runSeqWord, h]

theorem runSeqWord_error {l : Nat} {rep : Bool} {w : Word} {e : Reject} (s : State) (h : decodeSeq w = .error e) :
    runSeqWord l rep w s = .run (.illegalOp w) (setWord s l rep w) := by
  rw [runSeqWord, h]

theorem fetchMiss_ok {u u1 : State} {l : Nat} {rep : Bool} {q : Seq} {b : List Byte} {p : List Bool}
    (hread : vread l none [(q.pc, 4)] [] [] u = .ok b p u1) (hclean : p.any id = false) (hnew : mfind q.icache (q.pc + 2 ^ 60) = none) :
    fetchMiss u l rep q = runSeqWord l rep (BitVec.ofNat 32 (leNat b))
      (updSeq u1 l rep fun q => cacheWord q q.pc (BitVec.ofNat 32 (leNat b))) := by
  rw [fetchMiss, hread]
  dsimp only
  rw [hclean, if_neg Bool.false_ne_true, hnew]

/-! Elements and switches -/

theorem fetchElem_word {u : State} {l t k : Nat} {ls : Lease} {x : Tile} {fi : Firing} (hls : leaseOf u l = some ls)
    (hx : tileOf ls t = some x) (hlive : leaseLive u ls = true) (hpass : x.passed = false)
    (hturn : canIssue (ctxOf x k) = true ∨ stalledWord (ctxOf x k) = true) (hfire : (ctxOf x k).fire = some fi)
    (hlo : hEntry x.act fi.h ≤ fi.pc) (hhi : fi.pc ≤ hWend x.act fi.h) :
    fetchElem u l t k = runOpWord (if canIssue (ctxOf x k) then issueWord u l t k fi else u) l t k ls x (ctxOf x k) fi := by
  have hmay : ¬ (!leaseLive u ls || x.passed || !(canIssue (ctxOf x k) || stalledWord (ctxOf x k))) = true := by
    rw [hlive, hpass, Bool.or_eq_true_iff.mpr hturn]
    decide
  have hin : ¬ (decide (fi.pc < hEntry x.act fi.h) || decide (hWend x.act fi.h < fi.pc)) = true := by
    simp only [Bool.or_eq_true, decide_eq_true_eq]
    omega
  rw [fetchElem, hls]
  dsimp only
  rw [hx]
  dsimp only
  rw [if_neg hmay, hfire]
  exact if_neg hin

/-- Is the word at the counter of a firing, or the second word it takes, damaged (R143)? -/
def damaged (x : Tile) (fi : Firing) : Bool :=
  wordBad x.act 0 fi.pc || ((progWord x.act fi.pc).toNat / 2 ^ 30 = 2 && (progWord x.act fi.pc).getLsbD 5 &&
    fi.pc + 1 ≤ hWend x.act fi.h && wordBad x.act 0 (fi.pc + 1))

theorem damaged_iff (x : Tile) (fi : Firing) : damaged x fi = true ↔ wordBad x.act 0 fi.pc = true ∨
    ((progWord x.act fi.pc).toNat / 2 ^ 30 = 2 ∧ (progWord x.act fi.pc).getLsbD 5 = true ∧ fi.pc + 1 ≤ hWend x.act fi.h ∧
      wordBad x.act 0 (fi.pc + 1) = true) := by
  simp only [damaged, Bool.or_eq_true, Bool.and_eq_true, decide_eq_true_eq, and_assoc]

/-- What an undamaged word comes to, by the checks of R244 in their order. -/
def runGood (u : State) (l t k : Nat) (ls : Lease) (x : Tile) (fi : Firing) : Fetched :=
  let w := progWord x.act fi.pc
  let cls := w.toNat / 2 ^ 30
  let op := w.toNat / 2 ^ 24 % 64
  if cls = 3 then .run (.nonInstr w) u
  else if reservedOp cls op then .run (.illegalOp w) u
  else if !implemented (kindOf ls t) cls op then .idle (wordFault u l t k ls x (ctxOf x k) fi cUNSUPPORTED 0)
  else match decodeOp w (if fi.pc + 1 ≤ hWend x.act fi.h then some (progWord x.act (fi.pc + 1)) else none) with
    | .ok i => .run i u
    | .error _ => .run (.illegalOp w) u

section
variable (u : State) (l t k : Nat) (ls : Lease) {x : Tile} {fi : Firing}

theorem runOpWord_damaged (h : damaged x fi = true) :
    runOpWord u l t k ls x (ctxOf x k) fi = .idle (wordFault u l t k ls x (ctxOf x k) fi cPCTL 0) := if_pos h

theorem runOpWord_good (h : ¬ damaged x fi = true) : runOpWord u l t k ls x (ctxOf x k) fi = runGood u l t k ls x fi := if_neg h

end

theorem fetchSw_word {u : State} {l t j : Nat} {ls : Lease} {x : Tile} {i : Instr} (hls : leaseOf u l = some ls)
    (hx : tileOf ls t = some x) (hlive : leaseLive u ls = true) (hpass : x.passed = false) (hgood : wordBad x.act 4 j = false)
    (hnew : wordBad x.act 5 (256 + j) = false) (hdec : decodeSw (mget 0 x.act.sw j) = .ok i) : fetchSw u l t j = .run i u := by
  rw [fetchSw, hls]
  dsimp only
  rw [hx]
  dsimp only
  rw [hlive, hpass, hnew, hgood, hdec]
  rfl

/-- Settles O56: each kind of turn by its fetch. -/
theorem stepRunsDecoded : Obligations.step_runs_decoded := by
  intro s rest l t k j rep i hfull at_
  refine ⟨fun h => by rw [step, h], fun h => step_event hfull h, fun h => step_audit hfull h, fun h => step_own hfull h,
    fun ls h hls => ?_, fun ls x fi h hls hx hlive hpass hturn hfire hlo hhi => ?_,
    fun ls x h hls hx hlive hpass hgood hnew hdec => ?_⟩
  · intro q u hmay hop
    have hstep := step_seq hfull h
    have hat : taken s rest (.seq l rep) = u := rfl
    rw [hat] at hstep
    refine ⟨fun hdue hrep hin => ?_, fun hdue => ?_⟩
    · exact hstep.trans (congrArg ran (fetchSeq_trap (u := u) hls hmay hdue hrep hin))
    · have hword := hstep.trans (congrArg ran (fetchSeq_word (u := u) hls hmay hdue hop))
      refine ⟨fun hlen => ?_, fun hlen hout => ?_, fun hlen hin => ⟨fun w hw => ?_, fun b p u1 hnone hread hclean hnew hd => ?_⟩⟩
      · exact hword.trans (congrArg ran (fetchWord_halt hlen))
      · exact hword.trans (congrArg ran (fetchWord_out hlen hout))
      · have hhit := hword.trans (congrArg ran (fetchWord_hit hlen hin hw))
        exact ⟨fun hd => hhit.trans (congrArg ran (runSeqWord_ok u hd)), fun e hd => hhit.trans (congrArg ran (runSeqWord_error u hd))⟩
      · have hmiss := hword.trans (congrArg ran (fetchWord_miss hlen hin hnone))
        exact hmiss.trans (congrArg ran ((fetchMiss_ok hread hclean hnew).trans (runSeqWord_ok _ hd)))
  · intro u w cls op next bad
    have hstep := step_elem hfull h
    have hword := hstep.trans (congrArg ran (fetchElem_word (u := at_ (.elem l t k)) hls hx hlive hpass hturn hfire hlo hhi))
    have hbad := damaged_iff x fi
    refine ⟨fun h => hword.trans (congrArg ran (runOpWord_damaged u l t k ls (hbad.mpr h))), fun h => ?_⟩
    have hgood := hword.trans (congrArg ran (runOpWord_good u l t k ls (mt hbad.mp h)))
    refine ⟨fun h3 => ?_, fun h3 hres himp => ?_, fun h3 hres himp hd => ?_, fun h3 hres => ?_⟩
    · exact hgood.trans (congrArg ran (if_pos h3))
    · rw [hgood, runGood, if_neg h3, if_neg (by rw [hres]; decide), if_pos (by rw [himp]; rfl)]
      rfl
    · rw [hgood, runGood, if_neg h3, if_neg (by rw [hres]; decide), if_neg (by rw [himp]; decide), hd]
      rfl
    · rw [hgood, runGood, if_neg h3, if_pos hres]
      rfl
  · rw [step_sw hfull h]
    exact congrArg ran (fetchSw_word (u := at_ (.sw l t)) hls hx hlive hpass hgood hnew hdec)

end Sys2Proof.Claims
end

section
/-! SUPPORT. Requests after the steps that end them (R119, R128, R348), and the chain trackers (R121, R122). -/

namespace Sys2Proof.Claims

open Sys2Proof Sys2Proof.Machine

/-! ### Requests -/

theorem reqOf_updReq {s : State} {id : Nat} {r : Req} (f : Req → Req) (h : reqOf s id = some r) :
    reqOf (updReq s id f) id = some (f r) := mfind_mmod_self s.reqs id f r h

theorem reqOf_updReq_ne (s : State) {id j : Nat} (f : Req → Req) (h : j ≠ id) : reqOf (updReq s id f) j = reqOf s j :=
  mfind_mmod_ne s.reqs f h

theorem reqOf_setPart {s : State} {id i : Nat} {r : Req} (p : Part) (h : reqOf s id = some r) :
    reqOf (setPart s id i p) id = some { r with parts := lset r.parts i p } := reqOf_updReq _ h

theorem getElem?_lset {ps : List Part} {i : Nat} {p : Part} (q : Part) (h : ps[i]? = some p) : (lset ps i q)[i]? = some q := by
  rw [lset, List.getElem?_set_self (List.getElem?_eq_some_iff.mp h).1]

theorem reqOf_settle (s : State) (id t j : Nat) : reqOf (settle s id t) j = (reqOf s j).map (dropAfter id t) :=
  mfind_mmap s.reqs (fun _ r => dropAfter id t r) j

theorem dropAfter_fields (id t : Nat) (r : Req) : dropAfter id t r =
    { r with after := (dropAfter id t r).after, floor := (dropAfter id t r).floor } := by
  unfold dropAfter
  split <;> rfl

/-- What the end of an access leaves of a lease: the orders of its agents alone change (R119, R128, R348). -/
structure Settled (ls ls' : Lease) : Prop where
  seq : ∀ rep, ∃ o h, seqOf ls' rep = { seqOf ls rep with ord := o, hist := h }
  tiles : ∀ t x, tileOf ls t = some x → ∃ o b, tileOf ls' t = some { x with ord := o, poisStore := b }
  rest : ls' = { ls with seq := ls'.seq, seqR := ls'.seqR, goFloor := ls'.goFloor, goAfter := ls'.goAfter, engines := ls'.engines, tiles := ls'.tiles }

theorem Settled.refl (ls : Lease) : Settled ls ls :=
  ⟨fun _ => ⟨_, _, rfl⟩, fun _ _ h => ⟨_, _, h⟩, rfl⟩

theorem Settled.trans {a b c : Lease} (h : Settled a b) (h' : Settled b c) : Settled a c := by
  refine ⟨fun rep => ?_, fun t x ht => ?_, ?_⟩
  · obtain ⟨o, k, he⟩ := h.seq rep
    obtain ⟨o', k', he'⟩ := h'.seq rep
    exact ⟨o', k', by rw [he', he]⟩
  · obtain ⟨o, k, he⟩ := h.tiles t x ht
    obtain ⟨o', k', he'⟩ := h'.tiles t _ he
    exact ⟨o', k', he'⟩
  · rw [h'.rest, h.rest]

/-- Every lease of `s` stands in `s'` with its orders alone changed. -/
def LeasesSettled (s s' : State) : Prop := ∀ l ls, leaseOf s l = some ls → ∃ ls', leaseOf s' l = some ls' ∧ Settled ls ls'

theorem LeasesSettled.refl (s : State) : LeasesSettled s s := fun _ ls h => ⟨ls, h, .refl ls⟩

theorem LeasesSettled.trans {a b c : State} (h : LeasesSettled a b) (h' : LeasesSettled b c) : LeasesSettled a c := by
  intro l ls hl
  obtain ⟨ls1, hl1, h1⟩ := h l ls hl
  obtain ⟨ls2, hl2, h2⟩ := h' l ls1 hl1
  exact ⟨ls2, hl2, h1.trans h2⟩

theorem leasesSettled_updLease (s : State) (l : Nat) (f : Lease → Lease) (h : ∀ ls, leaseOf s l = some ls → Settled ls (f ls)) :
    LeasesSettled s (updLease s l f) := by
  intro j ls hj
  by_cases hjl : j = l
  · subst hjl
    exact ⟨f ls, leaseOf_updLease f hj, h ls hj⟩
  · exact ⟨ls, (leaseOf_updLease_ne s f hjl).trans hj, .refl ls⟩

/-- A lease once the edges from request `id` are met (R119). -/
def settledLease (id t : Nat) (ls : Lease) : Lease :=
  { ls with
    seq := { ls.seq with ord := dropOrd id t ls.seq.ord }
    seqR := { ls.seqR with ord := dropOrd id t ls.seqR.ord }
    goFloor := if nhas ls.goAfter id then max ls.goFloor t else ls.goFloor
    goAfter := ndel ls.goAfter id
    engines := ls.engines.map fun e => if nhas e.after id then { e with after := ndel e.after id, floor := max e.floor t } else e
    tiles := mmap ls.tiles fun _ x => { x with ord := dropOrd id t x.ord } }

theorem leaseOf_settle (s : State) (id t l : Nat) : leaseOf (settle s id t) l = (leaseOf s l).map (settledLease id t) :=
  mfind_mmap s.leases (fun _ ls => settledLease id t ls) l

theorem leasesSettled_settle (s : State) (id t : Nat) : LeasesSettled s (settle s id t) := by
  intro l ls hl
  refine ⟨settledLease id t ls, by rw [leaseOf_settle, hl]; rfl, fun rep => ?_, fun u x hx => ?_, rfl⟩
  · cases rep <;> exact ⟨_, _, rfl⟩
  · have htile := mfind_mmap ls.tiles (fun _ x => { x with ord := dropOrd id t x.ord }) u
    rw [show mfind ls.tiles u = some x from hx] at htile
    exact ⟨dropOrd id t x.ord, x.poisStore, htile⟩

theorem leasesSettled_addHist (s : State) (r : Req) (t : Nat) : LeasesSettled s (addHist s r t) := by
  unfold addHist
  split
  · next l rep _ =>
    refine leasesSettled_updLease s l _ fun ls _ => ⟨fun rep' => ?_, fun _ x h => ⟨x.ord, x.poisStore, ?_⟩, ?_⟩
    · cases rep <;> cases rep' <;> exact ⟨_, _, rfl⟩
    · cases rep <;> exact h
    · cases rep <;> rfl
  · exact .refl s

theorem leasesSettled_notePoison (s : State) (id : Nat) (r : Req) (w : Bool) : LeasesSettled s (notePoison s id r w) := by
  unfold notePoison
  split
  · next l t _ _ =>
    split
    · exact .refl s
    · dsimp only
      split
      · exact .refl s
      · split
        · refine leasesSettled_updLease s l _ fun ls _ => ⟨fun _ => ⟨_, _, rfl⟩, fun u x hx => ?_, rfl⟩
          by_cases hu : u = t
          · subst hu
            exact ⟨_, _, tileOf_mmod _ hx⟩
          · exact ⟨_, _, (mfind_mmod_ne _ _ hu).trans hx⟩
        · exact .refl s
  · exact .refl s

/-- The end of an access changes requests, leases, and what waits for it. -/
def EndsOnly (s s' : State) : Prop := s' = { s with zq := s'.zq, holds := s'.holds, reqs := s'.reqs, leases := s'.leases }

theorem EndsOnly.trans {a b c : State} (h : EndsOnly a b) (h' : EndsOnly b c) : EndsOnly a c := by
  rw [EndsOnly] at *
  rw [h', h]

theorem endsOnly_addHist (s : State) (r : Req) (t : Nat) : EndsOnly s (addHist s r t) := by
  unfold addHist
  split <;> rfl

theorem endsOnly_notePoison (s : State) (id : Nat) (r : Req) (w : Bool) : EndsOnly s (notePoison s id r w) := by
  unfold notePoison
  split
  · split
    · rfl
    · dsimp only
      split
      · rfl
      · split <;> rfl
  · rfl

/-- Request `id` is `r`, and it is listed once. -/
def Listed (s : State) (id : Nat) (r : Req) : Prop := reqOf s id = some r ∧ ∀ e ∈ s.reqs, e.1 = id → e.2 = r

theorem key_of_mem_mdel {α : Type} {m : List (Nat × α)} {k : Nat} {e : Nat × α} (h : e ∈ mdel m k) : e.1 ≠ k := by
  induction m with
  | nil => exact absurd h List.not_mem_nil
  | cons a m ih =>
    obtain ⟨j, v⟩ := a
    rw [mdel] at h
    by_cases hj : j = k
    · rw [if_pos hj] at h
      exact ih h
    · rw [if_neg hj] at h
      obtain h | h := List.mem_cons.mp h
      · rw [h]
        exact hj
      · exact ih h

theorem listed_updReq {s : State} {id : Nat} {r : Req} (f : Req → Req) (h : reqOf s id = some r) : Listed (updReq s id f) id (f r) := by
  refine ⟨reqOf_updReq f h, fun e he hid => ?_⟩
  have hput : (updReq s id f).reqs = mput s.reqs id (f r) := by
    rw [updReq]
    dsimp only
    rw [mmod, show mfind s.reqs id = some r from h]
  rw [hput] at he
  obtain he | he := mem_mins he
  · rw [he]
  · exact absurd hid (key_of_mem_mdel he)

theorem listed_setPart {s : State} {id i : Nat} {r : Req} (p : Part) (h : reqOf s id = some r) :
    Listed (setPart s id i p) id { r with parts := lset r.parts i p } := listed_updReq _ h

theorem Listed.congr {s t : State} {id : Nat} {r : Req} (h : Listed s id r) (ht : t.reqs = s.reqs) : Listed t id r :=
  ⟨(congrArg (mfind · id) ht).trans h.1, fun e he => h.2 e (ht ▸ he)⟩

/-- The poison of a performed write marks another request, or none (R348). -/
theorem reqOf_notePoison {s : State} {id : Nat} {r : Req} (h : Listed s id r) :
    reqOf (notePoison s id r (wrotePoison r)) id = some r := by
  unfold notePoison
  split
  · next l t _ _ =>
    split
    · exact h.1
    · next hw =>
      have hwrite : r.op = .write := by
        simp only [wrotePoison, Bool.not_eq_true', Bool.not_eq_false, Bool.and_eq_true, beq_iff_eq] at hw
        exact hw.1
      dsimp only
      split
      · next e he =>
        have hmine := List.find?_some he
        have hne : id ≠ e.1 := by
          intro hid
          have her := h.2 e (List.mem_of_find?_eq_some he) hid.symm
          rw [her, hwrite] at hmine
          simp at hmine
        rw [reqOf_updReq_ne s _ hne, h.1]
      · split <;> exact h.1
  · exact h.1

theorem reqOf_addHist (s : State) (r : Req) (t id : Nat) : reqOf (addHist s r t) id = reqOf s id := by
  unfold addHist
  split <;> rfl

/-- A request that is performed (R119, R348). -/
theorem reqOf_perform {s : State} {id : Nat} {r : Req} (t : Nat) (h : Listed s id r) :
    reqOf (perform s id t) id = some (dropAfter id t { r with stage := .performed }) := by
  have hstage := reqOf_updReq (fun r => { r with stage := .performed }) (reqOf_notePoison h)
  have hend := (reqOf_settle _ id t id).trans (congrArg (Option.map (dropAfter id t)) hstage)
  rw [perform, h.1]
  exact (reqOf_addHist _ _ _ _).trans hend

theorem endsOnly_perform (s : State) (id t : Nat) : EndsOnly s (perform s id t) := by
  unfold perform
  split
  · next r _ =>
    have hend : EndsOnly (notePoison s id r (wrotePoison r))
        (settle (updReq (notePoison s id r (wrotePoison r)) id fun r => { r with stage := .performed }) id t) := rfl
    exact ((endsOnly_notePoison s id r _).trans hend).trans (endsOnly_addHist _ r t)
  · rfl

theorem leasesSettled_perform (s : State) (id t : Nat) : LeasesSettled s (perform s id t) := by
  unfold perform
  split
  · next r _ =>
    have hend : LeasesSettled (notePoison s id r (wrotePoison r))
        (settle (updReq (notePoison s id r (wrotePoison r)) id fun r => { r with stage := .performed }) id t) :=
      leasesSettled_settle (updReq (notePoison s id r (wrotePoison r)) id fun r => { r with stage := .performed }) id t
    exact ((leasesSettled_notePoison s id r _).trans hend).trans (leasesSettled_addHist _ r t)
  · exact .refl s

/-- A request whose last part may be done goes on, or is performed; its parts stay. -/
theorem reqOf_checkDone {s : State} {id : Nat} {r : Req} (die : Nat) (h : Listed s id r) :
    ∃ r', reqOf (checkDone s id die) id = some r' ∧ r'.parts = r.parts := by
  unfold checkDone
  rw [h.1]
  dsimp only
  split
  · exact ⟨_, reqOf_perform (tickOf s die) h, by rw [dropAfter_fields]⟩
  · exact ⟨r, h.1, rfl⟩

theorem endsOnly_checkDone (s : State) (id die : Nat) : EndsOnly s (checkDone s id die) := by
  unfold checkDone
  split
  · split
    · exact endsOnly_perform s id _
    · rfl
  · rfl

theorem leasesSettled_checkDone (s : State) (id die : Nat) : LeasesSettled s (checkDone s id die) := by
  unfold checkDone
  split
  · split
    · exact leasesSettled_perform s id _
    · exact .refl s
  · exact .refl s

theorem reqOf_reqFault {s : State} {id : Nat} {r : Req} (c a : Nat) (b : Bool) (h : reqOf s id = some r) :
    ∃ r', reqOf (reqFault s id c a b) id = some r' ∧ r'.stage = .faulted c a b ∧ r'.parts = r.parts := by
  refine ⟨dropAfter id 0 { r with stage := .faulted c a b }, ?_, ?_, ?_⟩
  · rw [reqFault, reqOf_settle, reqOf_updReq _ h]
    rfl
  · rw [dropAfter_fields]
  · rw [dropAfter_fields]

theorem endsOnly_reqFault (s : State) (id c a : Nat) (b : Bool) : EndsOnly s (reqFault s id c a b) := rfl

theorem leasesSettled_reqFault (s : State) (id c a : Nat) (b : Bool) : LeasesSettled s (reqFault s id c a b) :=
  leasesSettled_settle (updReq s id fun r => { r with stage := .faulted c a b }) id 0

/-! ### Chain trackers -/

/-- A read at the tracker that a replay has answered (R421), and that is listed among the accesses it must follow itself. -/
def selfEdgedRead : Req :=
  { tReq (.elem 0 3 0) .read (tPart 0x1000 4 .done []) with
    stage := .chain
    chain := some ⟨2, 0, 0, 0⟩
    after := [(5, 3)] }

/-- A lease with that request. -/
def selfEdgedState : State :=
  { State.reset with
    reqs := [(5, selfEdgedRead)]
    leases := [(0, tLease (tRegs []))] }

/-- Refutes O41: a request that follows itself and whose parts a replay has answered is performed where it is served, so that its own
edge raises its floor to the tick of its performance, above the floor of the tracker (R119, R421). -/
theorem not_chainTrackers : ¬ Obligations.chain_trackers := by
  intro h
  have hread := (h selfEdgedState 5 selfEdgedRead ⟨2, 0, 0, 0⟩ (tLease (tRegs [])) rfl rfl rfl).1 rfl rfl
  obtain ⟨u, hrun, -, r', hr', hfloor, -, -⟩ := hread.1 (by decide) (by decide) (by decide)
  have hreal : tAfter (.chainRead 5) selfEdgedState (fun u => (reqOf u 5).map (·.floor)) = some 1 := by decide
  rw [tAfter, hrun] at hreal
  dsimp only at hreal
  rw [hr', Option.map_some, hfloor] at hreal
  exact absurd hreal (by decide)

end Sys2Proof.Claims
end

section
/-! SUPPORT. What the units of the device leave unchanged, and the siding pager (R58, R60 to R63). -/

namespace Sys2Proof.Claims

open Sys2Proof Sys2Proof.Machine

/-! ### What an access of a unit can change -/

/-- The units of the device change memory with its caches and versions, leases, counters of functions, events, and what leaves
the device. -/
def UnitsWork (s t : State) : Prop := t = { s with
  nonce := t.nonce, out := t.out, evput := t.evput, evovf := t.evovf, llc := t.llc, mem := t.mem, mpois := t.mpois
  scrubbed := t.scrubbed, zeroing := t.zeroing, hbmBad := t.hbmBad, lines := t.lines, poolUsed := t.poolUsed, vfs := t.vfs
  leases := t.leases }

theorem UnitsWork.refl (s : State) : UnitsWork s s := rfl

theorem UnitsWork.trans {a b c : State} (h : UnitsWork a b) (h' : UnitsWork b c) : UnitsWork a c := by
  rw [UnitsWork] at *
  rw [h', h]

theorem UnitsWork.foldl {α : Type} {s t : State} {f : State → α → State} (h : UnitsWork s t) (hf : ∀ s a, UnitsWork s (f s a))
    (as : List α) : UnitsWork s (as.foldl f t) :=
  foldl_keeps (UnitsWork s) f (fun t a ht => ht.trans (hf t a)) as h

theorem UnitsWork.jobs {s t : State} (h : UnitsWork s t) : t.jobs = s.jobs := by rw [h]

theorem UnitsWork.reqs {s t : State} (h : UnitsWork s t) : t.reqs = s.reqs := by rw [h]

theorem UnitsWork.reqOf {s t : State} (h : UnitsWork s t) (id : Nat) : reqOf t id = reqOf s id := congrArg (mfind · id) h.reqs

theorem unitsWork_updVf (s : State) (v : Nat) (f : Vf → Vf) : UnitsWork s (updVf s v f) := rfl

theorem unitsWork_updLease (s : State) (l : Nat) (f : Lease → Lease) : UnitsWork s (updLease s l f) := rfl

theorem unitsWork_emit (s : State) (o : Out) : UnitsWork s (emit s o) := rfl

theorem unitsWork_pfEvent (s : State) (c t l d b a1 a2 : Nat) : UnitsWork s (pfEvent s c t l d b a1 a2) := by
  unfold pfEvent
  dsimp only
  split <;> rfl

theorem unitsWork_setLine (s : State) (n : Nat) (y : Line) : UnitsWork s (setLine s n y) := by
  have h := linesOnly_setLine s n y
  rw [LinesOnly] at h
  rw [h]
  rfl

theorem unitsWork_discardPend (s : State) (l slot : Nat) : UnitsWork s (discardPend s l slot) := by
  have h := linesOnly_discardPend s l slot
  rw [LinesOnly] at h
  rw [h]
  rfl

theorem unitsWork_doomView (s : State) (l n code : Nat) : UnitsWork s (doomView s l n code) :=
  (unitsWork_updLease s l _).trans (unitsWork_discardPend _ l n)

theorem unitsWork_doomShadow (s : State) (l n : Nat) : UnitsWork s (doomShadow s l n) :=
  (unitsWork_updLease s l _).trans (unitsWork_discardPend _ l (8 + n))

theorem unitsWork_zeroUnit (s : State) (pa : Nat) : UnitsWork s (zeroUnit s pa) := by
  unfold zeroUnit
  dsimp only
  split
  · refine UnitsWork.foldl ?_ (fun t e => ?_) _
    · rfl
    refine UnitsWork.trans ((UnitsWork.refl t).foldl (fun u p => ?_) e.2.pend) (unitsWork_setLine _ _ _)
    split
    · exact unitsWork_doomView _ _ _ _
    · exact unitsWork_doomShadow _ _ _
  · rfl

theorem unitsWork_showHbm (s : State) (n : Nat) : UnitsWork s (showHbm s n) :=
  (UnitsWork.refl s).foldl (f := showSector) (fun t k => by unfold showSector; split <;> rfl) _

theorem unitsWork_llcInstall (s : State) (pa : Nat) : UnitsWork s (llcInstall s pa) := by
  unfold llcInstall
  dsimp only
  split
  · rfl
  · split
    · rfl
    · split
      · refine UnitsWork.trans ?_ (unitsWork_showHbm _ _)
        rfl
      · rfl

theorem unitsWork_llcUse (wr : Bool) (s : State) (n : Nat) : UnitsWork s (llcUse wr s n) := by
  unfold llcUse
  dsimp only
  split
  · rfl
  · split
    · exact (unitsWork_llcInstall s _).trans rfl
    · exact unitsWork_llcInstall s _

theorem unitsWork_unitsReady (wr : Bool) (s : State) (pa n : Nat) : UnitsWork s (unitsReady wr s pa n) :=
  (UnitsWork.refl s).foldl (f := zeroNow (unitSize pa)) (fun t k => (unitsWork_zeroUnit t (k * unitSize pa)).trans rfl) _

theorem unitsWork_memPut (s : State) (pa : Nat) (bs : List Byte) (ps : List Bool) : UnitsWork s (memPut s pa bs ps) :=
  ((unitsWork_unitsReady true s pa _).foldl (fun t k => unitsWork_llcUse true t k) _).trans rfl

theorem unitsWork_startZeroing (s : State) (pa n : Nat) : UnitsWork s (startZeroing s pa n) :=
  (UnitsWork.refl s).foldl (f := fun s k => { s with zeroing := nadd s.zeroing k }) (fun _ _ => rfl) _

theorem unitsWork_memGet (s : State) (pa n : Nat) : UnitsWork s (memGet s pa n).2.2 :=
  ((unitsWork_unitsReady false s pa _).foldl (fun t k => unitsWork_llcUse false t k) _).trans (unitsWork_startZeroing _ _ _)

theorem unitsWork_devGet (s : State) (lc : Loc) (n : Nat) : UnitsWork s (devGet s lc n).2.2 := by
  unfold devGet
  cases lc with
  | mem pa => exact unitsWork_memGet s pa n
  | host o =>
    dsimp only
    split <;> rfl
  | _ => rfl

theorem unitsWork_devTouch (s : State) (lc : Loc) (n : Nat) : UnitsWork s (devTouch s lc n) := unitsWork_devGet s lc n

theorem unitsWork_devWr (s : State) (tag : HostTag) (lc : Loc) (bs : List Byte) (ps : List Bool) : UnitsWork s (devWr s tag lc bs ps) := by
  cases lc with
  | mem pa => exact unitsWork_memPut s pa bs ps
  | _ => rfl

/-! ### The siding pager -/

theorem mfind_updJob {s : State} {j : Nat} {x : Job} (f : Job → Job) (h : mfind s.jobs j = some x) :
    mfind (updJob s j f).jobs j = some (f x) := mfind_mmod_self s.jobs j f x h

theorem frameAhead_iff (s : State) (j : Nat) (x : Job) : frameAhead s j x = true ↔
    ∃ e ∈ s.jobs, e.2.tenant = x.tenant ∧ e.2.st = .waitFrame ∧ (e.2.since < x.since ∨ (e.2.since = x.since ∧ e.1 < j)) := by
  simp only [frameAhead, List.any_eq_true, Bool.and_eq_true, Bool.or_eq_true, beq_iff_eq, decide_eq_true_eq, and_assoc]

/-- The claim of a radix entry, by what the entry says (R60, R63). -/
theorem pagerClaim_runs {s : State} {j : Nat} {x : Job} (hx : mfind s.jobs j = some x) :
    (jobEntry s x = none → pagerClaim s j x = pagerAnswer s j false) ∧
    ∀ e lc, jobEntry s x = some (e, lc) →
      (e.testBit 60 = true → pagerClaim s j x = { devTouch s lc 8 with jobs := (pagerClaim s j x).jobs } ∧
        mfind (pagerClaim s j x).jobs j = some { x with st := .waitB }) ∧
      (e.testBit 60 = false → radixOk (if x.leaf then 3 else 1) e = false →
        mfind (pagerClaim s j x).jobs j = some { x with st := .answered false, claimed := false }) ∧
      (e.testBit 60 = false → radixOk (if x.leaf then 3 else 1) e = true →
        (e.testBit 63 = true → (x.leaf = true → e.testBit 62 = false) →
          mfind (pagerClaim s j x).jobs j = some { x with st := .answered true, claimed := false }) ∧
        ((e.testBit 63 = false ∨ (x.leaf = true ∧ e.testBit 62 = true)) →
          pagerClaim s j x = pagerAlloc (updJob (putEntry (devTouch s lc 8) x lc (e + 2 ^ 60)) j fun _ => { x with claimed := true }) j
            { x with claimed := true })) := by
  refine ⟨fun hnone => by rw [pagerClaim, hnone], fun e lc hentry => ?_⟩
  have htouch : mfind (devTouch s lc 8).jobs j = some x := by rw [(unitsWork_devTouch s lc 8).jobs, hx]
  have hclaim : pagerClaim s j x =
      if e.testBit 60 then updJob (devTouch s lc 8) j fun x => { x with st := .waitB }
      else if !radixOk (if x.leaf then 3 else 1) e then
        pagerAnswer (pfEvent (devTouch s lc 8) 0x02 x.tenant x.lease 0xFF 0 (x.entry / 4096 * 4096) 0) j false
      else if e.testBit 63 && !(x.leaf && e.testBit 62) then pagerAnswer (devTouch s lc 8) j true
      else pagerAlloc (updJob (putEntry (devTouch s lc 8) x lc (e + 2 ^ 60)) j fun _ => { x with claimed := true }) j
        { x with claimed := true } := by
    rw [pagerClaim, hentry]
  rw [hclaim]
  refine ⟨fun hb => ?_, fun hb hbad => ?_, fun hb hok => ⟨fun h63 hleaf => ?_, fun hgo => ?_⟩⟩
  · rw [if_pos hb]
    exact ⟨rfl, mfind_updJob _ htouch⟩
  · rw [if_neg (by rw [hb]; decide), if_pos (by rw [hbad]; rfl)]
    exact mfind_updJob _ (by rw [(unitsWork_pfEvent _ _ _ _ _ _ _ _).jobs, htouch])
  · have hpresent : (e.testBit 63 && !(x.leaf && e.testBit 62)) = true := by
      cases hl : x.leaf
      · rw [h63]; rfl
      · rw [h63, hleaf hl]; rfl
    rw [if_neg (by rw [hb]; decide), if_neg (by rw [hok]; decide), if_pos hpresent]
    exact mfind_updJob _ htouch
  · have habsent : ¬ (e.testBit 63 && !(x.leaf && e.testBit 62)) = true := by
      obtain h63 | ⟨hl, h62⟩ := hgo
      · rw [h63, Bool.false_and]; decide
      · rw [hl, h62, Bool.and_true, Bool.not_true, Bool.and_false]; decide
    rw [if_neg (by rw [hb]; decide), if_neg (by rw [hok]; decide), if_neg habsent]

theorem withFrame_none {s : State} {j : Nat} {x : Job} (use : State → Nat → State) (h : takeFrame s x.tenant = .none) :
    withFrame s j x use = poolEmpty s j x := by
  rw [withFrame, h]

theorem withFrame_bad {s s1 : State} {j : Nat} {x : Job} (use : State → Nat → State) (h : takeFrame s x.tenant = .bad s1) :
    withFrame s j x use = if frameAhead s j x then updJob s j fun x => { x with st := .waitFrame } else pagerFail s1 j x := by
  rw [withFrame, h]

theorem withFrame_ok {s s1 : State} {j g : Nat} {x : Job} (use : State → Nat → State) (h : takeFrame s x.tenant = .ok g s1) :
    withFrame s j x use = if frameAhead s j x then updJob s j fun x => { x with st := .waitFrame } else use (unscrub s1 x.tenant g) g := by
  rw [withFrame, h]

/-- What a leaf does with its frame: it is finished, or copied from the host (R60). -/
def useLeaf (e : Nat) (j : Nat) (x : Job) (s : State) (g : Nat) : State :=
  if e.testBit 62 then updJob s j fun x => { x with st := .copying, frame := some g } else pagerFinish s j x g

theorem pagerAlloc_leaf {s : State} {j e : Nat} {x : Job} {lc : Loc} (hleaf : x.leaf = true) (hentry : jobEntry s x = some (e, lc)) :
    pagerAlloc s j x = if e.testBit 62 && x.pin then pagerFail s j x else withFrame s j x (useLeaf e j x) := by
  rw [pagerAlloc, hentry]
  exact if_pos hleaf

/-- The page that entry `e` names is copied into frame `g` (R58, R60). -/
def copyInto (s : State) (j : Nat) (x : Job) (g e : Nat) : State :=
  match walkLoc s x.tenant (vfOf s x.tenant) g 65536 .wr with
  | .error _ => pagerFail s j x
  | .ok fl =>
    let got := devGet s (.host (e / 2 ^ 12 % 2 ^ 36 * 4096)) 65536
    pagerFinish (devWr got.2.2 (jobTag got.2.2 x) fl got.1 got.2.1) j x g

theorem exec_hostCopy {s : State} {j g e : Nat} {x : Job} {lc : Loc} (ok : Bool) (hx : mfind s.jobs j = some x) (hst : x.st = .copying)
    (hframe : x.frame = some g) (hentry : jobEntry s x = some (e, lc)) :
    exec (.pagerHostCopyDone j ok) s = .next (if !ok then pagerFail s j x else copyInto s j x g e) := by
  show execPagerHostCopyDone j ok s = _
  rw [execPagerHostCopyDone, hx]
  dsimp only
  rw [hst, hframe, hentry]
  dsimp only
  rw [bits_eq, copyInto]
  cases ok
  · rfl
  · cases walkLoc s x.tenant (vfOf s x.tenant) g 65536 .wr <;> rfl

/-- Settles O38: each step of the pager, by the entry it reads. -/
theorem pagerSteps : Obligations.pager_steps := by
  intro s j x hx claimed ahead claim
  have hahead : frameAhead s j x = true ↔ ahead := frameAhead_iff s j x
  have hclaim := pagerClaim_runs hx
  have hsteps : ∀ i, exec i s = .next (pagerClaim s j x) → claim i := by
    intro i hi
    refine ⟨fun hnone => by rw [hi, hclaim.1 hnone], fun e lc hentry => ?_⟩
    obtain ⟨hwait, hbad, hok⟩ := hclaim.2 e lc hentry
    refine ⟨fun hb => ⟨_, hi, hwait hb⟩, fun hb hr => ⟨_, hi, hbad hb hr⟩, fun hb hr => ⟨fun h63 hl => ⟨_, hi, (hok hb hr).1 h63 hl⟩, fun hgo => ?_⟩⟩
    rw [hi, (hok hb hr).2 hgo]
  refine ⟨fun hst => hsteps _ ?_, fun hst => hsteps _ ?_, fun hst hpool hring hfirst => ?_, fun hleaf e lc hentry => ⟨fun h62 hpin => ?_, fun hmig => ?_⟩,
    fun e lc a hentry => ?_, fun g e lc hst hframe hentry => ⟨?_, fun fl hfl => ?_⟩⟩
  · show execPagerFaultToken j s = _
    rw [execPagerFaultToken, hx]
    exact if_pos hst
  · show execPagerBWaitEnd j s = _
    rw [execPagerBWaitEnd, hx]
    exact if_pos hst
  · show execPagerFrameWaitEnd j s = _
    rw [execPagerFrameWaitEnd, hx]
    refine if_pos ?_
    have hno : frameAhead s j x = false := Bool.eq_false_iff.mpr (mt hahead.mp hfirst)
    simp only [hst, hpool, hno, decide_true, Bool.not_false, Bool.and_true, Bool.true_and, decide_eq_true_eq]
    exact hring
  · rw [pagerAlloc_leaf hleaf hentry, if_pos (by rw [h62, hpin]; rfl)]
  · have hmove : ¬ (e.testBit 62 && x.pin) = true := by
      intro h
      rw [Bool.and_eq_true] at h
      rw [hmig h.1] at h
      exact Bool.false_ne_true h.2
    have hall := (pagerAlloc_leaf (j := j) hleaf hentry).trans (if_neg hmove)
    rw [hall]
    refine ⟨fun hf => withFrame_none _ hf, fun g s1 hf ha => ?_, fun s1 hf ha => ?_, fun g s1 hf ha h62 => ?_, fun g s1 hf ha h62 => ?_⟩
    · obtain hf | hf := hf
      · rw [withFrame_bad _ hf, if_pos (hahead.mpr ha)]
      · rw [withFrame_ok _ hf, if_pos (hahead.mpr ha)]
    · rw [withFrame_bad _ hf, if_neg (mt hahead.mp ha)]
    · rw [withFrame_ok _ hf, if_neg (mt hahead.mp ha), useLeaf, if_neg (by rw [h62]; decide)]
    · rw [withFrame_ok _ hf, if_neg (mt hahead.mp ha), useLeaf, if_pos h62]
  · refine ⟨if e.testBit 61 then 2 ^ 61 else 0, ?_, ?_, ?_⟩
    · cases e.testBit 61 <;> decide
    · cases e.testBit 61
      · exact .inl rfl
      · exact .inr rfl
    · rw [pagerFinish, hentry]
  · exact exec_hostCopy false hx hst hframe hentry
  · rw [exec_hostCopy true hx hst hframe hentry, if_neg (by decide), copyInto, hfl]

end Sys2Proof.Claims
end

section
/-! SUPPORT. Invalidations, answers to withheld accesses, and host completions (R43, R46, R56, R57, R60). -/

namespace Sys2Proof.Claims

open Sys2Proof Sys2Proof.Machine

/-! ### Faults of sequencers -/

theorem unitsWork_countPoison (s : State) (t c : Nat) : UnitsWork s (countPoison s t c) := by
  unfold countPoison
  split <;> rfl

theorem unitsWork_smapWr (s : State) (ls : Lease) (va : Nat) (bs : List Byte) : UnitsWork s (smapWr s ls va bs) := by
  unfold smapWr
  split
  · split
    · exact unitsWork_devWr _ _ _ _ _
    · exact .refl s
  · exact .refl s

theorem unitsWork_postRec (s : State) (l : Nat) (r : FRec) : UnitsWork s (postRec s l r) := by
  unfold postRec
  split
  · exact .refl s
  · exact ((unitsWork_smapWr _ _ _ _).trans (unitsWork_smapWr _ _ _ _)).trans (unitsWork_updLease _ _ _)

theorem unitsWork_updSeq (s : State) (l : Nat) (rep : Bool) (f : Seq → Seq) : UnitsWork s (updSeq s l rep f) := unitsWork_updLease s l _

theorem unitsWork_unhandled (s : State) (l : Nat) (rep : Bool) (c : Nat) : UnitsWork s (unhandled s l rep c) := by
  unfold unhandled
  split
  · exact .refl s
  · refine UnitsWork.trans ?_ (unitsWork_pfEvent _ _ _ _ _ _ _ _)
    exact ((unitsWork_updSeq s l rep _).trans (unitsWork_updLease _ l _)).trans (unitsWork_emit _ _)

theorem unitsWork_takeTrap (s : State) (l : Nat) (rep : Bool) (epc : Nat) (r : FRec) : UnitsWork s (takeTrap s l rep epc r) := by
  unfold takeTrap
  split
  · exact .refl s
  · dsimp only
    split
    · exact unitsWork_unhandled s l rep _
    · exact unitsWork_updSeq s l rep _

theorem unitsWork_seqFault (s : State) (l : Nat) (rep : Bool) (c a : Nat) : UnitsWork s (seqFault s l rep c a) := by
  unfold seqFault seqFaultG
  split
  · exact .refl s
  · next ls _ =>
    dsimp only
    have hcount : UnitsWork s (if rep then s else countPoison s ls.tenant c) := by
      split
      · exact .refl s
      · exact unitsWork_countPoison s _ _
    have hrec : ∀ s0 r, UnitsWork s s0 → UnitsWork s (if rep then s0
        else if ls.mput - ls.mdone < 63 && ls.recs.isEmpty then postRec s0 l r else updLease s0 l fun ls => { ls with recs := ls.recs ++ [r] }) := by
      intro s0 r h0
      split
      · exact h0
      · split
        · exact h0.trans (unitsWork_postRec _ _ _)
        · exact h0.trans (unitsWork_updLease _ _ _)
    split
    · exact (hrec _ _ hcount).trans (unitsWork_unhandled _ _ _ _)
    · exact (hrec _ _ hcount).trans (unitsWork_takeTrap _ _ _ _ _)

/-! ### Invalidations -/

theorem nhas_nunion (a b : NSet) (k : Nat) : nhas (nunion a b) k = (nhas a k || nhas b k) := by
  have h := nhas_foldl_nadd (fun j => j) b a k
  exact h

theorem invHit_eq (page n : Nat) (all : Bool) (k : Nat) : invHit page n all k = (all || decide (page ≤ k ∧ k < page + n)) := by
  rw [invHit, Bool.decide_and]

/-- A lease whose cached translations an invalidation of function `v` has dropped (R43, R395). -/
def dropped (v page n : Nat) (all : Bool) (ls : Lease) : Lease :=
  if ls.tenant == v then
    { ls with
      tlb := ls.tlb.filter fun e => !invHit page n all e.1
      smark := (ls.smap.filter fun e => invHit page n all (e.1 / 512)).foldl (fun a e => nadd a (e.1 / 32)) ls.smark }
  else ls

theorem dropped_fields (v page n : Nat) (all : Bool) (ls : Lease) :
    (dropped v page n all ls).seq = ls.seq ∧ (dropped v page n all ls).tiles = ls.tiles ∧ ∀ k, mfind (dropped v page n all ls).tlb k =
      if ls.tenant = v ∧ (all || decide (page ≤ k ∧ k < page + n)) = true then none else mfind ls.tlb k := by
  rw [dropped]
  by_cases hv : ls.tenant = v
  · rw [if_pos (beq_iff_eq.mpr hv)]
    refine ⟨rfl, rfl, fun k => ?_⟩
    dsimp only
    rw [mfind_filter ls.tlb fun k => !invHit page n all k, invHit_eq]
    cases hk : (all || decide (page ≤ k ∧ k < page + n)) <;> simp [hv]
  · rw [if_neg fun h => hv (beq_iff_eq.mp h)]
    exact ⟨rfl, rfl, fun k => (if_neg fun h => hv h.1).symm⟩

theorem leaseOf_invDrop (s : State) (v page n : Nat) (all : Bool) (l : Nat) :
    leaseOf (invDrop s v page n all) l = (leaseOf s l).map (dropped v page n all) :=
  mfind_mmap s.leases (fun _ ls => dropped v page n all ls) l

theorem mem_of_mfind {α : Type} {m : List (Nat × α)} {k : Nat} {v : α} (h : mfind m k = some v) : (k, v) ∈ m := by
  induction m with
  | nil => exact absurd h (by simp [mfind])
  | cons e m ih =>
    obtain ⟨j, w⟩ := e
    rw [mfind] at h
    by_cases hj : j = k
    · rw [if_pos hj, Option.some.injEq] at h
      rw [hj, h]
      exact List.mem_cons_self
    · rw [if_neg hj] at h
      exact List.mem_cons_of_mem _ (ih h)

theorem nhas_invWaits {s : State} {v page n id : Nat} {all : Bool} {r : Req} (hr : reqOf s id = some r)
    (hv : issTenant s r.iss = v) (hst : r.stage = .sent)
    (hhit : ∃ q ∈ r.parts, (all || decide (page ≤ q.va / 65536 ∧ q.va / 65536 < page + n)) = true) :
    nhas (invWaits s v page n all) id = true := by
  obtain ⟨q, hq, hin⟩ := hhit
  rw [nhas, List.any_eq_true]
  refine ⟨id, List.mem_map.mpr ⟨(id, r), List.mem_filter.mpr ⟨mem_of_mfind hr, ?_⟩, rfl⟩, beq_self_eq_true id⟩
  rw [hv, hst, beq_self_eq_true, beq_self_eq_true, Bool.true_and, Bool.true_and, List.any_eq_true]
  exact ⟨q, hq, (invHit_eq _ _ _ _).trans hin⟩

/-- The fields that a write of INVCTL takes, beside GO (R46). -/
def invFields (val : Dword) : Dword := val &&& BitVec.ofNat 64 (2 ^ 62 + (2 ^ 40 - 1))

theorem invFields_bit (val : Dword) {i : Nat} (h : i < 64) :
    (invFields val).getLsbD i = (val.getLsbD i && (decide (i < 40) || decide (i = 62))) := by
  have hmask : ∀ i < 64, (BitVec.ofNat 64 (2 ^ 62 + (2 ^ 40 - 1))).getLsbD i = (decide (i < 40) || decide (i = 62)) := by decide
  rw [invFields, BitVec.getLsbD_and, hmask i h]

theorem invctl_bits (val go : Dword) (hgo : ∀ i, i < 63 → go.getLsbD i = false) :
    (invFields val ||| go).getLsbD 63 = go.getLsbD 63 ∧ (invFields val ||| go).getLsbD 62 = val.getLsbD 62 ∧
    (invFields val ||| go).toNat % 2 ^ 40 = val.toNat % 2 ^ 40 := by
  refine ⟨?_, ?_, Nat.eq_of_testBit_eq fun i => ?_⟩
  · rw [BitVec.getLsbD_or, invFields_bit val (by decide)]
    simp
  · rw [BitVec.getLsbD_or, invFields_bit val (by decide), hgo 62 (by decide)]
    simp
  · rw [Nat.testBit_mod_two_pow, Nat.testBit_mod_two_pow, ← BitVec.getLsbD, ← BitVec.getLsbD]
    by_cases hi : i < 40
    · rw [BitVec.getLsbD_or, invFields_bit val (by omega), hgo i (by omega)]
      simp [hi]
    · simp [hi]

/-! ### Answers to withheld accesses -/

/-- A request stands at stage `st`. -/
def StageIn (s : State) (id : Nat) (P : RSt → Prop) : Prop := ∃ r, reqOf s id = some r ∧ P r.stage

/-- What an answer does with a request that waited for it (R60). -/
def answered (ok : Bool) (va : Nat) (s : State) (e : Nat × Req) : State :=
  if ok then updReq s e.1 fun r => { r with stage := .issued } else vaFault s e.1 cTRANS va

/-- Where an answered request stands. -/
def AnsweredAs (ok : Bool) (va : Nat) (st : RSt) : Prop := ∃ b, st = if ok then .issued else .faulted cTRANS va b

section
variable {s : State} (ok : Bool) (va : Nat) (e : Nat × Req)

theorem stageIn_answered_self (h : StageIn s e.1 fun _ => True) : StageIn (answered ok va s e) e.1 (AnsweredAs ok va) := by
  obtain ⟨r, hr, -⟩ := h
  rw [answered]
  cases ok
  · obtain ⟨r', hr', hst, -⟩ := reqOf_reqFault cTRANS va _ hr
    exact ⟨r', hr', _, hst⟩
  · exact ⟨_, reqOf_updReq _ hr, false, rfl⟩

theorem stageIn_answered_ne {id : Nat} {P : RSt → Prop} (hne : id ≠ e.1) (h : StageIn s id P) : StageIn (answered ok va s e) id P := by
  obtain ⟨r, hr, hP⟩ := h
  rw [answered]
  cases ok
  · refine ⟨dropAfter e.1 0 r, ?_, by rw [dropAfter_fields]; exact hP⟩
    rw [if_neg Bool.false_ne_true, vaFault, reqFault, reqOf_settle, reqOf_updReq_ne _ _ hne, hr]
    rfl
  · exact ⟨r, (reqOf_updReq_ne s _ hne).trans hr, hP⟩

theorem stageIn_answered {id : Nat} {P : RSt → Prop} (hP : ∀ st, AnsweredAs ok va st → P st) (h : StageIn s id P) :
    StageIn (answered ok va s e) id P := by
  by_cases hid : id = e.1
  · subst hid
    obtain ⟨r, hr, -⟩ := h
    obtain ⟨r', hr', hst⟩ := stageIn_answered_self ok va e ⟨r, hr, trivial⟩
    exact ⟨r', hr', hP _ hst⟩
  · exact stageIn_answered_ne ok va e hid h

end

/-- Every request that waited for an answer has it (R60). -/
theorem stageIn_allAnswered {s : State} {id : Nat} (ok : Bool) (va : Nat) (es : List (Nat × Req)) {r : Req} (hin : (id, r) ∈ es)
    (h : StageIn s id fun _ => True) : StageIn (es.foldl (answered ok va) s) id (AnsweredAs ok va) := by
  induction es generalizing s with
  | nil => exact absurd hin List.not_mem_nil
  | cons e es ih =>
    obtain he | he := List.mem_cons.mp hin
    · refine foldl_keeps (fun u => StageIn u id (AnsweredAs ok va)) _ (fun u e hu => stageIn_answered ok va e (fun _ h => h) hu) es ?_
      subst he
      exact stageIn_answered_self ok va (id, r) h
    · exact ih he (stageIn_answered ok va e (fun _ _ => trivial) h)

/-- An answer releases what waited for it: its job is gone, and the withheld requests translate again or fault (R60, R61). -/
theorem jobRelease_runs (s : State) (j va : Nat) (ok : Bool) :
    mfind (jobRelease s j va ok).jobs j = none ∧
    ∀ id r, reqOf s id = some r → r.stage = .withheld j → StageIn (jobRelease s j va ok) id (AnsweredAs ok va) := by
  unfold jobRelease
  dsimp only
  generalize hs1 : ({ s with jobs := mdel s.jobs j, leases := mmap s.leases _ } : State) = s1
  have hjobs1 : s1.jobs = mdel s.jobs j := by rw [← hs1]
  have hreqs1 : ∀ id, reqOf s1 id = reqOf s id := fun id => by rw [← hs1]; rfl
  generalize hes : s.reqs.filter (fun e => e.2.stage == .withheld j) = es
  generalize hs2 : es.foldl _ s1 = s2
  have hs2 : es.foldl (answered ok va) s1 = s2 := hs2
  have hend : ∀ ls : List (Nat × Lease), UnitsWork s2 (ls.foldl (fun s e => [false, true].foldl (fun s rep =>
      if (seqOf e.2 rep).op == .page j then
        if ok then updSeq s e.1 rep fun q => { q with op := .none } else seqFault (updSeq s e.1 rep fun q => { q with op := .none }) e.1 rep cTRANS va
      else s) s) s2) := by
    refine (UnitsWork.refl s2).foldl fun t e => (UnitsWork.refl t).foldl (fun u rep => ?_) _
    split
    · split
      · exact unitsWork_updSeq _ _ _ _
      · exact (unitsWork_updSeq _ _ _ _).trans (unitsWork_seqFault _ _ _ _ _)
    · exact .refl u
  refine ⟨?_, fun id r hr hst => ?_⟩
  · have hjobs2 : s2.jobs = mdel s.jobs j := by
      rw [← hs2]
      refine foldl_keeps (fun u : State => u.jobs = mdel s.jobs j) _ (fun u e hu => ?_) es hjobs1
      rw [answered]
      split <;> exact hu
    rw [(hend s.leases).jobs, hjobs2, mfind_mdel_self]
  · have hin : (id, r) ∈ es := hes ▸ List.mem_filter.mpr ⟨mem_of_mfind hr, by rw [hst, beq_self_eq_true]⟩
    obtain ⟨r', hr', hans⟩ := stageIn_allAnswered ok va es hin ⟨r, (hreqs1 id).trans hr, trivial⟩
    rw [hs2] at hr'
    exact ⟨r', ((hend s.leases).reqOf id).trans hr', hans⟩

/-! ### Host completions -/

/-- A part that the host has completed (R56, R150, R265). -/
def completed (op : MOp) (st : CplStatus) (ep : Bool) (d : List Byte) (p : Part) : Part :=
  match op, st with
  | .atomic _, .ok => { p with st := .done, data := d, pois := List.replicate p.len ep, code := if ep then 1 else 0 }
  | .atomic _, _ => { p with st := .done, code := 2 }
  | _, _ => { p with st := .done, data := d, pois := List.replicate p.len ep }

theorem completed_fields (op : MOp) (st : CplStatus) (ep : Bool) (d : List Byte) (p : Part) :
    (completed op st ep d p).st = .done ∧
    (((∀ o, op ≠ .atomic o) ∨ st = .ok) → (completed op st ep d p).data = d ∧ (completed op st ep d p).pois = List.replicate p.len ep) ∧
    (∀ o, op = .atomic o → (completed op st ep d p).code = if st = .ok then (if ep then 1 else 0) else 2) := by
  by_cases hop : ∃ o, op = .atomic o
  · obtain ⟨o, rfl⟩ := hop
    by_cases hst : st = .ok
    · subst hst
      exact ⟨rfl, fun _ => ⟨rfl, rfl⟩, fun _ _ => rfl⟩
    · have hc : completed (.atomic o) st ep d p = { p with st := .done, code := 2 } := by
        cases st with
        | ok => exact absurd rfl hst
        | _ => rfl
      rw [hc, if_neg hst]
      exact ⟨rfl, fun h => h.elim (fun h => absurd rfl (h o)) (fun h => absurd h hst), fun _ _ => rfl⟩
  · have hc : completed op st ep d p = { p with st := .done, data := d, pois := List.replicate p.len ep } := by
      cases op with
      | atomic o => exact absurd ⟨o, rfl⟩ hop
      | _ => rfl
    rw [hc]
    exact ⟨rfl, fun _ => ⟨rfl, rfl⟩, fun o h => absurd ⟨o, h⟩ hop⟩

theorem exec_hostCompletion {s : State} {id i o : Nat} {r : Req} {p : Part} (st : CplStatus) (ep : Bool) (data : List Byte)
    (hr : reqOf s id = some r) (hp : r.parts[i]? = some p) (ho : p.loc = .host o) (hserv : servable s id r p .new = true) :
    exec (.hostCompletion id i st ep data) s = .next (checkDone (setPart (if ep then emit s (.aer false) else s) id i
      (completed r.op st ep ((List.range p.len).map fun k => data.getD k 0) p)) id (issDie s r.iss)) := by
  show execHostCompletion id i st ep data s = _
  rw [execHostCompletion, hr]
  dsimp only
  rw [hp]
  dsimp only
  split
  · refine (if_neg (by rw [hserv]; decide)).trans ?_
    rfl
  · next hnot => exact absurd ho (hnot o)

theorem stillSent_empty (s : State) (l : NSet) :
    (stillSent s l).isEmpty = true ↔ ¬ ∃ id ∈ l, ∃ r, reqOf s id = some r ∧ r.stage = .sent := by
  rw [stillSent, List.isEmpty_iff, List.filter_eq_nil_iff]
  constructor
  · rintro h ⟨id, hid, r, hr, hst⟩
    refine h id hid ?_
    rw [hr]
    exact beq_iff_eq.mpr hst
  · intro h id hid hsent
    cases hr : reqOf s id with
    | none =>
      rw [hr] at hsent
      exact Bool.false_ne_true hsent
    | some r =>
      rw [hr] at hsent
      exact h ⟨id, hid, r, hr, beq_iff_eq.mp hsent⟩

/-- What INVALIDATION_COMPLETE leaves of a function's block (R43, R56). -/
def invDone (s : State) (x : Vf) : Vf :=
  let y := if x.invctl.getLsbD 63 && (stillSent s x.invPend).isEmpty then
    { x with invctl := x.invctl &&& BitVec.ofNat 64 (2 ^ 63 - 1), invPend := [] } else x
  if x.atsOpen && (stillSent s x.atsPend).isEmpty then { y with atsOpen := false, atsPend := [] } else y

theorem execInvalidationComplete_runs (s : State) (v : Nat) : ∃ t, exec (.invalidationComplete v) s = .next t ∧
    vfOf t v = invDone s (vfOf s v) ∧
    t.out = if (vfOf s v).atsOpen && (stillSent s (vfOf s v).atsPend).isEmpty then s.out ++ [.atsDone v] else s.out := by
  have hone : ∀ (c : Bool) (f : Vf → Vf), vfOf (if c then updVf s v f else s) v = (if c then f (vfOf s v) else vfOf s v) ∧
      (if c then updVf s v f else s).out = s.out := by
    intro c f
    cases c
    · exact ⟨rfl, rfl⟩
    · exact ⟨vfOf_updVf s v f, rfl⟩
  have hfirst := hone ((vfOf s v).invctl.getLsbD 63 && (stillSent s (vfOf s v).invPend).isEmpty)
    fun x => { x with invctl := x.invctl &&& BitVec.ofNat 64 (2 ^ 63 - 1), invPend := [] }
  cases hats : (vfOf s v).atsOpen && (stillSent s (vfOf s v).atsPend).isEmpty
  · refine ⟨_, if_neg (by rw [hats]; decide), ?_, hfirst.2⟩
    rw [invDone, hats]
    exact hfirst.1
  · refine ⟨_, if_pos hats, ?_, ?_⟩
    · rw [invDone, hats]
      refine (vfOf_updVf _ v fun x => { x with atsOpen := false, atsPend := [] }).trans ?_
      rw [hfirst.1]
      rfl
    · exact congrArg (· ++ [Out.atsDone v]) hfirst.2

theorem exec_priResponse {s : State} {j : Nat} {job : Job} (ok : Bool) (hjob : mfind s.jobs j = some job) (hst : job.st = .priWait)
    (hgo : (waitsAtRest s j || (job.lease == 0xFFF && !ok)) = false) : exec (.priResponse j ok) s = .next (jobRelease s j job.va ok) := by
  show execPriResponse j ok s = _
  rw [execPriResponse, hjob]
  dsimp only
  rw [hst, hgo]
  rfl

theorem exec_pagerReply {s : State} {j : Nat} {job : Job} (ok : Bool) (hjob : mfind s.jobs j = some job) (hst : job.st = .answered ok)
    (hgo : (waitsAtRest s j || (job.lease == 0xFFF && !ok)) = false) : exec (.pagerReply j) s = .next (jobRelease s j job.va ok) := by
  show execPagerReply j s = _
  rw [execPagerReply, hjob]
  dsimp only
  rw [hst]
  dsimp only
  rw [hgo]
  rfl

theorem exec_invctlGo {s : State} (v : Nat) {val : Dword} (h : val.getLsbD 63 = true) : exec (.invctlGo v val) s = .next
    (updVf (invDrop s v ((vfOf s v).invbase.toNat / 2 ^ 16 % 2 ^ 40) (val.toNat % 2 ^ 40) (val.getLsbD 62)) v fun x =>
      { x with
        invctl := invFields val ||| BitVec.ofNat 64 (2 ^ 63)
        invPend := nunion x.invPend (invWaits s v ((vfOf s v).invbase.toNat / 2 ^ 16 % 2 ^ 40) (val.toNat % 2 ^ 40) (val.getLsbD 62)) }) := by
  show execInvctlGo v val s = _
  rw [execInvctlGo, if_pos h, bits_eq, bits_zero]
  rfl

/-- Settles O37: each event by what it removes, waits for, or answers. -/
theorem translationControl : Obligations.translation_control := by
  intro s v page n j id i val ok ep data st x hit drops fields busy resumes
  have hdrops : ∀ all p m old t, (∀ l, leaseOf t l = leaseOf (invDrop s v p m all) l) →
      drops t all p m old (nunion old (invWaits s v p m all)) := by
    intro all p m old t ht
    refine ⟨fun l ls hls => ⟨dropped v p m all ls, by rw [ht, leaseOf_invDrop, hls]; rfl, dropped_fields v p m all ls⟩, fun id h => ?_,
      fun id r hr hv hst hq => ?_⟩
    · rw [nhas_nunion, h, Bool.true_or]
    · rw [nhas_nunion, nhas_invWaits hr hv hst hq, Bool.or_true]
  have hresumes : ∀ job, mfind s.jobs j = some job → resumes (jobRelease s j job.va ok) := by
    intro job hjob
    refine ⟨(jobRelease_runs s j job.va ok).1, fun id r hr hst => ?_⟩
    obtain ⟨r', hr', b, hb⟩ := (jobRelease_runs s j job.va ok).2 id r hr hst
    refine ⟨r', b, hr', fun job' hjob' => ?_⟩
    rw [hjob, Option.some.injEq] at hjob'
    rw [← hjob']
    exact hb
  have hanswers : ∀ job : Job, waitsAtRest s j = false → ¬ (job.lease = 0xFFF ∧ ok = false) →
      (waitsAtRest s j || (job.lease == 0xFFF && !ok)) = false := by
    intro job hrest hkeep
    rw [hrest, Bool.false_or, Bool.eq_false_iff, ne_eq, Bool.and_eq_true, beq_iff_eq, Bool.not_eq_true']
    exact hkeep
  have hsetGo : ∀ i, i < 63 → (BitVec.ofNat 64 (2 ^ 63)).getLsbD i = false := by decide
  have hkeepGo : ∀ i, i < 63 → (x.invctl &&& BitVec.ofNat 64 (2 ^ 63)).getLsbD i = false := fun i hi => by
    rw [BitVec.getLsbD_and, hsetGo i hi, Bool.and_false]
  refine ⟨fun hgo => ?_, fun hgo => ?_, ?_, ?_, fun job hjob hrest hkeep => ⟨fun hst => ⟨_, ?_, hresumes job hjob⟩, fun hst => ⟨_, ?_, hresumes job hjob⟩⟩,
    fun r p o hr hp ho hserv => ?_⟩
  · obtain ⟨hset, hall, hpages⟩ := invctl_bits val (BitVec.ofNat 64 (2 ^ 63)) hsetGo
    have hself := vfOf_updVf (invDrop s v (x.invbase.toNat / 2 ^ 16 % 2 ^ 40) (val.toNat % 2 ^ 40) (val.getLsbD 62)) v fun y =>
      { y with
        invctl := invFields val ||| BitVec.ofNat 64 (2 ^ 63)
        invPend := nunion y.invPend (invWaits s v (x.invbase.toNat / 2 ^ 16 % 2 ^ 40) (val.toNat % 2 ^ 40) (val.getLsbD 62)) }
    refine ⟨_, exec_invctlGo v hgo, ?_, ⟨?_, ?_⟩, ?_⟩
    · exact (congrArg (·.invctl.getLsbD 63) hself).trans (hset.trans (show (BitVec.ofNat 64 (2 ^ 63)).getLsbD 63 = true by decide))
    · exact (congrArg (·.invctl.getLsbD 62) hself).trans hall
    · exact (congrArg (·.invctl.toNat % 2 ^ 40) hself).trans hpages
    · exact (congrArg Vf.invPend hself) ▸ hdrops _ _ _ x.invPend _ fun l => rfl
  · obtain ⟨hkept, hall, hpages⟩ := invctl_bits val (x.invctl &&& BitVec.ofNat 64 (2 ^ 63)) hkeepGo
    have hself := vfOf_updVf s v fun y => { y with invctl := invFields val ||| (x.invctl &&& BitVec.ofNat 64 (2 ^ 63)) }
    refine ⟨_, if_neg (by rw [hgo]; decide), ?_, ⟨?_, ?_⟩, ?_, rfl⟩
    · refine (congrArg (·.invctl.getLsbD 63) hself).trans (hkept.trans ?_)
      rw [BitVec.getLsbD_and, show (BitVec.ofNat 64 (2 ^ 63)).getLsbD 63 = true by decide, Bool.and_true]
    · exact (congrArg (·.invctl.getLsbD 62) hself).trans hall
    · exact (congrArg (·.invctl.toNat % 2 ^ 40) hself).trans hpages
    · exact (congrArg Vf.invPend hself :)
  · have hself := vfOf_updVf (invDrop s v page n false) v fun y =>
      { y with atsPend := nunion y.atsPend (invWaits s v page n false), atsOpen := true }
    refine ⟨_, rfl, congrArg Vf.atsOpen hself, ?_⟩
    exact (congrArg Vf.atsPend hself) ▸ hdrops false page n x.atsPend _ fun l => rfl
  · obtain ⟨t, hrun, hvf, hout⟩ := execInvalidationComplete_runs s v
    have hidle : ∀ l, busy l → (stillSent s l).isEmpty = false := fun l hb =>
      Bool.eq_false_iff.mpr fun h => (stillSent_empty s l).mp h hb
    refine ⟨t, hrun, fun hgo hno => ?_, fun hb => ?_, fun hopen hno => ?_, fun hb => ?_⟩
    · have hend : (x.invctl.getLsbD 63 && (stillSent s x.invPend).isEmpty) = true := by
        rw [hgo, (stillSent_empty s x.invPend).mpr hno]; rfl
      rw [hvf, invDone, if_pos hend]
      split <;> (dsimp only; rw [BitVec.getLsbD_and]; simp)
    · have hgoes : ¬ (x.invctl.getLsbD 63 && (stillSent s x.invPend).isEmpty) = true := by
        rw [hidle _ hb, Bool.and_false]; decide
      rw [hvf, invDone, if_neg hgoes]
      split <;> rfl
    · have hend : (x.atsOpen && (stillSent s x.atsPend).isEmpty) = true := by
        rw [hopen, (stillSent_empty s x.atsPend).mpr hno]; rfl
      rw [hvf, hout, invDone, if_pos hend, if_pos hend]
      exact ⟨List.mem_append_right _ (List.mem_singleton_self _), rfl⟩
    · have hgoes : ¬ (x.atsOpen && (stillSent s x.atsPend).isEmpty) = true := by
        rw [hidle _ hb, Bool.and_false]; decide
      rw [hvf, hout, invDone, if_neg hgoes, if_neg hgoes]
      refine ⟨rfl, ?_⟩
      split <;> rfl
  · exact exec_priResponse ok hjob hst (hanswers job hrest hkeep)
  · exact exec_pagerReply ok hjob hst (hanswers job hrest hkeep)
  · have hstart : reqOf (if ep then emit s (.aer false) else s) id = some r := by cases ep <;> exact hr
    have hlisted := listed_setPart (i := i) (completed r.op st ep ((List.range p.len).map fun k => data.getD k 0) p) hstart
    obtain ⟨r', hr', hparts⟩ := reqOf_checkDone (issDie s r.iss) hlisted
    obtain ⟨hdone, hdata, hcode⟩ := completed_fields r.op st ep ((List.range p.len).map fun k => data.getD k 0) p
    refine ⟨_, exec_hostCompletion st ep data hr hp ho hserv, fun hep => ?_, r', _, hr', ?_, hdone, hdata, hcode⟩
    · have hframe := endsOnly_checkDone (setPart (if ep then emit s (.aer false) else s) id i
        (completed r.op st ep ((List.range p.len).map fun k => data.getD k 0) p)) id (issDie s r.iss)
      rw [EndsOnly] at hframe
      rw [hframe, hep]
      exact List.mem_append_right _ (List.mem_singleton_self _)
    · rw [hparts]
      exact getElem?_lset _ hp

end Sys2Proof.Claims
end

section
/-! SUPPORT. What comes back from the serving points (R48, R84, R255, R262, R265, R336, R384, R432). -/

namespace Sys2Proof.Claims

open Sys2Proof Sys2Proof.Machine

/-! ### Delivery -/

theorem countDelivery_frame (s : State) (tn : Nat) (d : Bool) (va : Option Nat) :
    countDelivery s tn d va = { s with vfs := (countDelivery s tn d va).vfs } := by
  unfold countDelivery
  split <;> rfl

/-- A performed request of an unpaired lease is delivered and gone, its poison counted (R154). -/
theorem deliverAll_alone (s : State) (id : Nat) {r : Req} (hkey : r.key = []) :
    ∃ s0, s0 = { s with vfs := s0.vfs } ∧ deliverAll s id r = dropReq (deliver s0 id r) id :=
  ⟨_, countDelivery_frame s _ _ _, if_pos hkey⟩

theorem exec_reply {s : State} {id : Nat} {r : Req} (a : PeerReply) (hr : reqOf s id = some r) (ht : takesReplies s r.iss = true)
    (hst : r.stage = .performed) (hch : r.chain = none) (hkey : r.key = []) :
    ∃ s0, s0 = { s with vfs := s0.vfs } ∧ exec (.memoryReply id a) s = .next (dropReq (deliver s0 id r) id) := by
  obtain ⟨s0, hs0, hall⟩ := deliverAll_alone s id hkey
  refine ⟨s0, hs0, ?_⟩
  show execMemoryReply id a s = _
  rw [execMemoryReply, hr]
  dsimp only
  rw [ht, hst, hch, if_neg (by decide)]
  refine (if_neg (by decide)).trans ?_
  rw [hall]

/-- A delivery changes leases, and what leaves the device. -/
theorem deliver_frame (s : State) (id : Nat) (r : Req) :
    deliver s id r = { s with leases := (deliver s id r).leases, out := (deliver s id r).out } := by
  unfold deliver
  split
  · unfold deliverSeq
    split <;> rfl
  · unfold deliverElem
    split
    · unfold genDone
      split <;> rfl
    · rfl
  · rfl
  · rfl
  · rfl

theorem extendTo_eq (n : Nat) (sg : Bool) (v : Nat) :
    extendTo n sg v = if sg then (BitVec.ofNat (8 * n) v).signExtend 64 else BitVec.ofNat 64 (v % 2 ^ (8 * n)) := rfl

theorem repPois_eq (r : Req) : repPois r = r.parts.any fun p => p.pois.any fun b => b := rfl

section
variable {s : State} {id l : Nat} {rep : Bool} {r : Req} {ls : Lease} {xd : BitVec 5} {n : Nat} {sg : Bool}
  (hls : leaseOf s l = some ls) (hdst : r.dst = .x xd n sg)
include hls hdst

/-- A load writes its register, which waits no longer (R262). -/
theorem leaseOf_deliverSeq_load (hop : r.op = .read) (hpend : mfind (seqOf ls rep).pend xd.toNat = some id) :
    leaseOf (deliverSeq s id l rep r) l = some (setSeq ls rep (xset { seqOf ls rep with pend := mdel (seqOf ls rep).pend xd.toNat } xd
      (extendTo n sg (leNat (repBytes r))) (repPois r))) := by
  rw [deliverSeq, hdst]
  dsimp only
  rw [leaseOf_updSeq _ _ hls, hop]
  dsimp only
  rw [if_pos hpend]

/-- An atomic delivers its old value and ATOMST (R264, R265). -/
theorem leaseOf_deliverSeq_atomic {op : AOp} {p : Part} {ps : List Part} (hop : r.op = .atomic op) (hparts : r.parts = p :: ps)
    (hwait : (seqOf ls rep).op = .amo id) : leaseOf (deliverSeq s id l rep r) l = some (setSeq ls rep (seqNext
      { (if p.code = 2 then seqOf ls rep else xset (seqOf ls rep) xd (extendTo n sg (leNat (repBytes r))) (repPois r)) with
        atomst := p.code })) := by
  have hhere : ((seqOf ls rep).op == .amo id) = true := by rw [hwait, beq_self_eq_true]
  rw [deliverSeq, hdst]
  dsimp only
  rw [leaseOf_updSeq _ _ hls, hop, hparts]
  dsimp only
  rw [if_pos hhere]

end

/-- The token of a reply enters its destination, and the firing goes on (R336). -/
theorem leaseOf_deliverElem {s : State} {id l t k : Nat} {r : Req} {ls : Lease} {x : Tile} {fi : Firing} {d : Dst} {tag : BitVec 3}
    {base : Tok} {f : Bfp} (hls : leaseOf s l = some ls) (hx : tileOf ls t = some x) (hfire : (ctxOf x k).fire = some fi)
    (hwait : fi.wait = .mem id) (hdst : r.dst = .tok d tag base f) :
    ∃ ls' x', leaseOf (deliverElem s id l t k r) l = some ls' ∧ tileOf ls' t = some x' ∧
      ctxOf x' k = { dstPut (ctxOf x k) d (repTok r tag base f) with
        fire := some { fi with pc := fi.pc + wordLen r.word, wait := .none, ord := fi.ord + 1 } } := by
  obtain ⟨ls1, x1, hls1, hx1, hctx1⟩ : ∃ ls1 x1, leaseOf (genDone s l t k r) l = some ls1 ∧ tileOf ls1 t = some x1 ∧ ctxOf x1 k = ctxOf x k := by
    unfold genDone
    split
    · exact ⟨ls, x, hls, hx, rfl⟩
    · exact ⟨_, _, leaseOf_updTile _ hls, tileOf_mmod _ hx, rfl⟩
  rw [deliverElem, hdst]
  refine ⟨_, _, leaseOf_updTile _ hls1, tileOf_mmod _ hx1, ?_⟩
  rw [ctxOf_setCtx, hctx1]
  dsimp only
  rw [hfire]
  exact if_pos hwait

/-! ### Faults and answers -/

theorem exec_replyFault {s : State} {id : Nat} {r : Req} (a : PeerReply) {c ad : Nat} {b : Bool} (hr : reqOf s id = some r)
    (ht : takesReplies s r.iss = true) (hst : r.stage = .faulted c ad b) (hkey : r.key = []) :
    exec (.memoryReply id a) s = .next (reportFault s id r c ad b) := by
  have htwins : twinsOf s id r = [] := by
    rw [twinsOf, hkey]
    simp
  show execMemoryReply id a s = _
  rw [execMemoryReply, hr]
  dsimp only
  rw [ht, hst, if_neg (by decide)]
  dsimp only
  rw [reportAll, htwins]
  rfl

theorem leaseOf_unchain {s : State} {l : Nat} {ls : Lease} (r : Req) (c : Nat) (hls : leaseOf s l = some ls) :
    ∃ ls', leaseOf (unchain s r c) l = some ls' ∧ ls'.tiles = ls.tiles ∧ ls'.recs = ls.recs := by
  unfold unchain
  split
  · split
    · exact ⟨ls, hls, rfl, rfl⟩
    · by_cases hl : l = issLease r.iss
      · subst hl
        exact ⟨_, leaseOf_updLease _ hls, rfl, rfl⟩
      · exact ⟨ls, (leaseOf_updLease_ne s _ hl).trans hls, rfl, rfl⟩
  · exact ⟨ls, hls, rfl, rfl⟩

/-- A fault of a posted access freezes its context with LATE, and its record says so (R384). -/
theorem leaseOf_faultElem_late {s : State} {id l t k : Nat} {r : Req} {ls : Lease} {x : Tile} {c ad : Nat} {b : Bool}
    (hls : leaseOf s l = some ls) (hx : tileOf ls t = some x) (hfree : (ctxOf x k).frozen = none) (hpost : r.posted = true) :
    ∃ ls' x', leaseOf (faultElem s id l t k r c ad b) l = some ls' ∧ tileOf ls' t = some x' ∧
      (ctxOf x' k).frozen = some (.late id, 0) ∧
      (t < replicaBase → ∃ f, ls'.recs = ls.recs ++ [f] ∧ f.cause = c ∧ f.faddr = ad ∧ f.late = true) := by
  obtain ⟨ls1, hls1, htiles, hrecs⟩ := leaseOf_unchain r c hls
  have hx1 : tileOf ls1 t = some x := by rw [tileOf, htiles]; exact hx
  have hfrozen := leaseOf_updTile (t := t) (fun x => setCtx x k ((fun c => { c with frozen := some (.late id, 0) }) (ctxOf x k))) hls1
  have hthaw : ¬ (ctxOf x k).frozen.isSome = true := by rw [hfree]; decide
  unfold faultElem
  rw [hls]
  dsimp only
  rw [hx]
  dsimp only
  rw [if_neg hthaw, if_pos hpost]
  generalize hrec : accessRec r b _ = f
  obtain ⟨hcause, hfaddr, hlate, htile⟩ : f.cause = c ∧ f.faddr = ad ∧ f.late = true ∧ f.tile = some t := by
    rw [← hrec]
    exact ⟨rfl, rfl, rfl, rfl⟩
  by_cases ht : t < replicaBase
  · obtain ⟨w, hw⟩ := leaseOf_raise hfrozen f fun u hu => by
      rw [htile, Option.some.injEq] at hu
      exact hu ▸ ht
    refine ⟨_, _, hw, tileOf_mmod _ hx1, ?_, fun _ => ⟨{ f with time := w }, ?_, hcause, hfaddr, hlate⟩⟩
    · rw [ctxOf_setCtx]
    · exact congrArg (· ++ [{ f with time := w }]) hrecs
  · rw [raise_replica htile (by omega)]
    refine ⟨_, _, hfrozen, tileOf_mmod _ hx1, ?_, fun h => absurd h ht⟩
    rw [ctxOf_setCtx]

theorem exec_peerAnswer {s : State} {id : Nat} {r : Req} (a : PeerReply) (hr : reqOf s id = some r)
    (ht : takesReplies s r.iss = true) (hst : r.stage = .sent) : exec (.memoryReply id a) s = .next (peerAnswer s id r a) := by
  show execMemoryReply id a s = _
  rw [execMemoryReply, hr]
  dsimp only
  rw [ht, hst, if_neg (by decide)]

/-- What a peer answers to a read enters the one part that waits for it (R432). -/
theorem peerAnswer_read {s : State} {id k o : Nat} {r : Req} {p : Part} {b : List Byte} {q : List Bool} (hr : reqOf s id = some r)
    (hparts : r.parts = [p]) (hloc : p.loc = .peer k o) (hserv : servable s id r p .new = true) (hup : (couplerOf s k).up = true)
    (hop : r.op = .read) : ∃ r' p', reqOf (peerAnswer s id r (.data b q)) id = some r' ∧ r'.parts = [p'] ∧ p'.st = .done ∧
      p'.data = ((List.range p.len).map fun j => b.getD j 0) ∧ p'.pois = ((List.range p.len).map fun j => q.getD j false) := by
  have hnew : (p.st == .new) = true := by
    simp only [servable, Bool.and_eq_true] at hserv
    exact hserv.1.2
  have hp : r.parts[0]? = some p := by rw [hparts]; rfl
  unfold peerAnswer
  generalize hfind : findIdx _ r.parts = f
  simp only [findIdx, hparts, List.zipIdx_singleton, List.find?_singleton, hloc, hup, hnew, Bool.and_self, if_true, Option.map_some] at hfind
  subst hfind
  dsimp only
  rw [hserv, if_neg (by decide), hop]
  generalize hp' : ({ p with st := _, data := _, pois := _ } : Part) = p'
  obtain ⟨r', hr', hrp⟩ := reqOf_checkDone (issDie s r.iss) (listed_setPart (i := 0) p' hr)
  refine ⟨r', p', hr', ?_, ?_⟩
  · rw [hrp, hparts]
    rfl
  · rw [← hp']
    exact ⟨rfl, rfl, rfl⟩

/-- Settles O40: each reply by its issuer. -/
theorem memoryReplies : Obligations.memory_replies := by
  intro s id r a hr bytes bad
  refine ⟨fun hno => ?_, fun htakes hst hch hkey => ?_, fun c ad b l t k ls x htakes hst hkey hiss hls hx hfree hpost => ?_,
    fun p k o b q htakes hst hparts hloc hserv hup hop => ?_⟩
  · show execMemoryReply id a s = _
    rw [execMemoryReply, hr]
    exact if_pos (by rw [hno]; rfl)
  · obtain ⟨s0, hs0, hrun⟩ := exec_reply a hr htakes hst hch hkey
    have hlease : ∀ l, leaseOf s0 l = leaseOf s l := fun l => by rw [hs0]; rfl
    refine ⟨⟨_, hrun, mfind_mdel_self _ id, ?_⟩, fun l rep ls xd n sg hiss hls hdst => ?_, fun l t k ls x fi d tag base f hiss hls hx hfire hwait hdst => ?_⟩
    · rw [dropReq]
      dsimp only
      rw [deliver_frame, hs0]
    · intro q v
      have hls0 : leaseOf s0 l = some ls := (hlease l).trans hls
      rw [deliver, hiss] at hrun
      refine ⟨fun hop hpend => ⟨_, hrun, _, leaseOf_deliverSeq_load hls0 hdst hop hpend, ?_⟩,
        fun op p ps hop hparts hwait => ⟨_, hrun, _, leaseOf_deliverSeq_atomic hls0 hdst hop hparts hwait, ?_⟩⟩
      · rw [seqOf_setSeq]
        refine ⟨fun hx => ⟨xget_xset_self _ _ _ hx, xpois_xset_self _ _ _ hx⟩, ?_, xset_pc _ _ _ _, fun m hm => xget_xset_ne _ _ _ hm⟩
        rw [xset_pend]
        exact mfind_mdel_self _ _
      · rw [seqOf_setSeq]
        refine ⟨rfl, ?_, fun hcode hx => ?_, fun hcode => ?_⟩
        · rw [seqNext_pc]
          split
          · rfl
          · rw [xset_pc]
        · rw [if_neg hcode]
          exact ⟨xget_xset_self _ _ _ hx, xpois_xset_self _ _ _ hx⟩
        · rw [if_pos hcode]
          rfl
    · have hls0 : leaseOf s0 l = some ls := (hlease l).trans hls
      rw [deliver, hiss] at hrun
      obtain ⟨ls', x', hls', hx', hctx⟩ := leaseOf_deliverElem hls0 hx hfire hwait hdst
      refine ⟨_, hrun, ls', x', hls', hx', ?_, ?_⟩
      · rw [hctx]
        exact dstPut_old (ctxOf x k) d _
      · rw [hctx]
  · have hrun := exec_replyFault a hr htakes hst hkey
    rw [reportFault, hiss] at hrun
    exact ⟨_, hrun, leaseOf_faultElem_late hls hx hfree hpost⟩
  · exact ⟨_, exec_peerAnswer (.data b q) hr htakes hst, peerAnswer_read hr hparts hloc hserv hup hop⟩

end Sys2Proof.Claims
end

section
/-! SUPPORT. Sync words, group arrivals and atomics at their homes (R80, R81, R129, R264, R346, R347, R349). -/

namespace Sys2Proof.Claims

open Sys2Proof Sys2Proof.Machine

/-! ### What the release of waiters can change -/

/-- A release of waiters changes waiters, requests, leases, and what waits for them. -/
def ReleasesOnly (s t : State) : Prop :=
  t = { s with waiters := t.waiters, zq := t.zq, holds := t.holds, reqs := t.reqs, leases := t.leases }

theorem ReleasesOnly.trans {a b c : State} (h : ReleasesOnly a b) (h' : ReleasesOnly b c) : ReleasesOnly a c := by
  rw [ReleasesOnly] at *
  rw [h', h]

theorem EndsOnly.releases {s t : State} (h : EndsOnly s t) : ReleasesOnly s t := by
  rw [EndsOnly] at h
  rw [ReleasesOnly, h]

/-- Every request is still there with as many parts. -/
def KeepsParts (s t : State) : Prop :=
  ∀ id r, reqOf s id = some r → ∃ r', reqOf t id = some r' ∧ r'.parts.length = r.parts.length

theorem KeepsParts.refl (s : State) : KeepsParts s s := fun _ r h => ⟨r, h, rfl⟩

theorem KeepsParts.trans {a b c : State} (h : KeepsParts a b) (h' : KeepsParts b c) : KeepsParts a c := by
  intro id r hr
  obtain ⟨r1, hr1, h1⟩ := h id r hr
  obtain ⟨r2, hr2, h2⟩ := h' id r1 hr1
  exact ⟨r2, hr2, h2.trans h1⟩

theorem KeepsParts.of_reqs {s t : State} (h : t.reqs = s.reqs) : KeepsParts s t := fun id r hr =>
  ⟨r, (congrArg (mfind · id) h).trans hr, rfl⟩

theorem keepsParts_updReq (s : State) (id : Nat) (f : Req → Req) (hf : ∀ r, (f r).parts.length = r.parts.length) :
    KeepsParts s (updReq s id f) := by
  intro j r hr
  by_cases hj : j = id
  · subst hj
    exact ⟨f r, reqOf_updReq f hr, hf r⟩
  · exact ⟨r, (reqOf_updReq_ne s f hj).trans hr, rfl⟩

theorem keepsParts_settle (s : State) (id t : Nat) : KeepsParts s (settle s id t) := by
  intro j r hr
  exact ⟨dropAfter id t r, by rw [reqOf_settle, hr]; rfl, by rw [dropAfter_fields]⟩

theorem keepsParts_notePoison (s : State) (id : Nat) (r : Req) (w : Bool) : KeepsParts s (notePoison s id r w) := by
  unfold notePoison
  split
  · split
    · exact .refl s
    · dsimp only
      split
      · exact keepsParts_updReq s _ _ fun r => by rw [List.length_map]
      · split <;> exact .of_reqs rfl
  · exact .refl s

theorem keepsParts_perform (s : State) (id t : Nat) : KeepsParts s (perform s id t) := by
  unfold perform
  split
  · next r _ =>
    have hstage := keepsParts_updReq (notePoison s id r (wrotePoison r)) id (fun r => { r with stage := .performed }) fun _ => rfl
    refine (((keepsParts_notePoison s id r _).trans hstage).trans (keepsParts_settle _ id t)).trans fun j q hq => ⟨q, ?_, rfl⟩
    exact (reqOf_addHist _ _ _ _).trans hq
  · exact .refl s

theorem keepsParts_checkDone (s : State) (id die : Nat) : KeepsParts s (checkDone s id die) := by
  unfold checkDone
  split
  · split
    · exact keepsParts_perform s id _
    · exact .refl s
  · exact .refl s

/-- What a release of waiters keeps: memory, the requests' parts in number, and leases but for orders. -/
structure Releases (s t : State) : Prop where
  only : ReleasesOnly s t
  parts : KeepsParts s t
  leases : LeasesSettled s t

theorem Releases.refl (s : State) : Releases s s := ⟨rfl, .refl s, .refl s⟩

theorem Releases.trans {a b c : State} (h : Releases a b) (h' : Releases b c) : Releases a c :=
  ⟨h.only.trans h'.only, h.parts.trans h'.parts, h.leases.trans h'.leases⟩

theorem Releases.foldl {α : Type} {s t : State} {f : State → α → State} (h : Releases s t) (hf : ∀ s a, Releases s (f s a))
    (as : List α) : Releases s (as.foldl f t) :=
  foldl_keeps (Releases s) f (fun t a ht => ht.trans (hf t a)) as h

theorem releases_updReq (s : State) (id : Nat) (f : Req → Req) (hf : ∀ r, (f r).parts.length = r.parts.length) :
    Releases s (updReq s id f) := ⟨rfl, keepsParts_updReq s id f hf, .refl s⟩

theorem releases_setPart (s : State) (id i : Nat) (p : Part) : Releases s (setPart s id i p) :=
  releases_updReq s id _ fun _ => List.length_set

theorem releases_checkDone (s : State) (id die : Nat) : Releases s (checkDone s id die) :=
  ⟨(endsOnly_checkDone s id die).releases, keepsParts_checkDone s id die, leasesSettled_checkDone s id die⟩

theorem releases_notePoison (s : State) (id : Nat) (r : Req) (w : Bool) : Releases s (notePoison s id r w) :=
  ⟨(endsOnly_notePoison s id r w).releases, keepsParts_notePoison s id r w, leasesSettled_notePoison s id r w⟩

theorem releases_releaseReq (s : State) (id : Nat) (p : Bool) : Releases s (releaseReq s id p) := by
  unfold releaseReq
  dsimp only
  split
  · exact (releases_updReq s id _ fun r => by rw [List.length_map]).trans (releases_checkDone _ id _)
  · exact releases_updReq s id _ fun r => by rw [List.length_map]

theorem releases_releaseAt (s : State) (l : Nat) (lc : Loc) (pick : Waiter → Option Bool) : Releases s (releaseAt s l lc pick) := by
  unfold releaseAt
  dsimp only
  refine Releases.foldl (f := fun s w => releaseReq s w.req ((pick w).getD false)) ?_ (fun t w => releases_releaseReq t w.req _) _
  exact ⟨rfl, .of_reqs rfl, .refl s⟩

theorem releases_recheck (s : State) (l : Nat) (lc : Loc) (n : Nat) : Releases s (recheck s l lc n) := by
  unfold recheck
  dsimp only
  exact (Releases.refl s).foldl (fun t wl => releases_releaseAt t l wl _) _

/-! ### Sync words -/

theorem Releases.mem {s t : State} (h : Releases s t) : t.mem = s.mem := by
  rw [h.only]

theorem Releases.bank {s t : State} (h : Releases s t) : memBank t = memBank s := by
  rw [h.only]
  rfl

/-- A place where a sync word of lease `l` may stand: device memory, or the store of a tile of the lease. -/
def Placed (s : State) (l : Nat) (lc : Loc) : Prop :=
  (∃ pa, lc = .mem pa) ∨ ∃ u o ls x, lc = .tile u o ∧ leaseOf s l = some ls ∧ tileOf ls u = some x

theorem syncWord_mem (s : State) (l pa : Nat) : syncWord s l (.mem pa) = (leNat (memRd s pa 16).1, (memRd s pa 16).2.any id) := rfl

theorem syncWord_tile {s : State} {l u : Nat} (o : Nat) {ls : Lease} {x : Tile} (hls : leaseOf s l = some ls) (hx : tileOf ls u = some x) :
    syncWord s l (.tile u o) = (leNat (tileRd x o 16).1, (tileRd x o 16).2.any id) := by
  rw [syncWord, hls]
  dsimp only
  rw [Option.bind_some, hx]

theorem Releases.placed {s t : State} (h : Releases s t) {l : Nat} {lc : Loc} (hp : Placed s l lc) : Placed t l lc := by
  obtain ⟨pa, rfl⟩ | ⟨u, o, ls, x, rfl, hls, hx⟩ := hp
  · exact .inl ⟨pa, rfl⟩
  · obtain ⟨ls', hls', hset⟩ := h.leases l ls hls
    obtain ⟨o', b, hx'⟩ := hset.tiles u x hx
    exact .inr ⟨u, o, ls', _, rfl, hls', hx'⟩

theorem Releases.syncWord {s t : State} (h : Releases s t) {l : Nat} {lc : Loc} (hp : Placed s l lc) :
    syncWord t l lc = syncWord s l lc := by
  obtain ⟨pa, rfl⟩ | ⟨u, o, ls, x, rfl, hls, hx⟩ := hp
  · rw [syncWord_mem, syncWord_mem, memRd, memRd, h.bank]
  · obtain ⟨ls', hls', hset⟩ := h.leases l ls hls
    obtain ⟨o', b, hx'⟩ := hset.tiles u x hx
    rw [syncWord_tile o hls hx, syncWord_tile o hls' hx']
    rfl

/-! ### Bytes read back -/

theorem bankRd_bankWr {u : Nat} (hu : 0 < u) (b : Bank) (a : Nat) (bs : List Byte) (ps : List Bool) :
    (bankRd u (bankWr u b a bs ps) a bs.length).1 = bs := by
  refine List.ext_getElem (by simp [bankRd]) fun i _ hi => ?_
  simp only [bankRd_eq, List.getElem_map, List.getElem_range]
  rw [shownByte_bankWr u b a bs ps hu, if_pos ⟨by omega, by omega⟩, Nat.add_sub_cancel_left,
    List.getD_eq_getElem bs 0 hi]

theorem leNat_leBytes (n v : Nat) : leNat (leBytes n v) = v % 2 ^ (8 * n) := by
  induction n generalizing v with
  | zero => rw [leBytes, leNat, Nat.mul_zero, Nat.pow_zero, Nat.mod_one]
  | succ n ih =>
    rw [leBytes, leNat, ih, BitVec.toNat_ofNat, show 8 * (n + 1) = 8 + 8 * n by ring, Nat.pow_add, Nat.mod_mul]

theorem leNat_memWr (s : State) (pa v : Nat) (ps : List Bool) : leNat (memRd (memWr s pa (leBytes 16 v) ps) pa 16).1 = v % 2 ^ 128 := by
  have hu : 0 < unitSize pa := by rw [unitSize]; split <;> decide
  have h := bankRd_bankWr hu (memBank s) pa (leBytes 16 v) ps
  rw [length_leBytes] at h
  rw [memRd, memWr, show memBank (setBank s (bankWr (unitSize pa) (memBank s) pa (leBytes 16 v) ps)) = _ from rfl]
  exact (congrArg leNat h).trans (leNat_leBytes 16 v)

theorem leNat_tileWr (x : Tile) (o v : Nat) (ps : List Bool) : leNat (tileRd (tileWr x o (leBytes 16 v) ps) o 16).1 = v % 2 ^ 128 := by
  have h := bankRd_bankWr (by decide : 0 < 2048) (tileBank x) o (leBytes 16 v) ps
  rw [length_leBytes] at h
  exact (congrArg leNat h).trans (leNat_leBytes 16 v)

/-! ### Arrivals -/

/-- Each time TARGET is reached COUNT falls by it and GEN advances (R80). -/
theorem arriveLoop_fields (fuel : Nat) (w : SyncW) (rel : List (Nat × Bool)) (ht : w.target ≠ 0) (hf : w.count / w.target = fuel) :
    (arriveLoop fuel w rel).1.target = w.target ∧ (arriveLoop fuel w rel).1.count = w.count % w.target ∧
    (arriveLoop fuel w rel).1.gen % 65536 = (w.gen + fuel) % 65536 := by
  induction fuel generalizing w rel with
  | zero =>
    have hlt : w.count < w.target := (Nat.div_eq_zero_iff.mp hf).resolve_left ht
    exact ⟨rfl, (Nat.mod_eq_of_lt hlt).symm, rfl⟩
  | succ fuel ih =>
    have hpos : 0 < w.target := Nat.pos_of_ne_zero ht
    have hle : w.target ≤ w.count := by
      by_contra hlt
      rw [Nat.div_eq_of_lt (by omega)] at hf
      omega
    have hnext : (w.count - w.target) / w.target = fuel := by
      have hdiv := Nat.div_eq_sub_div hpos hle
      omega
    rw [arriveLoop, if_pos hle]
    obtain ⟨h1, h2, h3⟩ := ih { w with count := w.count - w.target, gen := (w.gen + 1) % 65536, p := false } (rel ++ [(w.gen, w.p)]) ht hnext
    refine ⟨h1, h2.trans ?_, h3.trans ?_⟩
    · exact (Nat.mod_eq_sub_mod hle).symm
    · dsimp only
      omega

theorem arriveWord_fields (w : SyncW) (n : Nat) (pois : Bool) :
    (arriveWord w n pois).1.target = w.target ∧
    (arriveWord w n pois).1.count = (if w.target = 0 then (w.count + n) % 2 ^ 48 else (w.count + n) % w.target) ∧
    (arriveWord w n pois).1.gen % 65536 = (if w.target = 0 then w.gen else w.gen + (w.count + n) / w.target) % 65536 := by
  rw [arriveWord]
  dsimp only
  by_cases ht : w.target = 0
  · rw [if_pos ht, if_pos ht, if_pos ht]
    exact ⟨rfl, rfl, rfl⟩
  · rw [if_neg ht, if_neg ht, if_neg ht]
    exact arriveLoop_fields _ _ [] ht rfl

theorem syncBits_fields (w : SyncW) (old : Nat) :
    syncBits w old < 2 ^ 128 ∧ syncBits w old % 2 ^ 48 = w.target % 2 ^ 48 ∧ syncBits w old / 2 ^ 48 % 2 ^ 48 = w.count % 2 ^ 48 ∧
    syncBits w old / 2 ^ 96 % 2 ^ 16 = w.gen % 2 ^ 16 := by
  have hp : b2n w.p ≤ 1 := by cases w.p <;> decide
  have ho : b2n w.ovr ≤ 1 := by cases w.ovr <;> decide
  have hr : bits old 112 14 < 2 ^ 14 := by rw [bits_eq]; exact Nat.mod_lt _ (by decide)
  rw [syncBits]
  generalize b2n w.p = p at *
  generalize b2n w.ovr = o at *
  generalize bits old 112 14 = r at *
  omega

/-- An arrival of `n` bytes at a word that reads as `w` leaves `w'` (R80). -/
def Arrived (w n w' : Nat) : Prop :=
  w' % 2 ^ 48 = w % 2 ^ 48 ∧
  w' / 2 ^ 48 % 2 ^ 48 = (if w % 2 ^ 48 = 0 then (w / 2 ^ 48 % 2 ^ 48 + n) % 2 ^ 48 else (w / 2 ^ 48 % 2 ^ 48 + n) % (w % 2 ^ 48)) ∧
  w' / 2 ^ 96 % 2 ^ 16 = (if w % 2 ^ 48 = 0 then w / 2 ^ 96 % 2 ^ 16 else (w / 2 ^ 96 + (w / 2 ^ 48 % 2 ^ 48 + n) / (w % 2 ^ 48)) % 2 ^ 16)

/-- The word that reads as `w`, after an arrival (R80). -/
def wordAfter (w n : Nat) (pois : Bool) : Nat := syncBits (arriveWord (syncOf w) n pois).1 w

theorem wordAfter_lt (w n : Nat) (pois : Bool) : wordAfter w n pois < 2 ^ 128 := (syncBits_fields _ w).1

theorem arrived_wordAfter (w n : Nat) (pois : Bool) : Arrived w n (wordAfter w n pois) := by
  obtain ⟨htarget, hcount, hgen⟩ := arriveWord_fields (syncOf w) n pois
  obtain ⟨-, h1, h2, h3⟩ := syncBits_fields (arriveWord (syncOf w) n pois).1 w
  have ht : (syncOf w).target = w % 2 ^ 48 := bits_zero w 48
  have hc : (syncOf w).count = w / 2 ^ 48 % 2 ^ 48 := bits_eq w 48 48
  have hg : (syncOf w).gen = w / 2 ^ 96 % 2 ^ 16 := bits_eq w 96 16
  rw [ht, hc] at hcount
  rw [ht, hc, hg] at hgen
  rw [ht] at htarget
  refine ⟨h1.trans ?_, h2.trans ?_, h3.trans ?_⟩
  · rw [htarget, Nat.mod_mod]
  · rw [hcount]
    split
    · rw [Nat.mod_mod]
    · next hpos => exact Nat.mod_eq_of_lt ((Nat.mod_lt _ (Nat.pos_of_ne_zero hpos)).trans (Nat.mod_lt _ (by decide)))
  · refine hgen.trans ?_
    split
    · exact Nat.mod_mod _ _
    · exact Nat.mod_add_mod _ _ _

/-- The word with its arrival, before its waiters are released. -/
def putWord (s : State) (l : Nat) (lc : Loc) (v : Nat) : State :=
  match lc with
  | .mem pa => memWr s pa (leBytes 16 v) (List.replicate 16 false)
  | .tile t o => updTile s l t fun x => tileWr x o (leBytes 16 v) (List.replicate 16 false)
  | _ => s

theorem syncWord_putWord {s : State} {l : Nat} {lc : Loc} (v : Nat) (hp : Placed s l lc) :
    (syncWord (putWord s l lc v) l lc).1 = v % 2 ^ 128 ∧ Placed (putWord s l lc v) l lc := by
  obtain ⟨pa, rfl⟩ | ⟨u, o, ls, x, rfl, hls, hx⟩ := hp
  · exact ⟨leNat_memWr s pa v _, .inl ⟨pa, rfl⟩⟩
  · have hls' := leaseOf_updTile (t := u) (fun x => tileWr x o (leBytes 16 v) (List.replicate 16 false)) hls
    have hx' := tileOf_mmod (fun x => tileWr x o (leBytes 16 v) (List.replicate 16 false)) hx
    refine ⟨?_, .inr ⟨u, o, _, _, rfl, hls', hx'⟩⟩
    rw [putWord, syncWord_tile o hls' hx']
    exact leNat_tileWr x o v _

/-- The state after an arrival has counted and its waiters are released. -/
def arrivalDone (s : State) (l : Nat) (lc : Loc) (n : Nat) (pois : Bool) : State :=
  recheck ((arriveWord (syncOf (syncWord s l lc).1) n pois).2.foldl
    (fun s e => releaseAt s l lc fun x => if x.gen == e.1 then some e.2 else none)
    (putWord s l lc (wordAfter (syncWord s l lc).1 n pois))) l lc 16

theorem arriveAt_eq {s : State} {l n : Nat} {lc : Loc} (pois : Bool) (hclean : (syncWord s l lc).2 = false) (hn : 1 ≤ n) :
    arriveAt s l lc n pois = some (arrivalDone s l lc n pois) := by
  have hzero : n ≠ 0 := by omega
  rw [arriveAt, arrivalDone]
  cases hw : syncWord s l lc with
  | mk w pz =>
    rw [hw] at hclean
    dsimp only at hclean ⊢
    rw [hclean, if_neg (by decide), if_neg hzero]
    rfl

theorem releases_arrivalDone (s : State) (l : Nat) (lc : Loc) (n : Nat) (pois : Bool) :
    Releases (putWord s l lc (wordAfter (syncWord s l lc).1 n pois)) (arrivalDone s l lc n pois) := by
  rw [arrivalDone]
  refine Releases.trans ?_ (releases_recheck _ l lc 16)
  exact Releases.foldl (.refl _) (fun t e => releases_releaseAt t l lc _) _

/-- An arrival counts at its word (R80). -/
theorem arrived_arrivalDone {s : State} {l : Nat} {lc : Loc} (n : Nat) (pois : Bool) (hp : Placed s l lc) :
    Arrived (syncWord s l lc).1 n (syncWord (arrivalDone s l lc n pois) l lc).1 ∧ Placed (arrivalDone s l lc n pois) l lc := by
  have hrel := releases_arrivalDone s l lc n pois
  obtain ⟨hword, hplaced⟩ := syncWord_putWord (wordAfter (syncWord s l lc).1 n pois) hp
  refine ⟨?_, hrel.placed hplaced⟩
  rw [hrel.syncWord hplaced, hword, Nat.mod_eq_of_lt (wordAfter_lt _ n pois)]
  exact arrived_wordAfter _ n pois

/-! ### The steps -/

/-- Part `i` of request `id` is done. -/
def PartDone (t : State) (id i : Nat) : Prop := ∃ r' p', reqOf t id = some r' ∧ r'.parts[i]? = some p' ∧ p'.st = .done

/-- A part that is entered as done, and whose request is then checked, is done. -/
theorem partDone_checkDone {s : State} {id i : Nat} {r : Req} {p q : Part} (die : Nat) (hr : reqOf s id = some r)
    (hp : r.parts[i]? = some p) : ∃ r', reqOf (checkDone (setPart s id i q) id die) id = some r' ∧ r'.parts[i]? = some q := by
  obtain ⟨r', hr', hparts⟩ := reqOf_checkDone die (listed_setPart (i := i) q hr)
  refine ⟨r', hr', ?_⟩
  rw [hparts]
  exact getElem?_lset q hp

theorem Releases.part {s t : State} (h : Releases s t) {id i : Nat} {r : Req} {p : Part} (hr : reqOf s id = some r)
    (hp : r.parts[i]? = some p) : ∃ r' p', reqOf t id = some r' ∧ r'.parts[i]? = some p' := by
  obtain ⟨r', hr', hlen⟩ := h.parts id r hr
  have hi : i < r'.parts.length := hlen ▸ (List.getElem?_eq_some_iff.mp hp).1
  exact ⟨r', _, hr', List.getElem?_eq_getElem hi⟩

theorem reqOf_putWord (s : State) (l : Nat) (lc : Loc) (v id : Nat) : reqOf (putWord s l lc v) id = reqOf s id := by
  cases lc <;> rfl

/-- What is entered as done at a word that counts keeps the word (R80). -/
theorem releases_finish (s : State) (id i die : Nat) (q : Part) : Releases s (checkDone (setPart s id i q) id die) :=
  (releases_setPart s id i q).trans (releases_checkDone _ id die)

/-- What an arrival leaves once its part is entered as done (R80). -/
theorem arrival_finish {s : State} {id i l : Nat} {r : Req} {p q : Part} {lc : Loc} (n : Nat) (pois : Bool) (die : Nat)
    (hr : reqOf s id = some r) (hp : r.parts[i]? = some p) (hq : q.st = .done) (hplace : Placed s l lc) :
    let t := checkDone (setPart (arrivalDone s l lc n pois) id i q) id die
    PartDone t id i ∧ Arrived (syncWord s l lc).1 n (syncWord t l lc).1 ∧
      Releases (putWord s l lc (wordAfter (syncWord s l lc).1 n pois)) t := by
  intro t
  have hrel := releases_arrivalDone s l lc n pois
  have hfin := releases_finish (arrivalDone s l lc n pois) id i die q
  obtain ⟨harr, hplaced⟩ := arrived_arrivalDone n pois hplace
  obtain ⟨r1, p1, hr1, hp1⟩ := hrel.part ((reqOf_putWord s l lc _ id).trans hr) hp
  obtain ⟨r', hr', hp'⟩ := partDone_checkDone die hr1 hp1
  exact ⟨⟨r', q, hr', hp', hq⟩, (congrArg (fun w => Arrived (syncWord s l lc).1 n w.1) (hfin.syncWord hplaced)).mpr harr, hrel.trans hfin⟩

theorem exec_syncArrival {s : State} {id n : Nat} {r : Req} {p : Part} (hr : reqOf s id = some r) (hop : r.op = .arrive n)
    (hp : r.parts[0]? = some p) (hserv : servable s id r p .home = true) :
    exec (.syncArrival id) s = .next ((arriveAt s (issLease r.iss) p.loc n (p.pois.any fun b => b)).elim (partFault s id cPADDR p)
      fun s1 => checkDone (setPart s1 id 0 { p with st := .done }) id (issDie s r.iss)) := by
  show execSyncArrival id s = _
  rw [execSyncArrival, hr]
  dsimp only
  rw [hop, hp]
  dsimp only
  rw [hserv, if_neg (by decide)]
  cases arriveAt s (issLease r.iss) p.loc n (p.pois.any fun b => b) <;> rfl

/-- The atomic of one part at its home (R129). -/
theorem exec_atomicAtHome {s : State} {id i pa : Nat} {r : Req} {p : Part} {op : AOp} (hr : reqOf s id = some r)
    (hop : r.op = .atomic op) (hp : r.parts[i]? = some p) (hunit : unitParts r i = [i])
    (hgate : ∀ q ∈ r.parts, sameUnit r.op q p = true → q.st ≠ .new) (hserv : servable s id r p .home = true)
    (hver : p.versioned = false) (hloc : p.loc = .mem pa) :
    exec (.atomicAtHome id i) s = .next (checkDone (atomPart addF32 id s i) id (servDie s pa)) := by
  have hgo : ¬ (!servable s id r p .home || p.versioned || r.parts.any fun q => sameUnit r.op q p && q.st == .new) = true := by
    rw [hserv, hver, Bool.not_true, Bool.false_or, Bool.false_or, List.any_eq_true]
    rintro ⟨q, hq, hnew⟩
    rw [Bool.and_eq_true, beq_iff_eq] at hnew
    exact hgate q hq hnew.1 hnew.2
  show atomicAtHome addF32 id i s = _
  rw [atomicAtHome, hr]
  dsimp only
  rw [hop, hp]
  dsimp only
  rw [← hop, if_neg hgo, hunit, hloc]
  rfl

theorem arriveAt_poisoned {s : State} {l : Nat} {lc : Loc} (n : Nat) (pois : Bool) (h : (syncWord s l lc).2 = true) :
    arriveAt s l lc n pois = none := by
  rw [arriveAt]
  cases hw : syncWord s l lc with
  | mk w pz =>
    rw [hw] at h
    exact if_pos h

/-- The group records of tile `h` of lease `l` (R349). -/
def GroupRecs (t : State) (l h : Nat) (gs : List GRec) : Prop :=
  ∃ ls' x', leaseOf t l = some ls' ∧ tileOf ls' h = some x' ∧ x'.grecs = gs

theorem GroupRecs.releases {s t : State} {l h : Nat} {gs : List GRec} (hg : GroupRecs s l h gs) (hr : Releases s t) : GroupRecs t l h gs := by
  obtain ⟨ls, x, hls, hx, hgs⟩ := hg
  obtain ⟨ls', hls', hset⟩ := hr.leases l ls hls
  obtain ⟨o, b, hx'⟩ := hset.tiles h x hx
  exact ⟨ls', _, hls', hx', hgs⟩

theorem GroupRecs.putWord {s : State} {l h o : Nat} {gs : List GRec} (v : Nat) (hg : GroupRecs s l h gs) :
    GroupRecs (putWord s l (.tile h o) v) l h gs := by
  obtain ⟨ls, x, hls, hx, hgs⟩ := hg
  exact ⟨_, _, leaseOf_updTile _ hls, tileOf_mmod _ hx, hgs⟩

/-- The record that a member of group `g` joins at offset `o` (R349). -/
def groupRec (x : Tile) (o g : Nat) : GRec := (x.grecs.find? fun e => e.off == o && e.g == g).getD ⟨o, g, [], 0, false⟩
/-- The other records of the tile. -/
def otherRecs (x : Tile) (o g : Nat) : List GRec := x.grecs.filter fun e => !(e.off == o && e.g == g)
/-- The record with member `(u, k)`. -/
def joined (c : GRec) (o g n u k : Nat) (pois : Bool) : GRec := ⟨o, g, c.members ++ [(u, k)], c.sum + n, c.pois || pois⟩

/-- The state in which tile `h` of lease `l` holds the group records `gs`. -/
def regrouped (s : State) (l h : Nat) (gs : List GRec) : State := updTile s l h fun y => { y with grecs := gs }

theorem syncWord_regrouped {s : State} {l h o : Nat} {ls : Lease} {x : Tile} (gs : List GRec) (hls : leaseOf s l = some ls)
    (hx : tileOf ls h = some x) : syncWord (regrouped s l h gs) l (.tile h o) = syncWord s l (.tile h o) := by
  rw [regrouped, syncWord_tile o hls hx, syncWord_tile o (leaseOf_updTile _ hls) (tileOf_mmod _ hx)]
  rfl

/-- A member joins its group's record, or makes the group's arrival (R349). -/
theorem exec_synaGroup {s : State} {id g n l u k h o : Nat} {r : Req} {p : Part} {ls : Lease} {x : Tile} (hr : reqOf s id = some r)
    (hop : r.op = .grp g n) (hiss : r.iss = .elem l u k) (hp : r.parts[0]? = some p) (hserv : servable s id r p .home = true)
    (hloc : p.loc = .tile h o) (hls : leaseOf s l = some ls) (hx : tileOf ls h = some x)
    (hroom : (otherRecs x o g).length < 8) (hnew : (u, k) ∉ (groupRec x o g).members) :
    let new := joined (groupRec x o g) o g n u k (p.pois.any fun b => b)
    let fin (s : State) : State := checkDone (setPart s id 0 { p with st := .done }) id (tileDie ls h)
    exec (.synaGroupRecord id) s = .next (
      if (groupRec x o g).members.length + 1 < (mget (⟨0, 0, 0⟩ : Group) ls.groups g).count
      then fin (regrouped s l h (otherRecs x o g ++ [new]))
      else (arriveAt (regrouped s l h (otherRecs x o g)) l p.loc new.sum new.pois).elim
        (partFault (regrouped s l h (otherRecs x o g)) id cPADDR p) fin) := by
  intro new fin
  have hmember : ¬ (decide (8 ≤ (otherRecs x o g).length) || (groupRec x o g).members.contains (u, k)) = true := by
    rw [Bool.or_eq_true, decide_eq_true_eq, List.contains_iff_mem]
    exact fun h => h.elim (by omega) hnew
  show execSynaGroupRecord id s = _
  unfold execSynaGroupRecord
  rw [hr]
  dsimp only
  rw [hop, hiss, hp]
  dsimp only
  split
  case h_2 h1 => exact absurd hls (h1 h o ls hloc)
  case h_1 h' o' ls' hloc' hls' =>
    obtain ⟨rfl, rfl⟩ : h' = h ∧ o' = o := by
      rw [hloc, Loc.tile.injEq] at hloc'
      exact ⟨hloc'.1.symm, hloc'.2.symm⟩
    obtain rfl : ls' = ls := Option.some_inj.mp (hls'.symm.trans hls)
    rw [hx]
    dsimp only
    rw [hserv, if_neg (by decide)]
    refine (if_neg hmember).trans ?_
    by_cases hmore : (groupRec x o' g).members.length + 1 < (mget (⟨0, 0, 0⟩ : Group) ls'.groups g).count
    · rw [if_pos hmore]
      refine (if_pos ?_).trans ?_
      · rw [List.length_append]
        exact hmore
      · rfl
    · rw [if_neg hmore]
      refine (if_neg ?_).trans ?_
      · rw [List.length_append]
        exact hmore
      · split
        case h_1 heq =>
          have hnone : arriveAt (regrouped s l h' (otherRecs x o' g)) l p.loc new.sum new.pois = none := heq
          rw [hnone]
          rfl
        case h_2 s2 heq =>
          have hsome : arriveAt (regrouped s l h' (otherRecs x o' g)) l p.loc new.sum new.pois = some s2 := heq
          rw [hsome]
          rfl

/-- The last member of a group makes its arrival (R349). -/
theorem exec_synaGroup_last {s t : State} {id g n l u k h o : Nat} {r : Req} {p : Part} {ls : Lease} {x : Tile} (hr : reqOf s id = some r)
    (hop : r.op = .grp g n) (hiss : r.iss = .elem l u k) (hp : r.parts[0]? = some p) (hserv : servable s id r p .home = true)
    (hloc : p.loc = .tile h o) (hls : leaseOf s l = some ls) (hx : tileOf ls h = some x)
    (hroom : (otherRecs x o g).length < 8) (hnew : (u, k) ∉ (groupRec x o g).members)
    (hfull : (mget (⟨0, 0, 0⟩ : Group) ls.groups g).count ≤ (groupRec x o g).members.length + 1)
    (harr : arriveAt (regrouped s l h (otherRecs x o g)) l p.loc ((groupRec x o g).sum + n)
      ((groupRec x o g).pois || p.pois.any fun b => b) = some t) :
    exec (.synaGroupRecord id) s = .next (checkDone (setPart t id 0 { p with st := .done }) id (tileDie ls h)) := by
  have hrun := exec_synaGroup hr hop hiss hp hserv hloc hls hx hroom hnew
  dsimp only [joined] at hrun
  rw [if_neg (Nat.not_lt.mpr hfull), harr] at hrun
  exact hrun

/-! ### Atomics of memory -/

theorem markStale_frame (s : State) (l : Nat) (lc : Loc) (va n : Nat) :
    (markStale s l lc va n).reqs = s.reqs ∧ memBank (markStale s l lc va n) = memBank s := by
  unfold markStale
  split
  · exact ⟨rfl, rfl⟩
  · dsimp only
    split
    · exact ⟨rfl, rfl⟩
    · refine foldl_keeps (fun t : State => t.reqs = s.reqs ∧ memBank t = memBank s) _ (fun t k h => ?_) _ ⟨rfl, rfl⟩
      exact h

/-- The bytes that an atomic puts at its home, with the poison they carry. -/
def atomPut (s : State) (id pa : Nat) (r : Req) (p : Part) : Option (List Byte × List Bool) → State
  | some e => notePoison (putBytes (markStale s (issLease r.iss) (.mem pa) p.va p.len) (issLease r.iss) (.mem pa) e.1 e.2) id r
      (e.2.any fun b => b)
  | none => s

/-- What the put of an atomic leaves: memory with its bytes, and the parts of every request. -/
theorem atomPut_frame (s : State) (id pa : Nat) (r : Req) (p : Part) (w : Option (List Byte × List Bool)) :
    (∀ b q, w = some (b, q) → (atomPut s id pa r p w).mem = (memWr s pa b q).mem) ∧ (w = none → (atomPut s id pa r p w).mem = s.mem) ∧
      KeepsParts s (atomPut s id pa r p w) := by
  cases w with
  | none => exact ⟨fun b q h => (by simp at h), fun _ => rfl, .refl s⟩
  | some e =>
    obtain ⟨hreqs, hbank⟩ := markStale_frame s (issLease r.iss) (.mem pa) p.va p.len
    have hrel : Releases (memWr (markStale s (issLease r.iss) (.mem pa) p.va p.len) pa e.1 e.2) (atomPut s id pa r p (some e)) :=
      (releases_recheck ..).trans (releases_notePoison ..)
    refine ⟨fun b q h => ?_, fun h => (by simp at h), KeepsParts.trans (.of_reqs ?_) hrel.parts⟩
    · obtain rfl : e = (b, q) := Option.some_inj.mp h
      rw [hrel.mem]
      show (bankWr (unitSize pa) (memBank (markStale s (issLease r.iss) (.mem pa) p.va p.len)) pa b q).mem = _
      rw [hbank]
      rfl
    · exact hreqs

theorem atomPart_eq {s : State} {id i pa : Nat} {r : Req} {p : Part} (f : Nat → Nat → Nat) (hr : reqOf s id = some r)
    (hp : r.parts[i]? = some p) (hloc : p.loc = .mem pa) :
    atomPart f id s i = setPart (atomPut s id pa r p (writeEffect f r.op p (memRd s pa p.len).1 ((memRd s pa p.len).2.any fun b => b)).1)
      id i (writeEffect f r.op p (memRd s pa p.len).1 ((memRd s pa p.len).2.any fun b => b)).2 := by
  unfold atomPart
  rw [hr]
  dsimp only
  rw [hp]
  dsimp only
  rw [hloc]
  dsimp only [getBytes]
  cases (writeEffect f r.op p (memRd s pa p.len).1 ((memRd s pa p.len).2.any fun b => b)).1 <;> rfl

/-- The part that an atomic leaves is done. -/
theorem atomic_done {op : MOp} {a : AOp} (h : op = .atomic a) (f : Nat → Nat → Nat) (p : Part) (old : List Byte) (oldP : Bool) :
    (writeEffect f op p old oldP).2.st = .done := by
  rw [h]
  rfl

/-- The order of two's complement numbers, on the numbers themselves. -/
theorem slt_ofNat {m o d : Nat} (ho : o < 2 ^ m) (hd : d < 2 ^ m) :
    (BitVec.ofNat m o).slt (BitVec.ofNat m d) = decide ((if o < 2 ^ m / 2 then (o : Int) else o - (2 ^ m : Nat)) <
      (if d < 2 ^ m / 2 then (d : Int) else d - (2 ^ m : Nat))) := by
  cases m with
  | zero =>
    obtain ⟨rfl, rfl⟩ : o = 0 ∧ d = 0 := ⟨Nat.lt_one_iff.mp ho, Nat.lt_one_iff.mp hd⟩
    decide
  | succ m =>
    have hhalf : ∀ v, v < 2 ^ (m + 1) → (BitVec.ofNat (m + 1) v).toInt =
        if v < 2 ^ (m + 1) / 2 then (v : Int) else v - (2 ^ (m + 1) : Nat) := fun v hv => by
      have hpow : 2 ^ (m + 1) = 2 * 2 ^ m := by rw [Nat.pow_succ, Nat.mul_comm]
      rw [BitVec.toInt_eq_toNat_cond, BitVec.toNat_ofNat, Nat.mod_eq_of_lt hv]
      refine if_congr ?_ rfl rfl
      omega
    rw [BitVec.slt, hhalf o ho, hhalf d hd]

/-- Settles O42: each step at the home of its word or its operand. -/
theorem syncAndAtomics : Obligations.sync_and_atomics := by
  intro s id i r p hr l done arrived placed
  refine ⟨fun n hi hop hp hserv hplace => ⟨fun hpois => ?_, fun hclean hn => ?_⟩, ?_, ?_, ?_⟩
  · have hrun := exec_syncArrival hr hop hp hserv
    rw [arriveAt_poisoned n _ hpois] at hrun
    obtain ⟨r', hr', hst, -⟩ := reqOf_reqFault cPADDR p.va p.strad hr
    exact ⟨_, hrun, r', hr', hst, rfl⟩
  · have hrun := exec_syncArrival hr hop hp hserv
    rw [arriveAt_eq _ hclean hn] at hrun
    obtain ⟨hdone, harr, -⟩ := arrival_finish (q := { p with st := .done }) n (p.pois.any fun b => b) (issDie s r.iss) hr hp rfl hplace
    exact ⟨_, hrun, hi ▸ hdone, harr⟩
  · intro g n u k h o ls x hi hop hiss hp hserv hloc hls hx rest cur hroom hnew
    have hgr0 : ∀ gs, GroupRecs (regrouped s l h gs) l h gs := fun gs =>
      ⟨_, _, leaseOf_updTile _ hls, tileOf_mmod _ hx, rfl⟩
    refine ⟨fun hless => ?_, fun hfull hclean hn => ?_⟩
    · have hrun := exec_synaGroup hr hop hiss hp hserv hloc hls hx hroom hnew
      dsimp only at hrun
      have hless' : (groupRec x o g).members.length + 1 < (mget (⟨0, 0, 0⟩ : Group) ls.groups g).count := hless
      rw [if_pos hless'] at hrun
      have hpart : PartDone _ id 0 := (partDone_checkDone (s := regrouped s l h
        (otherRecs x o g ++ [joined (groupRec x o g) o g n u k (p.pois.any fun b => b)]))
        (q := { p with st := .done }) (tileDie ls h) hr hp).imp fun r' h => ⟨_, h.1, h.2, rfl⟩
      exact ⟨_, hrun, hi ▸ hpart, (hgr0 _).releases (releases_finish ..)⟩
    · have hword : syncWord (regrouped s l h rest) l p.loc = syncWord s l p.loc := by
        rw [hloc]
        exact syncWord_regrouped rest hls hx
      have hplace : Placed (regrouped s l h rest) l p.loc := .inr ⟨h, o, _, _, hloc, leaseOf_updTile _ hls, tileOf_mmod _ hx⟩
      have harrive := arriveAt_eq (cur.pois || p.pois.any fun b => b) ((congrArg Prod.snd hword).trans hclean) hn
      have hrun := exec_synaGroup_last hr hop hiss hp hserv hloc hls hx hroom hnew hfull harrive
      obtain ⟨hdone, harr, hrel⟩ := arrival_finish (q := { p with st := .done }) (cur.sum + n) (cur.pois || p.pois.any fun b => b)
        (tileDie ls h) (show reqOf (regrouped s l h rest) id = some r from hr) hp rfl hplace
      rw [hword] at harr
      refine ⟨_, hrun, hi ▸ hdone, harr, GroupRecs.releases ?_ hrel⟩
      rw [hloc]
      exact (hgr0 rest).putWord _
  · intro op pa hop hp hunit hgate hserv hver hloc old w
    have hrun := exec_atomicAtHome hr hop hp hunit hgate hserv hver hloc
    rw [atomPart_eq addF32 hr hp hloc] at hrun
    obtain ⟨hput, hnone, hparts⟩ := atomPut_frame s id pa r p w.1
    obtain ⟨r1, hr1, hlen⟩ := hparts id r hr
    have hi : i < r1.parts.length := hlen ▸ (List.getElem?_eq_some_iff.mp hp).1
    obtain ⟨r', hr', hp'⟩ := partDone_checkDone (q := w.2) (servDie s pa) hr1 (List.getElem?_eq_getElem hi)
    have hmem := (releases_finish (atomPut s id pa r p w.1) id i (servDie s pa) w.2).mem
    exact ⟨_, hrun, ⟨r', w.2, hr', hp', atomic_done hop ..⟩, fun b q hw => hmem.trans (hput b q hw), fun hw => hmem.trans (hnone hw),
      r', w.2, hr', hp', rfl, rfl⟩
  · intro n o d c f ho hd
    refine ⟨rfl, rfl, rfl, rfl, ?_, rfl⟩
    rw [slt_ofNat ho hd]
    simp only [atomNew, decide_eq_true_eq]

end Sys2Proof.Claims
end

section
/-! SUPPORT. Reads under a view and writes to versioned lines (R99, R101, R102). -/

namespace Sys2Proof.Claims

open Sys2Proof Sys2Proof.Machine

/-! ### What the versions of lines move -/

/-- The version pool moves lines, pool and quota counts, views of leases and save areas, and the collector's mark. -/
def VersionsMove (s t : State) : Prop := t = { s with
  lines := t.lines, poolUsed := t.poolUsed, vfs := t.vfs, leases := t.leases, awaitSave := t.awaitSave, wmark := t.wmark }

theorem VersionsMove.refl (s : State) : VersionsMove s s := rfl

theorem VersionsMove.trans {a b c : State} (h : VersionsMove a b) (h' : VersionsMove b c) : VersionsMove a c := by
  rw [VersionsMove] at *
  rw [h', h]

theorem VersionsMove.foldl {α : Type} {s t : State} {f : State → α → State} (h : VersionsMove s t) (hf : ∀ s a, VersionsMove s (f s a))
    (as : List α) : VersionsMove s (as.foldl f t) :=
  foldl_keeps (VersionsMove s) f (fun t a ht => ht.trans (hf t a)) as h

theorem LinesOnly.moves {s t : State} (h : LinesOnly s t) : VersionsMove s t := by
  rw [LinesOnly] at h
  rw [VersionsMove, h]

theorem versionsMove_updLease (s : State) (l : Nat) (f : Lease → Lease) : VersionsMove s (updLease s l f) := rfl

theorem versionsMove_setLine (s : State) (n : Nat) (y : Line) : VersionsMove s (setLine s n y) := (linesOnly_setLine s n y).moves

theorem versionsMove_doomView (s : State) (l n code : Nat) : VersionsMove s (doomView s l n code) :=
  (versionsMove_updLease s l _).trans (linesOnly_discardPend _ l n).moves

theorem versionsMove_reclaimAll (s : State) (w : Nat) (p : Nat → Bool) : VersionsMove s (reclaimAll s w p) := by
  unfold reclaimAll
  refine (VersionsMove.refl s).foldl (fun t e => ?_) _
  split
  · exact versionsMove_setLine t _ _
  · exact .refl t

theorem versionsMove_revokeView (s : State) (e : ViewRef) : VersionsMove s (revokeView s e) := by
  unfold revokeView
  dsimp only
  split
  · split
    · exact (versionsMove_doomView s _ _ _).trans rfl
    · rfl
  · rfl

theorem versionsMove_revokeOne {s t : State} {tenant st : Nat} (h : revokeOne s tenant st = some t) : VersionsMove s t := by
  unfold revokeOne at h
  dsimp only at h
  split at h
  · exact nomatch h
  · rw [← Option.some_inj.mp h]
    exact versionsMove_revokeView s _

theorem versionsMove_takeSlot (s : State) (tenant n fuel : Nat) : VersionsMove s (takeSlot s tenant n fuel).2 := by
  induction fuel generalizing s with
  | zero => exact .refl s
  | succ fuel ih =>
    have hreclaim : VersionsMove s { reclaimAll s (watermark s) (fun _ => true) with wmark := watermark s } :=
      (versionsMove_reclaimAll s _ _).trans rfl
    rw [takeSlot]
    dsimp only
    split
    · exact .refl s
    · split
      · exact hreclaim
      · split
        · next s2 hs2 => exact (hreclaim.trans (versionsMove_revokeOne hs2)).trans (ih s2)
        · exact hreclaim

theorem versionsMove_getSlot (s : State) (tenant n : Nat) : VersionsMove s (getSlot s tenant n).2 := versionsMove_takeSlot s tenant n _

theorem versionsMove_retain (s : State) (n tenant ts : Nat) : VersionsMove s (retain s n tenant ts) := by
  unfold retain
  dsimp only
  split
  · exact (versionsMove_getSlot s tenant n).trans (versionsMove_setLine _ _ _)
  · exact (versionsMove_getSlot s tenant n).trans (versionsMove_setLine _ _ _)

@[simp] theorem lineOf_setLine (s : State) (n : Nat) (y : Line) : lineOf (setLine s n y) n = y := mget_mset_self _ _ n y

/-- A new version carries its timestamp (R101). -/
theorem lineOf_retain_ts (s : State) (n tenant ts : Nat) : (lineOf (retain s n tenant ts) n).ts = ts := by
  unfold retain
  dsimp only
  split <;> rw [lineOf_setLine]

/-- A slot that is free is taken as it is (R111). -/
theorem getSlot_free {s : State} {tenant n : Nat} (h : slotFree s tenant n = true) : getSlot s tenant n = (true, s) := by
  rw [getSlot, takeSlot, if_pos h]

/-- The timestamp of a live write is newer than the line's, not before the home's tick, and names the home (R101). -/
theorem liveStamp_spec (s : State) (h ts : Nat) :
    ts < liveStamp s h ts ∧ stamp (tickOf s h) 0 ≤ liveStamp s h ts ∧ liveStamp s h ts % 256 = h % 256 := by
  unfold liveStamp
  dsimp only
  split
  · refine ⟨‹_›, ?_, ?_⟩ <;> · unfold stamp; omega
  · split
    · next hnow hlt =>
      refine ⟨hlt, ?_, ?_⟩ <;> · unfold stamp at *; omega
    · next hnow hlt =>
      refine ⟨?_, ?_, ?_⟩ <;> · unfold stamp at *; omega

/-- What a retry of the prefetched words moves: leases. -/
theorem versionsMove_markStale (s : State) (l : Nat) (lc : Loc) (va n : Nat) :
    VersionsMove s (markStale s l lc va n) ∧ (markStale s l lc va n).lines = s.lines := by
  unfold markStale
  split
  · exact ⟨.refl s, rfl⟩
  · dsimp only
    split
    · exact ⟨.refl s, rfl⟩
    · refine foldl_keeps (fun t : State => VersionsMove s t ∧ t.lines = s.lines) _ (fun t k h => ?_) _ ⟨.refl s, rfl⟩
      exact ⟨h.1.trans (versionsMove_updLease t l _), h.2⟩

theorem Releases.lineOf {s t : State} (h : Releases s t) (n : Nat) : lineOf t n = lineOf s n := by
  rw [h.only]
  rfl

/-! ### A read under a view -/

/-- The pending version that a read under the view of request `id` meets first (R102). -/
def ownPend (s : State) (id : Nat) (r : Req) (n : Nat) : Option Pend :=
  if (reqView s r).kind = 2 ∧ (reqView s r).doom = 0 ∧ sameView id (reqView s r) = true
  then findPend (lineOf s n) (issLease r.iss) r.view else none

theorem viewRead_own {s : State} {id pa : Nat} {r : Req} {q : Pend} (h : ownPend s id r (pa / 128) = some q) :
    viewRead s id r pa = some (q.data, q.pois) := by
  have hown : (if (reqView s r).kind == 2 && (reqView s r).doom == 0 && sameView id (reqView s r)
      then findPend (lineOf s (pa / 128)) (issLease r.iss) r.view else none) = some q := by
    refine Eq.trans (if_congr ?_ rfl rfl) h
    rw [Bool.and_eq_true, Bool.and_eq_true, beq_iff_eq, beq_iff_eq, and_assoc]
  rw [viewRead, hown]

theorem viewRead_snap {s : State} {id pa : Nat} {r : Req} (h : ownPend s id r (pa / 128) = none) :
    viewRead s id r pa = if (reqView s r).doom = 4 ∨ sameView id (reqView s r) = false then none
      else snapRead s (pa / 128) (reqView s r).sts := by
  have hown : (if (reqView s r).kind == 2 && (reqView s r).doom == 0 && sameView id (reqView s r)
      then findPend (lineOf s (pa / 128)) (issLease r.iss) r.view else none) = none := by
    refine Eq.trans (if_congr ?_ rfl rfl) h
    rw [Bool.and_eq_true, Bool.and_eq_true, beq_iff_eq, beq_iff_eq, and_assoc]
  rw [viewRead, hown]
  refine if_congr ?_ rfl rfl
  rw [Bool.or_eq_true, beq_iff_eq, Bool.not_eq_true']

/-- What the STS selects (R99). -/
theorem snapRead_old {s : State} {n sts : Nat} {d : BitVec 1024} {q : BitVec 4} (hts : sts < (lineOf s n).ts)
    (h : snapRead s n sts = some (d, q)) : ∃ w ∈ (lineOf s n).old, w.ts ≤ sts ∧ w.data = d ∧ w.pois = q := by
  unfold snapRead at h
  dsimp only at h
  rw [if_neg (by omega)] at h
  split at h
  · next w hw =>
    split at h
    · obtain ⟨rfl, rfl⟩ := Prod.mk.injEq .. ▸ Option.some_inj.mp h
      exact ⟨w, List.mem_of_find?_eq_some hw, by simpa using List.find?_some hw, rfl, rfl⟩
    · exact nomatch h
  · exact nomatch h

/-! ### One part at the home of its line -/

/-- A sent request that nothing holds is served in the state of its part. -/
theorem servable_of {s : State} {id : Nat} {r : Req} {p : Part} {st : PSt} (hstage : r.stage = .sent) (hafter : r.after = [])
    (hflush : r.flush = false) (hheld : heldLine s id r.iss p.loc = false) (hst : p.st = st) : servable s id r p st = true := by
  rw [servable, hstage, hafter, hflush, hheld, hst]
  simp

/-- A part that stands alone at an open unit takes its step (R116). -/
theorem perUnit_alone {s : State} {id i : Nat} {r : Req} {p : Part} (f : Nat → State → State) (hr : reqOf s id = some r)
    (hp : r.parts[i]? = some p) (hunit : unitParts r i = [i]) (hopen : unitOpen s (issLease r.iss) p.loc = true) :
    perUnit id i f s = .next (f i s) := by
  have hback : backToGate s id i = none := by
    rw [backToGate, hr, Option.bind_some, hp, Option.bind_some, hopen, Bool.not_true, Bool.and_false]
    rfl
  rw [perUnit, hr, hback]
  dsimp only
  rw [hunit]
  rfl

section
variable {s : State} {id i pa : Nat} {r : Req} {p : Part}

theorem snapPart_locked (hr : reqOf s id = some r) (hp : r.parts[i]? = some p) (hloc : p.loc = .mem pa)
    (hserv : servable s id r p .home = true) (hop : r.op = .read) (hview : r.view ≠ 0) (hver : p.versioned = true)
    (hlock : locked s pa = true) : snapPart id i s = setPart s id i { p with st := .waiting } := by
  unfold snapPart
  rw [hr]
  dsimp only
  rw [hp]
  dsimp only
  rw [hloc]
  dsimp only
  rw [if_neg (by rw [hserv, hop, hver]; simp [hview]), if_pos hlock]

theorem snapPart_read {d : BitVec 1024} {q : BitVec 4} (hr : reqOf s id = some r) (hp : r.parts[i]? = some p) (hloc : p.loc = .mem pa)
    (hserv : servable s id r p .home = true) (hop : r.op = .read) (hview : r.view ≠ 0) (hver : p.versioned = true)
    (hlock : locked s pa = false) (hread : viewRead s id r pa = some (d, q)) :
    snapPart id i s = checkDone (setPart s id i { p with
      st := .done, data := (verBytes d q (pa % 128) p.len).1, pois := (verBytes d q (pa % 128) p.len).2 }) id (homeDie s.boot pa) := by
  unfold snapPart
  rw [hr]
  dsimp only
  rw [hp]
  dsimp only
  rw [hloc]
  dsimp only
  rw [if_neg (by rw [hserv, hop, hver]; simp [hview]), if_neg (by rw [hlock]; decide), hread]

theorem snapPart_lost (hr : reqOf s id = some r) (hp : r.parts[i]? = some p) (hloc : p.loc = .mem pa)
    (hserv : servable s id r p .home = true) (hop : r.op = .read) (hview : r.view ≠ 0) (hver : p.versioned = true)
    (hlock : locked s pa = false) (hread : viewRead s id r pa = none) : snapPart id i s = partFault s id cSNAP p := by
  unfold snapPart
  rw [hr]
  dsimp only
  rw [hp]
  dsimp only
  rw [hloc]
  dsimp only
  rw [if_neg (by rw [hserv, hop, hver]; simp [hview]), if_neg (by rw [hlock]; decide), hread]

theorem exec_lockWaitResume (hr : reqOf s id = some r) (hp : r.parts[i]? = some p) (hloc : p.loc = .mem pa)
    (hserv : servable s id r p .waiting = true) (hlock : locked s pa = false) (hnot : ∀ g, r.op ≠ .swait g) :
    exec (.lockWaitResume id i) s = .next (setPart s id i { p with st := .home }) := by
  show execLockWaitResume id i s = _
  unfold execLockWaitResume
  rw [hr]
  dsimp only
  rw [hp]
  dsimp only
  split
  case h_2 h => exact absurd hloc (h pa)
  case h_1 pa' hloc' =>
    obtain rfl : pa = pa' := Loc.mem.inj (hloc.symm.trans hloc')
    refine if_pos ?_
    rw [hserv, hlock, Bool.not_false, Bool.true_and, Bool.true_and]
    cases hop : r.op <;> simp_all

theorem exec_lockWaitResume_locked (hr : reqOf s id = some r) (hp : r.parts[i]? = some p) (hloc : p.loc = .mem pa)
    (hlock : locked s pa = true) : exec (.lockWaitResume id i) s = .next s := by
  show execLockWaitResume id i s = _
  unfold execLockWaitResume
  rw [hr]
  dsimp only
  rw [hp]
  dsimp only
  rw [hloc]
  dsimp only
  rw [hlock, Bool.not_true, Bool.and_false, Bool.false_and, if_neg Bool.false_ne_true]

/-! ### A live write -/

theorem livePart_write (f : Nat → Nat → Nat) (hr : reqOf s id = some r) (hp : r.parts[i]? = some p) (hloc : p.loc = .mem pa)
    (hop : r.op = .write) :
    (livePart f id (s, false) i).1 = setPart (recheck (liveWrite (markStale s (issLease r.iss) p.loc p.va p.len) pa
      (issTenant (markStale s (issLease r.iss) p.loc p.va p.len) r.iss) p.data p.pois) (issLease r.iss) p.loc p.data.length) id i
      { p with st := .done, code := 0 } := by
  unfold livePart
  rw [hr]
  dsimp only
  rw [hp]
  dsimp only
  split
  case h_1 pa' hloc' =>
    obtain rfl : pa = pa' := Loc.mem.inj (hloc.symm.trans hloc')
    rw [hop]
    rfl
  case h_2 h => exact absurd hloc (h pa)

theorem liveWriteVersioned_locked (f : Nat → Nat → Nat) (hr : reqOf s id = some r) (hp : r.parts[i]? = some p) (hloc : p.loc = .mem pa)
    (hserv : servable s id r p .home = true) (hop : r.op = .write) (hview : r.view = 0) (hver : p.versioned = true)
    (hpair : isPaired s r = false) (hlock : locked s pa = true) :
    liveWriteVersioned f id i s = .next (setPart s id i { p with st := .waiting }) := by
  unfold liveWriteVersioned
  rw [hr]
  dsimp only
  rw [hp]
  dsimp only
  rw [hloc]
  dsimp only
  rw [if_neg (by rw [hserv, hop, hver, hview, hpair]; decide), if_pos hlock]

theorem liveWriteVersioned_free (f : Nat → Nat → Nat) (hr : reqOf s id = some r) (hp : r.parts[i]? = some p) (hloc : p.loc = .mem pa)
    (hserv : servable s id r p .home = true) (hop : r.op = .write) (hview : r.view = 0) (hver : p.versioned = true)
    (hpair : isPaired s r = false) (hlock : locked s pa = false) (hunit : unitParts r i = [i]) :
    liveWriteVersioned f id i s = .next (checkDone (livePart f id (s, false) i).1 id (homeDie s.boot pa)) := by
  unfold liveWriteVersioned
  rw [hr]
  dsimp only
  rw [hp]
  dsimp only
  rw [hloc]
  dsimp only
  rw [if_neg (by rw [hserv, hop, hver, hview, hpair]; decide), if_neg (by rw [hlock]; decide), hunit]
  rfl

end

/-- What a live write leaves: memory with its bytes, a newer stamp of the home while the clock runs, and requests as they were. -/
theorem liveWrite_spec (s : State) (pa tenant : Nat) (bs : List Byte) (ps : List Bool) :
    (liveWrite s pa tenant bs ps).mem = (memWr s pa bs ps).mem ∧ (liveWrite s pa tenant bs ps).reqs = s.reqs ∧
      (s.clockStopped = true → (liveWrite s pa tenant bs ps).lines = s.lines) ∧
      (s.clockStopped = false → (lineOf (liveWrite s pa tenant bs ps) (pa / 128)).ts =
        liveStamp s (homeDie s.boot pa) (lineOf s (pa / 128)).ts) := by
  rw [liveWrite]
  split
  · exact ⟨rfl, rfl, fun _ => rfl, fun h => absurd ((‹s.clockStopped = true›).symm.trans h) (by decide)⟩
  · next hrun =>
    have hmove := versionsMove_retain s (pa / 128) tenant (liveStamp s (homeDie s.boot pa) (lineOf s (pa / 128)).ts)
    refine ⟨?_, ?_, fun h => absurd h hrun, fun _ => lineOf_retain_ts s (pa / 128) tenant _⟩
    · dsimp only [memWr, setBank]
      rw [hmove]
      rfl
    · dsimp only [memWr, setBank]
      rw [hmove]

/-- What a live write of a part leaves at its line, before its request is settled. -/
def liveDone (s : State) (r : Req) (p : Part) (pa : Nat) : State :=
  liveWrite (markStale s (issLease r.iss) p.loc p.va p.len) pa
    (issTenant (markStale s (issLease r.iss) p.loc p.va p.len) r.iss) p.data p.pois

theorem liveDone_spec (s : State) (r : Req) (p : Part) (pa : Nat) :
    (liveDone s r p pa).mem = (memWr s pa p.data p.pois).mem ∧ (liveDone s r p pa).reqs = s.reqs ∧
      (s.clockStopped = true → (liveDone s r p pa).lines = s.lines) ∧
      (s.clockStopped = false → (lineOf (liveDone s r p pa) (pa / 128)).ts =
        liveStamp s (homeDie s.boot pa) (lineOf s (pa / 128)).ts) := by
  obtain ⟨hmove, hlines⟩ := versionsMove_markStale s (issLease r.iss) p.loc p.va p.len
  obtain ⟨hmem, hreqs, hstop, hrun⟩ := liveWrite_spec (markStale s (issLease r.iss) p.loc p.va p.len) pa
    (issTenant (markStale s (issLease r.iss) p.loc p.va p.len) r.iss) p.data p.pois
  have hclock : (markStale s (issLease r.iss) p.loc p.va p.len).clockStopped = s.clockStopped := by rw [hmove]
  have hreq0 : (markStale s (issLease r.iss) p.loc p.va p.len).reqs = s.reqs := by rw [hmove]
  have hline : lineOf (markStale s (issLease r.iss) p.loc p.va p.len) (pa / 128) = lineOf s (pa / 128) := by
    rw [lineOf, hlines]
    rfl
  refine ⟨hmem.trans ?_, hreqs.trans hreq0, fun h => (hstop (hclock.trans h)).trans hlines, fun h => (hrun (hclock.trans h)).trans ?_⟩
  · rw [hmove]
    rfl
  · rw [hline, hmove]
    rfl

/-! ### A write under a transaction -/

section
variable {s : State} {id i pa : Nat} {r : Req} {p : Part}

theorem pendPart_lost (f : Nat → Nat → Nat) (hr : reqOf s id = some r) (hp : r.parts[i]? = some p) (hloc : p.loc = .mem pa)
    (hserv : servable s id r p .home = true) (hop : r.op = .write) (hview : r.view ≠ 0) (hver : p.versioned = true)
    (hlost : sameView id (reqView s r) = false ∨ (reqView s r).kind ≠ 2) : pendPart f id i s = partFault s id cSNAP p := by
  unfold pendPart
  rw [hr]
  dsimp only
  rw [hp]
  dsimp only
  rw [hloc]
  dsimp only
  rw [if_neg (by rw [hserv, hop, hver]; simp [hview]; decide), if_pos]
  obtain h | h := hlost <;> simp [hview, h]

theorem pendPart_doomed (f : Nat → Nat → Nat) (hr : reqOf s id = some r) (hp : r.parts[i]? = some p) (hloc : p.loc = .mem pa)
    (hserv : servable s id r p .home = true) (hop : r.op = .write) (hview : r.view ≠ 0) (hver : p.versioned = true)
    (hsame : sameView id (reqView s r) = true) (hkind : (reqView s r).kind = 2) (hdoom : (reqView s r).doom ≠ 0) :
    pendPart f id i s = checkDone (setPart s id i { p with st := .done, code := 2 }) id (homeDie s.boot pa) := by
  unfold pendPart
  rw [hr]
  dsimp only
  rw [hp]
  dsimp only
  rw [hloc]
  dsimp only
  rw [if_neg (by rw [hserv, hop, hver]; simp [hview]; decide), if_neg (by simp [hsame, hkind]),
    if_pos (by simp [hview, hdoom])]

/-- The pending version that is found in place of the one it replaces. -/
theorem find?_replace {α : Type} {f : α → Bool} {q q' : α} (hq' : f q' = true) : ∀ {as : List α}, as.find? f = some q →
    (as.map fun e => if f e = true then q' else e).find? f = some q'
  | [], h => nomatch h
  | a :: as, h => by
    by_cases ha : f a = true
    · rw [List.map_cons, if_pos ha, List.find?_cons_of_pos hq']
    · rw [List.find?_cons_of_neg ha] at h
      rw [List.map_cons, if_neg ha, List.find?_cons_of_neg ha, find?_replace hq' h]

/-- A pending version with bytes merged into it (R102). -/
def mergedPend (q : Pend) (o va : Nat) (bs : List Byte) (ps : List Bool) : Pend :=
  { q with data := (verMerge q.data q.pois o bs ps).1, pois := (verMerge q.data q.pois o bs ps).2, va := min q.va va }

theorem pendWrite_own {l slot tenant va : Nat} {q : Pend} (base : BitVec 1024 × BitVec 4) (bs : List Byte) (ps : List Bool)
    (h : findPend (lineOf s (pa / 128)) l slot = some q) :
    ∃ t q', pendWrite s l slot tenant pa va base bs ps = some t ∧ VersionsMove s t ∧
      findPend (lineOf t (pa / 128)) l slot = some q' ∧ (q'.data, q'.pois) = verMerge q.data q.pois (pa % 128) bs ps := by
  unfold pendWrite
  dsimp only
  rw [h]
  dsimp only
  refine ⟨_, mergedPend q (pa % 128) va bs ps, rfl, versionsMove_setLine s _ _, ?_, rfl⟩
  rw [lineOf_setLine]
  have hfound : (lineOf s (pa / 128)).pend.find? (fun p => p.lease == l && p.slot == slot) = some q := h
  have hkey := List.find?_some hfound
  exact find?_replace (f := fun p : Pend => p.lease == l && p.slot == slot) (q' := mergedPend q (pa % 128) va bs ps) hkey hfound

theorem pendWrite_new {l slot tenant va : Nat} (base : BitVec 1024 × BitVec 4) (bs : List Byte) (ps : List Bool)
    (h : findPend (lineOf s (pa / 128)) l slot = none) (hfree : slotFree s tenant (pa / 128) = true) :
    ∃ t q', pendWrite s l slot tenant pa va base bs ps = some t ∧ VersionsMove s t ∧
      findPend (lineOf t (pa / 128)) l slot = some q' ∧ (q'.data, q'.pois) = verMerge base.1 base.2 (pa % 128) bs ps := by
  unfold pendWrite
  dsimp only
  rw [h, getSlot_free hfree]
  dsimp only
  refine ⟨_, ⟨tenant, l, slot, (verMerge base.1 base.2 (pa % 128) bs ps).1, (verMerge base.1 base.2 (pa % 128) bs ps).2, va⟩,
    if_pos rfl, versionsMove_setLine s _ _, ?_, rfl⟩
  rw [lineOf_setLine]
  refine List.find?_cons_of_pos ?_
  rw [Bool.and_eq_true, beq_iff_eq, beq_iff_eq]
  exact ⟨rfl, rfl⟩

theorem writeEffect_write (f : Nat → Nat → Nat) {op : MOp} (hop : op = .write) (p : Part) (old : List Byte) (oq : Bool) :
    writeEffect f op p old oq = (some (p.data, p.pois), { p with st := .done, code := 0 }) := by
  rw [hop]
  rfl

/-- A write under a healthy transaction goes to its pending version (R102). -/
theorem pendPart_own {q : Pend} {t : State} (f : Nat → Nat → Nat) (hr : reqOf s id = some r) (hp : r.parts[i]? = some p) (hloc : p.loc = .mem pa)
    (hserv : servable s id r p .home = true) (hop : r.op = .write) (hview : r.view ≠ 0) (hver : p.versioned = true)
    (hsame : sameView id (reqView s r) = true) (hkind : (reqView s r).kind = 2) (hdoom : (reqView s r).doom = 0)
    (hq : findPend (lineOf s (pa / 128)) (issLease r.iss) r.view = some q)
    (ht : pendWrite s (issLease r.iss) r.view (issTenant s r.iss) pa p.va (q.data, q.pois) p.data p.pois = some t) :
    pendPart f id i s = checkDone (setPart t id i { p with st := .done, code := 0 }) id (homeDie s.boot pa) := by
  have hshadow : (r.view == 0) = false := beq_eq_false_iff_ne.mpr hview
  have hzero : ¬ (0 : BitVec 2) = 2 := by decide
  unfold pendPart
  rw [hr]
  dsimp only
  rw [hp]
  dsimp only
  split
  case h_2 h => exact absurd hloc (h pa)
  case h_1 pa' hloc' =>
    obtain rfl : pa = pa' := Loc.mem.inj (hloc.symm.trans hloc')
    rw [if_neg (by rw [hserv, hop, hver]; simp [hview]; decide), if_neg (by simp [hsame, hkind]), if_neg (by simp [hview, hdoom]),
      hshadow]
    rw [if_neg Bool.false_ne_true, hq]
    dsimp only
    simp only [writeEffect_write f hop, hzero, if_false, Option.getD_some, Option.isNone_some, Bool.false_and, Bool.and_false,
      Bool.false_eq_true, ht]

/-- The transaction of a view has written one more line (R102). -/
def countWrite (s : State) (l slot : Nat) : State :=
  updLease s l fun ls => { ls with views := mmod ls.views slot fun v => { v with writes := v.writes + 1 } }

/-- The first write of a transaction to a line makes its pending version (R102). -/
theorem pendPart_new {b : BitVec 1024 × BitVec 4} {t : State} (f : Nat → Nat → Nat) (hr : reqOf s id = some r) (hp : r.parts[i]? = some p)
    (hloc : p.loc = .mem pa) (hserv : servable s id r p .home = true) (hop : r.op = .write) (hview : r.view ≠ 0)
    (hver : p.versioned = true) (hsame : sameView id (reqView s r) = true) (hkind : (reqView s r).kind = 2)
    (hdoom : (reqView s r).doom = 0) (hq : findPend (lineOf s (pa / 128)) (issLease r.iss) r.view = none)
    (hlock : locked s pa = false) (hsnap : snapRead s (pa / 128) (reqView s r).sts = some b) (hroom : (reqView s r).writes < 16384)
    (ht : pendWrite s (issLease r.iss) r.view (issTenant s r.iss) pa p.va b p.data p.pois = some t) :
    pendPart f id i s = checkDone (setPart (countWrite t (issLease r.iss) r.view) id i { p with st := .done, code := 0 }) id
      (homeDie s.boot pa) := by
  have hshadow : (r.view == 0) = false := beq_eq_false_iff_ne.mpr hview
  have hfew : decide (16385 ≤ (reqView s r).writes + 1) = false := decide_eq_false (by omega)
  have hzero : ¬ (0 : BitVec 2) = 2 := by decide
  unfold pendPart
  rw [hr]
  dsimp only
  rw [hp]
  dsimp only
  split
  case h_2 h => exact absurd hloc (h pa)
  case h_1 pa' hloc' =>
    obtain rfl : pa = pa' := Loc.mem.inj (hloc.symm.trans hloc')
    rw [if_neg (by rw [hserv, hop, hver]; simp [hview]; decide), if_neg (by simp [hsame, hkind]), if_neg (by simp [hview, hdoom]),
      hshadow]
    rw [if_neg Bool.false_ne_true, hq]
    dsimp only
    rw [if_neg Bool.false_ne_true, hlock, if_neg Bool.false_ne_true, hsnap]
    dsimp only
    simp only [writeEffect_write f hop, hzero, if_false, Option.getD_some, Option.isNone_none, Bool.not_false, Bool.and_self,
      Bool.true_and, hfew, Bool.false_eq_true, if_true, ht, countWrite]

end

/-! ### The rules -/

/-- Part `i` of request `id` in state `t` satisfies `f`. -/
def PartIs (t : State) (id i : Nat) (f : Part → Prop) : Prop := ∃ r' p', reqOf t id = some r' ∧ r'.parts[i]? = some p' ∧ f p'

theorem partIs_setPart {s : State} {id i : Nat} {r : Req} {p : Part} (q : Part) (hr : reqOf s id = some r) (hp : r.parts[i]? = some p)
    {f : Part → Prop} (hf : f q) : PartIs (setPart s id i q) id i f :=
  ⟨_, q, reqOf_setPart q hr, getElem?_lset q hp, hf⟩

theorem partIs_finish {s : State} {id i : Nat} {r : Req} {p : Part} (q : Part) (die : Nat) (hr : reqOf s id = some r)
    (hp : r.parts[i]? = some p) {f : Part → Prop} (hf : f q) : PartIs (checkDone (setPart s id i q) id die) id i f := by
  obtain ⟨r', hr', hp'⟩ := partDone_checkDone (q := q) die hr hp
  exact ⟨r', q, hr', hp', hf⟩

/-- Settles O43: one step of the part at the home of its line, by the state of its view and of the line. -/
theorem versionedAccesses : Obligations.versioned_accesses := by
  intro s id i pa r p hr hp hunit hloc hstage hafter hflush hheld hver hopen l n v own part lost waits
  have hserv : ∀ st, p.st = st → servable s id r p st = true := fun st => servable_of hstage hafter hflush hheld
  have hpart : ∀ f : Nat → State → State, perUnit id i f s = .next (f i s) := fun f => perUnit_alone f hr hp hunit hopen
  have hwait : (setPart s id i { p with st := .waiting }).mem = s.mem ∧ PartIs (setPart s id i { p with st := .waiting }) id i
      fun p' => p'.st = .waiting := ⟨rfl, partIs_setPart _ hr hp rfl⟩
  refine ⟨fun hst hop hview => ⟨fun hlock => ?_, fun hlock => ⟨fun q hq => ?_, fun hnone hdoom hsame d q hsnap => ?_, fun hnone hbad => ?_⟩⟩,
    fun sts => ⟨fun hts => if_pos hts, fun d q hts hsnap => snapRead_old hts hsnap⟩, fun hst hlock hnot => ?_, fun hst hlock => ?_,
    fun hst hop hview hpair => ⟨fun hlock => ?_, fun hlock => ?_⟩, fun hst hop hview hlost => ?_,
    fun hst hop hview hsame hkind => ⟨fun hdoom => ?_, fun hdoom q hq => ?_, fun hdoom hnone hlock d q hsnap hroom hfree => ?_⟩⟩
  · exact ⟨_, (hpart (snapPart id)).trans (congrArg _ (snapPart_locked hr hp hloc (hserv _ hst) hop hview hver hlock)), hwait⟩
  · have hread := viewRead_own (id := id) (r := r) (pa := pa) hq
    exact ⟨_, (hpart (snapPart id)).trans (congrArg _ (snapPart_read hr hp hloc (hserv _ hst) hop hview hver hlock hread)),
      partIs_finish _ _ hr hp ⟨rfl, rfl⟩⟩
  · have hread : viewRead s id r pa = some (d, q) := by
      rw [viewRead_snap hnone, if_neg (fun h => h.elim hdoom fun hs => absurd (hs.symm.trans hsame) (by decide))]
      exact hsnap
    exact ⟨_, (hpart (snapPart id)).trans (congrArg _ (snapPart_read hr hp hloc (hserv _ hst) hop hview hver hlock hread)),
      partIs_finish _ _ hr hp ⟨rfl, rfl⟩⟩
  · have hread : viewRead s id r pa = none := by
      rw [viewRead_snap hnone]
      obtain h | h | h := hbad
      · exact if_pos (.inl h)
      · exact if_pos (.inr h)
      · split
        · rfl
        · exact h
    obtain ⟨r', hr', hst', -⟩ := reqOf_reqFault cSNAP p.va p.strad hr
    exact ⟨_, (hpart (snapPart id)).trans (congrArg _ (snapPart_lost hr hp hloc (hserv _ hst) hop hview hver hlock hread)), r', hr', hst'⟩
  · exact ⟨_, exec_lockWaitResume hr hp hloc (hserv _ hst) hlock hnot, partIs_setPart _ hr hp rfl⟩
  · exact exec_lockWaitResume_locked hr hp hloc hlock
  · exact ⟨_, liveWriteVersioned_locked addF32 hr hp hloc (hserv _ hst) hop hview hver hpair hlock, hwait⟩
  · have hrun := liveWriteVersioned_free addF32 hr hp hloc (hserv _ hst) hop hview hver hpair hlock hunit
    rw [livePart_write addF32 hr hp hloc hop] at hrun
    obtain ⟨hmem, hreqs, hstop, hstamp⟩ := liveDone_spec s r p pa
    have hrel := releases_recheck (liveDone s r p pa) (issLease r.iss) p.loc p.data.length
    obtain ⟨r1, p1, hr1, hp1⟩ := hrel.part (id := id) (r := r) ((congrArg (mfind · id) hreqs).trans hr) hp
    have hfin := hrel.trans (releases_finish _ id i (homeDie s.boot pa) { p with st := .done, code := 0 })
    refine ⟨_, hrun, partIs_finish _ _ hr1 hp1 rfl, hfin.mem.trans hmem, fun hclock => ?_, fun hclock => ?_⟩
    · exact (hfin.lineOf n).trans (congrArg (mget Line.zero · n) (hstop hclock))
    · obtain ⟨hnew, htick, hhome⟩ := liveStamp_spec s (homeDie s.boot pa) (lineOf s n).ts
      have hts := (congrArg Line.ts (hfin.lineOf n)).trans (hstamp hclock)
      exact ⟨lt_of_lt_of_eq hnew hts.symm, le_of_le_of_eq htick hts.symm, (congrArg (· % 256) hts).trans hhome⟩
  · obtain ⟨r', hr', hst', -⟩ := reqOf_reqFault cSNAP p.va p.strad hr
    exact ⟨_, (hpart (pendPart addF32 id)).trans (congrArg _ (pendPart_lost addF32 hr hp hloc (hserv _ hst) hop hview hver hlost)),
      rfl, rfl, r', hr', hst'⟩
  · have hfin := releases_finish s id i (homeDie s.boot pa) { p with st := .done, code := 2 }
    exact ⟨_, (hpart (pendPart addF32 id)).trans (congrArg _
      (pendPart_doomed addF32 hr hp hloc (hserv _ hst) hop hview hver hsame hkind hdoom)), hfin.mem, by rw [hfin.only],
      partIs_finish _ _ hr hp rfl⟩
  · obtain ⟨t, q', ht, hmove, hq', hdata⟩ := pendWrite_own (tenant := issTenant s r.iss) (va := p.va) (q.data, q.pois) p.data p.pois hq
    have hrun := (hpart (pendPart addF32 id)).trans (congrArg _
      (pendPart_own addF32 hr hp hloc (hserv _ hst) hop hview hver hsame hkind hdoom hq ht))
    have hfin := releases_finish t id i (homeDie s.boot pa) { p with st := .done, code := 0 }
    have hrt : reqOf t id = some r := by
      rw [hmove]
      exact hr
    refine ⟨_, hrun, hfin.mem.trans (by rw [hmove]), ⟨q', ?_, hdata⟩, partIs_finish _ _ hrt hp rfl⟩
    exact (congrArg (findPend · l r.view) (hfin.lineOf n)).trans hq'
  · obtain ⟨t, q', ht, hmove, hq', hdata⟩ := pendWrite_new (va := p.va) (d, q) p.data p.pois hnone hfree
    have hrun := (hpart (pendPart addF32 id)).trans (congrArg _
      (pendPart_new addF32 hr hp hloc (hserv _ hst) hop hview hver hsame hkind hdoom hnone hlock hsnap hroom ht))
    have hfin := releases_finish (countWrite t (issLease r.iss) r.view) id i (homeDie s.boot pa)
      { p with st := .done, code := 0 }
    have hrt : reqOf (countWrite t (issLease r.iss) r.view) id = some r := by
      rw [hmove]
      exact hr
    refine ⟨_, hrun, hfin.mem.trans (by rw [hmove]; rfl), ⟨q', ?_, hdata⟩, partIs_finish _ _ hrt hp rfl⟩
    exact (congrArg (findPend · l r.view) (hfin.lineOf n)).trans hq'

end Sys2Proof.Claims
end

section
/-! SUPPORT. Commits: locks, install, end; the collector and reclaiming (R104, R105, R109, R110). -/

namespace Sys2Proof.Claims

open Sys2Proof Sys2Proof.Machine

/-! ### A line written whole -/

/-- A sector that is written whole takes the poison of its bytes (R83, R147). -/
theorem sectorBit_line (p : BitVec 4) (n k : Nat) (old : Bool) (hk : k < 4) :
    sectorBit (n * 128) ((List.range 128).map fun i => p.getLsbD (i / 32)) old (4 * n + k) = p.getLsbD k := by
  have hlen : (inSector (n * 128) (4 * n + k) ((List.range 128).map fun i => p.getLsbD (i / 32))).length = 32 := by
    rw [length_inSector, List.length_map, List.length_range]
    omega
  have hany : (inSector (n * 128) (4 * n + k) ((List.range 128).map fun i => p.getLsbD (i / 32))).any (·.1) = true ↔
      p.getLsbD k = true := by
    rw [poisonedIn_iff]
    constructor
    · rintro ⟨i, hi, hsec⟩
      have hlt := (List.getElem?_eq_some_iff.mp hi).1
      have hbit := (List.getElem?_eq_some_iff.mp hi).2
      rw [List.getElem_map, List.getElem_range] at hbit
      rw [← hbit]
      congr 1
      omega
    · intro hbit
      refine ⟨32 * k, ?_, by omega⟩
      rw [List.getElem?_map, List.getElem?_range (by omega), Option.map_some, Nat.mul_div_cancel_left k (by decide), hbit]
  rw [sectorBit, hlen]
  by_cases hbit : p.getLsbD k = true
  · rw [if_pos (hany.mpr hbit), hbit]
  · rw [if_neg (mt hany.mp hbit), eq_false_of_ne_true hbit]
    rfl

theorem poison_of_sectors : ∀ p : BitVec 4,
    BitVec.ofNat 4 (((List.range 4).map fun k => if p.getLsbD k then 2 ^ k else 0).foldl (· + ·) 0) = p := by decide

/-- A line written whole reads back (R59, R83). -/
theorem memRd_line (s : State) (n : Nat) (d : BitVec 1024) (p : BitVec 4) (bs : List Byte) (hbs : bs = leBytes 128 d.toNat) :
    memRd (memWr s (n * 128) bs ((List.range 128).map fun i => p.getLsbD (i / 32))) (n * 128) 128 =
      (bs, (List.range 128).map fun i => p.getLsbD (i / 32)) := by
  obtain ⟨m, hm, hu⟩ := unitSize_sectors (n * 128)
  have hlen : bs.length = 128 := by rw [hbs, length_leBytes]
  have hps : ((List.range 128).map fun i => p.getLsbD (i / 32)).length = bs.length := by rw [hlen, List.length_map, List.length_range]
  have hbank : memBank (memWr s (n * 128) bs ((List.range 128).map fun i => p.getLsbD (i / 32))) =
      bankWr (32 * m) (memBank s) (n * 128) bs ((List.range 128).map fun i => p.getLsbD (i / 32)) := by
    rw [← hu]
    rfl
  rw [memRd, hbank, hu]
  refine Prod.ext ?_ ?_
  · have hrd := bankRd_bankWr (u := 32 * m) (by omega) (memBank s) (n * 128) bs ((List.range 128).map fun i => p.getLsbD (i / 32))
    rw [hlen] at hrd
    exact hrd
  · rw [bankRd_eq]
    dsimp only
    refine List.map_congr_left fun i hi => ?_
    have hi : i < 128 := List.mem_range.mp hi
    rw [shownPois_bankWr _ _ _ _ hm hps, show (n * 128 + i) / 32 = 4 * n + i / 32 by omega]
    exact sectorBit_line p n (i / 32) _ (by omega)

/-- A line into which a version was put holds that version (R104). -/
theorem lineData_put (s : State) (n : Nat) (d : BitVec 1024) (p : BitVec 4) :
    lineData (memWr s (n * 128) (leBytes 128 d.toNat) ((List.range 128).map fun i => p.getLsbD (i / 32))) n = (d, p) := by
  rw [lineData, memRd_line s n d p _ rfl]
  refine Prod.ext ?_ ?_
  · show BitVec.ofNat 1024 (leNat (leBytes 128 d.toNat)) = d
    rw [leNat_leBytes, Nat.mod_eq_of_lt d.isLt, BitVec.ofNat_toNat, BitVec.setWidth_eq]
  · refine Eq.trans (congrArg (fun l => BitVec.ofNat 4 (List.foldl (· + ·) 0 l)) (List.map_congr_left fun k hk => ?_)) (poison_of_sectors p)
    have hk : k < 4 := List.mem_range.mp hk
    have hbit : ((List.range 128).map fun i => p.getLsbD (i / 32)).getD (32 * k) false = p.getLsbD k := by
      rw [List.getD_eq_getElem _ _ (by rw [List.length_map, List.length_range]; omega), List.getElem_map, List.getElem_range,
        Nat.mul_div_cancel_left k (by decide)]
    exact if_congr (by rw [hbit]) rfl rfl

theorem lineData_congr {s t : State} (h : memBank t = memBank s) (n : Nat) : lineData t n = lineData s n := by
  rw [lineData, lineData, memRd, memRd, h]

theorem LinesOnly.bank {s t : State} (h : LinesOnly s t) : memBank t = memBank s := by
  rw [h]
  rfl

theorem showHbm_lines (s : State) (n : Nat) : (showHbm s n).lines = s.lines :=
  foldl_keeps (fun t : State => t.lines = s.lines) showSector (fun t k h => by unfold showSector; split <;> exact h) _ rfl

theorem llcInstall_lines (s : State) (pa : Nat) : (llcInstall s pa).lines = s.lines := by
  unfold llcInstall
  dsimp only
  split
  · rfl
  · split
    · rfl
    · split
      · exact showHbm_lines _ _
      · rfl

theorem llcUse_lines (wr : Bool) (s : State) (n : Nat) : (llcUse wr s n).lines = s.lines := by
  unfold llcUse
  dsimp only
  split
  · rfl
  · split <;> exact llcInstall_lines _ _

/-! ### The end of a commit -/

section
variable {s : State} {l : Nat} {ls : Lease}

theorem leaseOf_unlockAll (h : leaseOf s l = some ls) (k : Nat) : leaseOf (unlockAll s k) l = some ls := by
  have hlines : LinesOnly s (unlockAll s k) := by
    refine foldl_keeps (LinesOnly s) _ (fun t e ht => ?_) _ (show LinesOnly s s from rfl)
    split
    · exact ht.trans (linesOnly_setLine _ _ _)
    · exact ht
  rw [hlines]
  exact h

theorem leaseOf_mirror_solo (h : leaseOf s l = some ls) (hpair : ls.paired = false) : leaseOf (mirror s l) l = some ls :=
  (leaseOf_updLease _ h).trans (congrArg some (if_neg (by rw [hpair]; decide)))

/-- A commit of an unpaired lease ends with its result (R104, R268). -/
theorem leaseOf_endCommit {cm : Commit} (h : leaseOf s l = some ls) (hshadow : cm.shadow = false) (hpair : ls.paired = false) (st : Nat) :
    ∃ ls', leaseOf (endCommit s l cm st) l = some ls' ∧
      (cm.xd ≠ 0 → xget ls'.seq cm.xd = BitVec.ofNat 64 st ∧ xpois ls'.seq cm.xd = false) ∧ ls'.seq.pc = ls.seq.pc + 4 ∧
      ls'.commit = none ∧ (viewOf ls' cm.slot).kind = 0 := by
  have hempty : leaseOf (emptyView (discardPend (unlockAll s l) l cm.slot) l cm.slot) l = some { ls with views := mdel ls.views cm.slot } :=
    leaseOf_emptyView ((leaseOf_discardPend (unlockAll s l) l cm.slot l).trans (leaseOf_unlockAll h l)) cm.slot
  obtain ⟨r, hdone⟩ := leaseOf_fencedDone (leaseOf_updLease (fun ls => { ls with commit := none }) hempty) cm.xd st
  have hmirror := leaseOf_mirror_solo hdone hpair
  have hview : ∀ ls', ls'.views = mdel ls.views cm.slot → (viewOf ls' cm.slot).kind = 0 := fun ls' h => by
    rw [viewOf, h, mget, mfind_mdel_self]
    rfl
  have hres := fun q => result_seqNext_xset q cm.xd (BitVec.ofNat 64 st)
  unfold endCommit
  rw [h]
  dsimp only
  rw [hshadow, if_neg Bool.false_ne_true, Bool.false_and, Bool.false_and, if_neg Bool.false_ne_true]
  split
  · obtain ⟨w, hw⟩ := leaseOf_raise hmirror { FRec.zero with source := 4, cause := cPCOM, aux := cm.slot, faddr := _ } (fun t ht => nomatch ht)
    exact ⟨_, hw, hres _, by simp, rfl, hview _ rfl⟩
  · exact ⟨_, hmirror, hres _, by simp, rfl, hview _ rfl⟩

end

/-! ### The lock phase -/

/-- Line `n` is locked by lease `l`. -/
def LockedBy (s : State) (l n : Nat) : Prop := ((lineOf s n).lock.map fun k => k.lease) = some l

/-- The state `t` differs from `s` in the locks of lines alone. -/
structure LocksOnly (s t : State) : Prop where
  only : LinesOnly s t
  lines : ∀ n, lineOf t n = { lineOf s n with lock := (lineOf t n).lock }

theorem LocksOnly.refl (s : State) : LocksOnly s s := ⟨rfl, fun _ => rfl⟩

theorem LocksOnly.trans {a b c : State} (h : LocksOnly a b) (h' : LocksOnly b c) : LocksOnly a c :=
  ⟨h.only.trans h'.only, fun n => (h'.lines n).trans (by rw [h.lines n])⟩

theorem lineOf_setLine_ne (s : State) {n j : Nat} (y : Line) (h : j ≠ n) : lineOf (setLine s n y) j = lineOf s j := by
  have hlines : (setLine s n y).lines = mset Line.zero s.lines n y := by
    unfold setLine
    refine congrArg (mset Line.zero · n y) ?_
    refine foldl_keeps (fun t : State => t.lines = s.lines) _ (fun t a ht => ?_) _ rfl
    split <;> exact ht
  rw [lineOf, hlines]
  exact mget_mset_ne _ _ y h

theorem locksOnly_setLine (s : State) (n : Nat) (k : Option Lock) : LocksOnly s (setLine s n { lineOf s n with lock := k }) := by
  refine ⟨linesOnly_setLine _ _ _, fun j => ?_⟩
  by_cases hj : j = n
  · rw [hj, lineOf_setLine]
  · rw [lineOf_setLine_ne s _ hj]

theorem lockTest_mine {x : Line} {l t d q : Nat} {publ : Bool} (h : (x.lock.map fun k => k.lease) = some l) :
    lockTest x l t d q publ = .mine := by
  obtain ⟨k, hk, hl⟩ := Option.map_eq_some_iff.mp h
  rw [lockTest, hk]
  exact if_pos hl

/-- The homes lock every line of a write set that no other lease holds (R104). -/
theorem lockAll_open (l : Nat) (ls : Lease) (cm : Commit) (d : Nat) (ws : List Nat) :
    ∀ s : State, (∀ n ∈ ws, (lineOf s n).lock = none ∨ LockedBy s l n) → ∃ t, commitLockRequestAt.lockAll l ls cm d ws s = (t, .mine) ∧
      LocksOnly s t ∧ (∀ n ∈ ws, LockedBy t l n) ∧ ∀ n, LockedBy s l n → LockedBy t l n := by
  induction ws with
  | nil => exact fun s _ => ⟨s, rfl, .refl s, fun n hn => (by simp at hn), fun n h => h⟩
  | cons n ws ih =>
    intro s hopen
    obtain hfree | hmine := hopen n (List.mem_cons_self ..)
    · have hset := locksOnly_setLine s n (some ⟨l, cm.tick, d, ls.seqNo, cm.shadow⟩)
      have hnew : LockedBy (setLine s n { lineOf s n with lock := some ⟨l, cm.tick, d, ls.seqNo, cm.shadow⟩ }) l n := by
        rw [LockedBy, lineOf_setLine]
        rfl
      have hkeep : ∀ j, (lineOf s j).lock = none ∨ LockedBy s l j →
          (lineOf (setLine s n { lineOf s n with lock := some ⟨l, cm.tick, d, ls.seqNo, cm.shadow⟩ }) j).lock = none ∨
          LockedBy (setLine s n { lineOf s n with lock := some ⟨l, cm.tick, d, ls.seqNo, cm.shadow⟩ }) l j := fun j h => by
        by_cases hj : j = n
        · exact .inr (hj ▸ hnew)
        · rw [LockedBy, lineOf_setLine_ne s _ hj]
          exact h
      obtain ⟨t, ht, hlocks, hall, hold⟩ := ih _ fun j hj => hkeep j (hopen j (List.mem_cons_of_mem _ hj))
      refine ⟨t, ?_, hset.trans hlocks, fun j hj => ?_, fun j hj => ?_⟩
      · rw [commitLockRequestAt.lockAll, lockTest, hfree]
        exact ht
      · obtain rfl | hj := List.mem_cons.mp hj
        · exact hold _ hnew
        · exact hall j hj
      · by_cases hjn : j = n
        · exact hold j (hjn ▸ hnew)
        · refine hold j ?_
          rw [LockedBy, lineOf_setLine_ne s _ hjn]
          exact hj
    · obtain ⟨t, ht, hlocks, hall, hold⟩ := ih s fun j hj => hopen j (List.mem_cons_of_mem _ hj)
      refine ⟨t, ?_, hlocks, fun j hj => ?_, hold⟩
      · rw [commitLockRequestAt.lockAll, lockTest_mine hmine]
        exact ht
      · obtain rfl | hj := List.mem_cons.mp hj
        · exact hold _ hmine
        · exact hall j hj

/-- What a commit finds wrong with line `n` (R104, R106). -/
def lineBad (s : State) (l sts : Nat) (cm : Commit) (n : Nat) : Option Nat :=
  if sts < (lineOf s n).ts then some 1
  else if cm.clean && ((findPend (lineOf s n) l cm.slot).map (·.pois)).getD 0 != 0 then some 3 else none

theorem LocksOnly.lineBad {s t : State} (h : LocksOnly s t) (l sts : Nat) (cm : Commit) : lineBad t l sts cm = lineBad s l sts cm := by
  funext n
  rw [Claims.lineBad, Claims.lineBad, h.lines n]
  rfl

section
variable {s : State} {l : Nat} {rep : Bool} {ls : Lease} {cm : Commit}

theorem exec_commitLockRequest (hcur : s.cur = .seq l rep) : exec .commitLockRequest s = commitLockRequestAt l s := by
  show execCommitLockRequest s = _
  rw [execCommitLockRequest, onLease, hcur]

theorem exec_commitInstall (hcur : s.cur = .seq l rep) : exec .commitInstall s = commitInstallAt l s := by
  show execCommitInstall s = _
  rw [execCommitInstall, onLease, hcur]

theorem exec_commitWaitEnd (hcur : s.cur = .seq l rep) : exec .commitWaitEnd s = commitWaitEndAt l s := by
  show execCommitWaitEnd s = _
  rw [execCommitWaitEnd, onLease, hcur]

theorem commitLockRequest_doomed (hl : leaseOf s l = some ls) (hcm : ls.commit = some cm) (hphase : cm.phase = 0)
    (hshadow : cm.shadow = false) (hdoom : (viewOf ls cm.slot).doom ≠ 0) :
    commitLockRequestAt l s = .next (endCommit s l cm (viewOf ls cm.slot).doom) := by
  unfold commitLockRequestAt
  rw [hl]
  dsimp only
  rw [hcm]
  dsimp only
  rw [if_neg (by rw [hphase]; decide), if_pos (by rw [hshadow]; simp [hdoom])]

theorem commitLockRequest_stopped (hl : leaseOf s l = some ls) (hcm : ls.commit = some cm) (hphase : cm.phase = 0)
    (hshadow : cm.shadow = false) (hdoom : (viewOf ls cm.slot).doom = 0) (hclock : s.clockStopped = true) :
    commitLockRequestAt l s = .next (endCommit s l cm 2) := by
  unfold commitLockRequestAt
  rw [hl]
  dsimp only
  rw [hcm]
  dsimp only
  rw [if_neg (by rw [hphase]; decide), if_neg (by rw [hdoom]; simp), if_neg (by rw [hshadow]; simp), if_pos hclock]

/-- The lock phase of a healthy commit whose write set is open (R104). -/
theorem commitLockRequest_open {t : State} (hl : leaseOf s l = some ls) (hcm : ls.commit = some cm) (hphase : cm.phase = 0)
    (hshadow : cm.shadow = false) (hdoom : (viewOf ls cm.slot).doom = 0) (hclock : s.clockStopped = false)
    (ht : commitLockRequestAt.lockAll l ls cm (anchorDie ls) (writeSet s l cm.slot) s = (t, .mine)) :
    commitLockRequestAt l s = .next (((writeSet s l cm.slot).findSome? (lineBad t l (viewOf ls cm.slot).sts cm)).elim
      (updLease t l fun x => { x with commit := some { cm with
        locked := writeSet s l cm.slot, phase := 1, c := stamp (tickOf t (anchorDie ls)) (anchorDie ls) } })
      (endCommit t l cm)) := by
  unfold commitLockRequestAt
  rw [hl]
  dsimp only
  rw [hcm]
  dsimp only
  rw [if_neg (by rw [hphase]; decide), if_neg (by rw [hdoom]; simp), if_neg (by rw [hshadow]; simp), if_neg (by rw [hclock]; decide), ht]
  dsimp only
  split
  case h_1 st hst =>
    have hbad : (writeSet s l cm.slot).findSome? (lineBad t l (viewOf ls cm.slot).sts cm) = some st := by
      rw [← hst]
      refine congrArg (List.findSome? · _) (funext fun n => if_congr ?_ rfl rfl)
      rw [hshadow, Bool.not_false, Bool.true_and, decide_eq_true_eq]
    rw [hbad]
    rfl
  case h_2 hnone =>
    have hbad : (writeSet s l cm.slot).findSome? (lineBad t l (viewOf ls cm.slot).sts cm) = none := by
      rw [← hnone]
      refine congrArg (List.findSome? · _) (funext fun n => if_congr ?_ rfl rfl)
      rw [hshadow, Bool.not_false, Bool.true_and, decide_eq_true_eq]
    rw [hbad, Option.elim_none]

theorem commitWaitEnd_early (hl : leaseOf s l = some ls) (hcm : ls.commit = some cm)
    (h : tickOf s (anchorDie ls) < cm.c / 256 + 3) : commitWaitEndAt l s = .next s := by
  unfold commitWaitEndAt
  rw [hl]
  dsimp only
  rw [hcm]
  dsimp only
  refine if_neg fun hdone => ?_
  rw [Bool.and_eq_true, decide_eq_true_eq, decide_eq_true_eq] at hdone
  omega

theorem commitWaitEnd_due (hl : leaseOf s l = some ls) (hcm : ls.commit = some cm) (hphase : cm.phase = 2)
    (h : cm.c / 256 + 3 ≤ tickOf s (anchorDie ls)) : commitWaitEndAt l s = .next (endCommit s l cm 0) := by
  unfold commitWaitEndAt
  rw [hl]
  dsimp only
  rw [hcm]
  dsimp only
  refine if_pos ?_
  rw [hphase, Bool.and_eq_true, decide_eq_true_eq, decide_eq_true_eq]
  exact ⟨rfl, h⟩

/-! ### The install -/

/-- Every lease is still there. -/
def KeepsLeases (s t : State) : Prop := ∀ l ls, leaseOf s l = some ls → ∃ ls', leaseOf t l = some ls'

end

theorem KeepsLeases.refl (s : State) : KeepsLeases s s := fun _ ls h => ⟨ls, h⟩

theorem KeepsLeases.trans {a b c : State} (h : KeepsLeases a b) (h' : KeepsLeases b c) : KeepsLeases a c := fun l ls hl =>
  (h l ls hl).elim (h' l)

theorem KeepsLeases.of_leases {s t : State} (h : t.leases = s.leases) : KeepsLeases s t := fun l ls hl =>
  ⟨ls, (congrArg (mfind · l) h).trans hl⟩

theorem KeepsLeases.foldl {α : Type} {s t : State} {f : State → α → State} (h : KeepsLeases s t) (hf : ∀ s a, KeepsLeases s (f s a))
    (as : List α) : KeepsLeases s (as.foldl f t) :=
  foldl_keeps (KeepsLeases s) f (fun t a ht => ht.trans (hf t a)) as h

theorem keepsLeases_updLease (s : State) (l : Nat) (f : Lease → Lease) : KeepsLeases s (updLease s l f) := fun j ls hj => by
  by_cases h : j = l
  · subst h
    exact ⟨_, leaseOf_updLease f hj⟩
  · refine ⟨ls, ?_⟩
    rw [leaseOf, updLease, mfind_mmod_ne _ _ h]
    exact hj

theorem Releases.keepsLeases {s t : State} (h : Releases s t) : KeepsLeases s t := fun l ls hl =>
  (h.leases l ls hl).imp fun _ h => h.1

theorem keepsLeases_revokeView (s : State) (e : ViewRef) : KeepsLeases s (revokeView s e) := by
  have hdoom : KeepsLeases s (doomView s e.lease e.num 4) :=
    (keepsLeases_updLease s e.lease _).trans (.of_leases (discardPend_leases _ _ _))
  unfold revokeView
  dsimp only
  split
  · split
    · exact hdoom.trans (.of_leases rfl)
    · exact .of_leases rfl
  · exact .of_leases rfl

theorem keepsLeases_reclaimAll (s : State) (w : Nat) (p : Nat → Bool) : KeepsLeases s (reclaimAll s w p) := by
  unfold reclaimAll
  refine (KeepsLeases.refl s).foldl (fun t e => ?_) _
  split
  · exact .of_leases (setLine_leases t _ _)
  · exact .refl t

theorem keepsLeases_takeSlot (s : State) (tenant n fuel : Nat) : KeepsLeases s (takeSlot s tenant n fuel).2 := by
  induction fuel generalizing s with
  | zero => exact .refl s
  | succ fuel ih =>
    have hreclaim : KeepsLeases s { reclaimAll s (watermark s) (fun _ => true) with wmark := watermark s } :=
      (keepsLeases_reclaimAll s _ _).trans (.of_leases rfl)
    rw [takeSlot]
    dsimp only
    split
    · exact .refl s
    · split
      · exact hreclaim
      · split
        · next s2 hs2 =>
          refine (hreclaim.trans ?_).trans (ih s2)
          unfold revokeOne at hs2
          dsimp only at hs2
          split at hs2
          · exact nomatch hs2
          · rw [← Option.some_inj.mp hs2]
            exact keepsLeases_revokeView _ _
        · exact hreclaim

theorem keepsLeases_retain (s : State) (n tenant ts : Nat) : KeepsLeases s (retain s n tenant ts) := by
  unfold retain
  dsimp only
  split
  · exact (keepsLeases_takeSlot s tenant n _).trans (.of_leases (setLine_leases _ _ _))
  · exact (keepsLeases_takeSlot s tenant n _).trans (.of_leases (setLine_leases _ _ _))

/-- The line of a version that is installed: unlocked, with no pending version of its view (R104). -/
def settledLine (x : Line) (l slot : Nat) : Line :=
  { x with lock := none, pend := x.pend.filter fun q => !(q.lease == l && q.slot == slot) }

/-- Line `n` is settled. -/
def settleLine (s : State) (l slot n : Nat) : State := setLine s n (settledLine (lineOf s n) l slot)

/-- What the install of one line leaves: its pending version in place, stamped `c`, unlocked (R104). -/
def installLine (s : State) (l slot c n : Nat) (p : Pend) : State :=
  recheck (settleLine (installData (retain s n p.tenant c) n p.data p.pois) l slot n) l (.mem (n * 128)) 128

theorem lineOf_installData_ts (s : State) (n tenant c : Nat) (d : BitVec 1024) (p : BitVec 4) :
    (lineOf (installData (retain s n tenant c) n d p) n).ts = c := by
  have hlines : (installData (retain s n tenant c) n d p).lines = (retain s n tenant c).lines := llcUse_lines true _ n
  rw [lineOf, hlines]
  exact lineOf_retain_ts s n tenant c

theorem installLine_spec (s : State) (l slot c n : Nat) (p : Pend) :
    lineData (installLine s l slot c n p) n = (p.data, p.pois) ∧ (lineOf (installLine s l slot c n p) n).ts = c ∧
      (lineOf (installLine s l slot c n p) n).lock = none ∧ findPend (lineOf (installLine s l slot c n p) n) l slot = none ∧
      KeepsLeases s (installLine s l slot c n p) := by
  have hrel : Releases (settleLine (installData (retain s n p.tenant c) n p.data p.pois) l slot n) (installLine s l slot c n p) :=
    releases_recheck _ l (.mem (n * 128)) 128
  have hline := (hrel.lineOf n).trans (lineOf_setLine _ n _)
  have hbank : memBank (settleLine (installData (retain s n p.tenant c) n p.data p.pois) l slot n) =
      memBank (installData (retain s n p.tenant c) n p.data p.pois) := LinesOnly.bank (linesOnly_setLine _ _ _)
  refine ⟨?_, by rw [hline]; exact lineOf_installData_ts s n p.tenant c p.data p.pois, by rw [hline]; rfl, ?_, ?_⟩
  · rw [lineData_congr (hrel.bank.trans hbank)]
    exact lineData_put (llcUse true (retain s n p.tenant c) n) n p.data p.pois
  · rw [hline]
    refine List.find?_eq_none.mpr fun q hq hsame => ?_
    have hkept := (List.mem_filter.mp hq).2
    rw [hsame] at hkept
    exact absurd hkept (by decide)
  · refine KeepsLeases.trans (.trans (keepsLeases_retain s n p.tenant c) (.of_leases ?_)) hrel.keepsLeases
    rw [settleLine, setLine_leases]
    exact llcUse_leases true _ n

/-- The install of one line of a commit (R104, R105). -/
def installAt (s : State) (l : Nat) (cm : Commit) (n : Nat) : State :=
  match findPend (lineOf s n) l cm.slot with
  | none => if (lineOf s n).lock.map (·.lease) == some l then setLine s n { lineOf s n with lock := none } else s
  | some p => installLine s l cm.slot cm.c n p

theorem keepsLeases_installAt (s : State) (l : Nat) (cm : Commit) (n : Nat) : KeepsLeases s (installAt s l cm n) := by
  unfold installAt
  split
  · split
    · exact .of_leases (setLine_leases _ _ _)
    · exact .refl s
  · exact (installLine_spec s l cm.slot cm.c n _).2.2.2.2

theorem commitInstallAt_eq {s : State} {l : Nat} {ls : Lease} {cm : Commit} (hl : leaseOf s l = some ls) (hcm : ls.commit = some cm)
    (hphase : cm.phase = 1) : commitInstallAt l s = .next (updLease (cm.locked.foldl (fun s n => installAt s l cm n) s) l fun ls =>
      { ls with commit := some { cm with phase := 2 } }) := by
  unfold commitInstallAt
  rw [hl]
  dsimp only
  rw [hcm]
  dsimp only
  rw [if_neg (by rw [hphase]; decide)]
  rfl

/-! ### The collector -/

/-- The collector's mark lies at or below the STS of every view that reads (R109). -/
theorem foldl_min_le (a : Nat) (as : List Nat) : as.foldl min a ≤ a ∧ ∀ b ∈ as, as.foldl min a ≤ b := by
  induction as generalizing a with
  | nil => exact ⟨le_refl a, fun b hb => (by simp at hb)⟩
  | cons c as ih =>
    obtain ⟨hle, hall⟩ := ih (min a c)
    refine ⟨hle.trans (min_le_left a c), fun b hb => ?_⟩
    obtain rfl | hb := List.mem_cons.mp hb
    · exact hle.trans (min_le_right a b)
    · exact hall b hb

theorem watermark_le {s : State} {l n : Nat} {ls : Lease} {w : View} (hl : leaseOf s l = some ls) (hw : mfind ls.views n = some w)
    (hkind : w.kind ≠ 0) (hdoom : w.doom ≠ 4) : watermark s ≤ w.sts := by
  have hview : w.sts ∈ ((allViews s).filter fun e => e.view.doom != 4).map (fun e => e.view.sts) := by
    refine List.mem_map.mpr ⟨⟨l, ls.tenant, n, w, false⟩, List.mem_filter.mpr ⟨List.mem_append_left _ ?_, bne_iff_ne.mpr hdoom⟩, rfl⟩
    refine List.mem_flatten.mpr ⟨_, List.mem_map.mpr ⟨(l, ls), mem_of_mfind hl, rfl⟩, ?_⟩
    exact List.mem_map.mpr ⟨(n, w), List.mem_filter.mpr ⟨mem_of_mfind hw, bne_iff_ne.mpr hkind⟩, rfl⟩
  unfold watermark
  split
  · next hnil =>
    rw [hnil] at hview
    exact absurd hview (by simp)
  · next a r hcons =>
    rw [hcons] at hview
    obtain h | h := List.mem_cons.mp hview
    · exact h ▸ (foldl_min_le a r).1
    · exact (foldl_min_le a r).2 _ h

/-- Reclaiming goes through the lines once: each of them gives up what the mark makes unreachable (R110). -/
theorem lineOf_reclaimed (w : Nat) (p : Nat → Bool) (xs : List (Nat × Line)) (hxs : mwf xs = true) (s : State) (n : Nat) :
    lineOf (xs.foldl (fun s e => if p e.1 then setLine s e.1 (reclaimLine w e.2) else s) s) n =
      (mfind xs n).elim (lineOf s n) fun x => if p n then reclaimLine w x else lineOf s n := by
  induction xs generalizing s with
  | nil => rfl
  | cons e xs ih =>
    obtain ⟨k, x⟩ := e
    rw [mwf_cons, Bool.and_eq_true] at hxs
    rw [List.foldl_cons, ih hxs.2]
    by_cases hk : n = k
    · subst hk
      rw [mfind_of_above hxs.1, Option.elim_none, mfind, if_pos rfl, Option.elim_some]
      split
      · rw [lineOf_setLine]
      · rfl
    · have hsame : lineOf (if p k then setLine s k (reclaimLine w x) else s) n = lineOf s n := by
        split
        · exact lineOf_setLine_ne s _ hk
        · rfl
      rw [mfind, if_neg (Ne.symm hk)]
      dsimp only
      rw [hsame]

theorem reclaimAll_frame (s : State) (w : Nat) (p : Nat → Bool) : LinesOnly s (reclaimAll s w p) := by
  unfold reclaimAll
  refine foldl_keeps (LinesOnly s) _ (fun t e ht => ?_) _ (show LinesOnly s s from rfl)
  split
  · exact ht.trans (linesOnly_setLine _ _ _)
  · exact ht

theorem lineOf_reclaimAll {s : State} (w : Nat) (p : Nat → Bool) (h : mwf s.lines = true) (n : Nat) :
    lineOf (reclaimAll s w p) n = if p n then reclaimLine w (lineOf s n) else lineOf s n := by
  rw [reclaimAll, lineOf_reclaimed w p s.lines h s n, lineOf, mget]
  cases hx : mfind s.lines n with
  | none => simp [reclaimLine, reclaimLine.go, Line.zero]
  | some x => rfl

theorem lineOf_updLease (s : State) (l : Nat) (f : Lease → Lease) (n : Nat) : lineOf (updLease s l f) n = lineOf s n := rfl

theorem lineData_updLease (s : State) (l : Nat) (f : Lease → Lease) (n : Nat) : lineData (updLease s l f) n = lineData s n := rfl

/-- Settles O44: one step for each phase of a commit, with the end of each, and the collector's two steps. -/
theorem commitPhases : Obligations.commit_phases := by
  intro s l rep ls cm hcur hl hcm d ws v unlocked bad ended
  have hlock := exec_commitLockRequest hcur
  refine ⟨fun hphase hshadow => ⟨fun hdoom => ?_, fun hdoom hclock => ?_, fun hdoom hclock hopen => ?_⟩, fun hphase => ?_,
    fun hphase => ⟨fun h => ?_, fun h => ?_⟩, fun hshadow hpair st => leaseOf_endCommit hl hshadow hpair st, ?_, fun st => ?_⟩
  · exact hlock.trans (commitLockRequest_doomed hl hcm hphase hshadow hdoom)
  · exact hlock.trans (commitLockRequest_stopped hl hcm hphase hshadow hdoom hclock)
  · obtain ⟨t, ht, hlocks, hall, -⟩ := lockAll_open l ls cm d ws s fun n hn => .inl (hopen n hn)
    have hrun := hlock.trans (commitLockRequest_open hl hcm hphase hshadow hdoom hclock ht)
    rw [hlocks.lineBad l v.sts cm] at hrun
    refine ⟨fun st hst => ?_, fun hnone => ?_⟩
    · rw [show (writeSet s l cm.slot).findSome? (lineBad s l v.sts cm) = some st from hst] at hrun
      exact ⟨_, hrun, t, rfl⟩
    · rw [show (writeSet s l cm.slot).findSome? (lineBad s l v.sts cm) = none from hnone] at hrun
      have hlt : leaseOf t l = some ls := by
        rw [hlocks.only]
        exact hl
      refine ⟨_, hrun, _, leaseOf_updLease _ hlt, ?_, ?_, fun n hn => ⟨hall n hn, ?_⟩⟩
      · rw [hlocks.only.tickOf]
      · show t.mem = s.mem
        rw [hlocks.only]
      · have hts := congrArg Line.ts (hlocks.lines n)
        exact hts
  · have hrun : exec .commitInstall s = _ := (exec_commitInstall hcur).trans (commitInstallAt_eq hl hcm hphase)
    have hkeep : KeepsLeases s (cm.locked.foldl (fun s n => installAt s l cm n) s) :=
      (KeepsLeases.refl s).foldl (fun t n => keepsLeases_installAt t l cm n) _
    obtain ⟨ls1, hl1⟩ := hkeep l ls hl
    refine ⟨_, hrun, _, leaseOf_updLease _ hl1, rfl, fun n p hone hp => ?_⟩
    obtain ⟨hdata, hts, hlocked, hpend, -⟩ := installLine_spec s l cm.slot cm.c n p
    have hinstall : cm.locked.foldl (fun s n => installAt s l cm n) s = installLine s l cm.slot cm.c n p := by
      rw [hone, List.foldl_cons, List.foldl_nil, installAt, hp]
    rw [hinstall]
    rw [lineOf_updLease, lineData_updLease]
    exact ⟨hdata, hts, hlocked, hpend⟩
  · exact (exec_commitWaitEnd hcur).trans (commitWaitEnd_early hl hcm h)
  · exact (exec_commitWaitEnd hcur).trans (commitWaitEnd_due hl hcm hphase h)
  · exact ⟨_, rfl, rfl, fun l' ls' n w hl' hw hkind hdoom => watermark_le hl' hw hkind hdoom⟩
  · have hframe := reclaimAll_frame s s.wmark fun n => stackOf s.boot (n * 128) == st
    have hmem : (reclaimAll s s.wmark fun n => stackOf s.boot (n * 128) == st).mem = s.mem := by rw [hframe]
    have hleases : (reclaimAll s s.wmark fun n => stackOf s.boot (n * 128) == st).leases = s.leases := by rw [hframe]
    refine ⟨_, rfl, hmem, hleases, fun n hwf => ?_⟩
    rw [lineOf_reclaimAll _ _ hwf]
    exact if_congr beq_iff_eq rfl rfl

end Sys2Proof.Claims
end

section
/-! SUPPORT. Address tokens at their slices and the service of one part at its unit (R48, R52 to R54, R59, R71, R77, R86, R460). -/

namespace Sys2Proof.Claims

open Sys2Proof Sys2Proof.Machine

/-! ### What a translation moves -/

theorem unitsWork_bump (s : State) : UnitsWork s (bump s) := rfl

theorem unitsWork_walkTouch (s : State) (v : Vf) (g n : Nat) (lc : Loc) : UnitsWork s (walkTouch s v g n lc) := by
  unfold walkTouch
  dsimp only
  split
  · exact (unitsWork_devTouch s _ _).trans (unitsWork_devTouch _ _ _)
  · exact unitsWork_devTouch s _ _

/-- What both branches of a choice move. -/
theorem unitsWork_ite {α : Type} {s : State} {c : Prop} [Decidable c] {a b : α × State} (ha : UnitsWork s a.2) (hb : UnitsWork s b.2) :
    UnitsWork s (if c then a else b).2 := by
  split
  · exact ha
  · exact hb

theorem unitsWork_walkTree (tenant : Nat) (v : Vf) (va fuel : Nat) :
    ∀ (node : Nat) (level : Option Nat) (s : State), UnitsWork s (walkTree tenant v va fuel node level s).2 := by
  induction fuel with
  | zero => exact fun _ _ s => .refl s
  | succ fuel ih =>
    intro node level s
    unfold walkTree
    split
    · exact .refl s
    · next nd _ =>
      have htouch := unitsWork_walkTouch s v node 4096 nd
      refine unitsWork_ite htouch (unitsWork_ite (unitsWork_ite htouch ?_) (unitsWork_ite htouch ?_))
      · split
        · exact htouch
        · refine unitsWork_ite htouch ?_
          split
          · exact htouch
          · exact unitsWork_ite htouch (unitsWork_ite htouch (unitsWork_ite htouch htouch))
      · split
        · exact htouch.trans (ih _ _ _)
        · exact htouch.trans (ih _ _ _)

theorem unitsWork_walkRadix (tenant : Nat) (v : Vf) (page : Nat) (pin : Bool) (fuel : Nat) :
    ∀ (tbl lvl : Nat) (s : State), UnitsWork s (walkRadix tenant v page pin fuel tbl lvl s).2 := by
  induction fuel with
  | zero => exact fun _ _ s => .refl s
  | succ fuel ih =>
    intro tbl lvl s
    unfold walkRadix
    dsimp only
    split
    · exact .refl s
    · next lc _ =>
      have htouch := unitsWork_walkTouch s v (tbl + 8 * (page / 512 ^ (3 - lvl) % 512)) 8 lc
      exact unitsWork_ite htouch (unitsWork_ite htouch (unitsWork_ite htouch (htouch.trans (ih _ _ _))))

theorem unitsWork_setDirty {s t : State} {tenant die : Nat} {v : Vf} {ea : Nat} (h : setDirty s tenant die v ea = .ok t) : UnitsWork s t := by
  unfold setDirty at h
  split at h
  · exact nomatch h
  · dsimp only at h
    split at h
    · exact Except.ok.inj h ▸ .refl s
    · exact Except.ok.inj h ▸ unitsWork_devWr s _ _ _ _

theorem unitsWork_withDirty (s : State) (tenant die : Nat) (v : Vf) (ea : Nat) (t : Tr) : UnitsWork s (withDirty s tenant die v ea t).2 := by
  unfold withDirty
  split
  · split
    · next h => exact unitsWork_setDirty h
    · exact .refl s
  · exact .refl s

theorem unitsWork_walk (s : State) (tenant die va : Nat) (x : Acc) (setD : Bool) : UnitsWork s (walk s tenant die va x setD).2.1 := by
  have htree := unitsWork_walkTree tenant (vfOf s tenant) va 8 (bits (vfOf s tenant).root.toNat 12 36 * 4096) none s
  unfold walk
  dsimp only
  split
  · next heq =>
    rw [heq] at htree
    exact htree
  · next lf s1 heq =>
    rw [heq] at htree
    have htree : UnitsWork s s1 := htree
    have hradix := unitsWork_walkRadix tenant (vfOf s tenant) ((va - lf.vbase) / 65536) (aPIN lf.attr) 3 lf.target 1 s1
    split
    · exact htree
    · split
      · split
        · next heq => exact htree.trans (by rw [heq] at hradix; exact hradix)
        · next heq =>
          rw [heq] at hradix
          split
          · exact (htree.trans hradix).trans (unitsWork_withDirty _ _ _ _ _ _)
          · exact htree.trans hradix
      · exact htree

theorem unitsWork_translate (s : State) (l va : Nat) (x : Acc) (setD : Bool) : UnitsWork s (Machine.translate s l va x setD).2 := by
  unfold Machine.translate
  split
  · exact .refl s
  · dsimp only
    split
    · exact .refl s
    · split
      · split
        · split
          · exact (unitsWork_withDirty _ _ _ _ _ _).trans (unitsWork_updLease _ _ _)
          · exact unitsWork_withDirty _ _ _ _ _ _
        · exact .refl s
      · split
        · exact ((unitsWork_walk s _ _ _ _ _).trans (unitsWork_updLease _ _ _)).trans (unitsWork_bump _)
        · exact unitsWork_walk s _ _ _ _ _

theorem unitsWork_translateParts (l : Nat) (x : Acc) (setD : Bool) (ps : List Part) :
    ∀ s : State, UnitsWork s (translateParts l x setD ps s).1 := by
  induction ps with
  | nil => exact fun s => .refl s
  | cons p ps ih => exact fun s => (unitsWork_translate s l p.va x setD).trans (ih _)

theorem unitsWork_countRefusal (s : State) (tenant : Nat) : UnitsWork s (countRefusal s tenant) := by
  unfold countRefusal
  split
  · exact unitsWork_updVf s _ _
  · exact .refl s

theorem unitsWork_transEvents (s : State) (tenant l : Nat) (t : Tr) : UnitsWork s (transEvents s tenant l t) := by
  unfold transEvents
  split
  · next c node g =>
    have hcount : ∀ u, UnitsWork s u → UnitsWork s (if c = cTENANT then countRefusal u tenant else u) := fun u h => by
      split
      · exact h.trans (unitsWork_countRefusal u tenant)
      · exact h
    cases node with
    | none =>
      cases g with
      | none => exact hcount _ (.refl s)
      | some g => exact hcount _ (unitsWork_emit s _)
    | some n =>
      cases g with
      | none => exact hcount _ (unitsWork_pfEvent s _ _ _ _ _ _ _)
      | some g => exact hcount _ ((unitsWork_pfEvent s _ _ _ _ _ _ _).trans (unitsWork_emit _ _))
  · exact .refl s

/-! ### The address token at its slice -/

/-- The translation of a token's parts: the checks first, the D bits once all have passed (R48, R52). -/
def sliced (s : State) (ls : Lease) (r : Req) : State × List (Part × Tr) :=
  if ((translateParts (issLease r.iss) r.op.acc false r.parts s).2.all (fun e => e.2.isOk) && r.op.acc.writes &&
      (sliceFault (translateParts (issLease r.iss) r.op.acc false r.parts s).1 ls r
        (translateParts (issLease r.iss) r.op.acc false r.parts s).2).isNone) = true
  then translateParts (issLease r.iss) r.op.acc true r.parts (translateParts (issLease r.iss) r.op.acc false r.parts s).1
  else ((translateParts (issLease r.iss) r.op.acc false r.parts s).1, (translateParts (issLease r.iss) r.op.acc false r.parts s).2)

theorem sliced_eq (s : State) (ls : Lease) (r : Req) (e1 : State × List (Part × Tr))
    (he : translateParts (issLease r.iss) r.op.acc false r.parts s = e1) :
    sliced s ls r = if e1.2.all (fun e => e.2.isOk) = true ∧ r.op.acc.writes = true ∧ sliceFault e1.1 ls r e1.2 = none
      then translateParts (issLease r.iss) r.op.acc true r.parts e1.1 else e1 := by
  rw [sliced, he]
  refine if_congr ?_ rfl rfl
  rw [Bool.and_eq_true, Bool.and_eq_true, Option.isNone_iff_eq_none, and_assoc]

theorem unitsWork_sliced (s : State) (ls : Lease) (r : Req) : UnitsWork s (sliced s ls r).1 := by
  have h1 := unitsWork_translateParts (issLease r.iss) r.op.acc false r.parts s
  unfold sliced
  split
  · exact h1.trans (unitsWork_translateParts _ _ _ _ _)
  · exact h1

/-- A part that is served on the panel is not bound for the host. -/
theorem loc_of_inside {q : Part} (h : q.outside = false) : (∃ p, q.loc = .mem p) ∨ (∃ t o, q.loc = .tile t o) ∨ q.loc = .none := by
  unfold Part.outside at h
  cases hq : q.loc with
  | mem p => exact .inl ⟨p, rfl⟩
  | tile t o => exact .inr (.inl ⟨t, o, rfl⟩)
  | none => exact .inr (.inr rfl)
  | host o =>
    rw [hq] at h
    exact nomatch h
  | peer k o =>
    rw [hq] at h
    exact nomatch h

theorem toHost_of_inside {q : Part} (h : q.outside = false) : q.toHost = false := by
  unfold Part.toHost
  obtain ⟨p, hq⟩ | ⟨t, o, hq⟩ | hq := loc_of_inside h <;> rw [hq]

theorem atsMissed_of_inside {q : Part} (h : q.outside = false) (s : State) (tenant : Nat) : atsMissed s tenant q.loc = false := by
  obtain ⟨p, hq⟩ | ⟨t, o, hq⟩ | hq := loc_of_inside h <;> rw [hq] <;> rfl

section
variable {s : State} {id : Nat} {r : Req} {ls : Lease}

/-- What a sent token leaves (R48). -/
def tokenSent (s s2 : State) (id : Nat) (ls : Lease) (r : Req) (ps : List Part) : State :=
  let s3 := leaveSlice s2 id ls r ps
  let s4 := if ps.any (partRefused s3 ls.tenant) then s3 else
    (twinsOf s id r).foldl (fun s t => match reqOf s t with
      | some q => seqPassed s t q
      | none => s) (seqPassed s3 id r)
  checkDone s4 id (issDie s r.iss)

theorem exec_addressToken_fault {c : Nat} {q : Part} {t : Tr} (hr : reqOf s id = some r) (hl : leaseOf s (issLease r.iss) = some ls)
    (hrun : ls.state = .run) (hstage : r.stage = .issued) (hop : r.op ≠ .pref)
    (hfault : sliceFault (sliced s ls r).1 ls r (sliced s ls r).2 = some (c, q, t)) :
    ∃ u, UnitsWork s u ∧ exec (.addressTokenAtSlice id) s = .next (partFault u id c q) := by
  show ∃ u, UnitsWork s u ∧ execAddressTokenAtSlice id s = _
  unfold execAddressTokenAtSlice
  rw [hr]
  dsimp only
  rw [hstage, hl]
  dsimp only
  rw [if_neg (by rw [slicesOn, hrun]; simp), if_neg (by rw [beq_iff_eq]; exact hop), ← sliced.eq_1 s ls r, hfault]
  refine ⟨_, ?_, rfl⟩
  exact (unitsWork_sliced s ls r).trans (unitsWork_transEvents _ _ _ _)

theorem exec_addressToken_absent {q : Part} {e : Nat} {lf pin : Bool} (hr : reqOf s id = some r)
    (hl : leaseOf s (issLease r.iss) = some ls) (hrun : ls.state = .run) (hstage : r.stage = .issued) (hop : r.op ≠ .pref)
    (hpass : sliceFault (sliced s ls r).1 ls r (sliced s ls r).2 = none)
    (habs : (sliced s ls r).2.find? (fun e => !e.2.isOk) = some (q, .absent e lf pin)) :
    exec (.addressTokenAtSlice id) s = .next (updReq (newJob (sliced s ls r).1 (issLease r.iss) q.va r.op.acc e lf pin .token).1 id
      fun y => { y with stage := .withheld (newJob (sliced s ls r).1 (issLease r.iss) q.va r.op.acc e lf pin .token).2 }) := by
  show execAddressTokenAtSlice id s = _
  unfold execAddressTokenAtSlice
  rw [hr]
  dsimp only
  rw [hstage, hl]
  dsimp only
  rw [if_neg (by rw [slicesOn, hrun]; simp), if_neg (by rw [beq_iff_eq]; exact hop), ← sliced.eq_1 s ls r, hpass]
  dsimp only
  rw [habs]

theorem exec_addressToken_sent (hr : reqOf s id = some r) (hl : leaseOf s (issLease r.iss) = some ls) (hrun : ls.state = .run)
    (hstage : r.stage = .issued) (hop : r.op ≠ .pref) (hpass : sliceFault (sliced s ls r).1 ls r (sliced s ls r).2 = none)
    (hok : (sliced s ls r).2.all (fun e => e.2.isOk) = true) (hin : ∀ q ∈ (sliced s ls r).2.map (·.1), q.outside = false) :
    exec (.addressTokenAtSlice id) s = .next (tokenSent s (sliced s ls r).1 id ls
      { r with after := eUnion r.after (placeEdges (sliced s ls r).1 id r ((sliced s ls r).2.map (·.1))) } ((sliced s ls r).2.map (·.1))) := by
  have hfind : (sliced s ls r).2.find? (fun e => !e.2.isOk) = none := by
    rw [List.find?_eq_none]
    intro e he
    rw [List.all_eq_true.mp hok e he]
    decide
  have hegress : egressPart (sliced s ls r).1 ls r (sliced s ls r).2 = none := by
    unfold egressPart
    split
    · rw [List.find?_eq_none]
      intro q hq
      rw [toHost_of_inside (hin q hq), Bool.false_and, Bool.false_and]
      decide
    · rfl
  have hmiss : ((sliced s ls r).2.map (·.1)).find? (fun p => atsMissed (sliced s ls r).1 ls.tenant p.loc) = none := by
    rw [List.find?_eq_none]
    intro q hq
    rw [atsMissed_of_inside (hin q hq)]
    decide
  have hany : ((sliced s ls r).2.map (·.1)).any Part.outside = false := by
    rw [List.any_eq_false]
    intro q hq
    rw [hin q hq]
    decide
  show execAddressTokenAtSlice id s = _
  unfold execAddressTokenAtSlice
  rw [hr]
  dsimp only
  rw [hstage, hl]
  dsimp only
  rw [if_neg (by rw [slicesOn, hrun]; simp), if_neg (by rw [beq_iff_eq]; exact hop), ← sliced.eq_1 s ls r, hpass]
  dsimp only
  rw [hfind]
  dsimp only
  rw [hegress]
  dsimp only
  rw [hany, Bool.false_and, if_neg Bool.false_ne_true, hmiss]
  rfl

end

theorem seqPassed_reqs (s : State) (id : Nat) (r : Req) : (seqPassed s id r).reqs = s.reqs := by
  unfold seqPassed
  split
  · split <;> rfl
  · rfl

theorem foldl_stays {α : Type} {f : State → α → State} {s : State} (as : List α) (h : ∀ a ∈ as, f s a = s) : as.foldl f s = s := by
  induction as with
  | nil => rfl
  | cons a as ih =>
    rw [List.foldl_cons, h a (List.mem_cons_self ..)]
    exact ih fun b hb => h b (List.mem_cons_of_mem _ hb)

theorem sendAll_inside {s : State} {id : Nat} {ls : Lease} {r : Req} (h : ∀ q ∈ r.parts, q.outside = false) : sendAll s id ls r = s := by
  refine foldl_stays _ fun e he => ?_
  have hmem : e.1 ∈ r.parts := (List.mem_zipIdx' (x := e.1) (i := e.2) he).2 ▸ List.getElem_mem _
  unfold sendOut
  obtain ⟨p, hq⟩ | ⟨t, o, hq⟩ | hq := loc_of_inside (h _ hmem) <;> rw [hq]

theorem reqOf_leaveSlice {s : State} {id : Nat} {ls : Lease} {r r0 : Req} {ps : List Part} (hr : reqOf s id = some r0)
    (h : ∀ q ∈ ps, q.outside = false) :
    ∃ r', reqOf (leaveSlice s id ls r ps) id = some r' ∧ r'.stage = .sent ∧ r'.parts = ps := by
  unfold leaveSlice
  dsimp only
  rw [sendAll_inside h]
  have hcopies : ∀ t : State, t.reqs = s.reqs → reqOf (bump t) id = some r0 := fun t ht => (congrArg (mfind · id) ht).trans hr
  split
  · refine ⟨_, reqOf_updReq _ (hcopies _ ?_), rfl, rfl⟩
    refine foldl_keeps (fun t : State => t.reqs = s.reqs) _ (fun t p ht => ?_) _ rfl
    split <;> exact ht
  · exact ⟨_, reqOf_updReq _ (hcopies _ rfl), rfl, rfl⟩

/-- A token whose parts are served on the panel is sent with its places. -/
theorem reqOf_tokenSent {s s2 : State} {id : Nat} {ls : Lease} {r r0 : Req} {ps : List Part} (hr : reqOf s2 id = some r0)
    (hin : ∀ q ∈ ps, q.outside = false) (hopen : ∃ q ∈ ps, q.st ≠ .done) :
    ∃ r', reqOf (tokenSent s s2 id ls r ps) id = some r' ∧ r'.stage = .sent ∧ r'.parts = ps := by
  obtain ⟨r', hr', hstage, hparts⟩ := reqOf_leaveSlice (ls := ls) (r := r) hr hin
  have hnot : allDone r' = false := by
    obtain ⟨q, hq, hst⟩ := hopen
    rw [allDone, List.all_eq_false]
    exact ⟨q, hparts ▸ hq, by rw [decide_eq_true_eq]; exact hst⟩
  have hstay : ∀ u : State, u.reqs = (leaveSlice s2 id ls r ps).reqs → ∀ d, reqOf (checkDone u id d) id = some r' := fun u hu d => by
    have hur : reqOf u id = some r' := (congrArg (mfind · id) hu).trans hr'
    rw [checkDone, hur]
    dsimp only
    rw [hnot, Bool.false_and, if_neg Bool.false_ne_true]
    exact hur
  refine ⟨r', hstay _ ?_ _, hstage, hparts⟩
  split
  · rfl
  · refine foldl_keeps (fun t : State => t.reqs = (leaveSlice s2 id ls r ps).reqs) _ (fun t k ht => ?_) _ (seqPassed_reqs _ _ _)
    split
    · exact (seqPassed_reqs _ _ _).trans ht
    · exact ht

theorem newJob_spec {s : State} {l : Nat} (h : (leaseOf s l).isSome = true) (va : Nat) (x : Acc) (e : Nat) (lf pin : Bool) (st : JSt) :
    (newJob s l va x e lf pin st).2 = s.nextId ∧ (newJob s l va x e lf pin st).1.reqs = s.reqs ∧
      ∃ job, mfind (newJob s l va x e lf pin st).1.jobs s.nextId = some job ∧ job.va = va ∧ job.entry = e ∧ job.leaf = lf ∧
        job.pin = pin ∧ job.st = st := by
  obtain ⟨ls, hl⟩ := Option.isSome_iff_exists.mp h
  rw [newJob, hl]
  exact ⟨rfl, rfl, _, mfind_mput_self _ _ _, rfl, rfl, rfl, rfl, rfl⟩

/-! ### What a part meets at its unit -/

section
variable {s : State} {id i : Nat} {r : Req} {p : Part}

/-- Nothing waits at the unit of a place. -/
def NoneWait (s : State) (l : Nat) (u : Loc) : Prop := ∀ z ∈ s.zq, z.isAt l u = false

theorem unitGate_first (h : NoneWait s (issLease r.iss) (unitLoc p.loc)) :
    (((s.zq.takeWhile fun z => z != ⟨unitLoc p.loc, issLease r.iss, id, i⟩).filter fun z =>
      z.isAt (issLease r.iss) (unitLoc p.loc) && z.req != id).all fun z => !zPending s z) = true := by
  rw [List.filter_eq_nil_iff.mpr]
  · rfl
  · intro z hz
    rw [h z ((List.takeWhile_sublist _).subset hz), Bool.false_and]
    decide

theorem unitGate_pass (h : unitClear s (issLease r.iss) p.loc = true) : unitGate s id i r p = .pass := by
  rw [unitClear, unitOpen, Bool.and_eq_true, Bool.and_eq_true, Bool.not_eq_true', Bool.not_eq_true'] at h
  obtain ⟨⟨hscr, hzero⟩, hq⟩ := h
  have hnone : NoneWait s (issLease r.iss) (unitLoc p.loc) := fun z hz =>
    eq_false_of_ne_true fun hat => absurd hq (by rw [List.any_eq_true.mpr ⟨z, hz, hat⟩]; decide)
  unfold unitGate
  dsimp only
  rw [hzero, if_neg Bool.false_ne_true, hscr, if_neg (by decide), if_pos (unitGate_first hnone)]

theorem unitGate_zeros (hscr : unitScrubbed s (issLease r.iss) p.loc = false) (hzero : unitZeroing s (issLease r.iss) p.loc = false)
    (hq : NoneWait s (issLease r.iss) (unitLoc p.loc)) (hop : r.op = .read) (hver : p.versioned = false) :
    unitGate s id i r p = .zeros (unitStart s (issLease r.iss) p.loc) := by
  unfold unitGate
  dsimp only
  rw [hzero, if_neg Bool.false_ne_true, hscr, if_pos (by decide), if_pos]
  rw [unitGate_first hq, hop, hver, Bool.not_false, Bool.or_true]
  decide

theorem unitGate_waits (hscr : unitScrubbed s (issLease r.iss) p.loc = false) (hzero : unitZeroing s (issLease r.iss) p.loc = false)
    (hq : NoneWait s (issLease r.iss) (unitLoc p.loc)) (hop : r.op = .write) :
    unitGate s id i r p = .wait (unitStart { s with zq := s.zq ++ [⟨unitLoc p.loc, issLease r.iss, id, i⟩] } (issLease r.iss) p.loc) := by
  have hnew : ¬ s.zq.contains (⟨unitLoc p.loc, issLease r.iss, id, i⟩ : ZWait) = true := by
    rw [List.contains_iff_mem]
    intro hmem
    have hat := hq _ hmem
    unfold ZWait.isAt at hat
    split at hat <;> simp at hat
  unfold unitGate
  dsimp only
  rw [hzero, if_neg Bool.false_ne_true, hscr, if_pos (by decide), if_neg, if_neg hnew]
  rw [hop]
  simp

/-! ### The arrival of a part -/

theorem arrivePart_refused {q : Part} (serve : Bool → Req → Part → State → State) (hserv : servable s id r p .new = true)
    (hq : tenantRefusal s r = some q) : arrivePart id i false serve s r p = refuseTenant s id r q := by
  unfold arrivePart
  rw [hserv, if_neg (by decide), if_neg Bool.false_ne_true, hq]

theorem arrivePart_pass (serve : Bool → Req → Part → State → State) (hserv : servable s id r p .new = true)
    (hok : tenantRefusal s r = none) (hclear : unitClear s (issLease r.iss) p.loc = true) :
    arrivePart id i false serve s r p = serve false r p s := by
  unfold arrivePart
  rw [hserv, if_neg (by decide), if_neg Bool.false_ne_true, hok]
  dsimp only
  rw [unitGate_pass hclear]

/-- The unit of a place is unscrubbed, is not being zeroed, and nothing waits at it (R59). -/
def FreshUnit (s : State) (l : Nat) (lc : Loc) : Prop :=
  unitScrubbed s l lc = false ∧ unitZeroing s l lc = false ∧ NoneWait s l (unitLoc lc)

theorem arrivePart_zeros (serve : Bool → Req → Part → State → State) (hserv : servable s id r p .new = true)
    (hok : tenantRefusal s r = none) (hfresh : FreshUnit s (issLease r.iss) p.loc) (hop : r.op = .read) (hver : p.versioned = false) :
    arrivePart id i false serve s r p = serve true r p (unitStart s (issLease r.iss) p.loc) := by
  obtain ⟨hscr, hzero, hq⟩ := hfresh
  unfold arrivePart
  rw [hserv, if_neg (by decide), if_neg Bool.false_ne_true, hok]
  dsimp only
  rw [unitGate_zeros hscr hzero hq hop hver]

theorem arrivePart_waits (serve : Bool → Req → Part → State → State) (hserv : servable s id r p .new = true)
    (hok : tenantRefusal s r = none) (hfresh : FreshUnit s (issLease r.iss) p.loc) (hop : r.op = .write) :
    arrivePart id i false serve s r p =
      unitStart { s with zq := s.zq ++ [⟨unitLoc p.loc, issLease r.iss, id, i⟩] } (issLease r.iss) p.loc := by
  obtain ⟨hscr, hzero, hq⟩ := hfresh
  unfold arrivePart
  rw [hserv, if_neg (by decide), if_neg Bool.false_ne_true, hok]
  dsimp only
  rw [unitGate_waits hscr hzero hq hop]

theorem refuseTenant_fault {q : Part} (hop : r.op ≠ .pref) (hiss : ∀ k t, r.iss ≠ .peer k t) :
    refuseTenant s id r q = partFault (countRefusal s (issTenant s r.iss)) id cTENANT q := by
  unfold refuseTenant
  dsimp only
  split
  · exact absurd ‹_› hop
  · exact absurd ‹_› (hiss _ _)
  · rfl

/-! ### Service at a home -/

/-- Copies and the free choices move. -/
def CopiesMove (s t : State) : Prop := t = { s with copies := t.copies, nonce := t.nonce }

theorem copiesMove_fillCopy (s : State) (r : Req) (pa : Nat) : CopiesMove s (fillCopy s r pa) := by
  unfold fillCopy fillAt putCopy
  split
  · dsimp only
    split
    · split <;> rfl
    · rfl
  · rfl

/-- A part that has been read. -/
def readPart (p : Part) (e : List Byte × List Bool) : Part := { p with st := .done, data := e.1, pois := e.2 }

/-- A read of unversioned data takes the bytes of its place and their poison. -/
theorem atHome_read (die : Nat) (hop : r.op = .read) (hver : p.versioned = false) :
    ∃ u, atHome s id i r p die = checkDone u id die ∧
      CopiesMove (setPart s id i (readPart p (getBytes s (issLease r.iss) p.loc p.len))) u := by
  unfold atHome
  dsimp only
  rw [hop]
  dsimp only
  rw [if_neg (show ¬ (r.view == 0 && p.versioned && isPaired s r) = true by rw [hver]; simp),
    if_pos (show (r.view == 0 || !p.versioned) = true by rw [hver]; simp)]
  refine ⟨_, rfl, ?_⟩
  split
  · exact copiesMove_fillCopy _ _ _
  · rfl

/-- A write of unversioned data puts its bytes. -/
theorem atHome_write (die : Nat) (hop : r.op = .write) (hver : p.versioned = false) :
    atHome s id i r p die = checkDone (setPart (putBytes (markStale s (issLease r.iss) p.loc p.va p.len) (issLease r.iss) p.loc
      p.data p.pois) id i { p with st := .done }) id die := by
  unfold atHome
  dsimp only
  rw [hop]
  dsimp only
  rw [hver, if_neg Bool.false_ne_true]

/-- Part `i` of request `id` is done with the bytes `e` and their poison. -/
def GotBytes (t : State) (id i : Nat) (e : List Byte × List Bool) : Prop :=
  ∃ r' p', reqOf t id = some r' ∧ r'.parts[i]? = some p' ∧ p'.st = .done ∧ (p'.data, p'.pois) = e

theorem gotBytes_atHome (die : Nat) (hr : reqOf s id = some r) (hp : r.parts[i]? = some p) (hop : r.op = .read)
    (hver : p.versioned = false) : GotBytes (atHome s id i r p die) id i (getBytes s (issLease r.iss) p.loc p.len) ∧
      ∃ u, CopiesMove (setPart s id i (readPart p (getBytes s (issLease r.iss) p.loc p.len))) u ∧ Releases u (atHome s id i r p die) := by
  obtain ⟨u, hu, hmove⟩ := atHome_read (s := s) (id := id) (i := i) die hop hver
  have hlist : Listed u id { r with parts := lset r.parts i (readPart p (getBytes s (issLease r.iss) p.loc p.len)) } :=
    (listed_setPart _ hr).congr (by rw [hmove])
  obtain ⟨r', hr', hparts⟩ := reqOf_checkDone die hlist
  rw [hu]
  refine ⟨⟨r', readPart p _, hr', ?_, rfl, rfl⟩, u, hmove, releases_checkDone u id die⟩
  rw [hparts]
  exact getElem?_lset _ hp

/-- A write of unversioned data at its place: the part is done, and the place holds the bytes. -/
theorem done_atHome (die : Nat) (hr : reqOf s id = some r) (hp : r.parts[i]? = some p) (hop : r.op = .write)
    (hver : p.versioned = false) : PartDone (atHome s id i r p die) id i ∧
      Releases (putBytes (markStale s (issLease r.iss) p.loc p.va p.len) (issLease r.iss) p.loc p.data p.pois) (atHome s id i r p die) := by
  have hmark := (markStale_frame s (issLease r.iss) p.loc p.va p.len).1
  have hput : KeepsParts (markStale s (issLease r.iss) p.loc p.va p.len)
      (putBytes (markStale s (issLease r.iss) p.loc p.va p.len) (issLease r.iss) p.loc p.data p.pois) := by
    unfold putBytes
    split
    · refine KeepsParts.trans ?_ (releases_recheck _ _ _ _).parts
      exact .of_reqs rfl
    · refine KeepsParts.trans ?_ (releases_recheck _ _ _ _).parts
      exact .of_reqs rfl
    · exact .refl _
  obtain ⟨r1, hr1, hlen⟩ := hput id r ((congrArg (mfind · id) hmark).trans hr)
  have hi : i < r1.parts.length := hlen ▸ (List.getElem?_eq_some_iff.mp hp).1
  obtain ⟨r', hr', hp'⟩ := partDone_checkDone (q := { p with st := .done }) die hr1 (List.getElem?_eq_getElem hi)
  rw [atHome_write die hop hver]
  exact ⟨⟨r', _, hr', hp', rfl⟩, releases_finish _ id i die { p with st := .done }⟩

end

/-- What a write of memory leaves there. -/
theorem putBytes_mem (s : State) (l l' pa va n : Nat) (lc : Loc) (bs : List Byte) (ps : List Bool) :
    (putBytes (markStale s l' lc va n) l (.mem pa) bs ps).mem = (memWr s pa bs ps).mem := by
  have hbank := (markStale_frame s l' lc va n).2
  rw [putBytes, (releases_recheck _ l (.mem pa) bs.length).mem, memWr, memWr, hbank]
  rfl

/-! ### Units -/

/-- The LLC of a slice moves lines, and what lies beneath them (R460). -/
def LlcMoves (s t : State) : Prop := t = { s with llc := t.llc, nonce := t.nonce, mem := t.mem, mpois := t.mpois, hbmBad := t.hbmBad }

theorem llcMoves_showHbm (s : State) (n : Nat) : LlcMoves s (showHbm s n) := by
  refine foldl_keeps (LlcMoves s) showSector (fun t k ht => ?_) _ (show LlcMoves s s from rfl)
  unfold showSector
  split
  · rw [LlcMoves] at ht ⊢
    rw [ht]
  · exact ht

theorem llcMoves_llcInstall (s : State) (pa : Nat) : LlcMoves s (llcInstall s pa) := by
  unfold llcInstall
  dsimp only
  split
  · rfl
  · split
    · rfl
    · split
      · have h := llcMoves_showHbm { bump s with llc := mput s.llc (llcKey s pa) ((mget [] s.llc (llcKey s pa)).eraseIdx
          (Config.llcVictim s.nonce % (mget [] s.llc (llcKey s pa)).length) ++ [(pa / 128, false)]) } ‹_›
        rw [LlcMoves] at h ⊢
        rw [h]
        rfl
      · rfl

theorem llcMoves_llcUse (wr : Bool) (s : State) (n : Nat) : LlcMoves s (llcUse wr s n) := by
  have h := llcMoves_llcInstall s (n * 128)
  unfold llcUse
  dsimp only
  split
  · rfl
  · split
    · rw [LlcMoves] at h ⊢
      rw [llcDirty, h]
    · exact h

/-- A line that is present is used as it stands. -/
theorem llcUse_hit {s : State} {pa : Nat} (h : llcHit s pa = true) : llcUse false s (pa / 128) = s := by
  have hkey : llcKey s (pa / 128 * 128) = llcKey s pa := by
    have hpage : pa / 128 * 128 / 4096 = pa / 4096 := by omega
    have hstack : stackOf s.boot (pa / 128 * 128) = stackOf s.boot pa := by rw [stackOf, stackOf, hpage]
    have hlocal : stackLocal s.boot (pa / 128 * 128) / 128 = stackLocal s.boot pa / 128 := by
      rw [stackLocal, stackLocal, hpage]
      omega
    rw [llcKey, llcKey, homeDie, homeDie, hstack, hlocal]
  have hhit : llcHit s (pa / 128 * 128) = true := by
    rw [llcHit, hkey, Nat.mul_div_cancel _ (by decide)]
    exact h
  unfold llcUse
  split
  · rfl
  · dsimp only
    rw [if_neg Bool.false_ne_true, llcInstall, if_pos hhit]

/-- An unscrubbed unit reads as zeros (R59). -/
theorem bankRd_unscrubbed {u m : Nat} (hu : u = 128 * m) {b : Bank} {a n : Nat} (hin : a % 128 + n ≤ 128)
    (h : nhas b.scr (a / u) = false) : bankRd u b a n = (List.replicate n 0, List.replicate n false) := by
  have hunit : ∀ i, i < n → (a + i) / u = a / u := fun i hi => by
    rw [hu, ← Nat.div_div_eq_div_mul, ← Nat.div_div_eq_div_mul]
    congr 1
    omega
  rw [bankRd_eq]
  refine Prod.ext ?_ ?_
  · refine Eq.trans (List.map_congr_left (g := fun _ => (0 : Byte)) fun i hi => ?_) (by rw [List.map_const', List.length_range])
    rw [shownByte, hunit i (List.mem_range.mp hi), h, if_neg Bool.false_ne_true]
  · refine Eq.trans (List.map_congr_left (g := fun _ => false) fun i hi => ?_) (by rw [List.map_const', List.length_range])
    rw [shownPois, hunit i (List.mem_range.mp hi), h, Bool.false_and]

theorem unitSize_lines (pa : Nat) : ∃ m, unitSize pa = 128 * m := by
  by_cases h : pa < scratchBase
  · exact ⟨32, unitSize_hbm h⟩
  · exact ⟨16, unitSize_scratch h⟩

theorem memRd_unscrubbed {s : State} {pa n : Nat} (hin : pa % 128 + n ≤ 128) (h : nhas s.scrubbed (pa / unitSize pa) = false) :
    memRd s pa n = (List.replicate n 0, List.replicate n false) := by
  obtain ⟨m, hu⟩ := unitSize_lines pa
  exact bankRd_unscrubbed hu hin h

/-- A unit that is being zeroed goes on being zeroed. -/
theorem Releases.unitZeroing {s t : State} (h : Releases s t) {l : Nat} {lc : Loc} (hz : unitZeroing s l lc = true) :
    unitZeroing t l lc = true := by
  cases lc with
  | mem pa =>
    rw [h.only]
    exact hz
  | tile u o =>
    rw [Machine.unitZeroing, Option.any_eq_true] at hz
    obtain ⟨x, hx, hzx⟩ := hz
    obtain ⟨ls, hls, hx⟩ := Option.bind_eq_some_iff.mp hx
    obtain ⟨ls', hls', hset⟩ := h.leases l ls hls
    obtain ⟨o', b, hx'⟩ := hset.tiles u x hx
    rw [Machine.unitZeroing, hls', Option.bind_some, hx']
    exact hzx
  | _ => exact hz

/-! ### The requests of the units -/

section
variable {s : State} {id i pa : Nat} {r : Req} {p : Part}

theorem perUnit_new (f : Nat → State → State) (hr : reqOf s id = some r) (hp : r.parts[i]? = some p) (hunit : unitParts r i = [i])
    (hst : p.st = .new) : perUnit id i f s = .next (f i s) := by
  have hback : backToGate s id i = none := by
    rw [backToGate, hr, Option.bind_some, hp, Option.bind_some, hst]
    exact if_neg (by simp)
  rw [perUnit, hr, hback]
  dsimp only
  rw [hunit]
  rfl

theorem partOf_eq (hr : reqOf s id = some r) (hp : r.parts[i]? = some p) : partOf s id i = some (r, p) := by
  rw [partOf, hr, Option.bind_some, hp]
  rfl

/-- A part before the LLC: served where its line is present or its unit reads as zeros (R460). -/
def llcServe (id i pa : Nat) (zeros : Bool) (r : Req) (p : Part) (s : State) : State :=
  if zeros || llcHit s pa then atSlice s id i r p pa else setPart s id i { p with st := .missed }

theorem hbmPart_eq (hr : reqOf s id = some r) (hp : r.parts[i]? = some p) (hloc : p.loc = .mem pa) (hpa : pa < scratchBase)
    (hheld : dieHeld s r pa = false) : hbmPart false id i s = arrivePart id i false (llcServe id i pa) s r p := by
  unfold hbmPart
  rw [partOf_eq hr hp]
  dsimp only
  split
  case h_2 h => exact absurd hloc (h pa)
  case h_1 pa' hloc' =>
    obtain rfl : pa = pa' := Loc.mem.inj (hloc.symm.trans hloc')
    rw [if_neg (Nat.not_le.mpr hpa), Bool.false_and, if_neg Bool.false_ne_true, hheld]
    rfl

theorem hbmPart_copy {c : Copy} (hr : reqOf s id = some r) (hp : r.parts[i]? = some p) (hloc : p.loc = .mem pa) (hpa : pa < scratchBase)
    (hserv : servable s id r p .new = true) (hc : copyFor s r pa = some c) :
    hbmPart true id i s = checkDone (setPart s id i (readPart p (verBytes c.data c.pois (pa % 128) p.len))) id (issDie s r.iss) := by
  unfold hbmPart
  rw [partOf_eq hr hp]
  dsimp only
  split
  case h_2 h => exact absurd hloc (h pa)
  case h_1 pa' hloc' =>
    obtain rfl : pa = pa' := Loc.mem.inj (hloc.symm.trans hloc')
    rw [if_neg (Nat.not_le.mpr hpa), hserv, Bool.true_and, if_pos rfl, hc]
    rfl

theorem fillPart_eq (hr : reqOf s id = some r) (hp : r.parts[i]? = some p) (hloc : p.loc = .mem pa)
    (hserv : servable s id r p .missed = true) : fillPart id i s = atSlice s id i r p pa := by
  unfold fillPart
  rw [partOf_eq hr hp]
  dsimp only
  split
  case h_2 h => exact absurd hloc (h pa)
  case h_1 pa' hloc' =>
    obtain rfl : pa = pa' := Loc.mem.inj (hloc.symm.trans hloc')
    exact if_pos hserv

/-- A part before die scratch. -/
def scratchServe (id i pa : Nat) (_ : Bool) (r : Req) (p : Part) (s : State) : State := atHome s id i r p (servDie s pa)

theorem scratchPart_eq (hr : reqOf s id = some r) (hp : r.parts[i]? = some p) (hloc : p.loc = .mem pa) (hpa : scratchBase ≤ pa)
    (hheld : dieHeld s r pa = false) : scratchPart id i s = arrivePart id i false (scratchServe id i pa) s r p := by
  unfold scratchPart
  rw [partOf_eq hr hp]
  dsimp only
  split
  case h_2 h => exact absurd hloc (h pa)
  case h_1 pa' hloc' =>
    obtain rfl : pa = pa' := Loc.mem.inj (hloc.symm.trans hloc')
    rw [if_neg (Nat.not_lt.mpr hpa), hheld]
    rfl

/-- A part before a tile store, on die `d`. -/
def tileServe (id i d : Nat) (_ : Bool) (r : Req) (p : Part) (s : State) : State := atHome s id i r p d

theorem tilePart_eq {u o : Nat} {ls : Lease} {x : Tile} (hr : reqOf s id = some r) (hp : r.parts[i]? = some p) (hloc : p.loc = .tile u o)
    (hl : leaseOf s (issLease r.iss) = some ls) (hx : tileOf ls u = some x) :
    tilePart id i s = arrivePart id i false (tileServe id i (tileDie ls u)) s r p := by
  unfold tilePart
  rw [partOf_eq hr hp]
  dsimp only
  split
  case h_2 h => exact absurd hl (h u o ls hloc)
  case h_1 u' o' ls' hloc' hl' =>
    obtain rfl : ls = ls' := Option.some_inj.mp (hl.symm.trans hl')
    obtain ⟨rfl, rfl⟩ : u = u' ∧ o = o' := by
      have h := hloc.symm.trans hloc'
      rw [Loc.tile.injEq] at h
      exact h
    rw [hx]
    rfl

end

/-! ### What each request leaves -/

theorem CopiesMove.unitZeroing {s t : State} (h : CopiesMove s t) (l : Nat) (lc : Loc) : unitZeroing t l lc = unitZeroing s l lc := by
  rw [h]
  cases lc <;> rfl

section
variable {s : State} {id i : Nat} {r : Req} {p : Part} {w : Instr} {serve : Bool → Req → Part → State → State}

/-- A part that the tenant checks refuse is faulted (R53, R54). -/
theorem refused_arrival {q : Part} (hw : exec w s = .next (arrivePart id i false serve s r p)) (hr : reqOf s id = some r)
    (hserv : servable s id r p .new = true) (hq : tenantRefusal s r = some q) (hop : r.op ≠ .pref) (hiss : ∀ k t, r.iss ≠ .peer k t) :
    Gives w s fun t => ∃ r', reqOf t id = some r' ∧ r'.stage = .faulted cTENANT q.va q.strad := by
  have hcount := (unitsWork_countRefusal s (issTenant s r.iss)).reqOf id
  obtain ⟨r', hr', hst, -⟩ := reqOf_reqFault cTENANT q.va q.strad (hcount.trans hr)
  refine ⟨_, hw, r', ?_, hst⟩
  rw [arrivePart_refused serve hserv hq, refuseTenant_fault hop hiss]
  exact hr'

/-- The first read of a unit gets zeros and starts its zeroing (R59). -/
theorem zeros_atHome {v : State} (die : Nat) (hr : reqOf v id = some r) (hp : r.parts[i]? = some p) (hop : r.op = .read)
    (hver : p.versioned = false) (hrd : getBytes v (issLease r.iss) p.loc p.len = (List.replicate p.len 0, List.replicate p.len false))
    (hz : unitZeroing v (issLease r.iss) p.loc = true) :
    GotBytes (atHome v id i r p die) id i (List.replicate p.len 0, List.replicate p.len false) ∧
      unitZeroing (atHome v id i r p die) (issLease r.iss) p.loc = true := by
  obtain ⟨hgot, u, hmove, hrel⟩ := gotBytes_atHome die hr hp hop hver
  refine ⟨hrd ▸ hgot, hrel.unitZeroing ?_⟩
  rw [hmove.unitZeroing]
  cases hloc : p.loc <;> exact hloc ▸ hz

end

/-- The store of tile `u` of lease `l` is `m`. -/
def TileStore (t : State) (l u : Nat) (m : List Host.Cell) : Prop :=
  ∃ ls x, leaseOf t l = some ls ∧ tileOf ls u = some x ∧ x.store = m

theorem TileStore.releases {s t : State} {l u : Nat} {m : List Host.Cell} (h : TileStore s l u m) (hr : Releases s t) : TileStore t l u m := by
  obtain ⟨ls, x, hls, hx, hm⟩ := h
  obtain ⟨ls', hls', hset⟩ := hr.leases l ls hls
  obtain ⟨o, b, hx'⟩ := hset.tiles u x hx
  exact ⟨ls', _, hls', hx', hm⟩

theorem markStale_tiles {s : State} {l : Nat} {ls : Lease} (hl : leaseOf s l = some ls) (lc : Loc) (va n : Nat) :
    ∃ ls1, leaseOf (markStale s l lc va n) l = some ls1 ∧ ls1.tiles = ls.tiles := by
  unfold markStale
  rw [hl]
  dsimp only
  split
  · exact ⟨ls, hl, rfl⟩
  · refine foldl_keeps (fun t : State => ∃ ls1, leaseOf t l = some ls1 ∧ ls1.tiles = ls.tiles) _ (fun t k ht => ?_) _ ⟨ls, hl, rfl⟩
    obtain ⟨ls1, hl1, htiles⟩ := ht
    exact ⟨_, leaseOf_updSeq false _ hl1, htiles⟩

/-- What a write of a tile store leaves there. -/
theorem putBytes_tile {s : State} {l u o va n : Nat} {ls : Lease} {x : Tile} (lc : Loc) (bs : List Byte) (ps : List Bool)
    (hl : leaseOf s l = some ls) (hx : tileOf ls u = some x) :
    TileStore (putBytes (markStale s l lc va n) l (.tile u o) bs ps) l u (tileWr x o bs ps).store ∧
      (putBytes (markStale s l lc va n) l (.tile u o) bs ps).mem = s.mem := by
  obtain ⟨ls1, hl1, htiles⟩ := markStale_tiles hl lc va n
  have hx1 : tileOf ls1 u = some x := (congrArg (mfind · u) htiles).trans hx
  have hrel := releases_recheck (updTile (markStale s l lc va n) l u fun y => tileWr y o bs ps) l (.tile u o) bs.length
  have hstore : TileStore (updTile (markStale s l lc va n) l u fun y => tileWr y o bs ps) l u (tileWr x o bs ps).store :=
    ⟨_, _, leaseOf_updTile _ hl1, tileOf_mmod (fun y => tileWr y o bs ps) hx1, rfl⟩
  have hbank := congrArg Bank.mem (markStale_frame s l lc va n).2
  exact ⟨hstore.releases hrel, hrel.mem.trans hbank⟩

theorem unitZeroing_unitStart {s : State} {l pa : Nat} : unitZeroing (unitStart s l (.mem pa)) l (.mem pa) = true := by
  rw [unitZeroing, unitStart, nhas_nadd]
  simp

theorem unitZeroing_unitStart_tile {s : State} {l u o : Nat} {ls : Lease} {x : Tile} (hl : leaseOf s l = some ls)
    (hx : tileOf ls u = some x) : unitZeroing (unitStart s l (.tile u o)) l (.tile u o) = true := by
  rw [unitZeroing, unitStart, leaseOf_updTile _ hl, Option.bind_some, tileOf_mmod _ hx, Option.any_some, nhas_nadd]
  simp

theorem getBytes_tile {s : State} {l u o n : Nat} {ls : Lease} {x : Tile} (hl : leaseOf s l = some ls) (hx : tileOf ls u = some x) :
    getBytes s l (.tile u o) n = tileRd x o n := by
  rw [getBytes, hl, Option.bind_some, hx]

/-- An unscrubbed unit reads as zeros, once its zeroing has begun, and through the LLC (R59, R460). -/
theorem zeros_of_llc {s t : State} {l pa n : Nat} (h : LlcMoves (unitStart s l (.mem pa)) t)
    (hscr : unitScrubbed s l (.mem pa) = false) (hin : pa % 128 + n ≤ 128) :
    getBytes t l (.mem pa) n = (List.replicate n 0, List.replicate n false) := by
  refine memRd_unscrubbed hin ?_
  rw [h]
  exact hscr

theorem zeroing_of_llc {s t : State} {l pa : Nat} (h : LlcMoves (unitStart s l (.mem pa)) t) : unitZeroing t l (.mem pa) = true := by
  rw [h]
  exact unitZeroing_unitStart (s := s) (l := l)

theorem zeros_of_tile {s : State} {l u o n : Nat} {ls : Lease} {x : Tile} (hl : leaseOf s l = some ls) (hx : tileOf ls u = some x)
    (hscr : unitScrubbed s l (.tile u o) = false) (hin : o % 128 + n ≤ 128) :
    getBytes (unitStart s l (.tile u o)) l (.tile u o) n = (List.replicate n 0, List.replicate n false) := by
  rw [unitScrubbed, hl, Option.bind_some, hx, Option.any_some] at hscr
  rw [unitStart, getBytes_tile (leaseOf_updTile _ hl) (tileOf_mmod _ hx)]
  exact bankRd_unscrubbed (m := 16) rfl hin hscr

/-- A write of device memory through its slice. -/
theorem put_atSlice {s : State} {id i pa : Nat} {r : Req} {p : Part} (hr : reqOf s id = some r) (hp : r.parts[i]? = some p)
    (hop : r.op = .write) (hver : p.versioned = false) (hloc : p.loc = .mem pa) :
    (atSlice s id i r p pa).mem = (memWr (llcUse true s (pa / 128)) pa p.data p.pois).mem ∧ PartDone (atSlice s id i r p pa) id i := by
  obtain ⟨hdone, hrel⟩ := done_atHome (s := llcUse true s (pa / 128)) (homeDie s.boot pa) (((unitsWork_llcUse _ _ _).reqOf id).trans hr) hp
    hop hver
  rw [atSlice, hop]
  refine ⟨hrel.mem.trans ?_, hdone⟩
  rw [hloc]
  exact putBytes_mem ..

theorem perUnit_closed {s : State} {id i : Nat} {r : Req} {p : Part} (f : Nat → State → State) (hr : reqOf s id = some r)
    (hp : r.parts[i]? = some p) (hst : p.st = .missed) (hclosed : unitOpen s (issLease r.iss) p.loc = false) :
    perUnit id i f s = .next (setPart s id i { p with st := .new }) := by
  have hback : backToGate s id i = some (setPart s id i { p with st := .new }) := by
    rw [backToGate, hr, Option.bind_some, hp, Option.bind_some]
    refine if_pos ?_
    rw [hst, hclosed]
    rfl
  rw [perUnit, hr, hback]

/-- Settles O39: the token at its slice, and each part at its unit. -/
theorem memoryServices : Obligations.memory_services := by
  intro s id i r p hr l
  refine ⟨?_, ?_⟩
  · intro ls hl hrun hstage hop e1 e2 ps
    have he2 : sliced s ls r = e2 := sliced_eq s ls r e1 rfl
    have hreq : reqOf e2.1 id = some r := he2 ▸ ((unitsWork_sliced s ls r).reqOf id).trans hr
    refine ⟨fun c q t hfault => ?_, fun hpass => ⟨fun q e lf pin habs hlease => ?_, fun hok hin hopen => ?_⟩⟩
    · obtain ⟨u, hu, hrun'⟩ := exec_addressToken_fault hr hl hrun hstage hop (he2 ▸ hfault)
      obtain ⟨r', hr', hst, -⟩ := reqOf_reqFault c q.va q.strad ((hu.reqOf id).trans hr)
      exact ⟨_, hrun', r', hr', hst⟩
    · have hrun' := exec_addressToken_absent hr hl hrun hstage hop (he2 ▸ hpass) (he2 ▸ habs)
      rw [he2] at hrun'
      obtain ⟨hnum, hreqs, job, hjob, hfields⟩ := newJob_spec hlease q.va r.op.acc e lf pin .token
      refine ⟨_, hrun', _, job, reqOf_updReq _ ((congrArg (mfind · id) hreqs).trans hreq), ?_, rfl, hjob, hfields⟩
      rw [hnum]
    · have hrun' := exec_addressToken_sent hr hl hrun hstage hop (he2 ▸ hpass) (he2 ▸ hok) (he2 ▸ hin)
      rw [he2] at hrun'
      exact ⟨_, hrun', reqOf_tokenSent hreq hin hopen⟩
  · intro hp hunit hstage hafter hflush hver hheld got put refused fresh waits zeros
    have hserv : ∀ st, p.st = st → servable s id r p st = true := fun st => servable_of hstage hafter hflush hheld
    have hmiss : reqOf (setPart s id i { p with st := .missed }) id = _ := reqOf_setPart _ hr
    refine ⟨?_, ?_, ?_, ?_⟩
    · intro pa hloc hst hpa hdie
      have hnew := hserv _ hst
      have hw : exec (.hbmRequest id i false) s = .next (arrivePart id i false (llcServe id i pa) s r p) :=
        (perUnit_new _ hr hp hunit hst).trans (congrArg _ (hbmPart_eq hr hp hloc hpa hdie))
      refine ⟨fun q => refused_arrival hw hr hnew, fun hten hfresh hop => hw.trans (congrArg _ (arrivePart_waits _ hnew hten hfresh hop)),
        fun hten hfresh hop hin => ?_, fun hten hclear => ⟨fun hhit hop => ?_, fun hhit hop => ?_, fun hhit => ?_⟩, fun c hc => ?_⟩
      · have hrun := hw.trans (congrArg _ (arrivePart_zeros _ hnew hten hfresh hop hver))
        obtain ⟨hscr, -, -⟩ := hfresh
        rw [hloc] at hscr hrun
        have hmove := llcMoves_llcUse false (unitStart s l (.mem pa)) (pa / 128)
        have hres := zeros_atHome (v := llcUse false (unitStart s l (.mem pa)) (pa / 128)) (i := i) (homeDie s.boot pa)
          (((unitsWork_llcUse _ _ _).reqOf id).trans hr) hp hop hver (by rw [hloc]; exact zeros_of_llc hmove hscr hin)
          (by rw [hloc]; exact zeroing_of_llc hmove)
        rw [llcServe, Bool.true_or, if_pos rfl, atSlice, hop] at hrun
        exact ⟨_, hrun, hres⟩
      · have hrun := hw.trans (congrArg _ (arrivePart_pass _ hnew hten hclear))
        rw [llcServe, hhit, Bool.or_true, if_pos rfl, atSlice, hop, show MOp.read.isWrite = false from rfl, llcUse_hit hhit] at hrun
        have hgot := (gotBytes_atHome (homeDie s.boot pa) hr hp hop hver).1
        rw [hloc] at hgot
        exact ⟨_, hrun, hgot⟩
      · have hrun := hw.trans (congrArg _ (arrivePart_pass _ hnew hten hclear))
        rw [llcServe, hhit, Bool.or_true, if_pos rfl] at hrun
        exact ⟨_, hrun, put_atSlice hr hp hop hver hloc⟩
      · have hrun := hw.trans (congrArg _ (arrivePart_pass _ hnew hten hclear))
        rw [llcServe, hhit, Bool.or_false, if_neg Bool.false_ne_true] at hrun
        exact ⟨_, hrun, _, _, hmiss, getElem?_lset _ hp, rfl⟩
      · have hrun := (perUnit_new (hbmPart true id) hr hp hunit hst).trans (congrArg _ (hbmPart_copy hr hp hloc hpa hnew hc))
        obtain ⟨r', hr', hp'⟩ := partDone_checkDone (q := readPart p (verBytes c.data c.pois (pa % 128) p.len)) (issDie s r.iss) hr hp
        exact ⟨_, hrun, r', _, hr', hp', rfl, rfl⟩
    · intro pa hloc hst
      refine ⟨fun hopen => ⟨fun hop => ?_, fun hop => ?_⟩, fun hclosed => ?_⟩
      · have hrun := (perUnit_alone (fillPart id) hr hp hunit hopen).trans (congrArg _ (fillPart_eq hr hp hloc (hserv _ hst)))
        rw [atSlice, hop] at hrun
        have hgot := (gotBytes_atHome (s := llcUse false s (pa / 128)) (homeDie s.boot pa) (((unitsWork_llcUse _ _ _).reqOf id).trans hr)
          hp hop hver).1
        rw [hloc] at hgot
        exact ⟨_, hrun, hgot⟩
      · have hrun := (perUnit_alone (fillPart id) hr hp hunit hopen).trans (congrArg _ (fillPart_eq hr hp hloc (hserv _ hst)))
        exact ⟨_, hrun, put_atSlice hr hp hop hver hloc⟩
      · exact ⟨_, perUnit_closed (fillPart id) hr hp hst hclosed, _, _, reqOf_setPart _ hr, getElem?_lset _ hp, rfl⟩
    · intro pa hloc hst hpa hdie
      have hnew := hserv _ hst
      have hw : exec (.dieScratchRequest id i) s = .next (arrivePart id i false (scratchServe id i pa) s r p) :=
        (perUnit_new _ hr hp hunit hst).trans (congrArg _ (scratchPart_eq hr hp hloc hpa hdie))
      refine ⟨fun q => refused_arrival hw hr hnew, fun hten hfresh hop => hw.trans (congrArg _ (arrivePart_waits _ hnew hten hfresh hop)),
        fun hten hfresh hop hin => ?_, fun hten hclear => ⟨fun hop => ?_, fun hop => ?_⟩⟩
      · have hrun := hw.trans (congrArg _ (arrivePart_zeros _ hnew hten hfresh hop hver))
        obtain ⟨hscr, -, -⟩ := hfresh
        rw [hloc] at hscr hrun
        have hres := zeros_atHome (v := unitStart s l (.mem pa)) (i := i) (servDie s pa) hr hp hop hver
          (by rw [hloc]; exact memRd_unscrubbed hin hscr) (by rw [hloc]; exact unitZeroing_unitStart (l := l))
        exact ⟨_, hrun, hres⟩
      · have hrun := hw.trans (congrArg _ (arrivePart_pass _ hnew hten hclear))
        have hgot := (gotBytes_atHome (servDie s pa) hr hp hop hver).1
        rw [hloc] at hgot
        exact ⟨_, hrun, hgot⟩
      · have hrun := hw.trans (congrArg _ (arrivePart_pass _ hnew hten hclear))
        obtain ⟨hdone, hrel⟩ := done_atHome (servDie s pa) hr hp hop hver
        refine ⟨_, hrun, hrel.mem.trans ?_, hdone⟩
        rw [hloc]
        exact putBytes_mem ..
    · intro u o ls x hloc hst hl hx hten
      have hnew := hserv _ hst
      have hw : exec (.tileStoreRequest id i) s = .next (arrivePart id i false (tileServe id i (tileDie ls u)) s r p) :=
        (perUnit_new _ hr hp hunit hst).trans (congrArg _ (tilePart_eq hr hp hloc hl hx))
      refine ⟨fun hten hfresh hop => hw.trans (congrArg _ (arrivePart_waits _ hnew hten hfresh hop)), fun hten hfresh hop hin => ?_,
        fun hclear => ⟨fun hop => ?_, fun hop => ?_⟩⟩
      · have hrun := hw.trans (congrArg _ (arrivePart_zeros _ hnew hten hfresh hop hver))
        obtain ⟨hscr, -, -⟩ := hfresh
        rw [hloc] at hscr hrun
        have hres := zeros_atHome (v := unitStart s l (.tile u o)) (i := i) (tileDie ls u) hr hp hop hver
          (by rw [hloc]; exact zeros_of_tile hl hx hscr hin) (by rw [hloc]; exact unitZeroing_unitStart_tile hl hx)
        exact ⟨_, hrun, hres⟩
      · have hrun := hw.trans (congrArg _ (arrivePart_pass _ hnew hten hclear))
        have hgot := (gotBytes_atHome (tileDie ls u) hr hp hop hver).1
        rw [hloc, getBytes_tile hl hx] at hgot
        exact ⟨_, hrun, hgot⟩
      · have hrun := hw.trans (congrArg _ (arrivePart_pass _ hnew hten hclear))
        obtain ⟨-, hrel⟩ := done_atHome (tileDie ls u) hr hp hop hver
        rw [hloc] at hrel
        obtain ⟨hstore, hmem⟩ := putBytes_tile (o := o) (va := p.va) (n := p.len) (.tile u o) p.data p.pois hl hx
        obtain ⟨ls', x', hls', hx', heq⟩ := hstore.releases hrel
        exact ⟨_, hrun, ls', x', hls', hx', heq, hrel.mem.trans hmem⟩

end Sys2Proof.Claims
end

section
/-! SUPPORT. Which firing starts, controllers and groups (R164 to R167, R172 to R178, R272). -/

namespace Sys2Proof.Claims

open Sys2Proof Sys2Proof.Machine

/-! ### The handler that starts -/

theorem le_foldl_max (as : List Nat) (a : Nat) : a ≤ as.foldl max a ∧ ∀ b ∈ as, b ≤ as.foldl max a := by
  induction as generalizing a with
  | nil => exact ⟨le_refl a, fun b hb => (by simp at hb)⟩
  | cons c as ih =>
    obtain ⟨hle, hall⟩ := ih (max a c)
    refine ⟨(le_max_left a c).trans hle, fun b hb => ?_⟩
    obtain rfl | hb := List.mem_cons.mp hb
    · exact (le_max_right a b).trans hle
    · exact hall b hb

theorem foldl_max_mem (as : List Nat) (a : Nat) : as.foldl max a = a ∨ as.foldl max a ∈ as := by
  induction as generalizing a with
  | nil => exact .inl rfl
  | cons c as ih =>
    obtain h | h := ih (max a c)
    · obtain hm | hm := max_choice a c
      · exact .inl (h.trans hm)
      · exact .inr (List.mem_cons.mpr (.inl (h.trans hm)))
    · exact .inr (List.mem_cons_of_mem c h)

theorem mem_runnables {x : Tile} {k h : Nat} : h ∈ runnables x k ↔ h < 16 ∧ runnable x k h = true := by
  rw [runnables, List.mem_filter, List.mem_range]

/-- The place of handler `g` in the order of a free firing after handler `last` fired (R166). -/
def freeRank (last g : Nat) : Nat := (g + 15 * (last + 1)) % 16

theorem freeRank_at {last i : Nat} (hi : i < 16) : freeRank last ((last + 1 + i) % 16) = i := by
  rw [freeRank]
  omega

/-- What a free firing chooses (R166). -/
theorem freeChoice_spec {x : Tile} {k : Nat} (h : runnables x k ≠ []) : ∃ h, freeChoice x k = some h ∧ h < 16 ∧ runnable x k h = true ∧
    ∀ g, g < 16 → runnable x k g = true → hPrio x.act g ≤ hPrio x.act h ∧ (hPrio x.act g = hPrio x.act h →
      freeRank (mget 15 (ctxOf x k).lastFired (hPrio x.act h)) h ≤ freeRank (mget 15 (ctxOf x k).lastFired (hPrio x.act h)) g) := by
  obtain ⟨top, htop⟩ : ∃ top, ((runnables x k).map (hPrio x.act)).foldl max 0 = top := ⟨_, rfl⟩
  obtain ⟨last, hlast⟩ : ∃ last, mget 15 (ctxOf x k).lastFired top = last := ⟨_, rfl⟩
  have hle : ∀ g, g < 16 → runnable x k g = true → hPrio x.act g ≤ top := fun g hg hrun =>
    htop ▸ (le_foldl_max _ 0).2 _ (List.mem_map_of_mem (mem_runnables.mpr ⟨hg, hrun⟩))
  obtain ⟨b, hb, hbtop⟩ : ∃ b ∈ runnables x k, hPrio x.act b = top := by
    obtain h0 | hmem := foldl_max_mem ((runnables x k).map (hPrio x.act)) 0
    · obtain ⟨b, hb⟩ := List.exists_mem_of_ne_nil _ h
      have := hle b (mem_runnables.mp hb).1 (mem_runnables.mp hb).2
      exact ⟨b, hb, by omega⟩
    · obtain ⟨b, hb, hbtop⟩ := List.mem_map.mp hmem
      exact ⟨b, hb, hbtop.trans htop⟩
  have hplace : ∀ g, g < 16 → ∃ i, i < 16 ∧ (last + 1 + i) % 16 = g := fun g hg => ⟨freeRank last g, by rw [freeRank]; omega, by
    rw [freeRank]; omega⟩
  obtain ⟨f, hf⟩ : ∃ f, (fun h => (runnables x k).contains h && hPrio x.act h == top) = f := ⟨_, rfl⟩
  have hf' : ∀ g, f g = true ↔ (g < 16 ∧ runnable x k g = true) ∧ hPrio x.act g = top := fun g => by
    rw [← hf]
    simp only [Bool.and_eq_true, List.contains_iff_mem, mem_runnables, beq_iff_eq]
  have hfree : freeChoice x k = ((List.range 16).map fun i => (last + 1 + i) % 16).find? f := by
    rw [freeChoice, htop, hlast, hf]
  cases hc : ((List.range 16).map fun i => (last + 1 + i) % 16).find? f with
  | none =>
    obtain ⟨i, hi, hib⟩ := hplace b (mem_runnables.mp hb).1
    have hnot := List.find?_eq_none.mp hc _ (List.mem_map.mpr ⟨i, List.mem_range.mpr hi, rfl⟩)
    rw [hib, hf'] at hnot
    exact absurd ⟨mem_runnables.mp hb, hbtop⟩ hnot
  | some c =>
    obtain ⟨⟨hc16, hcrun⟩, hctop⟩ := (hf' c).mp (List.find?_some hc)
    refine ⟨c, hfree.trans hc, hc16, hcrun, fun g hg hrun => ⟨hctop ▸ hle g hg hrun, fun hsame => ?_⟩⟩
    rw [hctop, hlast]
    rw [List.find?_eq_some_iff_getElem] at hc
    obtain ⟨-, i, hi, hci, hfirst⟩ := hc
    rw [List.length_map, List.length_range] at hi
    rw [List.getElem_map, List.getElem_range] at hci
    obtain ⟨j, hj, hjg⟩ := hplace g hg
    rw [← hci, ← hjg, freeRank_at hi, freeRank_at hj]
    by_contra hlt
    have hnot := hfirst j (by omega)
    rw [List.getElem_map, List.getElem_range, hjg, (hf' g).mpr ⟨⟨hg, hrun⟩, hsame.trans hctop⟩] at hnot
    exact absurd hnot (by decide)

section
variable {s : State} {l t k : Nat} {ls : Lease} {x : Tile}

theorem exec_firingStart {h : Nat} (hl : leaseOf s l = some ls) (hx : tileOf ls t = some x) (hlive : leaseLive s ls = true)
    (hpass : x.passed = false) (hturn : turnOf x = some k) (hfire : (ctxOf x k).fire = none) (hch : chooseHandler ls x k = some h)
    (hgood : firingBad x.act k h = none) : exec (.firingStart l t) s = .next
      { updTile s l t (fun x => startFiring (takeTurn x k) k h) with
        agenda := .elem l t k :: (updTile s l t fun x => startFiring (takeTurn x k) k h).agenda } := by
  show execFiringStart l t s = _
  unfold execFiringStart
  rw [hl]
  dsimp only
  rw [hx]
  dsimp only
  rw [hlive, hpass, if_neg (by decide), hturn]
  dsimp only
  rw [hfire, if_neg (by decide), hch]
  dsimp only
  rw [hgood]

theorem exec_firingStart_bad {h : Nat} {w : Nat × Nat} (hl : leaseOf s l = some ls) (hx : tileOf ls t = some x)
    (hlive : leaseLive s ls = true) (hpass : x.passed = false) (hturn : turnOf x = some k) (hfire : (ctxOf x k).fire = none)
    (hch : chooseHandler ls x k = some h) (hbad : firingBad x.act k h = some w) :
    exec (.firingStart l t) s = .next (freezeAt s l t k (ctxOf x k) cPCTL .config fun r =>
      { r with handler := h, cfgid := cfgId w.1 (keyRow ls t) (keyCol ls t) w.2 }) := by
  show execFiringStart l t s = _
  unfold execFiringStart
  rw [hl]
  dsimp only
  rw [hx]
  dsimp only
  rw [hlive, hpass, if_neg (by decide), hturn]
  dsimp only
  rw [hfire, if_neg (by decide), hch]
  dsimp only
  rw [hbad]

theorem chooseHandler_due {h : Nat} (hdue : dueOf ls x k = some h) (hrun : runnable x k h = true) : chooseHandler ls x k = some h := by
  rw [chooseHandler, hdue]
  exact if_pos hrun

theorem chooseHandler_free (h : ∀ h, dueOf ls x k = some h → runnable x k h = false) : chooseHandler ls x k = freeChoice x k := by
  rw [chooseHandler]
  split
  · next g hg => exact if_neg (by rw [h g hg]; decide)
  · rfl

/-- The context that takes the turn without a firing has a runnable handler (R164). -/
theorem runnables_of_turn (hturn : turnOf x = some k) (hfire : (ctxOf x k).fire = none) : runnables x k ≠ [] := by
  have hwants := List.find?_some hturn
  unfold wantsTurn at hwants
  dsimp only at hwants
  rw [hfire] at hwants
  simpa using hwants

end

/-! ### Counter chains -/

/-- A counter has no position when it starts beyond its STOP (R173). -/
theorem tripsOf_eq_zero {x : Plane} {j : Nat} (hstride : cStride x j ≠ 0) : tripsOf x j = 0 ↔ beyond x j (cStart x j) = true := by
  unfold tripsOf
  dsimp only
  by_cases hb : beyond x j (cStart x j) = true
  · rw [if_pos hb]
    exact ⟨fun _ => hb, fun _ => rfl⟩
  · rw [if_neg hb]
    refine ⟨fun h => ?_, fun h => absurd h hb⟩
    rw [beyond, Bool.or_eq_true, Bool.and_eq_true, Bool.and_eq_true, decide_eq_true_eq, decide_eq_true_eq, decide_eq_true_eq,
      decide_eq_true_eq, not_or, not_and, not_and] at hb
    by_cases hpos : 0 < cStride x j
    · rw [if_pos hpos] at h
      have hlt := hb.1 hpos
      have hone : 1 ≤ (cStop x j - cStart x j + cStride x j - 1) / cStride x j := (Int.le_ediv_iff_mul_le hpos).mpr (by omega)
      omega
    · rw [if_neg hpos] at h
      have hneg : cStride x j < 0 := by omega
      have hlt := hb.2 hneg
      have hone : 1 ≤ (cStart x j - cStop x j - cStride x j - 1) / (-cStride x j) := (Int.le_ediv_iff_mul_le (by omega)).mpr (by omega)
      omega

theorem ctrReset_exhausted {x : Plane} (hstride : ∀ j, j < cNctr x → cStride x j ≠ 0) :
    (ctrReset x).2 = true ↔ ∃ j, j < cNctr x ∧ tripsOf x j = 0 := by
  rw [ctrReset, List.any_eq_true]
  constructor
  · rintro ⟨j, hj, hb⟩
    have hj := List.mem_range.mp hj
    exact ⟨j, hj, (tripsOf_eq_zero (hstride j hj)).mpr hb⟩
  · rintro ⟨j, hj, h0⟩
    exact ⟨j, List.mem_range.mpr hj, (tripsOf_eq_zero (hstride j hj)).mp h0⟩

/-! ### Messages of the control network -/

section
variable {s : State} {l t i k : Nat} {ls : Lease} {x : Tile} {m : Msg}

theorem ctlTakes_passed (f : State → Res) (h : x.passed = true) : ctlTakes s l ls x m f = .next (lostMsg s l m) := if_pos h

theorem ctlTakes_bad {j : Nat} (f : State → Res) (h : x.passed = false) (hj : j < 40) (hbad : wordBad x.act 3 j = true)
    (hfirst : ∀ g, g < j → wordBad x.act 3 g = false) : ctlTakes s l ls x m f = .next (noteFault (dropMsg s l m) l m.tile 0 cPCTL
      fun r => { r with cfgid := cfgId 5 (keyRow ls m.tile) (keyCol ls m.tile) j }) := by
  have hfind : (List.range 40).find? (wordBad x.act 3) = some j := by
    rw [List.find?_range_eq_some]
    refine ⟨hbad, List.mem_range.mpr hj, fun g hg => ?_⟩
    rw [hfirst g hg]
    rfl
  rw [ctlTakes, if_neg (by rw [h]; decide), hfind]

theorem ctlTakes_whole (f : State → Res) (h : x.passed = false) (hgood : ∀ i, i < 40 → wordBad x.act 3 i = false) :
    ctlTakes s l ls x m f = f (dropMsg s l m) := by
  have hfind : (List.range 40).find? (wordBad x.act 3) = none := by
    rw [List.find?_eq_none]
    intro j hj
    rw [hgood j (List.mem_range.mp hj)]
    decide
  rw [ctlTakes, if_neg (by rw [h]; decide), hfind]

theorem leaseOf_dropMsg (hl : leaseOf s l = some ls) : leaseOf (dropMsg s l m) l = some { ls with msgs := ls.msgs.erase m } :=
  leaseOf_updLease _ hl

/-- The tile with its chain reset and its controller open (R172, R173). -/
def goOpened (s : State) (l t : Nat) (x : Plane) (ex : Bool) : State :=
  updTile s l t fun y => { y with ctr := (ctrReset x).1, ctl := ⟨true, ex, [], [], [], 0⟩, ra := [] }

/-- CONTROLLER_GO_RECEIVED: what the controller does with the go that it takes (R172, R173). -/
theorem exec_controllerGo (hl : leaseOf s l = some ls) (hx : tileOf ls t = some x) (hlive : leaseLive s ls = true)
    (hm : (ls.msgs.find? fun m => m.kind == .go && m.tile == t) = some m) (hopen : x.ctl.open_ = false) :
    ∃ f, exec (.controllerGoReceived l t) s = ctlTakes s l ls x m f ∧ ∀ u : State,
      ((ctrReset x.act).2 = true → f u = .next (ctlDone (goOpened u l t x.act true) l t ls x.act)) ∧
      ((ctrReset x.act).2 = false → cKind x.act = 1 → f u = .next (goChild (goOpened u l t x.act false) l t ls x.act 0 1)) ∧
      ((ctrReset x.act).2 = false → cKind x.act = 2 →
        f u = .next (pipeStart l t ls x.act (List.range (cNch x.act)) (goOpened u l t x.act false))) ∧
      ((ctrReset x.act).2 = false → cKind x.act = 3 → f u = .next ((List.range (cNch x.act)).foldl
        (fun s i => goChild s l t ls x.act i (tripCount x.act)) (goOpened u l t x.act false))) := by
  show ∃ f, execControllerGoReceived l t s = _ ∧ _
  unfold execControllerGoReceived findMsg
  rw [hl]
  dsimp only
  rw [hm, hx]
  dsimp only
  rw [hlive, hopen, if_neg (by decide)]
  refine ⟨_, rfl, fun u => ⟨fun hex => ?_, fun hex hkind => ?_, fun hex hkind => ?_, fun hex hkind => ?_⟩⟩
  · rw [hex, if_pos rfl]
    rfl
  all_goals
    rw [hex, if_neg Bool.false_ne_true, hkind]
    rfl

/-- Child `i` of the controller of tile `t` is done once more (R172). -/
def childDone (s : State) (l t i : Nat) : State :=
  updTile s l t fun y => { y with ctl := { y.ctl with done := mput y.ctl.done i (mget 0 y.ctl.done i + 1) } }

/-- The chain of a sequential controller at its next position (R172, R173). -/
def chainMoved (s : State) (l t : Nat) (a : List (Nat × Word) × Bool) : State :=
  updTile s l t fun y => { y with ctr := a.1, ctl := { y.ctl with cur := 0, exhausted := a.2 } }

/-- CONTROLLER_DONE_RECEIVED: what the controller does with the done that it takes (R172). -/
theorem exec_controllerDone (hl : leaseOf s l = some ls) (hx : tileOf ls t = some x) (hlive : leaseLive s ls = true)
    (hm : (ls.msgs.find? fun m => m.kind == .done && m.tile == t && m.sub == i) = some m) :
    ∃ f, exec (.controllerDoneReceived l t i) s = ctlTakes s l ls x m f ∧
      let u := dropMsg s l m
      let a := ctrAdvance x.act (cNctr x.act) 0 x.ctr
      let all : Prop := ∀ k, k < cNch x.act → k = i ∨ 1 ≤ mget 0 x.ctl.done k
      (cKind x.act = 1 → i + 1 < cNch x.act → f u = .next (goChild (updTile (childDone u l t i) l t fun y =>
        { y with ctl := { y.ctl with cur := i + 1 } }) l t ls x.act (i + 1) 1)) ∧
      (cKind x.act = 1 → cNch x.act ≤ i + 1 → f u = .next (if a.2 then ctlDone (chainMoved (childDone u l t i) l t a) l t ls x.act
        else goChild (chainMoved (childDone u l t i) l t a) l t ls x.act 0 1)) ∧
      (cKind x.act = 2 → f u = .next (pipeFinish (pipeStart l t ls x.act (List.range (cNch x.act))
        (if 0 < i then send (childDone u l t i) l ⟨.permit, t, i - 1, 0⟩ else childDone u l t i)) l t ls x.act)) ∧
      (cKind x.act = 3 → all → f u = .next (ctlDone (childDone u l t i) l t ls x.act)) ∧
      (cKind x.act = 3 → ¬ all → f u = .next (childDone u l t i)) := by
  show ∃ f, execControllerDoneReceived l t i s = _ ∧ _
  unfold execControllerDoneReceived findMsg
  rw [hl]
  dsimp only
  rw [hm, hx]
  dsimp only
  rw [hlive, if_neg (by decide)]
  have hread : (leaseOf (childDone (dropMsg s l m) l t i) l).bind (tileOf · t) =
      some { x with ctl := { x.ctl with done := mput x.ctl.done i (mget 0 x.ctl.done i + 1) } } := by
    rw [childDone, leaseOf_updTile _ (leaseOf_dropMsg hl), Option.bind_some]
    exact tileOf_mmod _ hx
  have hall : ((List.range (cNch x.act)).all fun k => decide (1 ≤ mget 0 (mput x.ctl.done i (mget 0 x.ctl.done i + 1)) k)) = true ↔
      ∀ k, k < cNch x.act → k = i ∨ 1 ≤ mget 0 x.ctl.done k := by
    rw [List.all_eq_true]
    refine forall_congr' fun k => ?_
    rw [List.mem_range, decide_eq_true_eq]
    refine imp_congr_right fun _ => ?_
    by_cases hk : k = i
    · rw [hk, mget, mfind_mput_self]
      simp
    · rw [mget, mfind_mput_ne _ _ hk]
      simp [hk, mget]
  refine ⟨_, rfl, fun hkind hlt => ?_, fun hkind hle => ?_, fun hkind => ?_, fun hkind hyes => ?_, fun hkind hno => ?_⟩
  · rw [hkind]
    exact if_pos hlt
  · rw [hkind]
    exact (if_neg (Nat.not_lt.mpr hle)).trans (apply_ite Host.Outcome.next _ _ _).symm
  · rw [hkind]
    rfl
  · rw [hkind]
    rw [childDone] at hread
    rw [hread]
    exact if_pos (hall.mpr hyes)
  · rw [hkind]
    rw [childDone] at hread
    rw [hread]
    exact if_neg (mt hall.mp hno)

/-- PERMIT_RECEIVED: what the controller does with the permit that it takes (R172). -/
theorem exec_permit (hl : leaseOf s l = some ls) (hx : tileOf ls t = some x) (hlive : leaseLive s ls = true)
    (hm : (ls.msgs.find? fun m => m.kind == .permit && m.tile == t && m.sub == i) = some m) :
    ∃ f, exec (.permitReceived l t i) s = ctlTakes s l ls x m f ∧ ∀ u : State,
      f u = .next (pipeFinish (pipeStart l t ls x.act (List.range (cNch x.act)) (updTile u l t fun y =>
        { y with ctl := { y.ctl with perm := mput y.ctl.perm i (mget 0 y.ctl.perm i + 1) } })) l t ls x.act) := by
  show ∃ f, execPermitReceived l t i s = _ ∧ _
  unfold execPermitReceived findMsg
  rw [hl]
  dsimp only
  rw [hm, hx]
  dsimp only
  rw [hlive, if_neg (by decide)]
  exact ⟨_, rfl, fun u => rfl⟩

/-- CONTEXT_GO_RECEIVED (R174). -/
theorem exec_contextGo (hl : leaseOf s l = some ls) (hx : tileOf ls t = some x) (hlive : leaseLive s ls = true)
    (hm : (ls.msgs.find? fun m => m.kind == .ctxGo && m.tile == t && m.sub == k) = some m) (hgo : (ctxOf x k).goOpen = false) :
    let s1 := updCtx (dropMsg s l m) l t k fun c =>
      { c with goOpen := true, goCnt := 0, goLeft := if dcnt x.act k = 0 then m.val else dcnt x.act k }
    exec (.contextGoReceived l t k) s =
      .next (if x.passed then lostMsg s l m else if (ctxOf x k).closed then finishGo s1 l t k else s1) := by
  intro s1
  show execContextGoReceived l t k s = _
  unfold execContextGoReceived findMsg
  rw [hl]
  dsimp only
  rw [hm, hx]
  dsimp only
  rw [hlive, hgo, if_neg (by decide)]
  by_cases hp : x.passed = true
  · rw [if_pos hp, if_pos hp]
  · rw [if_neg hp, if_neg hp]
    exact (apply_ite Host.Outcome.next _ _ _).symm

/-- The group record after an arrival (R177). -/
def arrivedGroup (e : Group) : Group := if e.count ≤ e.arr + 1 then { e with arr := 0, gen := (e.gen + 1) % 65536 } else { e with arr := e.arr + 1 }

/-- GROUP_ARRIVAL (R177). -/
theorem exec_groupArrival {g : Nat} (hl : leaseOf s l = some ls) (hlive : leaseLive s ls = true)
    (hm : (ls.msgs.find? fun m => m.kind == .arrival && m.tile == t && m.sub == k && m.val == g) = some m) :
    let e := mget ⟨0, 0, 0⟩ ls.groups (grpKey t g)
    exec (.groupArrival l g t k) s = .next (updLease (updCtx (dropMsg s l m) l t k fun c =>
      { c with fire := c.fire.map fun f => { f with wait := .gbar g e.gen } }) l fun y =>
        { y with groups := mput y.groups (grpKey t g) (arrivedGroup e) }) := by
  intro e
  show execGroupArrival l g t k s = _
  unfold execGroupArrival findMsg
  rw [hl]
  dsimp only
  rw [hm]
  dsimp only
  rw [hlive, if_neg (by decide)]
  rfl

theorem exec_phaseReset (hl : leaseOf s l = some ls) (hm : (ls.msgs.find? fun m => m.kind == .phase && m.tile == t) = some m) :
    exec (.phaseResetReceived l t) s = .next (updTile (dropMsg s l m) l t fun x =>
      if x.passed then x else { x with phase := 0, phaseOn := true, holdOpen := true }) := by
  show execPhaseResetReceived l t s = _
  unfold execPhaseResetReceived findMsg
  rw [hl]
  dsimp only
  rw [hm]

/-- ROOT_DONE_RECEIVED (R272). -/
theorem exec_rootDone {rep : Bool} (hcur : s.cur = .seq l rep) (hl : leaseOf s l = some ls) (hlive : leaseLive s ls = true)
    (hm : (ls.msgs.find? fun m => m.kind == .rootDone) = some m) :
    let up (q : Seq) : Seq := { q with donecnt := (q.donecnt + 1) % 65536 }
    exec .rootDoneReceived s = .next (if replicaBase ≤ m.tile then dropMsg s l m else updLease (dropMsg s l m) l fun y =>
      { y with rootGo := false, seq := up y.seq, seqR := if y.paired then up y.seqR else y.seqR }) := by
  intro up
  show execRootDoneReceived s = _
  rw [execRootDoneReceived, onLease, hcur]
  dsimp only
  unfold rootDoneReceivedAt findMsg
  rw [hl]
  dsimp only
  rw [hm]
  dsimp only
  rw [hlive, if_neg (by decide)]
  exact (apply_ite Host.Outcome.next _ _ _).symm

end

theorem ctxOf_startFiring (x : Tile) (k h : Nat) :
    (ctxOf (startFiring x k h) k).fire = some ⟨h, hEntry x.act h, [], [], (ctxOf x k).ord, .start, false⟩ := by
  rw [startFiring, ctxOf_setCtx]

/-- Settles O45: each step of the control of firings on the tile that it names. -/
theorem firingsAndControllers : Obligations.firings_and_controllers := by
  intro s l t i k g ls x hl hx hlive p c ctl started begins whole rank goIn doneIn
  have hbegin : ∀ h, x.passed = false → turnOf x = some k → c.fire = none → chooseHandler ls x k = some h → begins h :=
    fun h hpass hturn hfire hch => ⟨exec_firingStart hl hx hlive hpass hturn hfire hch,
      fun w hw => exec_firingStart_bad hl hx hlive hpass hturn hfire hch hw⟩
  refine ⟨fun hpass hturn hfire => ⟨fun h hdue hrun => ?_, fun hnot => ?_⟩, fun h => ctxOf_startFiring x k h, fun m w hw => ?_, ?_, ?_, ?_,
    fun m hm hgo => exec_contextGo hl hx hlive hm hgo, fun m hm => ?_, fun m hm => exec_phaseReset hl hm, fun m rep hcur hm => ?_⟩
  · exact hbegin h hpass hturn hfire (chooseHandler_due hdue hrun)
  · obtain ⟨h, hch, h16, hrun, hbest⟩ := freeChoice_spec (runnables_of_turn hturn hfire)
    exact ⟨h, h16, hrun, hbegin h hpass hturn hfire ((chooseHandler_free hnot).trans hch), hbest⟩
  · obtain ⟨f, hf⟩ : ∃ f, exec w s = ctlTakes s l ls x m f := by
      obtain ⟨rfl, hm, hopen⟩ | ⟨rfl, hm⟩ | ⟨rfl, hm⟩ := hw
      · exact (exec_controllerGo hl hx hlive hm hopen).imp fun f h => h.1
      · exact (exec_controllerDone hl hx hlive hm).imp fun f h => h.1
      · exact (exec_permit hl hx hlive hm).imp fun f h => h.1
    exact ⟨fun hpass => hf.trans (ctlTakes_passed f hpass), fun hpass j hj hbad hfirst => hf.trans (ctlTakes_bad f hpass hj hbad hfirst)⟩
  · intro m hwhole hm hopen hstride none_ ex hex s1
    obtain rfl : ex = (ctrReset p).2 := Bool.eq_iff_iff.mpr (hex.trans (ctrReset_exhausted hstride).symm)
    obtain ⟨f, hf, hspec⟩ := exec_controllerGo hl hx hlive hm hopen
    obtain ⟨hdone, hone, htwo, hthree⟩ := hspec (dropMsg s l m)
    have hrun := hf.trans (ctlTakes_whole f hwhole.1 hwhole.2)
    have hs1 : ∀ b, (ctrReset p).2 = b → s1 = goOpened (dropMsg s l m) l t p b := fun b hb => by
      rw [← hb]
      rfl
    refine ⟨fun hn => ?_, fun hn hkind => ?_, fun hn hkind => ?_, fun hn hkind => ?_⟩
    · have hb := hex.mpr hn
      rw [hs1 _ hb]
      exact hrun.trans (hdone hb)
    · have hb := eq_false_of_ne_true (mt hex.mp hn)
      rw [hs1 _ hb]
      exact hrun.trans (hone hb hkind)
    · have hb := eq_false_of_ne_true (mt hex.mp hn)
      rw [hs1 _ hb]
      exact hrun.trans (htwo hb hkind)
    · have hb := eq_false_of_ne_true (mt hex.mp hn)
      rw [hs1 _ hb]
      exact hrun.trans (hthree hb hkind)
  · intro m hwhole hm s1 a s2 all
    obtain ⟨f, hf, hlast, hmore, hpipe, hall, hnot⟩ := exec_controllerDone hl hx hlive hm
    have hrun := hf.trans (ctlTakes_whole f hwhole.1 hwhole.2)
    exact ⟨fun hkind h => hrun.trans (hlast hkind h), fun hkind h => hrun.trans (hmore hkind h), fun hkind => hrun.trans (hpipe hkind),
      fun hkind h => hrun.trans (hall hkind h), fun hkind h => hrun.trans (hnot hkind h)⟩
  · intro m hwhole hm
    obtain ⟨f, hf, hspec⟩ := exec_permit hl hx hlive hm
    exact (hf.trans (ctlTakes_whole f hwhole.1 hwhole.2)).trans (hspec _)
  · have hdrop := leaseOf_dropMsg (m := m) hl
    have hctx := leaseOf_updTile (fun x => setCtx x k { ctxOf x k with fire := (ctxOf x k).fire.map fun f =>
      { f with wait := .gbar g (mget (⟨0, 0, 0⟩ : Group) ls.groups (grpKey t g)).gen } }) (t := t) hdrop
    refine ⟨_, exec_groupArrival hl hlive hm, _, _, leaseOf_updLease _ hctx, tileOf_mmod _ hx, rfl, ?_⟩
    intro e e'
    have he' : e' = arrivedGroup e := by
      show mget _ (mput _ _ _) _ = _
      rw [mget, mfind_mput_self]
      rfl
    rw [he', ctxOf_setCtx]
    refine ⟨rfl, ?_, fun hlt => ?_, fun heq => ?_⟩
    · rw [arrivedGroup]
      split <;> rfl
    · rw [arrivedGroup, if_neg (by omega)]
      exact ⟨rfl, rfl⟩
    · rw [arrivedGroup, if_pos (by omega)]
      exact ⟨rfl, rfl⟩
  · have hrun := exec_rootDone hcur hl hlive hm
    refine ⟨fun hrep => hrun.trans (congrArg _ (if_pos hrep)), fun hprim => ?_⟩
    refine ⟨_, hrun.trans (congrArg _ (if_neg (Nat.not_le.mpr hprim))), _, leaseOf_updLease _ (leaseOf_dropMsg hl), rfl, rfl, rfl, rfl,
      fun hpair => ?_⟩
    exact if_neg (by rw [hpair]; decide)

end Sys2Proof.Claims
end

section
/-! SUPPORT. O46 fails: a token of a merged source that has already delivered its EOS waits for the other sources (R360), though
every destination has room; the statement excludes the markers of an open round and not the EOS that a merged destination has
seen. -/

namespace Sys2Proof.Claims

open Sys2Proof Sys2Proof.Machine

/-- A tile that merges track 13 and a context's output into track 6, where track 13 has delivered its EOS and the output has not,
and a data token stands at track 13. -/
def endedMergeTile : Tile :=
  { Tile.zero with
    act := { tPlane [] with sw := [(0, BitVec.ofNat 16 0x3830), (1, BitVec.ofNat 16 0x6D30)] }
    tin := [(13, Tok.zero)]
    eosSeen := [seenKey 0 6 0 13] }

/-- The panel whose switch of tile 1 has its turn there. -/
def endedMergeState : State :=
  { tPanel (tTiles [(1, endedMergeTile)]) with cur := .sw 0 1 }

/-- The EOS seen is no marker of an open round. -/
theorem endedMerge_unmarked (d b e : Nat) : nhas endedMergeTile.eosSeen (seenKey 1 d b e) = false := by
  have hne : seenKey 1 d b e ≠ seenKey 0 6 0 13 := by
    have hlarge : 16384 ≤ seenKey 1 d b e := by
      unfold seenKey
      omega
    have hsmall : seenKey 0 6 0 13 < 16384 := by decide
    omega
  simpa [nhas, endedMergeTile] using hne.symm

/-- Refutes O46: the token of a merged source that has ended stays at its track, with room at the one destination. -/
theorem not_switchAndTracks : ¬ Obligations.switch_and_tracks := by
  intro h
  have hroute := ((h endedMergeState 0 1 0 0 (tTiles [(1, endedMergeTile)]) endedMergeTile rfl rfl).1 rfl).1 13 6 0 Tok.zero
    rfl (by decide) (by decide +kernel) endedMerge_unmarked (.merge 13 6 0) (by simp)
  obtain ⟨u, hrun, ls', ⟨hls, -⟩, htile, -⟩ := hroute.2.1 (by decide) (by decide)
  have hreal : tAfter (.merge 13 6 0) endedMergeState
      (fun u => (leaseOf u 0).bind fun ls => (tileOf ls 1).map fun x => x.tin.length) = some 1 := by decide
  rw [tAfter, hrun] at hreal
  dsimp only at hreal
  rw [hls, Option.bind_some, htile] at hreal
  exact absurd hreal (by decide)

end Sys2Proof.Claims
end

section
/-! SUPPORT. O47: marker rounds, tile swaps, closing of contexts, ends of phases. -/

namespace Sys2Proof.Claims

open Sys2Proof Sys2Proof.Machine

/-! ### What ENTER_ROUND does once it acts -/

/-- The context once it is in the round. -/
def inRound (s : State) (ls : Lease) (x : Tile) (t k : Nat) (rd : Round) (c : Ctx) : Ctx :=
  { pubMark (takeMarks x.act c k rd.n) (markOuts ls x.act t k) (markerTok rd.n rd.isHold) (incOf s ls t) with
    entered := some rd.n
    mark := none
    hold := rd.isHold }

/-- A closed context passes on a marker of one of its inputs. -/
def passedOn (s : State) (ls : Lease) (x : Tile) (t k p : Nat) (m : Tok) (c : Ctx) : Ctx :=
  pubMark { c with entered := some (markNo m), ins := mput c.ins p ⟨(inPort c p).q.erase m, 0⟩ } (markOuts ls x.act t k) m (incOf s ls t)

/-- A context may enter a round: it has nothing to do and the marker stands at every input, or a round of the Shunter suspends
it. -/
def mayEnter (ls : Lease) (x : Tile) (k : Nat) (rd : Round) : Prop :=
  let c := ctxOf x k
  (c.fire = none ∧ c.frozen = none ∧ runnables x k = [] ∧ (boundIn x.act k = [] → c.mark = some rd.n) ∧
      ∀ p ∈ boundIn x.act k, firstMark (inPort c p) = some rd.n) ∨
    (rd.shunter = true ∧ rd.isHold = true ∧ suspendable ls x k c = true)

/-- The markers of a round are removed, unless one of them is poisoned: then the context freezes before the round (R148). -/
def unlessPoisoned (s : State) (l t k : Nat) (x : Tile) (n : Nat) (f : Ctx → Ctx) : Res :=
  if markPois x.act (ctxOf x k) k n then
    (if (ctxOf x k).frozen.isSome then .next s else .next (freezeAt s l t k (ctxOf x k) cPCTL .round))
  else .next (updCtx s l t k f)

theorem mayEnter_bool {ls : Lease} {x : Tile} {k : Nat} {rd : Round} (h : mayEnter ls x k rd) :
    ((ctxOf x k).fire.isNone && (ctxOf x k).frozen.isNone && (runnables x k).isEmpty &&
        (if boundIn x.act k = [] then (ctxOf x k).mark == some rd.n
          else (boundIn x.act k).all fun p => firstMark (inPort (ctxOf x k) p) == some rd.n) ||
      rd.shunter && rd.isHold && suspendable ls x k (ctxOf x k)) = true := by
  rcases h with ⟨hfire, hfrozen, hrun, hmark, hfirst⟩ | ⟨hsh, hhold, hsus⟩
  · rw [Bool.or_eq_true]
    left
    by_cases hins : boundIn x.act k = []
    · simp [hfire, hfrozen, hrun, hins, hmark hins]
    · simpa [hfire, hfrozen, hrun, hins] using hfirst
  · simp [hsh, hhold, hsus]

theorem unlessPoisoned_bad {s : State} {l t k : Nat} {x : Tile} {n : Nat} {f : Ctx → Ctx} (hbad : markPois x.act (ctxOf x k) k n = true) (hfr : (ctxOf x k).frozen = none) :
    unlessPoisoned s l t k x n f = .next (freezeAt s l t k (ctxOf x k) cPCTL .round) := by
  rw [unlessPoisoned, if_pos hbad, if_neg (by simp [hfr])]

/-- No bound input holds a token ahead of its EOS. -/
theorem noneAhead {x : Tile} {k : Nat} (h : ∀ p ∈ boundIn x.act k, aheadEos (ctxOf x k) p = []) :
    ((boundIn x.act k).find? fun p => !(aheadEos (ctxOf x k) p).isEmpty) = none := by
  rw [List.find?_eq_none]
  intro p hp
  simp [h p hp]

section
variable {s : State} {l t k : Nat} {ls : Lease} {x : Tile} (hl : leaseOf s l = some ls) (ht : tileOf ls t = some x)
  (hlive : leaseLive s ls = true)
include hl ht hlive

omit hlive in
theorem unlessPoisoned_clean {n : Nat} {i : Instr} {f : Ctx → Ctx} (hrun : exec i s = unlessPoisoned s l t k x n f)
    (hclean : markPois x.act (ctxOf x k) k n = false) : Gives i s fun u => OnlyCtx s u l t k ls x (f (ctxOf x k)) := by
  refine ⟨updCtx s l t k f, ?_, onlyCtx_upd hl ht f⟩
  rw [hrun, unlessPoisoned, if_neg (by simp [hclean])]

theorem exec_enterRound_closed {p : Nat} {m : Tok} (hpass : x.passed = false) (hcl : (ctxOf x k).closed = true)
    (hm : ((boundIn x.act k).findSome? fun p => ((inPort (ctxOf x k) p).q.find? isMark).map fun m => (p, m)) = some (p, m)) :
    exec (.enterRound l t k) s = unlessPoisoned s l t k x (markNo m) (passedOn s ls x t k p m) := by
  show execEnterRound l t k s = _
  rw [execEnterRound, hl]
  dsimp only
  rw [ht]
  dsimp only
  rw [if_neg (by simp [hlive, hpass]), if_pos hcl, hm]
  rfl

theorem exec_enterRound_late {n : Nat} (hpass : x.passed = false) (hcl : (ctxOf x k).closed = false)
    (hn : (ctxOf x k).entered = some n)
    (hmark : ∃ p ∈ boundIn x.act k, ∃ m ∈ (inPort (ctxOf x k) p).q, isMark m = true ∧ markNo m = n) :
    exec (.enterRound l t k) s = unlessPoisoned s l t k x n fun c => takeMarks x.act c k n := by
  have hfilter : ((ctxOf x k).entered.filter fun n =>
      (boundIn x.act k).any fun p => (inPort (ctxOf x k) p).q.any fun t => isMark t && markNo t == n) = some n := by
    rw [hn, Option.filter_some, if_pos]
    simpa using hmark
  show execEnterRound l t k s = _
  rw [execEnterRound, hl]
  dsimp only
  rw [ht]
  dsimp only
  rw [if_neg (by simp [hlive, hpass]), if_neg (by simp [hcl]), hfilter]
  rfl

theorem exec_enterRound_enters {rd : Round} (hr : ls.round = some rd) (hpass : x.passed = false) (hcl : (ctxOf x k).closed = false)
    (hnew : (ctxOf x k).entered ≠ some rd.n)
    (hnone : ∀ n, (ctxOf x k).entered = some n → ∀ p ∈ boundIn x.act k, ∀ t ∈ (inPort (ctxOf x k) p).q, isMark t = true → markNo t ≠ n)
    (hmay : mayEnter ls x k rd) :
    exec (.enterRound l t k) s = unlessPoisoned s l t k x rd.n (inRound s ls x t k rd) := by
  have hfilter : ((ctxOf x k).entered.filter fun n =>
      (boundIn x.act k).any fun p => (inPort (ctxOf x k) p).q.any fun t => isMark t && markNo t == n) = none := by
    rw [Option.filter_eq_none_iff]
    intro n hn
    simpa using hnone n hn
  show execEnterRound l t k s = _
  rw [execEnterRound, hl]
  dsimp only
  rw [ht]
  dsimp only
  rw [if_neg (by simp [hlive, hpass]), if_neg (by simp [hcl]), hfilter]
  dsimp only
  rw [hr]
  dsimp only
  rw [if_pos (by rw [Bool.and_eq_true]; exact ⟨by simpa using hnew, mayEnter_bool hmay⟩)]
  rfl

/-! ### Swaps -/

section
variable {left known : NSet} {a f : Bool} (hop : ls.seq.op = .cswap left a f known) (hin : nhas left t = true)
include hop hin

theorem exec_planeSwap_drained (hdr : drained s l t ls x = true) (hok : swapBad ls left known t x = none) :
    exec (.planeSwap l t) s = .next (x.tin.foldl (resort l t) (updTile (tickOff s l t) l t (swapTile ls t))) := by
  show execPlaneSwap l t s = _
  rw [execPlaneSwap, hl]
  dsimp only
  rw [hop, ht]
  dsimp only
  rw [if_neg (by simp [hin, hlive]), if_pos hdr, hok]

theorem exec_planeSwap_bad {cause id : Nat} (hdr : drained s l t ls x = true) (hbad : swapBad ls left known t x = some (cause, id)) :
    exec (.planeSwap l t) s =
      .next (noteFault (tickOff s l t ((badGroups ls left known t).map (·.2))) l t 0 cause fun r => { r with cfgid := id }) := by
  show execPlaneSwap l t s = _
  rw [execPlaneSwap, hl]
  dsimp only
  rw [hop, ht]
  dsimp only
  rw [if_neg (by simp [hin, hlive]), if_pos hdr, hbad]

theorem exec_planeSwap_stuck (hdr : drained s l t ls x = false) :
    exec (.planeSwap l t) s = .next (if stuckTile s l t ls x then stray (tickOff s l t) l t 0 else s) := by
  show execPlaneSwap l t s = _
  rw [execPlaneSwap, hl]
  dsimp only
  rw [hop, ht]
  dsimp only
  rw [if_neg (by simp [hin, hlive]), if_neg (by simp [hdr])]
  exact (apply_ite _ _ _ _).symm

end

/-! ### Closing -/

section
variable (hpass : x.passed = false) (hmay : mayClose ls x k = true)
include hpass hmay

theorem exec_contextClose_poisoned (hahead : ∀ p ∈ boundIn x.act k, aheadEos (ctxOf x k) p = [])
    (hsp : ¬ ∀ p ∈ boundIn x.act k, ∀ e, (inPort (ctxOf x k) p).q.find? isEos = some e → e.pois = 0) :
    exec (.contextClose l t k) s = .next (freezeAt s l t k (ctxOf x k) cPCTL .close) := by
  have hany : ((boundIn x.act k).any fun p => ((inPort (ctxOf x k) p).q.find? isEos).any fun e => e.pois != 0) = true := by
    push Not at hsp
    simpa [List.any_eq_true, Option.any_eq_true] using hsp
  show execContextClose l t k s = _
  rw [execContextClose, hl]
  dsimp only
  rw [ht]
  dsimp only
  rw [if_neg (by simp [hlive, hpass, hmay]), noneAhead hahead]
  dsimp only
  rw [if_pos hany]

theorem exec_contextClose_closes (hahead : ∀ p ∈ boundIn x.act k, aheadEos (ctxOf x k) p = [])
    (hsp : ∀ p ∈ boundIn x.act k, ∀ e, (inPort (ctxOf x k) p).q.find? isEos = some e → e.pois = 0)
    (hroom : ∀ j ∈ boundOut x.act k, nhas (ctxOf x k).eosSent j = false → 1 ≤ outFree x.act (ctxOf x k) k j) :
    exec (.contextClose l t k) s = .next (closeNow s l t k ls x) := by
  have hnone : ((boundIn x.act k).any fun p => ((inPort (ctxOf x k) p).q.find? isEos).any fun e => e.pois != 0) = false := by
    simpa [List.any_eq_false, Option.any_eq_false] using hsp
  have hall : (((boundOut x.act k).filter fun j => !nhas (ctxOf x k).eosSent j).all fun j => 1 ≤ outFree x.act (ctxOf x k) k j) = true := by
    simpa [List.all_eq_true, or_iff_not_imp_left] using hroom
  show execContextClose l t k s = _
  rw [execContextClose, hl]
  dsimp only
  rw [ht]
  dsimp only
  rw [if_neg (by simp [hlive, hpass, hmay]), noneAhead hahead]
  dsimp only
  rw [if_neg (Bool.eq_false_iff.1 hnone), if_pos hall]

theorem exec_contextClose_leftover {p : Nat} {before after : List Nat} (hins : boundIn x.act k = before ++ p :: after)
    (hbefore : ∀ q ∈ before, aheadEos (ctxOf x k) q = []) (hp : aheadEos (ctxOf x k) p ≠ []) :
    exec (.contextClose l t k) s = .next (freezeAt s l t k (ctxOf x k) cRATE .close fun r =>
      { r with port := p, cnta := (aheadEos (ctxOf x k) p).length }) := by
  have hfind : ((boundIn x.act k).find? fun p => !(aheadEos (ctxOf x k) p).isEmpty) = some p := by
    rw [hins, List.find?_append, List.find?_eq_none.2 (by simpa using hbefore), List.find?_cons_of_pos (by simpa using hp)]
    rfl
  show execContextClose l t k s = _
  rw [execContextClose, hl]
  dsimp only
  rw [ht]
  dsimp only
  rw [if_neg (by simp [hlive, hpass, hmay]), hfind]

end

/-! ### The end of phases and tiles -/

omit ht in
theorem exec_phaseEnd (hst : ls.phStarted = true) (hend : ls.phEnded = false) (hmsg : ∀ m ∈ ls.msgs, m.kind ≠ .phase)
    (hdone : phaseDone s l ls = true) :
    exec (.phaseEnd l) s = .next (if ls.finalPh then endLaunch (updLease s l fun ls => { ls with phEnded := true }) l
      else updLease s l fun ls => { ls with phEnded := true }) := by
  have hno : (ls.msgs.any fun m => m.kind == .phase) = false := by simpa using hmsg
  show execPhaseEnd l s = _
  rw [execPhaseEnd, hl]
  dsimp only
  rw [if_neg (by simp [hlive, hst, hend, hno, hdone])]

theorem exec_tilePass (hfin : ls.finalPh = true) (hst : ls.phStarted = true) (hpass : x.passed = false)
    (hmsg : ∀ m ∈ ls.msgs, m.tile ≠ t) (hdr : drained s l t ls x = true) (hcl : allClosed x = true) (hto : x.tout = [])
    (hti : x.tin = []) (hil : x.inl = []) (heb : x.ebs = []) (hke : x.kept = []) (hspl : ¬ (kindOf ls t = 2 ∧ ls.img.ssplit ≠ 0)) :
    exec (.tilePass l t) s = .next (wakeShunter (updTile s l t fun _ => Tile.gone)) := by
  have hno : (ls.msgs.any fun m => m.tile == t) = false := by simpa using hmsg
  have hspl' : (kindOf ls t == 2 && ls.img.ssplit != 0) = false := by
    rw [Bool.eq_false_iff]
    simpa using hspl
  show execTilePass l t s = _
  rw [execTilePass, hl]
  dsimp only
  rw [ht]
  dsimp only
  rw [if_pos (by simp [hlive, hfin, hst, hpass, hno, hdr, hcl, hto, hti, hil, heb, hke, hspl'])]

end

/-! ### What a swap leaves -/

/-- A context after the swap of its plane. -/
def swappedCtx (ls : Lease) (p : Plane) (t k : Nat) (c : Ctx) : Ctx :=
  { c with
    hmask := enMask p k
    skip := 0
    miss := []
    gs := if kindOf ls t = 1 then seedOf ls p t k else c.gs
    half := if kindOf ls t = 1 then false else c.half
    adesc := 0
    ins := []
    outs := []
    lastFired := []
    closed := false
    eosSent := []
    entered := none
    mark := none
    goOpen := false
    goCnt := 0
    goLeft := 0 }

/-- Entries updated each in turn. -/
theorem mget_foldl_update {α : Type} (d : α) (f : Nat → α → α) (j : Nat) :
    ∀ (ks : List Nat) (m : List (Nat × α)), ks.Nodup →
      mget d (ks.foldl (fun m k => mput m k (f k (mget d m k))) m) j = if j ∈ ks then f j (mget d m j) else mget d m j
  | [], _, _ => rfl
  | k :: ks, m, hnd => by
    obtain ⟨hk, hks⟩ := List.nodup_cons.1 hnd
    rw [List.foldl_cons, mget_foldl_update d f j ks _ hks]
    by_cases hjk : j = k
    · subst hjk
      simp [hk, mget, mfind_mput_self]
    · simp [hjk, mget, mfind_mput_ne _ _ hjk]

theorem ctxOf_swapTile (ls : Lease) (t : Nat) (x : Tile) {k : Nat} (hk : k < 4) :
    ctxOf (swapTile ls t x) k = swappedCtx ls x.shd t k (ctxOf x k) :=
  (mget_foldl_update Ctx.zero (fun k => swappedCtx ls x.shd t k) k (List.range 4) x.ctx List.nodup_range).trans
    (if_pos (List.mem_range.2 hk))

/-- Settles O47: each word's equation, and the contexts of a swapped tile. -/
theorem roundsSwapsEnds : Obligations.rounds_swaps_ends := by
  intro s l t k ls x hl ht hlive c ins inc outs unspoilt
  refine ⟨fun rd hr hpass hcl hnew hnone hmay => ?_, fun n hpass hcl hn hmark hclean => ?_,
    fun p m hpass hcl hm hclean => ?_, fun left a f known hop hin => ?_, ?_, fun hpass hmay => ?_,
    exec_phaseEnd hl hlive, exec_tilePass hl ht hlive⟩
  · have hrun := exec_enterRound_enters hl ht hlive hr hpass hcl hnew hnone hmay
    exact ⟨unlessPoisoned_clean hl ht hrun, fun hbad hfr => hrun.trans (unlessPoisoned_bad hbad hfr)⟩
  · exact unlessPoisoned_clean hl ht (exec_enterRound_late hl ht hlive hpass hcl hn hmark) hclean
  · exact unlessPoisoned_clean hl ht (exec_enterRound_closed hl ht hlive hpass hcl hm) hclean
  · exact ⟨exec_planeSwap_drained hl ht hlive hop hin, fun cause id => exec_planeSwap_bad hl ht hlive hop hin,
      fun hdr hst => by rw [exec_planeSwap_stuck hl ht hlive hop hin hdr, if_pos hst],
      fun hdr hst => by rw [exec_planeSwap_stuck hl ht hlive hop hin hdr, if_neg (by simp [hst])]⟩
  · refine ⟨rfl, rfl, rfl, rfl, fun hk => ?_⟩
    rw [ctxOf_swapTile ls t x hk]
    refine ⟨rfl, rfl, rfl, rfl, rfl, rfl, rfl, rfl, rfl, ?_⟩
    by_cases hkind : kindOf ls t = 1 <;> simp [swappedCtx, hkind, c]
  · exact ⟨exec_contextClose_poisoned hl ht hlive hpass hmay, exec_contextClose_closes hl ht hlive hpass hmay,
      fun p before after => exec_contextClose_leftover hl ht hlive hpass hmay⟩

end Sys2Proof.Claims
end

section
/-! SUPPORT. O48 fails: tickets wrap after 65535 (R277), so that an operation which has not ended can share its ticket with a later one;
what one ENGINE_COMPLETE of that ticket begins, it begins for each of them, with each one's own lines, where the statement gives
both the lines of the first. -/

namespace Sys2Proof.Claims

open Sys2Proof Sys2Proof.Machine

/-- A lease with two operations of one ticket, which write different lines. -/
def sharedTicketLease : Lease := { tLease (tRegs []) with engines := [tCopy 1 0 1 0, tCopy 1 0 1 128] }

/-- The lines left to each operation of lease 0. -/
def linesLeft (s : State) : Option (List (Option (List Nat))) := (leaseOf s 0).map fun ls => ls.engines.map (·.left)

/-- Refutes O48: of two operations with ticket 4 the second begins with line 1, its own, and not with line 0, the first one's. -/
theorem not_streamsAndEngines : ¬ Obligations.streams_and_engines := by
  intro h
  have hsteps := (h (tPanel sharedTicketLease) 0 4 0 0 sharedTicketLease rfl).2.1 rfl (Or.inl rfl) (tCopy 1 0 1 0) rfl rfl rfl
  have hclaim := (hsteps.2 rfl).1 rfl
  have hreal : tAfter (.engineComplete 0 4) (tPanel sharedTicketLease) linesLeft = some [some [0], some [1]] := by decide +kernel
  rw [tAfter, hclaim] at hreal
  exact absurd hreal (by decide +kernel)

end Sys2Proof.Claims
end

section
/-! SUPPORT. O49 fails: while an aged head waits, the round of the Shunter also examines the heads behind it for STATUS and AGE (R371,
R375), where the statement ends the round at once. -/

namespace Sys2Proof.Claims

open Sys2Proof Sys2Proof.Machine

/-- A queue that may start tasks, whose head waits for a task of a queue that is not there. -/
def waitingQueue (aged : Bool) : Queue :=
  { Queue.zero with
    st := .inn
    en := true
    parsed := some ⟨0, 0, 0, 0, 1, 1, 1⟩
    rd := .done
    tail := 1
    headRec := some { Rec.blank with deps := [0] }
    aged := aged }

/-- A held lease, an aged head and one behind it. -/
def agedHeadState : State :=
  { tPanel { tLease (tRegs []) with state := .held } with queues := [(0, waitingQueue true), (1, waitingQueue false)] }

/-- STATUS of the second queue's head. -/
def secondWhy (s : State) : Option (BitVec 4) := some (queueOf s 1).why

/-- Refutes O49: the head behind the aged one is examined in the round and shows DEPWAIT. -/
theorem not_leaseStates : ¬ Obligations.lease_states := by
  intro h
  obtain ⟨-, -, -, -, -, -, -, -, -, -, -, -, -, -, -, hround⟩ :=
    h agedHeadState 0 { tLease (tRegs []) with state := .held } rfl
  have hclaim := (hround rfl).1 (by decide +kernel)
  have hreal : tAfter .shunterRound agedHeadState secondWhy = some 1 := by decide +kernel
  rw [tAfter, hclaim] at hreal
  exact absurd hreal (by decide +kernel)

end Sys2Proof.Claims
end

section
/-! SUPPORT. O50 fails: a request of a pair that is answered from the replay log has been performed, so that the requests which had to
follow it are free (R119, R421); the statement changes the answered request alone. -/

namespace Sys2Proof.Claims

open Sys2Proof Sys2Proof.Machine

/-- A load of a sequencer of a pair that waits at its exit. -/
def exitLoad (rep : Bool) : Req :=
  { tReq (.seq 0 rep) .read (tPart 0x100 8 .new []) with
    stage := .exit
    key := [1] }

/-- A lease whose replay log holds the answer to the pair's load. -/
def replayLease : Lease := { tLease (tRegs []) with log := [⟨0xFFFF, [1], [0, 7], [false, false], true⟩] }

/-- Both loads stand at their exits, and request 7 must follow the first one. -/
def replayState : State :=
  { tPanel replayLease with reqs := [(5, exitLoad false), (6, exitLoad true), (7, { exitLoad false with stage := .issued, key := [], after := [(5, 3)] })] }

/-- Refutes O50: once the load is answered from the log, request 7 waits for nothing. -/
theorem not_recordsTrapsPairs : ¬ Obligations.records_traps_pairs := by
  intro h
  obtain ⟨-, hexit, -⟩ := h replayState 0 5 false replayLease rfl
  have htwin := (hexit (exitLoad false) rfl rfl rfl rfl).1 6 (exitLoad true) rfl
  have hclaim := (htwin.2 (by decide +kernel)).1 ⟨0xFFFF, [1], [0, 7], [false, false], true⟩ rfl
  have hreal : tAfter (.pairedExitRequest 5) replayState (fun u => (reqOf u 7).map (·.after)) = some [] := by decide +kernel
  rw [tAfter, hclaim] at hreal
  exact absurd hreal (by decide +kernel)

end Sys2Proof.Claims
end

section
/-! SUPPORT. O51: clocks, fatal errors, throttling, the reset of a die, units that have been zeroed. -/

namespace Sys2Proof.Claims

open Sys2Proof Sys2Proof.Machine

/-! ### Ticks -/

/-- TICK_ADVANCE while some die has not stepped in this period. -/
def ledState (s : State) (m : BitVec 160) : State := { s with lead := s.lead ||| m }

/-- TICK_ADVANCE of the last die of a period. -/
def tickedState (s : State) : State :=
  { s with
    tick := s.tick + 1
    lead := 0
    clockStopped := decide (s.tick + 1 = Config.stopTick)
    agenda := if s.tick + 1 = Config.horizonTick then .event .clockHorizon :: s.agenda else s.agenda }

theorem exec_tickAdvance_stopped {s : State} (h : s.clockStopped = true ∨ Config.stopTick ≤ s.tick) (m : BitVec 160) :
    exec (.tickAdvance m) s = .next s := by
  show execTickAdvance m s = _
  rw [execTickAdvance, if_pos (by simpa using h)]

theorem exec_tickAdvance {s : State} (h : ¬ (s.clockStopped = true ∨ Config.stopTick ≤ s.tick)) (m : BitVec 160) :
    exec (.tickAdvance m) s = .next (if s.lead ||| m ≠ BitVec.allOnes 160 then ledState s m else tickedState s) := by
  show execTickAdvance m s = _
  rw [execTickAdvance, if_neg (by simpa using h)]
  exact (apply_ite _ _ _ _).symm

theorem tickOf_ledState (s : State) (m : BitVec 160) (e : Nat) :
    tickOf (ledState s m) e = tickOf s e + (if m.getLsbD e && !s.lead.getLsbD e then 1 else 0) := by
  simp only [tickOf, ledState, BitVec.getLsbD_or]
  cases s.lead.getLsbD e <;> cases m.getLsbD e <;> rfl

theorem tickOf_tickedState {s : State} {m : BitVec 160} (h : s.lead ||| m = BitVec.allOnes 160) {e : Nat} (he : e < 160) :
    tickOf (tickedState s) e = tickOf s e + (if m.getLsbD e && !s.lead.getLsbD e then 1 else 0) := by
  have hbit : (s.lead.getLsbD e || m.getLsbD e) = true := by
    rw [← BitVec.getLsbD_or, h, BitVec.getLsbD_allOnes]
    simpa using he
  have hzero : (0 : BitVec 160).getLsbD e = false := BitVec.getLsbD_zero
  simp only [tickOf, tickedState, hzero]
  cases hl : s.lead.getLsbD e <;> cases hm : m.getLsbD e <;> simp [hl, hm] at hbit ⊢

/-! ### The rebase and fatal errors -/

theorem leaseOf_rebased {s : State} {w l : Nat} {p : Nat → Bool} {ls : Lease} (hl : leaseOf s l = some ls) :
    mfind (mmap (reclaimAll s w p).leases fun _ ls => shiftLease ls) l = some (shiftLease ls) := by
  have hsame : (reclaimAll s w p).leases = s.leases := by rw [reclaimAll_frame s w p]
  rw [mfind_mmap, hsame, show mfind s.leases l = some ls from hl]
  rfl

/-- What writing the dump changes. -/
theorem writeDump_frame (s : State) :
    writeDump s = { s with nonce := (writeDump s).nonce, out := (writeDump s).out, dump := (writeDump s).dump } := by
  unfold writeDump hostWr
  split <;> rfl

theorem writeDump_off {s : State} (h : s.dump.ctl.getLsbD 0 = false) : writeDump s = s := by
  rw [writeDump, if_pos (by rw [h]; rfl)]

theorem dumpStat_odd (a : Nat) (c : Prop) [Decidable c] : (a * 4 + (if c then 2 else 0) + 1) % 2 = 1 := by
  split <;> omega

/-- A dump that is written shows DONE. -/
theorem writeDump_done {s : State} (h : s.dump.ctl.getLsbD 0 = true) : (writeDump s).dump.stat.getLsbD 0 = true := by
  rw [writeDump, if_neg (by rw [h]; decide)]
  dsimp only
  rw [BitVec.getLsbD_ofNat, Nat.testBit_zero, dumpStat_odd]
  rfl

/-- The state of a panel that has frozen. -/
theorem goFatal_frame {s : State} (h : s.fatal = false) (sub : Nat) : goFatal s sub =
    { writeDump { s with fatal := true } with
      out := (goFatal s sub).out
      evput := (goFatal s sub).evput
      evovf := (goFatal s sub).evovf } := by
  rw [goFatal, if_neg (by simp [h]), pfEvent_frame]
  rfl

theorem goFatal_aer {s : State} (h : s.fatal = false) (sub : Nat) : Out.aer true ∈ (goFatal s sub).out := by
  rw [goFatal, if_neg (by simp [h])]
  exact List.mem_append_right _ (List.mem_singleton_self _)

theorem fatal_goFatal (s : State) (sub : Nat) : (goFatal s sub).fatal = true := by
  cases h : s.fatal with
  | true => rw [goFatal, if_pos h, h]
  | false =>
    rw [goFatal_frame h, writeDump_frame]

/-- What a fatal error leaves, beside the dump and what leaves the device. -/
theorem goFatal_kept {s : State} (h : s.fatal = false) (sub : Nat) : (goFatal s sub).leases = s.leases ∧ (goFatal s sub).mem = s.mem ∧
    (goFatal s sub).dump = (writeDump { s with fatal := true }).dump := by
  rw [goFatal_frame h, writeDump_frame]
  exact ⟨rfl, rfl, rfl⟩

/-! ### Throttling -/

/-- The step of a lease in the next millisecond (R442). -/
def nextStep (s : State) (l power temp : Nat) : Nat :=
  if s.pwrLimit < power ∨ s.pwrTthr < temp then min 15 (mget 0 s.throttle l + 1) else mget 0 s.throttle l - 1

theorem mget_liveSteps {s : State} {l : Nat} {ls : Lease} (hl : leaseOf s l = some ls) : mget 0 (liveSteps s) l = mget 0 s.throttle l := by
  rw [mget, liveSteps, mfind_filter s.throttle fun k => (leaseOf s k).isSome, hl]
  rfl

theorem throttle_spec {s : State} {l : Nat} {ls : Lease} (hl : leaseOf s l = some ls) {power temp : Nat} (ht : temp < 115) :
    Gives (.throttleStep l power temp) s fun t =>
      mget 0 t.throttle l = nextStep s l power temp ∧ t.leases = s.leases ∧ t.mem = s.mem := by
  have hstep : (if decide (s.pwrLimit < power) || decide (s.pwrTthr < temp) then min 15 (mget 0 (liveSteps s) l + 1)
      else mget 0 (liveSteps s) l - 1) = nextStep s l power temp := by
    rw [mget_liveSteps hl, nextStep]
    simp only [Bool.or_eq_true, decide_eq_true_eq]
  refine ⟨_, show execThrottleStep l power temp s = _ from if_neg (by omega), ?_⟩
  dsimp only
  rw [if_pos (show (leaseOf s l).isSome = true by rw [hl]; rfl), hstep]
  split
  · exact ⟨mget_mset_self _ _ _ _, rfl, rfl⟩
  · rw [pfEvent_frame]
    exact ⟨mget_mset_self _ _ _ _, rfl, rfl⟩

/-! ### The quiesce of a die -/

theorem unitsWork_unlockAll (s : State) (l : Nat) : UnitsWork s (unlockAll s l) := by
  unfold unlockAll
  refine (UnitsWork.refl s).foldl (fun t e => ?_) _
  split
  · exact unitsWork_setLine t _ _
  · exact .refl t

theorem UnitsWork.ite {s a b : State} {c : Prop} [Decidable c] (ha : UnitsWork s a) (hb : UnitsWork s b) :
    UnitsWork s (if c then a else b) := by
  split
  · exact ha
  · exact hb

theorem unitsWork_raise (s : State) (l : Nat) (r : FRec) : UnitsWork s (raise s l r) := by
  unfold raise
  split
  · exact .refl s
  · exact .ite (.refl s) ((unitsWork_countPoison s _ _).trans (unitsWork_updLease _ _ _))

theorem unitsWork_mirror (s : State) (l : Nat) : UnitsWork s (mirror s l) := unitsWork_updLease s l _

theorem unitsWork_sharedDone (s : State) (l : Nat) (xd : BitVec 5) (v : Nat) : UnitsWork s (sharedDone s l xd v) := rfl

theorem unitsWork_fencedDone (s : State) (l : Nat) (xd : BitVec 5) (st : Nat) : UnitsWork s (fencedDone s l xd st) := rfl

theorem unitsWork_endCommit (s : State) (l : Nat) (c : Commit) (st : Nat) : UnitsWork s (endCommit s l c st) := by
  unfold endCommit
  split
  · exact .refl s
  · have hunlock := unitsWork_unlockAll s l
    have hpend := hunlock.trans (unitsWork_discardPend (unlockAll s l) l c.slot)
    have hdone : ∀ u, UnitsWork s u → UnitsWork s (mirror (fencedDone (updLease u l fun ls => { ls with commit := none }) l c.xd st) l) :=
      fun u hu => ((hu.trans (unitsWork_updLease u l _)).trans (unitsWork_fencedDone _ l c.xd st)).trans (unitsWork_mirror _ l)
    have hstop : ∀ u, UnitsWork s u → UnitsWork s (if st = 2 then forceStop (updLease u l fun ls => { ls with commit := none }) l cSAVE
        else updLease u l fun ls => { ls with commit := none }) := fun u hu =>
      .ite (hu.trans ((unitsWork_updLease u l _).trans (unitsWork_updLease _ l _))) (hu.trans (unitsWork_updLease u l _))
    have hviews := UnitsWork.ite (c := c.shadow = true)
      (.ite (c := st = 3) hunlock (hpend.trans (unitsWork_updLease _ l fun ls => { ls with shadows := mdel ls.shadows (c.slot - 8) })))
      (hpend.trans (unitsWork_updLease _ l fun ls => { ls with views := mdel ls.views c.slot }))
    exact .ite ((UnitsWork.ite (hstop _ hviews) (hdone _ hviews)).trans (unitsWork_raise _ l _)) (.ite (hstop _ hviews) (hdone _ hviews))

/-- The home of a die keeps its incarnation and the copies while the units work. -/
theorem unitsWork_breakCommits (s : State) (d : Nat) : UnitsWork s (breakCommits s d) := by
  unfold breakCommits
  refine (UnitsWork.refl s).foldl (fun t e => ?_) _
  split
  · split
    · split
      · exact unitsWork_unlockAll t _
      · exact unitsWork_endCommit t _ _ _
    · exact .refl t
  · exact .refl t

theorem unitsWork_clearSlice (s : State) (d : Nat) : UnitsWork s (clearSlice s d) := by
  unfold clearSlice
  exact UnitsWork.foldl (show UnitsWork s { s with llc := s.llc.filter fun e => e.1 / 32768 != d } from rfl)
    (fun t n => unitsWork_showHbm t n) _

/-- A fault token that is sent again leaves incarnations and copies. -/
theorem resendJob_frame (s : State) (j : Nat) (x : Job) :
    (resendJob s j x).incarn = s.incarn ∧ (resendJob s j x).copies = s.copies := by
  have hput : ∀ lc v, UnitsWork s (putEntry s x lc v) := fun lc v => unitsWork_devWr s (jobTag s x) lc _ _
  unfold resendJob
  split
  · exact ⟨rfl, rfl⟩
  · exact ⟨rfl, rfl⟩
  · dsimp only [updJob]
    split
    · split
      · rw [hput]
        exact ⟨rfl, rfl⟩
      · exact ⟨rfl, rfl⟩
    · exact ⟨rfl, rfl⟩

/-- The panel as the reset of a die leaves it, before the fault tokens of its pager are sent again. -/
def quiesced (s : State) (d : Nat) : State :=
  { clearSlice (breakCommits s d) d with
    reqs := mmap (breakCommits s d).reqs fun _ r => dieReissue (breakCommits s d) d r
    incarn := mset 0 (breakCommits s d).incarn d (mget 0 (breakCommits s d).incarn d + 1)
    copies := (breakCommits s d).copies.filter fun c => c.die != d
    tabFrames := (breakCommits s d).tabFrames.filter fun e => e.1 / 4096 != d }

theorem exec_dieQuiesce {s : State} (hgo : s.dieGo = true) (hst : s.dieState = 2)
    (hdone : (∀ e ∈ s.reqs, awaitsDie s s.dieNo e.2 = false) ∨ 25000 ≤ s.wall - s.dieSince) :
    exec .dieQuiesceComplete s = .next { ((quiesced s s.dieNo).jobs.filter fun e => e.2.die == s.dieNo).foldl
      (fun s e => resendJob s e.1 e.2) (quiesced s s.dieNo) with dieState := 3 } := by
  have hbusy : ((s.reqs.any fun e => awaitsDie s s.dieNo e.2) && decide (s.wall - s.dieSince < 25000)) = false := by
    rcases hdone with h | h
    · rw [List.any_eq_false.2 fun e he => by rw [h e he]; exact Bool.false_ne_true, Bool.false_and]
    · rw [decide_eq_false (by omega), Bool.and_false]
  show execDieQuiesceComplete s = _
  rw [execDieQuiesceComplete, if_neg (by rw [hgo, hst]; decide)]
  dsimp only
  rw [if_neg (Bool.eq_false_iff.1 hbusy)]
  rfl

theorem dieQuiesce_spec {s : State} (hgo : s.dieGo = true) (hst : s.dieState = 2)
    (hdone : (∀ e ∈ s.reqs, awaitsDie s s.dieNo e.2 = false) ∨ 25000 ≤ s.wall - s.dieSince) :
    Gives .dieQuiesceComplete s fun t => t.dieState = 3 ∧ mget 0 t.incarn s.dieNo = mget 0 s.incarn s.dieNo + 1 ∧
      ∀ c ∈ t.copies, c.die ≠ s.dieNo := by
  obtain ⟨hincarn, hcopies⟩ := foldl_keeps
    (fun u : State => u.incarn = (quiesced s s.dieNo).incarn ∧ u.copies = (quiesced s s.dieNo).copies)
    (fun s e => resendJob s e.1 e.2)
    (fun u e hu => ⟨(resendJob_frame u e.1 e.2).1.trans hu.1, (resendJob_frame u e.1 e.2).2.trans hu.2⟩)
    ((quiesced s s.dieNo).jobs.filter fun e => e.2.die == s.dieNo) ⟨rfl, rfl⟩
  have hbroken : (breakCommits s s.dieNo).incarn = s.incarn := by rw [unitsWork_breakCommits s s.dieNo]
  refine ⟨_, exec_dieQuiesce hgo hst hdone, rfl, ?_, ?_⟩
  · show mget 0 (List.foldl _ _ _ : State).incarn _ = _
    rw [hincarn, quiesced]
    dsimp only
    rw [hbroken, mget_mset_self]
  · show ∀ c ∈ (List.foldl _ _ _ : State).copies, _
    rw [hcopies]
    intro c hc
    simpa using (List.mem_filter.1 hc).2

/-! ### The die comes back -/

theorem foreignSegs_faultUnknown (s : State) (d : Nat) :
    foreignSegs (faultUnknown s) d = foreignSegs s d ∧ (faultUnknown s).dieNo = s.dieNo := by
  unfold faultUnknown
  exact foldl_keeps (fun u : State => foreignSegs u d = foreignSegs s d ∧ u.dieNo = s.dieNo) _
    (fun u e hu => by split <;> exact hu) s.reqs ⟨rfl, rfl⟩

theorem nhas_foldl_nput (ks : List Nat) (m : NSet) (n : Nat) :
    nhas (ks.foldl (fun acc k => nput acc k true) m) n = (decide (n ∈ ks) || nhas m n) := by
  induction ks generalizing m with
  | nil => simp
  | cons k ks ih =>
    rw [List.foldl_cons, ih, nhas_nput]
    by_cases hk : k = n
    · simp [hk]
    · simp [hk, Ne.symm hk]

theorem nhas_poisonSeg (s : State) (k n : Nat) : nhas (poisonSeg s k).mpois n =
    (decide (n ∈ unitsOf 32 (segAddr k) 0x200000) || nhas s.mpois n) := nhas_foldl_nput _ _ _

/-- A change of the poison marks leaves the requests. -/
theorem reqs_setMpois (s : State) (m : NSet) : ({ s with mpois := m } : State).reqs = s.reqs := rfl

theorem reqs_poisonSegs (ks : List Nat) (s : State) : (ks.foldl poisonSeg s).reqs = s.reqs :=
  foldl_keeps (fun u : State => u.reqs = s.reqs) poisonSeg
    (fun u k h => by rw [poisonSeg, reqs_setMpois, h]) ks rfl

theorem mem_segment (k n : Nat) (hlo : segAddr k / 32 ≤ n) (hhi : n < (segAddr k + 0x200000) / 32) :
    n ∈ unitsOf 32 (segAddr k) 0x200000 := by
  rw [mem_unitsOf]
  omega

theorem poisoned_segments (ks : List Nat) (s : State) (k n : Nat) (hk : k ∈ ks) (hn : n ∈ unitsOf 32 (segAddr k) 0x200000) :
    nhas (ks.foldl poisonSeg s).mpois n = true := by
  induction ks generalizing s with
  | nil => exact absurd hk List.not_mem_nil
  | cons j ks ih =>
    rw [List.foldl_cons]
    rcases List.mem_cons.1 hk with rfl | hk
    · exact foldl_keeps (fun u : State => nhas u.mpois n = true) poisonSeg
        (fun u i hu => by rw [nhas_poisonSeg, hu, Bool.or_true]) ks (by rw [nhas_poisonSeg, decide_eq_true hn, Bool.true_or])
    · exact ih _ hk

/-- A request stands at its fault. -/
def FaultedAt (s : State) (id cause addr : Nat) (strad : Bool) : Prop :=
  ∃ r, reqOf s id = some r ∧ r.stage = .faulted cause addr strad

theorem faultedAt_reqFault_ne {s : State} {id j c a c' a' : Nat} {b b' : Bool} (h : FaultedAt s id c a b) (hne : id ≠ j) :
    FaultedAt (reqFault s j c' a' b') id c a b := by
  obtain ⟨r, hr, hst⟩ := h
  refine ⟨dropAfter j 0 r, ?_, ?_⟩
  · rw [reqFault, reqOf_settle, reqOf_updReq_ne _ _ hne, hr]
    rfl
  · rw [dropAfter_fields]
    exact hst

/-- One step of the faults of all requests that `g` gives a cause and a part. -/
def faultEach (g : Req → Option (Nat × Part)) (s : State) (e : Nat × Req) : State :=
  match g e.2 with
  | some (c, p) => partFault s e.1 c p
  | none => s

theorem present_faultEach (g : Req → Option (Nat × Part)) {s : State} {id : Nat} (e : Nat × Req) (h : (reqOf s id).isSome = true) :
    (reqOf (faultEach g s e) id).isSome = true := by
  unfold faultEach
  split
  · by_cases hid : id = e.1
    · obtain ⟨r, hr⟩ := Option.isSome_iff_exists.1 h
      obtain ⟨r', hr', -⟩ := reqOf_reqFault _ _ _ (hid ▸ hr)
      exact Option.isSome_iff_exists.2 ⟨r', hid ▸ hr'⟩
    · rw [partFault, reqFault, reqOf_settle, reqOf_updReq_ne _ _ hid, Option.isSome_map]
      exact h
  · exact h

section
variable {g : Req → Option (Nat × Part)} {id c : Nat} {r : Req} {p : Part} (hp : g r = some (c, p))
include hp

theorem faulted_faultEach {s : State} (h : (reqOf s id).isSome = true) : FaultedAt (faultEach g s (id, r)) id c p.va p.strad := by
  obtain ⟨r0, hr0⟩ := Option.isSome_iff_exists.1 h
  obtain ⟨r1, hr1, hst, -⟩ := reqOf_reqFault c p.va p.strad hr0
  rw [faultEach, hp]
  exact ⟨r1, hr1, hst⟩

theorem keeps_faultEach {s : State} {e : Nat × Req} (he : e.1 = id → e.2 = r) (h : FaultedAt s id c p.va p.strad) :
    FaultedAt (faultEach g s e) id c p.va p.strad := by
  by_cases hid : e.1 = id
  · obtain ⟨r0, hr0, -⟩ := h
    rw [show e = (id, r) from Prod.ext hid (he hid)]
    exact faulted_faultEach hp (by rw [hr0]; rfl)
  · unfold faultEach
    split
    · exact faultedAt_reqFault_ne h (Ne.symm hid)
    · exact h

/-- A request of the table faults, and stays faulted. -/
theorem faulted_of_mem (es : List (Nat × Req)) (s : State) (hpres : (reqOf s id).isSome = true) (hmem : (id, r) ∈ es)
    (honly : ∀ e ∈ es, e.1 = id → e.2 = r) : FaultedAt (es.foldl (faultEach g) s) id c p.va p.strad := by
  obtain ⟨before, after, rfl⟩ := List.append_of_mem hmem
  rw [List.foldl_append, List.foldl_cons]
  have hfaulted := faulted_faultEach hp
    (foldl_keeps (fun u : State => (reqOf u id).isSome = true) (faultEach g) (fun _ e => present_faultEach g e) before hpres)
  have honly' : ∀ e ∈ after, e.1 = id → e.2 = r := fun e he => honly e (by simp [he])
  clear hmem honly hpres
  generalize faultEach g _ (id, r) = u at hfaulted
  induction after generalizing u with
  | nil => exact hfaulted
  | cons e after ih =>
    exact ih (fun x hx => honly' x (List.mem_cons_of_mem _ hx)) _
      (keeps_faultEach hp (honly' e (List.mem_cons_self ..)) hfaulted)

/-- In a table whose numbers are distinct, a request that `g` faults ends at its fault. -/
theorem faulted_of_reqOf {s : State} (hw : mwf s.reqs = true) (hr : reqOf s id = some r) :
    FaultedAt (s.reqs.foldl (faultEach g) s) id c p.va p.strad := by
  refine faulted_of_mem hp s.reqs s (by rw [hr]; rfl) (mem_of_mfind hr) fun e he hid => ?_
  have hfind : reqOf s id = some e.2 := mfind_of_mem hw (by rw [← hid]; exact he)
  rw [hr, Option.some.injEq] at hfind
  exact hfind.symm

end

/-- What faults when the die comes back: an atomic whose outcome is UNKNOWN. -/
def unknownFault (r : Req) : Option (Nat × Part) := (unknownPart r).map fun p => (cATOM, p)

theorem faultUnknown_eq (s : State) : faultUnknown s = s.reqs.foldl (faultEach unknownFault) s := by
  rw [faultUnknown]
  congr 1
  funext u e
  rw [faultEach, unknownFault]
  cases unknownPart e.2 <;> rfl

theorem dieBackUp_faults {s : State} {id : Nat} {r : Req} {p : Part} (hp : unknownPart r = some p) (hw : mwf s.reqs = true)
    (hr : reqOf s id = some r) : ∃ r', reqOf (dieBackUp s) id = some r' ∧ r'.stage = .faulted cATOM p.va p.strad := by
  have hfaulted := faulted_of_reqOf (g := unknownFault) (by rw [unknownFault, hp]; rfl) hw hr
  rw [← faultUnknown_eq, FaultedAt] at hfaulted
  rw [reqOf, dieBackUp]
  dsimp only
  rw [reqs_poisonSegs]
  exact hfaulted

theorem dieBackUp_poisons (s : State) {k n : Nat} (hk : k ∈ foreignSegs s s.dieNo) (hlo : segAddr k / 32 ≤ n)
    (hhi : n < (segAddr k + 0x200000) / 32) : nhas (dieBackUp s).mpois n = true := by
  obtain ⟨hsegs, hdie⟩ := foreignSegs_faultUnknown s s.dieNo
  have hmem : k ∈ foreignSegs (faultUnknown s) (faultUnknown s).dieNo := by rw [hdie, hsegs]; exact hk
  rw [dieBackUp]
  exact poisoned_segments _ (faultUnknown s) k n hmem (mem_segment k n hlo hhi)

/-! ### Units that have been zeroed -/

theorem VersionsMove.bank {s t : State} (h : VersionsMove s t) : memBank t = memBank s := by
  rw [h]
  rfl

theorem versionsMove_doomShadow (s : State) (l n : Nat) : VersionsMove s (doomShadow s l n) :=
  (versionsMove_updLease s l _).trans (linesOnly_discardPend _ l _).moves

theorem zeroUnit_bank (s : State) (pa : Nat) :
    memBank (zeroUnit s pa) = bankZero (unitSize pa) (memBank s) (pa / unitSize pa) := by
  unfold zeroUnit
  dsimp only
  split
  · refine (VersionsMove.bank (VersionsMove.foldl (.refl _) (fun t e => ?_) _)).trans rfl
    refine VersionsMove.trans (VersionsMove.foldl (.refl t) (fun u p => ?_) _) (versionsMove_setLine _ _ _)
    split
    · exact versionsMove_doomView u _ _ _
    · exact versionsMove_doomShadow u _ _
  · rfl

/-- What a zeroed unit shows. -/
theorem shown_bankZero {m : Nat} (hm : 0 < m) (b : Bank) (x : Nat) :
    shownByte (32 * m) (bankZero (32 * m) b (x / (32 * m))) x = 0 ∧ shownPois (32 * m) (bankZero (32 * m) b (x / (32 * m))) x = false := by
  have hu : 0 < 32 * m := by omega
  have hbyte := rdByte_zeroed (32 * m) hu [x / (32 * m)] b x
  have hpois := nhas_pois_zeroed m hm [x / (32 * m)] b (x / 32)
  rw [Nat.div_div_eq_div_mul] at hpois
  simp only [List.foldl_cons, List.foldl_nil, List.mem_singleton, if_true, decide_true, Bool.not_true, Bool.false_and] at hbyte hpois
  rw [shownByte, shownPois, hbyte, hpois, Bool.and_false, ite_self]
  exact ⟨rfl, rfl⟩

theorem scr_bankZero (u : Nat) (b : Bank) (n : Nat) : nhas (bankZero u b n).scr n = true := by
  rw [bankZero, nhas_nadd, beq_self_eq_true, Bool.true_or]

/-- A unit of device memory whose zeroing ends. -/
theorem memRd_zeroUnit (s : State) {pa a : Nat} (hsize : unitSize pa = unitSize a) (hunit : pa / unitSize a = a / unitSize a) (z : NSet) :
    memRd { zeroUnit s a with zeroing := z } pa 1 = ([0], [false]) := by
  obtain ⟨m, hm, hu⟩ := unitSize_sectors a
  have hbank : memBank { zeroUnit s a with zeroing := z } = bankZero (unitSize a) (memBank s) (a / unitSize a) := zeroUnit_bank s a
  obtain ⟨hbyte, hpois⟩ := shown_bankZero hm (memBank s) pa
  rw [memRd_one, hbank, hsize, ← hunit, hu, hbyte, hpois]

theorem scrubbed_zeroUnit (s : State) (a : Nat) : nhas (zeroUnit s a).scrubbed (a / unitSize a) = true := by
  have hbank := zeroUnit_bank s a
  rw [show (zeroUnit s a).scrubbed = (memBank (zeroUnit s a)).scr from rfl, hbank]
  exact scr_bankZero _ _ _

theorem zeroing_ndel (z : NSet) (b : Nat) : nhas (ndel z b) b = false := by
  rw [nhas_ndel, beq_self_eq_true]
  rfl

theorem exec_zeroed_hbm {s : State} {b pa : Nat} (hz : nhas s.zeroing b = true) (hb : b * 4096 < scratchBase) (hpa : pa / 4096 = b)
    (hlt : pa < scratchBase) : Gives (.unitZeroingDone (.hbm b)) s fun t =>
      memRd t pa 1 = ([0], [false]) ∧ nhas t.scrubbed b = true ∧ nhas t.zeroing b = false := by
  have hu : unitSize (b * 4096) = 4096 := unitSize_hbm hb
  have hdiv : b * 4096 / 4096 = b := Nat.mul_div_cancel b (by decide)
  have hscr := scrubbed_zeroUnit s (b * 4096)
  rw [hu, hdiv] at hscr
  exact ⟨_, show execUnitZeroingDone (.hbm b) s = _ from if_pos hz,
    memRd_zeroUnit s (by rw [hu, unitSize_hbm hlt]) (by rw [hu, hdiv, hpa]) _, hscr, zeroing_ndel _ _⟩

theorem exec_zeroed_scratch {s : State} {b pa : Nat} (hz : nhas s.zeroing b = true) (hb : scratchBase ≤ b * 2048) (hpa : pa / 2048 = b)
    (hle : scratchBase ≤ pa) : Gives (.unitZeroingDone (.scratch b)) s fun t =>
      memRd t pa 1 = ([0], [false]) ∧ nhas t.scrubbed b = true ∧ nhas t.zeroing b = false := by
  have hu : unitSize (b * 2048) = 2048 := unitSize_scratch (Nat.not_lt.2 hb)
  have hdiv : b * 2048 / 2048 = b := Nat.mul_div_cancel b (by decide)
  have hscr := scrubbed_zeroUnit s (b * 2048)
  rw [hu, hdiv] at hscr
  exact ⟨_, show execUnitZeroingDone (.scratch b) s = _ from if_pos hz,
    memRd_zeroUnit s (by rw [hu, unitSize_scratch (Nat.not_lt.2 hle)]) (by rw [hu, hdiv, hpa]) _, hscr, zeroing_ndel _ _⟩

/-- A tile's store with block `b` zeroed. -/
def zeroedTile (x : Tile) (b : Nat) : Tile :=
  { setTileBank x (bankZero 2048 (tileBank x) b) with zeroing := ndel x.zeroing b }

theorem exec_zeroed_tile {s : State} {l u b o : Nat} {ls : Lease} {x : Tile} (hl : leaseOf s l = some ls) (hx : tileOf ls u = some x)
    (hz : nhas x.zeroing b = true) (ho : o / 2048 = b) : Gives (.unitZeroingDone (.tileStore l u b)) s fun t =>
      ∃ x', OnlyTile s t l u ls x' ∧ tileRd x' o 1 = ([0], [false]) ∧ nhas x'.scrubbed b = true := by
  have hput : (if nhas x.zeroing b then zeroedTile x b else x) = zeroedTile x b := if_pos hz
  obtain ⟨hbyte, hpois⟩ := shown_bankZero (m := 64) (by decide) (tileBank x) o
  rw [show 32 * 64 = 2048 from rfl, ho] at hbyte hpois
  refine ⟨_, rfl, zeroedTile x b, ⟨_, onlyLease_upd hl _, ?_, fun v hv => mfind_mmod_ne ls.tiles _ hv, rfl⟩, ?_,
    scr_bankZero 2048 (tileBank x) b⟩
  · rw [← hput]
    exact mfind_mmod_self _ _ _ _ hx
  · exact Prod.ext (congrArg (fun v => [v]) hbyte) (congrArg (fun v => [v]) hpois)

/-! ### Equations of the remaining words -/

theorem exec_fatalError {s : State} (h : s.fatal = false) (c : BitVec 2) : Gives (.fatalError c) s fun t => t.fatal = true ∧
    Out.aer true ∈ t.out ∧ t.leases = s.leases ∧ t.mem = s.mem ∧ (s.dump.ctl.getLsbD 0 = true → t.dump.stat.getLsbD 0 = true) ∧
    (s.dump.ctl.getLsbD 0 = false → t.dump = s.dump) := by
  obtain ⟨hleases, hmem, hdump⟩ := goFatal_kept h c.toNat
  refine ⟨goFatal s c.toNat, rfl, fatal_goFatal s _, goFatal_aer h _, hleases, hmem, fun hon => ?_, fun hoff => ?_⟩
  · rw [hdump]
    exact writeDump_done (s := { s with fatal := true }) hon
  · rw [hdump, writeDump_off (s := { s with fatal := true }) hoff]

theorem exec_clockHorizon (s : State) : exec .clockHorizon s = if s.rebasing || s.tick < Config.horizonTick then .next s
    else .next ((oldViews s).foldl revokeView (pfEvent { s with rebasing := true } 0x04 0xFFF 0xFFF 0xFF 0 0 0)) := rfl

theorem exec_clockStop (s : State) : exec .clockStop s =
    if s.rebasing && decide (Config.stopTick ≤ s.tick) then .next { s with clockStopped := true } else .next s := rfl

theorem rebase_spec {s : State} {l : Nat} {ls : Lease} (hl : leaseOf s l = some ls) (h : s.rebasing = true) :
    Gives .clockRebaseComplete s fun t => t.tick = s.tick - Config.rebaseShift ∧ t.rebasing = false ∧
      t.clockStopped = false ∧ t.rebases = s.rebases + 1 ∧ t.copies = [] ∧ leaseOf t l = some (shiftLease ls) ∧ t.mem = s.mem := by
  have hframe := reclaimAll_frame s (watermark s) fun _ => true
  have htick : (reclaimAll s (watermark s) fun _ => true).tick = s.tick := by rw [hframe]
  have hreb : (reclaimAll s (watermark s) fun _ => true).rebases = s.rebases := by rw [hframe]
  have hmem : (reclaimAll s (watermark s) fun _ => true).mem = s.mem := by rw [hframe]
  refine ⟨_, show execClockRebaseComplete s = _ from if_neg (by simp [h]), ?_, rfl, rfl, ?_, rfl, leaseOf_rebased hl, hmem⟩
  · exact congrArg shiftTick htick
  · exact congrArg (· + 1) hreb

theorem exec_diectlGo (s : State) : exec .diectlGo s = .next (startDie s) := rfl

section
variable {s : State} (hgo : s.dieGo = true)
include hgo

theorem exec_dieEvacuation_left (hst : s.dieState = 1) (hon : stillOn s s.dieNo = false) : exec .dieEvacuationComplete s =
    .next { (foreignSegs s s.dieNo).foldl (fun u k => evacuateSeg u s.dieNo k) s with dieState := 2, dieSince := s.wall } := by
  show execDieEvacuationComplete s = _
  rw [execDieEvacuationComplete, if_neg (by rw [hgo, hst]; decide)]
  exact if_neg (Bool.eq_false_iff.1 hon)

section
variable (hst : s.dieState = 1) (hon : stillOn s s.dieNo = true)
include hst hon

theorem exec_dieEvacuation_moving (hmv : moveUnderWay s = true) : exec .dieEvacuationComplete s = .next s := by
  show execDieEvacuationComplete s = _
  rw [execDieEvacuationComplete, if_neg (by rw [hgo, hst]; decide)]
  dsimp only
  rw [if_pos hon, if_pos hmv]

theorem exec_dieEvacuation_moves (hmv : moveUnderWay s = false) {e : Nat × Lease}
    (he : (s.leases.find? fun e => onDie e.2 s.dieNo && movable s e.1 e.2 false) = some e) :
    exec .dieEvacuationComplete s = .next (startDrain s e.1 .move) := by
  show execDieEvacuationComplete s = _
  rw [execDieEvacuationComplete, if_neg (by rw [hgo, hst]; decide)]
  dsimp only
  rw [if_pos hon, if_neg (Bool.eq_false_iff.1 hmv), he]

end

theorem exec_dieRestart (hst : s.dieState = 3) : exec .dieRestart s =
    .next (if (if s.dieBack then s else dieBackUp s).reqs.any fun e =>
        awaitsDie (if s.dieBack then s else dieBackUp s) (if s.dieBack then s else dieBackUp s).dieNo e.2 then
      if s.dieBack then s else dieBackUp s
    else { (if s.dieBack then s else dieBackUp s) with dieGo := false, dieState := 4, dieBack := false }) := by
  show execDieRestart s = _
  rw [execDieRestart, if_neg (by rw [hgo, hst]; decide)]

end

theorem tickAdvance_spec {s : State} (h : ¬ (s.clockStopped = true ∨ Config.stopTick ≤ s.tick)) (m : BitVec 160) :
    Gives (.tickAdvance m) s fun t => t.leases = s.leases ∧ t.mem = s.mem ∧ t.lines = s.lines ∧
      (∀ e, e < 160 → tickOf t e = tickOf s e + (if m.getLsbD e && !s.lead.getLsbD e then 1 else 0)) ∧
      (s.lead ||| m ≠ BitVec.allOnes 160 → t.tick = s.tick ∧ t.clockStopped = s.clockStopped) ∧
      (s.lead ||| m = BitVec.allOnes 160 → t.tick = s.tick + 1 ∧ t.lead = 0 ∧
        t.clockStopped = decide (s.tick + 1 = Config.stopTick) ∧
        (s.tick + 1 = Config.horizonTick → t.agenda = .event .clockHorizon :: s.agenda)) := by
  by_cases hall : s.lead ||| m = BitVec.allOnes 160
  · refine ⟨tickedState s, (exec_tickAdvance h m).trans (congrArg _ (if_neg fun hne => hne hall)), rfl, rfl, rfl,
      fun e he => tickOf_tickedState hall he, fun hne => absurd hall hne, fun _ => ⟨rfl, rfl, rfl, fun hh => if_pos hh⟩⟩
  · exact ⟨ledState s m, (exec_tickAdvance h m).trans (congrArg _ (if_pos hall)), rfl, rfl, rfl,
      fun e _ => tickOf_ledState s m e, fun _ => ⟨rfl, rfl⟩, fun heq => absurd heq hall⟩

/-- Settles O51: each word's equation, with what the dump, the locks, the pager and the versions leave alone. -/
theorem clocksDiesUnits : Obligations.clocks_dies_units := by
  intro s l ls hl d stopped
  refine ⟨fun m => ⟨fun h => exec_tickAdvance_stopped h m, fun h => tickAdvance_spec h m⟩, fun hreb hhor => ?_, fun h => ?_,
    rebase_spec hl, fun h => ?_, fun hreb hstop => ?_, fun h => ?_, fun c => ⟨fun h => ?_, fun h => exec_fatalError h c⟩,
    fun power temp => ⟨fun ht => ?_, fun ht => throttle_spec hl ht⟩, fun h => ?_, fun h => ⟨fun hr => ?_, fun hr => ?_⟩,
    fun hgo hst => ⟨exec_dieEvacuation_left hgo hst, exec_dieEvacuation_moving hgo hst, fun e hon hmv => exec_dieEvacuation_moves hgo hst hon hmv⟩, fun hgo hst hdone => dieQuiesce_spec hgo hst hdone,
    fun hgo hst => ⟨fun hw => ?_, fun hw => ?_⟩,
    ⟨rfl, fun k hk n hlo hhi => dieBackUp_poisons s hk hlo hhi, fun id r p hw hr hp => dieBackUp_faults hp hw hr⟩,
    fun b pa hz => ⟨exec_zeroed_hbm hz, exec_zeroed_scratch hz⟩, fun u b o x hx hz ho => exec_zeroed_tile hl hx hz ho,
    fun die tenant line => rfl⟩
  · rw [exec_clockHorizon, if_neg (by simp [hreb]; omega)]
  · rw [exec_clockHorizon, if_pos (by simpa using h)]
  · exact if_pos (by simp [h])
  · rw [exec_clockStop, if_pos (by simp [hreb, hstop])]
  · rw [exec_clockStop, if_neg (by rcases h with h | h <;> simp [h])]
  · exact congrArg _ (if_pos h)
  · exact ⟨_, show execThrottleStep l power temp s = _ from if_pos ht, fatal_goFatal _ _⟩
  · exact congrArg _ (if_pos h)
  · rw [exec_diectlGo, startDie, if_neg (by simp [h]), if_pos hr]
  · rw [exec_diectlGo, startDie, if_neg (by simp [h]), if_neg (Bool.eq_false_iff.1 hr)]
  · exact (exec_dieRestart hgo hst).trans (congrArg _ (if_pos (List.any_eq_true.2 hw)))
  · exact (exec_dieRestart hgo hst).trans (congrArg _ (if_neg (by
      rw [Bool.not_eq_true, List.any_eq_false]
      intro e he
      rw [hw e he]
      exact Bool.false_ne_true)))

end Sys2Proof.Claims
end

section
/-! SUPPORT. O52: where an uncorrectable error births poison. -/

namespace Sys2Proof.Claims

open Sys2Proof Sys2Proof.Machine

/-! ### What a report of an error leaves -/

theorem ueBorn_frame (s : State) (a b c d e f : Nat) : (ueBorn s a b c d e f).leases = s.leases ∧ (ueBorn s a b c d e f).mem = s.mem ∧
    (ueBorn s a b c d e f).mpois = s.mpois ∧ (ueBorn s a b c d e f).lines = s.lines ∧ (ueBorn s a b c d e f).hbmBad = s.hbmBad := by
  rw [ueBorn, pfEvent_frame]
  exact ⟨rfl, rfl, rfl, rfl, rfl⟩

theorem ueCount_frame (s : State) (ls : Lease) : (ueCount s ls).leases = s.leases ∧ (ueCount s ls).mem = s.mem := by
  unfold ueCount countDelivery
  split <;> exact ⟨rfl, rfl⟩

/-- A birth of poison that is counted and reported. -/
def ueTold (s : State) (ls : Lease) (sub tenant lease die a1 a2 : Nat) : State :=
  ueBorn (ueCount (bump s) ls) sub tenant lease die a1 a2

theorem leaseOf_ueTold (s : State) (ls : Lease) (a b c d e f l : Nat) : leaseOf (ueTold s ls a b c d e f) l = leaseOf s l := by
  rw [leaseOf, ueTold, (ueBorn_frame _ a b c d e f).1, (ueCount_frame (bump s) ls).1]
  rfl

/-- A lane of a token that an error has struck. -/
theorem ueTok_pois (nonce lane : Nat) (t : Tok) {i : Nat} (hi : i < 24) :
    (ueTok nonce lane t).pois.getLsbD i = (t.pois.getLsbD i || i == lane) := by
  rw [ueTok, BitVec.getLsbD_or, maskOf_bit _ hi]

theorem getElem?_modNth {q : List Tok} {i : Nat} {tok : Tok} (h : q[i]? = some tok) (f : Tok → Tok) : (modNth q i f)[i]? = some (f tok) := by
  have hi : i < q.length := (List.getElem?_eq_some_iff.1 h).1
  rw [modNth, h]
  dsimp only
  rw [List.getElem?_set_self hi]

theorem reg_ne_zero {reg : Nat} (h0 : 0 < reg) (h32 : reg < 32) : BitVec.ofNat 5 reg ≠ 0 := by
  intro h
  have := congrArg BitVec.toNat h
  rw [BitVec.toNat_ofNat] at this
  simp at this
  omega

/-- The store of a tile whose sector an error has struck (R73, R82). -/
def struckStore (nonce off : Nat) (x : Tile) : Tile :=
  { x with
    store := wrBytes x.store (off / 32 * 32) (leBytes 32 (Config.ueBits nonce).toNat)
    spois := nadd x.spois (off / 32)
    ebs := x.ebs.map (markSlot off) }

section
variable {s : State} {l t k : Nat} {ls : Lease} {x : Tile} (hl : leaseOf s l = some ls) (ht : tileOf ls t = some x)
include hl

/-! ### Registers and ports -/

theorem ue_seq {reg : Nat} (rep : Bool) :
    ∃ ls', leaseOf (ueSeq s l reg rep ls) l = some ls' ∧
      ls' = setSeq ls rep (xset (seqOf ls rep) (BitVec.ofNat 5 reg) (BitVec.ofNat 64 (Config.ueBits s.nonce).toNat) true) := by
  refine ⟨_, ?_, rfl⟩
  rw [show ueSeq s l reg rep ls = ueTold (updSeq s l rep fun q =>
      xset q (BitVec.ofNat 5 reg) (BitVec.ofNat 64 (Config.ueBits s.nonce).toNat) true) ls 2 ls.tenant l
      (if rep then dieAt ls.rcol ls.rrow else anchorDie ls) 0 (reg * 256) from rfl, leaseOf_ueTold]
  exact leaseOf_updLease _ hl

include ht

theorem ue_lane {reg lane : Nat} (hlane : lane < 24) (hreg : reg < 16) (hk : k < 4) :
    Gives (.uncorrectableError (.lane l t k reg lane)) s fun u => ∃ ls' x', leaseOf u l = some ls' ∧ tileOf ls' t = some x' ∧
      (∀ i, i < 24 → (mget Tok.zero (ctxOf x' k).v reg).pois.getLsbD i =
        ((mget Tok.zero (ctxOf x k).v reg).pois.getLsbD i || i == lane)) ∧
      (∀ r, r ≠ reg → mget Tok.zero (ctxOf x' k).v r = mget Tok.zero (ctxOf x k).v r) ∧ ∀ j, j ≠ k → ctxOf x' j = ctxOf x j := by
  obtain ⟨x', ⟨ls', ⟨hl', -⟩, ht', -⟩, hc, hj, -⟩ := onlyCtx_upd hl ht (k := k)
    fun c => { c with v := mset Tok.zero c.v reg (ueTok s.nonce lane (mget Tok.zero c.v reg)) }
  refine ⟨ueTold (updCtx s l t k fun c => { c with v := mset Tok.zero c.v reg (ueTok s.nonce lane (mget Tok.zero c.v reg)) }) ls
    0 ls.tenant l (tileDie ls t) 0 (ueWhere ls t reg), ?_, ls', x', (leaseOf_ueTold ..).trans hl', ht', fun i hi => ?_, fun r hr => ?_, hj⟩
  · show execUncorrectableError (.lane l t k reg lane) s = _
    rw [execUncorrectableError]
    dsimp only
    rw [hl]
    dsimp only [Option.bind_some]
    rw [ht]
    dsimp only
    rw [if_neg (by simp; omega)]
    rfl
  · rw [hc, mget_mset_self, ueTok_pois _ _ _ hi]
  · rw [hc, mget_mset_ne _ _ _ hr]

section
variable {p slot : Nat} {tok : Tok} (hp : p < 8) (hk : k < 4) (htok : (inPort (ctxOf x k) p).q[slot]? = some tok)
include hp hk htok

theorem uePort_spec (f : Tok → Tok) : ∃ ls' x', leaseOf (uePort s l t k p slot f) l = some ls' ∧ tileOf ls' t = some x' ∧
    (inPort (ctxOf x' k) p).q[slot]? = some (f tok) := by
  have hlen : slot < (inPort (ctxOf x k) p).q.length := (List.getElem?_eq_some_iff.1 htok).1
  obtain ⟨i, hi⟩ : ∃ i, mfind (ctxOf x k).ins p = some i := by
    cases h : mfind (ctxOf x k).ins p with
    | none => simp [inPort, mget, h] at htok
    | some i => exact ⟨i, rfl⟩
  have hport : inPort (ctxOf x k) p = i := by rw [inPort, mget, hi]; rfl
  obtain ⟨x', ⟨ls', ⟨hl', -⟩, ht', -⟩, hc, -⟩ := onlyCtx_upd hl ht (k := k) fun c =>
    if p < 8 then { c with ins := mmod c.ins p fun i => { i with q := modNth i.q slot f } }
    else { c with outs := mmod c.outs (p - 8) fun o => { o with pub := modNth o.pub slot f } }
  refine ⟨ls', x', ?_, ht', ?_⟩
  · rw [uePort, hl]
    dsimp only [Option.bind_some]
    rw [ht]
    dsimp only [Option.map_some]
    rw [if_pos hp, if_neg (by simp only [Bool.or_eq_true, decide_eq_true_eq]; unfold inPort at hlen; omega)]
    exact (leaseOf_ueTold ..).trans hl'
  · rw [hc, if_pos hp, inPort, mget, mfind_mmod_self _ _ _ _ hi]
    rw [hport] at htok
    exact getElem?_modNth htok f

end

/-! ### Configuration words and tile stores -/

theorem ue_config {sec idx : Nat} (shadow : Bool) (h : idx < sectionLen sec) :
    Gives (.uncorrectableError (.config l t shadow sec idx)) s fun u => ∃ x', OnlyTile s u l t ls x' ∧
      wordBad (if shadow then x'.shd else x'.act) sec idx = true ∧
      x' = { x with act := { x.act with bad := x'.act.bad }, shd := { x.shd with bad := x'.shd.bad } } ∧
      (if shadow then x'.act = x.act else x'.shd = x.shd) := by
  have hmark : ∀ y : Plane, wordBad { y with bad := nadd y.bad (65536 * sec + idx) } sec idx = true := fun y => by
    rw [wordBad, nhas_nadd, beq_self_eq_true, Bool.true_or]
  have hrun : ∀ g : Tile → Tile, OnlyTile s (updTile s l t g) l t ls (g x) := fun g =>
    ⟨_, onlyLease_upd hl _, mfind_mmod_self _ _ _ _ ht, fun v hv => mfind_mmod_ne ls.tiles _ hv, rfl⟩
  refine ⟨_, show execUncorrectableError (.config l t shadow sec idx) s = _ from if_neg (by omega), _, hrun _, ?_⟩
  cases shadow with
  | false => exact ⟨hmark x.act, rfl, rfl⟩
  | true => exact ⟨hmark x.shd, rfl, rfl⟩

theorem ue_tileStore {off : Nat} (hoff : off < 2 ^ 20) (hkind : kindOf ls t = 2) :
    Gives (.uncorrectableError (.tileStore l t off)) s fun u => u.mem = s.mem ∧ ∃ ls' x', leaseOf u l = some ls' ∧
      tileOf ls' t = some x' ∧ nhas x'.spois (off / 32) = true ∧ ∀ j, j ≠ off / 32 → nhas x'.spois j = nhas x.spois j := by
  have hrun : exec (.uncorrectableError (.tileStore l t off)) s =
      .next (ueBorn (bump (updTile s l t (struckStore s.nonce off))) 3 ls.tenant l (tileDie ls t) off (ueWhere ls t off)) := by
    show execUncorrectableError (.tileStore l t off) s = _
    rw [execUncorrectableError]
    dsimp only
    rw [hl]
    dsimp only [Option.bind_some]
    rw [ht]
    dsimp only
    rw [if_neg (by rw [hkind]; simp; omega)]
    rfl
  obtain ⟨hleases, hmem, -⟩ := ueBorn_frame (bump (updTile s l t (struckStore s.nonce off))) 3 ls.tenant l (tileDie ls t) off
    (ueWhere ls t off)
  refine ⟨_, hrun, hmem, { ls with tiles := mmod ls.tiles t (struckStore s.nonce off) }, struckStore s.nonce off x, ?_,
    mfind_mmod_self _ _ _ _ ht, ?_, fun j hj => ?_⟩
  · rw [leaseOf, hleases]
    exact leaseOf_updLease _ hl
  · rw [struckStore, nhas_nadd, beq_self_eq_true, Bool.true_or]
  · rw [struckStore, nhas_nadd, beq_false_of_ne (Ne.symm hj), Bool.false_or]

end

/-! ### Sectors of memory -/

/-- An error in a sector of device memory poisons it, and changes no other sector. -/
def SectorStruck (s u : State) (pa : Nat) : Prop :=
  nhas u.mpois (pa / 32) = true ∧ u.leases = s.leases ∧ (∀ j, j ≠ pa / 32 → nhas u.mpois j = nhas s.mpois j) ∧
    ∀ a, a / 32 ≠ pa / 32 → rdByte u.mem a = rdByte s.mem a

theorem sectorStruck (s : State) (pa b c d e f g : Nat) : SectorStruck s (ueBorn (ueSector s pa) b c d e f g) pa := by
  obtain ⟨hleases, hmem, hpois, -⟩ := ueBorn_frame (ueSector s pa) b c d e f g
  refine ⟨?_, hleases, fun j hj => ?_, fun a ha => ?_⟩
  · rw [hpois]
    exact (nhas_nadd _ _ _).trans (by rw [beq_self_eq_true, Bool.true_or])
  · rw [hpois]
    exact (nhas_nadd _ _ _).trans (by rw [beq_false_of_ne (Ne.symm hj), Bool.false_or])
  · rw [hmem]
    refine rdByte_wrBytes_out _ _ _ _ ?_
    rw [length_leBytes]
    omega

section
variable {s : State} {pa : Nat} (hpa : pa < hbmEnd s.boot)
include hpa

theorem ue_hbm_open (hhit : llcHit s pa = false) (hdirty : llcIsDirty s pa = false) :
    Gives (.uncorrectableError (.hbm pa)) s fun u => SectorStruck s u pa := by
  refine ⟨ueBorn (ueSector s pa) 6 0xFFF 0xFFF (homeDie s.boot pa) pa 0, ?_, sectorStruck ..⟩
  show execUncorrectableError (.hbm pa) s = _
  rw [execUncorrectableError]
  rw [if_pos hpa, ueHbm, if_neg (by simp [hdirty]), if_neg (by simp [hhit])]

theorem ue_hbm_covered (h : llcHit s pa = true ∨ llcIsDirty s pa = true) :
    Gives (.uncorrectableError (.hbm pa)) s fun u => u.mem = s.mem ∧ u.mpois = s.mpois ∧
      u.leases = s.leases ∧ (llcIsDirty s pa = false → (mfind u.hbmBad (pa / 32)).isSome = true) := by
  obtain ⟨hleases, hmem, hpois, -, hbad⟩ := ueBorn_frame (ueHbm s pa) 6 0xFFF 0xFFF (homeDie s.boot pa) pa 0
  refine ⟨_, show execUncorrectableError (.hbm pa) s = _ from if_pos hpa, ?_⟩
  dsimp only
  rw [hmem, hpois, hleases, hbad, ueHbm]
  by_cases hdirty : llcIsDirty s pa = true
  · rw [if_pos hdirty]
    exact ⟨rfl, rfl, rfl, fun h => absurd (hdirty.symm.trans h) (by decide)⟩
  · rw [if_neg hdirty, if_pos (h.resolve_right hdirty)]
    exact ⟨rfl, rfl, rfl, fun _ => by
      show (mfind (mput s.hbmBad _ _) _).isSome = true
      rw [mfind_mput_self]
      rfl⟩

theorem ue_llc_dirty (hdirty : llcIsDirty s pa = true) : Gives (.uncorrectableError (.llc pa)) s fun u => SectorStruck s u pa := by
  refine ⟨ueBorn (ueSector s pa) 5 0xFFF 0xFFF (homeDie s.boot pa) pa 0, ?_, sectorStruck ..⟩
  show execUncorrectableError (.llc pa) s = _
  rw [execUncorrectableError]
  rw [if_neg (by omega), if_pos hdirty]

theorem exec_ue_llc_clean (hdirty : llcIsDirty s pa = false) : exec (.uncorrectableError (.llc pa)) s = .next (llcDrop s pa) := by
  show execUncorrectableError (.llc pa) s = _
  rw [execUncorrectableError]
  rw [if_neg (by omega), if_neg (by simp [hdirty])]

end

/-! ### Versions -/

theorem ueBorn_line (s : State) (k : Nat) (y : Line) (b c d e f g : Nat) :
    (ueBorn (bump (setLine s k y)) b c d e f g).mem = s.mem ∧ lineOf (ueBorn (bump (setLine s k y)) b c d e f g) k = y := by
  obtain ⟨-, hmem, -, hlines, -⟩ := ueBorn_frame (bump (setLine s k y)) b c d e f g
  refine ⟨hmem.trans (by rw [bump, linesOnly_setLine s k y]), ?_⟩
  rw [lineOf, hlines]
  exact lineOf_setLine s k y

/-- A retained version whose sector an error has struck. -/
def struckVersion (nonce pa : Nat) (v : Version) : Version :=
  { v with data := (ueVersion nonce pa v.data v.pois).1, pois := (ueVersion nonce pa v.data v.pois).2 }

/-- A pending version whose sector an error has struck. -/
def struckPend (nonce pa : Nat) (v : Pend) : Pend :=
  { v with data := (ueVersion nonce pa v.data v.pois).1, pois := (ueVersion nonce pa v.data v.pois).2 }

/-- The line whose pending version of a view or shadow has been struck. -/
def struckLine (nonce pa l slot : Nat) (v : Pend) (y : Line) : Line :=
  { y with pend := y.pend.map fun e => if e.lease == l && e.slot == slot then struckPend nonce pa v else e }

section
variable {s : State} {pa n l slot : Nat}

theorem exec_ue_pool {v : Version} (h : (lineOf s (pa / 128)).old[n]? = some v) : exec (.uncorrectableError (.pool pa n)) s =
    .next (ueBorn (bump (setLine s (pa / 128) { lineOf s (pa / 128) with
      old := (lineOf s (pa / 128)).old.set n (struckVersion s.nonce pa v) })) 7 v.tenant 0xFFF (homeDie s.boot pa) pa 0) := by
  show execUncorrectableError (.pool pa n) s = _
  rw [execUncorrectableError]
  dsimp only
  rw [h]
  rfl

theorem exec_ue_pend {v : Pend} (h : findPend (lineOf s (pa / 128)) l slot = some v) : exec (.uncorrectableError (.pend pa l slot)) s =
    .next (ueBorn (bump (setLine s (pa / 128) (struckLine s.nonce pa l slot v (lineOf s (pa / 128))))) 7 v.tenant 0xFFF
      (homeDie s.boot pa) pa 0) := by
  show execUncorrectableError (.pend pa l slot) s = _
  rw [execUncorrectableError]
  dsimp only
  rw [h]
  rfl

theorem ue_pool {v : Version} (h : (lineOf s (pa / 128)).old[n]? = some v) :
    Gives (.uncorrectableError (.pool pa n)) s fun u => u.mem = s.mem ∧ ∃ v', (lineOf u (pa / 128)).old[n]? = some v' ∧
      v'.pois = v.pois ||| BitVec.ofNat 4 (2 ^ (pa % 128 / 32)) ∧ v'.ts = v.ts := by
  have hn : n < (lineOf s (pa / 128)).old.length := (List.getElem?_eq_some_iff.1 h).1
  refine ⟨_, exec_ue_pool h, (ueBorn_line ..).1, struckVersion s.nonce pa v, ?_, rfl, rfl⟩
  rw [(ueBorn_line ..).2]
  exact List.getElem?_set_self hn

theorem ue_pend {v : Pend} (h : findPend (lineOf s (pa / 128)) l slot = some v) :
    Gives (.uncorrectableError (.pend pa l slot)) s fun u => u.mem = s.mem ∧ ∃ v', findPend (lineOf u (pa / 128)) l slot = some v' ∧
      v'.pois = v.pois ||| BitVec.ofNat 4 (2 ^ (pa % 128 / 32)) ∧ v' = { v with data := v'.data, pois := v'.pois } := by
  have hown : (v.lease == l && v.slot == slot) = true := List.find?_some (p := fun p : Pend => p.lease == l && p.slot == slot) h
  refine ⟨_, exec_ue_pend h, (ueBorn_line ..).1, struckPend s.nonce pa v, ?_, rfl, rfl⟩
  rw [(ueBorn_line ..).2]
  exact find?_replace (f := fun p : Pend => p.lease == l && p.slot == slot) (q' := struckPend s.nonce pa v) hown h

end

/-- Settles O52: each place of an error, with what the report leaves. -/
theorem errorsPoisonInPlace : Obligations.errors_poison_in_place := by
  intro s l t k p lane reg slot off pa n id ls x hl ht c E sector
  refine ⟨fun hlane hreg hk => ue_lane hl ht hlane hreg hk, fun hp hlane hk tok htok => ?_, fun tag tok hp hk htok => ?_,
    fun r hr => ⟨fun ho => ?_, fun ho => ?_⟩, fun sec idx shadow h => ue_config hl ht shadow h, fun h0 h32 => ?_, fun h0 h32 hpair => ?_,
    ue_tileStore hl ht, fun hpa => ⟨ue_hbm_open hpa, ue_hbm_covered hpa, ue_llc_dirty hpa, exec_ue_llc_clean hpa⟩,
    fun hin => ?_, fun v => ue_pool, fun v => ue_pend⟩
  · obtain ⟨ls', x', hl', ht', hq⟩ := uePort_spec hl ht hp hk htok (ueTok s.nonce lane)
    exact ⟨_, show execUncorrectableError (.port l t k p slot lane) s = _ from if_neg (by omega), ls', x', _, hl', ht', hq,
      fun i hi => ueTok_pois _ _ _ hi, rfl⟩
  · obtain ⟨ls', x', hl', ht', hq⟩ := uePort_spec hl ht hp hk htok
      fun u => { u with pois := BitVec.allOnes 24, tag := if tag then 0 else u.tag }
    exact ⟨_, rfl, ls', x', hl', ht', hq⟩
  · show execUncorrectableError (.reqSide id) s = _
    rw [execUncorrectableError, hr]
    exact if_pos ho
  · show execUncorrectableError (.reqSide id) s = _
    rw [execUncorrectableError, hr]
    exact if_neg (by simp [ho])
  · obtain ⟨ls', hl', heq⟩ := ue_seq hl (reg := reg) false
    have hne := reg_ne_zero h0 h32
    refine ⟨ueSeq s l reg false ls, ?_, ls', hl', ?_, fun r hr => ?_⟩
    · show execUncorrectableError (.seqReg l reg) s = _
      rw [execUncorrectableError, hl]
      exact if_neg (by simp; omega)
    · rw [heq]
      exact xpois_xset_self _ _ _ hne
    · rw [heq]
      exact ⟨xget_xset_ne _ _ _ hr, xpois_xset_ne _ _ _ hr⟩
  · obtain ⟨ls', hl', heq⟩ := ue_seq hl (reg := reg) true
    have hne := reg_ne_zero h0 h32
    refine ⟨ueSeq s l reg true ls, ?_, ls', hl', ?_, ?_, fun r hr => ?_⟩
    · show execUncorrectableError (.seqRegR l reg) s = _
      rw [execUncorrectableError, hl]
      exact if_neg (by simp [hpair]; omega)
    · rw [heq]
      rfl
    · rw [heq]
      exact xpois_xset_self _ _ _ hne
    · rw [heq]
      exact ⟨xget_xset_ne _ _ _ hr, xpois_xset_ne _ _ _ hr⟩
  · exact ⟨_, show execUncorrectableError (.dieScratch pa) s = _ from if_pos hin, sectorStruck ..⟩

end Sys2Proof.Claims
end

section
/-! SUPPORT. O53: couplers and peers, device reset and boot, SPDM answers. -/

namespace Sys2Proof.Claims

open Sys2Proof Sys2Proof.Machine

/-! ### Couplers -/

theorem couplerOf_updCoupler (s : State) (k : Nat) (f : Coupler → Coupler) : couplerOf (updCoupler s k f) k = f (couplerOf s k) :=
  mget_mset_self _ _ _ _

theorem couplerOf_updCoupler_ne (s : State) {k j : Nat} (f : Coupler → Coupler) (h : j ≠ k) :
    couplerOf (updCoupler s k f) j = couplerOf s j := mget_mset_ne _ _ _ h

theorem couplerOf_pfEvent (s : State) (c t l d b a1 a2 k : Nat) : couplerOf (pfEvent s c t l d b a1 a2) k = couplerOf s k := by
  rw [pfEvent_frame]
  rfl

theorem linkChange_spec {s : State} {k : Nat} {up : Bool} (id : Word) (pk : BitVec 4) (hlive : couplerLive s.boot k = true)
    (hup : (couplerOf s k).up ≠ up) : Gives (.couplerLinkChange k up id pk) s fun t =>
      couplerOf t k = { couplerOf s k with up := up, peerId := id, peerK := pk } ∧ ∀ j, j ≠ k → couplerOf t j = couplerOf s j := by
  refine ⟨_, show execCouplerLinkChange k up id pk s = _ from if_neg (by simpa [hlive] using hup), ?_, fun j hj => ?_⟩
  · rw [couplerOf_pfEvent, couplerOf_updCoupler]
  · rw [couplerOf_pfEvent, couplerOf_updCoupler_ne _ _ hj]

section
variable {s : State} {k n off t : Nat} {op : PeerOp} (hlive : couplerLive s.boot k = true) (hup : (couplerOf s k).up = true)
include hlive hup

theorem exec_peerRequest_tenant (hn : localTenant s k n = none) :
    exec (.peerRequest k n off op) s = .next (emit s (.peerReply k .badTenant)) := by
  show execPeerRequest k n off op s = _
  rw [execPeerRequest]
  dsimp only
  rw [if_neg (by simp [hlive, hup]), hn]

section
variable (hn : localTenant s k n = some t)
include hn

theorem exec_peerRequest_beyond (hoff : (couplerOf s k).expLen ≤ off) :
    exec (.peerRequest k n off op) s = .next (emit s (.peerReply k .badRange)) := by
  show execPeerRequest k n off op s = _
  rw [execPeerRequest]
  dsimp only
  rw [if_neg (by simp [hlive, hup]), hn]
  exact if_pos hoff

theorem exec_peerRequest_enters (hoff : off < (couplerOf s k).expLen) {pa : Nat}
    (hpa : locOf s.boot ((couplerOf s k).expBase + off) = some (.mem pa)) :
    exec (.peerRequest k n off op) s = .next (addReq s (peerReq k t (peerWork pa op).1 (peerWork pa op).2 pa)).1 := by
  show execPeerRequest k n off op s = _
  rw [execPeerRequest]
  dsimp only
  rw [if_neg (by simp [hlive, hup]), hn]
  dsimp only
  rw [if_neg (by omega), hpa]

theorem exec_peerRequest_elsewhere (hoff : off < (couplerOf s k).expLen)
    (hpa : ∀ pa, locOf s.boot ((couplerOf s k).expBase + off) ≠ some (.mem pa)) :
    exec (.peerRequest k n off op) s = .next (emit s (.peerReply k .badRange)) := by
  show execPeerRequest k n off op s = _
  rw [execPeerRequest]
  dsimp only
  rw [if_neg (by simp [hlive, hup]), hn]
  dsimp only
  rw [if_neg (by omega)]
  split
  · next pa h => exact absurd h (hpa pa)
  · rfl

end

end

/-! ### The reset of a peer panel -/

/-- What faults when peer panel `k` is reset. -/
def peerFault (k : Nat) (r : Req) : Option (Nat × Part) := (atPeer k r).map fun p => (if isAtomic r then cATOM else cSTAGE2, p)

theorem exec_peerPanelReset (k : Nat) (s : State) : exec (.peerPanelReset k) s = .next (s.reqs.foldl (faultEach (peerFault k)) s) := by
  show execPeerPanelReset k s = _
  rw [execPeerPanelReset]
  congr 2
  funext u e
  rw [faultEach, peerFault]
  cases atPeer k e.2 <;> rfl

/-! ### Boot -/

section
variable {b : Boot} {f : BootFind}

theorem bootAttempt_noImage (h : f.fw = false ∨ b.fwOk = false) : bootAttempt b f = recovery (bootStart b f) 2 := by
  have himage : (!(f.fw && (bootStart b f).fwOk)) = true := by
    rcases h with h | h <;> simp [h, bootStart]
  rw [bootAttempt]
  exact if_pos himage

theorem bootEnd_up (htrain : f.train = true) (hhbm : f.hbm = true) (hdog : f.watchdog = false) : bootEnd b f =
    { b with
      up := true
      count := 0
      svnFloor := max b.svnFloor b.fwSvn
      mapFloor := if b.mode = 2 then b.mapFloor else max b.mapFloor b.mapver } := by
  rw [bootEnd, if_neg (by simp [htrain]), if_neg (by simp [hhbm]), if_neg (by simp [hdog])]

/-- The boot state with the panel map that an attempt applies. -/
def mapped (b : Boot) (f : BootFind) : Boot :=
  { bootStart b f with
    fails := b.count
    count := b.count + 1
    mode := if f.ddis = 0 && f.sdis = 0 then 0 else 1
    mapver := f.mapver
    ddis := f.ddis
    sdis := f.sdis
    subst := f.subst.foldl (fun m e => mput m e.1 e.2) [] }

theorem bootAttempt_maps (hfw : f.fw = true) (hok : b.fwOk = true) (hsvn : b.svnFloor ≤ b.fwSvn) (hrpmb : f.rpmb = true)
    (hcount : b.count < 3) (hmap : f.map = true) (hver : b.mapFloor ≤ f.mapver) (huse : mapUsable f.ddis = true) :
    bootAttempt b f = bootEnd (mapped b f) f := by
  have himage : ¬ (!(f.fw && (bootStart b f).fwOk)) = true := by simp [hfw, hok, bootStart]
  exact (if_neg himage).trans <| (if_neg (Nat.not_lt.2 hsvn)).trans <| (if_neg (by simp [hrpmb])).trans <|
    (if_neg (Nat.not_le.2 hcount)).trans <| (if_neg (by simp [hmap])).trans <| (if_neg (Nat.not_lt.2 hver)).trans <|
    (if_neg (by simp [huse]))

theorem mapped_mode (b : Boot) (f : BootFind) : (mapped b f).mode = if f.ddis = 0 ∧ f.sdis = 0 then 0 else 1 := by
  simp only [mapped, Bool.and_eq_true, decide_eq_true_eq]

theorem mapped_mode_ne (b : Boot) (f : BootFind) : (mapped b f).mode ≠ 2 := by
  rw [mapped_mode]
  split <;> decide

end

theorem crossingsOf_none {b : Boot} (h : b.up = false ∨ b.mode = 3) : crossingsOf b = [] := by
  rw [crossingsOf, if_pos (by rcases h with h | h <;> simp [h])]

theorem crossingsOf_all {b : Boot} (hup : b.up = true) (h : b.mode = 0 ∨ b.mode = 1) : crossingsOf b = bootCrossings := by
  rcases h with h | h <;> rw [crossingsOf, if_neg (by simp [hup, h]), if_neg (by simp [h])]

/-! ### SPDM answers -/

/-- The interrupt of an answer. -/
def mailOf (fn : Fn) : Out :=
  .msix fn (match fn with
    | .pf => 1
    | .vf _ => 2)

theorem answer_spec (s : State) (fn : Fn) (code : Nat) (data : List Byte) :
    answer s fn code data = { s with nonce := (answer s fn code data).nonce, out := (answer s fn code data).out } ∧
      (answer s fn code data).out = s.out ++ [.spdm fn code data, mailOf fn] := by
  refine ⟨rfl, ?_⟩
  show (s.out ++ [_]) ++ [_] = _
  rw [List.append_assoc]
  rfl

theorem answers_of {s : State} {fn : Fn} {i : Instr} {code n : Nat} {data : List Byte} (hrun : exec i s = .next (answer s fn code data))
    (hn : data.length = n) : Gives i s fun t => t = { s with nonce := t.nonce, out := t.out } ∧ ∃ data, data.length = n ∧
      t.out = s.out ++ [.spdm fn code data, mailOf fn] :=
  ⟨_, hrun, (answer_spec s fn code data).1, data, hn, (answer_spec s fn code data).2⟩

theorem length_freeBytes (s : State) (n : Nat) : (freeBytes s n).length = n := by
  rw [freeBytes, List.length_map, List.length_range]

theorem length_signature (s : State) (i : Nat) : (signature s i).length = 9893 := by
  rw [signature, List.length_append, List.length_reverse, length_leBytes, length_freeBytes]

theorem takeIndex_frame {s s1 : State} {j : Nat} (h : takeIndex s = some (j, s1)) : s1 = { s with boot := s1.boot } := by
  unfold takeIndex at h
  dsimp only at h
  split_ifs at h <;> simp only [Option.some.injEq, Prod.mk.injEq] at h <;> rw [← h.2]

theorem signs_of {s : State} {fn : Fn} {i : Instr} {code : Nat} {body : List Byte} (hrun : exec i s = .next (signedAnswer s fn code body)) :
    (takeIndex s = none → Gives i s fun t => t = { s with nonce := t.nonce, out := t.out } ∧
      t.out = s.out ++ [.spdm fn 0x7F [0x05], mailOf fn]) ∧
    ∀ j s1, takeIndex s = some (j, s1) → Gives i s fun t => t = { s with nonce := t.nonce, out := t.out, boot := s1.boot } ∧
      ∃ sig, sig.length = 9893 ∧ t.out = s.out ++ [.spdm fn code (body ++ sig), mailOf fn] := by
  refine ⟨fun h => ?_, fun j s1 h => ?_⟩
  · rw [signedAnswer, h] at hrun
    exact ⟨_, hrun, answer_spec s fn 0x7F [0x05]⟩
  · obtain ⟨hframe, hout⟩ := answer_spec s1 fn code (body ++ signature s1 j)
    have hs1 := takeIndex_frame h
    have hsame : s1.out = s.out := by rw [hs1]
    have hrun' : exec i s = .next (answer s1 fn code (body ++ signature s1 j)) := hrun.trans (by rw [signedAnswer, h])
    refine ⟨_, hrun', ?_, signature s1 j, length_signature s1 j, by rw [hout, hsame]⟩
    generalize answer s1 fn code (body ++ signature s1 j) = t at hframe
    rw [hframe, hs1]

/-- The one-time index of the next signature, within a run or at the begin of one. -/
theorem takeIndex_spec {s s1 : State} {j : Nat} (h : takeIndex s = some (j, s1)) : s.boot.rpmbOk = true ∧
    (s.boot.otsRun = 0 → j = s.boot.otsNext ∧ s1.boot.otsNext = s.boot.otsNext + 1024 ∧ s1.boot.otsRun = 1023) ∧
    (0 < s.boot.otsRun → s.boot.otsRun ≤ s.boot.otsNext →
      j + s.boot.otsRun = s.boot.otsNext ∧ s1.boot.otsNext = s.boot.otsNext ∧ s1.boot.otsRun + 1 = s.boot.otsRun) := by
  unfold takeIndex at h
  dsimp only at h
  split_ifs at h with hrpmb hrun hend
  · obtain ⟨rfl, rfl⟩ := Prod.mk.inj (Option.some.inj h)
    exact ⟨by simpa using hrpmb, fun h0 => absurd h0 hrun, fun hpos hle => ⟨Nat.sub_add_cancel hle, rfl, Nat.sub_add_cancel hpos⟩⟩
  · obtain ⟨rfl, rfl⟩ := Prod.mk.inj (Option.some.inj h)
    exact ⟨by simpa using hrpmb, fun _ => ⟨rfl, rfl, rfl⟩, fun hpos => absurd hpos (by omega)⟩

/-- Settles O53: each word's equation, the faults of a peer's reset, the boot attempt and the answers. -/
theorem couplersAndBoot : Obligations.couplers_and_boot := by
  intro s k fn x gone mail answers signs
  refine ⟨fun up id pk => ⟨fun h => ?_, fun hlive hup => linkChange_spec id pk hlive hup⟩,
    fun n off op => ⟨fun h => ?_, fun hlive hup => ⟨exec_peerRequest_tenant hlive hup, fun t hn =>
      ⟨exec_peerRequest_beyond hlive hup hn, fun hoff pa => exec_peerRequest_enters hlive hup hn hoff,
        exec_peerRequest_elsewhere hlive hup hn⟩⟩⟩,
    ⟨_, exec_peerPanelReset k s, fun id r p hw hr hp => ?_⟩, fun ch n data pois tag aux => ⟨fun h => ?_, fun hlive hup hch => ?_⟩,
    fun f => ⟨rfl, crossingsOf_none, crossingsOf_all, fun h => ?_, fun hfw hok hsvn hrpmb hcount hmap hver huse htrain hhbm hdog => ?_⟩,
    fun v n => ⟨fun h => if_pos h, fun h => if_neg h⟩, ⟨_, rfl, answer_spec s fn 0x04 [0x00, 0x12]⟩,
    answers_of rfl (length_freeBytes s 8), answers_of rfl (length_freeBytes s 32), answers_of rfl ?_,
    answers_of rfl (length_freeBytes s 1024), signs_of rfl, signs_of rfl, ⟨_, rfl, answer_spec s fn 0x60 (blocks s fn)⟩,
    fun j s1 h => takeIndex_spec h⟩
  · exact if_pos (by rcases h with h | h <;> simp [h, x])
  · exact if_pos (by rcases h with h | h <;> simp [h, x])
  · obtain ⟨r', hr', hst⟩ := faulted_of_reqOf (g := peerFault k) (by rw [peerFault, hp]; rfl) hw hr
    refine ⟨r', hr', hst.trans ?_⟩
    unfold isAtomic
    cases r.op <;> rfl
  · exact if_pos (by rcases h with h | h | h <;> simp [h, x])
  · refine ⟨_, show execCouplerStreamToken k ch n data pois tag aux s = _ from
      if_neg (by simp [hlive, show (couplerOf s k).up = true from hup, hch]), ?_⟩
    dsimp only
    rw [couplerOf_updCoupler]
    exact mget_mset_self _ _ _ _
  · rw [bootAttempt_noImage h]
    exact ⟨rfl, rfl⟩
  · intro b
    have hb : b = bootEnd (mapped s.boot f) f := bootAttempt_maps hfw hok hsvn hrpmb hcount hmap hver huse
    rw [hb, bootEnd_up htrain hhbm hdog]
    exact ⟨rfl, mapped_mode s.boot f, rfl, rfl, rfl, Nat.max_eq_right hsvn,
      (if_neg (mapped_mode_ne s.boot f)).trans (Nat.max_eq_right hver), rfl⟩
  · rw [List.length_map, List.length_range]

end Sys2Proof.Claims
end

section
/-! SUPPORT. What every step keeps, as one predicate over the five parts of the state that the canonical forms speak of:
device memory, the tile stores of the leases and of their checkpoints, the table of requests and the versioned lines. -/

namespace Sys2Proof.Claims
open Sys2Proof Sys2Proof.Machine

variable {a b : Prop}

/-- A byte store has its canonical form, where that is asked for. -/
def MemOk (a : Prop) (m : List Host.Cell) : Prop := a → Memory.wf m = true

/-- The keys of a table are distinct and in order, where that is asked for. -/
def TabOk {α : Type} (b : Prop) (m : List (Nat × α)) : Prop := b → mwf m = true

/-- Every entry of a collection has a property. -/
def AllOk {α : Type} (P : α → Prop) (m : List (Nat × α)) : Prop := ∀ e ∈ m, P e.2

/-- What may be there has a property. -/
def OptOk {α : Type} (P : α → Prop) : Option α → Prop
  | some x => P x
  | none => True

/-- The bytes of a store have their canonical form. -/
def BankOk (a : Prop) (k : Bank) : Prop := MemOk a k.mem

/-- The store of a tile has its canonical form. -/
def TileOk (a : Prop) (x : Tile) : Prop := MemOk a x.store

/-- The tile stores of a lease have their canonical form. -/
def LeaseOk (a : Prop) (ls : Lease) : Prop := AllOk (TileOk a) ls.tiles

/-- The five parts have their canonical forms: the stores where `a` asks for it, the tables where `b` does. -/
structure Held (a b : Prop) (mem : List Host.Cell) (leases saved : List (Nat × Lease)) (reqs : List (Nat × Req))
    (lines : List (Nat × Line)) : Prop where
  mem : MemOk a mem
  leases : AllOk (LeaseOk a) leases
  saved : AllOk (LeaseOk a) saved
  reqs : TabOk b reqs
  lines : TabOk b lines

/-- The parts of a state have their canonical forms. -/
def Good (a b : Prop) (s : State) : Prop := Held a b s.mem s.leases s.awaitSave s.reqs s.lines

/-- A step that ends in a next state ends in a good one. -/
def Keeps (a b : Prop) : Res → Prop
  | .next t => Good a b t
  | _ => True

section
variable {m m' : List Host.Cell} {l l' w w' : List (Nat × Lease)} {r r' : List (Nat × Req)} {n n' : List (Nat × Line)}

theorem Held.setMem (h : Held a b m l w r n) (hm : MemOk a m') : Held a b m' l w r n := ⟨hm, h.2, h.3, h.4, h.5⟩
theorem Held.setLeases (h : Held a b m l w r n) (hl : AllOk (LeaseOk a) l') : Held a b m l' w r n := ⟨h.1, hl, h.3, h.4, h.5⟩
theorem Held.setSaved (h : Held a b m l w r n) (hw : AllOk (LeaseOk a) w') : Held a b m l w' r n := ⟨h.1, h.2, hw, h.4, h.5⟩
theorem Held.setReqs (h : Held a b m l w r n) (hr : TabOk b r') : Held a b m l w r' n := ⟨h.1, h.2, h.3, hr, h.5⟩
theorem Held.setLines (h : Held a b m l w r n) (hn : TabOk b n') : Held a b m l w r n' := ⟨h.1, h.2, h.3, h.4, hn⟩
end

/-! ### The same of what the model's functions return -/

/-- The first part has a property. -/
def FstOk {α β : Type} (P : α → Prop) (p : α × β) : Prop := P p.1

/-- The second part has a property. -/
def SndOk {α β : Type} (P : β → Prop) (p : α × β) : Prop := P p.2

/-- Both parts have their properties. -/
def BothOk {α β : Type} (P : α → Prop) (Q : β → Prop) (p : α × β) : Prop := P p.1 ∧ Q p.2

/-- What a success carries has a property. -/
def ExcOk {α ε : Type} (P : α → Prop) : Except ε α → Prop
  | .ok x => P x
  | .error _ => True

/-- What a failure and what a success carry have their properties. -/
def EitherOk {α ε : Type} (Q : ε → Prop) (P : α → Prop) : Except ε α → Prop
  | .ok x => P x
  | .error y => Q y

/-- The state that a reading of a descriptor leaves is good. -/
def EngOk (a b : Prop) : EngRes → Prop
  | .ok _ s | .bad _ _ s | .wait _ s | .busy s => Good a b s

/-- The state that a reading of an image leaves is good. -/
def ImgOk (a b : Prop) : ImgRes → Prop
  | .ok _ _ _ s | .bad _ _ _ s | .wait _ s | .busy s => Good a b s

/-- The state that a reading of a launch record leaves is good. -/
def RecOk (a b : Prop) : RecRes → Prop
  | .ok _ s | .bad _ _ s | .wait _ s | .busy s => Good a b s

/-- The state that an attempt on the head of a queue leaves is good. -/
def HeadOk (a b : Prop) : HeadRes → Prop
  | .started s | .noRoom s | .no s => Good a b s

/-- The state that an attempt to start a lease leaves is good. -/
def TryOk (a b : Prop) : Try → Prop
  | .started s | .refused _ s | .wait s | .noRoom _ s => Good a b s

/-- The state that a walk of the save area's pages leaves is good. -/
def SmapOk (a b : Prop) : SmapRes → Prop
  | .ok s | .bad _ _ _ s | .wait s => Good a b s

/-- The state that the taking of a frame leaves is good. -/
def FrameOk (a b : Prop) : FrameRes → Prop
  | .ok _ s | .bad s => Good a b s
  | .none => True

/-- The state in which an engine finds its place is good. -/
def AtOk (a b : Prop) : EngAt → Prop
  | .at _ _ s | .bad _ s | .wait _ s => Good a b s

/-- The state that a landing leaves is good. -/
def LandedOk (a b : Prop) : Landed → Prop
  | .ok s => Good a b s
  | .wait => True

/-- The state that a read of the sequencer or of the Shunter leaves is good. -/
def SyncOk (a b : Prop) : Sync → Prop
  | .ok _ _ s | .fault _ _ s | .wait _ s | .busy s => Good a b s

/-- The state in which a place is found is good. -/
def PlaceOk (a b : Prop) : Place → Prop
  | .ok _ _ s | .fault _ s | .wait _ s => Good a b s

/-- The state that a look at an unscrubbed unit leaves is good. -/
def GateOk (a b : Prop) : Gate → Prop
  | .zeros s | .wait s => Good a b s
  | .pass => True

/-- The state that a read on a tenant's behalf leaves is good. -/
def TvOk (a b : Prop) : TV → Prop
  | .ok _ _ s | .bad _ _ _ s | .wait s => Good a b s

/-- The state that a read of a queue's record leaves is good. -/
def QReadOk (a b : Prop) : QRead → Prop
  | .ok _ _ _ s | .bad _ s | .wait s => Good a b s

/-- The state that a fetch leaves is good. -/
def FetchedOk (a b : Prop) : Fetched → Prop
  | .run _ s | .audit _ s | .idle s => Good a b s

theorem TileOk.zero : TileOk a Tile.zero := fun _ => rfl

/-- A tile is as good as one with the same store. -/
theorem TileOk.of_store {x y : Tile} (h : TileOk a x) (e : y.store = x.store) : TileOk a y := by
  unfold TileOk
  rw [e]
  exact h

section
variable {α β : Type} {P : α → Prop} {Q : β → Prop}
theorem OptOk.get {x y : Option α} (h : OptOk P x) (e : x = y) : OptOk P y := e ▸ h
theorem ExcOk.get {ε : Type} {x y : Except ε α} (h : ExcOk P x) (e : x = y) : ExcOk P y := e ▸ h
theorem EitherOk.get {ε : Type} {R : ε → Prop} {x y : Except ε α} (h : EitherOk R P x) (e : x = y) : EitherOk R P y := e ▸ h
theorem FstOk.get {x y : α × β} (h : FstOk P x) (e : x = y) : FstOk P y := e ▸ h
theorem SndOk.get {x y : α × β} (h : SndOk Q x) (e : x = y) : SndOk Q y := e ▸ h
theorem BothOk.get {x y : α × β} (h : BothOk P Q x) (e : x = y) : BothOk P Q y := e ▸ h
theorem EngOk.get {x y : EngRes} (h : EngOk a b x) (e : x = y) : EngOk a b y := e ▸ h
theorem ImgOk.get {x y : ImgRes} (h : ImgOk a b x) (e : x = y) : ImgOk a b y := e ▸ h
theorem RecOk.get {x y : RecRes} (h : RecOk a b x) (e : x = y) : RecOk a b y := e ▸ h
theorem HeadOk.get {x y : HeadRes} (h : HeadOk a b x) (e : x = y) : HeadOk a b y := e ▸ h
theorem TryOk.get {x y : Try} (h : TryOk a b x) (e : x = y) : TryOk a b y := e ▸ h
theorem SmapOk.get {x y : SmapRes} (h : SmapOk a b x) (e : x = y) : SmapOk a b y := e ▸ h
theorem FrameOk.get {x y : FrameRes} (h : FrameOk a b x) (e : x = y) : FrameOk a b y := e ▸ h
theorem AtOk.get {x y : EngAt} (h : AtOk a b x) (e : x = y) : AtOk a b y := e ▸ h
theorem LandedOk.get {x y : Landed} (h : LandedOk a b x) (e : x = y) : LandedOk a b y := e ▸ h
theorem SyncOk.get {x y : Sync} (h : SyncOk a b x) (e : x = y) : SyncOk a b y := e ▸ h
theorem PlaceOk.get {x y : Place} (h : PlaceOk a b x) (e : x = y) : PlaceOk a b y := e ▸ h
theorem GateOk.get {x y : Gate} (h : GateOk a b x) (e : x = y) : GateOk a b y := e ▸ h
theorem TvOk.get {x y : TV} (h : TvOk a b x) (e : x = y) : TvOk a b y := e ▸ h
theorem QReadOk.get {x y : QRead} (h : QReadOk a b x) (e : x = y) : QReadOk a b y := e ▸ h
theorem FetchedOk.get {x y : Fetched} (h : FetchedOk a b x) (e : x = y) : FetchedOk a b y := e ▸ h

theorem ite_ok {c : Prop} [Decidable c] {x y : α} (hx : P x) (hy : P y) : P (if c then x else y) := by
  split
  · exact hx
  · exact hy

theorem OptOk.getD {o : Option α} {d : α} (h : OptOk P o) (hd : P d) : P (o.getD d) := by
  cases o with
  | none => exact hd
  | some x => exact h

theorem OptOk.bind {o : Option α} {f : α → Option β} (h : OptOk P o) (hf : ∀ x, P x → OptOk Q (f x)) : OptOk Q (o.bind f) := by
  cases o with
  | none => exact trivial
  | some x => exact hf x h

theorem OptOk.map {o : Option α} {f : α → β} (h : OptOk P o) (hf : ∀ x, P x → Q (f x)) : OptOk Q (o.map f) := by
  cases o with
  | none => exact trivial
  | some x => exact hf x h

theorem foldl_ok {f : α → β → α} {x : α} {l : List β} (hf : ∀ x, P x → ∀ y, P (f x y)) (h : P x) : P (l.foldl f x) :=
  foldl_keeps P f (fun x y hx => hf x hx y) l h

theorem foldl_all {f : α → Nat × β → α} {x : α} {l : List (Nat × β)} (hl : AllOk Q l)
    (hf : ∀ x, P x → ∀ e, SndOk Q e → P (f x e)) (h : P x) : P (l.foldl f x) := by
  induction l generalizing x with
  | nil => exact h
  | cons e l ih => exact ih (fun d hd => hl d (List.mem_cons_of_mem _ hd)) (hf x h e (hl e List.mem_cons_self))

/-! ### Collections -/

theorem AllOk.of_map {γ : Type} {l : List γ} {k : γ → Nat} {v : γ → α} (h : ∀ e, P (v e)) :
    AllOk P (l.map fun e => (k e, v e)) := by
  intro e he
  obtain ⟨d, _, rfl⟩ := List.mem_map.1 he
  exact h d
theorem AllOk.nil : AllOk P [] := fun _ h => absurd h List.not_mem_nil
theorem AllOk.put {m : List (Nat × α)} {k : Nat} {v : α} (h : AllOk P m) (hv : P v) : AllOk P (mput m k v) := by
  intro e he
  rcases mem_mins he with rfl | he
  · exact hv
  · exact h e (mem_mdel he)
theorem AllOk.del {m : List (Nat × α)} {k : Nat} (h : AllOk P m) : AllOk P (mdel m k) := fun e he => h e (mem_mdel he)
theorem AllOk.filter {m : List (Nat × α)} {p : Nat × α → Bool} (h : AllOk P m) : AllOk P (m.filter p) :=
  fun e he => h e (List.mem_of_mem_filter he)
theorem AllOk.find {m : List (Nat × α)} {k : Nat} (h : AllOk P m) : OptOk P (mfind m k) := by
  induction m with
  | nil => exact trivial
  | cons e m ih =>
    obtain ⟨j, v⟩ := e
    rw [mfind]
    exact ite_ok (P := OptOk P) (h (j, v) List.mem_cons_self) (ih fun e he => h e (List.mem_cons_of_mem _ he))
theorem AllOk.mod {m : List (Nat × α)} {k : Nat} {f : α → α} (h : AllOk P m) (hf : ∀ v, P v → P (f v)) : AllOk P (mmod m k f) := by
  unfold mmod
  split
  · next v e => exact h.put (hf v (h.find.get e))
  · exact h
theorem AllOk.map {m : List (Nat × α)} {f : Nat → α → α} (h : AllOk P m) (hf : ∀ k v, P v → P (f k v)) : AllOk P (mmap m f) := by
  intro e he
  obtain ⟨d, hd, rfl⟩ := List.mem_map.1 he
  exact hf _ _ (h d hd)

theorem above_mmap {k : Nat} {m : List (Nat × α)} {f : Nat → α → α} : above k (mmap m f) = above k m := by
  induction m with
  | nil => rfl
  | cons e m ih => simpa [above, mmap] using congrArg (decide (k < e.1) && ·) ih

theorem TabOk.nil {b : Prop} : TabOk b ([] : List (Nat × α)) := fun _ => rfl
theorem TabOk.put {m : List (Nat × α)} {k : Nat} {v : α} (h : TabOk b m) : TabOk b (mput m k v) := fun hb => mwf_mput _ _ (h hb)
theorem TabOk.del {m : List (Nat × α)} {k : Nat} (h : TabOk b m) : TabOk b (mdel m k) := fun hb => mwf_mdel _ (h hb)
theorem TabOk.filter {m : List (Nat × α)} {p : Nat × α → Bool} (h : TabOk b m) : TabOk b (m.filter p) := fun hb => mwf_filter _ (h hb)
theorem TabOk.set [DecidableEq α] {d v : α} {m : List (Nat × α)} {k : Nat} (h : TabOk b m) : TabOk b (mset d m k v) := by
  unfold mset
  exact ite_ok h.del h.put
theorem TabOk.mod {m : List (Nat × α)} {k : Nat} {f : α → α} (h : TabOk b m) : TabOk b (mmod m k f) := by
  unfold mmod
  split
  · exact h.put
  · exact h
theorem TabOk.map {m : List (Nat × α)} {f : Nat → α → α} (h : TabOk b m) : TabOk b (mmap m f) := by
  intro hb
  have hm : mwf m = true := h hb
  clear h
  induction m with
  | nil => rfl
  | cons e m ih =>
    obtain ⟨j, v⟩ := e
    rw [mwf_cons, Bool.and_eq_true] at hm
    have hc : mmap ((j, v) :: m) f = (j, f j v) :: mmap m f := rfl
    rw [hc, mwf_cons, above_mmap, hm.1, ih hm.2]
    rfl

theorem MemOk.nil : MemOk a [] := fun _ => rfl
theorem MemOk.wrBytes {m : List Host.Cell} {o : Nat} {bs : List Byte} (h : MemOk a m) : MemOk a (wrBytes m o bs) :=
  fun ha => wrBytes_wf _ _ (h ha)
theorem MemOk.dropRange {m : List Host.Cell} {lo hi : Nat} (h : MemOk a m) : MemOk a (dropRange m lo hi) :=
  fun ha => dropRange_wf _ _ (h ha)
theorem BankOk.bankZero {u n : Nat} {k : Bank} (h : BankOk a k) : BankOk a (bankZero u k n) := MemOk.dropRange h
theorem BankOk.bankWr {u o : Nat} {k : Bank} {bs : List Byte} {ps : List Bool} (h : BankOk a k) : BankOk a (bankWr u k o bs ps) :=
  fun ha => bankWr_wf _ _ _ (h ha)
end

end Sys2Proof.Claims
end

section
/-! SUPPORT. What the operations on leases, tiles, memory, versions, units and records keep of the canonical forms. -/

namespace Sys2Proof.Claims
open Sys2Proof Sys2Proof.Machine

variable {A B : Prop} {s : State} {l t k id i n pa va : Nat} {bs : List Byte} {ps : List Bool} {ls : Lease} {x : Tile} {xd xa xb : BitVec 5}

/-! ### Leases, tiles and registers -/

theorem Good.leaseOf (h : Good A B s) : OptOk (LeaseOk A) (leaseOf s l) := h.leases.find

theorem Good.updLease {f : Lease → Lease} (h : Good A B s) (hf : ∀ x0, LeaseOk A x0 → LeaseOk A (f x0)) :
    Good A B (updLease s l f) :=
  h.setLeases (h.leases.mod hf)

theorem LeaseOk.setSeq {rep : Bool} {q : Machine.Seq} (hl : LeaseOk A ls) : LeaseOk A (setSeq ls rep q) := ite_ok hl hl

theorem Good.updSeq {rep : Bool} {f : Machine.Seq → Machine.Seq} (h : Good A B s) : Good A B (updSeq s l rep f) :=
  h.updLease (fun _ i1 => i1.setSeq)

theorem LeaseOk.tileOf (hl : LeaseOk A ls) : OptOk (TileOk A) (tileOf ls t) := hl.find

theorem Good.updTile {f : Tile → Tile} (h : Good A B s) (hf : ∀ x0, TileOk A x0 → TileOk A (f x0)) :
    Good A B (updTile s l t f) :=
  h.updLease (fun _ i1 => i1.mod hf)

theorem TileOk.setCtx {c : Ctx} (hx : TileOk A x) : TileOk A (setCtx x k c) := hx

theorem Good.updCtx {f : Ctx → Ctx} (h : Good A B s) : Good A B (updCtx s l t k f) := h.updTile (fun _ i1 => i1.setCtx)

theorem Good.onSeq {rs : List (BitVec 5)} {f : Nat → Bool → Lease → Machine.Seq → State} (h : Good A B s)
    (hf : ∀ x0 x1 x2, LeaseOk A x2 → ∀ x3, Good A B (f x0 x1 x2 x3)) : Keeps A B (onSeq s rs f) := by
  unfold Machine.onSeq
  split
  · split
    · next e1 =>
        dsimp only
        exact ite_ok h (hf _ _ _ (h.leaseOf.get e1) _)
    · exact trivial
  · exact trivial

theorem Keeps.onLease {f : Nat → Res} (hf : ∀ x0, Keeps A B (f x0)) : Keeps A B (onLease s f) := by
  unfold Machine.onLease
  split
  · exact hf _
  · exact trivial

theorem Good.onElem {f : Nat → Nat → Nat → Lease → Tile → Ctx → Firing → State} (h : Good A B s)
    (hf : ∀ x0 x1 x2 x3, LeaseOk A x3 → ∀ x4, TileOk A x4 → ∀ x5 x6, Good A B (f x0 x1 x2 x3 x4 x5 x6)) :
    Keeps A B (onElem s f) := by
  unfold Machine.onElem
  split
  · split
    · next e1 =>
        split
        · next e2 =>
            dsimp only
            split
            · exact hf _ _ _ _ (h.leaseOf.get e1) _ ((h.leaseOf.get e1).tileOf.get e2) _ _
            · exact trivial
        · exact trivial
    · exact trivial
  · exact trivial

theorem Good.memBank (h : Good A B s) : BankOk A (memBank s) := h.mem

theorem Good.setBank {s : State} {b : Bank} (h : Good A B s) (hb : BankOk A b) : Good A B (setBank s b) := h.setMem hb

theorem Good.memWr (h : Good A B s) : Good A B (memWr s pa bs ps) := h.setBank h.memBank.bankWr

theorem TileOk.tileBank (hx : TileOk A x) : BankOk A (tileBank x) := hx

theorem BankOk.setTileBank {x : Tile} {b : Bank} (hb : BankOk A b) : TileOk A (setTileBank x b) := hb

theorem TileOk.tileWr {o : Nat} (hx : TileOk A x) : TileOk A (tileWr x o bs ps) := hx.tileBank.bankWr.setTileBank

theorem Good.wakeShunter (h : Good A B s) : Good A B (wakeShunter s) := h

theorem Good.bump (h : Good A B s) : Good A B (bump s) := h

theorem Good.updVf {v : Nat} {f : Vf → Vf} (h : Good A B s) : Good A B (updVf s v f) := h

theorem Good.updQueue {g : Nat} {f : Queue → Queue} (h : Good A B s) : Good A B (updQueue s g f) := h

theorem Good.updCoupler {f : Coupler → Coupler} (h : Good A B s) : Good A B (updCoupler s k f) := h

theorem Good.emit {o : Out} (h : Good A B s) : Good A B (emit s o) := h

theorem Good.pfEvent {code tenant lease die sub a1 a2 : Nat} (h : Good A B s) :
    Good A B (pfEvent s code tenant lease die sub a1 a2) := by
  unfold Machine.pfEvent
  dsimp only
  exact ite_ok h h

/-! ### The LLC slices -/

theorem Good.showSector (h : Good A B s) : Good A B (showSector s k) := by
  unfold Machine.showSector
  split
  · exact h.setMem h.mem.wrBytes
  · exact h

theorem Good.showHbm (h : Good A B s) : Good A B (showHbm s n) := foldl_ok (fun _ h1 _ => h1.showSector) h

theorem Good.llcInstall (h : Good A B s) : Good A B (llcInstall s pa) := by
  unfold Machine.llcInstall
  dsimp only
  split
  · exact h
  · split
    · exact h
    · split
      · exact Good.showHbm (by dsimp only [Good]; exact h.bump)
      · dsimp only [Good]
        exact h.bump

theorem Good.llcDirty (h : Good A B s) : Good A B (llcDirty s pa) := h

theorem Good.llcUse {wr : Bool} (h : Good A B s) : Good A B (llcUse wr s n) := by
  unfold Machine.llcUse
  dsimp only
  exact ite_ok h (ite_ok h.llcInstall.llcDirty h.llcInstall)

/-! ### Versioned lines -/

theorem Good.setLine {y : Line} (h : Good A B s) : Good A B (setLine s n y) := by
  unfold Machine.setLine
  extract_lets _ _ _ s1
  have hs1 : Good A B s1 := foldl_ok (fun _ h1 _ => ite_ok h1.updVf h1) h
  exact hs1.setLines hs1.lines.set

theorem Good.installData {d : BitVec 1024} {p : BitVec 4} (h : Good A B s) : Good A B (installData s n d p) := h.llcUse.memWr

theorem Good.reclaimAll {w : Nat} {p : Nat → Bool} (h : Good A B s) : Good A B (reclaimAll s w p) :=
  foldl_ok (fun _ h1 _ => ite_ok h1.setLine h1) h

theorem Good.discardPend {slot : Nat} (h : Good A B s) : Good A B (discardPend s l slot) :=
  foldl_ok (fun _ h1 _ => ite_ok h1.setLine h1) h

theorem Good.doomView {code : Nat} (h : Good A B s) : Good A B (doomView s l n code) :=
  Good.discardPend (h.updLease (fun _ i1 => i1))

theorem Good.doomShadow (h : Good A B s) : Good A B (doomShadow s l n) := Good.discardPend (h.updLease (fun _ i1 => i1))

theorem Good.revokeView {e : ViewRef} (h : Good A B s) : Good A B (revokeView s e) := by
  unfold Machine.revokeView
  dsimp only
  split
  · split
    · dsimp only [Good]
      exact h.doomView.setSaved (h.doomView.saved.mod (fun _ i1 => i1))
    · dsimp only [Good]
      exact h.setSaved (h.saved.mod (fun _ i2 => i2))
  · dsimp only [Good]
    exact h.setSaved (h.saved.mod (fun _ i3 => i3))

theorem Good.revokeOne {tenant st : Nat} (h : Good A B s) : OptOk (Good A B) (revokeOne s tenant st) := by
  unfold Machine.revokeOne
  dsimp only
  split
  · exact trivial
  · exact h.revokeView

theorem Good.takeSlot {s : State} {tenant n fuel : Nat} (h : Good A B s) : SndOk (Good A B) (takeSlot s tenant n fuel) := by
  induction fuel generalizing s with
  | zero => exact h
  | succ fuel ih =>
    have h1 : Good A B { Machine.reclaimAll s (watermark s) (fun _ => true) with wmark := watermark s } := by
      dsimp only [Good]
      exact h.reclaimAll
    unfold Machine.takeSlot
    dsimp only
    split
    · exact h
    · split
      · exact h1
      · split
        · next e => exact ih (h1.revokeOne.get e)
        · exact h1

theorem Good.getSlot {tenant : Nat} (h : Good A B s) : SndOk (Good A B) (getSlot s tenant n) := h.takeSlot

theorem Good.retain {tenant ts : Nat} (h : Good A B s) : Good A B (retain s n tenant ts) := by
  unfold Machine.retain
  split
  · next e1 =>
      dsimp only
      exact ite_ok (h.getSlot.get e1).setLine (h.getSlot.get e1).setLine

theorem Good.liveWrite {tenant : Nat} (h : Good A B s) : Good A B (liveWrite s pa tenant bs ps) := by
  unfold Machine.liveWrite
  dsimp only
  exact ite_ok h.memWr h.retain.memWr

theorem Good.pendWrite {slot tenant : Nat} {base : BitVec 1024 × BitVec 4} (h : Good A B s) :
    OptOk (Good A B) (pendWrite s l slot tenant pa va base bs ps) := by
  unfold Machine.pendWrite
  dsimp only
  split
  · exact h.setLine
  · exact ite_ok (Good.setLine h.getSlot) trivial

theorem Good.zeroUnit (h : Good A B s) : Good A B (zeroUnit s pa) := by
  unfold Machine.zeroUnit
  dsimp only
  split
  · exact foldl_ok (fun _ h1 _ => Good.setLine (foldl_ok (fun _ h2 _ => ite_ok h2.doomView h2.doomShadow) h1)) (Good.setBank h
      h.memBank.bankZero)
  · exact Good.setBank h h.memBank.bankZero

/-! ### Reads and writes of units -/

theorem Good.zeroNow {u : Nat} (h : Good A B s) : Good A B (zeroNow u s k) := by
  unfold Machine.zeroNow
  dsimp only
  dsimp only [Good]
  exact h.zeroUnit

theorem Good.unitsReady {wr : Bool} (h : Good A B s) : Good A B (unitsReady wr s pa n) := by
  unfold Machine.unitsReady
  dsimp only
  exact foldl_ok (fun _ h1 _ => h1.zeroNow) h

theorem Good.startZeroing (h : Good A B s) : Good A B (startZeroing s pa n) := foldl_ok (fun _ h1 _ => h1) h

theorem Good.memGet (h : Good A B s) : SndOk (SndOk (Good A B)) (memGet s pa n) := by
  unfold Machine.memGet
  dsimp only
  exact Good.startZeroing (foldl_ok (fun _ h1 _ => h1.llcUse) h.unitsReady)

theorem Good.memPut (h : Good A B s) : Good A B (memPut s pa bs ps) := Good.memWr (foldl_ok (fun _ h1 _ => h1.llcUse) h.unitsReady)

theorem Good.devGet {loc : Loc} (h : Good A B s) : SndOk (SndOk (Good A B)) (devGet s loc n) := by
  unfold Machine.devGet
  split
  · exact h.memGet
  · exact Good.bump (ite_ok h.emit h)
  · exact h.bump

theorem Good.hostWr {tag : HostTag} {off : Nat} (h : Good A B s) : Good A B (hostWr s tag off bs ps) := by
  unfold Machine.hostWr
  dsimp only
  exact h

theorem Good.devWr {tag : HostTag} {loc : Loc} (h : Good A B s) : Good A B (devWr s tag loc bs ps) := by
  unfold Machine.devWr
  split
  · exact h.memPut
  · exact h.hostWr
  · exact h.emit
  · exact h

/-! ### Fault records and traps -/

theorem Good.countPoison {tenant cause : Nat} (h : Good A B s) : Good A B (countPoison s tenant cause) := ite_ok h.updVf h

theorem Good.smapWr (h : Good A B s) : Good A B (smapWr s ls va bs) := by
  unfold Machine.smapWr
  split
  · split
    · exact h.devWr
    · exact h
  · exact h

theorem Good.postRec {r : FRec} (h : Good A B s) : Good A B (postRec s l r) := by
  unfold Machine.postRec
  split
  · exact h
  · dsimp only
    exact h.smapWr.smapWr.updLease (fun _ i1 => i1)

theorem Good.raise {r : FRec} (h : Good A B s) : Good A B (raise s l r) := by
  unfold Machine.raise
  split
  · exact h
  · dsimp only
    exact ite_ok h (h.countPoison.updLease (fun _ i1 => i1))

theorem Good.elemFault {c : Ctx} {fi : Firing} {w : Word} {cause faddr : Nat} {g : FRec → FRec} (h : Good A B s) :
    Good A B (elemFault s l t k ls c fi w cause faddr g) := by
  unfold Machine.elemFault
  dsimp only
  exact h.updCtx.raise

theorem Good.noteFault {cause : Nat} {g : FRec → FRec} (h : Good A B s) : Good A B (noteFault s l t k cause g) := by
  unfold Machine.noteFault
  dsimp only
  exact h.raise

theorem Good.freezeAt {c : Ctx} {cause : Nat} {f : Frozen} {g : FRec → FRec} (h : Good A B s) :
    Good A B (freezeAt s l t k c cause f g) := by
  unfold Machine.freezeAt
  dsimp only
  exact h.updCtx.raise

theorem Good.unhandled {rep : Bool} {cause : Nat} (h : Good A B s) : Good A B (unhandled s l rep cause) := by
  unfold Machine.unhandled
  split
  · exact h
  · dsimp only
    exact Good.pfEvent (Good.emit (h.updSeq.updLease (fun _ i1 => i1)))

theorem Good.takeTrap {rep : Bool} {epc : Nat} {r : FRec} (h : Good A B s) : Good A B (takeTrap s l rep epc r) := by
  unfold Machine.takeTrap
  split
  · exact h
  · dsimp only
    exact ite_ok h.unhandled h.updSeq

theorem Good.seqFaultG {rep : Bool} {cause faddr : Nat} {g : FRec → FRec} (h : Good A B s) :
    Good A B (seqFaultG s l rep cause faddr g) := by
  unfold Machine.seqFaultG
  split
  · exact h
  · dsimp only
    split
    · exact Good.unhandled (ite_ok (ite_ok h h.countPoison) (ite_ok (Good.postRec (ite_ok h h.countPoison)) (Good.updLease
        (ite_ok h h.countPoison) (fun _ i1 => i1))))
    · exact Good.takeTrap (ite_ok (ite_ok h h.countPoison) (ite_ok (Good.postRec (ite_ok h h.countPoison)) (Good.updLease
        (ite_ok h h.countPoison) (fun _ i2 => i2))))

theorem Good.seqFault {rep : Bool} {cause faddr : Nat} (h : Good A B s) : Good A B (seqFault s l rep cause faddr) := h.seqFaultG

end Sys2Proof.Claims
end

section
/-! SUPPORT. What translation, memory requests, reads of tenant memory and reading of an image keep of the canonical forms. -/

namespace Sys2Proof.Claims
open Sys2Proof Sys2Proof.Machine

variable {A B : Prop} {s : State} {l t k id i n pa va : Nat} {bs : List Byte} {ps : List Bool} {ls : Lease} {x : Tile} {xd xa xb : BitVec 5}

/-! ### Translation -/

theorem Good.devTouch {lc : Loc} (h : Good A B s) : Good A B (devTouch s lc n) := h.devGet

theorem Good.walkTouch {v : Vf} {g : Nat} {lc : Loc} (h : Good A B s) : Good A B (walkTouch s v g n lc) := by
  unfold Machine.walkTouch
  dsimp only
  refine Good.devTouch ?_
  split
  · exact h.devTouch
  · exact h

theorem Good.walkTree {tenant : Nat} {v : Vf} {a a4 : Nat} {a5 : Option Nat} {a6 : State} (h : Good A B a6) :
    SndOk (Good A B) (walkTree tenant v va a a4 a5 a6) := by
  induction a generalizing a4 a5 a6 with
  | zero =>
    unfold Machine.walkTree
    exact h
  | succ a ih =>
    unfold Machine.walkTree
    split
    · exact h
    · extract_lets s'
      have hs' : Good A B s' := h.walkTouch
      split
      · exact hs'
      · split
        · split
          · exact hs'
          · split
            · exact hs'
            · split
              · exact hs'
              · split
                · exact hs'
                · exact ite_ok hs' (ite_ok hs' (ite_ok hs' hs'))
        · split
          · exact hs'
          · split
            · exact ih hs'
            · exact ih hs'

theorem Good.walkRadix {tenant : Nat} {v : Vf} {page : Nat} {pin : Bool} {a a5 a6 : Nat} {a7 : State} (h : Good A B a7) :
    SndOk (Good A B) (walkRadix tenant v page pin a a5 a6 a7) := by
  induction a generalizing a5 a6 a7 with
  | zero =>
    unfold Machine.walkRadix
    exact h
  | succ a ih =>
    unfold Machine.walkRadix
    dsimp only
    split
    · exact h
    · exact ite_ok h.walkTouch (ite_ok h.walkTouch (ite_ok h.walkTouch (ih h.walkTouch)))

theorem Good.setDirty {tenant die : Nat} {v : Vf} {ea : Nat} (h : Good A B s) :
    ExcOk (Good A B) (setDirty s tenant die v ea) := by
  unfold Machine.setDirty
  split
  · exact trivial
  · dsimp only
    exact ite_ok h h.devWr

theorem Good.withDirty {tenant die : Nat} {v : Vf} {ea : Nat} {t : Tr} (h : Good A B s) :
    SndOk (Good A B) (withDirty s tenant die v ea t) := by
  unfold Machine.withDirty
  split
  · split
    · next e1 =>
        exact h.setDirty.get e1
    · exact h
  · exact h

theorem Good.walk {tenant die : Nat} {x : Machine.Acc} {setD : Bool} (h : Good A B s) :
    SndOk (FstOk (Good A B)) (walk s tenant die va x setD) := by
  unfold Machine.walk
  dsimp only
  split
  · next e1 =>
      exact h.walkTree.get e1
  · next e2 =>
      split
      · exact h.walkTree.get e2
      · split
        · split
          · next e3 =>
              exact (h.walkTree.get e2).walkRadix.get e3
          · next e4 =>
              exact ite_ok ((h.walkTree.get e2).walkRadix.get e4).withDirty ((h.walkTree.get e2).walkRadix.get e4)
        · exact h.walkTree.get e2

theorem LeaseOk.descFill {nonce : Nat} {d : TileDesc} (hl : LeaseOk A ls) : SndOk (LeaseOk A) (descFill ls nonce k d) := by
  unfold Machine.descFill
  dsimp only
  split
  · exact hl
  · split
    · exact hl
    · exact hl

theorem LeaseOk.tlbFill {nonce page : Nat} {e : TlbEnt} {d : Option TileDesc} (hl : LeaseOk A ls) :
    LeaseOk A (tlbFill ls nonce page e d) := by
  unfold Machine.tlbFill
  dsimp only
  split
  · dsimp only [LeaseOk]
    exact hl.descFill
  · dsimp only [LeaseOk]
    exact hl

theorem Good.translate {x : Machine.Acc} {setD : Bool} (h : Good A B s) : SndOk (Good A B) (translate s l va x setD) := by
  unfold Machine.translate
  split
  · exact h
  · dsimp only
    split
    · exact h
    · split
      · exact ite_ok (ite_ok (Good.updLease h.withDirty (fun _ i1 => i1)) h.withDirty) h
      · split
        · exact Good.bump (Good.updLease h.walk (fun _ i2 => i2.tlbFill))
        · exact h.walk

theorem Good.countRefusal {tenant : Nat} (h : Good A B s) : Good A B (countRefusal s tenant) := ite_ok h.updVf h

theorem Good.transEvents {tenant : Nat} {t : Tr} (h : Good A B s) : Good A B (transEvents s tenant l t) := by
  unfold Machine.transEvents
  split
  · dsimp only
    split
    · refine Good.countRefusal ?_
      split
      · refine Good.emit ?_
        split
        · exact h.pfEvent
        · exact h
      · split
        · exact h.pfEvent
        · exact h
    · split
      · refine Good.emit ?_
        split
        · exact h.pfEvent
        · exact h
      · split
        · exact h.pfEvent
        · exact h
  · exact h

theorem Good.newJob {x : Machine.Acc} {entry : Nat} {leaf pin : Bool} {st : JSt} (h : Good A B s) :
    FstOk (Good A B) (newJob s l va x entry leaf pin st) := by
  unfold Machine.newJob
  split
  · exact h
  · dsimp only
    exact h

theorem Good.pageRequest {x : Machine.Acc} (h : Good A B s) : FstOk (Good A B) (pageRequest s l va x) := by
  unfold Machine.pageRequest
  split
  · next e1 =>
      exact (h.bump.newJob.get e1).emit

/-! ### Memory requests -/

theorem Good.updOrd {i : Issuer} {f : OrdSt → OrdSt} (h : Good A B s) : Good A B (updOrd s i f) := by
  unfold Machine.updOrd
  split
  · exact h.updSeq
  · exact h.updTile (fun _ i1 => i1)
  · exact h

theorem Good.addReq {r : Req} (h : Good A B s) : FstOk (Good A B) (addReq s r) := by
  unfold Machine.addReq
  dsimp only
  exact Good.updOrd (h.setReqs h.reqs.put)

theorem Good.settle (h : Good A B s) : Good A B (settle s id t) := by
  unfold Machine.settle
  dsimp only [Good]
  exact Held.setReqs (h.setLeases (h.leases.map (fun _ _ i1 => by dsimp only [LeaseOk]; exact i1.map (fun _ _ i2 => i2))))
      h.reqs.map

theorem Good.updReq {f : Req → Req} (h : Good A B s) : Good A B (updReq s id f) := h.setReqs h.reqs.mod

theorem Good.setPart {p : Machine.Part} (h : Good A B s) : Good A B (setPart s id i p) := h.updReq

theorem Good.addHist {r : Req} (h : Good A B s) : Good A B (addHist s r t) := by
  unfold Machine.addHist
  split
  · exact h.updSeq
  · exact h

theorem Good.notePoison {r : Req} {w : Bool} (h : Good A B s) : Good A B (notePoison s id r w) := by
  unfold Machine.notePoison
  split
  · dsimp only
    split
    · exact h
    · split
      · exact h.updReq
      · exact ite_ok (h.updTile (fun _ i1 => i1)) h
  · exact h

theorem Good.perform (h : Good A B s) : Good A B (perform s id t) := by
  unfold Machine.perform
  split
  · exact h.notePoison.updReq.settle.addHist
  · exact h

theorem Good.checkDone {die : Nat} (h : Good A B s) : Good A B (checkDone s id die) := by
  unfold Machine.checkDone
  split
  · exact ite_ok h.perform h
  · exact h

theorem Good.reqFault {cause addr : Nat} {strad : Bool} (h : Good A B s) : Good A B (reqFault s id cause addr strad) :=
  h.updReq.settle

theorem Good.partFault {cause : Nat} {p : Machine.Part} (h : Good A B s) : Good A B (partFault s id cause p) := h.reqFault

theorem Good.vaFault {cause : Nat} (h : Good A B s) : Good A B (vaFault s id cause va) := h.reqFault

theorem Good.unitStart {a : Loc} (h : Good A B s) : Good A B (unitStart s l a) := by
  unfold Machine.unitStart
  split
  · exact h
  · exact h.updTile (fun _ i1 => i1)
  · exact h

theorem Good.passAhead {r : Req} (h : Good A B s) : Good A B (passAhead s id r) := by
  unfold Machine.passAhead
  dsimp only
  exact (Good.updOrd (by dsimp only [Good]; exact h.setReqs h.reqs.map)).updReq

theorem Good.sysFlush {s : State} {i : Issuer} (h : Good A B s) : FstOk (Good A B) (sysFlush s i) := by
  unfold Machine.sysFlush
  extract_lets o _ _ go
  have hgo : FstOk (Good A B) (o.ports.foldl go (s, [])) := by
    refine foldl_ok (P := FstOk (Good A B)) (fun a (ha : Good A B a.1) _ => Good.emit ?_) h
    exact ha.setReqs ha.reqs.put
  split
  · next e => exact (hgo.get e).updOrd

theorem Good.beforeHome {r : Req} (h : Good A B s) : Good A B (beforeHome s id r) := by
  unfold Machine.beforeHome
  split
  · split
    · split
      · next e1 =>
          exact (h.sysFlush.get e1).updReq
    · exact h
  · exact ite_ok (ite_ok h.bump.passAhead h.bump) h

theorem Good.releaseReq {p : Bool} (h : Good A B s) : Good A B (releaseReq s id p) := by
  unfold Machine.releaseReq
  dsimp only
  split
  · exact h.updReq.checkDone
  · exact h.updReq

theorem Good.releaseAt {lc : Loc} {pick : Waiter → Option Bool} (h : Good A B s) : Good A B (releaseAt s l lc pick) := by
  unfold Machine.releaseAt
  dsimp only
  exact foldl_ok (fun _ h1 _ => h1.releaseReq) h

theorem Good.recheck {lc : Loc} (h : Good A B s) : Good A B (recheck s l lc n) := by
  unfold Machine.recheck
  dsimp only
  exact foldl_ok (fun _ h1 _ => h1.releaseAt) h

theorem Good.dropCopies {die : Nat} (h : Good A B s) : Good A B (dropCopies s die pa) := h

theorem Good.putBytes {lc : Loc} (h : Good A B s) : Good A B (putBytes s l lc bs ps) := by
  unfold Machine.putBytes
  split
  · exact h.memWr.recheck
  · exact Good.recheck (h.updTile (fun _ i1 => i1.tileWr))
  · exact h

theorem Good.markStale {lc : Loc} (h : Good A B s) : Good A B (markStale s l lc va n) := by
  unfold Machine.markStale
  split
  · exact h
  · dsimp only
    exact ite_ok h (foldl_ok (fun _ h1 _ => h1.updSeq) h)

theorem Good.countDelivery {tenant : Nat} {p : Bool} {va : Option Nat} (h : Good A B s) :
    Good A B (countDelivery s tenant p va) :=
  ite_ok h.updVf h

/-! ### Reads of tenant memory -/

theorem Good.placeOf {x : Machine.Acc} (h : Good A B s) : PlaceOk A B (placeOf s l va x) := by
  unfold Machine.placeOf
  split
  · exact h
  · split
    · next e1 =>
        split
        · split
          · exact (h.translate.get e1).countRefusal
          · split
            · split
              · next e2 =>
                  exact (h.translate.get e1).pageRequest.get e2
            · exact h.translate.get e1
        · split
          · exact (h.translate.get e1).countRefusal
          · split
            · split
              · next e3 =>
                  exact (h.translate.get e1).pageRequest.get e3
            · exact h.translate.get e1
    · next e4 =>
        exact (h.translate.get e4).transEvents
    · next e5 =>
        split
        · next e6 =>
            exact (h.translate.get e5).newJob.get e6

theorem Good.vread {own : Option Bool} {a : List (Nat × Nat)} {a3 : List Byte} {a4 : List Bool} {a5 : State}
    (h : Good A B a5) : SyncOk A B (vread l own a a3 a4 a5) := by
  induction a generalizing a3 a4 a5 with
  | nil =>
    unfold Machine.vread
    exact h
  | cons e a ih =>
    unfold Machine.vread
    split
    · next e1 =>
        exact h.placeOf.get e1
    · next e2 =>
        exact h.placeOf.get e2
    · next e3 =>
        dsimp only
        split
        · exact ite_ok (h.placeOf.get e3) (ih (Good.updSeq (h.placeOf.get e3).devGet))
        · exact ite_ok (h.placeOf.get e3) (ih (h.placeOf.get e3).devGet)

/-! ### The image -/

theorem Good.rdThen {own : Option Bool} {k : List Byte → State → ImgRes} (h : Good A B s)
    (hf : ∀ x0 x1, Good A B x1 → ImgOk A B (k x0 x1)) : ImgOk A B (rdThen s l own va n k) := by
  unfold Machine.rdThen
  split
  · next e1 =>
      exact ite_ok (h.vread.get e1) (hf _ _ (h.vread.get e1))
  · next e2 =>
      exact h.vread.get e2
  · next e3 =>
      exact h.vread.get e3
  · next e4 =>
      exact h.vread.get e4

theorem Good.readImage {own : Option Bool} (h : Good A B s) : ImgOk A B (readImage s l own va) := by
  unfold Machine.readImage
  refine Good.rdThen h (fun _ _ h1 => ?_)
  split
  · exact h1
  · dsimp only
    refine Good.rdThen h1 (fun _ _ h2 => ?_)
    refine Good.rdThen h2 (fun _ _ h3 => ?_)
    refine Good.rdThen h3 (fun _ _ h4 => ?_)
    refine Good.rdThen h4 (fun _ _ h5 => ?_)
    refine Good.rdThen h5 (fun _ _ h6 => ?_)
    split
    · exact h6
    · split
      · exact h6
      · exact h6

end Sys2Proof.Claims
end

section
/-! SUPPORT. What the words of a sequencer keep of the canonical forms. -/

namespace Sys2Proof.Claims
open Sys2Proof Sys2Proof.Machine

variable {A B : Prop} {s : State} {l t k id i n pa va : Nat} {bs : List Byte} {ps : List Bool} {ls : Lease} {x : Tile} {xd xa xb : BitVec 5}

/-! ### Register, immediate and branch groups -/

theorem Good.aluDone {rep : Bool} {v : Dword} {p : Bool} (h : Good A B s) : Good A B (aluDone s l rep xd v p) := h.updSeq

theorem Good.alu2 {f : Dword → Dword → Dword} (h : Good A B s) : Keeps A B (alu2 f xd xa xb s) :=
  h.onSeq (fun _ _ _ _ _ => h.aluDone)

theorem Good.alu1 {f : Dword → Dword} (h : Good A B s) : Keeps A B (alu1 f xd xa s) := h.onSeq (fun _ _ _ _ _ => h.aluDone)

theorem Good.execAdd (h : Good A B s) : Keeps A B (execAdd xd xa xb s) := h.alu2

theorem Good.execSub (h : Good A B s) : Keeps A B (execSub xd xa xb s) := h.alu2

theorem Good.execMul (h : Good A B s) : Keeps A B (execMul xd xa xb s) := h.alu2

theorem Good.execMulh (h : Good A B s) : Keeps A B (execMulh xd xa xb s) := h.alu2

theorem Good.execMulhu (h : Good A B s) : Keeps A B (execMulhu xd xa xb s) := h.alu2

theorem Good.execDiv (h : Good A B s) : Keeps A B (execDiv xd xa xb s) := h.alu2

theorem Good.execDivu (h : Good A B s) : Keeps A B (execDivu xd xa xb s) := h.alu2

theorem Good.execRem (h : Good A B s) : Keeps A B (execRem xd xa xb s) := h.alu2

theorem Good.execRemu (h : Good A B s) : Keeps A B (execRemu xd xa xb s) := h.alu2

theorem Good.execAnd (h : Good A B s) : Keeps A B (execAnd xd xa xb s) := h.alu2

theorem Good.execOr (h : Good A B s) : Keeps A B (execOr xd xa xb s) := h.alu2

theorem Good.execXor (h : Good A B s) : Keeps A B (execXor xd xa xb s) := h.alu2

theorem Good.execShl (h : Good A B s) : Keeps A B (execShl xd xa xb s) := h.alu2

theorem Good.execShr (h : Good A B s) : Keeps A B (execShr xd xa xb s) := h.alu2

theorem Good.execSha (h : Good A B s) : Keeps A B (execSha xd xa xb s) := h.alu2

theorem Good.execSlt (h : Good A B s) : Keeps A B (execSlt xd xa xb s) := h.alu2

theorem Good.execSltu (h : Good A B s) : Keeps A B (execSltu xd xa xb s) := h.alu2

theorem Good.execMin (h : Good A B s) : Keeps A B (execMin xd xa xb s) := h.alu2

theorem Good.execMax (h : Good A B s) : Keeps A B (execMax xd xa xb s) := h.alu2

theorem Good.execMinu (h : Good A B s) : Keeps A B (execMinu xd xa xb s) := h.alu2

theorem Good.execMaxu (h : Good A B s) : Keeps A B (execMaxu xd xa xb s) := h.alu2

theorem Good.execClz (h : Good A B s) : Keeps A B (execClz xd xa s) := h.alu1

theorem Good.execPopc (h : Good A B s) : Keeps A B (execPopc xd xa s) := h.alu1

theorem Good.aluI {f : Dword → Dword → Dword} {b : Dword} (h : Good A B s) : Keeps A B (aluI f b xd xa s) :=
  h.onSeq (fun _ _ _ _ _ => h.aluDone)

theorem Good.execAddi {i : BitVec 16} (h : Good A B s) : Keeps A B (execAddi xd xa i s) := h.aluI

theorem Good.execAndi {i : BitVec 16} (h : Good A B s) : Keeps A B (execAndi xd xa i s) := h.aluI

theorem Good.execOri {i : BitVec 16} (h : Good A B s) : Keeps A B (execOri xd xa i s) := h.aluI

theorem Good.execXori {i : BitVec 16} (h : Good A B s) : Keeps A B (execXori xd xa i s) := h.aluI

theorem Good.execShli {i : BitVec 6} (h : Good A B s) : Keeps A B (execShli xd xa i s) := h.aluI

theorem Good.execShri {i : BitVec 6} (h : Good A B s) : Keeps A B (execShri xd xa i s) := h.aluI

theorem Good.execShai {i : BitVec 6} (h : Good A B s) : Keeps A B (execShai xd xa i s) := h.aluI

theorem Good.execSlti {i : BitVec 16} (h : Good A B s) : Keeps A B (execSlti xd xa i s) := h.aluI

theorem Good.execSltiu {i : BitVec 16} (h : Good A B s) : Keeps A B (execSltiu xd xa i s) := h.aluI

theorem Good.execLih {i : BitVec 16} (h : Good A B s) : Keeps A B (execLih xd i s) := h.onSeq (fun _ _ _ _ _ => h.aluDone)

theorem Good.execLik {p : BitVec 2} {i : BitVec 16} (h : Good A B s) : Keeps A B (execLik xd p i s) :=
  h.onSeq (fun _ _ _ _ _ => h.aluDone)

theorem Good.goto {rep : Bool} {target : Nat} {link : Machine.Seq → Machine.Seq} (h : Good A B s) :
    Good A B (goto s l rep ls target link) :=
  ite_ok h.updSeq h.seqFault

theorem Good.branch {c : Dword → Dword → Bool} {off : BitVec 16} (h : Good A B s) : Keeps A B (branch c xa xb off s) :=
  h.onSeq (fun _ _ _ _ _ => ite_ok h.seqFault (ite_ok h.goto h.updSeq))

theorem Good.execBeq {off : BitVec 16} (h : Good A B s) : Keeps A B (execBeq xa xb off s) := h.branch

theorem Good.execBne {off : BitVec 16} (h : Good A B s) : Keeps A B (execBne xa xb off s) := h.branch

theorem Good.execBlt {off : BitVec 16} (h : Good A B s) : Keeps A B (execBlt xa xb off s) := h.branch

theorem Good.execBge {off : BitVec 16} (h : Good A B s) : Keeps A B (execBge xa xb off s) := h.branch

theorem Good.execBltu {off : BitVec 16} (h : Good A B s) : Keeps A B (execBltu xa xb off s) := h.branch

theorem Good.execBgeu {off : BitVec 16} (h : Good A B s) : Keeps A B (execBgeu xa xb off s) := h.branch

theorem Good.execJmp {off : BitVec 26} (h : Good A B s) : Keeps A B (execJmp off s) := h.onSeq (fun _ _ _ _ _ => h.goto)

theorem Good.execJal {off : BitVec 26} (h : Good A B s) : Keeps A B (execJal off s) := h.onSeq (fun _ _ _ _ _ => h.goto)

theorem Good.execJalr {i : BitVec 16} (h : Good A B s) : Keeps A B (execJalr xd xa i s) :=
  h.onSeq (fun _ _ _ _ _ => ite_ok h.seqFault (ite_ok h.seqFault h.goto))

theorem Good.execNop (h : Good A B s) : Keeps A B (execNop s) := h.onSeq (fun _ _ _ _ _ => h.updSeq)

theorem Good.execPtest (h : Good A B s) : Keeps A B (execPtest xd xa s) := h.onSeq (fun _ _ _ _ _ => h.aluDone)

theorem Good.execPclr (h : Good A B s) : Keeps A B (execPclr xd xa s) := h.onSeq (fun _ _ _ _ _ => h.aluDone)

/-! ### Loads, stores and fences -/

theorem Good.seqIssue {rep : Bool} {q : Machine.Seq} {op : MOp} {scope : Scope} {acq rel : Bool} {p : Machine.Part}
    {dst : RDst} (h : Good A B s) : Good A B (seqIssue s l rep ls q op scope acq rel p dst) := by
  unfold Machine.seqIssue
  exact (Good.updOrd (by dsimp only [Good]; exact h.setReqs h.reqs.put)).updSeq

theorem Good.seqAccess {rep : Bool} {q : Machine.Seq} {xaP : Bool} {ea : Nat} {op : MOp} {scope : Scope} {acq rel : Bool}
    {p : Machine.Part} {dst : RDst} (h : Good A B s) : Good A B (seqAccess s l rep ls q xaP ea n op scope acq rel p dst) := by
  unfold Machine.seqAccess
  split
  · exact h
  · split
    · exact h.seqFault
    · exact h.seqIssue

theorem Good.execLd {size : MSize} {sgn ord : Bool} {off : BitVec 12} (h : Good A B s) :
    Keeps A B (execLd xd xa size sgn ord off s) :=
  h.onSeq (fun _ _ _ _ _ => h.seqAccess)

theorem Good.execSt {size : MSize} {ord : Bool} {off : BitVec 12} (h : Good A B s) : Keeps A B (execSt xd xa size ord off s) :=
  h.onSeq (fun _ _ _ _ _ => h.seqAccess)

theorem Good.amo {op : AOp} {size : ASize} {scope : Scope} (h : Good A B s) : Keeps A B (amo op xd xa xb size scope s) :=
  h.onSeq (fun _ _ _ _ _ => h.seqAccess)

theorem Good.execAmoAdd {sz : ASize} {sc : Scope} (h : Good A B s) : Keeps A B (execAmoAdd xd xa xb sz sc s) := h.amo

theorem Good.execAmoAnd {sz : ASize} {sc : Scope} (h : Good A B s) : Keeps A B (execAmoAnd xd xa xb sz sc s) := h.amo

theorem Good.execAmoOr {sz : ASize} {sc : Scope} (h : Good A B s) : Keeps A B (execAmoOr xd xa xb sz sc s) := h.amo

theorem Good.execAmoXor {sz : ASize} {sc : Scope} (h : Good A B s) : Keeps A B (execAmoXor xd xa xb sz sc s) := h.amo

theorem Good.execAmoMin {sz : ASize} {sc : Scope} (h : Good A B s) : Keeps A B (execAmoMin xd xa xb sz sc s) := h.amo

theorem Good.execAmoMax {sz : ASize} {sc : Scope} (h : Good A B s) : Keeps A B (execAmoMax xd xa xb sz sc s) := h.amo

theorem Good.execAmoMinu {sz : ASize} {sc : Scope} (h : Good A B s) : Keeps A B (execAmoMinu xd xa xb sz sc s) := h.amo

theorem Good.execAmoMaxu {sz : ASize} {sc : Scope} (h : Good A B s) : Keeps A B (execAmoMaxu xd xa xb sz sc s) := h.amo

theorem Good.execAmoXchg {sz : ASize} {sc : Scope} (h : Good A B s) : Keeps A B (execAmoXchg xd xa xb sz sc s) := h.amo

theorem Good.execAmoCas {sz : ASize} {sc : Scope} (h : Good A B s) : Keeps A B (execAmoCas xd xa xb sz sc s) := h.amo

theorem Good.sysWait {i : Issuer} {ids : NSet} (h : Good A B s) : FstOk (Good A B) (sysWait s i ids) := by
  unfold Machine.sysWait
  dsimp only
  exact ite_ok h (ite_ok h.sysFlush h)

theorem Good.execFence {kinds : BitVec 4} {sc : Scope} (h : Good A B s) : Keeps A B (execFence kinds sc s) := by
  unfold Machine.execFence
  refine Good.onSeq h (fun _ _ _ i1 _ => ?_)
  dsimp only
  split
  · exact Good.updSeq (ite_ok h.sysWait h)
  · exact Good.updSeq (ite_ok h.sysWait h)

theorem Good.execSwr {n : BitVec 10} (h : Good A B s) : Keeps A B (execSwr xa n s) :=
  h.onSeq (fun _ _ _ _ _ => ite_ok h.seqFault (ite_ok h.seqFault h.updSeq))

theorem Good.execTrap {code : BitVec 10} (h : Good A B s) : Keeps A B (execTrap code s) := h.onSeq (fun _ _ _ _ _ => h.seqFaultG)

/-! ### The version group -/

theorem Good.forceStop {cause : Nat} (h : Good A B s) : Good A B (forceStop s l cause) := h.updLease (fun _ i1 => ite_ok i1 i1)

theorem Good.unlockAll (h : Good A B s) : Good A B (unlockAll s l) := foldl_ok (fun _ h1 _ => ite_ok h1.setLine h1) h

theorem Good.rollback (h : Good A B s) : Good A B (rollback s l) := by
  unfold Machine.rollback
  split
  · exact h
  · exact ite_ok h.forceStop (h.updLease (fun _ i1 => i1))

theorem Good.mirror (h : Good A B s) : Good A B (mirror s l) := h.updLease (fun _ i1 => ite_ok i1 i1)

theorem Good.logSeq {instr : Nat} (h : Good A B s) : Good A B (logSeq s l instr) := h.updLease (fun _ i1 => ite_ok i1 i1)

theorem Good.onPair {replay : Option (State → Nat → State)} {s : State} {rs : List (BitVec 5)}
    {f : Nat → Lease → Machine.Seq → State} (h : Good A B s)
    (hr : ∀ g, replay = some g → ∀ n : Nat, Good A B (g s n)) (hf : ∀ l ls, LeaseOk A ls → ∀ q, Good A B (f l ls q)) :
    Keeps A B (onPair replay s rs f) := by
  unfold Machine.onPair
  refine h.onSeq (fun l _ ls hl q => ite_ok (hf l ls hl q) (ite_ok h (ite_ok h.rollback ?_)))
  split
  · exact (hf l ls hl q).mirror
  · next g =>
      split
      · exact Good.mirror (Good.updSeq (hr g rfl l))
      · exact (hf l ls hl q).mirror.logSeq

theorem Good.onTwins {s : State} {rs : List (BitVec 5)} {f : Nat → Lease → Machine.Seq → State} (h : Good A B s)
    (hf : ∀ l ls, LeaseOk A ls → ∀ q, Good A B (f l ls q)) : Keeps A B (onTwins s rs f) :=
  h.onPair (fun _ e => nomatch e) hf

theorem Good.onShared {s : State} {rs : List (BitVec 5)} {f : Nat → Lease → Machine.Seq → State} (h : Good A B s)
    (hf : ∀ l ls, LeaseOk A ls → ∀ q, Good A B (f l ls q)) : Keeps A B (onShared s rs f) :=
  h.onPair (fun _ e _ => by cases e; exact h) hf

theorem Good.sharedDone {v : Nat} (h : Good A B s) : Good A B (sharedDone s l xd v) := h.aluDone

theorem Good.floorNow {when : Bool} (h : Good A B s) : Good A B (floorNow s l when) := h.updLease (fun _ i1 => i1)

theorem Good.execSrd {n : BitVec 10} (h : Good A B s) : Keeps A B (execSrd xd n s) :=
  h.onTwins (fun _ _ _ _ => ite_ok h.aluDone h.seqFault)

theorem Good.openView {kind : Nat} (h : Good A B s) : Keeps A B (openView kind xd s) := by
  unfold Machine.openView
  refine Good.onTwins h (fun _ _ i1 _ => ?_)
  split
  · dsimp only
    exact Good.sharedDone (h.updLease (fun _ i2 => i2))
  · exact h.sharedDone

theorem Good.execSnap (h : Good A B s) : Keeps A B (execSnap xd s) := h.openView

theorem Good.execTxb (h : Good A B s) : Keeps A B (execTxb xd s) := h.openView

theorem Good.emptyView (h : Good A B s) : Good A B (emptyView s l n) := h.updLease (fun _ i1 => i1)

theorem Good.execSrel {n : BitVec 3} (h : Good A B s) : Keeps A B (execSrel n s) :=
  h.onTwins (fun _ _ _ _ => h.discardPend.emptyView.updSeq)

theorem Good.execTxa {n : BitVec 3} (h : Good A B s) : Keeps A B (execTxa n s) :=
  h.onTwins (fun _ _ _ _ => ite_ok h.seqFault (ite_ok h.seqFault (Good.updSeq (ite_ok h.doomView h))))

theorem Good.execTxs {n : BitVec 3} (h : Good A B s) : Keeps A B (execTxs xd n s) := h.onTwins (fun _ _ _ _ => h.sharedDone)

theorem Good.startCommit {shadow : Bool} {slot : Nat} {clean : Bool} (h : Good A B s) :
    Good A B (startCommit s l ls shadow slot clean xd) :=
  Good.updSeq (h.updLease (fun _ i1 => i1))

theorem Good.fencedDone {st : Nat} (h : Good A B s) : Good A B (fencedDone s l xd st) := by
  unfold Machine.fencedDone
  dsimp only
  exact Good.sharedDone (Good.floorNow (h.updLease (fun _ i1 => i1)))

theorem Good.execTxc {xd : BitVec 5} {n : BitVec 3} {clean : Bool} {s : State} (h : Good A B s) : Keeps A B (execTxc xd n clean s) := by
  unfold Machine.execTxc
  exact h.onPair (fun _ e _ => by cases e; exact h.emptyView) (fun _ _ _ _ => ite_ok h (ite_ok h.seqFault (ite_ok h.seqFault
    (ite_ok h (ite_ok h.emptyView.fencedDone (ite_ok h.emptyView.fencedDone (ite_ok h.discardPend.emptyView.fencedDone
      h.startCommit)))))))

theorem Good.execPubl {k : BitVec 2} {clean discard : Bool} (h : Good A B s) : Keeps A B (execPubl xd k clean discard s) :=
  h.onShared (fun _ _ _ _ => ite_ok h (ite_ok h.seqFault (ite_ok h (ite_ok (Good.fencedDone (h.discardPend.updLease (fun _ i1
      => i1))) (ite_ok (Good.fencedDone (h.discardPend.updLease (fun _ i2 => i2))) (ite_ok h.fencedDone (ite_ok
      (Good.fencedDone (h.discardPend.updLease (fun _ i3 => i3))) h.startCommit)))))))

theorem Good.endCommit {cm : Commit} {st : Nat} (h : Good A B s) : Good A B (endCommit s l cm st) := by
  unfold Machine.endCommit
  split
  · exact h
  · extract_lets _ _ s1 s2 s3 _ s4
    have hs1 : Good A B s1 := h.unlockAll
    have hs2 : Good A B s2 := ite_ok (ite_ok hs1 (hs1.discardPend.updLease (fun _ i1 => i1))) hs1.discardPend.emptyView
    have hs3 : Good A B s3 := hs2.updLease (fun _ i2 => i2)
    have hs4 : Good A B s4 := ite_ok (ite_ok hs3.forceStop hs3) hs3.fencedDone.mirror
    exact ite_ok hs4.raise hs4

theorem Good.commitLockRequestAt_lockAll {cm : Commit} {d : Nat} {a : List Nat} {a5 : State} (h : Good A B a5) :
    FstOk (Good A B) (commitLockRequestAt.lockAll l ls cm d a a5) := by
  induction a generalizing a5 with
  | nil =>
    unfold Machine.commitLockRequestAt.lockAll
    exact h
  | cons e a ih =>
    unfold Machine.commitLockRequestAt.lockAll
    split
    · dsimp only
      exact ih h.setLine
    · exact ih h
    · exact h

theorem Good.commitLockRequestAt (h : Good A B s) : Keeps A B (commitLockRequestAt l s) := by
  unfold Machine.commitLockRequestAt
  split
  · exact h
  · split
    · exact h
    · dsimp only
      split
      · exact h
      · split
        · exact h.endCommit
        · split
          · exact h.endCommit
          · split
            · exact h.endCommit
            · split
              · next e1 =>
                  exact h.commitLockRequestAt_lockAll.get e1
              · next e2 =>
                  exact (h.commitLockRequestAt_lockAll.get e2).unlockAll
              · next e3 =>
                  exact (h.commitLockRequestAt_lockAll.get e3).endCommit
              · next e4 =>
                  split
                  · exact (h.commitLockRequestAt_lockAll.get e4).endCommit
                  · exact (h.commitLockRequestAt_lockAll.get e4).updLease (fun _ i1 => i1)

theorem Good.execCommitLockRequest (h : Good A B s) : Keeps A B (execCommitLockRequest s) :=
  Keeps.onLease (fun _ => h.commitLockRequestAt)

theorem Good.commitInstallAt (h : Good A B s) : Keeps A B (commitInstallAt l s) := by
  unfold Machine.commitInstallAt
  split
  · exact h
  · split
    · exact h
    · dsimp only
      split
      · exact h
      · show Good A B _
        refine Good.updLease ?_ (fun _ i1 => i1)
        refine foldl_ok (fun _ h1 _ => ?_) h
        split
        · exact ite_ok h1.setLine h1
        · exact h1.retain.installData.setLine.recheck

theorem Good.execCommitInstall (h : Good A B s) : Keeps A B (execCommitInstall s) := Keeps.onLease (fun _ => h.commitInstallAt)

theorem Good.commitWaitEndAt (h : Good A B s) : Keeps A B (commitWaitEndAt l s) := by
  unfold Machine.commitWaitEndAt
  split
  · exact h
  · split
    · exact h
    · exact ite_ok h.endCommit h

theorem Good.execCommitWaitEnd (h : Good A B s) : Keeps A B (execCommitWaitEnd s) := Keeps.onLease (fun _ => h.commitWaitEndAt)

/-! ### The lease group -/

theorem Good.cfgTiles {x : Hdr} {im : Img} {ts : List TRec} {a : List Nat} {a6 : State} (h : Good A B a6) :
    ImgOk A B (cfgTiles l va x im ts a a6) := by
  induction a generalizing a6 with
  | nil =>
    unfold Machine.cfgTiles
    exact h
  | cons e a ih =>
    unfold Machine.cfgTiles
    dsimp only
    split
    · exact ih (Good.updTile (h.updTile (fun _ i1 => i1)) (fun _ i2 => i2))
    · refine Good.rdThen h (fun _ _ h1 => ?_)
      refine Good.rdThen h1 (fun _ _ h2 => ?_)
      refine Good.rdThen h2 (fun _ _ h3 => ?_)
      split
      · exact h3
      · exact ih (Good.updTile (h3.updTile (fun _ i3 => i3)) (fun _ i4 => i4))

theorem Good.execCfg (h : Good A B s) : Keeps A B (execCfg xd xa xb s) := by
  unfold Machine.execCfg
  refine Good.onTwins h (fun _ _ i1 _ => ?_)
  dsimp only
  split
  · split
    · exact h
    · split
      · exact h.seqFault
      · split
        · exact h.seqFault
        · split
          · exact h.seqFault
          · split
            · next e1 =>
                exact (h.readImage.get e1).seqFaultG
            · next e2 =>
                exact (h.readImage.get e2).updSeq
            · next e3 =>
                exact h.readImage.get e3
            · next e4 =>
                split
                · exact (h.readImage.get e4).seqFaultG
                · split
                  · exact (h.readImage.get e4).seqFaultG
                  · split
                    · exact (h.readImage.get e4).seqFaultG
                    · split
                      · next e5 =>
                          exact ((h.readImage.get e4).cfgTiles.get e5).seqFaultG
                      · next e6 =>
                          exact ((h.readImage.get e4).cfgTiles.get e6).updSeq
                      · next e7 =>
                          exact (h.readImage.get e4).cfgTiles.get e7
                      · next e8 =>
                          exact ((h.readImage.get e4).cfgTiles.get e8).sharedDone
  · split
    · exact h
    · split
      · exact h.seqFault
      · split
        · exact h.seqFault
        · split
          · exact h.seqFault
          · split
            · next e9 =>
                exact (h.readImage.get e9).seqFaultG
            · next e10 =>
                exact (h.readImage.get e10).updSeq
            · next e11 =>
                exact h.readImage.get e11
            · next e12 =>
                split
                · exact (h.readImage.get e12).seqFaultG
                · split
                  · exact (h.readImage.get e12).seqFaultG
                  · split
                    · exact (h.readImage.get e12).seqFaultG
                    · split
                      · next e13 =>
                          exact ((h.readImage.get e12).cfgTiles.get e13).seqFaultG
                      · next e14 =>
                          exact ((h.readImage.get e12).cfgTiles.get e14).updSeq
                      · next e15 =>
                          exact (h.readImage.get e12).cfgTiles.get e15
                      · next e16 =>
                          exact ((h.readImage.get e12).cfgTiles.get e16).sharedDone

theorem Good.goEdge {q : Machine.Seq} (h : Good A B s) : Good A B (goEdge s l q) := h.updLease (fun _ i1 => i1)

theorem Good.execGo (h : Good A B s) : Keeps A B (execGo s) :=
  h.onTwins (fun _ _ _ _ => ite_ok h (ite_ok h.seqFault (Good.updSeq (ite_ok (Good.wakeShunter (h.goEdge.updLease (fun _ i1 =>
      i1))) (h.goEdge.updLease (fun _ i2 => i2))))))

theorem Good.execWaitd (h : Good A B s) : Keeps A B (execWaitd xd s) :=
  h.onTwins (fun _ _ _ _ => ite_ok h.updSeq.sharedDone (ite_ok h h.sharedDone))

theorem Good.injectRound {hold shunter : Bool} (h : Good A B s) : Good A B (injectRound s l n hold shunter) := by
  unfold Machine.injectRound
  exact h.updLease (fun _ i1 => by dsimp only [LeaseOk]; exact i1.map (fun _ _ i2 => i2))

theorem Good.releaseRound (h : Good A B s) : Good A B (releaseRound s l) := by
  unfold Machine.releaseRound
  exact h.updLease (fun _ i1 => by dsimp only [LeaseOk]; exact i1.map (fun _ _ i2 => i2))

theorem Good.execDrain (h : Good A B s) : Keeps A B (execDrain xd xa s) := by
  unfold Machine.execDrain
  refine Good.onTwins h (fun _ _ i1 _ => ?_)
  dsimp only
  split
  · exact ite_ok (Good.sharedDone (h.updLease (fun _ i2 => i2))) h
  · split
    · exact h.updSeq
    · split
      · exact h.seqFault
      · split
        · exact ite_ok h.floorNow.sharedDone h
        · split
          · exact ite_ok h.releaseRound.sharedDone h.sharedDone
          · exact ite_ok h.releaseRound.sharedDone h.sharedDone
        · exact ite_ok h h.injectRound.updSeq

theorem Good.dropUntaken {e : StrmEnt} {x : Machine.Stream} (h : Good A B s) : Good A B (dropUntaken s l ls e x) :=
  ite_ok (ite_ok h.updCoupler h) (foldl_ok (fun _ h1 _ => h1.updCtx) h)

theorem Good.dropStrmReq {x : Machine.Stream} (h : Good A B s) : Good A B (dropStrmReq s x) := by
  unfold Machine.dropStrmReq
  split
  · exact Good.settle (h.setReqs h.reqs.del)
  · exact h

theorem Good.execStrm (h : Good A B s) : Keeps A B (execStrm xa xb s) := by
  unfold Machine.execStrm
  refine Good.onTwins h (fun _ _ i1 _ => ?_)
  dsimp only
  split
  · exact h.seqFault
  · split
    · exact h.seqFault
    · split
      · exact h.seqFault
      · split
        · exact h.seqFault
        · split
          · exact h.seqFault
          · exact Good.updSeq (Good.updLease (Good.dropStrmReq (ite_ok h.dropUntaken h)) (fun _ i2 => i2))

theorem Good.execGrpw (h : Good A B s) : Keeps A B (execGrpw xa xb s) :=
  h.onTwins (fun _ _ _ _ => ite_ok h.seqFault (ite_ok h.seqFault (Good.updSeq (h.updLease (fun _ i1 => i1)))))

end Sys2Proof.Claims
end

section
/-! SUPPORT. What the operation words of address and storage tiles and of control flow keep of the canonical forms. -/

namespace Sys2Proof.Claims
open Sys2Proof Sys2Proof.Machine

variable {A B : Prop} {s : State} {l t k id i n pa va : Nat} {bs : List Byte} {ps : List Bool} {ls : Lease} {x : Tile} {xd xa xb : BitVec 5}

/-! ### Operands -/

theorem Good.fireAt {pc : Nat} (h : Good A B s) : Good A B (fireAt s l t k pc) := h.updCtx

theorem Good.wordFault {c : Ctx} {fi : Firing} {cause faddr : Nat} {g : FRec → FRec} (h : Good A B s) :
    Good A B (wordFault s l t k ls x c fi cause faddr g) :=
  h.elemFault

theorem Good.operandFault {c : Ctx} {fi : Firing} {e : OpErr} (h : Good A B s) :
    Good A B (operandFault s l t k ls x c fi e) := by
  unfold Machine.operandFault
  split
  · exact h.wordFault
  · exact h.wordFault
  · exact h.wordFault

theorem Good.laneOp {ty : ETy} {d : Dst} {srcs : List Src} {m : Msk} {whole : Bool}
    {f : Tile → Ctx → Firing → LaneMask → Tok → List Tok → Except Nat (EOut × (Ctx → Ctx))} (h : Good A B s) :
    Keeps A B (laneOp ty d srcs m whole f s) := by
  unfold Machine.laneOp
  refine Good.onElem h (fun _ _ _ _ i1 _ i2 _ _ => ?_)
  split
  · exact h.wordFault
  · split
    · exact h.operandFault
    · dsimp only
      split
      · exact h
      · split
        · exact h.wordFault
        · exact h.updCtx.fireAt

theorem Good.elemOp {ty : ETy} {tag : BitVec 3} {d : Dst} {srcs : List Src} {m : Msk} {g : List Nat → Nat × Flg}
    (h : Good A B s) : Keeps A B (elemOp ty tag d srcs m g s) :=
  h.laneOp

/-! ### Address and storage tiles -/

theorem Good.accFault {c : Ctx} {fi : Firing} {e : Option Ext} {f : Nat × Nat × Bool} (h : Good A B s) :
    Good A B (accFault s l t k ls x c fi e f) :=
  h.wordFault

theorem Good.elemIssue {c : Ctx} {fi : Firing} {op : MOp} {parts : List Machine.Part} {dst : RDst} {e : Option Ext}
    {posted : Bool} {after : Edges} (h : Good A B s) :
    Good A B (elemIssue s l t k ls x c fi op parts dst e posted after) := by
  unfold Machine.elemIssue
  dsimp only
  exact ite_ok h.wordFault (ite_ok h (ite_ok (Good.fireAt h.addReq) (Good.updCtx h.addReq)))

theorem Good.execTdl {a : Src} (h : Good A B s) : Keeps A B (execTdl a s) := by
  unfold Machine.execTdl
  refine Good.onElem h (fun _ _ _ _ i1 _ i2 _ _ => ?_)
  split
  · exact h.operandFault
  · exact ite_ok h.wordFault (ite_ok h.wordFault (Good.fireAt (h.updCtx.updTile (fun _ i3 => i3))))

theorem Good.execGen {ty : ETy} {d : Dst} {cn : BitVec 4} {e : Option Ext} (h : Good A B s) :
    Keeps A B (execGen ty d cn e s) := by
  unfold Machine.execGen
  refine Good.onElem h (fun _ _ _ _ i1 _ i2 _ _ => ?_)
  dsimp only
  split
  · exact h
  · split
    · exact h.wordFault
    · split
      · exact h.accFault
      · split
        · exact h.accFault
        · exact ite_ok h h.elemIssue

theorem Good.execLdm {ty : ETy} {d : Dst} {a : Src} {f : Bfp} {e : Option Ext} (h : Good A B s) :
    Keeps A B (execLdm ty d a f e s) := by
  unfold Machine.execLdm
  refine Good.onElem h (fun _ _ _ _ i1 _ i2 _ _ => ?_)
  split
  · exact h
  · split
    · exact h.wordFault
    · split
      · exact h.operandFault
      · dsimp only
        split
        · exact h.accFault
        · split
          · exact h.accFault
          · exact ite_ok h h.elemIssue

theorem Good.elemStore {c : Ctx} {fi : Firing} {op : MOp} {parts : List Machine.Part} {e : Option Ext} (h : Good A B s) :
    Good A B (elemStore s l t k ls x c fi op parts e) :=
  h.elemIssue

theorem Good.execStm {d : BitVec 4} {a : Src} {f : Bfp} {e : Option Ext} (h : Good A B s) : Keeps A B (execStm d a f e s) := by
  unfold Machine.execStm
  refine Good.onElem h (fun _ _ _ _ i1 _ i2 _ _ => ?_)
  split
  · exact h.operandFault
  · dsimp only
    split
    · exact h.accFault
    · split
      · exact h.accFault
      · exact h.elemStore

theorem Good.execGath {ty : ETy} {d : Dst} {a b : Src} {f : Bfp} {e : Option Ext} (h : Good A B s) :
    Keeps A B (execGath ty d a b f e s) := by
  unfold Machine.execGath
  refine Good.onElem h (fun _ _ _ _ i1 _ i2 _ _ => ?_)
  split
  · exact h
  · split
    · exact h.wordFault
    · split
      · exact h.operandFault
      · dsimp only
        split
        · exact h.accFault
        · split
          · exact h
          · split
            · exact h.elemIssue
            · exact h.elemIssue

theorem Good.execScat {d : BitVec 4} {a b : Src} {f : Bfp} {e : Option Ext} (h : Good A B s) :
    Keeps A B (execScat d a b f e s) := by
  unfold Machine.execScat
  refine Good.onElem h (fun _ _ _ _ i1 _ i2 _ _ => ?_)
  split
  · exact h.operandFault
  · dsimp only
    split
    · exact h.accFault
    · exact h.elemStore

theorem Good.execPref {a : Src} (h : Good A B s) : Keeps A B (execPref a s) := by
  unfold Machine.execPref
  refine Good.onElem h (fun _ _ _ _ i1 _ i2 _ _ => ?_)
  split
  · exact h.operandFault
  · dsimp only
    exact ite_ok h.fireAt (Good.fireAt (ite_ok h h.addReq))

theorem Good.execOrdStep {e : Ext} (h : Good A B s) : Keeps A B (execOrdStep e s) :=
  h.onElem (fun _ _ _ _ _ _ _ _ _ => ite_ok h.accFault h.elemIssue)

theorem Good.execOrdFence {kinds : BitVec 4} {e : Ext} (h : Good A B s) : Keeps A B (execOrdFence kinds e s) :=
  h.onElem (fun _ _ _ _ _ _ _ _ _ => ite_ok h (ite_ok h.sysFlush (ite_ok h h.updOrd.fireAt)))

theorem Good.execLdt {ty : ETy} {d : Dst} {a : Src} {loc : Bool} {e : Option Ext} (h : Good A B s) :
    Keeps A B (execLdt ty d a loc e s) := by
  unfold Machine.execLdt
  refine Good.onElem h (fun _ _ _ _ i1 _ i2 _ _ => ?_)
  split
  · exact h
  · split
    · exact h.wordFault
    · split
      · exact h.operandFault
      · dsimp only
        split
        · exact h.accFault
        · split
          · exact h.accFault
          · exact ite_ok h h.elemIssue

theorem Good.execStt {d : BitVec 4} {a : Src} {loc : Bool} {e : Option Ext} (h : Good A B s) :
    Keeps A B (execStt d a loc e s) := by
  unfold Machine.execStt
  refine Good.onElem h (fun _ _ _ _ i1 _ i2 _ _ => ?_)
  split
  · exact h.operandFault
  · dsimp only
    split
    · exact h.accFault
    · split
      · exact h.accFault
      · exact h.elemStore

theorem Good.sAtomic {op : AOp} {ty : ETy} {d : Option Dst} {cmp : Option (BitVec 4)} {a b : Src} {loc : Bool}
    {e : Option Ext} (h : Good A B s) : Keeps A B (sAtomic op ty d cmp a b loc e s) := by
  unfold Machine.sAtomic
  refine Good.onElem h (fun _ _ _ _ i1 _ i2 _ _ => ?_)
  split
  · exact h
  · split
    · exact h.wordFault
    · split
      · exact h.operandFault
      · dsimp only
        split
        · exact h.accFault
        · split
          · exact h.accFault
          · split
            · exact h.accFault
            · split
              · exact h.elemStore
              · exact ite_ok h h.elemIssue

theorem Good.execAadd {ty : ETy} {a b : Src} {loc : Bool} {e : Option Ext} (h : Good A B s) :
    Keeps A B (execAadd ty a b loc e s) :=
  h.sAtomic

theorem Good.execAfad {ty : ETy} {d : Dst} {a b : Src} {loc : Bool} {e : Option Ext} (h : Good A B s) :
    Keeps A B (execAfad ty d a b loc e s) :=
  h.sAtomic

theorem Good.execAmin {ty : ETy} {a b : Src} {loc : Bool} {e : Option Ext} (h : Good A B s) :
    Keeps A B (execAmin ty a b loc e s) :=
  h.sAtomic

theorem Good.execAmax {ty : ETy} {a b : Src} {loc : Bool} {e : Option Ext} (h : Good A B s) :
    Keeps A B (execAmax ty a b loc e s) :=
  h.sAtomic

theorem Good.execAand {ty : ETy} {a b : Src} {loc : Bool} {e : Option Ext} (h : Good A B s) :
    Keeps A B (execAand ty a b loc e s) :=
  h.sAtomic

theorem Good.execAor {ty : ETy} {a b : Src} {loc : Bool} {e : Option Ext} (h : Good A B s) :
    Keeps A B (execAor ty a b loc e s) :=
  h.sAtomic

theorem Good.execAxor {ty : ETy} {a b : Src} {loc : Bool} {e : Option Ext} (h : Good A B s) :
    Keeps A B (execAxor ty a b loc e s) :=
  h.sAtomic

theorem Good.execAxch {ty : ETy} {d : Dst} {a b : Src} {loc : Bool} {e : Option Ext} (h : Good A B s) :
    Keeps A B (execAxch ty d a b loc e s) :=
  h.sAtomic

theorem Good.execAcas {ty : ETy} {d : BitVec 4} {a b : Src} {loc : Bool} {e : Option Ext} (h : Good A B s) :
    Keeps A B (execAcas ty d a b loc e s) :=
  h.sAtomic

theorem Good.execSyna {a b : Src} {loc grp : Bool} {e : Option Ext} (h : Good A B s) :
    Keeps A B (execSyna a b loc grp e s) := by
  unfold Machine.execSyna
  refine Good.onElem h (fun _ _ _ _ i1 _ i2 _ _ => ?_)
  split
  · exact h.operandFault
  · dsimp only
    split
    · exact h.accFault
    · split
      · exact h.accFault
      · split
        · exact h.accFault
        · exact ite_ok h.wordFault (ite_ok h (ite_ok h.elemIssue (h.elemIssue.updTile (fun _ i3 => i3))))

theorem Good.execSynw {d : Dst} {a b : Src} {loc : Bool} {e : Option Ext} (h : Good A B s) :
    Keeps A B (execSynw d a b loc e s) := by
  unfold Machine.execSynw
  refine Good.onElem h (fun _ _ _ _ i1 _ i2 _ _ => ?_)
  split
  · exact h
  · split
    · exact h.wordFault
    · split
      · exact h.operandFault
      · dsimp only
        split
        · exact h.accFault
        · split
          · exact h.accFault
          · split
            · exact h.accFault
            · exact ite_ok h h.elemIssue

/-! ### Ports, branches, barriers -/

theorem Good.overflowFault {c : Ctx} {fi : Firing} {port a b : Nat} (h : Good A B s) :
    Good A B (overflowFault s l t k ls x c fi port a b) :=
  h.wordFault

theorem Good.execWaitf {p : BitVec 3} {n : BitVec 6} (h : Good A B s) : Keeps A B (execWaitf p n s) :=
  h.onElem (fun _ _ _ _ _ _ _ _ _ => ite_ok h.wordFault (ite_ok h.overflowFault (ite_ok h.fireAt h)))

theorem Good.execWaite {p : BitVec 2} {n : BitVec 6} (h : Good A B s) : Keeps A B (execWaite p n s) :=
  h.onElem (fun _ _ _ _ _ _ _ _ _ => ite_ok h.wordFault (ite_ok h.overflowFault (ite_ok h.fireAt h)))

theorem Good.execAdv {p : BitVec 3} {n : BitVec 6} (h : Good A B s) : Keeps A B (execAdv p n s) :=
  h.onElem (fun _ _ _ _ _ _ _ _ _ => ite_ok h.wordFault (ite_ok h.overflowFault h.updCtx.fireAt))

theorem Good.execPub {p : BitVec 2} {n : BitVec 6} (h : Good A B s) : Keeps A B (execPub p n s) :=
  h.onElem (fun _ _ _ _ _ _ _ _ _ => ite_ok h.wordFault (ite_ok h.wordFault (ite_ok h.overflowFault h.updCtx.fireAt)))

theorem Good.execPeek {d : Dst} {p : BitVec 3} {slot : BitVec 6} (h : Good A B s) : Keeps A B (execPeek d p slot s) := by
  unfold Machine.execPeek
  refine Good.onElem h (fun _ _ _ _ i1 _ i2 _ _ => ?_)
  dsimp only
  split
  · exact h.wordFault
  · split
    · exact ite_ok h h.updCtx.fireAt
    · split
      · exact ite_ok h h.updCtx.fireAt
      · exact h.overflowFault

theorem Good.execEmit {p : BitVec 2} {a : Src} (h : Good A B s) : Keeps A B (execEmit p a s) := by
  unfold Machine.execEmit
  refine Good.onElem h (fun _ _ _ _ i1 _ i2 _ _ => ?_)
  dsimp only
  split
  · exact h.wordFault
  · split
    · exact h.operandFault
    · exact ite_ok h.wordFault (ite_ok h h.updCtx.fireAt)

theorem Good.send {m : Msg} (h : Good A B s) : Good A B (send s l m) := h.updLease (fun _ i1 => i1)

theorem Good.sendDone (h : Good A B s) : Good A B (sendDone s l t k) := by
  unfold Machine.sendDone
  split
  · exact h
  · split
    · exact h.send
    · exact h

theorem Good.finishGo (h : Good A B s) : Good A B (finishGo s l t k) := h.updCtx.sendDone

theorem TileOk.freeEb {x : Tile} {b : EdgeBuf} (hx : TileOk A x) : TileOk A (freeEb x b) := by
  unfold Machine.freeEb
  extract_lets _ _ _ _ x1
  have hx1 : TileOk A x1 := ite_ok hx.tileWr hx
  exact foldl_ok (P := MemOk A) (fun _ hm _ => hm.dropRange) hx1

theorem Good.freeEdges (h : Good A B s) : Good A B (freeEdges s l t k) := by
  unfold Machine.freeEdges
  exact h.updLease (fun _ i1 => by dsimp only [LeaseOk]; exact i1.map (fun _ _ i2 => foldl_ok (fun _ i3 _ => i3.freeEb) i2))

theorem Good.closeCtx (h : Good A B s) : Good A B (closeCtx s l t k) := by
  unfold Machine.closeCtx
  dsimp only
  exact ite_ok h.updCtx.finishGo h.updCtx

theorem Good.execEos {p : Option (BitVec 2)} (h : Good A B s) : Keeps A B (execEos p s) := by
  unfold Machine.execEos
  refine Good.onElem h (fun _ _ _ _ i1 _ i2 _ _ => ?_)
  dsimp only
  split
  · exact h.wordFault
  · split
    · exact h.wordFault
    · exact ite_ok h (Good.fireAt (ite_ok (Good.closeCtx (ite_ok h.updCtx h.updCtx.freeEdges)) (ite_ok h.updCtx
        h.updCtx.freeEdges)))

theorem Good.endFiring {fi : Firing} (h : Good A B s) : Good A B (endFiring s l t k x fi) := by
  unfold Machine.endFiring
  dsimp only
  exact ite_ok (ite_ok h.updCtx.finishGo h.updCtx.updCtx) h.updCtx

theorem Good.execExit (h : Good A B s) : Keeps A B (execExit s) := by
  unfold Machine.execExit
  refine Good.onElem h (fun _ _ _ _ i1 _ i2 _ _ => ?_)
  split
  · exact h.wordFault
  · exact h.endFiring

theorem Good.branchTo {c : Ctx} {fi : Firing} {off : BitVec 11} (h : Good A B s) :
    Good A B (branchTo s l t k ls x c fi off) := by
  unfold Machine.branchTo
  dsimp only
  exact ite_ok h.wordFault h.fireAt

theorem Good.execBr {off : BitVec 11} (h : Good A B s) : Keeps A B (execBr off s) := h.onElem (fun _ _ _ _ _ _ _ _ _ => h.branchTo)

theorem Good.branchIf {z : Bool} {a : Src} {off : BitVec 11} (h : Good A B s) : Keeps A B (branchIf z a off s) := by
  unfold Machine.branchIf
  refine Good.onElem h (fun _ _ _ _ i1 _ i2 _ _ => ?_)
  split
  · exact h.operandFault
  · exact ite_ok h.wordFault (ite_ok h.branchTo h.fireAt)

theorem Good.execBz {a : Src} {off : BitVec 11} (h : Good A B s) : Keeps A B (execBz a off s) := h.branchIf

theorem Good.execBnz {a : Src} {off : BitVec 11} (h : Good A B s) : Keeps A B (execBnz a off s) := h.branchIf

theorem Good.execLoop {d : BitVec 4} {off : BitVec 11} (h : Good A B s) : Keeps A B (execLoop d off s) :=
  h.onElem (fun _ _ _ _ _ _ _ _ _ => ite_ok h.wordFault (ite_ok (ite_ok h.wordFault h.updCtx.fireAt) h.updCtx.fireAt))

theorem Good.execGbar {g : BitVec 8} (h : Good A B s) : Keeps A B (execGbar g s) := by
  unfold Machine.execGbar
  refine Good.onElem h (fun _ _ _ _ i1 _ i2 _ _ => ?_)
  dsimp only
  split
  · exact ite_ok h (ite_ok h h.fireAt)
  · exact ite_ok h.wordFault h.send.updCtx

theorem Good.execElementTrap {code : BitVec 8} (h : Good A B s) : Keeps A B (execElementTrap code s) :=
  h.onElem (fun _ _ _ _ _ _ _ _ _ => h.wordFault)

theorem Good.execElementNop (h : Good A B s) : Keeps A B (execElementNop s) := h.onElem (fun _ _ _ _ _ _ _ _ _ => h.fireAt)

theorem Good.execNonInstr {_w : Word} (h : Good A B s) : Keeps A B (execNonInstr _w s) :=
  h.onElem (fun _ _ _ _ _ _ _ _ _ => h.wordFault)

theorem Good.execIllegalOp {w : Word} (h : Good A B s) : Keeps A B (execIllegalOp w s) := by
  unfold Machine.execIllegalOp
  split
  · exact h.onSeq (fun _ _ _ _ _ => h.seqFaultG)
  · exact h.onElem (fun _ _ _ _ _ _ _ _ _ => h.wordFault)

theorem Good.execRdct {d : Dst} {n : BitVec 11} (h : Good A B s) : Keeps A B (execRdct d n s) :=
  h.onElem (fun _ _ _ _ _ _ _ _ _ => ite_ok h.wordFault (ite_ok h.wordFault (ite_ok h h.updCtx.fireAt)))

theorem Good.execCtrw {a : Src} {n : BitVec 11} (h : Good A B s) : Keeps A B (execCtrw a n s) := by
  unfold Machine.execCtrw
  refine Good.onElem h (fun _ _ _ _ i1 _ i2 _ _ => ?_)
  split
  · exact h.operandFault
  · exact ite_ok h.wordFault h.updCtx.fireAt

end Sys2Proof.Claims
end

section
/-! SUPPORT. What the memory path, replies, chain trackers and pagers keep of the canonical forms. -/

namespace Sys2Proof.Claims
open Sys2Proof Sys2Proof.Machine

variable {A B : Prop} {s : State} {l t k id i n pa va : Nat} {bs : List Byte} {ps : List Bool} {ls : Lease} {x : Tile} {xd xa xb : BitVec 5}

/-! ### The memory path -/

theorem Good.seqPassed {r : Req} (h : Good A B s) : Good A B (seqPassed s id r) := by
  unfold Machine.seqPassed
  split
  · split
    · exact h.updSeq
    · exact h
    · exact h.updSeq
  · exact h

theorem Good.translateParts {x : Machine.Acc} {setD : Bool} {a : List Machine.Part} {a4 : State} (h : Good A B a4) :
    FstOk (Good A B) (translateParts l x setD a a4) := by
  induction a generalizing a4 with
  | nil =>
    unfold Machine.translateParts
    exact h
  | cons e a ih =>
    unfold Machine.translateParts
    split
    · next e1 =>
        exact ih (h.translate.get e1)

theorem Good.sendOut {r : Req} {p : Machine.Part} (h : Good A B s) : Good A B (sendOut s id ls r i p) := by
  unfold Machine.sendOut
  split
  · dsimp only
    exact ite_ok h.hostWr.setPart.updOrd (ite_ok h.setPart h.emit)
  · exact h.emit
  · exact h

theorem Good.sendAll {r : Req} (h : Good A B s) : Good A B (sendAll s id ls r) := foldl_ok (fun _ h1 _ => h1.sendOut) h

theorem Good.leaveSlice {r : Req} {ps : List Machine.Part} (h : Good A B s) : Good A B (leaveSlice s id ls r ps) := by
  unfold Machine.leaveSlice
  dsimp only
  refine Good.sendAll ?_
  refine Good.updReq ?_
  refine Good.bump ?_
  split
  · refine foldl_ok (fun _ h1 _ => ?_) h
    split
    · exact h1.dropCopies
    · exact h1
  · exact h

theorem Good.dropPref (h : Good A B s) : Good A B (dropPref s id) := Good.settle (h.setReqs h.reqs.del)

theorem Good.execAddressTokenAtSlice (h : Good A B s) : Keeps A B (execAddressTokenAtSlice id s) := by
  unfold Machine.execAddressTokenAtSlice
  split
  · exact h
  · split
    · dsimp only
      split
      · exact h
      · split
        · split
          · split
            · exact Good.dropPref (Good.translateParts h.translateParts)
            · exact Good.updReq (Good.translateParts h.translateParts)
          · exact ite_ok (Good.dropPref h.translateParts) (Good.updReq h.translateParts)
        · split
          · exact Good.partFault (Good.transEvents (ite_ok (Good.translateParts h.translateParts) h.translateParts))
          · split
            · exact Good.updReq (Good.newJob (ite_ok (Good.translateParts h.translateParts) h.translateParts))
            · split
              · exact Good.partFault (ite_ok (Good.translateParts h.translateParts) h.translateParts)
              · split
                · split
                  · exact ite_ok (Good.beforeHome (Good.translateParts h.translateParts)) (Good.translateParts h.translateParts)
                  · split
                    · exact Good.updReq (Good.pageRequest (Good.translateParts h.translateParts))
                    · show Good A B _
                      refine Good.checkDone ?_
                      split
                      · exact Good.leaveSlice (Good.translateParts h.translateParts)
                      · refine foldl_ok (fun _ h1 _ => ?_) (Good.leaveSlice (Good.translateParts h.translateParts)).seqPassed
                        split
                        · exact h1.seqPassed
                        · exact h1
                · split
                  · exact ite_ok (Good.beforeHome h.translateParts) h.translateParts
                  · split
                    · exact Good.updReq (Good.pageRequest h.translateParts)
                    · show Good A B _
                      refine Good.checkDone ?_
                      split
                      · exact Good.leaveSlice h.translateParts
                      · refine foldl_ok (fun _ h2 _ => ?_) (Good.leaveSlice h.translateParts).seqPassed
                        split
                        · exact h2.seqPassed
                        · exact h2
    · exact h

theorem Good.refuseTenant {r : Req} {p : Machine.Part} (h : Good A B s) : Good A B (refuseTenant s id r p) := by
  unfold Machine.refuseTenant
  dsimp only
  split
  · exact h.dropPref
  · dsimp only [Good]
    exact h.countRefusal.emit.setReqs h.countRefusal.reqs.del
  · exact h.countRefusal.partFault

theorem Good.putCopy {c : Copy} (h : Good A B s) : Good A B (putCopy s c) := by
  unfold Machine.putCopy
  dsimp only
  exact ite_ok h.bump (by dsimp only [Good]; exact h.bump)

theorem Good.fillAt {i : Issuer} {stamp : Nat} (h : Good A B s) : Good A B (fillAt s i pa stamp) := by
  unfold Machine.fillAt
  dsimp only
  exact ite_ok h.putCopy h

theorem Good.fillCopy {r : Req} (h : Good A B s) : Good A B (fillCopy s r pa) := ite_ok h.fillAt h

theorem Good.registerWait {r : Req} {p : Machine.Part} {g : Nat} (h : Good A B s) : Good A B (registerWait s id i r p g) := by
  unfold Machine.registerWait
  exact ite_ok h.partFault (ite_ok h.releaseReq (by dsimp only [Good]; exact h.setPart))

theorem Good.atHome {r : Req} {p : Machine.Part} {die : Nat} (h : Good A B s) : Good A B (atHome s id i r p die) := by
  unfold Machine.atHome
  dsimp only
  split
  · split
    · split
      · exact h.setPart.checkDone
      · exact h.setPart
    · split
      · refine Good.checkDone ?_
        split
        · exact h.setPart.fillCopy
        · exact h.setPart
      · exact h.setPart
  · exact ite_ok h.setPart h.markStale.putBytes.setPart.checkDone
  · exact h.registerWait
  · refine Good.checkDone ?_
    split
    · exact ite_ok h.setPart.fillAt h.setPart
    · exact h.setPart
  · exact h.setPart

theorem Good.backToGate {s : State} {id i : Nat} (h : Good A B s) : OptOk (Good A B) (backToGate s id i) := by
  unfold Machine.backToGate
  cases reqOf s id with
  | none => exact trivial
  | some r =>
    rw [Option.bind_some]
    cases r.parts[i]? with
    | none => exact trivial
    | some p => exact ite_ok (P := OptOk (Good A B)) h.setPart trivial

theorem Keeps.perUnit {f : Nat → State → State} (hf : ∀ x0 x1, Good A B x1 → Good A B (f x0 x1)) (h : Good A B s) :
    Keeps A B (perUnit id i f s) := by
  unfold Machine.perUnit
  split
  · next e1 =>
      exact h.backToGate.get e1
  · exact foldl_ok (fun _ h1 _ => hf _ _ h1) h
  · exact h

theorem Good.unitGate {r : Req} {p : Machine.Part} (h : Good A B s) : GateOk A B (unitGate s id i r p) := by
  unfold Machine.unitGate
  dsimp only
  split
  · exact ite_ok h h
  · exact ite_ok (ite_ok h.unitStart (Good.unitStart (ite_ok h h))) (ite_ok trivial (ite_ok h h))

theorem Good.arrivePart {held : Bool} {serve : Bool → Req → Machine.Part → State → State} {r : Req} {p : Machine.Part}
    (hf : ∀ x0 x1 x2 x3, Good A B x3 → Good A B (serve x0 x1 x2 x3)) (h : Good A B s) :
    Good A B (arrivePart id i held serve s r p) := by
  unfold Machine.arrivePart
  split
  · exact ite_ok h.beforeHome h
  · split
    · exact h
    · split
      · exact h.refuseTenant
      · split
        · exact hf _ _ _ _ h
        · next e1 =>
            exact hf _ _ _ _ (h.unitGate.get e1)
        · next e2 =>
            exact h.unitGate.get e2

theorem Good.atSlice {r : Req} {p : Machine.Part} (h : Good A B s) : Good A B (atSlice s id i r p pa) := h.llcUse.atHome

theorem Good.hbmPart {useCopy : Bool} (h : Good A B s) : Good A B (hbmPart useCopy id i s) := by
  unfold Machine.hbmPart
  split
  · exact h
  · split
    · split
      · exact h
      · split
        · exact h.setPart.checkDone
        · exact Good.arrivePart (fun _ _ _ _ h1 => ite_ok h1.atSlice h1.setPart) h
    · exact h

theorem Good.execHbmRequest {useCopy : Bool} (h : Good A B s) : Keeps A B (execHbmRequest id i useCopy s) :=
  Keeps.perUnit (fun _ _ h1 => h1.hbmPart) h

theorem Good.fillPart (h : Good A B s) : Good A B (fillPart id i s) := by
  unfold Machine.fillPart
  split
  · exact h
  · split
    · exact ite_ok h.atSlice h
    · exact h

theorem Good.execLlcMissFill (h : Good A B s) : Keeps A B (execLlcMissFill id i s) := Keeps.perUnit (fun _ _ h1 => h1.fillPart) h

theorem Good.scratchPart (h : Good A B s) : Good A B (scratchPart id i s) := by
  unfold Machine.scratchPart
  split
  · exact h
  · split
    · exact ite_ok h (Good.arrivePart (fun _ _ _ _ h1 => h1.atHome) h)
    · exact h

theorem Good.execDieScratchRequest (h : Good A B s) : Keeps A B (execDieScratchRequest id i s) :=
  Keeps.perUnit (fun _ _ h1 => h1.scratchPart) h

theorem Good.tilePart (h : Good A B s) : Good A B (tilePart id i s) := by
  unfold Machine.tilePart
  split
  · exact h
  · split
    · exact ite_ok h (Good.arrivePart (fun _ _ _ _ h1 => h1.atHome) h)
    · exact h

theorem Good.execTileStoreRequest (h : Good A B s) : Keeps A B (execTileStoreRequest id i s) :=
  Keeps.perUnit (fun _ _ h1 => h1.tilePart) h

theorem Good.execUnitZeroingDone {u : UnitLoc} (h : Good A B s) : Keeps A B (execUnitZeroingDone u s) := by
  unfold Machine.execUnitZeroingDone
  split
  · extract_lets t
    have ht : Good A B t := h.zeroUnit
    exact ite_ok ht h
  · extract_lets t
    have ht : Good A B t := h.zeroUnit
    exact ite_ok ht h
  · exact h.updTile (fun _ i1 => ite_ok (by dsimp only [TileOk]; exact i1.tileBank.bankZero.setTileBank) i1)

theorem Good.execReachThroughCopyExpiry {die tenant line : Nat} (h : Good A B s) :
    Keeps A B (execReachThroughCopyExpiry die tenant line s) :=
  h

theorem Good.snapPart (h : Good A B s) : Good A B (snapPart id i s) := by
  unfold Machine.snapPart
  split
  · exact h
  · split
    · exact h
    · split
      · split
        · exact h
        · split
          · exact h.setPart
          · split
            · exact h.setPart.checkDone
            · exact h.partFault
      · exact h

theorem Good.execSnapshotRead (h : Good A B s) : Keeps A B (execSnapshotRead id i s) := Keeps.perUnit (fun _ _ h1 => h1.snapPart) h

theorem Good.execLockWaitResume (h : Good A B s) : Keeps A B (execLockWaitResume id i s) := by
  unfold Machine.execLockWaitResume
  split
  · exact h
  · split
    · exact h
    · split
      · exact ite_ok h.setPart h
      · exact h

theorem FstOk.livePart {fadd : Nat → Nat → Nat} {a : State × Bool} (hp : FstOk (Good A B) a) :
    FstOk (Good A B) (livePart fadd id a i) := by
  unfold Machine.livePart
  split
  · exact hp
  · split
    · exact hp
    · split
      · split
        · split
          · split
            · dsimp only
              exact Good.setPart (Good.recheck (ite_ok (Good.markStale hp).memWr (Good.markStale hp).liveWrite))
            · exact Good.setPart hp
      · exact hp

theorem Good.liveWriteVersioned {fadd : Nat → Nat → Nat} (h : Good A B s) : Keeps A B (liveWriteVersioned fadd id i s) := by
  unfold Machine.liveWriteVersioned
  split
  · exact h
  · split
    · exact h
    · split
      · split
        · exact h
        · exact ite_ok h.setPart (Good.checkDone (foldl_ok (P := FstOk (Good A B)) (fun _ i1 _ => i1.livePart) h))
      · exact h

theorem Good.pendPart {fadd : Nat → Nat → Nat} {id i : Nat} {s : State} (h : Good A B s) : Good A B (pendPart fadd id i s) := by
  unfold Machine.pendPart
  split
  · exact h
  · split
    · exact h
    · split
      · extract_lets l shadow _ slot v doomed base fresh full s0 s1
        have hs0 : Good A B s0 := ite_ok (Good.updLease h (fun _ hl => hl)) h
        have hs1 : Good A B s1 := ite_ok h.doomShadow h.doomView
        clear_value base full s0 s1
        refine ite_ok h (ite_ok h.partFault (ite_ok h.setPart.checkDone ?_))
        cases base with
        | none => exact ite_ok h.setPart h.partFault
        | some b =>
          dsimp only
          split
          · exact h.setPart.checkDone
          · next nb nq _ =>
              have hw (t pa va : Nat) : OptOk (Good A B) (if full then none else Machine.pendWrite s0 l slot t pa va b nb nq) :=
                ite_ok (P := OptOk (Good A B)) trivial hs0.pendWrite
              split
              · next e => exact Good.checkDone (Good.setPart (ite_ok (Good.updLease ((hw _ _ _).get e) (fun _ hl => hl)) ((hw _ _ _).get e)))
              · exact hs1.setPart.checkDone
      · exact h

theorem Good.pendingVersionWrite {fadd : Nat → Nat → Nat} (h : Good A B s) : Keeps A B (pendingVersionWrite fadd id i s) :=
  Keeps.perUnit (fun _ _ h1 => h1.pendPart) h

theorem Good.atomPart {fadd : Nat → Nat → Nat} (h : Good A B s) : Good A B (atomPart fadd id s i) := by
  unfold Machine.atomPart
  split
  · exact h
  · split
    · exact h
    · dsimp only
      refine Good.setPart ?_
      split
      · exact h.markStale.putBytes.notePoison
      · exact h

theorem Good.atomicAtHome {fadd : Nat → Nat → Nat} (h : Good A B s) : Keeps A B (atomicAtHome fadd id i s) := by
  unfold Machine.atomicAtHome
  split
  · exact h
  · split
    · exact ite_ok h (Good.checkDone (foldl_ok (fun _ h1 _ => h1.atomPart) h))
    · exact h

theorem Good.arriveAt {lc : Loc} {pois : Bool} (h : Good A B s) : OptOk (Good A B) (arriveAt s l lc n pois) := by
  unfold Machine.arriveAt
  split
  · split
    · exact trivial
    · split
      · exact h
      · split
        · dsimp only
          split
          · exact Good.recheck (foldl_ok (fun _ h1 _ => h1.releaseAt) h.memWr)
          · exact Good.recheck (foldl_ok (fun _ h2 _ => h2.releaseAt) (h.updTile (fun _ i1 => i1.tileWr)))
          · exact Good.recheck (foldl_ok (fun _ h3 _ => h3.releaseAt) h)

theorem Good.execSyncArrival (h : Good A B s) : Keeps A B (execSyncArrival id s) := by
  unfold Machine.execSyncArrival
  split
  · exact h
  · split
    · split
      · exact h
      · split
        · exact h.partFault
        · next e1 =>
            exact (h.arriveAt.get e1).setPart.checkDone
    · exact h

theorem Good.invDrop {v page : Nat} {all : Bool} (h : Good A B s) : Good A B (invDrop s v page n all) := by
  unfold Machine.invDrop
  dsimp only [Good]
  exact h.setLeases (h.leases.map (fun _ _ i1 => ite_ok i1 i1))

theorem Good.execAtsInvalidationRequest {v page : Nat} (h : Good A B s) : Keeps A B (execAtsInvalidationRequest v page n s) :=
  h.invDrop.updVf

theorem Good.execInvctlGo {v : Nat} {val : Dword} (h : Good A B s) : Keeps A B (execInvctlGo v val s) := by
  unfold Machine.execInvctlGo
  dsimp only
  exact ite_ok h.invDrop.updVf h.updVf

theorem Good.execInvalidationComplete {v : Nat} (h : Good A B s) : Keeps A B (execInvalidationComplete v s) := by
  unfold Machine.execInvalidationComplete
  dsimp only
  exact ite_ok (Good.emit (Good.updVf (ite_ok h.updVf h))) (ite_ok h.updVf h)

theorem Good.execHostCompletion {st : CplStatus} {ep : Bool} {data : List Byte} (h : Good A B s) :
    Keeps A B (execHostCompletion id i st ep data s) := by
  unfold Machine.execHostCompletion
  split
  · exact h
  · split
    · exact h
    · split
      · dsimp only
        exact ite_ok h (Good.checkDone (Good.setPart (ite_ok h.emit h)))
      · exact h

theorem Good.execLinkFlitRetry {_id : Nat} (h : Good A B s) : Keeps A B (execLinkFlitRetry _id s) := h

/-! ### Replies -/

theorem Good.execLiveWriteVersioned (h : Good A B s) : Keeps A B (execLiveWriteVersioned id i s) := h.liveWriteVersioned

theorem Good.execPendingVersionWrite (h : Good A B s) : Keeps A B (execPendingVersionWrite id i s) := h.pendingVersionWrite

theorem Good.execAtomicAtHome (h : Good A B s) : Keeps A B (execAtomicAtHome id i s) := h.atomicAtHome

theorem Good.deliverSeq {rep : Bool} {r : Req} (h : Good A B s) : Good A B (deliverSeq s id l rep r) := by
  unfold Machine.deliverSeq
  split
  · dsimp only
    exact h.updSeq
  · exact h

theorem Good.genDone {r : Req} (h : Good A B s) : Good A B (genDone s l t k r) := by
  unfold Machine.genDone
  split
  · exact h
  · exact h.updTile (fun _ i1 => i1)

theorem Good.deliverElem {r : Req} (h : Good A B s) : Good A B (deliverElem s id l t k r) := by
  unfold Machine.deliverElem
  split
  · exact h.genDone.updCtx
  · exact h

theorem Good.deliverStream {sid : Nat} {r : Req} (h : Good A B s) : Good A B (deliverStream s id l sid r) :=
  h.updLease (fun _ i1 => i1)

theorem Good.updEng {f : EngOp → EngOp} (h : Good A B s) : Good A B (updEng s l t f) := h.updLease (fun _ i1 => i1)

theorem Good.deliverEngine {r : Req} (h : Good A B s) : Good A B (deliverEngine s id l t r) := by
  unfold Machine.deliverEngine
  dsimp only
  exact h.updEng

theorem Good.deliver {r : Req} (h : Good A B s) : Good A B (deliver s id r) := by
  unfold Machine.deliver
  split
  · exact h.deliverSeq
  · exact h.deliverElem
  · exact h.deliverStream
  · exact h.deliverEngine
  · exact h.emit

theorem Good.dropReq (h : Good A B s) : Good A B (dropReq s id) := h.setReqs h.reqs.del

theorem Good.deliverAll {r : Req} (h : Good A B s) : Good A B (deliverAll s id r) := by
  unfold Machine.deliverAll
  dsimp only
  split
  · exact h.countDelivery.deliver.dropReq
  · refine foldl_ok (fun _ h1 _ => ?_) (ite_ok h.countDelivery.deliver.dropReq (h.countDelivery.deliver.dropReq.updLease (fun _
      i1 => i1)))
    split
    · exact h1.notePoison.deliver.settle.dropReq
    · exact h1

theorem Good.unchain {r : Req} {cause : Nat} (h : Good A B s) : Good A B (unchain s r cause) := by
  unfold Machine.unchain
  split
  · exact ite_ok h (h.updLease (fun _ i1 => i1))
  · exact h

theorem Good.faultSeq {rep : Bool} {r : Req} {cause addr : Nat} {strad : Bool} (h : Good A B s) :
    Good A B (faultSeq s id l rep r cause addr strad) := by
  unfold Machine.faultSeq
  split
  · exact h.dropReq
  · dsimp only
    exact ite_ok h.dropReq.updSeq.seqFaultG (ite_ok h.dropReq.updSeq h.dropReq.updSeq.raise)

theorem Good.faultElem {r : Req} {cause addr : Nat} {strad : Bool} (h : Good A B s) :
    Good A B (faultElem s id l t k r cause addr strad) := by
  unfold Machine.faultElem
  split
  · exact h.dropReq
  · split
    · exact h.dropReq
    · dsimp only
      split
      · exact h
      · split
        · exact h.unchain.updCtx.raise
        · split
          · exact h.unchain.dropReq.updCtx.elemFault
          · exact h.dropReq

theorem Good.faultStream {sid : Nat} {r : Req} {cause addr : Nat} {strad : Bool} (h : Good A B s) :
    Good A B (faultStream s id l sid r cause addr strad) := by
  unfold Machine.faultStream
  split
  · exact h.dropReq
  · dsimp only
    split
    · exact Good.raise (h.dropReq.updLease (fun _ i1 => i1))
    · exact h.dropReq.updLease (fun _ i2 => i2)

theorem Good.reportFault {r : Req} {cause addr : Nat} {strad : Bool} (h : Good A B s) :
    Good A B (reportFault s id r cause addr strad) := by
  unfold Machine.reportFault
  split
  · exact h.faultSeq
  · exact h.faultElem
  · exact h.faultStream
  · exact h.dropReq.updEng
  · exact h.dropReq.emit

theorem Good.reportAll {r : Req} {cause addr : Nat} {strad : Bool} (h : Good A B s) :
    Good A B (reportAll s id r cause addr strad) := by
  unfold Machine.reportAll
  refine foldl_ok (fun _ h1 _ => ?_) h.reportFault
  split
  · exact h1.settle.reportFault
  · exact h1

theorem Good.peerAnswer {r : Req} {a : PeerReply} (h : Good A B s) : Good A B (peerAnswer s id r a) := by
  unfold Machine.peerAnswer
  split
  · exact h
  · dsimp only
    split
    · exact h
    · split
      · exact h
      · exact h.partFault
      · exact h.partFault
      · exact h.setPart.checkDone
      · exact ite_ok h.partFault h.setPart.checkDone

theorem Good.execMemoryReply {a : PeerReply} (h : Good A B s) : Keeps A B (execMemoryReply id a s) := by
  unfold Machine.execMemoryReply
  split
  · exact h
  · split
    · exact h
    · split
      · exact h.peerAnswer
      · exact ite_ok h h.deliverAll
      · exact h.reportAll
      · exact h

/-! ### Chain trackers -/

theorem Good.updTrk {c : Nat} {f : Tracker → Tracker} (h : Good A B s) : Good A B (updTrk s l c f) := h.updLease (fun _ i1 => i1)

theorem Good.chainServe {fl : Nat} (h : Good A B s) : Good A B (chainServe s id fl) := by
  unfold Machine.chainServe
  dsimp only
  split
  · exact ite_ok h.updReq.perform h.updReq
  · exact h.updReq

theorem Good.execChainRead (h : Good A B s) : Keeps A B (execChainRead id s) := by
  unfold Machine.execChainRead
  split
  · exact h
  · dsimp only
    exact ite_ok h (ite_ok h.updTrk.chainServe (ite_ok h.updReq h.reqFault))

theorem Good.chainAdvance {ch : Chain} {tick : Nat} (h : Good A B s) : Good A B (chainAdvance s l ch tick) := h.updTrk

theorem Good.execChainOrdered (h : Good A B s) : Keeps A B (execChainOrdered id s) := by
  unfold Machine.execChainOrdered
  split
  · exact h
  · dsimp only
    split
    · exact h
    · split
      · exact h.updReq
      · split
        · exact h.reqFault.updTrk
        · split
          · exact h.updTrk
          · split
            · exact h.updTrk
            · split
              · exact h.updReq.settle.chainAdvance
              · exact h.updTrk.chainServe

theorem Good.execChainReadPerformed (h : Good A B s) : Keeps A B (execChainReadPerformed id s) := by
  unfold Machine.execChainReadPerformed
  split
  · exact h
  · exact ite_ok h h.updTrk.updReq

theorem Good.execChainWriteAck (h : Good A B s) : Keeps A B (execChainWriteAck id s) := by
  unfold Machine.execChainWriteAck
  split
  · exact h
  · exact ite_ok h h.chainAdvance.updReq

theorem Good.execChainHeldRetry (h : Good A B s) : Keeps A B (execChainHeldRetry id s) := by
  unfold Machine.execChainHeldRetry
  split
  · exact h
  · dsimp only
    exact ite_ok h h.updReq

theorem Good.execSynaGroupRecord {id : Nat} {s : State} (h : Good A B s) : Keeps A B (execSynaGroupRecord id s) := by
  unfold Machine.execSynaGroupRecord
  split
  · exact h
  · split
    · split
      · split
        · exact h
        · split
          · exact h
          · extract_lets _ _ _ _ fin s1
            have hfin : ∀ t, Good A B t → Good A B (fin t) := fun _ ht => ht.setPart.checkDone
            have hs1 : Good A B s1 := h.updTile (fun _ i => i)
            split
            · exact h
            · split
              · exact hfin _ (h.updTile (fun _ i => i))
              · split
                · exact hs1.partFault
                · next e => exact hfin _ (hs1.arriveAt.get e)
      · exact h
    · exact h

/-! ### Pagers -/

theorem Good.updJob {j : Nat} {f : Job → Job} (h : Good A B s) : Good A B (updJob s j f) := h

theorem Good.pagerAnswer {j : Nat} {ok : Bool} (h : Good A B s) : Good A B (pagerAnswer s j ok) := h.updJob

theorem Good.putEntry {x : Job} {lc : Loc} {v : Nat} (h : Good A B s) : Good A B (putEntry s x lc v) := h.devWr

theorem Good.takeFrame {tenant : Nat} (h : Good A B s) : FrameOk A B (takeFrame s tenant) := by
  unfold Machine.takeFrame
  dsimp only
  split
  · exact trivial
  · split
    · exact h
    · exact ite_ok h.devTouch.bump.updVf h.devTouch.bump.updVf

theorem Good.unscrub {tenant gpa : Nat} (h : Good A B s) : Good A B (unscrub s tenant gpa) := by
  unfold Machine.unscrub
  split
  · dsimp only
    exact ite_ok h h
  · exact h

theorem Good.poolEmpty {j : Nat} {x : Job} (h : Good A B s) : Good A B (poolEmpty s j x) := h.updJob.pfEvent

theorem Good.pagerFail {j : Nat} {x : Job} (h : Good A B s) : Good A B (pagerFail s j x) := by
  unfold Machine.pagerFail
  split
  · exact Good.pagerAnswer (ite_ok h.putEntry h)
  · exact h.pagerAnswer

theorem Good.pagerFinish {j : Nat} {x : Job} {addr : Nat} (h : Good A B s) : Good A B (pagerFinish s j x addr) := by
  unfold Machine.pagerFinish
  split
  · exact h.putEntry.pagerAnswer
  · exact h.pagerAnswer

theorem Good.withFrame {j : Nat} {x : Job} {use : State → Nat → State} (h : Good A B s)
    (hf : ∀ x0, Good A B x0 → ∀ x1, Good A B (use x0 x1)) : Good A B (withFrame s j x use) := by
  unfold Machine.withFrame
  split
  · exact h.poolEmpty
  · next e1 =>
      exact ite_ok h.updJob (h.takeFrame.get e1).pagerFail
  · next e2 =>
      exact ite_ok h.updJob (hf _ (h.takeFrame.get e2).unscrub _)

theorem Good.pagerAlloc {j : Nat} {x : Job} (h : Good A B s) : Good A B (pagerAlloc s j x) := by
  unfold Machine.pagerAlloc
  split
  · exact h.pagerAnswer
  · dsimp only
    split
    · exact ite_ok h.pagerFail (h.withFrame (fun _ h1 _ => ite_ok h1.updJob h1.pagerFinish))
    · split
      · split
        · split
          · exact Good.pagerFinish (Good.devWr h)
          · exact Good.pagerFail h
        · refine Good.withFrame h (fun _ h2 _ => ?_)
          split
          · exact Good.pagerFinish (Good.devWr h2)
          · exact Good.pagerFail h2
      · refine Good.withFrame h (fun _ h3 _ => ?_)
        split
        · exact Good.pagerFinish (Good.devWr h3)
        · exact Good.pagerFail h3

theorem Good.pagerClaim {j : Nat} {x : Job} (h : Good A B s) : Good A B (pagerClaim s j x) := by
  unfold Machine.pagerClaim
  split
  · exact h.pagerAnswer
  · dsimp only
    split
    · exact h.devTouch.updJob
    · split
      · split
        · exact h.devTouch.pfEvent.pagerAnswer
        · exact ite_ok h.devTouch.pagerAnswer h.devTouch.putEntry.updJob.pagerAlloc
      · split
        · exact h.devTouch.pfEvent.pagerAnswer
        · exact ite_ok h.devTouch.pagerAnswer h.devTouch.putEntry.updJob.pagerAlloc

theorem Good.execPagerFaultToken {j : Nat} (h : Good A B s) : Keeps A B (execPagerFaultToken j s) := by
  unfold Machine.execPagerFaultToken
  split
  · exact ite_ok h.pagerClaim h
  · exact h

theorem Good.execPagerBWaitEnd {j : Nat} (h : Good A B s) : Keeps A B (execPagerBWaitEnd j s) := by
  unfold Machine.execPagerBWaitEnd
  split
  · exact ite_ok h.pagerClaim h
  · exact h

theorem Good.execPagerFrameWaitEnd {j : Nat} (h : Good A B s) : Keeps A B (execPagerFrameWaitEnd j s) := by
  unfold Machine.execPagerFrameWaitEnd
  split
  · dsimp only
    exact ite_ok h.pagerAlloc h
  · exact h

theorem Good.execPagerHostCopyDone {j : Nat} {ok : Bool} (h : Good A B s) : Keeps A B (execPagerHostCopyDone j ok s) := by
  unfold Machine.execPagerHostCopyDone
  split
  · split
    · split
      · exact h.pagerFail
      · split
        · exact h.pagerFail
        · exact Good.pagerFinish (Good.devWr (Good.bump (ite_ok h.emit h)))
    · exact h.pagerAnswer
    · exact h
  · exact h

theorem Good.jobRelease {j : Nat} {ok : Bool} (h : Good A B s) : Good A B (jobRelease s j va ok) := by
  unfold Machine.jobRelease
  dsimp only
  exact foldl_ok (fun _ h1 _ => foldl_ok (fun _ h2 _ => ite_ok (ite_ok h2.updSeq h2.updSeq.seqFault) h2) h1) (foldl_ok (fun _ h3
      _ => ite_ok h3.updReq h3.vaFault) (by dsimp only [Good]; exact h.setLeases (h.leases.map (fun _ _ i1 => i1))))

theorem Good.execPagerReply {j : Nat} (h : Good A B s) : Keeps A B (execPagerReply j s) := by
  unfold Machine.execPagerReply
  split
  · split
    · exact ite_ok h h.jobRelease
    · exact h
  · exact h

theorem Good.execPriResponse {j : Nat} {ok : Bool} (h : Good A B s) : Keeps A B (execPriResponse j ok s) := by
  unfold Machine.execPriResponse
  split
  · exact ite_ok h (ite_ok h.pagerAnswer h.jobRelease)
  · exact h

end Sys2Proof.Claims
end

section
/-! SUPPORT. What firings, controllers, switches and tracks keep of the canonical forms. -/

namespace Sys2Proof.Claims
open Sys2Proof Sys2Proof.Machine

variable {A B : Prop} {s : State} {l t k id i n pa va : Nat} {bs : List Byte} {ps : List Bool} {ls : Lease} {x : Tile} {xd xa xb : BitVec 5}

/-! ### Firings and controllers -/

theorem TileOk.takeTurn (hx : TileOk A x) : TileOk A (takeTurn x k) := by
  unfold Machine.takeTurn
  dsimp only
  exact ite_ok (by dsimp only [TileOk]; exact foldl_ok (fun _ i1 _ => i1.setCtx) hx) hx

theorem TileOk.startFiring {v2 : Nat} (hx : TileOk A x) : TileOk A (startFiring x k v2) := by
  unfold Machine.startFiring
  dsimp only
  exact hx.setCtx

theorem Good.execFiringStart (h : Good A B s) : Keeps A B (execFiringStart l t s) := by
  unfold Machine.execFiringStart
  split
  · exact h
  · split
    · exact h
    · split
      · exact h
      · split
        · exact h
        · split
          · exact h
          · split
            · split
              · exact h.freezeAt
              · extract_lets s1
                have hs1 : Good A B s1 := h.updTile (fun _ i1 => i1.takeTurn.startFiring)
                exact hs1
            · exact h

theorem Good.goChild {x : Plane} {trips : Nat} (h : Good A B s) : Good A B (goChild s l t ls x i trips) := by
  unfold Machine.goChild
  dsimp only
  exact ite_ok h.send h.send

theorem Good.ctlDone {x : Plane} (h : Good A B s) : Good A B (ctlDone s l t ls x) := by
  unfold Machine.ctlDone
  dsimp only
  split
  · exact Good.updLease (Good.send (h.updTile (fun _ i1 => i1))) (fun _ i2 => i2)
  · split
    · exact Good.send (h.updTile (fun _ i3 => i3))
    · exact h.updTile (fun _ i4 => i4)

theorem Good.pipeStart {x : Plane} {a : List Nat} {a5 : State} (h : Good A B a5) : Good A B (pipeStart l t ls x a a5) := by
  induction a generalizing a5 with
  | nil =>
    unfold Machine.pipeStart
    exact h
  | cons e a ih =>
    unfold Machine.pipeStart
    split
    · exact h
    · dsimp only
      split
      · exact ih h
      · exact ite_ok (ih (h.updTile (fun _ i1 => i1))) (ih (Good.goChild (h.updTile (fun _ i2 => i2))))

theorem Good.pipeFinish {x : Plane} (h : Good A B s) : Good A B (pipeFinish s l t ls x) := by
  unfold Machine.pipeFinish
  split
  · exact h
  · dsimp only
    exact ite_ok h.ctlDone h

theorem Good.dropMsg {m : Msg} (h : Good A B s) : Good A B (dropMsg s l m) := h.updLease (fun _ i1 => i1)

theorem Good.lostMsg {m : Msg} (h : Good A B s) : Good A B (lostMsg s l m) := h.dropMsg.noteFault

theorem Good.ctlTakes {m : Msg} {f : State → Res} (h : Good A B s) (hf : ∀ x0, Good A B x0 → Keeps A B (f x0)) :
    Keeps A B (ctlTakes s l ls x m f) := by
  unfold Machine.ctlTakes
  split
  · exact h.lostMsg
  · split
    · exact h.dropMsg.noteFault
    · exact hf _ h.dropMsg

theorem Good.execControllerGoReceived (h : Good A B s) : Keeps A B (execControllerGoReceived l t s) := by
  unfold Machine.execControllerGoReceived
  split
  · exact h
  · split
    · split
      · exact h
      · refine Good.ctlTakes h (fun _ h1 => ?_)
        split
        · extract_lets s1
          have hs1 : Good A B s1 := h1.updTile (fun _ i1 => i1)
          split
          · exact hs1.ctlDone
          · split
            · exact hs1.goChild
            · exact hs1.pipeStart
            · exact foldl_ok (fun _ h2 _ => h2.goChild) hs1
            · exact hs1.ctlDone
    · exact h

theorem Good.execControllerDoneReceived (h : Good A B s) : Keeps A B (execControllerDoneReceived l t i s) := by
  unfold Machine.execControllerDoneReceived
  split
  · exact h
  · split
    · split
      · exact h
      · refine Good.ctlTakes h (fun _ h1 => ?_)
        dsimp only
        split
        · split
          · exact Good.goChild (Good.updTile (h1.updTile (fun _ i1 => i1)) (fun _ i2 => i2))
          · split
            · exact Good.ctlDone (Good.updTile (h1.updTile (fun _ i3 => i3)) (fun _ i4 => i4))
            · exact Good.goChild (Good.updTile (h1.updTile (fun _ i5 => i5)) (fun _ i6 => i6))
        · exact Good.pipeFinish (Good.pipeStart (ite_ok (Good.send (h1.updTile (fun _ i7 => i7))) (h1.updTile (fun _ i8 =>
            i8))))
        · exact ite_ok (Good.ctlDone (h1.updTile (fun _ i9 => i9))) (h1.updTile (fun _ i10 => i10))
    · exact h

theorem Good.execPermitReceived (h : Good A B s) : Keeps A B (execPermitReceived l t i s) := by
  unfold Machine.execPermitReceived
  split
  · exact h
  · split
    · split
      · exact h
      · exact h.ctlTakes (fun _ h1 => Good.pipeFinish (Good.pipeStart (h1.updTile (fun _ i1 => i1))))
    · exact h

theorem Good.execContextGoReceived (h : Good A B s) : Keeps A B (execContextGoReceived l t k s) := by
  unfold Machine.execContextGoReceived
  split
  · exact h
  · split
    · dsimp only
      exact ite_ok h (ite_ok h.lostMsg (ite_ok h.dropMsg.updCtx.finishGo h.dropMsg.updCtx))
    · exact h

theorem Good.rootDoneReceivedAt (h : Good A B s) : Keeps A B (rootDoneReceivedAt l s) := by
  unfold Machine.rootDoneReceivedAt
  split
  · exact h
  · split
    · dsimp only
      exact ite_ok h (ite_ok h.dropMsg (h.dropMsg.updLease (fun _ i1 => i1)))
    · exact h

theorem Good.execRootDoneReceived (h : Good A B s) : Keeps A B (execRootDoneReceived s) :=
  Keeps.onLease (fun _ => h.rootDoneReceivedAt)

theorem Good.execGroupArrival {g : Nat} (h : Good A B s) : Keeps A B (execGroupArrival l g t k s) := by
  unfold Machine.execGroupArrival
  split
  · exact h
  · split
    · dsimp only
      exact ite_ok h (h.dropMsg.updCtx.updLease (fun _ i1 => i1))
    · exact h

theorem Good.execPhaseResetReceived (h : Good A B s) : Keeps A B (execPhaseResetReceived l t s) := by
  unfold Machine.execPhaseResetReceived
  split
  · exact h
  · split
    · exact h.dropMsg.updTile (fun _ i1 => ite_ok i1 i1)
    · exact h

theorem Good.execRunAheadLoad (h : Good A B s) : Keeps A B (execRunAheadLoad l t k s) := by
  unfold Machine.execRunAheadLoad
  split
  · exact h
  · split
    · exact h
    · split
      · exact h
      · split
        · exact h.updTile (fun _ i1 => i1)
        · split
          · exact h
          · split
            · exact h
            · dsimp only
              exact Good.updTile (foldl_ok (fun _ h1 _ => h1.addReq) h) (fun _ i2 => i2)

theorem Good.execEnterRound (h : Good A B s) : Keeps A B (execEnterRound l t k s) := by
  unfold Machine.execEnterRound
  split
  · exact h
  · split
    · exact h
    · dsimp only
      split
      · exact h
      · split
        · split
          · exact ite_ok (ite_ok h h.freezeAt) h.updCtx
          · exact h
        · split
          · exact ite_ok (ite_ok h h.freezeAt) h.updCtx
          · split
            · exact h
            · exact ite_ok (ite_ok (ite_ok h h.freezeAt) h.updCtx) h

theorem Good.closeNow (h : Good A B s) : Good A B (closeNow s l t k ls x) := by
  unfold Machine.closeNow
  dsimp only
  exact h.updCtx.freeEdges.closeCtx

theorem Good.execContextClose (h : Good A B s) : Keeps A B (execContextClose l t k s) := by
  unfold Machine.execContextClose
  split
  · exact h
  · split
    · exact h
    · dsimp only
      split
      · exact h
      · split
        · exact h.freezeAt
        · exact ite_ok h.freezeAt (ite_ok h.closeNow h)

/-! ### Switches and tracks -/

theorem TileOk.setTrack {tr : Nat} {l : List (Nat × Tok)} (hx : TileOk A x) : TileOk A (setTrack x tr l) := hx

theorem TileOk.enterTrack {tr : Nat} {k : Tok} (hx : TileOk A x) : TileOk A (enterTrack x tr k) := hx.setTrack

theorem TileOk.takeHead {src : Nat} (hx : TileOk A x) : TileOk A (takeHead x src k) := by
  unfold Machine.takeHead
  dsimp only
  exact ite_ok hx hx.setCtx

theorem TileOk.putAt {d : Nat} {t : Tok} (hx : TileOk A x) : TileOk A (putAt x d k t) := ite_ok hx.enterTrack hx

theorem TileOk.mergeMark {d src : Nat} {t : Tok} (hx : TileOk A x) : TileOk A (mergeMark x d k src t) := by
  unfold Machine.mergeMark
  dsimp only
  exact ite_ok hx (ite_ok hx (ite_ok (ite_ok hx hx) hx))

theorem TileOk.mergeFlush {rd : Tok} {d : Nat} (hx : TileOk A x) : TileOk A (mergeFlush rd x d k) := by
  unfold Machine.mergeFlush
  dsimp only
  exact ite_ok (by dsimp only [TileOk]; exact hx.putAt) hx

theorem TileOk.moveHead {rd : Tok} {src : Nat} (hx : TileOk A x) : TileOk A (moveHead rd x src k) := by
  unfold Machine.moveHead
  dsimp only
  split
  · exact foldl_ok (fun _ i1 _ => i1.mergeFlush) hx
  · split
    · split
      · exact foldl_ok (fun _ i2 _ => i2.mergeFlush) hx
      · exact foldl_ok (fun _ i3 _ => ite_ok i3.mergeMark.putAt i3.mergeMark) (TileOk.takeHead (foldl_ok (fun _ i4 _ =>
          i4.mergeFlush) hx))
    · split
      · exact foldl_ok (fun _ i5 _ => i5.mergeFlush) hx
      · exact foldl_ok (fun _ i6 _ => ite_ok i6.mergeMark.putAt i6.mergeMark) (TileOk.takeHead (foldl_ok (fun _ i7 _ =>
          i7.mergeFlush) hx))

theorem Good.onSw {f : Nat → Nat → Lease → Tile → State} (h : Good A B s)
    (hf : ∀ x0 x1 x2, LeaseOk A x2 → ∀ x3, TileOk A x3 → Good A B (f x0 x1 x2 x3)) : Keeps A B (onSw s f) := by
  unfold Machine.onSw
  split
  · split
    · next e1 =>
        split
        · next e2 =>
            exact hf _ _ _ (h.leaseOf.get e1) _ ((h.leaseOf.get e1).tileOf.get e2)
        · exact trivial
    · exact trivial
  · exact trivial

theorem Good.moveSource {src : Nat} (h : Good A B s) : Keeps A B (moveSource src k s) :=
  h.onSw (fun _ _ _ _ _ _ => h.updTile (fun _ i1 => ite_ok i1 i1.moveHead))

theorem Good.execRoute {src _d : BitVec 5} {c : BitVec 2} (h : Good A B s) : Keeps A B (execRoute src _d c s) := h.moveSource

theorem Good.execFork {src _d : BitVec 5} {c : BitVec 2} (h : Good A B s) : Keeps A B (execFork src _d c s) := h.moveSource

theorem Good.execMerge {src _d : BitVec 5} {c : BitVec 2} (h : Good A B s) : Keeps A B (execMerge src _d c s) := h.moveSource

theorem Good.execCut {_t : BitVec 4} {_id : BitVec 8} (h : Good A B s) : Keeps A B (execCut _t _id s) :=
  h.onSw (fun _ _ _ _ _ _ => h)

theorem Good.execHold {_t : BitVec 4} (h : Good A B s) : Keeps A B (execHold _t s) := h.onSw (fun _ _ _ _ _ _ => h)

theorem Good.execDly {_t : BitVec 4} {_d : BitVec 8} (h : Good A B s) : Keeps A B (execDly _t _d s) := h.onSw (fun _ _ _ _ _ _ => h)

theorem Good.execSwitchNop (h : Good A B s) : Keeps A B (execSwitchNop s) := h.onSw (fun _ _ _ _ _ _ => h)

theorem Good.execFwl {closed : BitVec 4} (h : Good A B s) : Keeps A B (execFwl closed s) :=
  h.onSw (fun _ _ _ _ _ _ => h.updTile (fun _ i1 => i1))

theorem TileOk.enterBuffer {x : Tile} {b : EdgeBuf} {t : Tok} (hx : TileOk A x) : TileOk A (enterBuffer x b t) := by
  unfold Machine.enterBuffer
  extract_lets _ x1
  have hx1 : TileOk A x1 := hx.tileWr
  exact hx1.of_store rfl

theorem TileOk.emitKept (hx : TileOk A x) : TileOk A (emitKept x) := by
  unfold Machine.emitKept
  split
  · dsimp only
    dsimp only [TileOk]
    exact hx.enterTrack
  · exact hx

theorem TileOk.emitBuffers (hx : TileOk A x) : TileOk A (emitBuffers x) := by
  unfold Machine.emitBuffers
  exact foldl_ok (fun _ i1 _ => ite_ok i1 (by dsimp only [TileOk]; exact i1.enterTrack)) hx.emitKept

theorem Good.stray (h : Good A B s) : Good A B (stray s l t k) := h.noteFault

theorem Good.popTrack {tr : Nat} (h : Good A B s) : Good A B (popTrack s l t tr) := h.updTile (fun _ i1 => i1.setTrack)

theorem Good.land {tr : Nat} {k : Tok} (h : Good A B s) : LandedOk A B (land s l t tr ls x k) := by
  unfold Machine.land
  dsimp only
  split
  · exact h.stray
  · split
    · exact h.stray
    · split
      · exact h.stray
      · split
        · exact h.stray
        · split
          · exact trivial
          · split
            · exact h
            · split
              · exact ite_ok (h.updTile (fun _ i1 => i1.enterBuffer)) trivial
              · exact ite_ok h.stray (ite_ok trivial (h.updTile (fun _ i2 => i2)))

theorem Good.trackLands {tr : Nat} (h : Good A B s) : Good A B (trackLands s l t tr ls x) := by
  unfold Machine.trackLands
  extract_lets
  split
  · split
    · exact h
    · next e1 =>
        exact (h.land.get e1).updTile (fun _ i1 => i1)
  · split
    · exact h
    · split
      · exact h
      · split
        · exact h.popTrack
        · split
          · exact h
          · split
            · exact h
            · next e2 =>
                exact (h.land.get e2).popTrack

theorem Good.setLink {it : Nat} {v : ℤ} (h : Good A B s) : Good A B (setLink s l t it v) := by
  unfold Machine.setLink
  dsimp only
  split
  · exact Good.updTile (h.updTile (fun _ i1 => i1)) (fun _ i2 => i2)
  · exact h.updTile (fun _ i3 => i3)

theorem Good.portOverflow {p : Nat} (h : Good A B s) : Good A B (portOverflow s l t k p x) := by
  unfold Machine.portOverflow
  dsimp only
  split
  · exact h.noteFault.setLink
  · exact h.noteFault

theorem Good.portLands {p : Nat} {tk : Tok} (h : Good A B s) : Good A B (portLands s l t k p x tk) := by
  unfold Machine.portLands
  dsimp only
  split
  · exact ite_ok h h.freezeAt
  · split
    · exact Good.stray (h.updTile (fun _ i1 => i1))
    · split
      · split
        · exact h.updTile (fun _ i2 => TileOk.setCtx i2)
        · exact Good.portOverflow (h.updTile (fun _ i3 => i3))
      · split
        · exact ite_ok (h.updTile (fun _ i4 => TileOk.enterTrack i4)) h
        · exact Good.noteFault (h.updTile (fun _ i5 => i5))

theorem Good.execTokenArrival {code : Nat} (h : Good A B s) : Keeps A B (execTokenArrival l t code s) := by
  unfold Machine.execTokenArrival
  split
  · exact h
  · split
    · exact h
    · split
      · exact h
      · split
        · exact h.trackLands
        · split
          · exact h.portLands
          · exact h

theorem Good.execCreditReturn {j : Nat} (h : Good A B s) : Keeps A B (execCreditReturn l t k j s) := by
  unfold Machine.execCreditReturn
  split
  · exact h.updCtx
  · split
    · exact h.setLink
    · exact h

theorem TileOk.tileCycle (hx : TileOk A x) : TileOk A (tileCycle ls x) := by
  unfold Machine.tileCycle
  extract_lets x1 x2
  have hx1 : TileOk A x1 := ite_ok hx hx
  have hx2 : TileOk A x2 := by
    unfold x2
    refine foldl_ok (fun _ i1 _ => ?_) hx1
    extract_lets
    split
    · exact ite_ok i1.setCtx i1
    · exact i1
  exact TileOk.emitBuffers hx2

theorem Good.execFabricCycle {s : State} (h : Good A B s) : Keeps A B (execFabricCycle s) := by
  unfold Machine.execFabricCycle
  split
  · exact h
  · dsimp only [Keeps, Good]
    refine h.setLeases (h.leases.map (fun l ls hl => ?_))
    split
    · unfold LeaseOk
      dsimp only
      exact ite_ok (P := AllOk (TileOk A)) (hl.map (fun _ _ hx => ite_ok hx hx.tileCycle)) hl
    · exact hl

/-! ### A fresh lease -/

theorem LeaseOk.freshLease {im : Img} {r : Rec} : LeaseOk A (freshLease im r) := by
  unfold Machine.freshLease
  exact AllOk.of_map (fun _ => MemOk.nil)

end Sys2Proof.Claims
end

section
/-! SUPPORT. What engines, queues and traps keep of the canonical forms. -/

namespace Sys2Proof.Claims
open Sys2Proof Sys2Proof.Machine

variable {A B : Prop} {s : State} {l t k id i n pa va : Nat} {bs : List Byte} {ps : List Bool} {ls : Lease} {x : Tile} {xd xa xb : BitVec 5}

/-! ### Engine operations and launches -/

theorem Good.engRd {k : List Byte → State → EngRes} (h : Good A B s) (hf : ∀ x0 x1, Good A B x1 → EngOk A B (k x0 x1)) :
    EngOk A B (engRd s l va n k) := by
  unfold Machine.engRd
  split
  · next e1 =>
      exact ite_ok (h.vread.get e1) (hf _ _ (h.vread.get e1))
  · next e2 =>
      exact h.vread.get e2
  · next e3 =>
      exact h.vread.get e3
  · next e4 =>
      exact h.vread.get e4

theorem EngOk.rdTds {a a2 : Nat} {a3 : List Byte} {a4 : List Byte → State → EngRes} {a5 : State}
    (hf : ∀ x0 x1, Good A B x1 → EngOk A B (a4 x0 x1)) (h : Good A B a5) : EngOk A B (rdTds l a a2 a3 a4 a5) := by
  induction a generalizing a2 a3 a4 a5 with
  | zero =>
    unfold Machine.rdTds
    exact hf _ _ h
  | succ a ih =>
    unfold Machine.rdTds
    exact h.engRd (fun _ _ h1 => ite_ok (hf _ _ h1) (h1.engRd (fun _ _ h2 => ih hf h2)))

theorem Good.rdDesc {f : List Byte → List TD → State → EngRes} (h : Good A B s)
    (hf : ∀ x0 x1 x2, Good A B x2 → EngOk A B (f x0 x1 x2)) : EngOk A B (rdDesc s l va n k f) := by
  unfold Machine.rdDesc
  refine Good.engRd h (fun _ _ h1 => ?_)
  refine EngOk.rdTds (fun _ _ h2 => ?_) h1
  split
  · exact hf _ _ _ h2
  · exact h2

theorem Good.rdCopy (h : Good A B s) : EngOk A B (rdCopy s l va) := by
  unfold Machine.rdCopy
  refine Good.rdDesc h (fun _ _ _ h1 => ?_)
  dsimp only
  split
  · exact ite_ok h1 h1
  · exact h1

theorem Good.rdGath (h : Good A B s) : EngOk A B (rdGath s l va) := by
  unfold Machine.rdGath
  refine Good.rdDesc h (fun _ _ _ h1 => ?_)
  dsimp only
  split
  · exact ite_ok h1 h1
  · exact h1

theorem Good.rdColl (h : Good A B s) : EngOk A B (rdColl s l va) := by
  unfold Machine.rdColl
  refine Good.rdDesc h (fun _ _ _ h1 => ?_)
  dsimp only
  split
  · exact ite_ok h1 (h1.engRd (fun _ _ h2 => ite_ok h2 h2))
  · exact h1

theorem Good.engStart {q : Machine.Seq} {sync : Option Nat} {shadow : Nat} {kind : EngKind} (h : Good A B s) :
    Good A B (engStart s l q ls xd sync shadow kind) := by
  unfold Machine.engStart
  dsimp only
  exact Good.sharedDone (h.updLease (fun _ i1 => i1))

theorem Keeps.engIssue {rd : State → Nat → Nat → EngRes} {sync : Bool} {k : BitVec 2}
    (hf : ∀ x0, Good A B x0 → ∀ x1 x2, EngOk A B (rd x0 x1 x2)) (h : Good A B s) :
    Keeps A B (engIssue rd xd xa xb sync k s) := by
  unfold Machine.engIssue
  refine Good.onShared h (fun _ _ i1 _ => ?_)
  dsimp only
  split
  · exact h
  · exact ite_ok h.updSeq h.engStart
  · split
    · exact h.seqFault
    · split
      · exact h.seqFault
      · split
        · exact h.seqFault
        · split
          · exact h.seqFault
          · split
            · next e1 =>
                exact ((hf _ h _ _).get e1).seqFault
            · next e2 =>
                exact ((hf _ h _ _).get e2).updSeq
            · next e3 =>
                exact (hf _ h _ _).get e3
            · next e4 =>
                split
                · exact ((hf _ h _ _).get e4).seqFault
                · exact ite_ok ((hf _ h _ _).get e4).updSeq ((hf _ h _ _).get e4).engStart

theorem Good.execEcopy {sync : Bool} {k : BitVec 2} (h : Good A B s) : Keeps A B (execEcopy xd xa xb sync k s) :=
  Keeps.engIssue (fun _ h1 _ _ => h1.rdCopy) h

theorem Good.execEgath {sync : Bool} {k : BitVec 2} (h : Good A B s) : Keeps A B (execEgath xd xa xb sync k s) :=
  Keeps.engIssue (fun _ h1 _ _ => h1.rdGath) h

theorem Good.execEcoll {sync : Bool} {k : BitVec 2} (h : Good A B s) : Keeps A B (execEcoll xd xa xb sync k s) :=
  Keeps.engIssue (fun _ h1 _ _ => h1.rdColl) h

theorem Good.execEwait (h : Good A B s) : Keeps A B (execEwait xd xa xb s) := by
  unfold Machine.execEwait
  refine Good.onShared h (fun _ _ i1 _ => ?_)
  dsimp only
  split
  · exact h
  · split
    · exact h.seqFault
    · split
      · split
        · exact h.sharedDone
        · exact h.floorNow.sharedDone
        · exact h.sharedDone
        · exact h
      · exact ite_ok h.seqFault (ite_ok h.seqFault (ite_ok h.seqFault (Good.updSeq h.addReq)))

theorem Good.readRec (h : Good A B s) : RecOk A B (readRec s l va) := by
  unfold Machine.readRec
  split
  · next e1 =>
      exact h.vread.get e1
  · next e2 =>
      exact h.vread.get e2
  · next e3 =>
      exact h.vread.get e3
  · next e4 =>
      split
      · exact h.vread.get e4
      · split
        · exact h.vread.get e4
        · split
          · exact h.vread.get e4
          · split
            · next e5 =>
                exact (h.vread.get e4).vread.get e5
            · next e6 =>
                exact (h.vread.get e4).vread.get e6
            · next e7 =>
                exact (h.vread.get e4).vread.get e7
            · next e8 =>
                exact ite_ok ((h.vread.get e4).vread.get e8) ((h.vread.get e4).vread.get e8)

theorem Good.launchChild {fromRes : Bool} {xd xa : BitVec 5} {s : State} (h : Good A B s) :
    Keeps A B (launchChild fromRes xd xa s) := by
  unfold Machine.launchChild
  refine Good.onShared h (fun l ls _ q => ?_)
  extract_lets va
  have hr : RecOk A B (match q.op with
      | .launch r => RecRes.ok r s
      | _ => Machine.readRec s l va) := by
    split
    · exact h
    · exact h.readRec
  refine ite_ok h (ite_ok h.seqFault (ite_ok h.seqFault ?_))
  split
  · next e => exact Good.seqFault (hr.get e)
  · next e => exact Good.updSeq (hr.get e)
  · next e => exact hr.get e
  · next e =>
    have h1 := hr.get e
    refine ite_ok (Good.sharedDone h1) ?_
    split
    · exact Good.sharedDone h1
    · extract_lets s2 s3
      have hs2 : Good A B s2 := ite_ok h1 (Good.updVf h1)
      have hs3 : Good A B s3 := hs2.updLease (fun _ hl => hl)
      exact ite_ok (Good.seqFault h1) (ite_ok (Good.updSeq h1) (Good.sharedDone hs3))

theorem Good.execLaunch (h : Good A B s) : Keeps A B (execLaunch xd xa s) := h.launchChild

theorem Good.execLaunchr (h : Good A B s) : Keeps A B (execLaunchr xd xa s) := h.launchChild

theorem Good.execJoin (h : Good A B s) : Keeps A B (execJoin xd xa s) := by
  unfold Machine.execJoin
  refine Good.onShared h (fun _ _ i1 _ => ?_)
  dsimp only
  split
  · exact h.seqFault
  · split
    · exact h.seqFault
    · split
      · exact Good.sharedDone (h.updLease (fun _ i2 => i2))
      · exact h

/-! ### Engines -/

theorem Good.engAt {sp a : Nat} {x : Machine.Acc} (h : Good A B s) : AtOk A B (engAt s l sp a x) := by
  unfold Machine.engAt
  split
  · split
    · exact h
    · split
      · exact h
      · exact h
  · split
    · next e1 =>
        exact h.placeOf.get e1
    · next e2 =>
        exact h.placeOf.get e2
    · next e3 =>
        exact h.placeOf.get e3

theorem Good.setEng {f : EngOp → EngOp} (h : Good A B s) : Good A B (setEng s l t f) := h.updLease (fun _ i1 => i1)

theorem Good.engDone {st : Nat} (h : Good A B s) : Good A B (engDone s l t st) := by
  unfold Machine.engDone
  dsimp only
  refine Good.updLease ?_ (fun _ i1 => i1)
  split
  · exact h.countDelivery
  · exact h

theorem Good.engFault {cause addr : Nat} (h : Good A B s) : Good A B (engFault s l t cause addr) := by
  unfold Machine.engFault
  dsimp only
  exact h.engDone.raise

theorem Good.engAsk {a : Nat} {lc : Loc} (h : Good A B s) : FstOk (Good A B) (engAsk s l t ls k a n lc) := by
  unfold Machine.engAsk
  dsimp only
  exact Good.sendAll h.addReq

theorem Good.engMem {o : EngOp} {ver : Bool} (h : Good A B s) : SndOk (SndOk (Good A B)) (engMem s l t ls o pa n ver) := by
  unfold Machine.engMem
  dsimp only
  split
  · exact h.bump
  · split
    · exact h.memGet
    · exact Good.fillAt h.memGet

theorem Good.engRead {o : EngOp} {j : Nat} {c : EngCur} (h : Good A B s) : Good A B (engRead s l t ls o i j c) := by
  unfold Machine.engRead
  split
  · exact h
  · split
    · dsimp only
      split
      · next e1 =>
          exact (h.engAt.get e1).engFault
      · next e2 =>
          exact (h.engAt.get e2).setEng
      · next e3 =>
          split
          · exact h.engAt.get e3
          · split
            · exact Good.setEng (h.engAt.get e3).engMem
            · exact (h.engAt.get e3).setEng
            · exact Good.setEng (h.engAt.get e3).engAsk

theorem Good.engRows {o : EngOp} {c : EngCur} (h : Good A B s) : Good A B (engRows s l t o i c) := by
  unfold Machine.engRows
  split
  · dsimp only
    split
    · exact h.engFault
    · exact h.setEng
  · exact h

theorem TileOk.tileReady {o : Nat} (hx : TileOk A x) : TileOk A (tileReady x o n) := by
  unfold Machine.tileReady
  exact foldl_ok (fun _ i1 _ => by dsimp only [TileOk]; exact i1.tileBank.bankZero.setTileBank) hx

theorem Good.engPut {shadow : Nat} {lc : Loc} {ver : Bool} {a : Nat} (h : Good A B s) :
    Good A B (engPut s l ls shadow lc ver a bs ps) := by
  unfold Machine.engPut
  split
  · dsimp only
    split
    · split
      · split
        · exact h.unitsReady.dropCopies
        · split
          · next e1 =>
              exact (h.unitsReady.dropCopies.pendWrite.get e1).updLease (fun _ i1 => i1)
          · exact h.unitsReady.dropCopies.doomShadow
      · split
        · exact h.unitsReady.dropCopies
        · split
          · next e2 =>
              exact (h.unitsReady.dropCopies.pendWrite.get e2).updLease (fun _ i2 => i2)
          · exact h.unitsReady.dropCopies.doomShadow
    · exact h.unitsReady.dropCopies.markStale.memPut.recheck
  · dsimp only
    split
    · exact Good.putBytes (Good.updTile (Good.putBytes (h.updTile (fun _ i3 => i3.tileReady))) (fun _ i4 => i4.tileReady))
    · exact Good.putBytes (h.updTile (fun _ i5 => i5.tileReady))
  · exact h

theorem Good.engTell {parts : List Machine.Part} (h : Good A B s) : FstOk (Good A B) (engTell s l t ls parts) := by
  unfold Machine.engTell
  dsimp only
  exact Good.sendAll h.addReq

theorem Good.engLine {o : EngOp} {c : EngCur} (h : Good A B s) : Good A B (engLine s l t ls o i c) := by
  unfold Machine.engLine
  dsimp only
  split
  · next e1 =>
      exact (h.engAt.get e1).engFault
  · next e2 =>
      exact (h.engAt.get e2).setEng
  · next e3 =>
      split
      · exact h.engAt.get e3
      · split
        · split
          · exact (h.engAt.get e3).setEng
          · refine Good.setEng ?_
            refine foldl_ok (fun _ h1 _ => ?_) (h.engAt.get e3).bump
            split
            · exact h1.hostWr
            · exact h1
        · exact Good.setEng (h.engAt.get e3).engTell
        · exact Good.setEng (foldl_ok (fun _ h2 _ => h2.engPut) (h.engAt.get e3))

theorem Good.collMeet {o : EngOp} (h : Good A B s) : Good A B (collMeet s ls o) := by
  unfold Machine.collMeet
  split
  · dsimp only
    split
    · exact foldl_ok (fun _ h1 _ => h1.engFault) h
    · exact ite_ok (foldl_ok (fun _ h2 _ => h2.setEng) h.bump) h
  · exact h

theorem Good.engFlush {o : EngOp} (h : Good A B s) : Good A B (engFlush s l t o) := by
  unfold Machine.engFlush
  dsimp only
  exact Good.setEng (foldl_ok (P := FstOk (Good A B)) (fun _ i1 _ => Good.emit (Good.addReq i1)) h)

theorem Good.engArrive {o : EngOp} {sw : Nat} (h : Good A B s) : Good A B (engArrive s l t o sw) := by
  unfold Machine.engArrive
  dsimp only
  split
  · next e1 =>
      exact (h.engAt.get e1).engFault
  · next e2 =>
      exact (h.engAt.get e2).setEng
  · next e3 =>
      split
      · exact h.engAt.get e3
      · split
        · split
          · next e4 =>
              exact ((h.engAt.get e3).unitsReady.arriveAt.get e4).setEng
          · exact (h.engAt.get e3).engFault
        · exact (h.engAt.get e3).engFault

theorem Good.engEnd {o : EngOp} (h : Good A B s) : Good A B (engEnd s l t o) := by
  unfold Machine.engEnd
  split
  · exact h.engFlush
  · split
    · exact h
    · split
      · exact h.engFault
      · split
        · exact ite_ok h.engArrive h.engDone
        · exact h.engDone

theorem Good.engWork {o : EngOp} {pick : Nat} (h : Good A B s) : Good A B (engWork s l t ls o i pick) := by
  unfold Machine.engWork
  split
  · exact h
  · exact ite_ok h (ite_ok h.engRead (ite_ok h.engRows (ite_ok h.setEng h.engLine)))

theorem Good.engBegin {o : EngOp} {lines : List Nat} {pick : Nat} (h : Good A B s) :
    Good A B (engBegin s l t o lines pick) := by
  unfold Machine.engBegin
  dsimp only
  exact h.setEng

theorem Good.execEngineComplete (h : Good A B s) : Keeps A B (execEngineComplete l t s) := by
  unfold Machine.execEngineComplete
  split
  · split
    · exact h
    · split
      · exact h.engFault
      · dsimp only
        split
        · exact h.bump.setEng
        · exact ite_ok (ite_ok h.bump.collMeet h.bump.engEnd) (ite_ok h.bump.engWork h.bump.engBegin)
  · exact h

/-! ### Global queues -/

theorem Good.tvWait {tenant : Nat} {x : Machine.Acc} {entry : Nat} {leaf pin : Bool} {st : JSt} (h : Good A B s) :
    TvOk A B (tvWait s tenant va x entry leaf pin st) := by
  unfold Machine.tvWait
  split
  · exact ite_ok h h
  · extract_lets _ s1
    have hs1 : Good A B s1 := h
    exact ite_ok hs1.emit hs1

theorem Good.tvAt {tenant : Nat} {x : Machine.Acc} (h : Good A B s) :
    EitherOk (TvOk A B) (SndOk (Good A B)) (tvAt s tenant va x) := by
  unfold Machine.tvAt
  split
  · exact h
  · split
    · next e1 =>
        exact ite_ok (P := EitherOk (TvOk A B) (SndOk (Good A B))) (h.walk.get e1).countRefusal (ite_ok (P := EitherOk (TvOk A
            B) (SndOk (Good A B))) (h.walk.get e1).bump.tvWait (h.walk.get e1))
    · next e2 =>
        exact (h.walk.get e2).transEvents
    · next e3 =>
        exact (h.walk.get e3).tvWait

theorem Good.tvRead {tenant : Nat} {a : List (Nat × Nat)} {a2 : List Byte} {a3 : List Bool} {a4 : State} (h : Good A B a4) :
    TvOk A B (tvRead tenant a a2 a3 a4) := by
  induction a generalizing a2 a3 a4 with
  | nil =>
    unfold Machine.tvRead
    exact h
  | cons e a ih =>
    unfold Machine.tvRead
    split
    · next e1 =>
        exact h.tvAt.get e1
    · next e2 =>
        split
        · next e3 =>
            exact ih ((h.tvAt.get e2).devGet.get e3).bump

theorem Good.tvWrite {tenant : Nat} (h : Good A B s) : TvOk A B (tvWrite s tenant va bs) := by
  unfold Machine.tvWrite
  split
  · next e1 =>
      exact h.tvAt.get e1
  · next e2 =>
      exact (h.tvAt.get e2).devWr

theorem Good.tvPut {tenant : Nat} (h : Good A B s) : Good A B (tvPut s tenant va bs) := by
  unfold Machine.tvPut
  split
  · next e1 =>
      exact h.tvWrite.get e1
  · next e2 =>
      exact h.tvWrite.get e2
  · next e3 =>
      exact h.tvWrite.get e3

theorem Good.queueError {g cause : Nat} (h : Good A B s) : Good A B (queueError s g cause) := h.updQueue.emit

theorem Good.readQrec {q : Queue} (h : Good A B s) : QReadOk A B (readQrec s q) := by
  unfold Machine.readQrec
  split
  · next e1 =>
      exact h.tvRead.get e1
  · next e2 =>
      exact h.tvRead.get e2
  · next e3 =>
      split
      · exact h.tvRead.get e3
      · split
        · exact h.tvRead.get e3
        · exact h.tvRead.get e3

theorem Good.loadQrec {g : Nat} (h : Good A B s) : Good A B (loadQrec s g) := by
  unfold Machine.loadQrec
  dsimp only
  split
  · split
    · next e1 =>
        exact (h.readQrec.get e1).updQueue
    · next e2 =>
        exact (h.readQrec.get e2).updQueue.queueError
    · next e3 =>
        exact h.readQrec.get e3
  · exact h

theorem Good.saveTail {g : Nat} (h : Good A B s) : Good A B (saveTail s g) := h.tvPut

theorem Good.saveProg {g : Nat} (h : Good A B s) : Good A B (saveProg s g) := h.tvPut

theorem Good.saveCounts {g : Nat} (h : Good A B s) : Good A B (saveCounts s g) := h.saveTail.saveProg

theorem Good.retireTask {s : State} {g n cause : Nat} (h : Good A B s) :
    BothOk (OptOk (Good A B)) (Good A B) (retireTask s g n cause) := by
  unfold Machine.retireTask
  extract_lets _ entry go
  have he : TvOk A B entry := by
    unfold entry
    split
    · exact h.tvWrite
    · exact h
  have hgo : ∀ t, Good A B t → Good A B (go t) := fun t ht => ite_ok ht.updQueue ht.updQueue.updQueue.saveProg
  clear_value entry go
  cases entry with
  | ok bs ps s1 => exact ⟨hgo s1 he, he⟩
  | bad c a g s1 => exact ⟨hgo s1 he, he⟩
  | wait s1 => exact ⟨trivial, he⟩

theorem Good.execQownWrite {g : Nat} {val : Dword} (h : Good A B s) : Keeps A B (execQownWrite g val s) := by
  unfold Machine.execQownWrite
  dsimp only
  exact ite_ok h h.updQueue

theorem Good.execQswInWrite {g : Nat} {inn : Bool} (h : Good A B s) : Keeps A B (execQswInWrite g inn s) := by
  unfold Machine.execQswInWrite
  dsimp only
  exact ite_ok h (ite_ok (ite_ok h.pfEvent h.updQueue) (ite_ok h.updQueue h))

theorem Good.execQueueSwitchInComplete {g : Nat} (h : Good A B s) : Keeps A B (execQueueSwitchInComplete g s) := by
  unfold Machine.execQueueSwitchInComplete
  dsimp only
  split
  · exact h
  · split
    · next e1 =>
        exact h.readQrec.get e1
    · next e2 =>
        exact (h.readQrec.get e2).updQueue.queueError
    · next e3 =>
        exact ite_ok (h.readQrec.get e3).updQueue.queueError (h.readQrec.get e3).updQueue

theorem Good.switchOut {g : Nat} (h : Good A B s) : Good A B (switchOut s g) := ite_ok h.updQueue.saveCounts h

theorem Good.execQueueTailWrite {v j : Nat} {tail : Word} (h : Good A B s) : Keeps A B (execQueueTailWrite v j tail s) := by
  unfold Machine.execQueueTailWrite
  split
  · exact h
  · dsimp only
    split
    · exact ite_ok h.updQueue.queueError h.updQueue
    · exact ite_ok h.updQueue.saveTail.queueError h.updQueue.saveTail
    · exact h.updQueue

theorem Good.execQctlEnWrite {v j : Nat} {en : Bool} (h : Good A B s) : Keeps A B (execQctlEnWrite v j en s) := by
  unfold Machine.execQctlEnWrite
  split
  · exact h
  · exact ite_ok h.updQueue.loadQrec h.updQueue

theorem Good.execErrclr {v j : Nat} (h : Good A B s) : Keeps A B (execErrclr v j s) := by
  unfold Machine.execErrclr
  split
  · exact h
  · exact h.updQueue

/-! ### Traps between instructions -/

theorem Good.trapTakenAt (h : Good A B s) : Keeps A B (trapTakenAt l s) := by
  unfold Machine.trapTakenAt
  split
  · exact h
  · dsimp only
    split
    · exact h
    · show Good A B _
      refine Good.mirror ?_
      refine Good.updSeq ?_
      refine Good.takeTrap ?_
      split
      · exact Good.settle (h.setReqs h.reqs.del)
      · exact h

theorem Good.execTrapTaken (h : Good A B s) : Keeps A B (execTrapTaken s) := Keeps.onLease (fun _ => h.trapTakenAt)

theorem Good.faultRecordWriteAt (h : Good A B s) : Keeps A B (faultRecordWriteAt l s) := by
  unfold Machine.faultRecordWriteAt
  split
  · exact h
  · split
    · exact h
    · exact ite_ok h (Good.postRec (h.updLease (fun _ i1 => i1)))

theorem Good.execFaultRecordWrite (h : Good A B s) : Keeps A B (execFaultRecordWrite s) :=
  Keeps.onLease (fun _ => h.faultRecordWriteAt)

end Sys2Proof.Claims
end

section
/-! SUPPORT. What drains, saving, stopping, phases and streams keep of the canonical forms. -/

namespace Sys2Proof.Claims
open Sys2Proof Sys2Proof.Machine

variable {A B : Prop} {s : State} {l t k id i n pa va : Nat} {bs : List Byte} {ps : List Bool} {ls : Lease} {x : Tile} {xd xa xb : BitVec 5}

/-! ### Drains, saving and restoring -/

theorem Good.injectHold (h : Good A B s) : Good A B (injectHold s l) := by
  unfold Machine.injectHold
  split
  · exact h.injectRound
  · exact h

theorem Good.startDrain {p : Purpose} (h : Good A B s) : Good A B (startDrain s l p) := by
  unfold Machine.startDrain
  split
  · exact h
  · dsimp only
    exact ite_ok h (ite_ok (Good.injectHold (h.updLease (fun _ i1 => i1))) (h.updLease (fun _ i2 => i2)))

theorem Good.releaseShunter (h : Good A B s) : Good A B (releaseShunter s l) := by
  unfold Machine.releaseShunter
  refine Good.updLease h (fun _ i1 => ?_)
  split
  · exact i1
  · dsimp only
    exact ite_ok i1 (by dsimp only [LeaseOk]; exact i1.map (fun _ _ i2 => i2))

theorem LeaseOk.closeRound (hl : LeaseOk A ls) : LeaseOk A (closeRound ls) := by
  unfold Machine.closeRound
  split
  · exact ite_ok (by dsimp only [LeaseOk]; exact hl.map (fun _ _ i1 => i1)) hl
  · exact hl

theorem Good.startPark {j : Nat} (h : Good A B s) : Good A B (startPark s l j) := by
  unfold Machine.startPark
  dsimp only
  exact ite_ok (by dsimp only [Good]; exact h.startDrain) h.startDrain

theorem Good.execParkLimitExpiry {l : Nat} {s : State} (h : Good A B s) : Keeps A B (execParkLimitExpiry l s) := by
  unfold Machine.execParkLimitExpiry
  split
  · exact h
  · refine ite_ok (P := Keeps A B) ?_ h
    show Good A B _
    cases parkDue s l with
    | none => exact h
    | some c => exact h.startPark

theorem Good.execWatchdogExpiry (h : Good A B s) : Keeps A B (execWatchdogExpiry l s) := by
  unfold Machine.execWatchdogExpiry
  split
  · exact h
  · split
    · exact h
    · split
      · exact h.startDrain
      · exact h.updLease (fun _ i1 => i1)
      · exact h

theorem Good.execDrainTimeout (h : Good A B s) : Keeps A B (execDrainTimeout l s) := by
  unfold Machine.execDrainTimeout
  split
  · exact h
  · split
    · exact h
    · split
      · exact h.forceStop
      · exact h
      · exact h.releaseShunter.updLease (fun _ i1 => i1)

theorem Good.cutRequests (h : Good A B s) : Good A B (cutRequests s l) := by
  unfold Machine.cutRequests
  dsimp only
  refine foldl_ok (fun _ h1 _ => ?_) (by dsimp only [Good]; exact h.setReqs h.reqs.map)
  split
  · exact Good.updSeq (Good.settle (by dsimp only [Good]; exact h1.setReqs h1.reqs.del))
  · exact h1

theorem Good.execCutComplete (h : Good A B s) : Keeps A B (execCutComplete l s) := by
  unfold Machine.execCutComplete
  split
  · exact h
  · dsimp only
    split
    · exact h
    · split
      · exact h.injectHold
      · split
        · exact h
        · split
          · exact Good.forceStop (h.cutRequests.updLease (fun _ i1 => i1))
          · exact Good.updLease (h.cutRequests.updLease (fun _ i2 => i2)) (fun _ i3 => i3)

theorem Good.smapLines {a : List Nat} {a2 : State} (h : Good A B a2) : SmapOk A B (smapLines l a a2) := by
  induction a generalizing a2 with
  | nil =>
    unfold Machine.smapLines
    exact h
  | cons e a ih =>
    unfold Machine.smapLines
    split
    · exact h
    · split
      · exact ite_ok (ih h) h.countRefusal
      · split
        · next e1 =>
            exact ih ((h.tvAt.get e1).updLease (fun _ i1 => i1))
        · next e2 =>
            exact h.tvAt.get e2
        · next e3 =>
            exact h.tvAt.get e3
        · next e4 =>
            exact h.tvAt.get e4

theorem Good.smapPages {pages : List Nat} (h : Good A B s) : SmapOk A B (smapPages l pages s) := by
  unfold Machine.smapPages
  split
  · next e1 =>
      exact (h.smapLines.get e1).updLease (fun _ i1 => i1)
  · exact h.smapLines

theorem Good.smapWrAll (h : Good A B s) : Good A B (smapWrAll s l va bs) := by
  unfold Machine.smapWrAll
  refine foldl_ok (fun _ h1 _ => ?_) h
  split
  · exact h1
  · exact h1.smapWr

theorem Good.saveRecord {addr : Nat} (h : Good A B s) : Good A B (saveRecord s l addr) := by
  unfold Machine.saveRecord
  split
  · exact h
  · dsimp only
    exact ite_ok h (ite_ok (h.postRec.smapWr.updLease (fun _ i1 => i1)) h.postRec)

theorem Good.saveFails {gpa : Nat} (h : Good A B s) : Good A B (saveFails s l ls va gpa) := by
  unfold Machine.saveFails
  dsimp only
  exact Good.saveRecord (Good.pfEvent (h.updLease (fun _ i1 => i1)))

theorem LeaseOk.goAway (hl : LeaseOk A ls) : LeaseOk A (goAway ls) := hl

theorem Good.checkpointCopy (h : Good A B s) : Good A B (checkpointCopy s l) := by
  unfold Machine.checkpointCopy
  split
  · next e1 =>
      exact h.setSaved (h.saved.put (h.releaseShunter.leaseOf.get e1))
  · exact h

theorem Good.beginArea (h : Good A B s) : Good A B (beginArea s l ls) := h.smapWrAll

theorem Good.writeArea (h : Good A B s) : Good A B (writeArea s l ls) := by
  unfold Machine.writeArea
  dsimp only
  exact Good.bump (h.beginArea.smapWrAll.smapWrAll.updLease (fun _ i1 => i1))

theorem Good.execSaveComplete {l : Nat} {s : State} (h : Good A B s) : Keeps A B (execSaveComplete l s) := by
  unfold Machine.execSaveComplete
  split
  · exact h
  · refine ite_ok (P := Keeps A B) h ?_
    extract_lets size
    generalize 4096 + saveLen _ = len
    split
    · exact h.beginArea.saveFails
    · split
      · next e => exact h.smapPages.get e
      · next e => exact Good.saveFails (ite_ok (h.smapPages.get e) (Good.beginArea (h.smapPages.get e)))
      · next s1 e =>
        have h1 : Good A B s1 := h.smapPages.get e
        split
        · exact h1
        · refine ite_ok (P := Keeps A B) ?_ ?_
          · exact Good.checkpointCopy (Good.updLease h1.writeArea (fun _ hl => hl))
          · exact Good.wakeShunter (Good.updLease h1.writeArea (fun _ hl => hl.goAway))

theorem LeaseOk.resumeLease (hl : LeaseOk A ls) : LeaseOk A (resumeLease s ls) := by
  unfold Machine.resumeLease
  dsimp only
  dsimp only [LeaseOk]
  exact hl.map (fun _ _ i1 => i1)

theorem Good.raiseFloors (h : Good A B s) : Good A B (raiseFloors s l t) := by
  unfold Machine.raiseFloors
  dsimp only [Good]
  exact h.setReqs h.reqs.map

theorem Good.rollbackDone {sv : Lease} (h : Good A B s) (hl : LeaseOk A sv) : Good A B (rollbackDone s l sv) := by
  unfold Machine.rollbackDone
  extract_lets _ s0 s1 s2 s3
  have hs0 : Good A B s0 := foldl_ok (fun _ h1 _ => h1.discardPend) h.unlockAll
  have hs1 : Good A B s1 := foldl_ok (fun _ h2 _ => Good.settle (h2.setReqs h2.reqs.del)) hs0
  have hs2 : Good A B s2 := hs1
  have hs3 : Good A B s3 := hs2.updLease (fun _ _ => LeaseOk.resumeLease hl)
  exact hs3.raise

theorem Good.execRestoreComplete (h : Good A B s) : Keeps A B (execRestoreComplete l s) := by
  unfold Machine.execRestoreComplete
  split
  · exact h
  · dsimp only
    split
    · exact h
    · split
      · exact h.forceStop
      · split
        · split
          · next e1 =>
              exact h.rollbackDone (h.saved.find.get e1)
          · exact h.forceStop
        · exact Good.raiseFloors (h.releaseShunter.updLease (fun _ i1 => i1.resumeLease))

theorem Good.takeSlice (h : Good A B s) : Good A B (takeSlice s l) := h.cutRequests.updLease (fun _ i1 => i1)

/-! ### The end of a lease -/

theorem Good.execSelect (h : Good A B s) : Keeps A B (execSelect l s) := h

theorem Good.execLeaseEnd (h : Good A B s) : Keeps A B (execLeaseEnd l s) := by
  unfold Machine.execLeaseEnd
  dsimp only
  split
  · exact h
  · exact Good.forceStop h

theorem Good.execRetrysave (h : Good A B s) : Keeps A B (execRetrysave l s) := by
  unfold Machine.execRetrysave
  dsimp only
  split
  · exact h
  · show Good A B _
    exact ite_ok (Good.updLease h (fun _ i1 => i1)) h

theorem Good.dropRequests (h : Good A B s) : Good A B (dropRequests s l) := by
  unfold Machine.dropRequests
  dsimp only
  exact foldl_ok (fun _ h1 _ => Good.settle (h1.setReqs h1.reqs.del)) h

theorem Good.dropJobs (h : Good A B s) : Good A B (dropJobs s l) := by
  unfold Machine.dropJobs
  refine foldl_ok (fun _ h1 _ => ?_) h
  split
  · exact h1
  · dsimp only
    split
    · split
      · dsimp only [Good]
        exact h1.putEntry
      · dsimp only [Good]
        exact h1
    · exact h1

theorem Good.dropVersions (h : Good A B s) : Good A B (dropVersions s l) := foldl_ok (fun _ h1 _ => ite_ok h1.setLine h1) h

theorem Good.writeReport (h : Good A B s) : BothOk (OptOk (Good A B)) (Good A B) (writeReport s l ls) := by
  unfold Machine.writeReport
  split
  · next e1 =>
      exact ⟨(h.smapPages.get e1).smapWrAll, h.smapPages.get e1⟩
  · next e2 =>
      exact ⟨(h.smapPages.get e2).pfEvent, h.smapPages.get e2⟩
  · next e3 =>
      exact ⟨trivial, h.smapPages.get e3⟩

theorem Good.strayLater (h : Good A B s) : Good A B (strayLater s l ls) := ite_ok h (foldl_ok (fun _ h1 _ => h1.pfEvent) h)

theorem Good.forgetLease (h : Good A B s) : Good A B (forgetLease s l ls) := by
  unfold Machine.forgetLease
  extract_lets s1 s2 s3
  have hs1 : Good A B s1 := h.strayLater.updVf
  have hs2 : Good A B s2 := hs1.updQueue
  have hs3 : Good A B s3 := by
    unfold s3
    split
    · exact hs2.updLease (fun _ i1 => i1)
    · exact hs2
  dsimp only [Good]
  exact Held.setSaved (hs3.setLeases (hs3.leases.del.map (fun _ _ i2 => ite_ok i2 i2))) hs3.saved.del

theorem Good.discardAll (h : Good A B s) : Good A B (discardAll s l ls) := by
  unfold Machine.discardAll
  dsimp only
  exact h.dropRequests.unlockAll.dropVersions.dropJobs.updLease (fun _ i1 => i1)

theorem Good.execStopComplete {l : Nat} {s : State} (h : Good A B s) : Keeps A B (execStopComplete l s) := by
  unfold Machine.execStopComplete
  split
  · exact h
  · next ls _ =>
    extract_lets s1
    have hs1 : Good A B s1 := Good.discardAll h
    clear_value s1
    refine ite_ok (P := Keeps A B) h (ite_ok (P := Keeps A B) h ?_)
    generalize (match ls.commit with
      | some c => c.phase != 0
      | none => false) = b
    refine ite_ok (P := Keeps A B) h (ite_ok (P := Keeps A B) h ?_)
    split
    · exact hs1
    · next now _ =>
      extract_lets rep
      have hrep : BothOk (OptOk (Good A B)) (Good A B) rep :=
        ite_ok (P := BothOk (OptOk (Good A B)) (Good A B)) ⟨hs1, hs1⟩ hs1.writeReport
      clear_value rep
      split
      · exact hrep.2
      · next s2 _ =>
        have hs2 : Good A B s2 := hrep.1
        split
        · exact hs2.forgetLease.wakeShunter
        · split
          · next e => exact Good.wakeShunter (Good.forgetLease (hs2.retireTask.get e).1)
          · next e => exact (hs2.retireTask.get e).2

theorem Good.endLaunch (h : Good A B s) : Good A B (endLaunch s l) := h.updLease (fun _ i1 => ite_ok i1 i1)

/-! ### Planes and phases -/

theorem TileOk.swapTile (hx : TileOk A x) : TileOk A (swapTile ls t x) := by
  unfold Machine.swapTile
  dsimp only
  exact hx

theorem Good.tickOff {grps : optParam (List Nat) []} (h : Good A B s) : Good A B (tickOff s l t grps) := h.updSeq

theorem Good.resort {e : Nat × Tok} (h : Good A B s) : Good A B (resort l t s e) := by
  unfold Machine.resort
  split
  · exact h
  · next e1 =>
      dsimp only
      split
      · split
        · exact h.updTile (fun _ _ => TileOk.enterBuffer (OptOk.get (h.leaseOf.bind (fun _ i1 => i1.tileOf)) e1))
        · exact h
      · split
        · exact Good.stray (h.updTile (fun _ _ => OptOk.get (h.leaseOf.bind (fun _ i2 => i2.tileOf)) e1))
        · exact h

theorem Good.execPlaneSwap (h : Good A B s) : Keeps A B (execPlaneSwap l t s) := by
  unfold Machine.execPlaneSwap
  split
  · exact h
  · split
    · split
      · exact h
      · split
        · split
          · exact h.tickOff.noteFault
          · show Good A B _
            exact foldl_ok (fun _ h1 _ => h1.resort) (h.tickOff.updTile (fun _ i1 => i1.swapTile))
        · exact ite_ok h.tickOff.stray h
    · exact h

theorem Good.cswapDone {all fin : Bool} (h : Good A B s) : Good A B (cswapDone s l all fin) := by
  unfold Machine.cswapDone
  extract_lets _ s1
  have hs1 : Good A B s1 := h.updLease (fun _ i1 => i1)
  split
  · exact hs1
  · extract_lets s2 s3 s4
    have hs2 : Good A B s2 := by
      unfold s2
      split
      · exact hs1.raise
      · exact hs1
    have hs3 : Good A B s3 := by
      unfold s3
      split
      · exact hs2
      · split
        · exact hs2.raise
        · exact hs2.raise
    have hs4 : Good A B s4 := hs3.updSeq
    exact ite_ok hs4.takeSlice hs4

theorem Good.execCswap {fin : Bool} (h : Good A B s) : Keeps A B (execCswap xa fin s) := by
  unfold Machine.execCswap
  refine Good.onTwins h (fun _ _ i1 _ => ?_)
  split
  · exact ite_ok h.cswapDone h
  · split
    · exact h.updSeq
    · dsimp only
      exact ite_ok h.seqFault h.updSeq

theorem Good.execPhaseEnd (h : Good A B s) : Keeps A B (execPhaseEnd l s) := by
  unfold Machine.execPhaseEnd
  split
  · exact h
  · extract_lets s1
    have hs1 : Good A B s1 := h.updLease (fun _ i1 => i1)
    exact ite_ok h (ite_ok hs1.endLaunch hs1)

theorem TileOk.Tile_gone : TileOk A (Tile.gone) := by
  unfold Machine.Tile.gone
  dsimp only
  dsimp only [TileOk]
  exact TileOk.zero

theorem Good.execTilePass (h : Good A B s) : Keeps A B (execTilePass l t s) := by
  unfold Machine.execTilePass
  split
  · exact h
  · split
    · exact h
    · exact ite_ok (Good.wakeShunter (h.updTile (fun _ _ => TileOk.Tile_gone))) h

theorem Good.execHalt (h : Good A B s) : Keeps A B (execHalt s) := h.onTwins (fun _ _ _ _ => ite_ok h (ite_ok h h.endLaunch))

theorem Good.execYieldTurn (h : Good A B s) : Keeps A B (execYieldTurn s) :=
  h.onTwins (fun _ _ _ _ => ite_ok h (ite_ok h.updSeq.takeSlice h.updSeq))

theorem Good.reissue (h : Good A B s) : Good A B (reissue s id) := h.updReq

theorem Good.applyAct {act : Nat} (h : Good A B s) : Good A B (applyAct s l t k act) := by
  unfold Machine.applyAct
  split
  · exact h
  · dsimp only
    split
    · exact h.updCtx.updCtx
    · exact h.updCtx
    · exact h.updCtx
    · exact h
    · exact h.updCtx
    · exact h.updCtx.updCtx
    · exact h.updCtx.updCtx
    · exact h.reissue.updCtx
    · split
      · split
        · split
          · exact h.updCtx.endFiring
          · exact h.updCtx
        · exact h.updCtx.updCtx
      · exact h.updCtx
    · exact h.updCtx.updCtx
    · exact h.updCtx.updCtx
    · exact h.updCtx.updCtx
    · exact Good.updCtx (Good.settle (h.setReqs h.reqs.del))
    · exact Good.updCtx (Good.updCtx (Good.settle (h.setReqs h.reqs.del)))
    · exact h

theorem Good.finishRecord {r : FRec} {d7 : Nat} (h : Good A B s) : Good A B (finishRecord s l ls r d7) := by
  unfold Machine.finishRecord
  split
  · exact h
  · exact ite_ok (foldl_ok (fun _ h1 _ => Good.applyAct (ite_ok h1.updCtx h1)) h) h

theorem Good.eretDone (h : Good A B s) : Good A B (eretDone s l ls) := by
  unfold Machine.eretDone
  dsimp only
  exact Good.updSeq (Good.smapWr (h.updLease (fun _ i1 => i1)))

theorem Good.execEret (h : Good A B s) : Keeps A B (execEret s) := by
  unfold Machine.execEret
  refine Good.onTwins h (fun _ _ i1 _ => ?_)
  dsimp only
  split
  · exact h.seqFault
  · split
    · exact h.eretDone
    · split
      · split
        · exact h
        · split
          · next e1 =>
              exact h.vread.get e1
          · next e2 =>
              exact (h.vread.get e2).updSeq
          · next e3 =>
              exact (h.vread.get e3).seqFault
          · next e4 =>
              exact ite_ok (h.vread.get e4).seqFault (h.vread.get e4).finishRecord.eretDone
      · split
        · exact h
        · split
          · next e5 =>
              exact h.vread.get e5
          · next e6 =>
              exact (h.vread.get e6).updSeq
          · next e7 =>
              exact (h.vread.get e7).seqFault
          · next e8 =>
              exact ite_ok (h.vread.get e8).seqFault (h.vread.get e8).finishRecord.eretDone

/-! ### Streams -/

theorem Good.setStrm {sid : Nat} {x : Machine.Stream} (h : Good A B s) : Good A B (setStrm s l sid x) := h.updLease (fun _ i1 => i1)

theorem Good.intoPort {e : StrmEnt} {k : Tok} (h : Good A B s) : Good A B (intoPort s l ls e k) :=
  foldl_ok (fun _ h1 _ => h1.updTile (fun _ i1 => i1)) h

theorem Good.strmFault {sid : Nat} {e : StrmEnt} {cause addr : Nat} (h : Good A B s) :
    Good A B (strmFault s l sid ls e cause addr) := by
  unfold Machine.strmFault
  dsimp only
  exact h.setStrm.raise

theorem Good.askToken {sid : Nat} {e : StrmEnt} {x : Machine.Stream} (h : Good A B s) : Good A B (askToken s l sid ls e x) := by
  unfold Machine.askToken
  split
  · exact h.setStrm
  · split
    · exact h.strmFault
    · dsimp only
      exact Good.setStrm h.addReq

theorem Good.popChan {c : Nat} (h : Good A B s) : Good A B (popChan s k c) := h.updCoupler

theorem Good.execStreamInputToken {sid : Nat} (h : Good A B s) : Keeps A B (execStreamInputToken l sid s) := by
  unfold Machine.execStreamInputToken
  split
  · exact h
  · dsimp only
    split
    · exact h
    · split
      · exact h
      · split
        · exact h.intoPort.setStrm
        · split
          · exact h
          · split
            · exact h.intoPort.setStrm
            · split
              · exact h
              · split
                · split
                  · exact h
                  · exact ite_ok h.popChan.emit h.popChan.intoPort.setStrm
                · exact ite_ok h.askToken h.intoPort.setStrm

theorem Good.takeOut {e : StrmEnt} (h : Good A B s) : Good A B (takeOut s l ls e) :=
  foldl_ok (fun _ h1 _ => h1.updTile (fun _ i1 => i1.takeHead)) h

theorem Good.storeToken {sid : Nat} {e : StrmEnt} {x : Machine.Stream} {t : Tok} (h : Good A B s) :
    Good A B (storeToken s l sid ls e x t) := by
  unfold Machine.storeToken
  split
  · exact h.noteFault
  · split
    · exact h.setStrm
    · split
      · exact h.strmFault
      · dsimp only
        exact Good.setStrm h.addReq

theorem Good.sendToken {sid : Nat} {x : Machine.Stream} {t : Tok} (h : Good A B s) : Good A B (sendToken s l sid ls x t) := by
  unfold Machine.sendToken
  dsimp only
  exact ite_ok (Good.setStrm h.emit.addReq) h.emit.setStrm

theorem Good.execStreamOutputToken {sid : Nat} (h : Good A B s) : Keeps A B (execStreamOutputToken l sid s) := by
  unfold Machine.execStreamOutputToken
  split
  · exact h
  · dsimp only
    split
    · exact h
    · split
      · exact h
      · split
        · exact h
        · exact h
        · split
          · exact h.rollback
          · split
            · exact ite_ok h.takeOut.sendToken h
            · exact ite_ok h.takeOut.setStrm (ite_ok h.takeOut.storeToken h.takeOut)

end Sys2Proof.Claims
end

section
/-! SUPPORT. What placement, pairs, clocks and the reset of a die keep of the canonical forms. -/

namespace Sys2Proof.Claims
open Sys2Proof Sys2Proof.Machine

variable {A B : Prop} {s : State} {l t k id i n pa va : Nat} {bs : List Byte} {ps : List Bool} {ls : Lease} {x : Tile} {xd xa xb : BitVec 5}

/-! ### The placement engine -/

theorem Good.relocateSeg {d key : Nat} (h : Good A B s) : Good A B (relocateSeg s d key) := by
  unfold Machine.relocateSeg
  dsimp only
  split
  · exact h
  · split
    · exact h
    · exact h

theorem Good.relocateSegs {old : Nat} (h : Good A B s) : Good A B (relocateSegs s l old) := by
  unfold Machine.relocateSegs
  split
  · exact h
  · exact ite_ok h (foldl_ok (fun _ h1 _ => h1.relocateSeg) h)

theorem Good.adoptJob {tenant j : Nat} (h : Good A B s) : OptOk (Good A B) (adoptJob s tenant j) := by
  unfold Machine.adoptJob
  split
  · exact h
  · split
    · exact ite_ok (P := OptOk (Good A B)) trivial h
    · exact h

theorem LeaseOk.atSpot {p : Spot} (hl : LeaseOk A ls) : LeaseOk A (atSpot ls p) := hl

theorem LeaseOk.grantLease {s : State} {c : Cand} {im : Img} {p : Spot} {slot : Nat} {q : QRec} {smap : List (Nat × Nat)} :
    LeaseOk A (grantLease s c im p slot q smap) := by
  unfold Machine.grantLease
  exact AllOk.of_map (fun _ => MemOk.nil)

theorem Good.tryStart {s : State} {c : Cand} {slot : Nat} (h : Good A B s) : TryOk A B (tryStart s c slot) := by
  unfold Machine.tryStart
  refine ite_ok (P := TryOk A B) h ?_
  split
  · next l _ _ =>
    extract_lets _ l0 back
    have hl0 : LeaseOk A l0 := LeaseOk.freshLease (im := Img.blank) (r := c.rec_)
    have hback : ∀ t, Good A B t → Good A B (back t) := fun t ht => ht.setLeases ht.leases.del
    have h0 : Good A B { s with leases := mput s.leases l l0 } := h.setLeases (h.leases.put hl0)
    clear_value back l0
    split
    · next e => exact hback _ (h0.readImage.get e)
    · next e => exact hback _ (h0.readImage.get e)
    · next s1 e =>
      have h1 : Good A B (back s1) := hback _ (h0.readImage.get e)
      split
      · next e => exact h1.adoptJob.get e
      · exact h1
    · next s1 e =>
      have h1 : Good A B s1 := h0.readImage.get e
      split
      · exact hback _ h1
      · split
        · exact hback _ h1
        · split
          · next e => exact hback _ (h1.smapPages.get e)
          · next e => exact hback _ (h1.smapPages.get e)
          · next s2 e =>
            have h2 : Good A B s2 := h1.smapPages.get e
            extract_lets smap g s3 s4 s5
            have hg : LeaseOk A g := LeaseOk.grantLease
            have hs3 : Good A B s3 := Held.setSaved (h2.setLeases (h2.leases.put hg)) (ite_ok (h2.saved.put hg) h2.saved)
            have hs5 : Good A B s5 := hs3.smapWrAll.updQueue
            refine Good.bump ?_
            split
            · exact hs5.updLease (fun _ hl => hl)
            · exact hs5
  · exact h

theorem Good.depSync {tenant : Nat} {r : Rec} (h : Good A B s) : SndOk (SndOk (Good A B)) (depSync s tenant i n r) := by
  unfold Machine.depSync
  extract_lets
  split
  · next e1 =>
      exact h.tvAt.get e1
  · next e2 =>
      exact h.tvAt.get e2
  · next e3 =>
      exact h.tvAt.get e3
  · next e4 =>
      split
      · split
        · next e5 =>
            extract_lets _ t s3
            have ht : Good A B t := ((h.tvAt.get e4).devGet.get e5).bump
            have hs3 : Good A B s3 := ht
            exact ite_ok (P := SndOk (SndOk (Good A B))) hs3 (ite_ok (P := SndOk (SndOk (Good A B))) hs3 hs3)
      · exact h.tvAt.get e4

theorem Good.depMet {tenant : Nat} {d : Dword} {r : Rec} (h : Good A B s) :
    SndOk (SndOk (Good A B)) (depMet s tenant i d r) := by
  unfold Machine.depMet
  dsimp only
  split
  · split
    · exact h
    · exact h.depSync
  · split
    · exact h
    · exact h

theorem Good.depsMet {s : State} {tenant : Nat} {r : Rec} (h : Good A B s) : SndOk (SndOk (Good A B)) (depsMet s tenant r) := by
  unfold Machine.depsMet
  refine foldl_ok (P := SndOk (SndOk (Good A B))) (fun a ha e => ?_) h
  have hd : SndOk (SndOk (Good A B)) (Machine.depMet a.2.2 tenant e.2 e.1 a.2.1) := Good.depMet ha
  exact hd

theorem Good.refuseHead {g cause : Nat} (h : Good A B s) : Good A B (refuseHead s g cause) := by
  unfold Machine.refuseHead
  dsimp only
  split
  · next e1 =>
      exact Good.queueError (Good.updQueue (h.retireTask.get e1).1)
  · next e2 =>
      exact (h.retireTask.get e2).2

theorem Good.takeRecord {g : Nat} (h : Good A B s) : Good A B (takeRecord s g) := by
  unfold Machine.takeRecord
  dsimp only
  split
  · exact h
  · split
    · split
      · next e1 =>
          exact h.tvRead.get e1
      · next e2 =>
          exact (h.tvRead.get e2).refuseHead
      · next e3 =>
          split
          · exact (h.tvRead.get e3).refuseHead
          · split
            · exact (h.tvRead.get e3).refuseHead
            · split
              · exact (h.tvRead.get e3).updQueue
              · split
                · next e4 =>
                    exact (h.tvRead.get e3).tvRead.get e4
                · next e5 =>
                    exact ((h.tvRead.get e3).tvRead.get e5).refuseHead
                · next e6 =>
                    exact ite_ok ((h.tvRead.get e3).tvRead.get e6).refuseHead ((h.tvRead.get e3).tvRead.get e6).updQueue
    · exact h

theorem Good.setWhy {g : Nat} {w : BitVec 4} (h : Good A B s) : Good A B (setWhy s g w) := h.updQueue

theorem Good.tryHead {s : State} {g : Nat} {may : Bool} (h : Good A B s) : HeadOk A B (tryHead s g may) := by
  unfold Machine.tryHead
  extract_lets s0 q
  have hs0 : Good A B s0 := h.takeRecord
  clear_value s0 q
  refine ite_ok (P := HeadOk A B) hs0 ?_
  split
  · exact hs0
  · next r _ =>
    have hd : SndOk (SndOk (Good A B)) (if q.depsOk then (.ok, r, s0) else Machine.depsMet s0 q.vf r) :=
      ite_ok (P := SndOk (SndOk (Good A B))) hs0 hs0.depsMet
    split
    · next e => exact Good.refuseHead (hd.get e)
    · next e => exact Good.setWhy (Good.updQueue (hd.get e))
    · next s1 e =>
      extract_lets s2
      have hs2 : Good A B s2 := Good.updQueue (hd.get e)
      split
      · exact hs2.setWhy
      · refine ite_ok (P := HeadOk A B) hs2.setWhy ?_
        split
        · next e => exact Good.refuseHead (hs2.tryStart.get e)
        · next e => exact Good.setWhy (hs2.tryStart.get e)
        · next e => exact ite_ok (P := HeadOk A B) (Good.setWhy (hs2.tryStart.get e)) (Good.setWhy (hs2.tryStart.get e))
        · next e => exact ite_ok (P := HeadOk A B) hs2.setWhy (Good.updVf (Good.updQueue (hs2.tryStart.get e)))

theorem Good.endCand {c : ChildCand} {cause : Nat} (h : Good A B s) : Good A B (endCand s c cause) := by
  unfold Machine.endCand
  dsimp only
  split
  · exact Good.updLease (Good.updVf h) (fun _ i1 => i1)
  · exact Good.updVf h

theorem Good.tryChild {c : ChildCand} (h : Good A B s) : HeadOk A B (tryChild s c) := by
  unfold Machine.tryChild
  split
  · exact h.endCand
  · split
    · next e1 =>
        exact (h.depsMet.get e1).endCand
    · next e2 =>
        extract_lets _ s2
        have hs2 : Good A B s2 := h.depsMet.get e2
        split
        · exact hs2
        · split
          · next e3 =>
              exact (hs2.tryStart.get e3).endCand
          · next e4 =>
              exact hs2.tryStart.get e4
          · next e5 =>
              exact hs2.tryStart.get e5
          · next e6 =>
              exact hs2.tryStart.get e6

theorem Good.tryResume (h : Good A B s) : HeadOk A B (tryResume s l ls) := by
  unfold Machine.tryResume
  split
  · exact h
  · exact Good.relocateSegs (h.updLease (fun _ i1 => by dsimp only [LeaseOk]; exact i1.atSpot))

theorem HeadOk.st {r : HeadRes} (h : HeadOk A B r) : Good A B (HeadRes.st r) := by
  cases r with
  | started s => exact h
  | noRoom s => exact h
  | no s => exact h

theorem Good.stepResume (h : Good A B s) : Good A B (stepResume s) := foldl_ok (fun _ h1 _ => h1.tryResume.st) h

theorem Good.stepAged (h : Good A B s) : Good A B (stepAged s) := foldl_ok (fun _ h1 _ => h1.tryHead.st) h

theorem Good.stepChildren (h : Good A B s) : Good A B (stepChildren s) := foldl_ok (fun _ h1 _ => h1.tryChild.st) h

theorem Good.serveOne {cls : Nat} {credit : Bool} {gs : List Nat} {s : State} (h : Good A B s) :
    SndOk (Good A B) (serveOne cls credit gs s) := by
  induction gs generalizing s with
  | nil => exact h
  | cons g rest ih =>
    change SndOk (Good A B) (if decide (0 < (queueOf s g).cred) != credit then Machine.serveOne cls credit rest s
      else match Machine.tryHead s g with
        | .started s1 => (true, { Machine.updQueue s1 g (fun q => { q with cred := q.cred - 1 }) with circle := mput s1.circle cls g })
        | .noRoom s1 => Machine.serveOne cls credit rest s1
        | .no s1 => Machine.serveOne cls credit rest s1)
    refine ite_ok (P := SndOk (Good A B)) (ih h) ?_
    have ht : HeadOk A B (Machine.tryHead s g) := h.tryHead
    split
    · next s1 e =>
      have h1 : Good A B s1 := ht.get e
      dsimp only [SndOk, Good]
      exact h1.updQueue
    · next e => exact ih (ht.get e)
    · next e => exact ih (ht.get e)

theorem Good.refillCred (h : Good A B s) : Good A B (refillCred s) := h

theorem Good.serveClass {cls a : Nat} {a2 : State} (h : Good A B a2) : Good A B (serveClass cls a a2) := by
  induction a generalizing a2 with
  | zero =>
    unfold Machine.serveClass
    exact h
  | succ a ih =>
    unfold Machine.serveClass
    dsimp only
    split
    · next e1 =>
        exact ih (SndOk.get (Good.serveOne (foldl_ok (fun _ h1 _ => h1.takeRecord) h)) e1)
    · next e2 =>
        split
        · exact ih (Good.refillCred (SndOk.get (Good.serveOne (foldl_ok (fun _ h2 _ => h2.takeRecord) h)) e2))
        · next e3 =>
            exact SndOk.get (Good.serveOne (SndOk.get (Good.serveOne (foldl_ok (fun _ h3 _ => h3.takeRecord) h)) e2)) e3

theorem Good.examineHeads (h : Good A B s) : Good A B (examineHeads s) := foldl_ok (fun _ h1 _ => h1.tryHead.st) h

theorem Good.ageHeads (h : Good A B s) : Good A B (ageHeads s) := h

theorem Good.setClaims {wants : List Nat} (h : Good A B s) : Good A B (setClaims s wants) := by
  unfold Machine.setClaims
  dsimp only [Good]
  exact h.setLeases (h.leases.map (fun _ _ i1 => i1))

theorem Good.compactStep (h : Good A B s) : Good A B (compactStep s) := by
  unfold Machine.compactStep
  dsimp only
  split
  · exact h
  · split
    · exact h.startDrain
    · exact h

theorem Good.execShunterRound (h : Good A B s) : Keeps A B (execShunterRound s) := by
  unfold Machine.execShunterRound
  dsimp only
  split
  · exact h
  · show Good A B _
    exact Good.compactStep (foldl_ok (fun _ h1 _ => h1.switchOut) (Good.setClaims (Good.ageHeads (ite_ok (Good.examineHeads
        (Good.stepAged (Good.stepResume (foldl_ok (fun _ h2 _ => ite_ok h2.loadQrec.takeRecord h2) (h.setLeases
        (h.leases.map (fun _ _ i1 => i1.closeRound))))))) (foldl_ok (fun _ h3 _ => h3.serveClass) (Good.stepChildren
        (Good.stepAged (Good.stepResume (foldl_ok (fun _ h4 _ => ite_ok h4.loadQrec.takeRecord h4) (h.setLeases
        (h.leases.map (fun _ _ i2 => i2.closeRound))))))))))))

theorem Good.execQosSliceExpiry (h : Good A B s) : Keeps A B (execQosSliceExpiry l s) := by
  unfold Machine.execQosSliceExpiry
  split
  · exact h
  · dsimp only
    exact ite_ok h (h.updLease (fun _ i1 => i1))

/-! ### Paired leases -/

theorem Good.passBoth {p t : Nat × Req} (h : Good A B s) : Good A B (passBoth s p t) := h.seqPassed.seqPassed

theorem Good.issueOnce {p t : Nat × Req} (h : Good A B s) : Good A B (issueOnce s ls p t) := by
  unfold Machine.issueOnce
  split
  · dsimp only
    exact ite_ok h.passBoth.updReq h.passBoth.updReq.perform
  · exact ite_ok h h.updReq

theorem Good.execPairedExitRequest (h : Good A B s) : Keeps A B (execPairedExitRequest id s) := by
  unfold Machine.execPairedExitRequest
  split
  · exact h
  · split
    · exact ite_ok h (ite_ok h.rollback (ite_ok h.issueOnce h.issueOnce))
    · exact h

theorem Good.execTwinTimeout (h : Good A B s) : Keeps A B (execTwinTimeout id s) := by
  unfold Machine.execTwinTimeout
  split
  · exact h
  · split
    · exact h
    · exact ite_ok h.rollback h

theorem Good.checkpointSaved (h : Good A B s) : Good A B (checkpointSaved s l ls) := by
  unfold Machine.checkpointSaved
  split
  · exact h
  · split
    · exact h.forceStop
    · exact ite_ok (ite_ok h.forceStop h.startCommit) (h.releaseShunter.updLease (fun _ i1 => i1))

theorem Good.checkpointAt (h : Good A B s) : Keeps A B (checkpointAt l s) := by
  unfold Machine.checkpointAt
  split
  · exact h
  · exact ite_ok h (ite_ok (Good.startDrain (h.updLease (fun _ i1 => i1))) (ite_ok h.checkpointSaved h))

theorem Good.execCheckpoint (h : Good A B s) : Keeps A B (execCheckpoint s) := Keeps.onLease (fun _ => h.checkpointAt)

theorem Good.auditLink {tr : Nat} (h : Good A B s) : Good A B (auditLink s l t tr) := by
  unfold Machine.auditLink
  split
  · exact h
  · dsimp only
    split
    · exact h
    · split
      · exact h.pfEvent.noteFault.setLink
      · exact h.pfEvent.noteFault.updTile (fun _ i1 => i1)

theorem Good.execCreditAuditWindow {die : Nat} (h : Good A B s) : Keeps A B (execCreditAuditWindow die s) := by
  unfold Machine.execCreditAuditWindow
  show Good A B _
  exact foldl_ok (fun _ h1 _ => h1.auditLink) h

/-! ### Ticks, rebases and power -/

theorem Good.execTickAdvance {m : BitVec 160} (h : Good A B s) : Keeps A B (execTickAdvance m s) := ite_ok h (ite_ok h h)

theorem Good.execClockHorizon {s : State} (h : Good A B s) : Keeps A B (execClockHorizon s) := by
  unfold Machine.execClockHorizon
  refine ite_ok (P := Keeps A B) h ?_
  exact foldl_ok (P := Good A B) (fun _ ht _ => ht.revokeView) (Good.pfEvent h)

theorem LeaseOk.shiftLease {ls : Lease} (hl : LeaseOk A ls) : LeaseOk A (shiftLease ls) := by
  unfold Machine.shiftLease LeaseOk
  dsimp only
  refine AllOk.map hl (fun _ x hx => ?_)
  exact hx.of_store rfl

theorem Good.execClockRebaseComplete {s : State} (h : Good A B s) : Keeps A B (execClockRebaseComplete s) := by
  unfold Machine.execClockRebaseComplete
  split
  · exact h
  · extract_lets w s1
    have hs1 : Good A B s1 := h.reclaimAll
    dsimp only [Keeps, Good]
    exact ⟨hs1.mem, hs1.leases.map (fun _ _ hl => hl.shiftLease), hs1.saved.map (fun _ _ hl => hl.shiftLease),
      hs1.reqs.map, hs1.lines.map (f := fun _ x => shiftLine x)⟩

theorem Good.execClockStop (h : Good A B s) : Keeps A B (execClockStop s) := ite_ok h h

theorem Good.execCollectorPass (h : Good A B s) : Keeps A B (execCollectorPass s) := h

theorem Good.execVersionReclaim {st : Nat} (h : Good A B s) : Keeps A B (execVersionReclaim st s) := h.reclaimAll

theorem Good.writeDump (h : Good A B s) : Good A B (writeDump s) := by
  unfold Machine.writeDump
  dsimp only
  exact ite_ok h (by dsimp only [Good]; exact h.bump.hostWr)

theorem Good.goFatal {sub : Nat} (h : Good A B s) : Good A B (goFatal s sub) :=
  ite_ok h (Good.emit (Good.emit (Good.pfEvent (Good.writeDump h))))

theorem Good.execFatalError {cls : BitVec 2} (h : Good A B s) : Keeps A B (execFatalError cls s) := h.goFatal

theorem Good.execThrottleStep {power temp : Nat} (h : Good A B s) : Keeps A B (execThrottleStep l power temp s) := by
  unfold Machine.execThrottleStep
  extract_lets _ _ _ s1 s2
  have hs1 : Good A B s1 := h
  have hs2 : Good A B s2 := hs1
  exact ite_ok h.bump.goFatal (ite_ok hs2 hs2.pfEvent)

theorem Good.ueBorn {sub tenant lease die a1 a2 : Nat} (h : Good A B s) : Good A B (ueBorn s sub tenant lease die a1 a2) :=
  h.pfEvent

theorem Good.ueCount (h : Good A B s) : Good A B (ueCount s ls) := h.countDelivery

theorem Good.ueSector (h : Good A B s) : Good A B (ueSector s pa) := Good.bump (h.setMem h.mem.wrBytes)

theorem Good.ueSeq {reg : Nat} {rep : Bool} (h : Good A B s) : Good A B (ueSeq s l reg rep ls) := by
  unfold Machine.ueSeq
  dsimp only
  exact h.updSeq.bump.ueCount.ueBorn

theorem Good.uePort {p slot : Nat} {f : Tok → Tok} (h : Good A B s) : Good A B (uePort s l t k p slot f) := by
  unfold Machine.uePort
  split
  · dsimp only
    exact ite_ok h h.updCtx.bump.ueCount.ueBorn
  · exact h

theorem Good.llcDrop (h : Good A B s) : Good A B (llcDrop s pa) := Good.showHbm h

theorem Good.ueHbm (h : Good A B s) : Good A B (ueHbm s pa) := ite_ok h (ite_ok (Good.bump h) h.ueSector)

theorem Good.execUncorrectableError {loc : UeLoc} (h : Good A B s) : Keeps A B (execUncorrectableError loc s) := by
  unfold Machine.execUncorrectableError
  split
  · split
    · dsimp only
      exact ite_ok h h.updCtx.bump.ueCount.ueBorn
    · exact h
  · exact ite_ok h h.uePort
  · exact h.uePort
  · split
    · exact ite_ok h h.ueSeq
    · exact h
  · split
    · exact ite_ok h h.ueSeq
    · exact h
  · split
    · exact ite_ok h.partFault h
    · exact h
  · dsimp only
    exact ite_ok h (h.updTile (fun _ i1 => ite_ok i1 i1))
  · split
    · dsimp only
      exact ite_ok h (Good.ueBorn (Good.bump (h.updTile (fun _ i2 => i2.wrBytes))))
    · exact h
  · exact ite_ok h.ueSector.ueBorn h
  · exact ite_ok h (ite_ok h.ueSector.ueBorn h.llcDrop)
  · exact ite_ok h.ueHbm.ueBorn h
  · dsimp only
    split
    · exact h.setLine.bump.ueBorn
    · exact h
  · dsimp only
    split
    · exact h.setLine.bump.ueBorn
    · exact h

/-! ### The reset of a die -/

theorem Good.startDie (h : Good A B s) : Good A B (startDie s) := ite_ok h (ite_ok h h)

theorem Good.execDiectlGo (h : Good A B s) : Keeps A B (execDiectlGo s) := h.startDie

theorem Good.evacuateSeg {d key : Nat} (h : Good A B s) : Good A B (evacuateSeg s d key) := by
  unfold Machine.evacuateSeg
  dsimp only
  split
  · exact h
  · exact h

theorem Good.execDieEvacuationComplete (h : Good A B s) : Keeps A B (execDieEvacuationComplete s) := by
  unfold Machine.execDieEvacuationComplete
  extract_lets _ t
  have ht : Good A B t := foldl_ok (fun _ h1 _ => h1.evacuateSeg) h
  split
  · exact h
  · split
    · split
      · exact h
      · split
        · exact h.startDrain
        · exact h
    · exact ht

theorem Good.resendJob {j : Nat} {x : Job} (h : Good A B s) : Good A B (resendJob s j x) := by
  unfold Machine.resendJob
  split
  · exact h
  · exact h
  · dsimp only
    refine Good.updJob ?_
    split
    · split
      · exact h.putEntry
      · exact h
    · exact h

theorem Good.breakCommits {d : Nat} (h : Good A B s) : Good A B (breakCommits s d) := by
  unfold Machine.breakCommits
  refine foldl_ok (fun _ h1 _ => ?_) h
  split
  · exact ite_ok (ite_ok h1.unlockAll h1.endCommit) h1
  · exact h1

theorem Good.clearSlice {d : Nat} (h : Good A B s) : Good A B (clearSlice s d) := by
  unfold Machine.clearSlice
  dsimp only
  exact foldl_ok (fun _ h1 _ => h1.showHbm) h

theorem Good.execDieQuiesceComplete (h : Good A B s) : Keeps A B (execDieQuiesceComplete s) := by
  unfold Machine.execDieQuiesceComplete
  extract_lets _ _ s1 t s2 t1
  have hs1 : Good A B s1 := h.breakCommits
  have ht : Good A B t := hs1.clearSlice
  have hs2 : Good A B s2 := by
    unfold s2
    dsimp only [Good]
    exact ht.setReqs hs1.reqs.map
  have ht1 : Good A B t1 := foldl_ok (fun _ h1 _ => h1.resendJob) hs2
  exact ite_ok h (ite_ok h ht1)

/-- The poison marks stand apart from the parts that the canonical forms speak of. -/
theorem Good.setMpois {s : State} (h : Good A B s) (m : NSet) : Good A B { s with mpois := m } := h

theorem Good.poisonSeg {s : State} {key : Nat} (h : Good A B s) : Good A B (poisonSeg s key) := by
  unfold Machine.poisonSeg
  exact h.setMpois _

theorem Good.faultUnknown (h : Good A B s) : Good A B (faultUnknown s) := by
  unfold Machine.faultUnknown
  refine foldl_ok (fun _ h1 _ => ?_) h
  split
  · exact h1.partFault
  · exact h1

theorem Good.dieBackUp (h : Good A B s) : Good A B (dieBackUp s) := by
  unfold Machine.dieBackUp
  extract_lets s1 t
  have hs1 : Good A B s1 := h.faultUnknown
  have ht : Good A B t := foldl_ok (fun _ h1 _ => h1.poisonSeg) hs1
  exact ht

theorem Good.execDieRestart (h : Good A B s) : Keeps A B (execDieRestart s) := by
  unfold Machine.execDieRestart
  dsimp only
  split
  · exact h
  · show Good A B _
    split
    · exact ite_ok h h
    · exact ite_ok h.dieBackUp (by dsimp only [Good]; exact h.dieBackUp)

end Sys2Proof.Claims
end

section
/-! SUPPORT. What registers, couplers, boot and the operation words of vector and matrix tiles keep of the canonical forms. -/

namespace Sys2Proof.Claims
open Sys2Proof Sys2Proof.Machine

variable {A B : Prop} {s : State} {l t k id i n pa va : Nat} {bs : List Byte} {ps : List Bool} {ls : Lease} {x : Tile} {xd xa xb : BitVec 5}

/-! ### Register space -/

theorem Good.mcmdDone {op status : Nat} (h : Good A B s) : Good A B (mcmdDone s op status) := h

theorem Good.tcsetOp (h : Good A B s) : Good A B (tcsetOp s) := by
  unfold Machine.tcsetOp
  dsimp only
  exact ite_ok h.mcmdDone (ite_ok h.mcmdDone (ite_ok h.mcmdDone (Good.mcmdDone h)))

theorem Good.tcclrOp (h : Good A B s) : Good A B (tcclrOp s) := ite_ok (Good.mcmdDone h) h.mcmdDone

theorem Good.dsgrantOp (h : Good A B s) : Good A B (dsgrantOp s) := by
  unfold Machine.dsgrantOp
  dsimp only
  exact ite_ok h.mcmdDone (ite_ok h.mcmdDone (ite_ok h.mcmdDone (Good.mcmdDone h)))

theorem Good.dsrevokeOp (h : Good A B s) : Good A B (dsrevokeOp s) := ite_ok (Good.mcmdDone h) h.mcmdDone

theorem Good.unscrubRange {b : Nat} (h : Good A B s) : Good A B (unscrubRange s b n) := by
  unfold Machine.unscrubRange
  dsimp only
  exact h

theorem Good.scrubOp (h : Good A B s) : Good A B (scrubOp s) := by
  unfold Machine.scrubOp
  dsimp only
  exact ite_ok h.unscrubRange.mcmdDone h.mcmdDone

theorem Good.poolszOp (h : Good A B s) : Good A B (poolszOp s) := by
  unfold Machine.poolszOp
  dsimp only
  exact Good.mcmdDone h

theorem Good.execTcset (h : Good A B s) : Keeps A B (execTcset s) := by
  unfold Machine.execTcset
  show Good A B _
  exact ite_ok h h.tcsetOp

theorem Good.execTcclr (h : Good A B s) : Keeps A B (execTcclr s) := by
  unfold Machine.execTcclr
  show Good A B _
  exact ite_ok h h.tcclrOp

theorem Good.execDsgrant (h : Good A B s) : Keeps A B (execDsgrant s) := by
  unfold Machine.execDsgrant
  show Good A B _
  exact ite_ok h h.dsgrantOp

theorem Good.execDsrevoke (h : Good A B s) : Keeps A B (execDsrevoke s) := by
  unfold Machine.execDsrevoke
  show Good A B _
  exact ite_ok h h.dsrevokeOp

theorem Good.execScrub (h : Good A B s) : Keeps A B (execScrub s) := by
  unfold Machine.execScrub
  show Good A B _
  exact ite_ok h h.scrubOp

theorem Good.execPoolsz (h : Good A B s) : Keeps A B (execPoolsz s) := by
  unfold Machine.execPoolsz
  show Good A B _
  exact ite_ok h h.poolszOp

theorem Good.startMcmd (h : Good A B s) : Good A B (startMcmd s) := by
  unfold Machine.startMcmd
  split
  · exact h.tcsetOp
  · exact h.tcclrOp
  · exact h.dsgrantOp
  · exact h.dsrevokeOp
  · exact h.scrubOp
  · exact h.poolszOp
  · exact h

theorem Good.execMemoryCommandApplied (h : Good A B s) : Keeps A B (execMemoryCommandApplied s) := h

theorem Good.execPoolWrite {v : Nat} {val : Dword} (h : Good A B s) : Keeps A B (execPoolWrite v val s) := by
  unfold Machine.execPoolWrite
  extract_lets t
  have ht : Good A B t := h.updVf
  exact ite_ok h ht

theorem Good.execPoollvlTailWrite {v : Nat} {tail : Word} (h : Good A B s) : Keeps A B (execPoollvlTailWrite v tail s) := by
  unfold Machine.execPoollvlTailWrite
  dsimp only
  exact ite_ok h h.updVf

theorem Good.writePctl {v : Nat} {clr epok : Bool} (h : Good A B s) : Good A B (writePctl s v clr epok) := h.updVf

theorem Good.execPctlClr {v : Nat} {epok : Bool} (h : Good A B s) : Keeps A B (execPctlClr v epok s) := by
  unfold Machine.execPctlClr
  show Good A B _
  exact ite_ok h h.writePctl

theorem Good.writeBlock {v o : Nat} {val : Dword} (h : Good A B s) : Good A B (writeBlock s v o val) := by
  unfold Machine.writeBlock
  split
  · exact h.updVf
  · exact h.updVf
  · exact h.updVf
  · exact h.updVf
  · exact h

theorem Good.writeSchedg {val : Dword} (h : Good A B s) : Good A B (writeSchedg s val) := by
  unfold Machine.writeSchedg
  dsimp only
  exact h

theorem Good.writeDumpReg {o : Nat} {val : Dword} (h : Good A B s) : Good A B (writeDumpReg s o val) := by
  unfold Machine.writeDumpReg
  split
  · dsimp only
    exact h
  · dsimp only
    exact h
  · dsimp only
    exact h
  · exact h

theorem Good.writeDiectl {val : Dword} (h : Good A B s) : Good A B (writeDiectl s val) := by
  unfold Machine.writeDiectl
  dsimp only
  exact ite_ok (Good.startDie (ite_ok h h)) (ite_ok h h)

theorem Good.writePair {g o : Nat} {val : Dword} (h : Good A B s) : Good A B (writePair s g o val) := by
  unfold Machine.writePair
  split
  · exact h.updQueue
  · exact h.updQueue
  · exact h

theorem Good.writeEvent {o : Nat} {val : Dword} (h : Good A B s) : Good A B (writeEvent s o val) := by
  unfold Machine.writeEvent
  split
  · dsimp only
    exact h
  · exact h
  · exact h
  · exact h

theorem Good.writePwrctl {val : Dword} (h : Good A B s) : Good A B (writePwrctl s val) := by
  unfold Machine.writePwrctl
  dsimp only
  exact h

theorem Good.writeMcmd {o : Nat} {val : Dword} (h : Good A B s) : Good A B (writeMcmd s o val) := by
  unfold Machine.writeMcmd
  split
  · exact h
  · split
    · dsimp only
      exact ite_ok (Good.startMcmd (ite_ok h h)) (ite_ok h h)
    · exact h
    · exact h
    · exact h
    · exact h

theorem Good.writeCoupler {o : Nat} {val : Dword} (h : Good A B s) : Good A B (writeCoupler s k o val) :=
  ite_ok h (ite_ok h.updCoupler (ite_ok h.updCoupler (ite_ok h.updCoupler h)))

theorem Good.pfWrite {o : Nat} {val : Dword} (h : Good A B s) : Good A B (pfWrite s o val) := by
  unfold Machine.pfWrite
  exact ite_ok h.writeBlock (ite_ok h.updVf (ite_ok h.writePctl (ite_ok h.updVf (ite_ok h.writeSchedg (ite_ok h.writeDumpReg
    (ite_ok h.writeDiectl (ite_ok h.writePair (ite_ok h.writeEvent (ite_ok h.writePwrctl (ite_ok h.writeMcmd
      (ite_ok h.writeCoupler h)))))))))))

theorem Good.vfWrite {v o : Nat} {val : Dword} (h : Good A B s) : Good A B (vfWrite s v o val) := by
  unfold Machine.vfWrite
  split
  · split
    · exact h.updQueue
    · exact h
  · exact h

theorem Good.execRegisterWrite {fn : Fn} {off : Nat} {val : Dword} {ep : Bool} (h : Good A B s) :
    Keeps A B (execRegisterWrite fn off val ep s) := by
  unfold Machine.execRegisterWrite
  split
  · exact h.emit
  · split
    · exact h.pfWrite
    · exact h.vfWrite

/-! ### Couplers -/

theorem Good.execCouplerLinkChange {up : Bool} {peerId : Word} {peerK : BitVec 4} (h : Good A B s) :
    Keeps A B (execCouplerLinkChange k up peerId peerK s) := by
  unfold Machine.execCouplerLinkChange
  dsimp only
  exact ite_ok h h.updCoupler.pfEvent

theorem Good.execPeerRequest {tenant off : Nat} {op : PeerOp} (h : Good A B s) :
    Keeps A B (execPeerRequest k tenant off op s) := by
  unfold Machine.execPeerRequest
  dsimp only
  split
  · exact h
  · split
    · exact h.emit
    · split
      · exact h.emit
      · split
        · exact h.addReq
        · exact h.emit

theorem Good.execPeerPanelReset (h : Good A B s) : Keeps A B (execPeerPanelReset k s) := by
  unfold Machine.execPeerPanelReset
  show Good A B _
  refine foldl_ok (fun _ h1 _ => ?_) h
  split
  · exact h1.partFault
  · exact h1

theorem Good.execCouplerStreamToken {chan sender : Nat} {data : Payload} {pois : LaneMask} {tag : BitVec 3} {aux : BitVec 8}
    (h : Good A B s) : Keeps A B (execCouplerStreamToken k chan sender data pois tag aux s) :=
  ite_ok h h.updCoupler

/-! ### Reset and boot -/

theorem Keeps.execDeviceReset {f : BootFind} {s : State} : Keeps A B (execDeviceReset f s) :=
  ⟨MemOk.nil, AllOk.nil, AllOk.nil, TabOk.nil, TabOk.nil⟩

theorem Good.execRecoveryImageWrite {valid : Bool} {svn : Nat} (h : Good A B s) :
    Keeps A B (execRecoveryImageWrite valid svn s) := by
  unfold Machine.execRecoveryImageWrite
  dsimp only
  exact ite_ok h h

theorem Good.answer {fn : Fn} {code : Nat} {data : List Byte} (h : Good A B s) : Good A B (answer s fn code data) :=
  h.bump.emit.emit

theorem Good.takeIndex (h : Good A B s) : OptOk (SndOk (Good A B)) (takeIndex s) := by
  unfold Machine.takeIndex
  extract_lets b
  generalize 2 ^ 40 = m
  exact ite_ok (P := OptOk (SndOk (Good A B))) trivial (ite_ok (P := OptOk (SndOk (Good A B))) h
    (ite_ok (P := OptOk (SndOk (Good A B))) trivial h))

theorem Good.signedAnswer {fn : Fn} {code : Nat} {body : List Byte} (h : Good A B s) :
    Good A B (signedAnswer s fn code body) := by
  unfold Machine.signedAnswer
  split
  · next e1 =>
      exact (h.takeIndex.get e1).answer
  · exact h.answer

theorem Good.execGetVersion {fn : Fn} (h : Good A B s) : Keeps A B (execGetVersion fn s) := h.answer

theorem Good.execGetCapabilities {fn : Fn} (h : Good A B s) : Keeps A B (execGetCapabilities fn s) := h.answer

theorem Good.execNegotiateAlgorithms {fn : Fn} (h : Good A B s) : Keeps A B (execNegotiateAlgorithms fn s) := h.answer

theorem Good.execGetDigests {fn : Fn} (h : Good A B s) : Keeps A B (execGetDigests fn s) := h.answer

theorem Good.execGetCertificate {fn : Fn} (h : Good A B s) : Keeps A B (execGetCertificate fn s) := h.answer

theorem Good.execChallenge {fn : Fn} (h : Good A B s) : Keeps A B (execChallenge fn s) := h.signedAnswer

theorem Good.execGetMeasurements {fn : Fn} {sign : Bool} (h : Good A B s) : Keeps A B (execGetMeasurements fn sign s) := by
  unfold Machine.execGetMeasurements
  show Good A B _
  exact ite_ok h.signedAnswer h.answer

/-! ### Integer and floating-point words -/

theorem Good.intBin {ty : ETy} {d : Dst} {a b : Src} {m : Msk} {sat : Bool} {v : ℤ → ℤ → ℤ} (h : Good A B s) :
    Keeps A B (intBin ty d a b m sat v s) :=
  h.elemOp

theorem Good.intUn {ty : ETy} {d : Dst} {a : Src} {m : Msk} {v : ℤ → ℤ} (h : Good A B s) : Keeps A B (intUn ty d a m v s) :=
  h.elemOp

theorem Good.bitBin {ty : ETy} {d : Dst} {a b : Src} {m : Msk} {v : Nat → Nat → Nat} (h : Good A B s) :
    Keeps A B (bitBin ty d a b m v s) :=
  h.elemOp

theorem Good.execVadd {ty : ETy} {d : Dst} {a b : Src} {m : Msk} {sat : Bool} (h : Good A B s) :
    Keeps A B (execVadd ty d a b m sat s) :=
  h.intBin

theorem Good.execVsub {ty : ETy} {d : Dst} {a b : Src} {m : Msk} {sat : Bool} (h : Good A B s) :
    Keeps A B (execVsub ty d a b m sat s) :=
  h.intBin

theorem Good.execVmul {ty : ETy} {d : Dst} {a b : Src} {m : Msk} {sat : Bool} (h : Good A B s) :
    Keeps A B (execVmul ty d a b m sat s) :=
  h.intBin

theorem Good.execVmulh {ty : ETy} {d : Dst} {a b : Src} {m : Msk} (h : Good A B s) : Keeps A B (execVmulh ty d a b m s) := h.intBin

theorem Good.execVmac {ty : ETy} {d : BitVec 4} {a b : Src} {m : Msk} (h : Good A B s) : Keeps A B (execVmac ty d a b m s) :=
  h.elemOp

theorem Good.execVmin {ty : ETy} {d : Dst} {a b : Src} {m : Msk} (h : Good A B s) : Keeps A B (execVmin ty d a b m s) := h.intBin

theorem Good.execVmax {ty : ETy} {d : Dst} {a b : Src} {m : Msk} (h : Good A B s) : Keeps A B (execVmax ty d a b m s) := h.intBin

theorem Good.execVabs {ty : ETy} {d : Dst} {a : Src} {m : Msk} (h : Good A B s) : Keeps A B (execVabs ty d a m s) := h.intUn

theorem Good.execVneg {ty : ETy} {d : Dst} {a : Src} {m : Msk} (h : Good A B s) : Keeps A B (execVneg ty d a m s) := h.intUn

theorem Good.execVand {ty : ETy} {d : Dst} {a b : Src} {m : Msk} (h : Good A B s) : Keeps A B (execVand ty d a b m s) := h.bitBin

theorem Good.execVor {ty : ETy} {d : Dst} {a b : Src} {m : Msk} (h : Good A B s) : Keeps A B (execVor ty d a b m s) := h.bitBin

theorem Good.execVxor {ty : ETy} {d : Dst} {a b : Src} {m : Msk} (h : Good A B s) : Keeps A B (execVxor ty d a b m s) := h.bitBin

theorem Good.execVnot {ty : ETy} {d : Dst} {a : Src} {m : Msk} (h : Good A B s) : Keeps A B (execVnot ty d a m s) := h.elemOp

theorem Good.execVshl {ty : ETy} {d : Dst} {a b : Src} {m : Msk} (h : Good A B s) : Keeps A B (execVshl ty d a b m s) := h.elemOp

theorem Good.execVshr {ty : ETy} {d : Dst} {a b : Src} {m : Msk} (h : Good A B s) : Keeps A B (execVshr ty d a b m s) := h.elemOp

theorem Good.execVsha {ty : ETy} {d : Dst} {a b : Src} {m : Msk} (h : Good A B s) : Keeps A B (execVsha ty d a b m s) := h.elemOp

theorem Good.execVpopc {ty : ETy} {d : Dst} {a : Src} {m : Msk} (h : Good A B s) : Keeps A B (execVpopc ty d a m s) := h.elemOp

theorem Good.execVclz {ty : ETy} {d : Dst} {a : Src} {m : Msk} (h : Good A B s) : Keeps A B (execVclz ty d a m s) := h.elemOp

theorem Good.execVcmp {ty : ETy} {d : Dst} {a b : Src} {m : Msk} {c : Cond} (h : Good A B s) :
    Keeps A B (execVcmp ty d a b m c s) :=
  h.elemOp

theorem Good.execVsel {ty : ETy} {d : BitVec 4} {a b : Src} {m : Msk} (h : Good A B s) : Keeps A B (execVsel ty d a b m s) :=
  h.laneOp

theorem Good.execVmov {d : Dst} {a : Src} {m : Msk} (h : Good A B s) : Keeps A B (execVmov d a m s) := h.laneOp

theorem Good.execVli {ty : ETy} {d : Dst} {imm : BitVec 16} (h : Good A B s) : Keeps A B (execVli ty d imm s) := h.laneOp

theorem Good.fpOp {ty : ETy} {d : Dst} {srcs : List Src} {m : Msk} {g : FFmt → List Nat → Nat × Flg} (h : Good A B s) :
    Keeps A B (fpOp ty d srcs m g s) :=
  h.elemOp

theorem Good.execFadd {ty : ETy} {d : Dst} {a b : Src} {m : Msk} (h : Good A B s) : Keeps A B (execFadd ty d a b m s) := h.fpOp

theorem Good.execFsub {ty : ETy} {d : Dst} {a b : Src} {m : Msk} (h : Good A B s) : Keeps A B (execFsub ty d a b m s) := h.fpOp

theorem Good.execFmul {ty : ETy} {d : Dst} {a b : Src} {m : Msk} (h : Good A B s) : Keeps A B (execFmul ty d a b m s) := h.fpOp

theorem Good.execFdiv {ty : ETy} {d : Dst} {a b : Src} {m : Msk} (h : Good A B s) : Keeps A B (execFdiv ty d a b m s) := h.fpOp

theorem Good.execFmin {ty : ETy} {d : Dst} {a b : Src} {m : Msk} (h : Good A B s) : Keeps A B (execFmin ty d a b m s) := h.fpOp

theorem Good.execFmax {ty : ETy} {d : Dst} {a b : Src} {m : Msk} (h : Good A B s) : Keeps A B (execFmax ty d a b m s) := h.fpOp

theorem Good.execFfma {ty : ETy} {d : BitVec 4} {a b : Src} {m : Msk} (h : Good A B s) : Keeps A B (execFfma ty d a b m s) := h.fpOp

theorem Good.execFfms {ty : ETy} {d : BitVec 4} {a b : Src} {m : Msk} (h : Good A B s) : Keeps A B (execFfms ty d a b m s) := h.fpOp

theorem Good.execFabs {ty : ETy} {d : Dst} {a : Src} {m : Msk} (h : Good A B s) : Keeps A B (execFabs ty d a m s) := h.fpOp

theorem Good.execFneg {ty : ETy} {d : Dst} {a : Src} {m : Msk} (h : Good A B s) : Keeps A B (execFneg ty d a m s) := h.fpOp

theorem Good.execFsqrt {ty : ETy} {d : Dst} {a : Src} {m : Msk} (h : Good A B s) : Keeps A B (execFsqrt ty d a m s) := h.fpOp

theorem Good.execFrsq {ty : ETy} {d : Dst} {a : Src} {m : Msk} (h : Good A B s) : Keeps A B (execFrsq ty d a m s) := h.fpOp

theorem Good.execFex2 {ty : ETy} {d : Dst} {a : Src} {m : Msk} (h : Good A B s) : Keeps A B (execFex2 ty d a m s) := h.fpOp

theorem Good.execFlg2 {ty : ETy} {d : Dst} {a : Src} {m : Msk} (h : Good A B s) : Keeps A B (execFlg2 ty d a m s) := h.fpOp

theorem Good.execFcmp {ty : ETy} {d : Dst} {a b : Src} {m : Msk} {c : Cond} (h : Good A B s) :
    Keeps A B (execFcmp ty d a b m c s) :=
  h.elemOp

theorem Good.execFcls {ty : ETy} {d : Dst} {a : Src} {m : Msk} (h : Good A B s) : Keeps A B (execFcls ty d a m s) := h.elemOp

/-! ### Conversions, reductions, permutes -/

theorem Good.execCvt {dst src : CFmt} {d : Dst} {a : Src} {m : Msk} (h : Good A B s) : Keeps A B (execCvt dst src d a m s) :=
  h.laneOp

theorem Good.execScl {ty : ETy} {d : Dst} {a b : Src} {m : Msk} (h : Good A B s) : Keeps A B (execScl ty d a b m s) := h.laneOp

theorem Good.execBfpk {d : Dst} {a : Src} {w : BitVec 4} {m : Msk} (h : Good A B s) : Keeps A B (execBfpk d a w m s) := h.laneOp

theorem Good.execBfup {d : Dst} {a : Src} {w : BitVec 4} {m : Msk} (h : Good A B s) : Keeps A B (execBfup d a w m s) := h.laneOp

theorem Good.reduceOp {ty : ETy} {d : Dst} {a : Src} {m : Msk} {f : List (Option Nat) → Nat × Flg} (h : Good A B s) :
    Keeps A B (reduceOp ty d a m f s) :=
  h.laneOp

theorem Good.execRsum {ty : ETy} {d : Dst} {a : Src} {m : Msk} (h : Good A B s) : Keeps A B (execRsum ty d a m s) := h.reduceOp

theorem Good.execRmax {ty : ETy} {d : Dst} {a : Src} {m : Msk} (h : Good A B s) : Keeps A B (execRmax ty d a m s) := h.reduceOp

theorem Good.execRmin {ty : ETy} {d : Dst} {a : Src} {m : Msk} (h : Good A B s) : Keeps A B (execRmin ty d a m s) := h.reduceOp

theorem Good.permOp {ty : ETy} {d : Dst} {srcs : List Src} {m : Msk} {f : List Tok → Nat → Nat × Bool} (h : Good A B s) :
    Keeps A B (permOp ty d srcs m f s) :=
  h.laneOp

theorem Good.execPerm {ty : ETy} {d : Dst} {a b : Src} {m : Msk} (h : Good A B s) : Keeps A B (execPerm ty d a b m s) := h.permOp

theorem Good.execBperm {ty : ETy} {d : Dst} {a b : Src} {m : Msk} (h : Good A B s) : Keeps A B (execBperm ty d a b m s) := h.permOp

theorem Good.execLshf {ty : ETy} {d : Dst} {a b : Src} {m : Msk} (h : Good A B s) : Keeps A B (execLshf ty d a b m s) := h.permOp

theorem Good.execBcst {ty : ETy} {d : Dst} {a : Src} {l : BitVec 5} {m : Msk} (h : Good A B s) :
    Keeps A B (execBcst ty d a l m s) :=
  h.permOp

theorem Good.execShuf {ty : ETy} {d : Dst} {a b : Src} {m : Msk} (h : Good A B s) : Keeps A B (execShuf ty d a b m s) := h.laneOp

theorem Good.modOp {d : Dst} {a b : Src} {m : Msk} {g : Nat → Nat → Nat → Nat → Nat → Nat} (h : Good A B s) :
    Keeps A B (modOp d a b m g s) :=
  h.laneOp

theorem Good.execMmul {d : Dst} {a b : Src} {m : Msk} (h : Good A B s) : Keeps A B (execMmul d a b m s) := h.modOp

theorem Good.execMadd {d : Dst} {a b : Src} {m : Msk} (h : Good A B s) : Keeps A B (execMadd d a b m s) := h.modOp

theorem Good.execMsub {d : Dst} {a b : Src} {m : Msk} (h : Good A B s) : Keeps A B (execMsub d a b m s) := h.modOp

theorem Good.execNttb {d : BitVec 4} {a b : Src} {m : Msk} (h : Good A B s) : Keeps A B (execNttb d a b m s) := h.laneOp

theorem Good.execPtst {ty : ETy} {d : Dst} {a : Src} {m : Msk} (h : Good A B s) : Keeps A B (execPtst ty d a m s) := h.laneOp

theorem Good.execElementPclr {ty : ETy} {d : Dst} {a : Src} {m : Msk} (h : Good A B s) :
    Keeps A B (execElementPclr ty d a m s) :=
  h.laneOp

theorem Good.execPfil {ty : ETy} {d : Dst} {a b : Src} {m : Msk} (h : Good A B s) : Keeps A B (execPfil ty d a b m s) := h.laneOp

theorem Good.execPset {ty : ETy} {d : Dst} {a b : Src} {m : Msk} (h : Good A B s) : Keeps A B (execPset ty d a b m s) := h.laneOp

/-! ### Matrix tiles -/

theorem Good.matDone {fi : Firing} {m : MState} (h : Good A B s) : Good A B (matDone s l t k fi m) :=
  Good.fireAt (h.updTile (fun _ i1 => i1))

theorem Good.execWld {a b : Src} (h : Good A B s) : Keeps A B (execWld a b s) := by
  unfold Machine.execWld
  refine Good.onElem h (fun _ _ _ _ i1 _ i2 _ _ => ?_)
  split
  · exact h.operandFault
  · dsimp only
    exact ite_ok h.wordFault (ite_ok h.wordFault h.matDone)

theorem Good.execWswp (h : Good A B s) : Keeps A B (execWswp s) := h.onElem (fun _ _ _ _ _ _ _ _ _ => h.matDone)

theorem Good.mmaOp {step : Macro → Nat → Nat → Nat × Flg → Nat × Tok → Nat × Flg} {a b : Src} {w : BitVec 4} {n : BitVec 2}
    (h : Good A B s) : Keeps A B (mmaOp step a b w n s) := by
  unfold Machine.mmaOp
  refine Good.onElem h (fun _ _ _ _ i1 _ i2 _ _ => ?_)
  split
  · exact h.operandFault
  · dsimp only
    split
    · split
      · exact h.wordFault
      · split
        · exact h.wordFault
        · split
          · exact h.wordFault
          · split
            · exact h.operandFault
            · exact h.matDone.updCtx
    · split
      · exact h.wordFault
      · split
        · exact h.wordFault
        · split
          · exact h.wordFault
          · split
            · exact h.operandFault
            · exact h.matDone.updCtx

theorem Good.execMma {a b : Src} {w : BitVec 4} {n : BitVec 2} (h : Good A B s) : Keeps A B (execMma a b w n s) := h.mmaOp

theorem Good.execMmai {a b : Src} {w : BitVec 4} {n : BitVec 2} (h : Good A B s) : Keeps A B (execMmai a b w n s) := h.mmaOp

theorem Good.execAcrd {ty : ETy} {d : Dst} {seg : BitVec 3} {n : BitVec 2} (h : Good A B s) :
    Keeps A B (execAcrd ty d seg n s) :=
  h.laneOp

theorem Good.execAccl {n : BitVec 2} (h : Good A B s) : Keeps A B (execAccl n s) := h.onElem (fun _ _ _ _ _ _ _ _ _ => h.matDone)

end Sys2Proof.Claims
end

section
/-! SUPPORT. Every instruction, and with it every step, keeps the canonical forms of the stores and of the tables. -/

namespace Sys2Proof.Claims
open Sys2Proof Sys2Proof.Machine

variable {A B : Prop} {s : State} {l t k id i n pa va : Nat} {bs : List Byte} {ps : List Bool} {ls : Lease} {x : Tile} {xd xa xb : BitVec 5}

/-! ### The match from an instruction to its meaning -/

theorem Good.exec {i : Instr} (h : Good A B s) : Keeps A B (exec i s) := by
  unfold Machine.exec
  split
  · exact h.execRoute
  · exact h.execFork
  · exact h.execMerge
  · exact h.execCut
  · exact h.execHold
  · exact h.execDly
  · exact h.execFwl
  · exact h.execTrap
  · exact h.execSrd
  · exact h.execSwr
  · exact h.execFence
  · exact h.execPtest
  · exact h.execPclr
  · exact h.execAdd
  · exact h.execSub
  · exact h.execMul
  · exact h.execMulh
  · exact h.execMulhu
  · exact h.execDiv
  · exact h.execDivu
  · exact h.execRem
  · exact h.execRemu
  · exact h.execAnd
  · exact h.execOr
  · exact h.execXor
  · exact h.execShl
  · exact h.execShr
  · exact h.execSha
  · exact h.execSlt
  · exact h.execSltu
  · exact h.execMin
  · exact h.execMax
  · exact h.execMinu
  · exact h.execMaxu
  · exact h.execClz
  · exact h.execPopc
  · exact h.execAddi
  · exact h.execAndi
  · exact h.execOri
  · exact h.execXori
  · exact h.execShli
  · exact h.execShri
  · exact h.execShai
  · exact h.execSlti
  · exact h.execSltiu
  · exact h.execLih
  · exact h.execLik
  · exact h.execBeq
  · exact h.execBne
  · exact h.execBlt
  · exact h.execBge
  · exact h.execBltu
  · exact h.execBgeu
  · exact h.execJmp
  · exact h.execJal
  · exact h.execJalr
  · exact h.execLd
  · exact h.execSt
  · exact h.execAmoAdd
  · exact h.execAmoAnd
  · exact h.execAmoOr
  · exact h.execAmoXor
  · exact h.execAmoMin
  · exact h.execAmoMax
  · exact h.execAmoMinu
  · exact h.execAmoMaxu
  · exact h.execAmoXchg
  · exact h.execAmoCas
  · exact h.execSnap
  · exact h.execSrel
  · exact h.execTxb
  · exact h.execTxc
  · exact h.execTxa
  · exact h.execTxs
  · exact h.execPubl
  · exact h.execCfg
  · exact h.execCswap
  · exact h.execWaitd
  · exact h.execDrain
  · exact h.execStrm
  · exact h.execGrpw
  · exact h.execEcopy
  · exact h.execEgath
  · exact h.execEcoll
  · exact h.execEwait
  · exact h.execLaunch
  · exact h.execLaunchr
  · exact h.execJoin
  · exact h.execVadd
  · exact h.execVsub
  · exact h.execVmul
  · exact h.execVmulh
  · exact h.execVmac
  · exact h.execVmin
  · exact h.execVmax
  · exact h.execVabs
  · exact h.execVneg
  · exact h.execVand
  · exact h.execVor
  · exact h.execVxor
  · exact h.execVnot
  · exact h.execVshl
  · exact h.execVshr
  · exact h.execVsha
  · exact h.execVpopc
  · exact h.execVclz
  · exact h.execVcmp
  · exact h.execVsel
  · exact h.execVmov
  · exact h.execVli
  · exact h.execFadd
  · exact h.execFsub
  · exact h.execFmul
  · exact h.execFfma
  · exact h.execFfms
  · exact h.execFmin
  · exact h.execFmax
  · exact h.execFabs
  · exact h.execFneg
  · exact h.execFdiv
  · exact h.execFsqrt
  · exact h.execFrsq
  · exact h.execFex2
  · exact h.execFlg2
  · exact h.execFcmp
  · exact h.execFcls
  · exact h.execCvt
  · exact h.execScl
  · exact h.execBfpk
  · exact h.execBfup
  · exact h.execRsum
  · exact h.execRmax
  · exact h.execRmin
  · exact h.execPerm
  · exact h.execBperm
  · exact h.execLshf
  · exact h.execBcst
  · exact h.execShuf
  · exact h.execMmul
  · exact h.execMadd
  · exact h.execMsub
  · exact h.execNttb
  · exact h.execPtst
  · exact h.execElementPclr
  · exact h.execPfil
  · exact h.execPset
  · exact h.execWaitf
  · exact h.execWaite
  · exact h.execAdv
  · exact h.execPub
  · exact h.execPeek
  · exact h.execEmit
  · exact h.execEos
  · exact h.execBr
  · exact h.execBz
  · exact h.execBnz
  · exact h.execLoop
  · exact h.execGbar
  · exact h.execElementTrap
  · exact h.execRdct
  · exact h.execCtrw
  · exact h.execTdl
  · exact h.execGen
  · exact h.execGath
  · exact h.execScat
  · exact h.execLdm
  · exact h.execStm
  · exact h.execPref
  · exact h.execOrdStep
  · exact h.execOrdFence
  · exact h.execLdt
  · exact h.execStt
  · exact h.execAadd
  · exact h.execAfad
  · exact h.execAmin
  · exact h.execAmax
  · exact h.execAand
  · exact h.execAor
  · exact h.execAxor
  · exact h.execAxch
  · exact h.execAcas
  · exact h.execSyna
  · exact h.execSynw
  · exact h.execWld
  · exact h.execMma
  · exact h.execMmai
  · exact h.execAcrd
  · exact h.execAccl
  · exact h.execIllegalOp
  · exact h.execNonInstr
  · exact h.execInvalidationComplete
  · exact h.execQueueSwitchInComplete
  · exact h.execAddressTokenAtSlice
  · exact h.execPagerFaultToken
  · exact h.execPagerBWaitEnd
  · exact h.execPagerFrameWaitEnd
  · exact h.execPagerReply
  · exact h.execParkLimitExpiry
  · exact h.execHbmRequest
  · exact h.execLlcMissFill
  · exact h.execDieScratchRequest
  · exact h.execTileStoreRequest
  · exact h.execMemoryReply
  · exact h.execSyncArrival
  · exact h.execSnapshotRead
  · exact h.execLockWaitResume
  · exact h.execLiveWriteVersioned
  · exact h.execPendingVersionWrite
  · exact h.execVersionReclaim
  · exact h.execChainRead
  · exact h.execChainOrdered
  · exact h.execChainReadPerformed
  · exact h.execChainWriteAck
  · exact h.execChainHeldRetry
  · exact h.execAtomicAtHome
  · exact h.execFiringStart
  · exact h.execTokenArrival
  · exact h.execCreditReturn
  · exact h.execControllerGoReceived
  · exact h.execContextGoReceived
  · exact h.execControllerDoneReceived
  · exact h.execPermitReceived
  · exact h.execGroupArrival
  · exact h.execPhaseResetReceived
  · exact h.execEnterRound
  · exact h.execPlaneSwap
  · exact h.execContextClose
  · exact h.execPhaseEnd
  · exact h.execTilePass
  · exact h.execStreamInputToken
  · exact h.execStreamOutputToken
  · exact h.execEngineComplete
  · exact h.execSynaGroupRecord
  · exact h.execQosSliceExpiry
  · exact h.execWatchdogExpiry
  · exact h.execCutComplete
  · exact h.execSaveComplete
  · exact h.execRestoreComplete
  · exact h.execStopComplete
  · exact h.execPairedExitRequest
  · exact h.execTickAdvance
  · exact h.execUnitZeroingDone
  · exact h.execDrainTimeout
  · exact h.execTwinTimeout
  · exact h.execPagerHostCopyDone
  · exact h.execReachThroughCopyExpiry
  · exact h.execRunAheadLoad
  · exact Keeps.execDeviceReset
  · exact h.execRegisterWrite
  · exact h.execInvctlGo
  · exact h.execPoolWrite
  · exact h.execPoollvlTailWrite
  · exact h.execPctlClr
  · exact h.execQownWrite
  · exact h.execQswInWrite
  · exact h.execQueueTailWrite
  · exact h.execQctlEnWrite
  · exact h.execErrclr
  · exact h.execSelect
  · exact h.execLeaseEnd
  · exact h.execRetrysave
  · exact h.execPriResponse
  · exact h.execAtsInvalidationRequest
  · exact h.execHostCompletion
  · exact h.execUncorrectableError
  · exact h.execLinkFlitRetry
  · exact h.execFatalError
  · exact h.execCreditAuditWindow
  · exact h.execCouplerLinkChange
  · exact h.execPeerRequest
  · exact h.execPeerPanelReset
  · exact h.execCouplerStreamToken
  · exact h.execGetVersion
  · exact h.execGetCapabilities
  · exact h.execNegotiateAlgorithms
  · exact h.execGetDigests
  · exact h.execGetCertificate
  · exact h.execChallenge
  · exact h.execGetMeasurements
  · exact h.execRecoveryImageWrite
  · exact h.execThrottleStep
  · exact h.execCommitLockRequest
  · exact h.execCommitInstall
  · exact h.execCommitWaitEnd
  · exact h.execRootDoneReceived
  · exact h.execFaultRecordWrite
  · exact h.execTrapTaken
  · exact h.execSwitchNop
  · exact h.execNop
  · exact h.execHalt
  · exact h.execEret
  · exact h.execYieldTurn
  · exact h.execGo
  · exact h.execElementNop
  · exact h.execExit
  · exact h.execWswp
  · exact h.execTcset
  · exact h.execTcclr
  · exact h.execDsgrant
  · exact h.execDsrevoke
  · exact h.execScrub
  · exact h.execPoolsz
  · exact h.execMemoryCommandApplied
  · exact h.execDiectlGo
  · exact h.execDieEvacuationComplete
  · exact h.execDieQuiesceComplete
  · exact h.execDieRestart
  · exact h.execClockHorizon
  · exact h.execClockRebaseComplete
  · exact h.execClockStop
  · exact h.execCollectorPass
  · exact h.execCheckpoint
  · exact h.execShunterRound
  · exact h.execFabricCycle

/-! ### Fetching -/

theorem Good.setWord {rep : Bool} {w : Word} (h : Good A B s) : Good A B (setWord s l rep w) := h.updSeq

theorem Good.runSeqWord {rep : Bool} {w : Word} (h : Good A B s) : FetchedOk A B (runSeqWord l rep w s) := by
  unfold Machine.runSeqWord
  split
  · exact h.setWord
  · exact h.setWord

theorem Good.fetchMiss {rep : Bool} {q : Machine.Seq} (h : Good A B s) : FetchedOk A B (fetchMiss s l rep q) := by
  unfold Machine.fetchMiss
  split
  · next e1 =>
      exact (h.vread.get e1).updSeq
  · next e2 =>
      exact (h.vread.get e2).setWord.seqFault
  · next e3 =>
      exact h.vread.get e3
  · next e4 =>
      dsimp only
      split
      · exact (h.vread.get e4).setWord.seqFault
      · split
        · exact (h.vread.get e4).bump.runSeqWord
        · exact (h.vread.get e4).updSeq.runSeqWord

theorem Good.fetchSeq {rep : Bool} (h : Good A B s) : FetchedOk A B (fetchSeq s l rep) := by
  unfold Machine.fetchSeq
  split
  · exact h
  · dsimp only
    split
    · exact h
    · split
      · exact h
      · split
        · split
          · exact h
          · split
            · exact h
            · split
              · exact h
              · split
                · exact h.setWord.seqFault
                · split
                  · exact h.runSeqWord
                  · exact h.fetchMiss
        · split
          · exact h
          · split
            · exact h
            · split
              · exact h
              · split
                · exact h.setWord.seqFault
                · split
                  · exact h.runSeqWord
                  · exact h.fetchMiss

theorem Good.runOpWord {c : Ctx} {fi : Firing} (h : Good A B s) : FetchedOk A B (runOpWord s l t k ls x c fi) := by
  unfold Machine.runOpWord
  dsimp only
  split
  · exact h.wordFault
  · split
    · exact h
    · split
      · exact h
      · split
        · exact h.wordFault
        · split
          · exact h
          · exact h

theorem Good.issueWord {fi : Firing} (h : Good A B s) : Good A B (issueWord s l t k fi) :=
  Good.updCtx (ite_ok (h.updTile (fun _ i1 => i1.takeTurn)) h)

theorem Good.fetchElem (h : Good A B s) : FetchedOk A B (fetchElem s l t k) := by
  unfold Machine.fetchElem
  split
  · exact h
  · split
    · exact h
    · dsimp only
      split
      · exact h
      · split
        · exact h
        · exact ite_ok (Good.wordFault (ite_ok h.issueWord h)) (Good.runOpWord (ite_ok h.issueWord h))

theorem Good.fetchSw (h : Good A B s) : FetchedOk A B (fetchSw s l t i) := by
  unfold Machine.fetchSw
  split
  · exact h
  · split
    · exact h
    · split
      · exact h
      · split
        · exact Good.noteFault (h.updTile (fun _ i1 => i1))
        · split
          · exact h
          · exact h

theorem Good.fetchTurn {a : Turn} (h : Good A B s) : FetchedOk A B (fetchTurn s a) := by
  unfold Machine.fetchTurn
  split
  · exact ite_ok h h
  · exact ite_ok h h
  · exact ite_ok h h
  · exact ite_ok (Good.fetchSeq h) h
  · exact ite_ok (Good.fetchElem h) h
  · exact ite_ok (Good.fetchSw h) h

/-! ### The turns of a fabric cycle -/

theorem Good.refill (h : Good A B s) : Good A B (refill s) := by
  unfold Machine.refill
  dsimp only
  dsimp only [Good]
  exact h.bump

/-! ### The step -/

/-- One step of the panel keeps the canonical forms: the turn is fetched, then its instruction, its audit or nothing runs. -/
theorem Good.step {s : State} (h : Good A B s) : Keeps A B (step s) := by
  unfold Machine.step
  split
  · exact h.refill
  · next rest _ =>
    have h0 : Good A B { s with agenda := rest, cur := .none } := h
    split
    · next e => exact (h0.fetchTurn.get e).exec
    · next e => exact (h0.fetchTurn.get e).execCreditAuditWindow
    · next e => exact h0.fetchTurn.get e

/-! ### The two invariants -/

theorem allOk_iff_all {α : Type} {P : α → Prop} {p : α → Bool} {m : List (Nat × α)} (h : ∀ x, P x ↔ p x = true) :
    AllOk P m ↔ (m.all fun e => p e.2) = true := by
  simp only [AllOk, List.all_eq_true, h]

theorem leaseOk_iff (ls : Lease) : LeaseOk True ls ↔ Lease.storesWf ls = true :=
  allOk_iff_all fun _ => ⟨fun h => h trivial, fun h _ => h⟩

/-- With only the stores asked for, a good state is one whose stores have their canonical form. -/
theorem good_iff_storesWf (s : State) : Good True False s ↔ s.storesWf = true := by
  have hall (m : List (Nat × Lease)) := allOk_iff_all (m := m) leaseOk_iff
  unfold State.storesWf
  rw [Bool.and_eq_true, Bool.and_eq_true]
  constructor
  · rintro ⟨hm, hl, hw, -, -⟩
    exact ⟨⟨hm trivial, (hall _).1 hl⟩, (hall _).1 hw⟩
  · rintro ⟨⟨hm, hl⟩, hw⟩
    exact ⟨fun _ => hm, (hall _).2 hl, (hall _).2 hw, False.elim, False.elim⟩

/-- With only the tables asked for, a good state is one whose tables are in order. -/
theorem good_iff_tables (s : State) : Good False True s ↔ mwf s.reqs = true ∧ mwf s.lines = true := by
  constructor
  · rintro ⟨-, -, -, hr, hn⟩
    exact ⟨hr trivial, hn trivial⟩
  · rintro ⟨hr, hn⟩
    exact ⟨False.elim, fun _ _ _ _ => False.elim, fun _ _ _ _ => False.elim, fun _ => hr, fun _ => hn⟩

theorem good_of_step {s t : State} (h : Good A B s) (hst : step s = .next t) : Good A B t := by
  have hk := h.step
  rw [hst] at hk
  exact hk

/-- Settles O57: every function of the model that gives a state keeps the canonical form of the stores, and the step is made of
them. -/
theorem stepKeepsStores : Obligations.step_keeps_stores := by
  intro s t hs hst
  exact (good_iff_storesWf t).1 (good_of_step ((good_iff_storesWf s).2 hs) hst)

/-- Settles O58, by the same argument with the tables of requests and of versioned lines asked for. -/
theorem stepKeepsTables : Obligations.step_keeps_tables := by
  intro s t hr hn hst
  exact (good_iff_tables t).1 (good_of_step ((good_iff_tables s).2 ⟨hr, hn⟩) hst)

end Sys2Proof.Claims
end
